-- ==== Sys2Proof/Word.lean ====
section
/-! DEFINITION. The word types of the machine, the b operand of the V format, and what the events carry that have no encoding. -/

namespace Sys2Proof

/-- A 64-bit scalar or register value. -/
abbrev Word := BitVec 64

/-- One byte of memory. -/
abbrev Byte := BitVec 8

/-- The b operand of the V format, by form (R56): a vector row, a captured scalar name, a 7-bit immediate, or the
trailing literal. -/
inductive VSrc where
  | vv (b : BitVec 7)
  | vs (b : BitVec 7)
  | vi (b : BitVec 7)
  | vl (lit : BitVec 32)
deriving DecidableEq, Repr

/-- A flit of a Rein link (R372): the header's fields and the payload. The CRC and the error correction follow from them (log 95). -/
structure Flit where
  seq : BitVec 12
  vc : BitVec 8
  dest : BitVec 6
  kind : BitVec 8
  payload : BitVec 1824
deriving DecidableEq, Repr

/-- A NAK (R373): the link it comes on and the number of the flit it names. -/
structure Nak where
  link : BitVec 6
  seq : BitVec 12
deriving DecidableEq, Repr

/-- A link that comes up, and the package at its far side (R374, R395). -/
structure LinkEnd where
  link : BitVec 6
  peer : BitVec 6
deriving DecidableEq, Repr

/-- A bank that leaves retention, and how many errors were corrected on the way (R329). -/
structure BankExit where
  bank : BitVec 6
  corrected : BitVec 16
deriving DecidableEq, Repr

/-- What a package reset meets (R369, R370): the step that fails, 0 for none, the verdicts of the two signatures and the version of the
image. -/
structure BringUp where
  failStep : BitVec 3
  edSig : BitVec 1
  mlSig : BitVec 1
  version : BitVec 32
deriving DecidableEq, Repr

/-- The offset and the size in bytes of a host request (R361, R368). -/
structure HostSpan where
  off : BitVec 40
  size : BitVec 13
deriving DecidableEq, Repr

end Sys2Proof
end

