-- ==== Sys2Proof/Syntax.lean ====
section
/-! DEFINITION. The abstract syntax of Tilmon 1.0: one constructor of `Instr` per row of spec/opcode_table.json.
Register names are the 7-bit operand fields of R54/R55; a narrower field has its own width.  The rows of the table
without an encoding are the events of the machine (interrupts, completions, host requests); their arguments are what
the event carries. -/

namespace Sys2Proof

/-- The instructions and events of the opcode table. -/
inductive Instr where
  /-- ADD (R95). Writes A + B modulo 2^64 to the scalar destination. -/
  | add (d : BitVec 7) (a : BitVec 7) (b : BitVec 7)
  /-- SUB (R95). Writes A - B modulo 2^64 to the scalar destination. -/
  | sub (d : BitVec 7) (a : BitVec 7) (b : BitVec 7)
  /-- AND (R95). Writes A and B to the scalar destination. -/
  | and (d : BitVec 7) (a : BitVec 7) (b : BitVec 7)
  /-- OR (R95). Writes A or B to the scalar destination. -/
  | or (d : BitVec 7) (a : BitVec 7) (b : BitVec 7)
  /-- XOR (R95). Writes A xor B to the scalar destination. -/
  | xor (d : BitVec 7) (a : BitVec 7) (b : BitVec 7)
  /-- ANDN (R95). Writes A and not B to the scalar destination. -/
  | andn (d : BitVec 7) (a : BitVec 7) (b : BitVec 7)
  /-- ORN (R95). Writes A or not B to the scalar destination. -/
  | orn (d : BitVec 7) (a : BitVec 7) (b : BitVec 7)
  /-- SLL (R95). Shifts A left by B<5:0>. -/
  | sll (d : BitVec 7) (a : BitVec 7) (b : BitVec 7)
  /-- SRL (R95). Shifts A right by B<5:0>, zeros in. -/
  | srl (d : BitVec 7) (a : BitVec 7) (b : BitVec 7)
  /-- SRA (R95). Shifts A right by B<5:0>, sign in. -/
  | sra (d : BitVec 7) (a : BitVec 7) (b : BitVec 7)
  /-- ROR (R95). Rotates A right by B<5:0>. -/
  | ror (d : BitVec 7) (a : BitVec 7) (b : BitVec 7)
  /-- MUL (R95). Writes bits 63:0 of A times B. -/
  | mul (d : BitVec 7) (a : BitVec 7) (b : BitVec 7)
  /-- MULH (R95). Writes bits 127:64 of the signed product. -/
  | mulh (d : BitVec 7) (a : BitVec 7) (b : BitVec 7)
  /-- MULHU (R95). Writes bits 127:64 of the unsigned product. -/
  | mulhu (d : BitVec 7) (a : BitVec 7) (b : BitVec 7)
  /-- DIV (R95). Signed division truncated toward zero, never trapping (R87). -/
  | div (d : BitVec 7) (a : BitVec 7) (b : BitVec 7)
  /-- DIVU (R95). Unsigned division, never trapping. -/
  | divu (d : BitVec 7) (a : BitVec 7) (b : BitVec 7)
  /-- REM (R95). Signed remainder. -/
  | rem (d : BitVec 7) (a : BitVec 7) (b : BitVec 7)
  /-- REMU (R95). Unsigned remainder. -/
  | remu (d : BitVec 7) (a : BitVec 7) (b : BitVec 7)
  /-- MIN (R95). Writes the signed smaller of A and B. -/
  | min (d : BitVec 7) (a : BitVec 7) (b : BitVec 7)
  /-- MAX (R95). Writes the signed larger of A and B. -/
  | max (d : BitVec 7) (a : BitVec 7) (b : BitVec 7)
  /-- MINU (R95). Writes the unsigned smaller of A and B. -/
  | minu (d : BitVec 7) (a : BitVec 7) (b : BitVec 7)
  /-- MAXU (R95). Writes the unsigned larger of A and B. -/
  | maxu (d : BitVec 7) (a : BitVec 7) (b : BitVec 7)
  /-- ADDW (R95). Adds modulo 2^32 and sign-extends bit 31. -/
  | addw (d : BitVec 7) (a : BitVec 7) (b : BitVec 7)
  /-- SUBW (R95). Subtracts modulo 2^32 and sign-extends bit 31. -/
  | subw (d : BitVec 7) (a : BitVec 7) (b : BitVec 7)
  /-- SEQ (R95). Writes 1 when A equals B, else 0. -/
  | seq (d : BitVec 7) (a : BitVec 7) (b : BitVec 7)
  /-- SNE (R95). Writes 1 when A differs from B, else 0. -/
  | sne (d : BitVec 7) (a : BitVec 7) (b : BitVec 7)
  /-- SLT (R95). Writes 1 when A < B signed. -/
  | slt (d : BitVec 7) (a : BitVec 7) (b : BitVec 7)
  /-- SGE (R95). Writes 1 when A >= B signed. -/
  | sge (d : BitVec 7) (a : BitVec 7) (b : BitVec 7)
  /-- SLTU (R95). Writes 1 when A < B unsigned. -/
  | sltu (d : BitVec 7) (a : BitVec 7) (b : BitVec 7)
  /-- SGEU (R95). Writes 1 when A >= B unsigned. -/
  | sgeu (d : BitVec 7) (a : BitVec 7) (b : BitVec 7)
  /-- ADDI (R96). Adds the sign-extended 12-bit immediate to A. -/
  | addi (d : BitVec 7) (a : BitVec 7) (im : BitVec 12)
  /-- ANDI (R96). Ands A with the sign-extended immediate. -/
  | andi (d : BitVec 7) (a : BitVec 7) (im : BitVec 12)
  /-- ORI (R96). Ors A with the sign-extended immediate. -/
  | ori (d : BitVec 7) (a : BitVec 7) (im : BitVec 12)
  /-- XORI (R96). Xors A with the sign-extended immediate. -/
  | xori (d : BitVec 7) (a : BitVec 7) (im : BitVec 12)
  /-- SLLI (R96). Shifts A left by an immediate amount. -/
  | slli (d : BitVec 7) (a : BitVec 7) (sf : BitVec 6)
  /-- SRLI (R96). Shifts A right logically by an immediate amount. -/
  | srli (d : BitVec 7) (a : BitVec 7) (sf : BitVec 6)
  /-- SRAI (R96). Shifts A right arithmetically by an immediate amount. -/
  | srai (d : BitVec 7) (a : BitVec 7) (sf : BitVec 6)
  /-- RORI (R96). Rotates A right by an immediate amount. -/
  | rori (d : BitVec 7) (a : BitVec 7) (sf : BitVec 6)
  /-- CLZ (R97). Counts leading zero bits of A. -/
  | clz (d : BitVec 7) (a : BitVec 7)
  /-- CTZ (R97). Counts trailing zero bits of A. -/
  | ctz (d : BitVec 7) (a : BitVec 7)
  /-- POPC (R97). Counts set bits of A. -/
  | popc (d : BitVec 7) (a : BitVec 7)
  /-- SEXTB (R97). Sign-extends the low 8 bits of A. -/
  | sextb (d : BitVec 7) (a : BitVec 7)
  /-- SEXTH (R97). Sign-extends the low 16 bits of A. -/
  | sexth (d : BitVec 7) (a : BitVec 7)
  /-- SEXTW (R97). Sign-extends the low 32 bits of A. -/
  | sextw (d : BitVec 7) (a : BitVec 7)
  /-- ZEXTB (R97). Zero-extends the low 8 bits of A. -/
  | zextb (d : BitVec 7) (a : BitVec 7)
  /-- ZEXTH (R97). Zero-extends the low 16 bits of A. -/
  | zexth (d : BitVec 7) (a : BitVec 7)
  /-- ZEXTW (R97). Zero-extends the low 32 bits of A. -/
  | zextw (d : BitVec 7) (a : BitVec 7)
  /-- BSWAP (R97). Reverses the eight bytes of A. -/
  | bswap (d : BitVec 7) (a : BitVec 7)
  /-- LDB (R99). Loads a sign-extended byte from A plus a scaled offset. -/
  | ldb (d : BitVec 7) (a : BitVec 7) (o : BitVec 9)
  /-- LDBU (R99). Loads a zero-extended byte. -/
  | ldbu (d : BitVec 7) (a : BitVec 7) (o : BitVec 9)
  /-- LDH (R99). Loads a sign-extended halfword. -/
  | ldh (d : BitVec 7) (a : BitVec 7) (o : BitVec 9)
  /-- LDHU (R99). Loads a zero-extended halfword. -/
  | ldhu (d : BitVec 7) (a : BitVec 7) (o : BitVec 9)
  /-- LDW (R99). Loads a sign-extended word. -/
  | ldw (d : BitVec 7) (a : BitVec 7) (o : BitVec 9)
  /-- LDWU (R99). Loads a zero-extended word. -/
  | ldwu (d : BitVec 7) (a : BitVec 7) (o : BitVec 9)
  /-- LDD (R99). Loads a doubleword. -/
  | ldd (d : BitVec 7) (a : BitVec 7) (o : BitVec 9)
  /-- STB (R99). Stores the low byte of the source named by d. -/
  | stb (d : BitVec 7) (a : BitVec 7) (o : BitVec 9)
  /-- STH (R99). Stores the low halfword. -/
  | sth (d : BitVec 7) (a : BitVec 7) (o : BitVec 9)
  /-- STW (R99). Stores the low word. -/
  | stw (d : BitVec 7) (a : BitVec 7) (o : BitVec 9)
  /-- STD (R99). Stores the doubleword. -/
  | std (d : BitVec 7) (a : BitVec 7) (o : BitVec 9)
  /-- LDXB (R99). Indexed load of a sign-extended byte, index optionally scaled. -/
  | ldxb (d : BitVec 7) (a : BitVec 7) (b : BitVec 7) (sf : BitVec 1)
  /-- LDXBU (R99). Indexed load of a zero-extended byte. -/
  | ldxbu (d : BitVec 7) (a : BitVec 7) (b : BitVec 7) (sf : BitVec 1)
  /-- LDXH (R99). Indexed load of a sign-extended halfword. -/
  | ldxh (d : BitVec 7) (a : BitVec 7) (b : BitVec 7) (sf : BitVec 1)
  /-- LDXHU (R99). Indexed load of a zero-extended halfword. -/
  | ldxhu (d : BitVec 7) (a : BitVec 7) (b : BitVec 7) (sf : BitVec 1)
  /-- LDXW (R99). Indexed load of a sign-extended word. -/
  | ldxw (d : BitVec 7) (a : BitVec 7) (b : BitVec 7) (sf : BitVec 1)
  /-- LDXWU (R99). Indexed load of a zero-extended word. -/
  | ldxwu (d : BitVec 7) (a : BitVec 7) (b : BitVec 7) (sf : BitVec 1)
  /-- LDXD (R99). Indexed load of a doubleword. -/
  | ldxd (d : BitVec 7) (a : BitVec 7) (b : BitVec 7) (sf : BitVec 1)
  /-- STXB (R99). Indexed store of a byte. -/
  | stxb (d : BitVec 7) (a : BitVec 7) (b : BitVec 7) (sf : BitVec 1)
  /-- STXH (R99). Indexed store of a halfword. -/
  | stxh (d : BitVec 7) (a : BitVec 7) (b : BitVec 7) (sf : BitVec 1)
  /-- STXW (R99). Indexed store of a word. -/
  | stxw (d : BitVec 7) (a : BitVec 7) (b : BitVec 7) (sf : BitVec 1)
  /-- STXD (R99). Indexed store of a doubleword. -/
  | stxd (d : BitVec 7) (a : BitVec 7) (b : BitVec 7) (sf : BitVec 1)
  /-- FADD (R102). Scalar FP32 addition rounded under FRM. -/
  | fadd (d : BitVec 7) (a : BitVec 7) (b : BitVec 7)
  /-- FSUB (R102). Scalar FP32 subtraction. -/
  | fsub (d : BitVec 7) (a : BitVec 7) (b : BitVec 7)
  /-- FMUL (R102). Scalar FP32 multiplication. -/
  | fmul (d : BitVec 7) (a : BitVec 7) (b : BitVec 7)
  /-- FDIV (R102). Scalar FP32 division. -/
  | fdiv (d : BitVec 7) (a : BitVec 7) (b : BitVec 7)
  /-- FSQRT (R102). Scalar FP32 square root. -/
  | fsqrt (d : BitVec 7) (a : BitVec 7)
  /-- FMIN (R102). Scalar FP32 minimum per R84. -/
  | fmin (d : BitVec 7) (a : BitVec 7) (b : BitVec 7)
  /-- FMAX (R102). Scalar FP32 maximum per R84. -/
  | fmax (d : BitVec 7) (a : BitVec 7) (b : BitVec 7)
  /-- FEQ (R102). Scalar FP32 equality test. -/
  | feq (d : BitVec 7) (a : BitVec 7) (b : BitVec 7)
  /-- FLT (R102). Scalar FP32 less-than test. -/
  | flt (d : BitVec 7) (a : BitVec 7) (b : BitVec 7)
  /-- FLE (R102). Scalar FP32 less-or-equal test. -/
  | fle (d : BitVec 7) (a : BitVec 7) (b : BitVec 7)
  /-- FCLASS (R102). Writes the class word of an FP32 value. -/
  | fclass (d : BitVec 7) (a : BitVec 7)
  /-- FCVTSW (R102). Converts INT32 to FP32. -/
  | fcvtsw (d : BitVec 7) (a : BitVec 7)
  /-- FCVTSWU (R102). Converts UINT32 to FP32. -/
  | fcvtswu (d : BitVec 7) (a : BitVec 7)
  /-- FCVTWS (R102). Converts FP32 to INT32 per R86. -/
  | fcvtws (d : BitVec 7) (a : BitVec 7)
  /-- FCVTWUS (R102). Converts FP32 to UINT32 per R86. -/
  | fcvtwus (d : BitVec 7) (a : BitVec 7)
  /-- FCVTHS (R102). Converts FP32 to FP16. -/
  | fcvths (d : BitVec 7) (a : BitVec 7)
  /-- FCVTSH (R102). Converts FP16 to FP32. -/
  | fcvtsh (d : BitVec 7) (a : BitVec 7)
  /-- FCVTBS (R102). Converts FP32 to BF16. -/
  | fcvtbs (d : BitVec 7) (a : BitVec 7)
  /-- FCVTSB (R102). Converts BF16 to FP32. -/
  | fcvtsb (d : BitVec 7) (a : BitVec 7)
  /-- FMADD (R103). Fused A times B plus the addend held in d. -/
  | fmadd (d : BitVec 7) (a : BitVec 7) (b : BitVec 7)
  /-- FMSUB (R103). Fused A times B minus the addend. -/
  | fmsub (d : BitVec 7) (a : BitVec 7) (b : BitVec 7)
  /-- FNMADD (R103). Fused negated product minus the addend. -/
  | fnmadd (d : BitVec 7) (a : BitVec 7) (b : BitVec 7)
  /-- FNMSUB (R103). Fused negated product plus the addend. -/
  | fnmsub (d : BitVec 7) (a : BitVec 7) (b : BitVec 7)
  /-- MFS (R104). Reads a system register, waiting for the vector stream where R30 says. -/
  | mfs (d : BitVec 7) (n : BitVec 12)
  /-- MTS (R104). Writes a system register that has no row of its own, with the checks of R40. -/
  | mts (a : BitVec 7) (n : BitVec 12)
  /-- VADD (R135). Element-wise integer addition over the tile. -/
  | vadd (d : BitVec 7) (a : BitVec 7) (b : VSrc) (m : BitVec 1)
  /-- VSUB (R135). Element-wise integer a - b. -/
  | vsub (d : BitVec 7) (a : BitVec 7) (b : VSrc) (m : BitVec 1)
  /-- VRSUB (R135). Element-wise integer b - a. -/
  | vrsub (d : BitVec 7) (a : BitVec 7) (b : VSrc) (m : BitVec 1)
  /-- VMUL (R135). Element-wise low product. -/
  | vmul (d : BitVec 7) (a : BitVec 7) (b : VSrc) (m : BitVec 1)
  /-- VMULH (R135). Element-wise high product by ETYPE's sign. -/
  | vmulh (d : BitVec 7) (a : BitVec 7) (b : VSrc) (m : BitVec 1)
  /-- VMIN (R135). Element-wise signed minimum. -/
  | vmin (d : BitVec 7) (a : BitVec 7) (b : VSrc) (m : BitVec 1)
  /-- VMAX (R135). Element-wise signed maximum. -/
  | vmax (d : BitVec 7) (a : BitVec 7) (b : VSrc) (m : BitVec 1)
  /-- VMINU (R135). Element-wise unsigned minimum. -/
  | vminu (d : BitVec 7) (a : BitVec 7) (b : VSrc) (m : BitVec 1)
  /-- VMAXU (R135). Element-wise unsigned maximum. -/
  | vmaxu (d : BitVec 7) (a : BitVec 7) (b : VSrc) (m : BitVec 1)
  /-- VAND (R135). Element-wise and. -/
  | vand (d : BitVec 7) (a : BitVec 7) (b : VSrc) (m : BitVec 1)
  /-- VOR (R135). Element-wise or. -/
  | vor (d : BitVec 7) (a : BitVec 7) (b : VSrc) (m : BitVec 1)
  /-- VXOR (R135). Element-wise xor. -/
  | vxor (d : BitVec 7) (a : BitVec 7) (b : VSrc) (m : BitVec 1)
  /-- VSLL (R135). Element-wise left shift. -/
  | vsll (d : BitVec 7) (a : BitVec 7) (b : VSrc) (m : BitVec 1)
  /-- VSRL (R135). Element-wise logical right shift. -/
  | vsrl (d : BitVec 7) (a : BitVec 7) (b : VSrc) (m : BitVec 1)
  /-- VSRA (R135). Element-wise arithmetic right shift. -/
  | vsra (d : BitVec 7) (a : BitVec 7) (b : VSrc) (m : BitVec 1)
  /-- VADDS (R135). Element-wise saturating addition setting SAT when clamped. -/
  | vadds (d : BitVec 7) (a : BitVec 7) (b : VSrc) (m : BitVec 1)
  /-- VFADD (R136). Element-wise FP addition rounded once. -/
  | vfadd (d : BitVec 7) (a : BitVec 7) (b : VSrc) (m : BitVec 1)
  /-- VFSUB (R136). Element-wise FP subtraction. -/
  | vfsub (d : BitVec 7) (a : BitVec 7) (b : VSrc) (m : BitVec 1)
  /-- VFMUL (R136). Element-wise FP multiplication. -/
  | vfmul (d : BitVec 7) (a : BitVec 7) (b : VSrc) (m : BitVec 1)
  /-- VFDIV (R136). Element-wise FP division. -/
  | vfdiv (d : BitVec 7) (a : BitVec 7) (b : VSrc) (m : BitVec 1)
  /-- VFMIN (R136). Element-wise FP minimum per R84. -/
  | vfmin (d : BitVec 7) (a : BitVec 7) (b : VSrc) (m : BitVec 1)
  /-- VFMAX (R136). Element-wise FP maximum per R84. -/
  | vfmax (d : BitVec 7) (a : BitVec 7) (b : VSrc) (m : BitVec 1)
  /-- VFSQRT (R136). Element-wise FP square root. -/
  | vfsqrt (d : BitVec 7) (a : BitVec 7) (m : BitVec 1)
  /-- VEXP2 (R90). Element-wise base-2 exponential computed as R90 fixes. -/
  | vexp2 (d : BitVec 7) (a : BitVec 7) (m : BitVec 1)
  /-- VLOG2 (R91). Element-wise base-2 logarithm computed as R91 fixes. -/
  | vlog2 (d : BitVec 7) (a : BitVec 7) (m : BitVec 1)
  /-- VRCP (R136). Element-wise correctly rounded reciprocal. -/
  | vrcp (d : BitVec 7) (a : BitVec 7) (m : BitVec 1)
  /-- VRSQRT (R136). Element-wise correctly rounded reciprocal square root. -/
  | vrsqrt (d : BitVec 7) (a : BitVec 7) (m : BitVec 1)
  /-- VFSGN (R136). Replaces each element's sign bit with that of b. -/
  | vfsgn (d : BitVec 7) (a : BitVec 7) (b : VSrc) (m : BitVec 1)
  /-- VFMA (R137). Element-wise fused d times a plus b. -/
  | vfma (d : BitVec 7) (a : BitVec 7) (b : VSrc) (m : BitVec 1)
  /-- VFMS (R137). Element-wise fused d times a minus b. -/
  | vfms (d : BitVec 7) (a : BitVec 7) (b : VSrc) (m : BitVec 1)
  /-- VFNMA (R137). Element-wise fused negated product minus b. -/
  | vfnma (d : BitVec 7) (a : BitVec 7) (b : VSrc) (m : BitVec 1)
  /-- VFNMS (R137). Element-wise fused negated product plus b. -/
  | vfnms (d : BitVec 7) (a : BitVec 7) (b : VSrc) (m : BitVec 1)
  /-- VMADD (R137). Element-wise integer d times a plus b. -/
  | vmadd (d : BitVec 7) (a : BitVec 7) (b : VSrc) (m : BitVec 1)
  /-- VMSUB (R137). Element-wise integer d times a minus b. -/
  | vmsub (d : BitVec 7) (a : BitVec 7) (b : VSrc) (m : BitVec 1)
  /-- VSEQ (R138). Writes predicate bits for equal patterns. -/
  | vseq (d : BitVec 7) (a : BitVec 7) (b : VSrc) (m : BitVec 1)
  /-- VSNE (R138). Writes predicate bits for unequal patterns. -/
  | vsne (d : BitVec 7) (a : BitVec 7) (b : VSrc) (m : BitVec 1)
  /-- VSLT (R138). Writes predicate bits for signed less-than. -/
  | vslt (d : BitVec 7) (a : BitVec 7) (b : VSrc) (m : BitVec 1)
  /-- VSGE (R138). Writes predicate bits for signed greater-or-equal. -/
  | vsge (d : BitVec 7) (a : BitVec 7) (b : VSrc) (m : BitVec 1)
  /-- VSLTU (R138). Writes predicate bits for unsigned less-than. -/
  | vsltu (d : BitVec 7) (a : BitVec 7) (b : VSrc) (m : BitVec 1)
  /-- VSGEU (R138). Writes predicate bits for unsigned greater-or-equal. -/
  | vsgeu (d : BitVec 7) (a : BitVec 7) (b : VSrc) (m : BitVec 1)
  /-- VFEQ (R138). Writes predicate bits for FP equality. -/
  | vfeq (d : BitVec 7) (a : BitVec 7) (b : VSrc) (m : BitVec 1)
  /-- VFLT (R138). Writes predicate bits for FP less-than. -/
  | vflt (d : BitVec 7) (a : BitVec 7) (b : VSrc) (m : BitVec 1)
  /-- VFLE (R138). Writes predicate bits for FP less-or-equal. -/
  | vfle (d : BitVec 7) (a : BitVec 7) (b : VSrc) (m : BitVec 1)
  /-- VFUNORD (R138). Writes predicate bits where either operand is NaN. -/
  | vfunord (d : BitVec 7) (a : BitVec 7) (b : VSrc) (m : BitVec 1)
  /-- VMV (R139). Copies tile a to tile d. -/
  | vmv (d : BitVec 7) (a : BitVec 7) (m : BitVec 1)
  /-- VSEL (R139). Selects a or b per the PSEL predicate. -/
  | vsel (d : BitVec 7) (a : BitVec 7) (b : BitVec 7)
  /-- VIOTA (R139). Writes prefix counts of the PSEL predicate. -/
  | viota (d : BitVec 7)
  /-- VSLIDEUP (R139). Slides each row up by s positions. -/
  | vslideup (d : BitVec 7) (a : BitVec 7) (b : BitVec 7) (m : BitVec 1)
  /-- VSLIDEDN (R139). Slides each row down by s positions. -/
  | vslidedn (d : BitVec 7) (a : BitVec 7) (b : BitVec 7) (m : BitVec 1)
  /-- VREV (R139). Reverses each row. -/
  | vrev (d : BitVec 7) (a : BitVec 7) (m : BitVec 1)
  /-- VCOMPRESS (R139). Packs selected positions to the front of each row. -/
  | vcompress (d : BitVec 7) (a : BitVec 7)
  /-- VEXPAND (R139). Spreads leading elements to selected positions. -/
  | vexpand (d : BitVec 7) (a : BitVec 7)
  /-- VTOS (R139). Delivers element s of the tile to q4. -/
  | vtos (a : BitVec 7) (b : BitVec 7)
  /-- STOV (R139). Broadcasts a converted captured scalar to every element. -/
  | stov (d : BitVec 7) (b : BitVec 7) (m : BitVec 1)
  /-- VPERM (R139). Permutes each row by index row b. -/
  | vperm (d : BitVec 7) (a : BitVec 7) (b : BitVec 7) (m : BitVec 1)
  /-- VZIP (R139). Interleaves two tiles into 2RC rows. -/
  | vzip (d : BitVec 7) (a : BitVec 7) (b : BitVec 7)
  /-- VUNZIP (R139). De-interleaves 2RC rows into two tiles. -/
  | vunzip (d : BitVec 7) (a : BitVec 7)
  /-- VREDSUM (R140). Integer sum of each row, to a row or to q4. -/
  | vredsum (d : BitVec 7) (a : BitVec 7) (q : BitVec 1) (m : BitVec 1)
  /-- VREDMAX (R140). Integer maximum of each row. -/
  | vredmax (d : BitVec 7) (a : BitVec 7) (q : BitVec 1) (m : BitVec 1)
  /-- VREDMIN (R140). Integer minimum of each row. -/
  | vredmin (d : BitVec 7) (a : BitVec 7) (q : BitVec 1) (m : BitVec 1)
  /-- VFREDSUM (R140). Pairwise FP sum of each row per R92. -/
  | vfredsum (d : BitVec 7) (a : BitVec 7) (q : BitVec 1) (m : BitVec 1)
  /-- VFREDMAX (R140). FP maximum of each row. -/
  | vfredmax (d : BitVec 7) (a : BitVec 7) (q : BitVec 1) (m : BitVec 1)
  /-- VFREDMIN (R140). FP minimum of each row. -/
  | vfredmin (d : BitVec 7) (a : BitVec 7) (q : BitVec 1) (m : BitVec 1)
  /-- VSCAN (R141). Sequential integer prefix sum of each row. -/
  | vscan (d : BitVec 7) (a : BitVec 7) (m : BitVec 1)
  /-- VFSCAN (R141). Sequential FP prefix sum of each row. -/
  | vfscan (d : BitVec 7) (a : BitVec 7) (m : BitVec 1)
  /-- VSEGSUM (R141). Sum of each segment written to every position of it. -/
  | vsegsum (d : BitVec 7) (a : BitVec 7) (b : BitVec 7) (m : BitVec 1)
  /-- VSEGMAX (R141). Maximum of each segment written to every position of it. -/
  | vsegmax (d : BitVec 7) (a : BitVec 7) (b : BitVec 7) (m : BitVec 1)
  /-- VCVT (R142). Converts each element to type T, optionally saturating. -/
  | vcvt (d : BitVec 7) (a : BitVec 7) (t : BitVec 4) (sf : BitVec 1) (m : BitVec 1)
  /-- VSMXE (R143). Computes block scales of an FP32 tile into a scale register. -/
  | vsmxe (d : BitVec 7) (a : BitVec 7) (m : BitVec 1)
  /-- VQUANT (R144). Computes block scales and quantises the tile. -/
  | vquant (d : BitVec 7) (a : BitVec 7) (b : BitVec 7) (m : BitVec 1)
  /-- VDEQ (R145). Dequantises a block-scaled tile to FP32. -/
  | vdeq (d : BitVec 7) (a : BitVec 7) (b : BitVec 7) (m : BitVec 1)
  /-- VPACK (R146). Narrows each element to half width. -/
  | vpack (d : BitVec 7) (a : BitVec 7) (m : BitVec 1)
  /-- VUNPK (R146). Widens each element to double width. -/
  | vunpk (d : BitVec 7) (a : BitVec 7) (sf : BitVec 1) (m : BitVec 1)
  /-- VTOX (R147). Moves 512 bytes of a row into a scale register. -/
  | vtox (d : BitVec 7) (a : BitVec 7)
  /-- XTOV (R147). Moves a scale register into 512 bytes of a row. -/
  | xtov (d : BitVec 7) (a : BitVec 7)
  /-- VCFG (R133). Sets ETYPE, RC and VL in the scalar stream and queues a strip boundary. -/
  | vcfg (d : BitVec 7) (a : BitVec 7) (r : BitVec 5) (t : BitVec 4)
  /-- VLD (R149). Contiguous vector load from global memory. -/
  | vld (d : BitVec 7) (a : BitVec 7) (m : BitVec 1)
  /-- VLDS (R149). Strided vector load. -/
  | vlds (d : BitVec 7) (a : BitVec 7) (b : BitVec 7) (m : BitVec 1)
  /-- VST (R149). Contiguous vector store. -/
  | vst (d : BitVec 7) (a : BitVec 7) (m : BitVec 1)
  /-- VSTS (R149). Strided vector store. -/
  | vsts (d : BitVec 7) (a : BitVec 7) (b : BitVec 7) (m : BitVec 1)
  /-- VLDX (R149). Indexed vector gather load. -/
  | vldx (d : BitVec 7) (a : BitVec 7) (b : BitVec 7) (m : BitVec 1)
  /-- VSTX (R149). Indexed vector scatter store. -/
  | vstx (d : BitVec 7) (a : BitVec 7) (b : BitVec 7) (m : BitVec 1)
  /-- VLDP (R149). Contiguous load from the scratchpad. -/
  | vldp (d : BitVec 7) (a : BitVec 7) (m : BitVec 1)
  /-- VSTP (R149). Contiguous store to the scratchpad. -/
  | vstp (d : BitVec 7) (a : BitVec 7) (m : BitVec 1)
  /-- VLDPX (R149). Indexed load from the scratchpad. -/
  | vldpx (d : BitVec 7) (a : BitVec 7) (b : BitVec 7) (m : BitVec 1)
  /-- VSTPX (R149). Indexed store to the scratchpad. -/
  | vstpx (d : BitVec 7) (a : BitVec 7) (b : BitVec 7) (m : BitVec 1)
  /-- VLDT (R153). Tensor load addressed by a shape record. -/
  | vldt (d : BitVec 7) (a : BitVec 7) (m : BitVec 1)
  /-- VSTT (R153). Tensor store addressed by a shape record. -/
  | vstt (d : BitVec 7) (a : BitVec 7) (m : BitVec 1)
  /-- PAND (R155). Predicate and over all 1024 bits. -/
  | pand (d : BitVec 7) (a : BitVec 7) (b : BitVec 7)
  /-- POR (R155). Predicate or. -/
  | por (d : BitVec 7) (a : BitVec 7) (b : BitVec 7)
  /-- PXOR (R155). Predicate xor. -/
  | pxor (d : BitVec 7) (a : BitVec 7) (b : BitVec 7)
  /-- PANDN (R155). Predicate and-not. -/
  | pandn (d : BitVec 7) (a : BitVec 7) (b : BitVec 7)
  /-- PNOT (R155). Predicate not. -/
  | pnot (d : BitVec 7) (a : BitVec 7)
  /-- PALL (R155). Sets bits below VL, clears the rest. -/
  | pall (d : BitVec 7)
  /-- PNONE (R155). Clears every bit. -/
  | pnone (d : BitVec 7)
  /-- PPOP (R155). Delivers the count of set bits below VL to q4. -/
  | ppop (a : BitVec 7)
  /-- PFIRST (R155). Delivers the lowest set position below VL. -/
  | pfirst (a : BitVec 7)
  /-- PANY (R155). Delivers 1 when any bit below VL is set. -/
  | pany (a : BitVec 7)
  /-- PSEL (R155). Bitwise select of a into d under b. -/
  | psel (d : BitVec 7) (a : BitVec 7) (b : BitVec 7)
  /-- PFROMV (R155). Sets predicate bits for nonzero elements of a row. -/
  | pfromv (d : BitVec 7) (a : BitVec 7)
  /-- PTOV (R155). Writes 1 or 0 elements from predicate bits. -/
  | ptov (d : BitVec 7) (a : BitVec 7)
  /-- PLD (R156). Loads a predicate from 128 bytes of memory. -/
  | pld (d : BitVec 7) (a : BitVec 7)
  /-- PST (R156). Stores a predicate to 128 bytes of memory. -/
  | pst (d : BitVec 7) (a : BitVec 7)
  /-- VSORT (R167). Stably sorts the active elements into a run. -/
  | vsort (d : BitVec 7) (a : BitVec 7) (p : BitVec 2) (w : BitVec 1) (y : BitVec 1) (m : BitVec 1)
  /-- VMERGE (R169). Merges two sorted runs into 2RC rows. -/
  | vmerge (d : BitVec 7) (a : BitVec 7) (b : BitVec 7)
  /-- VMERGES (R175). Merges two bound input streams into an output stream. -/
  | vmerges (d : BitVec 7) (a : BitVec 7) (b : BitVec 7)
  /-- VINTER (R170). Multiset intersection of two runs. -/
  | vinter (d : BitVec 7) (a : BitVec 7) (b : BitVec 7)
  /-- VUNIQ (R171). Keeps the first element of each group of equal keys. -/
  | vuniq (d : BitVec 7) (a : BitVec 7)
  /-- VRANK (R172). Counts run elements below each probe. -/
  | vrank (d : BitVec 7) (a : BitVec 7) (b : BitVec 7) (m : BitVec 1)
  /-- VRANKU (R172). Counts run elements at or below each probe. -/
  | vranku (d : BitVec 7) (a : BitVec 7) (b : BitVec 7) (m : BitVec 1)
  /-- VPART (R173). Buckets elements by a sorted splitter row. -/
  | vpart (d : BitVec 7) (a : BitVec 7) (b : BitVec 7) (m : BitVec 1)
  /-- VCHKO (R168). Checks a tile's order and tags it as a run or delivers the failing index. -/
  | vchko (a : BitVec 7) (p : BitVec 2) (y : BitVec 1)
  /-- VTOPK (R174). Writes the k greatest active elements as a descending run. -/
  | vtopk (d : BitVec 7) (a : BitVec 7) (b : BitVec 7) (m : BitVec 1)
  /-- VDIFF (R170). Multiset difference of two runs. -/
  | vdiff (d : BitVec 7) (a : BitVec 7) (b : BitVec 7)
  /-- VUNIQC (R171). Keeps first keys of groups with their counts as payload. -/
  | vuniqc (d : BitVec 7) (a : BitVec 7)
  /-- VMOT (R178). Delivers order words of RC rows to q4. -/
  | vmot (a : BitVec 7)
  /-- VMTO (R179). Privileged write of one row's order word. -/
  | vmto (a : BitVec 7) (b : BitVec 7)
  /-- MSHAPE (R217). Grants and latches the matrix shape and format and delivers MSHP to q4. -/
  | mshape (a : BitVec 7) (b : BitVec 7)
  /-- MMODE (R218). Sets the matrix vector length at dispatch. -/
  | mmode (v : BitVec 2)
  /-- TMMA (R221). Accumulates A times B into a tile, optionally K-masked or with A from a tile. -/
  | tmma (t : BitVec 1) (d : BitVec 5) (a : BitVec 7) (b : BitVec 7) (m : BitVec 1)
  /-- TMMAP (R223). Tile product with both operands in the scratchpad. -/
  | tmmap (d : BitVec 7) (a : BitVec 7) (b : BitVec 7) (m : BitVec 1)
  /-- TZERO (R225). Writes +0 to every element of a tile. -/
  | tzero (d : BitVec 7)
  /-- TLD (R225). Loads a tile region from global memory. -/
  | tld (d : BitVec 7) (a : BitVec 7) (b : BitVec 7)
  /-- TST (R225). Stores a tile region to global memory. -/
  | tst (d : BitVec 7) (a : BitVec 7) (b : BitVec 7)
  /-- TCVT (R226). Converts a tile region into vector rows in ETYPE. -/
  | tcvt (d : BitVec 7) (a : BitVec 7) (sf : BitVec 1) (x : BitVec 3)
  /-- TLDP (R225). Loads a tile region from the scratchpad. -/
  | tldp (d : BitVec 7) (a : BitVec 7) (b : BitVec 7)
  /-- TSTP (R225). Stores a tile region to the scratchpad. -/
  | tstp (d : BitVec 7) (a : BitVec 7) (b : BitVec 7)
  /-- GTEST (R227). Sets a guard when any of the first Mg predicate bits is set. -/
  | gtest (d : BitVec 7) (a : BitVec 7)
  /-- GSET (R227). Sets a guard from bit 0 of a scalar. -/
  | gset (d : BitVec 7) (b : BitVec 7)
  /-- AMASK (R228). Latches mask and position words, writes the row predicate and sets the guard. -/
  | amask (d : BitVec 7) (a : BitVec 7) (b : BitVec 7)
  /-- ASOFT (R229). One online-softmax step over a score tile. -/
  | asoft (d : BitVec 7) (a : BitVec 7) (b : BitVec 7)
  /-- ASCALE (R230). Scales or divides tile rows by per-row factors. -/
  | ascale (d : BitVec 7) (a : BitVec 7) (v : BitVec 1)
  /-- SBIND (R234). Binds a row to a shape record as an input or output stream. -/
  | sbind (d : BitVec 7) (a : BitVec 7) (o : BitVec 1)
  /-- SUNBIND (R235). Ends a stream binding after flushing output. -/
  | sunbind (a : BitVec 7)
  /-- SSTAT (R236). Delivers a stream status word to q4. -/
  | sstat (a : BitVec 7)
  /-- SADV (R237). Skips elements of an input stream unread. -/
  | sadv (a : BitVec 7) (b : BitVec 7)
  /-- SFLUSH (R238). Waits for output or discards and refills input buffers. -/
  | sflush (a : BitVec 7)
  /-- STREAM_REFILL (R194). The stream buffer fetches input elements ahead of the consumer, recording any fault. -/
  | streamRefill (slot : BitVec 3)
  /-- STREAM_OUTPUT_WRITE (R239). Appended output elements are performed to memory in stream order, recording any fault. -/
  | streamOutputWrite (slot : BitVec 3)
  /-- COPY (R242). Issues a tensor transfer to a free channel with an interlock entry. -/
  | copy (d : BitVec 7) (a : BitVec 7) (b : BitVec 7)
  /-- COPYG (R243). Issues a patch-gather transfer. -/
  | copyg (d : BitVec 7) (a : BitVec 7) (b : BitVec 7)
  /-- CRESUME (R245). Restarts a faulted transfer from its recorded element. -/
  | cresume (a : BitVec 7)
  /-- CRESUME_ABORT (R245). Abandons a faulted transfer, freeing its channel and interlock entry. -/
  | cresumeAbort (a : BitVec 7)
  /-- RINIT (R247). Writes a ring header. -/
  | rinit (a : BitVec 7) (b : BitVec 7)
  /-- RAWAIT (R249). Waits for the read slot to be filled, acquires and delivers its address. -/
  | rawait (a : BitVec 7)
  /-- RREL (R250). Clears the read slot's filled bit, increments RD and releases. -/
  | rrel (a : BitVec 7)
  /-- WAITA (R251). Polls a word until a condition holds, then acquires. -/
  | waita (p : BitVec 1) (sf : BitVec 3) (c : BitVec 3) (a : BitVec 7) (b : BitVec 7)
  /-- CSTAT (R246). Delivers two status words of a copy channel. -/
  | cstat (a : BitVec 7)
  /-- COPY_COMPLETION (R200). A transfer finishes and signals by flag write or ring record. -/
  | copyCompletion (ch : BitVec 2)
  /-- ENGF (R201). The issuing hart takes an engine fault at its next vector-instruction boundary. -/
  | engf
  /-- SAADD (R253). Scratchpad atomic add. -/
  | saadd (w : BitVec 1) (sf : BitVec 3) (r : BitVec 1) (c : BitVec 1) (q : BitVec 1) (a : BitVec 7) (b : BitVec 7)
  /-- SAMIN (R253). Scratchpad atomic signed minimum. -/
  | samin (w : BitVec 1) (sf : BitVec 3) (r : BitVec 1) (c : BitVec 1) (q : BitVec 1) (a : BitVec 7) (b : BitVec 7)
  /-- SAMAX (R253). Scratchpad atomic signed maximum. -/
  | samax (w : BitVec 1) (sf : BitVec 3) (r : BitVec 1) (c : BitVec 1) (q : BitVec 1) (a : BitVec 7) (b : BitVec 7)
  /-- SAXCHG (R253). Scratchpad atomic exchange. -/
  | saxchg (w : BitVec 1) (sf : BitVec 3) (r : BitVec 1) (c : BitVec 1) (q : BitVec 1) (a : BitVec 7) (b : BitVec 7)
  /-- SACAS (R253). Scratchpad atomic compare-and-swap. -/
  | sacas (w : BitVec 1) (sf : BitVec 3) (r : BitVec 1) (c : BitVec 1) (q : BitVec 1) (a : BitVec 7) (b : BitVec 7)
  /-- SAAND (R253). Scratchpad atomic and. -/
  | saand (w : BitVec 1) (sf : BitVec 3) (r : BitVec 1) (c : BitVec 1) (q : BitVec 1) (a : BitVec 7) (b : BitVec 7)
  /-- SAOR (R253). Scratchpad atomic or. -/
  | saor (w : BitVec 1) (sf : BitVec 3) (r : BitVec 1) (c : BitVec 1) (q : BitVec 1) (a : BitVec 7) (b : BitVec 7)
  /-- SAFADD (R253). Scratchpad atomic FP32 add. -/
  | safadd (w : BitVec 1) (sf : BitVec 3) (r : BitVec 1) (c : BitVec 1) (q : BitVec 1) (a : BitVec 7) (b : BitVec 7)
  /-- GAADD (R253). Global atomic add at the home L2. -/
  | gaadd (w : BitVec 1) (sf : BitVec 3) (r : BitVec 1) (c : BitVec 1) (q : BitVec 1) (a : BitVec 7) (b : BitVec 7)
  /-- GAMIN (R253). Global atomic signed minimum. -/
  | gamin (w : BitVec 1) (sf : BitVec 3) (r : BitVec 1) (c : BitVec 1) (q : BitVec 1) (a : BitVec 7) (b : BitVec 7)
  /-- GAMAX (R253). Global atomic signed maximum. -/
  | gamax (w : BitVec 1) (sf : BitVec 3) (r : BitVec 1) (c : BitVec 1) (q : BitVec 1) (a : BitVec 7) (b : BitVec 7)
  /-- GAXCHG (R253). Global atomic exchange. -/
  | gaxchg (w : BitVec 1) (sf : BitVec 3) (r : BitVec 1) (c : BitVec 1) (q : BitVec 1) (a : BitVec 7) (b : BitVec 7)
  /-- GACAS (R253). Global atomic compare-and-swap. -/
  | gacas (w : BitVec 1) (sf : BitVec 3) (r : BitVec 1) (c : BitVec 1) (q : BitVec 1) (a : BitVec 7) (b : BitVec 7)
  /-- GAAND (R253). Global atomic and. -/
  | gaand (w : BitVec 1) (sf : BitVec 3) (r : BitVec 1) (c : BitVec 1) (q : BitVec 1) (a : BitVec 7) (b : BitVec 7)
  /-- GAOR (R253). Global atomic or. -/
  | gaor (w : BitVec 1) (sf : BitVec 3) (r : BitVec 1) (c : BitVec 1) (q : BitVec 1) (a : BitVec 7) (b : BitVec 7)
  /-- GAFADD (R253). Global atomic FP32 add. -/
  | gafadd (w : BitVec 1) (sf : BitVec 3) (r : BitVec 1) (c : BitVec 1) (q : BitVec 1) (a : BitVec 7) (b : BitVec 7)
  /-- KCLAIM (R257). Claims a keyed region and delivers its status and offset. -/
  | kclaim (a : BitVec 7) (h : BitVec 2)
  /-- KFREE (R258). Releases a keyed region and its handle. -/
  | kfree (h : BitVec 2)
  /-- KINS (R259). Inserts keys into a keyed region. -/
  | kins (d : BitVec 7) (a : BitVec 7) (h : BitVec 2) (m : BitVec 1)
  /-- KPRB (R259). Probes keys on chip. -/
  | kprb (d : BitVec 7) (a : BitVec 7) (h : BitVec 2) (m : BitVec 1)
  /-- KDEL (R259). Clears occupancy of on-chip matches. -/
  | kdel (d : BitVec 7) (a : BitVec 7) (h : BitVec 2) (m : BitVec 1)
  /-- KACC (R259). Combines equal keys and accumulates into buckets. -/
  | kacc (d : BitVec 7) (a : BitVec 7) (o : BitVec 3) (h : BitVec 2) (m : BitVec 1)
  /-- KDRN (R260). Drains sealed entries in key order as a run. -/
  | kdrn (d : BitVec 7) (h : BitVec 2)
  /-- KSTAT (R261). Delivers two status words of a keyed region. -/
  | kstat (h : BitVec 2)
  /-- KSEAL (R261). Seals a region after accepted operations apply. -/
  | kseal (h : BitVec 2)
  /-- KCLEAR (R258). Empties a region keeping the claim. -/
  | kclear (h : BitVec 2)
  /-- SEMTS (R267). Takes a quad semaphore or queues and blocks until handed it. -/
  | semts (n : BitVec 5)
  /-- SEMTRY (R267). Takes a free semaphore or delivers 0. -/
  | semtry (n : BitVec 5)
  /-- SEMCLR (R267). Releases a semaphore, handing it to the oldest waiter. -/
  | semclr (n : BitVec 5)
  /-- CRD (R269). Delivers a communication-file data word. -/
  | crd (c : BitVec 1) (n : BitVec 5)
  /-- CWR (R269). Writes a communication-file data word. -/
  | cwr (r : BitVec 1) (a : BitVec 7) (n : BitVec 5)
  /-- QATOM (R270). Per-element 32-bit scratchpad atomics returning old values. -/
  | qatom (d : BitVec 7) (a : BitVec 7) (r : BitVec 1) (c : BitVec 1) (o : BitVec 3) (m : BitVec 1)
  /-- BARV (R272). Arrives at a barrier with a predicate popcount. -/
  | barv (a : BitVec 7) (sf : BitVec 3) (n : BitVec 4)
  /-- BARW (R272). Waits for the barrier's generation to change, then acquires. -/
  | barw (sf : BitVec 3) (n : BitVec 4)
  /-- BARA (R272). Releases and arrives at a barrier with a count. -/
  | bara (a : BitVec 7) (sf : BitVec 3) (n : BitVec 4)
  /-- BARA_INIT (R272). Sets a barrier's TARGET and clears COUNT. -/
  | baraInit (a : BitVec 7) (sf : BitVec 3) (n : BitVec 4)
  /-- QUAD_MESSAGE (R262). A quad-path message arrives at a target core's bank unit and performs. -/
  | quadMessage (core : BitVec 2) (off : BitVec 21) (wr : BitVec 1) (data : BitVec 64)
  /-- TSPAWN (R289). Reads a descriptor, queues a task and delivers its id or a refusal. -/
  | tspawn (a : BitVec 7)
  /-- TWAIT (R290). Completes on a satisfied counter or suspends the task on the wait list. -/
  | twait (a : BitVec 7)
  /-- TEXIT (R291). Ends the task, writes its status and decrements DONEEV. -/
  | texit (a : BitVec 7)
  /-- TEXIT_ABORT (R300). Privileged abort of the interrupted task with kind 2. -/
  | texitAbort (a : BitVec 7)
  /-- TYIELD (R290). Requeues the task when an eligible peer of equal or higher class waits. -/
  | tyield
  /-- QPUSH (R305). Pushes records into a stage queue, blocking for room. -/
  | qpush (d : BitVec 7) (a : BitVec 7) (e : BitVec 1) (q : BitVec 5)
  /-- QPOP (R306). Pops up to n records from a stage queue and delivers the count. -/
  | qpop (d : BitVec 7) (a : BitVec 7) (q : BitVec 5)
  /-- VREL (R35). Returns the lanes and makes the vector state dead. -/
  | vrel
  /-- TSTAT (R292). Delivers one task status word. -/
  | tstat (n : BitVec 3)
  /-- EVDEC (R293). Releases and decrements an event counter. -/
  | evdec (q : BitVec 1) (a : BitVec 7) (b : BitVec 7)
  /-- EVINC (R293). Releases and increments an event counter. -/
  | evinc (q : BitVec 1) (a : BitVec 7) (b : BitVec 7)
  /-- RGATHER (R326). Gathers table rows at listed indices into records. -/
  | rgather (d : BitVec 7) (a : BitVec 7) (b : BitVec 7) (m : BitVec 1)
  /-- RSCAT (R327). Scatters records to table rows. -/
  | rscat (d : BitVec 7) (a : BitVec 7) (b : BitVec 7) (m : BitVec 1)
  /-- RSCATADD (R327). Adds combined records into table rows atomically. -/
  | rscatadd (d : BitVec 7) (a : BitVec 7) (b : BitVec 7) (m : BitVec 1)
  /-- RGSTAT (R328). Delivers counts of the last gather command. -/
  | rgstat
  /-- DEFERRED_MCE (R327). An error after acceptance, or a lost remote store, raises MCE at the next vector boundary. -/
  | deferredMce
  /-- BR (R107). Conditional branch with two delay slots and optional annul. -/
  | br (a : BitVec 7) (c : BitVec 3) (n : BitVec 1) (im : BitVec 15)
  /-- JMP (R108). Unconditional jump with two delay slots. -/
  | jmp (im : BitVec 26)
  /-- CALL (R108). Pushes a plain frame and jumps. -/
  | call (im : BitVec 26)
  /-- JR (R109). Jumps to a register target. -/
  | jr (a : BitVec 7)
  /-- CALLR (R109). Pushes a plain frame and jumps to a register target. -/
  | callr (a : BitVec 7)
  /-- RET (R109). Pops a plain frame and returns. -/
  | ret
  /-- GCALL (R112). Enters a gate, pushing a gate frame and raising privilege. -/
  | gcall (n : BitVec 10)
  /-- TRAP (R116). Completes and enters the handler with cause TRAP. -/
  | trap (c : BitVec 7)
  /-- ERET (R126). Requeues saved vector entries and resumes the interrupted sequence. -/
  | eret
  /-- GRET (R113). Pops a gate frame and restores privilege and MASKMODE. -/
  | gret
  /-- WAITI (R120). Waits until an enabled interrupt is pending. -/
  | waiti
  /-- HALT (R120). Drains the vector queue and stops the hart. -/
  | halt
  /-- FENCE (R117). Holds dispatch until the named kinds of access are performed at the scope. -/
  | fence (sf : BitVec 3) (k : BitVec 4)
  /-- WIN (R118). Moves SWB and VWB together. -/
  | win (a : BitVec 7) (b : BitVec 7)
  /-- TLBINV (R119). Invalidates TLB entries across the die. -/
  | tlbinv (a : BitVec 7) (b : BitVec 7)
  /-- QSEND (R121). Appends a scalar to q0-q3, blocking while full. -/
  | qsend (d : BitVec 7) (a : BitVec 7)
  /-- QRECV (R121). Removes the oldest entry of q4-q7, blocking while empty. -/
  | qrecv (d : BitVec 7) (a : BitVec 7)
  /-- QSTAT (R121). Reads the number of entries in a queue register. -/
  | qstat (d : BitVec 7) (a : BitVec 7)
  /-- VQRECV (R121). Broadcasts the oldest entry of q0-q3 to a tile in the vector stream. -/
  | vqrecv (d : BitVec 7) (a : BitVec 7)
  /-- SHLST (R359). Stores a logit strip and feeds it to a shortlist filter slot. -/
  | shlst (d : BitVec 7) (a : BitVec 7) (b : BitVec 7) (m : BitVec 1)
  /-- KVXLT (R389). Resolves KV pages to frames and posts tier-miss events. -/
  | kvxlt (d : BitVec 7) (a : BitVec 7) (b : BitVec 7) (m : BitVec 1)
  /-- PAGE_IN_COMPLETE (R391). The owner's copy finishes, updates entries and sends kind-3 or kind-4 records. -/
  | pageInComplete (idx : BitVec 4)
  /-- KVCOMMIT (R392). Commits speculative pages at token T, releasing pages beyond it. -/
  | kvcommit (a : BitVec 7) (b : BitVec 7)
  /-- KVROLL (R392). Rolls speculative pages back to token T. -/
  | kvroll (a : BitVec 7) (b : BitVec 7)
  /-- KVFORK (R393). Shares n pages of a table with another sequence. -/
  | kvfork (a : BitVec 7) (b : BitVec 7)
  /-- MCST (R379). Stores each element to the replicas named by a package mask. -/
  | mcst (d : BitVec 7) (a : BitVec 7) (b : BitVec 7) (m : BitVec 1)
  /-- COLL (R380). Starts a pod collective and delivers its id. -/
  | coll (d : BitVec 7) (a : BitVec 7)
  /-- CWAITC (R384). Waits for a collective, acquires and delivers its status. -/
  | cwaitc (a : BitVec 7)
  /-- COLL_COMPLETION (R383). A collective's receive buffers are performed and completion is signalled. -/
  | collCompletion (idx : BitVec 4)
  /-- SKBLD (R400). Builds or accumulates entries into a sketch. -/
  | skbld (n : BitVec 1) (c : BitVec 1) (a : BitVec 7) (b : BitVec 7)
  /-- SKSUB (R401). Subtracts a remote sketch from a local one. -/
  | sksub (a : BitVec 7) (b : BitVec 7)
  /-- SKPEEL (R402). Peels a difference sketch into signed entries and updates SKM. -/
  | skpeel (t : BitVec 1) (a : BitVec 7) (b : BitVec 7)
  /-- SKRECON (R406). Reconciles a class with a peer package in rounds and stages winners. -/
  | skrecon (t : BitVec 1) (a : BitVec 7) (b : BitVec 7)
  /-- SKSTAT (R404). Delivers counts of nonzero and pure cells. -/
  | skstat (a : BitVec 7)
  /-- SKIVER_PEER_REQUEST (R406). A peer's Skiver builds the requested class sketch and sends it or records. -/
  | skiverPeerRequest (cls : BitVec 8) (cells : BitVec 20)
  /-- LI (R98). Loads a sign-extended 20-bit immediate. -/
  | li (d : BitVec 6) (im : BitVec 20)
  /-- LF (R98). Loads the top 20 bits of an FP32 pattern. -/
  | lf (d : BitVec 6) (im : BitVec 20)
  /-- ANNULLED_STEP (R106). An annulled word passes through PC as one step with no effect. -/
  | annulledStep
  /-- INTERRUPT (R124). At a boundary a pending enabled interrupt is taken with cause 0x80 plus its bit. -/
  | interrupt
  /-- TIMER (R123). TSC reaches TCMP.TIME, setting IPEND.TIMER and clearing EN. -/
  | timer
  /-- IPSET (R123). A privileged write sets IPEND bits of a target hart of the die. -/
  | ipset (val : BitVec 64)
  /-- BUDGET_EXHAUSTED (R298). TBUDGET.REM reaches 0 and counting stops. -/
  | budgetExhausted
  /-- BUDGET (R299). At the next boundary the hart traps BUDGET or the task is aborted with kind 1. -/
  | budget
  /-- TASK_DISPATCH (R284). The distributor selects a queued task and places it on a hart. -/
  | taskDispatch
  /-- QUEUE_PULL (R283). A level below its threshold pulls up to 8 oldest eligible entries down. -/
  | queuePull (level : BitVec 2)
  /-- AGING (R285). An entry waiting 2^20 cycles moves to the next higher class. -/
  | aging
  /-- PREEMPT_TIMEOUT (R294). A higher-class task unplaced for 2^18 cycles sets PREEMPT on the victim. -/
  | preemptTimeout
  /-- PREEMPTION (R294). A pending PREEMPT takes effect at a boundary below privilege 2. -/
  | preemption
  /-- REPARTITION (R190). An emptied core is repartitioned in 512 cycles, zeroing its pool. -/
  | repartition
  /-- CINCH_SAMPLE (R308). Every 1,024 cycles the Cinch samples each stage queue's occupancy. -/
  | cinchSample
  /-- CINCH_INTERVAL (R309). At interval end demands are computed and a core move may begin. -/
  | cinchInterval
  /-- CINCH_MOVE_COMPLETE (R310). Once no donor task runs, the moved core joins the recipient stage. -/
  | cinchMoveComplete
  /-- REMOTE_ACCESS (R376). An access from another package arrives and performs at the home L2. -/
  | remoteAccess (addr : BitVec 52) (wr : BitVec 1) (data : BitVec 64)
  /-- POD_BARRIER_MESSAGE (R377). Package 0 takes a pod barrier arrival or wait as one step. -/
  | podBarrierMessage (arrive : BitVec 1) (n : BitVec 4) (count : BitVec 32)
  /-- FLIT_RECEIVE (R373). A Rein flit is corrected and CRC-checked, accepted or NAKed. -/
  | flitReceive (link : BitVec 6) (flit : Flit) (good : BitVec 1)
  /-- LINK_REPLAY (R373). A NAK makes the sender replay from the named flit. -/
  | linkReplay (nak : Nak)
  /-- LINK_RETRAIN (R373). A flit replayed 8 times makes the link retrain. -/
  | linkRetrain (link : BitVec 6)
  /-- LINK_DOWN (R373). A failed retrain takes the link down and moves its traffic. -/
  | linkDown (link : BitVec 6)
  /-- REMOTE_TIMEOUT (R395). A remote access unanswered for 2^22 cycles treats its package as unreachable. -/
  | remoteTimeout (pkg : BitVec 6)
  /-- ADMIT (R395). A REINCTL write on package 0 readmits a package to PODMAP. -/
  | admitPackage (val : BitVec 64)
  /-- RETENTION_ENTRY (R329). An idle bank enters retention and re-encodes to DEC-TED. -/
  | retentionEntry (bank : BitVec 6)
  /-- RETENTION_EXIT (R329). An access wakes a retained bank, which re-encodes to SEC-DED. -/
  | retentionExit (exit : BankExit)
  /-- TSC_SYNC (R356). Package 0 slews every TSC within 4 counts of its own. -/
  | tscSync (pkg : BitVec 6)
  /-- THROTTLE (R371). A thermal or power limit lowers the arithmetic clock in 100 MHz steps. -/
  | throttle (steps : BitVec 8)
  /-- PACKAGE_RESET (R370). PERST# deassertion runs bring-up from root of trust to READY. -/
  | packageReset (bringUp : BringUp)
  /-- HOST_WINDOW_ACCESS (R368). A host access through BAR2 performs at the selected die's HBM. -/
  | hostWindowAccess (span : HostSpan) (wr : BitVec 1) (data : BitVec 32768)
  /-- CONTROL_WINDOW_WRITE (R361). A write to a control-window register with no behaviour of its own. -/
  | controlWindowWrite (span : HostSpan) (val : BitVec 64)
  /-- HDOOR (R364). Queues one replay of a harness. -/
  | hdoor (val : BitVec 64)
  /-- HARNESS_REPLAY (R364). The command processor starts the next queued replay once the previous one ends. -/
  | harnessReplay
  /-- END (R365). Ends a replay, marking its active requests done. -/
  | endReplay
  /-- LAUNCH (R363). Inserts copies of a descriptor into die queues, waiting for room. -/
  | launch
  /-- WAITEV (R363). Waits for a die event counter to be satisfied, then acquires. -/
  | waitev
  /-- EVADD (R363). Releases and adds a signed amount to a die event counter. -/
  | evadd
  /-- KLOAD (R363). Copies a kernel image and invalidates every instruction cache. -/
  | kload
  /-- GRAPH (R363). Waits for each named die to hold no staged task, then loads the graph. -/
  | graph
  /-- NOTIFY (R363). Writes a value with release at pod scope and raises an MSI. -/
  | notify
  /-- CANCEL (R366). Cancels an active request, skipping nodes and ending its tasks. -/
  | cancel (val : BitVec 64)
  /-- HDBELL (R361). Sets IPEND.HOST of the named hart. -/
  | hdbell (val : BitVec 64)
  /-- GET_VERSION (R369). SPDM request answered with supported versions. -/
  | getVersion
  /-- GET_CAPABILITIES (R369). SPDM request answered with capabilities. -/
  | getCapabilities
  /-- NEGOTIATE_ALGORITHMS (R369). SPDM request fixing the algorithms. -/
  | negotiateAlgorithms
  /-- GET_DIGESTS (R369). SPDM request for certificate digests. -/
  | getDigests
  /-- GET_CERTIFICATE (R369). SPDM request for a certificate chain. -/
  | getCertificate
  /-- CHALLENGE (R369). SPDM challenge answered with a signed response. -/
  | challenge
  /-- GET_MEASUREMENTS (R369). SPDM request answered with doubly signed measurements. -/
  | getMeasurements
  /-- LINK_UP (R395). A Rein link that was down trains again and comes up, so that its package can be reached and readmitted. -/
  | linkUp (far : LinkEnd)
  /-- HOST_CONFIG_REQUEST (R370). A PCIe configuration request from the host is answered with Request Retry Status until READY, and completes normally after that. -/
  | hostConfigRequest (wr : BitVec 1)
deriving DecidableEq, Repr

end Sys2Proof
end

