-- ==== Sys2Proof/WellFormed.lean ====
section
/-! DEFINITION. The operand classes of R55, R56, R231 and the value limits that the encodings place on a field: the
checks of R59 step 3 that a field's value alone decides. -/

namespace Sys2Proof

/-- A scalar destination: s0–s63 (R55). -/
def isScalarDest (x : BitVec 7) : Bool := decide (x.toNat < 64)
/-- A predicate: p0–p23 (R55). -/
def isPred (x : BitVec 7) : Bool := decide (x.toNat < 24)
/-- A tile: a0–a31 (R55). -/
def isTile (x : BitVec 7) : Bool := decide (x.toNat < 32)
/-- A guard: g0–g15 (R55). -/
def isGuard (x : BitVec 7) : Bool := decide (x.toNat < 16)
/-- A scale register: x0–x7 (R55). -/
def isScale (x : BitVec 7) : Bool := decide (x.toNat < 8)
/-- A queue register: q0–q7 (R55). -/
def isQueue (x : BitVec 7) : Bool := decide (x.toNat < 8)
/-- A register pair: an even value from 2 to 62 or from 64 to 126 (R214, R231). -/
def isPair (x : BitVec 7) : Bool :=
  decide (x.toNat % 2 = 0 ∧ ((2 ≤ x.toNat ∧ x.toNat ≤ 62) ∨ 64 ≤ x.toNat))
/-- An element type code: 0–11 (R63). -/
def isEtype (x : BitVec 4) : Bool := decide (x.toNat < 12)
/-- A scope code: 0–5; 6 and 7 are reserved (R3). -/
def isScope (x : BitVec 3) : Bool := decide (x.toNat < 6)
/-- The scope of a barrier: 1–5 (R266). -/
def isBarScope (x : BitVec 3) : Bool := decide (1 ≤ x.toNat ∧ x.toNat < 6)

/-- Every field holds a value of its class (R55). An event has no encoding and no operand class. -/
def Instr.wf : Instr → Bool
  | .add d _ _ => isScalarDest d
  | .sub d _ _ => isScalarDest d
  | .and d _ _ => isScalarDest d
  | .or d _ _ => isScalarDest d
  | .xor d _ _ => isScalarDest d
  | .andn d _ _ => isScalarDest d
  | .orn d _ _ => isScalarDest d
  | .sll d _ _ => isScalarDest d
  | .srl d _ _ => isScalarDest d
  | .sra d _ _ => isScalarDest d
  | .ror d _ _ => isScalarDest d
  | .mul d _ _ => isScalarDest d
  | .mulh d _ _ => isScalarDest d
  | .mulhu d _ _ => isScalarDest d
  | .div d _ _ => isScalarDest d
  | .divu d _ _ => isScalarDest d
  | .rem d _ _ => isScalarDest d
  | .remu d _ _ => isScalarDest d
  | .min d _ _ => isScalarDest d
  | .max d _ _ => isScalarDest d
  | .minu d _ _ => isScalarDest d
  | .maxu d _ _ => isScalarDest d
  | .addw d _ _ => isScalarDest d
  | .subw d _ _ => isScalarDest d
  | .seq d _ _ => isScalarDest d
  | .sne d _ _ => isScalarDest d
  | .slt d _ _ => isScalarDest d
  | .sge d _ _ => isScalarDest d
  | .sltu d _ _ => isScalarDest d
  | .sgeu d _ _ => isScalarDest d
  | .addi d _ _ => isScalarDest d
  | .andi d _ _ => isScalarDest d
  | .ori d _ _ => isScalarDest d
  | .xori d _ _ => isScalarDest d
  | .slli d _ _ => isScalarDest d
  | .srli d _ _ => isScalarDest d
  | .srai d _ _ => isScalarDest d
  | .rori d _ _ => isScalarDest d
  | .clz d _ => isScalarDest d
  | .ctz d _ => isScalarDest d
  | .popc d _ => isScalarDest d
  | .sextb d _ => isScalarDest d
  | .sexth d _ => isScalarDest d
  | .sextw d _ => isScalarDest d
  | .zextb d _ => isScalarDest d
  | .zexth d _ => isScalarDest d
  | .zextw d _ => isScalarDest d
  | .bswap d _ => isScalarDest d
  | .ldb d _ _ => isScalarDest d
  | .ldbu d _ _ => isScalarDest d
  | .ldh d _ _ => isScalarDest d
  | .ldhu d _ _ => isScalarDest d
  | .ldw d _ _ => isScalarDest d
  | .ldwu d _ _ => isScalarDest d
  | .ldd d _ _ => isScalarDest d
  | .stb _ _ _ => true
  | .sth _ _ _ => true
  | .stw _ _ _ => true
  | .std _ _ _ => true
  | .ldxb d _ _ _ => isScalarDest d
  | .ldxbu d _ _ _ => isScalarDest d
  | .ldxh d _ _ _ => isScalarDest d
  | .ldxhu d _ _ _ => isScalarDest d
  | .ldxw d _ _ _ => isScalarDest d
  | .ldxwu d _ _ _ => isScalarDest d
  | .ldxd d _ _ _ => isScalarDest d
  | .stxb _ _ _ _ => true
  | .stxh _ _ _ _ => true
  | .stxw _ _ _ _ => true
  | .stxd _ _ _ _ => true
  | .fadd d _ _ => isScalarDest d
  | .fsub d _ _ => isScalarDest d
  | .fmul d _ _ => isScalarDest d
  | .fdiv d _ _ => isScalarDest d
  | .fsqrt d _ => isScalarDest d
  | .fmin d _ _ => isScalarDest d
  | .fmax d _ _ => isScalarDest d
  | .feq d _ _ => isScalarDest d
  | .flt d _ _ => isScalarDest d
  | .fle d _ _ => isScalarDest d
  | .fclass d _ => isScalarDest d
  | .fcvtsw d _ => isScalarDest d
  | .fcvtswu d _ => isScalarDest d
  | .fcvtws d _ => isScalarDest d
  | .fcvtwus d _ => isScalarDest d
  | .fcvths d _ => isScalarDest d
  | .fcvtsh d _ => isScalarDest d
  | .fcvtbs d _ => isScalarDest d
  | .fcvtsb d _ => isScalarDest d
  | .fmadd d _ _ => isScalarDest d
  | .fmsub d _ _ => isScalarDest d
  | .fnmadd d _ _ => isScalarDest d
  | .fnmsub d _ _ => isScalarDest d
  | .mfs d _ => isScalarDest d
  | .mts _ _ => true
  | .vadd _ _ _ _ => true
  | .vsub _ _ _ _ => true
  | .vrsub _ _ _ _ => true
  | .vmul _ _ _ _ => true
  | .vmulh _ _ _ _ => true
  | .vmin _ _ _ _ => true
  | .vmax _ _ _ _ => true
  | .vminu _ _ _ _ => true
  | .vmaxu _ _ _ _ => true
  | .vand _ _ _ _ => true
  | .vor _ _ _ _ => true
  | .vxor _ _ _ _ => true
  | .vsll _ _ _ _ => true
  | .vsrl _ _ _ _ => true
  | .vsra _ _ _ _ => true
  | .vadds _ _ _ _ => true
  | .vfadd _ _ _ _ => true
  | .vfsub _ _ _ _ => true
  | .vfmul _ _ _ _ => true
  | .vfdiv _ _ _ _ => true
  | .vfmin _ _ _ _ => true
  | .vfmax _ _ _ _ => true
  | .vfsqrt _ _ _ => true
  | .vexp2 _ _ _ => true
  | .vlog2 _ _ _ => true
  | .vrcp _ _ _ => true
  | .vrsqrt _ _ _ => true
  | .vfsgn _ _ _ _ => true
  | .vfma _ _ _ _ => true
  | .vfms _ _ _ _ => true
  | .vfnma _ _ _ _ => true
  | .vfnms _ _ _ _ => true
  | .vmadd _ _ _ _ => true
  | .vmsub _ _ _ _ => true
  | .vseq d _ _ _ => isPred d
  | .vsne d _ _ _ => isPred d
  | .vslt d _ _ _ => isPred d
  | .vsge d _ _ _ => isPred d
  | .vsltu d _ _ _ => isPred d
  | .vsgeu d _ _ _ => isPred d
  | .vfeq d _ _ _ => isPred d
  | .vflt d _ _ _ => isPred d
  | .vfle d _ _ _ => isPred d
  | .vfunord d _ _ _ => isPred d
  | .vmv _ _ _ => true
  | .vsel _ _ _ => true
  | .viota _ => true
  | .vslideup _ _ _ _ => true
  | .vslidedn _ _ _ _ => true
  | .vrev _ _ _ => true
  | .vcompress _ _ => true
  | .vexpand _ _ => true
  | .vtos _ _ => true
  | .stov _ _ _ => true
  | .vperm _ _ _ _ => true
  | .vzip _ _ _ => true
  | .vunzip _ _ => true
  | .vredsum d _ q _ => decide (q = 0 ∨ d = 0)
  | .vredmax d _ q _ => decide (q = 0 ∨ d = 0)
  | .vredmin d _ q _ => decide (q = 0 ∨ d = 0)
  | .vfredsum d _ q _ => decide (q = 0 ∨ d = 0)
  | .vfredmax d _ q _ => decide (q = 0 ∨ d = 0)
  | .vfredmin d _ q _ => decide (q = 0 ∨ d = 0)
  | .vscan _ _ _ => true
  | .vfscan _ _ _ => true
  | .vsegsum _ _ b _ => isPred b
  | .vsegmax _ _ b _ => isPred b
  | .vcvt _ _ t _ _ => isEtype t
  | .vsmxe d _ _ => isScale d
  | .vquant _ _ b _ => isScale b
  | .vdeq _ _ b _ => isScale b
  | .vpack _ _ _ => true
  | .vunpk _ _ _ _ => true
  | .vtox d _ => isScale d
  | .xtov _ a => isScale a
  | .vcfg d _ _ t => isScalarDest d && isEtype t
  | .vld _ _ _ => true
  | .vlds _ _ _ _ => true
  | .vst _ _ _ => true
  | .vsts _ _ _ _ => true
  | .vldx _ _ _ _ => true
  | .vstx _ _ _ _ => true
  | .vldp _ _ _ => true
  | .vstp _ _ _ => true
  | .vldpx _ _ _ _ => true
  | .vstpx _ _ _ _ => true
  | .vldt _ _ _ => true
  | .vstt _ _ _ => true
  | .pand d a b => isPred d && isPred a && isPred b
  | .por d a b => isPred d && isPred a && isPred b
  | .pxor d a b => isPred d && isPred a && isPred b
  | .pandn d a b => isPred d && isPred a && isPred b
  | .pnot d a => isPred d && isPred a
  | .pall d => isPred d
  | .pnone d => isPred d
  | .ppop a => isPred a
  | .pfirst a => isPred a
  | .pany a => isPred a
  | .psel d a b => isPred d && isPred a && isPred b
  | .pfromv d _ => isPred d
  | .ptov _ a => isPred a
  | .pld d _ => isPred d
  | .pst d _ => isPred d
  | .vsort _ _ p _ _ _ => decide (p.toNat < 3)
  | .vmerge _ _ _ => true
  | .vmerges _ _ _ => true
  | .vinter _ _ _ => true
  | .vuniq _ _ => true
  | .vrank _ _ _ _ => true
  | .vranku _ _ _ _ => true
  | .vpart _ _ _ _ => true
  | .vchko _ p _ => decide (p.toNat < 3)
  | .vtopk _ _ _ _ => true
  | .vdiff _ _ _ => true
  | .vuniqc _ _ => true
  | .vmot _ => true
  | .vmto _ _ => true
  | .mshape _ _ => true
  | .mmode _ => true
  | .tmma t _ a _ _ => decide (t = 0 ∨ a.toNat < 32)
  | .tmmap d a b _ => isTile d && isPair a && isPair b
  | .tzero d => isTile d
  | .tld d _ _ => isTile d
  | .tst d _ _ => isTile d
  | .tcvt _ a _ _ => isTile a
  | .tldp d _ _ => isTile d
  | .tstp d _ _ => isTile d
  | .gtest d a => isGuard d && isPred a
  | .gset d _ => isGuard d
  | .amask d _ _ => isPred d
  | .asoft _ a _ => isTile a
  | .ascale d _ _ => isTile d
  | .sbind _ _ _ => true
  | .sunbind _ => true
  | .sstat _ => true
  | .sadv _ _ => true
  | .sflush _ => true
  | .streamRefill _ => true
  | .streamOutputWrite _ => true
  | .copy _ _ b => isPair b
  | .copyg _ _ b => isPair b
  | .cresume _ => true
  | .cresumeAbort _ => true
  | .rinit _ _ => true
  | .rawait _ => true
  | .rrel _ => true
  | .waita _ sf c _ _ => decide (c.toNat < 6) && isScope sf
  | .cstat _ => true
  | .copyCompletion _ => true
  | .engf => true
  | .saadd _ sf r c _ _ _ => isScope sf && decide (sf = 0 ∨ r = 1 ∨ c = 1)
  | .samin _ sf r c _ _ _ => isScope sf && decide (sf = 0 ∨ r = 1 ∨ c = 1)
  | .samax _ sf r c _ _ _ => isScope sf && decide (sf = 0 ∨ r = 1 ∨ c = 1)
  | .saxchg _ sf r c _ _ _ => isScope sf && decide (sf = 0 ∨ r = 1 ∨ c = 1)
  | .sacas _ sf r c _ _ b => isScope sf && decide (sf = 0 ∨ r = 1 ∨ c = 1) && isPair b
  | .saand _ sf r c _ _ _ => isScope sf && decide (sf = 0 ∨ r = 1 ∨ c = 1)
  | .saor _ sf r c _ _ _ => isScope sf && decide (sf = 0 ∨ r = 1 ∨ c = 1)
  | .safadd w sf r c _ _ _ => isScope sf && decide (sf = 0 ∨ r = 1 ∨ c = 1) && decide (w = 1)
  | .gaadd _ sf r c _ _ _ => isScope sf && decide (sf = 0 ∨ r = 1 ∨ c = 1)
  | .gamin _ sf r c _ _ _ => isScope sf && decide (sf = 0 ∨ r = 1 ∨ c = 1)
  | .gamax _ sf r c _ _ _ => isScope sf && decide (sf = 0 ∨ r = 1 ∨ c = 1)
  | .gaxchg _ sf r c _ _ _ => isScope sf && decide (sf = 0 ∨ r = 1 ∨ c = 1)
  | .gacas _ sf r c _ _ b => isScope sf && decide (sf = 0 ∨ r = 1 ∨ c = 1) && isPair b
  | .gaand _ sf r c _ _ _ => isScope sf && decide (sf = 0 ∨ r = 1 ∨ c = 1)
  | .gaor _ sf r c _ _ _ => isScope sf && decide (sf = 0 ∨ r = 1 ∨ c = 1)
  | .gafadd w sf r c _ _ _ => isScope sf && decide (sf = 0 ∨ r = 1 ∨ c = 1) && decide (w = 1)
  | .kclaim a _ => isPair a
  | .kfree _ => true
  | .kins _ _ _ _ => true
  | .kprb _ _ _ _ => true
  | .kdel _ _ _ _ => true
  | .kacc _ _ o _ _ => decide (o.toNat < 7)
  | .kdrn _ _ => true
  | .kstat _ => true
  | .kseal _ => true
  | .kclear _ => true
  | .semts _ => true
  | .semtry _ => true
  | .semclr _ => true
  | .crd _ _ => true
  | .cwr _ _ _ => true
  | .qatom _ _ r c o _ => decide (o.toNat < 7) && decide (¬ (r = 1 ∧ c = 1))
  | .barv a sf _ => isBarScope sf && isPred a
  | .barw sf _ => isBarScope sf
  | .bara _ sf _ => isBarScope sf
  | .baraInit _ sf _ => isBarScope sf
  | .quadMessage _ _ _ _ => true
  | .tspawn _ => true
  | .twait _ => true
  | .texit _ => true
  | .texitAbort _ => true
  | .tyield => true
  | .qpush _ _ _ _ => true
  | .qpop _ _ _ => true
  | .vrel => true
  | .tstat n => decide (n.toNat < 6)
  | .evdec _ _ _ => true
  | .evinc _ _ _ => true
  | .rgather _ _ b _ => isPair b
  | .rscat _ _ b _ => isPair b
  | .rscatadd _ _ b _ => isPair b
  | .rgstat => true
  | .deferredMce => true
  | .br _ c _ _ => decide (c.toNat < 6)
  | .jmp _ => true
  | .call _ => true
  | .jr _ => true
  | .callr _ => true
  | .ret => true
  | .gcall _ => true
  | .trap _ => true
  | .eret => true
  | .gret => true
  | .waiti => true
  | .halt => true
  | .fence sf k => isScope sf && decide (k ≠ 0)
  | .win _ _ => true
  | .tlbinv _ _ => true
  | .qsend d _ => decide (d.toNat < 4)
  | .qrecv d a => isScalarDest d && decide (4 ≤ a.toNat) && isQueue a
  | .qstat d a => isScalarDest d && isQueue a
  | .vqrecv _ a => decide (a.toNat < 4)
  | .shlst _ a b _ => isPair a && isPair b
  | .kvxlt _ _ b _ => isPair b
  | .pageInComplete _ => true
  | .kvcommit a _ => isPair a
  | .kvroll a _ => isPair a
  | .kvfork a _ => isPair a
  | .mcst _ _ _ _ => true
  | .coll _ a => isPair a
  | .cwaitc _ => true
  | .collCompletion _ => true
  | .skbld _ _ a _ => isPair a
  | .sksub _ _ => true
  | .skpeel _ a _ => isPair a
  | .skrecon _ a _ => isPair a
  | .skstat _ => true
  | .skiverPeerRequest _ _ => true
  | .li _ _ => true
  | .lf _ _ => true
  | .annulledStep => true
  | .interrupt => true
  | .timer => true
  | .ipset _ => true
  | .budgetExhausted => true
  | .budget => true
  | .taskDispatch => true
  | .queuePull _ => true
  | .aging => true
  | .preemptTimeout => true
  | .preemption => true
  | .repartition => true
  | .cinchSample => true
  | .cinchInterval => true
  | .cinchMoveComplete => true
  | .remoteAccess _ _ _ => true
  | .podBarrierMessage _ _ _ => true
  | .flitReceive _ _ _ => true
  | .linkReplay _ => true
  | .linkRetrain _ => true
  | .linkDown _ => true
  | .remoteTimeout _ => true
  | .admitPackage _ => true
  | .retentionEntry _ => true
  | .retentionExit _ => true
  | .tscSync _ => true
  | .throttle _ => true
  | .packageReset _ => true
  | .hostWindowAccess _ _ _ => true
  | .controlWindowWrite _ _ => true
  | .hdoor _ => true
  | .harnessReplay => true
  | .endReplay => true
  | .launch => true
  | .waitev => true
  | .evadd => true
  | .kload => true
  | .graph => true
  | .notify => true
  | .cancel _ => true
  | .hdbell _ => true
  | .getVersion => true
  | .getCapabilities => true
  | .negotiateAlgorithms => true
  | .getDigests => true
  | .getCertificate => true
  | .challenge => true
  | .getMeasurements => true
  | .linkUp _ => true
  | .hostConfigRequest _ => true

end Sys2Proof
end

