-- ==== Sys2Proof/Decode.lean ====
section
/-! DEFINITION. The decoder and the encoder (R49, R54, R56–R63, R412). A word is split into the five fields of the R
format; every format is a way of reading them.  `candidate` picks the constructor by major and function code, and
`decode` accepts it only when its fields are of their class and its encoding is the word itself, which is the rule that
an unused bit must be zero (R58). -/

namespace Sys2Proof

/-- The fields of an instruction word in the R format (R54); the other formats are read from the same fields. -/
structure RWord where
  op : BitVec 6
  d : BitVec 7
  a : BitVec 7
  b : BitVec 7
  fn : BitVec 5
deriving DecidableEq, Repr

/-- Bits 31:26, 25:19, 18:12, 11:5 and 4:0 of the word (R54). -/
def RWord.ofWord (w : BitVec 32) : RWord :=
  ⟨w.extractLsb' 26 6, w.extractLsb' 19 7, w.extractLsb' 12 7, w.extractLsb' 5 7, w.extractLsb' 0 5⟩

/-- The word whose fields these are. -/
def RWord.toWord (r : RWord) : BitVec 32 := r.op ++ r.d ++ r.a ++ r.b ++ r.fn

/-- Why a word is no instruction: the checks of R59 steps 1 to 3, each of which raises ILL. -/
inductive DecodeError where
  /-- a reserved major opcode (R61) -/
  | reservedMajor
  /-- a reserved function, condition or width code (R62, R63) -/
  | reservedFunction
  /-- a must-be-zero bit that is set, or an operand value outside its class (R55, R58) -/
  | badField
deriving DecidableEq, Repr

/-- The form bits of a V-format major and the b field that the form gives (R56). -/
def VSrc.form : VSrc → BitVec 2
  | .vv _ => 0
  | .vs _ => 1
  | .vi _ => 2
  | .vl _ => 3

/-- The b field of the word: zero in the literal form (R56). -/
def VSrc.field : VSrc → BitVec 7
  | .vv b => b
  | .vs b => b
  | .vi b => b
  | .vl _ => 0

/-- The b operand that a form and a b field name; the literal is the word after the instruction (R49, R56). -/
def VSrc.ofForm (f : BitVec 2) (b : BitVec 7) (lit : BitVec 32) : VSrc :=
  match f.toNat with
  | 0 => .vv b
  | 1 => .vs b
  | 2 => .vi b
  | _ => .vl lit

/-- A word has a trailing literal: major 0x10–0x1F with bits 27:26 equal to 0b11 (R49). -/
def hasLiteral (w : BitVec 32) : Bool := w.extractLsb' 30 2 == 1#2 && w.extractLsb' 26 2 == 3#2

/-- The word of ADD. -/
def encAdd (d : BitVec 7) (a : BitVec 7) (b : BitVec 7) : RWord := ⟨0#6, d, a, b, 0#5⟩
/-- The word of SUB. -/
def encSub (d : BitVec 7) (a : BitVec 7) (b : BitVec 7) : RWord := ⟨0#6, d, a, b, 1#5⟩
/-- The word of AND. -/
def encAnd (d : BitVec 7) (a : BitVec 7) (b : BitVec 7) : RWord := ⟨0#6, d, a, b, 2#5⟩
/-- The word of OR. -/
def encOr (d : BitVec 7) (a : BitVec 7) (b : BitVec 7) : RWord := ⟨0#6, d, a, b, 3#5⟩
/-- The word of XOR. -/
def encXor (d : BitVec 7) (a : BitVec 7) (b : BitVec 7) : RWord := ⟨0#6, d, a, b, 4#5⟩
/-- The word of ANDN. -/
def encAndn (d : BitVec 7) (a : BitVec 7) (b : BitVec 7) : RWord := ⟨0#6, d, a, b, 5#5⟩
/-- The word of ORN. -/
def encOrn (d : BitVec 7) (a : BitVec 7) (b : BitVec 7) : RWord := ⟨0#6, d, a, b, 6#5⟩
/-- The word of SLL. -/
def encSll (d : BitVec 7) (a : BitVec 7) (b : BitVec 7) : RWord := ⟨0#6, d, a, b, 8#5⟩
/-- The word of SRL. -/
def encSrl (d : BitVec 7) (a : BitVec 7) (b : BitVec 7) : RWord := ⟨0#6, d, a, b, 9#5⟩
/-- The word of SRA. -/
def encSra (d : BitVec 7) (a : BitVec 7) (b : BitVec 7) : RWord := ⟨0#6, d, a, b, 10#5⟩
/-- The word of ROR. -/
def encRor (d : BitVec 7) (a : BitVec 7) (b : BitVec 7) : RWord := ⟨0#6, d, a, b, 11#5⟩
/-- The word of MUL. -/
def encMul (d : BitVec 7) (a : BitVec 7) (b : BitVec 7) : RWord := ⟨0#6, d, a, b, 12#5⟩
/-- The word of MULH. -/
def encMulh (d : BitVec 7) (a : BitVec 7) (b : BitVec 7) : RWord := ⟨0#6, d, a, b, 13#5⟩
/-- The word of MULHU. -/
def encMulhu (d : BitVec 7) (a : BitVec 7) (b : BitVec 7) : RWord := ⟨0#6, d, a, b, 14#5⟩
/-- The word of DIV. -/
def encDiv (d : BitVec 7) (a : BitVec 7) (b : BitVec 7) : RWord := ⟨0#6, d, a, b, 16#5⟩
/-- The word of DIVU. -/
def encDivu (d : BitVec 7) (a : BitVec 7) (b : BitVec 7) : RWord := ⟨0#6, d, a, b, 17#5⟩
/-- The word of REM. -/
def encRem (d : BitVec 7) (a : BitVec 7) (b : BitVec 7) : RWord := ⟨0#6, d, a, b, 18#5⟩
/-- The word of REMU. -/
def encRemu (d : BitVec 7) (a : BitVec 7) (b : BitVec 7) : RWord := ⟨0#6, d, a, b, 19#5⟩
/-- The word of MIN. -/
def encMin (d : BitVec 7) (a : BitVec 7) (b : BitVec 7) : RWord := ⟨0#6, d, a, b, 20#5⟩
/-- The word of MAX. -/
def encMax (d : BitVec 7) (a : BitVec 7) (b : BitVec 7) : RWord := ⟨0#6, d, a, b, 21#5⟩
/-- The word of MINU. -/
def encMinu (d : BitVec 7) (a : BitVec 7) (b : BitVec 7) : RWord := ⟨0#6, d, a, b, 22#5⟩
/-- The word of MAXU. -/
def encMaxu (d : BitVec 7) (a : BitVec 7) (b : BitVec 7) : RWord := ⟨0#6, d, a, b, 23#5⟩
/-- The word of ADDW. -/
def encAddw (d : BitVec 7) (a : BitVec 7) (b : BitVec 7) : RWord := ⟨0#6, d, a, b, 24#5⟩
/-- The word of SUBW. -/
def encSubw (d : BitVec 7) (a : BitVec 7) (b : BitVec 7) : RWord := ⟨0#6, d, a, b, 25#5⟩
/-- The word of SEQ. -/
def encSeq (d : BitVec 7) (a : BitVec 7) (b : BitVec 7) : RWord := ⟨1#6, d, a, b, 0#5⟩
/-- The word of SNE. -/
def encSne (d : BitVec 7) (a : BitVec 7) (b : BitVec 7) : RWord := ⟨1#6, d, a, b, 1#5⟩
/-- The word of SLT. -/
def encSlt (d : BitVec 7) (a : BitVec 7) (b : BitVec 7) : RWord := ⟨1#6, d, a, b, 2#5⟩
/-- The word of SGE. -/
def encSge (d : BitVec 7) (a : BitVec 7) (b : BitVec 7) : RWord := ⟨1#6, d, a, b, 3#5⟩
/-- The word of SLTU. -/
def encSltu (d : BitVec 7) (a : BitVec 7) (b : BitVec 7) : RWord := ⟨1#6, d, a, b, 4#5⟩
/-- The word of SGEU. -/
def encSgeu (d : BitVec 7) (a : BitVec 7) (b : BitVec 7) : RWord := ⟨1#6, d, a, b, 5#5⟩
/-- The word of ADDI. -/
def encAddi (d : BitVec 7) (a : BitVec 7) (im : BitVec 12) : RWord := ⟨2#6, d, a, (im.extractLsb' 5 7), (im.extractLsb' 0 5)⟩
/-- The word of ANDI. -/
def encAndi (d : BitVec 7) (a : BitVec 7) (im : BitVec 12) : RWord := ⟨3#6, d, a, (im.extractLsb' 5 7), (im.extractLsb' 0 5)⟩
/-- The word of ORI. -/
def encOri (d : BitVec 7) (a : BitVec 7) (im : BitVec 12) : RWord := ⟨4#6, d, a, (im.extractLsb' 5 7), (im.extractLsb' 0 5)⟩
/-- The word of XORI. -/
def encXori (d : BitVec 7) (a : BitVec 7) (im : BitVec 12) : RWord := ⟨5#6, d, a, (im.extractLsb' 5 7), (im.extractLsb' 0 5)⟩
/-- The word of SLLI. -/
def encSlli (d : BitVec 7) (a : BitVec 7) (sf : BitVec 6) : RWord := ⟨6#6, d, a, (0#6 ++ (sf.extractLsb' 5 1)), (sf.extractLsb' 0 5)⟩
/-- The word of SRLI. -/
def encSrli (d : BitVec 7) (a : BitVec 7) (sf : BitVec 6) : RWord := ⟨6#6, d, a, (1#6 ++ (sf.extractLsb' 5 1)), (sf.extractLsb' 0 5)⟩
/-- The word of SRAI. -/
def encSrai (d : BitVec 7) (a : BitVec 7) (sf : BitVec 6) : RWord := ⟨6#6, d, a, (2#6 ++ (sf.extractLsb' 5 1)), (sf.extractLsb' 0 5)⟩
/-- The word of RORI. -/
def encRori (d : BitVec 7) (a : BitVec 7) (sf : BitVec 6) : RWord := ⟨6#6, d, a, (3#6 ++ (sf.extractLsb' 5 1)), (sf.extractLsb' 0 5)⟩
/-- The word of CLZ. -/
def encClz (d : BitVec 7) (a : BitVec 7) : RWord := ⟨7#6, d, a, 0#7, 0#5⟩
/-- The word of CTZ. -/
def encCtz (d : BitVec 7) (a : BitVec 7) : RWord := ⟨7#6, d, a, 0#7, 1#5⟩
/-- The word of POPC. -/
def encPopc (d : BitVec 7) (a : BitVec 7) : RWord := ⟨7#6, d, a, 0#7, 2#5⟩
/-- The word of SEXTB. -/
def encSextb (d : BitVec 7) (a : BitVec 7) : RWord := ⟨7#6, d, a, 0#7, 3#5⟩
/-- The word of SEXTH. -/
def encSexth (d : BitVec 7) (a : BitVec 7) : RWord := ⟨7#6, d, a, 0#7, 4#5⟩
/-- The word of SEXTW. -/
def encSextw (d : BitVec 7) (a : BitVec 7) : RWord := ⟨7#6, d, a, 0#7, 5#5⟩
/-- The word of ZEXTB. -/
def encZextb (d : BitVec 7) (a : BitVec 7) : RWord := ⟨7#6, d, a, 0#7, 6#5⟩
/-- The word of ZEXTH. -/
def encZexth (d : BitVec 7) (a : BitVec 7) : RWord := ⟨7#6, d, a, 0#7, 7#5⟩
/-- The word of ZEXTW. -/
def encZextw (d : BitVec 7) (a : BitVec 7) : RWord := ⟨7#6, d, a, 0#7, 8#5⟩
/-- The word of BSWAP. -/
def encBswap (d : BitVec 7) (a : BitVec 7) : RWord := ⟨7#6, d, a, 0#7, 9#5⟩
/-- The word of LDB. -/
def encLdb (d : BitVec 7) (a : BitVec 7) (o : BitVec 9) : RWord := ⟨8#6, d, a, (o.extractLsb' 2 7), ((o.extractLsb' 0 2) ++ 0#3)⟩
/-- The word of LDBU. -/
def encLdbu (d : BitVec 7) (a : BitVec 7) (o : BitVec 9) : RWord := ⟨8#6, d, a, (o.extractLsb' 2 7), ((o.extractLsb' 0 2) ++ 1#3)⟩
/-- The word of LDH. -/
def encLdh (d : BitVec 7) (a : BitVec 7) (o : BitVec 9) : RWord := ⟨8#6, d, a, (o.extractLsb' 2 7), ((o.extractLsb' 0 2) ++ 2#3)⟩
/-- The word of LDHU. -/
def encLdhu (d : BitVec 7) (a : BitVec 7) (o : BitVec 9) : RWord := ⟨8#6, d, a, (o.extractLsb' 2 7), ((o.extractLsb' 0 2) ++ 3#3)⟩
/-- The word of LDW. -/
def encLdw (d : BitVec 7) (a : BitVec 7) (o : BitVec 9) : RWord := ⟨8#6, d, a, (o.extractLsb' 2 7), ((o.extractLsb' 0 2) ++ 4#3)⟩
/-- The word of LDWU. -/
def encLdwu (d : BitVec 7) (a : BitVec 7) (o : BitVec 9) : RWord := ⟨8#6, d, a, (o.extractLsb' 2 7), ((o.extractLsb' 0 2) ++ 5#3)⟩
/-- The word of LDD. -/
def encLdd (d : BitVec 7) (a : BitVec 7) (o : BitVec 9) : RWord := ⟨8#6, d, a, (o.extractLsb' 2 7), ((o.extractLsb' 0 2) ++ 6#3)⟩
/-- The word of STB. -/
def encStb (d : BitVec 7) (a : BitVec 7) (o : BitVec 9) : RWord := ⟨9#6, d, a, (o.extractLsb' 2 7), ((o.extractLsb' 0 2) ++ 0#3)⟩
/-- The word of STH. -/
def encSth (d : BitVec 7) (a : BitVec 7) (o : BitVec 9) : RWord := ⟨9#6, d, a, (o.extractLsb' 2 7), ((o.extractLsb' 0 2) ++ 2#3)⟩
/-- The word of STW. -/
def encStw (d : BitVec 7) (a : BitVec 7) (o : BitVec 9) : RWord := ⟨9#6, d, a, (o.extractLsb' 2 7), ((o.extractLsb' 0 2) ++ 4#3)⟩
/-- The word of STD. -/
def encStd (d : BitVec 7) (a : BitVec 7) (o : BitVec 9) : RWord := ⟨9#6, d, a, (o.extractLsb' 2 7), ((o.extractLsb' 0 2) ++ 6#3)⟩
/-- The word of LDXB. -/
def encLdxb (d : BitVec 7) (a : BitVec 7) (b : BitVec 7) (sf : BitVec 1) : RWord := ⟨10#6, d, a, b, (0#1 ++ sf ++ 0#3)⟩
/-- The word of LDXBU. -/
def encLdxbu (d : BitVec 7) (a : BitVec 7) (b : BitVec 7) (sf : BitVec 1) : RWord := ⟨10#6, d, a, b, (0#1 ++ sf ++ 1#3)⟩
/-- The word of LDXH. -/
def encLdxh (d : BitVec 7) (a : BitVec 7) (b : BitVec 7) (sf : BitVec 1) : RWord := ⟨10#6, d, a, b, (0#1 ++ sf ++ 2#3)⟩
/-- The word of LDXHU. -/
def encLdxhu (d : BitVec 7) (a : BitVec 7) (b : BitVec 7) (sf : BitVec 1) : RWord := ⟨10#6, d, a, b, (0#1 ++ sf ++ 3#3)⟩
/-- The word of LDXW. -/
def encLdxw (d : BitVec 7) (a : BitVec 7) (b : BitVec 7) (sf : BitVec 1) : RWord := ⟨10#6, d, a, b, (0#1 ++ sf ++ 4#3)⟩
/-- The word of LDXWU. -/
def encLdxwu (d : BitVec 7) (a : BitVec 7) (b : BitVec 7) (sf : BitVec 1) : RWord := ⟨10#6, d, a, b, (0#1 ++ sf ++ 5#3)⟩
/-- The word of LDXD. -/
def encLdxd (d : BitVec 7) (a : BitVec 7) (b : BitVec 7) (sf : BitVec 1) : RWord := ⟨10#6, d, a, b, (0#1 ++ sf ++ 6#3)⟩
/-- The word of STXB. -/
def encStxb (d : BitVec 7) (a : BitVec 7) (b : BitVec 7) (sf : BitVec 1) : RWord := ⟨10#6, d, a, b, (1#1 ++ sf ++ 0#3)⟩
/-- The word of STXH. -/
def encStxh (d : BitVec 7) (a : BitVec 7) (b : BitVec 7) (sf : BitVec 1) : RWord := ⟨10#6, d, a, b, (1#1 ++ sf ++ 2#3)⟩
/-- The word of STXW. -/
def encStxw (d : BitVec 7) (a : BitVec 7) (b : BitVec 7) (sf : BitVec 1) : RWord := ⟨10#6, d, a, b, (1#1 ++ sf ++ 4#3)⟩
/-- The word of STXD. -/
def encStxd (d : BitVec 7) (a : BitVec 7) (b : BitVec 7) (sf : BitVec 1) : RWord := ⟨10#6, d, a, b, (1#1 ++ sf ++ 6#3)⟩
/-- The word of FADD. -/
def encFadd (d : BitVec 7) (a : BitVec 7) (b : BitVec 7) : RWord := ⟨11#6, d, a, b, 0#5⟩
/-- The word of FSUB. -/
def encFsub (d : BitVec 7) (a : BitVec 7) (b : BitVec 7) : RWord := ⟨11#6, d, a, b, 1#5⟩
/-- The word of FMUL. -/
def encFmul (d : BitVec 7) (a : BitVec 7) (b : BitVec 7) : RWord := ⟨11#6, d, a, b, 2#5⟩
/-- The word of FDIV. -/
def encFdiv (d : BitVec 7) (a : BitVec 7) (b : BitVec 7) : RWord := ⟨11#6, d, a, b, 3#5⟩
/-- The word of FSQRT. -/
def encFsqrt (d : BitVec 7) (a : BitVec 7) : RWord := ⟨11#6, d, a, 0#7, 4#5⟩
/-- The word of FMIN. -/
def encFmin (d : BitVec 7) (a : BitVec 7) (b : BitVec 7) : RWord := ⟨11#6, d, a, b, 5#5⟩
/-- The word of FMAX. -/
def encFmax (d : BitVec 7) (a : BitVec 7) (b : BitVec 7) : RWord := ⟨11#6, d, a, b, 6#5⟩
/-- The word of FEQ. -/
def encFeq (d : BitVec 7) (a : BitVec 7) (b : BitVec 7) : RWord := ⟨11#6, d, a, b, 7#5⟩
/-- The word of FLT. -/
def encFlt (d : BitVec 7) (a : BitVec 7) (b : BitVec 7) : RWord := ⟨11#6, d, a, b, 8#5⟩
/-- The word of FLE. -/
def encFle (d : BitVec 7) (a : BitVec 7) (b : BitVec 7) : RWord := ⟨11#6, d, a, b, 9#5⟩
/-- The word of FCLASS. -/
def encFclass (d : BitVec 7) (a : BitVec 7) : RWord := ⟨11#6, d, a, 0#7, 10#5⟩
/-- The word of FCVTSW. -/
def encFcvtsw (d : BitVec 7) (a : BitVec 7) : RWord := ⟨11#6, d, a, 0#7, 11#5⟩
/-- The word of FCVTSWU. -/
def encFcvtswu (d : BitVec 7) (a : BitVec 7) : RWord := ⟨11#6, d, a, 0#7, 12#5⟩
/-- The word of FCVTWS. -/
def encFcvtws (d : BitVec 7) (a : BitVec 7) : RWord := ⟨11#6, d, a, 0#7, 13#5⟩
/-- The word of FCVTWUS. -/
def encFcvtwus (d : BitVec 7) (a : BitVec 7) : RWord := ⟨11#6, d, a, 0#7, 14#5⟩
/-- The word of FCVTHS. -/
def encFcvths (d : BitVec 7) (a : BitVec 7) : RWord := ⟨11#6, d, a, 0#7, 16#5⟩
/-- The word of FCVTSH. -/
def encFcvtsh (d : BitVec 7) (a : BitVec 7) : RWord := ⟨11#6, d, a, 0#7, 17#5⟩
/-- The word of FCVTBS. -/
def encFcvtbs (d : BitVec 7) (a : BitVec 7) : RWord := ⟨11#6, d, a, 0#7, 18#5⟩
/-- The word of FCVTSB. -/
def encFcvtsb (d : BitVec 7) (a : BitVec 7) : RWord := ⟨11#6, d, a, 0#7, 19#5⟩
/-- The word of FMADD. -/
def encFmadd (d : BitVec 7) (a : BitVec 7) (b : BitVec 7) : RWord := ⟨12#6, d, a, b, 0#5⟩
/-- The word of FMSUB. -/
def encFmsub (d : BitVec 7) (a : BitVec 7) (b : BitVec 7) : RWord := ⟨12#6, d, a, b, 1#5⟩
/-- The word of FNMADD. -/
def encFnmadd (d : BitVec 7) (a : BitVec 7) (b : BitVec 7) : RWord := ⟨12#6, d, a, b, 2#5⟩
/-- The word of FNMSUB. -/
def encFnmsub (d : BitVec 7) (a : BitVec 7) (b : BitVec 7) : RWord := ⟨12#6, d, a, b, 3#5⟩
/-- The word of MFS. -/
def encMfs (d : BitVec 7) (n : BitVec 12) : RWord := ⟨13#6, d, 0#7, (n.extractLsb' 5 7), (n.extractLsb' 0 5)⟩
/-- The word of MTS. -/
def encMts (a : BitVec 7) (n : BitVec 12) : RWord := ⟨14#6, 0#7, a, (n.extractLsb' 5 7), (n.extractLsb' 0 5)⟩
/-- The word of VADD. -/
def encVadd (d : BitVec 7) (a : BitVec 7) (b : VSrc) (m : BitVec 1) : RWord := ⟨(4#4 ++ b.form), d, a, b.field, (m ++ 0#4)⟩
/-- The word of VSUB. -/
def encVsub (d : BitVec 7) (a : BitVec 7) (b : VSrc) (m : BitVec 1) : RWord := ⟨(4#4 ++ b.form), d, a, b.field, (m ++ 1#4)⟩
/-- The word of VRSUB. -/
def encVrsub (d : BitVec 7) (a : BitVec 7) (b : VSrc) (m : BitVec 1) : RWord := ⟨(4#4 ++ b.form), d, a, b.field, (m ++ 2#4)⟩
/-- The word of VMUL. -/
def encVmul (d : BitVec 7) (a : BitVec 7) (b : VSrc) (m : BitVec 1) : RWord := ⟨(4#4 ++ b.form), d, a, b.field, (m ++ 3#4)⟩
/-- The word of VMULH. -/
def encVmulh (d : BitVec 7) (a : BitVec 7) (b : VSrc) (m : BitVec 1) : RWord := ⟨(4#4 ++ b.form), d, a, b.field, (m ++ 4#4)⟩
/-- The word of VMIN. -/
def encVmin (d : BitVec 7) (a : BitVec 7) (b : VSrc) (m : BitVec 1) : RWord := ⟨(4#4 ++ b.form), d, a, b.field, (m ++ 5#4)⟩
/-- The word of VMAX. -/
def encVmax (d : BitVec 7) (a : BitVec 7) (b : VSrc) (m : BitVec 1) : RWord := ⟨(4#4 ++ b.form), d, a, b.field, (m ++ 6#4)⟩
/-- The word of VMINU. -/
def encVminu (d : BitVec 7) (a : BitVec 7) (b : VSrc) (m : BitVec 1) : RWord := ⟨(4#4 ++ b.form), d, a, b.field, (m ++ 7#4)⟩
/-- The word of VMAXU. -/
def encVmaxu (d : BitVec 7) (a : BitVec 7) (b : VSrc) (m : BitVec 1) : RWord := ⟨(4#4 ++ b.form), d, a, b.field, (m ++ 8#4)⟩
/-- The word of VAND. -/
def encVand (d : BitVec 7) (a : BitVec 7) (b : VSrc) (m : BitVec 1) : RWord := ⟨(4#4 ++ b.form), d, a, b.field, (m ++ 9#4)⟩
/-- The word of VOR. -/
def encVor (d : BitVec 7) (a : BitVec 7) (b : VSrc) (m : BitVec 1) : RWord := ⟨(4#4 ++ b.form), d, a, b.field, (m ++ 10#4)⟩
/-- The word of VXOR. -/
def encVxor (d : BitVec 7) (a : BitVec 7) (b : VSrc) (m : BitVec 1) : RWord := ⟨(4#4 ++ b.form), d, a, b.field, (m ++ 11#4)⟩
/-- The word of VSLL. -/
def encVsll (d : BitVec 7) (a : BitVec 7) (b : VSrc) (m : BitVec 1) : RWord := ⟨(4#4 ++ b.form), d, a, b.field, (m ++ 12#4)⟩
/-- The word of VSRL. -/
def encVsrl (d : BitVec 7) (a : BitVec 7) (b : VSrc) (m : BitVec 1) : RWord := ⟨(4#4 ++ b.form), d, a, b.field, (m ++ 13#4)⟩
/-- The word of VSRA. -/
def encVsra (d : BitVec 7) (a : BitVec 7) (b : VSrc) (m : BitVec 1) : RWord := ⟨(4#4 ++ b.form), d, a, b.field, (m ++ 14#4)⟩
/-- The word of VADDS. -/
def encVadds (d : BitVec 7) (a : BitVec 7) (b : VSrc) (m : BitVec 1) : RWord := ⟨(4#4 ++ b.form), d, a, b.field, (m ++ 15#4)⟩
/-- The word of VFADD. -/
def encVfadd (d : BitVec 7) (a : BitVec 7) (b : VSrc) (m : BitVec 1) : RWord := ⟨(5#4 ++ b.form), d, a, b.field, (m ++ 0#4)⟩
/-- The word of VFSUB. -/
def encVfsub (d : BitVec 7) (a : BitVec 7) (b : VSrc) (m : BitVec 1) : RWord := ⟨(5#4 ++ b.form), d, a, b.field, (m ++ 1#4)⟩
/-- The word of VFMUL. -/
def encVfmul (d : BitVec 7) (a : BitVec 7) (b : VSrc) (m : BitVec 1) : RWord := ⟨(5#4 ++ b.form), d, a, b.field, (m ++ 2#4)⟩
/-- The word of VFDIV. -/
def encVfdiv (d : BitVec 7) (a : BitVec 7) (b : VSrc) (m : BitVec 1) : RWord := ⟨(5#4 ++ b.form), d, a, b.field, (m ++ 3#4)⟩
/-- The word of VFMIN. -/
def encVfmin (d : BitVec 7) (a : BitVec 7) (b : VSrc) (m : BitVec 1) : RWord := ⟨(5#4 ++ b.form), d, a, b.field, (m ++ 4#4)⟩
/-- The word of VFMAX. -/
def encVfmax (d : BitVec 7) (a : BitVec 7) (b : VSrc) (m : BitVec 1) : RWord := ⟨(5#4 ++ b.form), d, a, b.field, (m ++ 5#4)⟩
/-- The word of VFSQRT. -/
def encVfsqrt (d : BitVec 7) (a : BitVec 7) (m : BitVec 1) : RWord := ⟨20#6, d, a, 0#7, (m ++ 6#4)⟩
/-- The word of VEXP2. -/
def encVexp2 (d : BitVec 7) (a : BitVec 7) (m : BitVec 1) : RWord := ⟨20#6, d, a, 0#7, (m ++ 7#4)⟩
/-- The word of VLOG2. -/
def encVlog2 (d : BitVec 7) (a : BitVec 7) (m : BitVec 1) : RWord := ⟨20#6, d, a, 0#7, (m ++ 8#4)⟩
/-- The word of VRCP. -/
def encVrcp (d : BitVec 7) (a : BitVec 7) (m : BitVec 1) : RWord := ⟨20#6, d, a, 0#7, (m ++ 9#4)⟩
/-- The word of VRSQRT. -/
def encVrsqrt (d : BitVec 7) (a : BitVec 7) (m : BitVec 1) : RWord := ⟨20#6, d, a, 0#7, (m ++ 10#4)⟩
/-- The word of VFSGN. -/
def encVfsgn (d : BitVec 7) (a : BitVec 7) (b : VSrc) (m : BitVec 1) : RWord := ⟨(5#4 ++ b.form), d, a, b.field, (m ++ 11#4)⟩
/-- The word of VFMA. -/
def encVfma (d : BitVec 7) (a : BitVec 7) (b : VSrc) (m : BitVec 1) : RWord := ⟨(6#4 ++ b.form), d, a, b.field, (m ++ 0#4)⟩
/-- The word of VFMS. -/
def encVfms (d : BitVec 7) (a : BitVec 7) (b : VSrc) (m : BitVec 1) : RWord := ⟨(6#4 ++ b.form), d, a, b.field, (m ++ 1#4)⟩
/-- The word of VFNMA. -/
def encVfnma (d : BitVec 7) (a : BitVec 7) (b : VSrc) (m : BitVec 1) : RWord := ⟨(6#4 ++ b.form), d, a, b.field, (m ++ 2#4)⟩
/-- The word of VFNMS. -/
def encVfnms (d : BitVec 7) (a : BitVec 7) (b : VSrc) (m : BitVec 1) : RWord := ⟨(6#4 ++ b.form), d, a, b.field, (m ++ 3#4)⟩
/-- The word of VMADD. -/
def encVmadd (d : BitVec 7) (a : BitVec 7) (b : VSrc) (m : BitVec 1) : RWord := ⟨(6#4 ++ b.form), d, a, b.field, (m ++ 4#4)⟩
/-- The word of VMSUB. -/
def encVmsub (d : BitVec 7) (a : BitVec 7) (b : VSrc) (m : BitVec 1) : RWord := ⟨(6#4 ++ b.form), d, a, b.field, (m ++ 5#4)⟩
/-- The word of VSEQ. -/
def encVseq (d : BitVec 7) (a : BitVec 7) (b : VSrc) (m : BitVec 1) : RWord := ⟨(7#4 ++ b.form), d, a, b.field, (m ++ 0#4)⟩
/-- The word of VSNE. -/
def encVsne (d : BitVec 7) (a : BitVec 7) (b : VSrc) (m : BitVec 1) : RWord := ⟨(7#4 ++ b.form), d, a, b.field, (m ++ 1#4)⟩
/-- The word of VSLT. -/
def encVslt (d : BitVec 7) (a : BitVec 7) (b : VSrc) (m : BitVec 1) : RWord := ⟨(7#4 ++ b.form), d, a, b.field, (m ++ 2#4)⟩
/-- The word of VSGE. -/
def encVsge (d : BitVec 7) (a : BitVec 7) (b : VSrc) (m : BitVec 1) : RWord := ⟨(7#4 ++ b.form), d, a, b.field, (m ++ 3#4)⟩
/-- The word of VSLTU. -/
def encVsltu (d : BitVec 7) (a : BitVec 7) (b : VSrc) (m : BitVec 1) : RWord := ⟨(7#4 ++ b.form), d, a, b.field, (m ++ 4#4)⟩
/-- The word of VSGEU. -/
def encVsgeu (d : BitVec 7) (a : BitVec 7) (b : VSrc) (m : BitVec 1) : RWord := ⟨(7#4 ++ b.form), d, a, b.field, (m ++ 5#4)⟩
/-- The word of VFEQ. -/
def encVfeq (d : BitVec 7) (a : BitVec 7) (b : VSrc) (m : BitVec 1) : RWord := ⟨(7#4 ++ b.form), d, a, b.field, (m ++ 6#4)⟩
/-- The word of VFLT. -/
def encVflt (d : BitVec 7) (a : BitVec 7) (b : VSrc) (m : BitVec 1) : RWord := ⟨(7#4 ++ b.form), d, a, b.field, (m ++ 7#4)⟩
/-- The word of VFLE. -/
def encVfle (d : BitVec 7) (a : BitVec 7) (b : VSrc) (m : BitVec 1) : RWord := ⟨(7#4 ++ b.form), d, a, b.field, (m ++ 8#4)⟩
/-- The word of VFUNORD. -/
def encVfunord (d : BitVec 7) (a : BitVec 7) (b : VSrc) (m : BitVec 1) : RWord := ⟨(7#4 ++ b.form), d, a, b.field, (m ++ 9#4)⟩
/-- The word of VMV. -/
def encVmv (d : BitVec 7) (a : BitVec 7) (m : BitVec 1) : RWord := ⟨32#6, d, a, 0#7, (m ++ 0#4)⟩
/-- The word of VSEL. -/
def encVsel (d : BitVec 7) (a : BitVec 7) (b : BitVec 7) : RWord := ⟨32#6, d, a, b, 1#5⟩
/-- The word of VIOTA. -/
def encViota (d : BitVec 7) : RWord := ⟨32#6, d, 0#7, 0#7, 2#5⟩
/-- The word of VSLIDEUP. -/
def encVslideup (d : BitVec 7) (a : BitVec 7) (b : BitVec 7) (m : BitVec 1) : RWord := ⟨32#6, d, a, b, (m ++ 3#4)⟩
/-- The word of VSLIDEDN. -/
def encVslidedn (d : BitVec 7) (a : BitVec 7) (b : BitVec 7) (m : BitVec 1) : RWord := ⟨32#6, d, a, b, (m ++ 4#4)⟩
/-- The word of VREV. -/
def encVrev (d : BitVec 7) (a : BitVec 7) (m : BitVec 1) : RWord := ⟨32#6, d, a, 0#7, (m ++ 5#4)⟩
/-- The word of VCOMPRESS. -/
def encVcompress (d : BitVec 7) (a : BitVec 7) : RWord := ⟨32#6, d, a, 0#7, 6#5⟩
/-- The word of VEXPAND. -/
def encVexpand (d : BitVec 7) (a : BitVec 7) : RWord := ⟨32#6, d, a, 0#7, 7#5⟩
/-- The word of VTOS. -/
def encVtos (a : BitVec 7) (b : BitVec 7) : RWord := ⟨32#6, 0#7, a, b, 8#5⟩
/-- The word of STOV. -/
def encStov (d : BitVec 7) (b : BitVec 7) (m : BitVec 1) : RWord := ⟨32#6, d, 0#7, b, (m ++ 9#4)⟩
/-- The word of VPERM. -/
def encVperm (d : BitVec 7) (a : BitVec 7) (b : BitVec 7) (m : BitVec 1) : RWord := ⟨32#6, d, a, b, (m ++ 10#4)⟩
/-- The word of VZIP. -/
def encVzip (d : BitVec 7) (a : BitVec 7) (b : BitVec 7) : RWord := ⟨32#6, d, a, b, 11#5⟩
/-- The word of VUNZIP. -/
def encVunzip (d : BitVec 7) (a : BitVec 7) : RWord := ⟨32#6, d, a, 0#7, 12#5⟩
/-- The word of VREDSUM. -/
def encVredsum (d : BitVec 7) (a : BitVec 7) (q : BitVec 1) (m : BitVec 1) : RWord := ⟨33#6, d, a, (0#6 ++ q), (m ++ 0#4)⟩
/-- The word of VREDMAX. -/
def encVredmax (d : BitVec 7) (a : BitVec 7) (q : BitVec 1) (m : BitVec 1) : RWord := ⟨33#6, d, a, (0#6 ++ q), (m ++ 1#4)⟩
/-- The word of VREDMIN. -/
def encVredmin (d : BitVec 7) (a : BitVec 7) (q : BitVec 1) (m : BitVec 1) : RWord := ⟨33#6, d, a, (0#6 ++ q), (m ++ 2#4)⟩
/-- The word of VFREDSUM. -/
def encVfredsum (d : BitVec 7) (a : BitVec 7) (q : BitVec 1) (m : BitVec 1) : RWord := ⟨33#6, d, a, (0#6 ++ q), (m ++ 3#4)⟩
/-- The word of VFREDMAX. -/
def encVfredmax (d : BitVec 7) (a : BitVec 7) (q : BitVec 1) (m : BitVec 1) : RWord := ⟨33#6, d, a, (0#6 ++ q), (m ++ 4#4)⟩
/-- The word of VFREDMIN. -/
def encVfredmin (d : BitVec 7) (a : BitVec 7) (q : BitVec 1) (m : BitVec 1) : RWord := ⟨33#6, d, a, (0#6 ++ q), (m ++ 5#4)⟩
/-- The word of VSCAN. -/
def encVscan (d : BitVec 7) (a : BitVec 7) (m : BitVec 1) : RWord := ⟨33#6, d, a, 0#7, (m ++ 6#4)⟩
/-- The word of VFSCAN. -/
def encVfscan (d : BitVec 7) (a : BitVec 7) (m : BitVec 1) : RWord := ⟨33#6, d, a, 0#7, (m ++ 7#4)⟩
/-- The word of VSEGSUM. -/
def encVsegsum (d : BitVec 7) (a : BitVec 7) (b : BitVec 7) (m : BitVec 1) : RWord := ⟨33#6, d, a, b, (m ++ 8#4)⟩
/-- The word of VSEGMAX. -/
def encVsegmax (d : BitVec 7) (a : BitVec 7) (b : BitVec 7) (m : BitVec 1) : RWord := ⟨33#6, d, a, b, (m ++ 9#4)⟩
/-- The word of VCVT. -/
def encVcvt (d : BitVec 7) (a : BitVec 7) (t : BitVec 4) (sf : BitVec 1) (m : BitVec 1) : RWord := ⟨34#6, d, a, (t ++ sf ++ 0#2), (m ++ 0#4)⟩
/-- The word of VSMXE. -/
def encVsmxe (d : BitVec 7) (a : BitVec 7) (m : BitVec 1) : RWord := ⟨34#6, d, a, 0#7, (m ++ 1#4)⟩
/-- The word of VQUANT. -/
def encVquant (d : BitVec 7) (a : BitVec 7) (b : BitVec 7) (m : BitVec 1) : RWord := ⟨34#6, d, a, b, (m ++ 2#4)⟩
/-- The word of VDEQ. -/
def encVdeq (d : BitVec 7) (a : BitVec 7) (b : BitVec 7) (m : BitVec 1) : RWord := ⟨34#6, d, a, b, (m ++ 3#4)⟩
/-- The word of VPACK. -/
def encVpack (d : BitVec 7) (a : BitVec 7) (m : BitVec 1) : RWord := ⟨34#6, d, a, 0#7, (m ++ 4#4)⟩
/-- The word of VUNPK. -/
def encVunpk (d : BitVec 7) (a : BitVec 7) (sf : BitVec 1) (m : BitVec 1) : RWord := ⟨34#6, d, a, (0#6 ++ sf), (m ++ 5#4)⟩
/-- The word of VTOX. -/
def encVtox (d : BitVec 7) (a : BitVec 7) : RWord := ⟨34#6, d, a, 0#7, 6#5⟩
/-- The word of XTOV. -/
def encXtov (d : BitVec 7) (a : BitVec 7) : RWord := ⟨34#6, d, a, 0#7, 7#5⟩
/-- The word of VCFG. -/
def encVcfg (d : BitVec 7) (a : BitVec 7) (r : BitVec 5) (t : BitVec 4) : RWord := ⟨35#6, d, a, (0#3 ++ (r.extractLsb' 1 4)), ((r.extractLsb' 0 1) ++ t)⟩
/-- The word of VLD. -/
def encVld (d : BitVec 7) (a : BitVec 7) (m : BitVec 1) : RWord := ⟨36#6, d, a, 0#7, (m ++ 0#4)⟩
/-- The word of VLDS. -/
def encVlds (d : BitVec 7) (a : BitVec 7) (b : BitVec 7) (m : BitVec 1) : RWord := ⟨36#6, d, a, b, (m ++ 1#4)⟩
/-- The word of VST. -/
def encVst (d : BitVec 7) (a : BitVec 7) (m : BitVec 1) : RWord := ⟨36#6, d, a, 0#7, (m ++ 2#4)⟩
/-- The word of VSTS. -/
def encVsts (d : BitVec 7) (a : BitVec 7) (b : BitVec 7) (m : BitVec 1) : RWord := ⟨36#6, d, a, b, (m ++ 3#4)⟩
/-- The word of VLDX. -/
def encVldx (d : BitVec 7) (a : BitVec 7) (b : BitVec 7) (m : BitVec 1) : RWord := ⟨36#6, d, a, b, (m ++ 4#4)⟩
/-- The word of VSTX. -/
def encVstx (d : BitVec 7) (a : BitVec 7) (b : BitVec 7) (m : BitVec 1) : RWord := ⟨36#6, d, a, b, (m ++ 5#4)⟩
/-- The word of VLDP. -/
def encVldp (d : BitVec 7) (a : BitVec 7) (m : BitVec 1) : RWord := ⟨36#6, d, a, 0#7, (m ++ 6#4)⟩
/-- The word of VSTP. -/
def encVstp (d : BitVec 7) (a : BitVec 7) (m : BitVec 1) : RWord := ⟨36#6, d, a, 0#7, (m ++ 7#4)⟩
/-- The word of VLDPX. -/
def encVldpx (d : BitVec 7) (a : BitVec 7) (b : BitVec 7) (m : BitVec 1) : RWord := ⟨36#6, d, a, b, (m ++ 8#4)⟩
/-- The word of VSTPX. -/
def encVstpx (d : BitVec 7) (a : BitVec 7) (b : BitVec 7) (m : BitVec 1) : RWord := ⟨36#6, d, a, b, (m ++ 9#4)⟩
/-- The word of VLDT. -/
def encVldt (d : BitVec 7) (a : BitVec 7) (m : BitVec 1) : RWord := ⟨36#6, d, a, 0#7, (m ++ 10#4)⟩
/-- The word of VSTT. -/
def encVstt (d : BitVec 7) (a : BitVec 7) (m : BitVec 1) : RWord := ⟨36#6, d, a, 0#7, (m ++ 11#4)⟩
/-- The word of PAND. -/
def encPand (d : BitVec 7) (a : BitVec 7) (b : BitVec 7) : RWord := ⟨37#6, d, a, b, 0#5⟩
/-- The word of POR. -/
def encPor (d : BitVec 7) (a : BitVec 7) (b : BitVec 7) : RWord := ⟨37#6, d, a, b, 1#5⟩
/-- The word of PXOR. -/
def encPxor (d : BitVec 7) (a : BitVec 7) (b : BitVec 7) : RWord := ⟨37#6, d, a, b, 2#5⟩
/-- The word of PANDN. -/
def encPandn (d : BitVec 7) (a : BitVec 7) (b : BitVec 7) : RWord := ⟨37#6, d, a, b, 3#5⟩
/-- The word of PNOT. -/
def encPnot (d : BitVec 7) (a : BitVec 7) : RWord := ⟨37#6, d, a, 0#7, 4#5⟩
/-- The word of PALL. -/
def encPall (d : BitVec 7) : RWord := ⟨37#6, d, 0#7, 0#7, 5#5⟩
/-- The word of PNONE. -/
def encPnone (d : BitVec 7) : RWord := ⟨37#6, d, 0#7, 0#7, 6#5⟩
/-- The word of PPOP. -/
def encPpop (a : BitVec 7) : RWord := ⟨37#6, 0#7, a, 0#7, 7#5⟩
/-- The word of PFIRST. -/
def encPfirst (a : BitVec 7) : RWord := ⟨37#6, 0#7, a, 0#7, 8#5⟩
/-- The word of PANY. -/
def encPany (a : BitVec 7) : RWord := ⟨37#6, 0#7, a, 0#7, 9#5⟩
/-- The word of PSEL. -/
def encPsel (d : BitVec 7) (a : BitVec 7) (b : BitVec 7) : RWord := ⟨37#6, d, a, b, 10#5⟩
/-- The word of PFROMV. -/
def encPfromv (d : BitVec 7) (a : BitVec 7) : RWord := ⟨37#6, d, a, 0#7, 11#5⟩
/-- The word of PTOV. -/
def encPtov (d : BitVec 7) (a : BitVec 7) : RWord := ⟨37#6, d, a, 0#7, 12#5⟩
/-- The word of PLD. -/
def encPld (d : BitVec 7) (a : BitVec 7) : RWord := ⟨37#6, d, a, 0#7, 13#5⟩
/-- The word of PST. -/
def encPst (d : BitVec 7) (a : BitVec 7) : RWord := ⟨37#6, d, a, 0#7, 14#5⟩
/-- The word of VSORT. -/
def encVsort (d : BitVec 7) (a : BitVec 7) (p : BitVec 2) (w : BitVec 1) (y : BitVec 1) (m : BitVec 1) : RWord := ⟨38#6, d, a, (0#3 ++ p ++ w ++ y), (m ++ 0#4)⟩
/-- The word of VMERGE. -/
def encVmerge (d : BitVec 7) (a : BitVec 7) (b : BitVec 7) : RWord := ⟨38#6, d, a, b, 1#5⟩
/-- The word of VMERGES. -/
def encVmerges (d : BitVec 7) (a : BitVec 7) (b : BitVec 7) : RWord := ⟨38#6, d, a, b, 2#5⟩
/-- The word of VINTER. -/
def encVinter (d : BitVec 7) (a : BitVec 7) (b : BitVec 7) : RWord := ⟨38#6, d, a, b, 3#5⟩
/-- The word of VUNIQ. -/
def encVuniq (d : BitVec 7) (a : BitVec 7) : RWord := ⟨38#6, d, a, 0#7, 4#5⟩
/-- The word of VRANK. -/
def encVrank (d : BitVec 7) (a : BitVec 7) (b : BitVec 7) (m : BitVec 1) : RWord := ⟨38#6, d, a, b, (m ++ 5#4)⟩
/-- The word of VRANKU. -/
def encVranku (d : BitVec 7) (a : BitVec 7) (b : BitVec 7) (m : BitVec 1) : RWord := ⟨38#6, d, a, b, (m ++ 6#4)⟩
/-- The word of VPART. -/
def encVpart (d : BitVec 7) (a : BitVec 7) (b : BitVec 7) (m : BitVec 1) : RWord := ⟨38#6, d, a, b, (m ++ 7#4)⟩
/-- The word of VCHKO. -/
def encVchko (a : BitVec 7) (p : BitVec 2) (y : BitVec 1) : RWord := ⟨38#6, 0#7, a, (0#4 ++ p ++ y), 8#5⟩
/-- The word of VTOPK. -/
def encVtopk (d : BitVec 7) (a : BitVec 7) (b : BitVec 7) (m : BitVec 1) : RWord := ⟨38#6, d, a, b, (m ++ 9#4)⟩
/-- The word of VDIFF. -/
def encVdiff (d : BitVec 7) (a : BitVec 7) (b : BitVec 7) : RWord := ⟨38#6, d, a, b, 10#5⟩
/-- The word of VUNIQC. -/
def encVuniqc (d : BitVec 7) (a : BitVec 7) : RWord := ⟨38#6, d, a, 0#7, 11#5⟩
/-- The word of VMOT. -/
def encVmot (a : BitVec 7) : RWord := ⟨38#6, 0#7, a, 0#7, 12#5⟩
/-- The word of VMTO. -/
def encVmto (a : BitVec 7) (b : BitVec 7) : RWord := ⟨38#6, 0#7, a, b, 13#5⟩
/-- The word of MSHAPE. -/
def encMshape (a : BitVec 7) (b : BitVec 7) : RWord := ⟨39#6, 0#7, a, b, 0#5⟩
/-- The word of MMODE. -/
def encMmode (v : BitVec 2) : RWord := ⟨39#6, 0#7, 0#7, (0#5 ++ v), 1#5⟩
/-- The word of TMMA. -/
def encTmma (t : BitVec 1) (d : BitVec 5) (a : BitVec 7) (b : BitVec 7) (m : BitVec 1) : RWord := ⟨39#6, (0#1 ++ t ++ d), a, b, (m ++ 2#4)⟩
/-- The word of TMMAP. -/
def encTmmap (d : BitVec 7) (a : BitVec 7) (b : BitVec 7) (m : BitVec 1) : RWord := ⟨39#6, d, a, b, (m ++ 3#4)⟩
/-- The word of TZERO. -/
def encTzero (d : BitVec 7) : RWord := ⟨39#6, d, 0#7, 0#7, 4#5⟩
/-- The word of TLD. -/
def encTld (d : BitVec 7) (a : BitVec 7) (b : BitVec 7) : RWord := ⟨39#6, d, a, b, 5#5⟩
/-- The word of TST. -/
def encTst (d : BitVec 7) (a : BitVec 7) (b : BitVec 7) : RWord := ⟨39#6, d, a, b, 6#5⟩
/-- The word of TCVT. -/
def encTcvt (d : BitVec 7) (a : BitVec 7) (sf : BitVec 1) (x : BitVec 3) : RWord := ⟨39#6, d, a, (0#3 ++ sf ++ x), 7#5⟩
/-- The word of TLDP. -/
def encTldp (d : BitVec 7) (a : BitVec 7) (b : BitVec 7) : RWord := ⟨39#6, d, a, b, 8#5⟩
/-- The word of TSTP. -/
def encTstp (d : BitVec 7) (a : BitVec 7) (b : BitVec 7) : RWord := ⟨39#6, d, a, b, 9#5⟩
/-- The word of GTEST. -/
def encGtest (d : BitVec 7) (a : BitVec 7) : RWord := ⟨39#6, d, a, 0#7, 10#5⟩
/-- The word of GSET. -/
def encGset (d : BitVec 7) (b : BitVec 7) : RWord := ⟨39#6, d, 0#7, b, 11#5⟩
/-- The word of AMASK. -/
def encAmask (d : BitVec 7) (a : BitVec 7) (b : BitVec 7) : RWord := ⟨40#6, d, a, b, 0#5⟩
/-- The word of ASOFT. -/
def encAsoft (d : BitVec 7) (a : BitVec 7) (b : BitVec 7) : RWord := ⟨40#6, d, a, b, 1#5⟩
/-- The word of ASCALE. -/
def encAscale (d : BitVec 7) (a : BitVec 7) (v : BitVec 1) : RWord := ⟨40#6, d, a, (0#6 ++ v), 2#5⟩
/-- The word of SBIND. -/
def encSbind (d : BitVec 7) (a : BitVec 7) (o : BitVec 1) : RWord := ⟨41#6, d, a, (0#6 ++ o), 0#5⟩
/-- The word of SUNBIND. -/
def encSunbind (a : BitVec 7) : RWord := ⟨41#6, 0#7, a, 0#7, 1#5⟩
/-- The word of SSTAT. -/
def encSstat (a : BitVec 7) : RWord := ⟨41#6, 0#7, a, 0#7, 2#5⟩
/-- The word of SADV. -/
def encSadv (a : BitVec 7) (b : BitVec 7) : RWord := ⟨41#6, 0#7, a, b, 3#5⟩
/-- The word of SFLUSH. -/
def encSflush (a : BitVec 7) : RWord := ⟨41#6, 0#7, a, 0#7, 4#5⟩
/-- The word of COPY. -/
def encCopy (d : BitVec 7) (a : BitVec 7) (b : BitVec 7) : RWord := ⟨42#6, d, a, b, 0#5⟩
/-- The word of COPYG. -/
def encCopyg (d : BitVec 7) (a : BitVec 7) (b : BitVec 7) : RWord := ⟨42#6, d, a, b, 1#5⟩
/-- The word of CRESUME. -/
def encCresume (a : BitVec 7) : RWord := ⟨42#6, 0#7, a, 0#7, 2#5⟩
/-- The word of CRESUME_ABORT. -/
def encCresumeAbort (a : BitVec 7) : RWord := ⟨42#6, 0#7, a, 1#7, 2#5⟩
/-- The word of RINIT. -/
def encRinit (a : BitVec 7) (b : BitVec 7) : RWord := ⟨42#6, 0#7, a, b, 3#5⟩
/-- The word of RAWAIT. -/
def encRawait (a : BitVec 7) : RWord := ⟨42#6, 0#7, a, 0#7, 4#5⟩
/-- The word of RREL. -/
def encRrel (a : BitVec 7) : RWord := ⟨42#6, 0#7, a, 0#7, 5#5⟩
/-- The word of WAITA. -/
def encWaita (p : BitVec 1) (sf : BitVec 3) (c : BitVec 3) (a : BitVec 7) (b : BitVec 7) : RWord := ⟨42#6, (p ++ sf ++ c), a, b, 6#5⟩
/-- The word of CSTAT. -/
def encCstat (a : BitVec 7) : RWord := ⟨42#6, 0#7, a, 0#7, 7#5⟩
/-- The word of SAADD. -/
def encSaadd (w : BitVec 1) (sf : BitVec 3) (r : BitVec 1) (c : BitVec 1) (q : BitVec 1) (a : BitVec 7) (b : BitVec 7) : RWord := ⟨43#6, (w ++ sf ++ r ++ c ++ q), a, b, 0#5⟩
/-- The word of SAMIN. -/
def encSamin (w : BitVec 1) (sf : BitVec 3) (r : BitVec 1) (c : BitVec 1) (q : BitVec 1) (a : BitVec 7) (b : BitVec 7) : RWord := ⟨43#6, (w ++ sf ++ r ++ c ++ q), a, b, 1#5⟩
/-- The word of SAMAX. -/
def encSamax (w : BitVec 1) (sf : BitVec 3) (r : BitVec 1) (c : BitVec 1) (q : BitVec 1) (a : BitVec 7) (b : BitVec 7) : RWord := ⟨43#6, (w ++ sf ++ r ++ c ++ q), a, b, 2#5⟩
/-- The word of SAXCHG. -/
def encSaxchg (w : BitVec 1) (sf : BitVec 3) (r : BitVec 1) (c : BitVec 1) (q : BitVec 1) (a : BitVec 7) (b : BitVec 7) : RWord := ⟨43#6, (w ++ sf ++ r ++ c ++ q), a, b, 3#5⟩
/-- The word of SACAS. -/
def encSacas (w : BitVec 1) (sf : BitVec 3) (r : BitVec 1) (c : BitVec 1) (q : BitVec 1) (a : BitVec 7) (b : BitVec 7) : RWord := ⟨43#6, (w ++ sf ++ r ++ c ++ q), a, b, 4#5⟩
/-- The word of SAAND. -/
def encSaand (w : BitVec 1) (sf : BitVec 3) (r : BitVec 1) (c : BitVec 1) (q : BitVec 1) (a : BitVec 7) (b : BitVec 7) : RWord := ⟨43#6, (w ++ sf ++ r ++ c ++ q), a, b, 5#5⟩
/-- The word of SAOR. -/
def encSaor (w : BitVec 1) (sf : BitVec 3) (r : BitVec 1) (c : BitVec 1) (q : BitVec 1) (a : BitVec 7) (b : BitVec 7) : RWord := ⟨43#6, (w ++ sf ++ r ++ c ++ q), a, b, 6#5⟩
/-- The word of SAFADD. -/
def encSafadd (w : BitVec 1) (sf : BitVec 3) (r : BitVec 1) (c : BitVec 1) (q : BitVec 1) (a : BitVec 7) (b : BitVec 7) : RWord := ⟨43#6, (w ++ sf ++ r ++ c ++ q), a, b, 7#5⟩
/-- The word of GAADD. -/
def encGaadd (w : BitVec 1) (sf : BitVec 3) (r : BitVec 1) (c : BitVec 1) (q : BitVec 1) (a : BitVec 7) (b : BitVec 7) : RWord := ⟨43#6, (w ++ sf ++ r ++ c ++ q), a, b, 16#5⟩
/-- The word of GAMIN. -/
def encGamin (w : BitVec 1) (sf : BitVec 3) (r : BitVec 1) (c : BitVec 1) (q : BitVec 1) (a : BitVec 7) (b : BitVec 7) : RWord := ⟨43#6, (w ++ sf ++ r ++ c ++ q), a, b, 17#5⟩
/-- The word of GAMAX. -/
def encGamax (w : BitVec 1) (sf : BitVec 3) (r : BitVec 1) (c : BitVec 1) (q : BitVec 1) (a : BitVec 7) (b : BitVec 7) : RWord := ⟨43#6, (w ++ sf ++ r ++ c ++ q), a, b, 18#5⟩
/-- The word of GAXCHG. -/
def encGaxchg (w : BitVec 1) (sf : BitVec 3) (r : BitVec 1) (c : BitVec 1) (q : BitVec 1) (a : BitVec 7) (b : BitVec 7) : RWord := ⟨43#6, (w ++ sf ++ r ++ c ++ q), a, b, 19#5⟩
/-- The word of GACAS. -/
def encGacas (w : BitVec 1) (sf : BitVec 3) (r : BitVec 1) (c : BitVec 1) (q : BitVec 1) (a : BitVec 7) (b : BitVec 7) : RWord := ⟨43#6, (w ++ sf ++ r ++ c ++ q), a, b, 20#5⟩
/-- The word of GAAND. -/
def encGaand (w : BitVec 1) (sf : BitVec 3) (r : BitVec 1) (c : BitVec 1) (q : BitVec 1) (a : BitVec 7) (b : BitVec 7) : RWord := ⟨43#6, (w ++ sf ++ r ++ c ++ q), a, b, 21#5⟩
/-- The word of GAOR. -/
def encGaor (w : BitVec 1) (sf : BitVec 3) (r : BitVec 1) (c : BitVec 1) (q : BitVec 1) (a : BitVec 7) (b : BitVec 7) : RWord := ⟨43#6, (w ++ sf ++ r ++ c ++ q), a, b, 22#5⟩
/-- The word of GAFADD. -/
def encGafadd (w : BitVec 1) (sf : BitVec 3) (r : BitVec 1) (c : BitVec 1) (q : BitVec 1) (a : BitVec 7) (b : BitVec 7) : RWord := ⟨43#6, (w ++ sf ++ r ++ c ++ q), a, b, 23#5⟩
/-- The word of KCLAIM. -/
def encKclaim (a : BitVec 7) (h : BitVec 2) : RWord := ⟨44#6, 0#7, a, (0#5 ++ h), 0#5⟩
/-- The word of KFREE. -/
def encKfree (h : BitVec 2) : RWord := ⟨44#6, 0#7, 0#7, (0#5 ++ h), 1#5⟩
/-- The word of KINS. -/
def encKins (d : BitVec 7) (a : BitVec 7) (h : BitVec 2) (m : BitVec 1) : RWord := ⟨44#6, d, a, (0#5 ++ h), (m ++ 2#4)⟩
/-- The word of KPRB. -/
def encKprb (d : BitVec 7) (a : BitVec 7) (h : BitVec 2) (m : BitVec 1) : RWord := ⟨44#6, d, a, (0#5 ++ h), (m ++ 3#4)⟩
/-- The word of KDEL. -/
def encKdel (d : BitVec 7) (a : BitVec 7) (h : BitVec 2) (m : BitVec 1) : RWord := ⟨44#6, d, a, (0#5 ++ h), (m ++ 4#4)⟩
/-- The word of KACC. -/
def encKacc (d : BitVec 7) (a : BitVec 7) (o : BitVec 3) (h : BitVec 2) (m : BitVec 1) : RWord := ⟨44#6, d, a, (0#2 ++ o ++ h), (m ++ 5#4)⟩
/-- The word of KDRN. -/
def encKdrn (d : BitVec 7) (h : BitVec 2) : RWord := ⟨44#6, d, 0#7, (0#5 ++ h), 6#5⟩
/-- The word of KSTAT. -/
def encKstat (h : BitVec 2) : RWord := ⟨44#6, 0#7, 0#7, (0#5 ++ h), 7#5⟩
/-- The word of KSEAL. -/
def encKseal (h : BitVec 2) : RWord := ⟨44#6, 0#7, 0#7, (0#5 ++ h), 8#5⟩
/-- The word of KCLEAR. -/
def encKclear (h : BitVec 2) : RWord := ⟨44#6, 0#7, 0#7, (0#5 ++ h), 9#5⟩
/-- The word of SEMTS. -/
def encSemts (n : BitVec 5) : RWord := ⟨45#6, 0#7, 0#7, (0#2 ++ n), 0#5⟩
/-- The word of SEMTRY. -/
def encSemtry (n : BitVec 5) : RWord := ⟨45#6, 0#7, 0#7, (0#2 ++ n), 1#5⟩
/-- The word of SEMCLR. -/
def encSemclr (n : BitVec 5) : RWord := ⟨45#6, 0#7, 0#7, (0#2 ++ n), 2#5⟩
/-- The word of CRD. -/
def encCrd (c : BitVec 1) (n : BitVec 5) : RWord := ⟨45#6, (0#5 ++ c ++ 0#1), 0#7, (0#2 ++ n), 3#5⟩
/-- The word of CWR. -/
def encCwr (r : BitVec 1) (a : BitVec 7) (n : BitVec 5) : RWord := ⟨45#6, (0#4 ++ r ++ 0#2), a, (0#2 ++ n), 4#5⟩
/-- The word of QATOM. -/
def encQatom (d : BitVec 7) (a : BitVec 7) (r : BitVec 1) (c : BitVec 1) (o : BitVec 3) (m : BitVec 1) : RWord := ⟨45#6, d, a, (0#2 ++ r ++ c ++ o), (m ++ 5#4)⟩
/-- The word of BARV. -/
def encBarv (a : BitVec 7) (sf : BitVec 3) (n : BitVec 4) : RWord := ⟨45#6, 0#7, a, (sf ++ n), 6#5⟩
/-- The word of BARW. -/
def encBarw (sf : BitVec 3) (n : BitVec 4) : RWord := ⟨45#6, 0#7, 0#7, (sf ++ n), 7#5⟩
/-- The word of BARA. -/
def encBara (a : BitVec 7) (sf : BitVec 3) (n : BitVec 4) : RWord := ⟨45#6, 0#7, a, (sf ++ n), 8#5⟩
/-- The word of BARA_INIT. -/
def encBaraInit (a : BitVec 7) (sf : BitVec 3) (n : BitVec 4) : RWord := ⟨45#6, 1#7, a, (sf ++ n), 8#5⟩
/-- The word of TSPAWN. -/
def encTspawn (a : BitVec 7) : RWord := ⟨46#6, 0#7, a, 0#7, 0#5⟩
/-- The word of TWAIT. -/
def encTwait (a : BitVec 7) : RWord := ⟨46#6, 0#7, a, 0#7, 1#5⟩
/-- The word of TEXIT. -/
def encTexit (a : BitVec 7) : RWord := ⟨46#6, 0#7, a, 0#7, 2#5⟩
/-- The word of TEXIT_ABORT. -/
def encTexitAbort (a : BitVec 7) : RWord := ⟨46#6, 0#7, a, 1#7, 2#5⟩
/-- The word of TYIELD. -/
def encTyield : RWord := ⟨46#6, 0#7, 0#7, 0#7, 3#5⟩
/-- The word of QPUSH. -/
def encQpush (d : BitVec 7) (a : BitVec 7) (e : BitVec 1) (q : BitVec 5) : RWord := ⟨46#6, d, a, (0#1 ++ e ++ q), 4#5⟩
/-- The word of QPOP. -/
def encQpop (d : BitVec 7) (a : BitVec 7) (q : BitVec 5) : RWord := ⟨46#6, d, a, (0#2 ++ q), 5#5⟩
/-- The word of VREL. -/
def encVrel : RWord := ⟨46#6, 0#7, 0#7, 0#7, 6#5⟩
/-- The word of TSTAT. -/
def encTstat (n : BitVec 3) : RWord := ⟨46#6, 0#7, 0#7, (0#4 ++ n), 7#5⟩
/-- The word of EVDEC. -/
def encEvdec (q : BitVec 1) (a : BitVec 7) (b : BitVec 7) : RWord := ⟨46#6, (0#6 ++ q), a, b, 8#5⟩
/-- The word of EVINC. -/
def encEvinc (q : BitVec 1) (a : BitVec 7) (b : BitVec 7) : RWord := ⟨46#6, (0#6 ++ q), a, b, 9#5⟩
/-- The word of RGATHER. -/
def encRgather (d : BitVec 7) (a : BitVec 7) (b : BitVec 7) (m : BitVec 1) : RWord := ⟨47#6, d, a, b, (m ++ 0#4)⟩
/-- The word of RSCAT. -/
def encRscat (d : BitVec 7) (a : BitVec 7) (b : BitVec 7) (m : BitVec 1) : RWord := ⟨47#6, d, a, b, (m ++ 1#4)⟩
/-- The word of RSCATADD. -/
def encRscatadd (d : BitVec 7) (a : BitVec 7) (b : BitVec 7) (m : BitVec 1) : RWord := ⟨47#6, d, a, b, (m ++ 2#4)⟩
/-- The word of RGSTAT. -/
def encRgstat : RWord := ⟨47#6, 0#7, 0#7, 0#7, 3#5⟩
/-- The word of BR. -/
def encBr (a : BitVec 7) (c : BitVec 3) (n : BitVec 1) (im : BitVec 15) : RWord := ⟨48#6, a, (c ++ n ++ (im.extractLsb' 12 3)), (im.extractLsb' 5 7), (im.extractLsb' 0 5)⟩
/-- The word of JMP. -/
def encJmp (im : BitVec 26) : RWord := ⟨49#6, (im.extractLsb' 19 7), (im.extractLsb' 12 7), (im.extractLsb' 5 7), (im.extractLsb' 0 5)⟩
/-- The word of CALL. -/
def encCall (im : BitVec 26) : RWord := ⟨50#6, (im.extractLsb' 19 7), (im.extractLsb' 12 7), (im.extractLsb' 5 7), (im.extractLsb' 0 5)⟩
/-- The word of JR. -/
def encJr (a : BitVec 7) : RWord := ⟨51#6, 0#7, a, 0#7, 0#5⟩
/-- The word of CALLR. -/
def encCallr (a : BitVec 7) : RWord := ⟨51#6, 0#7, a, 0#7, 1#5⟩
/-- The word of RET. -/
def encRet : RWord := ⟨51#6, 0#7, 0#7, 0#7, 2#5⟩
/-- The word of GCALL. -/
def encGcall (n : BitVec 10) : RWord := ⟨52#6, 0#7, 0#7, (0#2 ++ (n.extractLsb' 5 5)), (n.extractLsb' 0 5)⟩
/-- The word of TRAP. -/
def encTrap (c : BitVec 7) : RWord := ⟨53#6, 0#7, 0#7, c, 0#5⟩
/-- The word of ERET. -/
def encEret : RWord := ⟨53#6, 0#7, 0#7, 0#7, 1#5⟩
/-- The word of GRET. -/
def encGret : RWord := ⟨53#6, 0#7, 0#7, 0#7, 2#5⟩
/-- The word of WAITI. -/
def encWaiti : RWord := ⟨53#6, 0#7, 0#7, 0#7, 3#5⟩
/-- The word of HALT. -/
def encHalt : RWord := ⟨53#6, 0#7, 0#7, 0#7, 4#5⟩
/-- The word of FENCE. -/
def encFence (sf : BitVec 3) (k : BitVec 4) : RWord := ⟨53#6, 0#7, 0#7, (sf ++ k), 5#5⟩
/-- The word of WIN. -/
def encWin (a : BitVec 7) (b : BitVec 7) : RWord := ⟨53#6, 0#7, a, b, 6#5⟩
/-- The word of TLBINV. -/
def encTlbinv (a : BitVec 7) (b : BitVec 7) : RWord := ⟨53#6, 0#7, a, b, 7#5⟩
/-- The word of QSEND. -/
def encQsend (d : BitVec 7) (a : BitVec 7) : RWord := ⟨54#6, d, a, 0#7, 0#5⟩
/-- The word of QRECV. -/
def encQrecv (d : BitVec 7) (a : BitVec 7) : RWord := ⟨54#6, d, a, 0#7, 1#5⟩
/-- The word of QSTAT. -/
def encQstat (d : BitVec 7) (a : BitVec 7) : RWord := ⟨54#6, d, a, 0#7, 2#5⟩
/-- The word of VQRECV. -/
def encVqrecv (d : BitVec 7) (a : BitVec 7) : RWord := ⟨54#6, d, a, 0#7, 3#5⟩
/-- The word of SHLST. -/
def encShlst (d : BitVec 7) (a : BitVec 7) (b : BitVec 7) (m : BitVec 1) : RWord := ⟨55#6, d, a, b, (m ++ 0#4)⟩
/-- The word of KVXLT. -/
def encKvxlt (d : BitVec 7) (a : BitVec 7) (b : BitVec 7) (m : BitVec 1) : RWord := ⟨55#6, d, a, b, (m ++ 1#4)⟩
/-- The word of KVCOMMIT. -/
def encKvcommit (a : BitVec 7) (b : BitVec 7) : RWord := ⟨55#6, 0#7, a, b, 2#5⟩
/-- The word of KVROLL. -/
def encKvroll (a : BitVec 7) (b : BitVec 7) : RWord := ⟨55#6, 0#7, a, b, 3#5⟩
/-- The word of KVFORK. -/
def encKvfork (a : BitVec 7) (b : BitVec 7) : RWord := ⟨55#6, 0#7, a, b, 4#5⟩
/-- The word of MCST. -/
def encMcst (d : BitVec 7) (a : BitVec 7) (b : BitVec 7) (m : BitVec 1) : RWord := ⟨56#6, d, a, b, (m ++ 0#4)⟩
/-- The word of COLL. -/
def encColl (d : BitVec 7) (a : BitVec 7) : RWord := ⟨56#6, d, a, 0#7, 1#5⟩
/-- The word of CWAITC. -/
def encCwaitc (a : BitVec 7) : RWord := ⟨56#6, 0#7, a, 0#7, 2#5⟩
/-- The word of SKBLD. -/
def encSkbld (n : BitVec 1) (c : BitVec 1) (a : BitVec 7) (b : BitVec 7) : RWord := ⟨57#6, (0#5 ++ n ++ c), a, b, 0#5⟩
/-- The word of SKSUB. -/
def encSksub (a : BitVec 7) (b : BitVec 7) : RWord := ⟨57#6, 0#7, a, b, 1#5⟩
/-- The word of SKPEEL. -/
def encSkpeel (t : BitVec 1) (a : BitVec 7) (b : BitVec 7) : RWord := ⟨57#6, (0#6 ++ t), a, b, 2#5⟩
/-- The word of SKRECON. -/
def encSkrecon (t : BitVec 1) (a : BitVec 7) (b : BitVec 7) : RWord := ⟨57#6, (0#6 ++ t), a, b, 3#5⟩
/-- The word of SKSTAT. -/
def encSkstat (a : BitVec 7) : RWord := ⟨57#6, 0#7, a, 0#7, 4#5⟩
/-- The word of LI. -/
def encLi (d : BitVec 6) (im : BitVec 20) : RWord := ⟨62#6, (d ++ (im.extractLsb' 19 1)), (im.extractLsb' 12 7), (im.extractLsb' 5 7), (im.extractLsb' 0 5)⟩
/-- The word of LF. -/
def encLf (d : BitVec 6) (im : BitVec 20) : RWord := ⟨63#6, (d ++ (im.extractLsb' 19 1)), (im.extractLsb' 12 7), (im.extractLsb' 5 7), (im.extractLsb' 0 5)⟩

/-- The fields of the word that encodes an instruction (R62, R63, R266, R399 and the encoding tables of the entries);
none for an event, which has no encoding. -/
def Instr.encodeR : Instr → Option RWord
  | .add d a b => some (encAdd d a b)
  | .sub d a b => some (encSub d a b)
  | .and d a b => some (encAnd d a b)
  | .or d a b => some (encOr d a b)
  | .xor d a b => some (encXor d a b)
  | .andn d a b => some (encAndn d a b)
  | .orn d a b => some (encOrn d a b)
  | .sll d a b => some (encSll d a b)
  | .srl d a b => some (encSrl d a b)
  | .sra d a b => some (encSra d a b)
  | .ror d a b => some (encRor d a b)
  | .mul d a b => some (encMul d a b)
  | .mulh d a b => some (encMulh d a b)
  | .mulhu d a b => some (encMulhu d a b)
  | .div d a b => some (encDiv d a b)
  | .divu d a b => some (encDivu d a b)
  | .rem d a b => some (encRem d a b)
  | .remu d a b => some (encRemu d a b)
  | .min d a b => some (encMin d a b)
  | .max d a b => some (encMax d a b)
  | .minu d a b => some (encMinu d a b)
  | .maxu d a b => some (encMaxu d a b)
  | .addw d a b => some (encAddw d a b)
  | .subw d a b => some (encSubw d a b)
  | .seq d a b => some (encSeq d a b)
  | .sne d a b => some (encSne d a b)
  | .slt d a b => some (encSlt d a b)
  | .sge d a b => some (encSge d a b)
  | .sltu d a b => some (encSltu d a b)
  | .sgeu d a b => some (encSgeu d a b)
  | .addi d a im => some (encAddi d a im)
  | .andi d a im => some (encAndi d a im)
  | .ori d a im => some (encOri d a im)
  | .xori d a im => some (encXori d a im)
  | .slli d a sf => some (encSlli d a sf)
  | .srli d a sf => some (encSrli d a sf)
  | .srai d a sf => some (encSrai d a sf)
  | .rori d a sf => some (encRori d a sf)
  | .clz d a => some (encClz d a)
  | .ctz d a => some (encCtz d a)
  | .popc d a => some (encPopc d a)
  | .sextb d a => some (encSextb d a)
  | .sexth d a => some (encSexth d a)
  | .sextw d a => some (encSextw d a)
  | .zextb d a => some (encZextb d a)
  | .zexth d a => some (encZexth d a)
  | .zextw d a => some (encZextw d a)
  | .bswap d a => some (encBswap d a)
  | .ldb d a o => some (encLdb d a o)
  | .ldbu d a o => some (encLdbu d a o)
  | .ldh d a o => some (encLdh d a o)
  | .ldhu d a o => some (encLdhu d a o)
  | .ldw d a o => some (encLdw d a o)
  | .ldwu d a o => some (encLdwu d a o)
  | .ldd d a o => some (encLdd d a o)
  | .stb d a o => some (encStb d a o)
  | .sth d a o => some (encSth d a o)
  | .stw d a o => some (encStw d a o)
  | .std d a o => some (encStd d a o)
  | .ldxb d a b sf => some (encLdxb d a b sf)
  | .ldxbu d a b sf => some (encLdxbu d a b sf)
  | .ldxh d a b sf => some (encLdxh d a b sf)
  | .ldxhu d a b sf => some (encLdxhu d a b sf)
  | .ldxw d a b sf => some (encLdxw d a b sf)
  | .ldxwu d a b sf => some (encLdxwu d a b sf)
  | .ldxd d a b sf => some (encLdxd d a b sf)
  | .stxb d a b sf => some (encStxb d a b sf)
  | .stxh d a b sf => some (encStxh d a b sf)
  | .stxw d a b sf => some (encStxw d a b sf)
  | .stxd d a b sf => some (encStxd d a b sf)
  | .fadd d a b => some (encFadd d a b)
  | .fsub d a b => some (encFsub d a b)
  | .fmul d a b => some (encFmul d a b)
  | .fdiv d a b => some (encFdiv d a b)
  | .fsqrt d a => some (encFsqrt d a)
  | .fmin d a b => some (encFmin d a b)
  | .fmax d a b => some (encFmax d a b)
  | .feq d a b => some (encFeq d a b)
  | .flt d a b => some (encFlt d a b)
  | .fle d a b => some (encFle d a b)
  | .fclass d a => some (encFclass d a)
  | .fcvtsw d a => some (encFcvtsw d a)
  | .fcvtswu d a => some (encFcvtswu d a)
  | .fcvtws d a => some (encFcvtws d a)
  | .fcvtwus d a => some (encFcvtwus d a)
  | .fcvths d a => some (encFcvths d a)
  | .fcvtsh d a => some (encFcvtsh d a)
  | .fcvtbs d a => some (encFcvtbs d a)
  | .fcvtsb d a => some (encFcvtsb d a)
  | .fmadd d a b => some (encFmadd d a b)
  | .fmsub d a b => some (encFmsub d a b)
  | .fnmadd d a b => some (encFnmadd d a b)
  | .fnmsub d a b => some (encFnmsub d a b)
  | .mfs d n => some (encMfs d n)
  | .mts a n => some (encMts a n)
  | .vadd d a b m => some (encVadd d a b m)
  | .vsub d a b m => some (encVsub d a b m)
  | .vrsub d a b m => some (encVrsub d a b m)
  | .vmul d a b m => some (encVmul d a b m)
  | .vmulh d a b m => some (encVmulh d a b m)
  | .vmin d a b m => some (encVmin d a b m)
  | .vmax d a b m => some (encVmax d a b m)
  | .vminu d a b m => some (encVminu d a b m)
  | .vmaxu d a b m => some (encVmaxu d a b m)
  | .vand d a b m => some (encVand d a b m)
  | .vor d a b m => some (encVor d a b m)
  | .vxor d a b m => some (encVxor d a b m)
  | .vsll d a b m => some (encVsll d a b m)
  | .vsrl d a b m => some (encVsrl d a b m)
  | .vsra d a b m => some (encVsra d a b m)
  | .vadds d a b m => some (encVadds d a b m)
  | .vfadd d a b m => some (encVfadd d a b m)
  | .vfsub d a b m => some (encVfsub d a b m)
  | .vfmul d a b m => some (encVfmul d a b m)
  | .vfdiv d a b m => some (encVfdiv d a b m)
  | .vfmin d a b m => some (encVfmin d a b m)
  | .vfmax d a b m => some (encVfmax d a b m)
  | .vfsqrt d a m => some (encVfsqrt d a m)
  | .vexp2 d a m => some (encVexp2 d a m)
  | .vlog2 d a m => some (encVlog2 d a m)
  | .vrcp d a m => some (encVrcp d a m)
  | .vrsqrt d a m => some (encVrsqrt d a m)
  | .vfsgn d a b m => some (encVfsgn d a b m)
  | .vfma d a b m => some (encVfma d a b m)
  | .vfms d a b m => some (encVfms d a b m)
  | .vfnma d a b m => some (encVfnma d a b m)
  | .vfnms d a b m => some (encVfnms d a b m)
  | .vmadd d a b m => some (encVmadd d a b m)
  | .vmsub d a b m => some (encVmsub d a b m)
  | .vseq d a b m => some (encVseq d a b m)
  | .vsne d a b m => some (encVsne d a b m)
  | .vslt d a b m => some (encVslt d a b m)
  | .vsge d a b m => some (encVsge d a b m)
  | .vsltu d a b m => some (encVsltu d a b m)
  | .vsgeu d a b m => some (encVsgeu d a b m)
  | .vfeq d a b m => some (encVfeq d a b m)
  | .vflt d a b m => some (encVflt d a b m)
  | .vfle d a b m => some (encVfle d a b m)
  | .vfunord d a b m => some (encVfunord d a b m)
  | .vmv d a m => some (encVmv d a m)
  | .vsel d a b => some (encVsel d a b)
  | .viota d => some (encViota d)
  | .vslideup d a b m => some (encVslideup d a b m)
  | .vslidedn d a b m => some (encVslidedn d a b m)
  | .vrev d a m => some (encVrev d a m)
  | .vcompress d a => some (encVcompress d a)
  | .vexpand d a => some (encVexpand d a)
  | .vtos a b => some (encVtos a b)
  | .stov d b m => some (encStov d b m)
  | .vperm d a b m => some (encVperm d a b m)
  | .vzip d a b => some (encVzip d a b)
  | .vunzip d a => some (encVunzip d a)
  | .vredsum d a q m => some (encVredsum d a q m)
  | .vredmax d a q m => some (encVredmax d a q m)
  | .vredmin d a q m => some (encVredmin d a q m)
  | .vfredsum d a q m => some (encVfredsum d a q m)
  | .vfredmax d a q m => some (encVfredmax d a q m)
  | .vfredmin d a q m => some (encVfredmin d a q m)
  | .vscan d a m => some (encVscan d a m)
  | .vfscan d a m => some (encVfscan d a m)
  | .vsegsum d a b m => some (encVsegsum d a b m)
  | .vsegmax d a b m => some (encVsegmax d a b m)
  | .vcvt d a t sf m => some (encVcvt d a t sf m)
  | .vsmxe d a m => some (encVsmxe d a m)
  | .vquant d a b m => some (encVquant d a b m)
  | .vdeq d a b m => some (encVdeq d a b m)
  | .vpack d a m => some (encVpack d a m)
  | .vunpk d a sf m => some (encVunpk d a sf m)
  | .vtox d a => some (encVtox d a)
  | .xtov d a => some (encXtov d a)
  | .vcfg d a r t => some (encVcfg d a r t)
  | .vld d a m => some (encVld d a m)
  | .vlds d a b m => some (encVlds d a b m)
  | .vst d a m => some (encVst d a m)
  | .vsts d a b m => some (encVsts d a b m)
  | .vldx d a b m => some (encVldx d a b m)
  | .vstx d a b m => some (encVstx d a b m)
  | .vldp d a m => some (encVldp d a m)
  | .vstp d a m => some (encVstp d a m)
  | .vldpx d a b m => some (encVldpx d a b m)
  | .vstpx d a b m => some (encVstpx d a b m)
  | .vldt d a m => some (encVldt d a m)
  | .vstt d a m => some (encVstt d a m)
  | .pand d a b => some (encPand d a b)
  | .por d a b => some (encPor d a b)
  | .pxor d a b => some (encPxor d a b)
  | .pandn d a b => some (encPandn d a b)
  | .pnot d a => some (encPnot d a)
  | .pall d => some (encPall d)
  | .pnone d => some (encPnone d)
  | .ppop a => some (encPpop a)
  | .pfirst a => some (encPfirst a)
  | .pany a => some (encPany a)
  | .psel d a b => some (encPsel d a b)
  | .pfromv d a => some (encPfromv d a)
  | .ptov d a => some (encPtov d a)
  | .pld d a => some (encPld d a)
  | .pst d a => some (encPst d a)
  | .vsort d a p w y m => some (encVsort d a p w y m)
  | .vmerge d a b => some (encVmerge d a b)
  | .vmerges d a b => some (encVmerges d a b)
  | .vinter d a b => some (encVinter d a b)
  | .vuniq d a => some (encVuniq d a)
  | .vrank d a b m => some (encVrank d a b m)
  | .vranku d a b m => some (encVranku d a b m)
  | .vpart d a b m => some (encVpart d a b m)
  | .vchko a p y => some (encVchko a p y)
  | .vtopk d a b m => some (encVtopk d a b m)
  | .vdiff d a b => some (encVdiff d a b)
  | .vuniqc d a => some (encVuniqc d a)
  | .vmot a => some (encVmot a)
  | .vmto a b => some (encVmto a b)
  | .mshape a b => some (encMshape a b)
  | .mmode v => some (encMmode v)
  | .tmma t d a b m => some (encTmma t d a b m)
  | .tmmap d a b m => some (encTmmap d a b m)
  | .tzero d => some (encTzero d)
  | .tld d a b => some (encTld d a b)
  | .tst d a b => some (encTst d a b)
  | .tcvt d a sf x => some (encTcvt d a sf x)
  | .tldp d a b => some (encTldp d a b)
  | .tstp d a b => some (encTstp d a b)
  | .gtest d a => some (encGtest d a)
  | .gset d b => some (encGset d b)
  | .amask d a b => some (encAmask d a b)
  | .asoft d a b => some (encAsoft d a b)
  | .ascale d a v => some (encAscale d a v)
  | .sbind d a o => some (encSbind d a o)
  | .sunbind a => some (encSunbind a)
  | .sstat a => some (encSstat a)
  | .sadv a b => some (encSadv a b)
  | .sflush a => some (encSflush a)
  | .streamRefill _ => none
  | .streamOutputWrite _ => none
  | .copy d a b => some (encCopy d a b)
  | .copyg d a b => some (encCopyg d a b)
  | .cresume a => some (encCresume a)
  | .cresumeAbort a => some (encCresumeAbort a)
  | .rinit a b => some (encRinit a b)
  | .rawait a => some (encRawait a)
  | .rrel a => some (encRrel a)
  | .waita p sf c a b => some (encWaita p sf c a b)
  | .cstat a => some (encCstat a)
  | .copyCompletion _ => none
  | .engf => none
  | .saadd w sf r c q a b => some (encSaadd w sf r c q a b)
  | .samin w sf r c q a b => some (encSamin w sf r c q a b)
  | .samax w sf r c q a b => some (encSamax w sf r c q a b)
  | .saxchg w sf r c q a b => some (encSaxchg w sf r c q a b)
  | .sacas w sf r c q a b => some (encSacas w sf r c q a b)
  | .saand w sf r c q a b => some (encSaand w sf r c q a b)
  | .saor w sf r c q a b => some (encSaor w sf r c q a b)
  | .safadd w sf r c q a b => some (encSafadd w sf r c q a b)
  | .gaadd w sf r c q a b => some (encGaadd w sf r c q a b)
  | .gamin w sf r c q a b => some (encGamin w sf r c q a b)
  | .gamax w sf r c q a b => some (encGamax w sf r c q a b)
  | .gaxchg w sf r c q a b => some (encGaxchg w sf r c q a b)
  | .gacas w sf r c q a b => some (encGacas w sf r c q a b)
  | .gaand w sf r c q a b => some (encGaand w sf r c q a b)
  | .gaor w sf r c q a b => some (encGaor w sf r c q a b)
  | .gafadd w sf r c q a b => some (encGafadd w sf r c q a b)
  | .kclaim a h => some (encKclaim a h)
  | .kfree h => some (encKfree h)
  | .kins d a h m => some (encKins d a h m)
  | .kprb d a h m => some (encKprb d a h m)
  | .kdel d a h m => some (encKdel d a h m)
  | .kacc d a o h m => some (encKacc d a o h m)
  | .kdrn d h => some (encKdrn d h)
  | .kstat h => some (encKstat h)
  | .kseal h => some (encKseal h)
  | .kclear h => some (encKclear h)
  | .semts n => some (encSemts n)
  | .semtry n => some (encSemtry n)
  | .semclr n => some (encSemclr n)
  | .crd c n => some (encCrd c n)
  | .cwr r a n => some (encCwr r a n)
  | .qatom d a r c o m => some (encQatom d a r c o m)
  | .barv a sf n => some (encBarv a sf n)
  | .barw sf n => some (encBarw sf n)
  | .bara a sf n => some (encBara a sf n)
  | .baraInit a sf n => some (encBaraInit a sf n)
  | .quadMessage _ _ _ _ => none
  | .tspawn a => some (encTspawn a)
  | .twait a => some (encTwait a)
  | .texit a => some (encTexit a)
  | .texitAbort a => some (encTexitAbort a)
  | .tyield => some (encTyield)
  | .qpush d a e q => some (encQpush d a e q)
  | .qpop d a q => some (encQpop d a q)
  | .vrel => some (encVrel)
  | .tstat n => some (encTstat n)
  | .evdec q a b => some (encEvdec q a b)
  | .evinc q a b => some (encEvinc q a b)
  | .rgather d a b m => some (encRgather d a b m)
  | .rscat d a b m => some (encRscat d a b m)
  | .rscatadd d a b m => some (encRscatadd d a b m)
  | .rgstat => some (encRgstat)
  | .deferredMce => none
  | .br a c n im => some (encBr a c n im)
  | .jmp im => some (encJmp im)
  | .call im => some (encCall im)
  | .jr a => some (encJr a)
  | .callr a => some (encCallr a)
  | .ret => some (encRet)
  | .gcall n => some (encGcall n)
  | .trap c => some (encTrap c)
  | .eret => some (encEret)
  | .gret => some (encGret)
  | .waiti => some (encWaiti)
  | .halt => some (encHalt)
  | .fence sf k => some (encFence sf k)
  | .win a b => some (encWin a b)
  | .tlbinv a b => some (encTlbinv a b)
  | .qsend d a => some (encQsend d a)
  | .qrecv d a => some (encQrecv d a)
  | .qstat d a => some (encQstat d a)
  | .vqrecv d a => some (encVqrecv d a)
  | .shlst d a b m => some (encShlst d a b m)
  | .kvxlt d a b m => some (encKvxlt d a b m)
  | .pageInComplete _ => none
  | .kvcommit a b => some (encKvcommit a b)
  | .kvroll a b => some (encKvroll a b)
  | .kvfork a b => some (encKvfork a b)
  | .mcst d a b m => some (encMcst d a b m)
  | .coll d a => some (encColl d a)
  | .cwaitc a => some (encCwaitc a)
  | .collCompletion _ => none
  | .skbld n c a b => some (encSkbld n c a b)
  | .sksub a b => some (encSksub a b)
  | .skpeel t a b => some (encSkpeel t a b)
  | .skrecon t a b => some (encSkrecon t a b)
  | .skstat a => some (encSkstat a)
  | .skiverPeerRequest _ _ => none
  | .li d im => some (encLi d im)
  | .lf d im => some (encLf d im)
  | .annulledStep => none
  | .interrupt => none
  | .timer => none
  | .ipset _ => none
  | .budgetExhausted => none
  | .budget => none
  | .taskDispatch => none
  | .queuePull _ => none
  | .aging => none
  | .preemptTimeout => none
  | .preemption => none
  | .repartition => none
  | .cinchSample => none
  | .cinchInterval => none
  | .cinchMoveComplete => none
  | .remoteAccess _ _ _ => none
  | .podBarrierMessage _ _ _ => none
  | .flitReceive _ _ _ => none
  | .linkReplay _ => none
  | .linkRetrain _ => none
  | .linkDown _ => none
  | .remoteTimeout _ => none
  | .admitPackage _ => none
  | .retentionEntry _ => none
  | .retentionExit _ => none
  | .tscSync _ => none
  | .throttle _ => none
  | .packageReset _ => none
  | .hostWindowAccess _ _ _ => none
  | .controlWindowWrite _ _ => none
  | .hdoor _ => none
  | .harnessReplay => none
  | .endReplay => none
  | .launch => none
  | .waitev => none
  | .evadd => none
  | .kload => none
  | .graph => none
  | .notify => none
  | .cancel _ => none
  | .hdbell _ => none
  | .getVersion => none
  | .getCapabilities => none
  | .negotiateAlgorithms => none
  | .getDigests => none
  | .getCertificate => none
  | .challenge => none
  | .getMeasurements => none
  | .linkUp _ => none
  | .hostConfigRequest _ => none

/-- The trailing literal of a `.vl` form (R49); zero elsewhere. -/
def VSrc.lit : VSrc → BitVec 32
  | .vl x => x
  | .vv _ => 0
  | .vs _ => 0
  | .vi _ => 0

/-- The trailing literal of an instruction (R49); zero where it has none. -/
def Instr.lit : Instr → BitVec 32
  | .add _ _ _ => 0
  | .sub _ _ _ => 0
  | .and _ _ _ => 0
  | .or _ _ _ => 0
  | .xor _ _ _ => 0
  | .andn _ _ _ => 0
  | .orn _ _ _ => 0
  | .sll _ _ _ => 0
  | .srl _ _ _ => 0
  | .sra _ _ _ => 0
  | .ror _ _ _ => 0
  | .mul _ _ _ => 0
  | .mulh _ _ _ => 0
  | .mulhu _ _ _ => 0
  | .div _ _ _ => 0
  | .divu _ _ _ => 0
  | .rem _ _ _ => 0
  | .remu _ _ _ => 0
  | .min _ _ _ => 0
  | .max _ _ _ => 0
  | .minu _ _ _ => 0
  | .maxu _ _ _ => 0
  | .addw _ _ _ => 0
  | .subw _ _ _ => 0
  | .seq _ _ _ => 0
  | .sne _ _ _ => 0
  | .slt _ _ _ => 0
  | .sge _ _ _ => 0
  | .sltu _ _ _ => 0
  | .sgeu _ _ _ => 0
  | .addi _ _ _ => 0
  | .andi _ _ _ => 0
  | .ori _ _ _ => 0
  | .xori _ _ _ => 0
  | .slli _ _ _ => 0
  | .srli _ _ _ => 0
  | .srai _ _ _ => 0
  | .rori _ _ _ => 0
  | .clz _ _ => 0
  | .ctz _ _ => 0
  | .popc _ _ => 0
  | .sextb _ _ => 0
  | .sexth _ _ => 0
  | .sextw _ _ => 0
  | .zextb _ _ => 0
  | .zexth _ _ => 0
  | .zextw _ _ => 0
  | .bswap _ _ => 0
  | .ldb _ _ _ => 0
  | .ldbu _ _ _ => 0
  | .ldh _ _ _ => 0
  | .ldhu _ _ _ => 0
  | .ldw _ _ _ => 0
  | .ldwu _ _ _ => 0
  | .ldd _ _ _ => 0
  | .stb _ _ _ => 0
  | .sth _ _ _ => 0
  | .stw _ _ _ => 0
  | .std _ _ _ => 0
  | .ldxb _ _ _ _ => 0
  | .ldxbu _ _ _ _ => 0
  | .ldxh _ _ _ _ => 0
  | .ldxhu _ _ _ _ => 0
  | .ldxw _ _ _ _ => 0
  | .ldxwu _ _ _ _ => 0
  | .ldxd _ _ _ _ => 0
  | .stxb _ _ _ _ => 0
  | .stxh _ _ _ _ => 0
  | .stxw _ _ _ _ => 0
  | .stxd _ _ _ _ => 0
  | .fadd _ _ _ => 0
  | .fsub _ _ _ => 0
  | .fmul _ _ _ => 0
  | .fdiv _ _ _ => 0
  | .fsqrt _ _ => 0
  | .fmin _ _ _ => 0
  | .fmax _ _ _ => 0
  | .feq _ _ _ => 0
  | .flt _ _ _ => 0
  | .fle _ _ _ => 0
  | .fclass _ _ => 0
  | .fcvtsw _ _ => 0
  | .fcvtswu _ _ => 0
  | .fcvtws _ _ => 0
  | .fcvtwus _ _ => 0
  | .fcvths _ _ => 0
  | .fcvtsh _ _ => 0
  | .fcvtbs _ _ => 0
  | .fcvtsb _ _ => 0
  | .fmadd _ _ _ => 0
  | .fmsub _ _ _ => 0
  | .fnmadd _ _ _ => 0
  | .fnmsub _ _ _ => 0
  | .mfs _ _ => 0
  | .mts _ _ => 0
  | .vadd _ _ b _ => b.lit
  | .vsub _ _ b _ => b.lit
  | .vrsub _ _ b _ => b.lit
  | .vmul _ _ b _ => b.lit
  | .vmulh _ _ b _ => b.lit
  | .vmin _ _ b _ => b.lit
  | .vmax _ _ b _ => b.lit
  | .vminu _ _ b _ => b.lit
  | .vmaxu _ _ b _ => b.lit
  | .vand _ _ b _ => b.lit
  | .vor _ _ b _ => b.lit
  | .vxor _ _ b _ => b.lit
  | .vsll _ _ b _ => b.lit
  | .vsrl _ _ b _ => b.lit
  | .vsra _ _ b _ => b.lit
  | .vadds _ _ b _ => b.lit
  | .vfadd _ _ b _ => b.lit
  | .vfsub _ _ b _ => b.lit
  | .vfmul _ _ b _ => b.lit
  | .vfdiv _ _ b _ => b.lit
  | .vfmin _ _ b _ => b.lit
  | .vfmax _ _ b _ => b.lit
  | .vfsqrt _ _ _ => 0
  | .vexp2 _ _ _ => 0
  | .vlog2 _ _ _ => 0
  | .vrcp _ _ _ => 0
  | .vrsqrt _ _ _ => 0
  | .vfsgn _ _ b _ => b.lit
  | .vfma _ _ b _ => b.lit
  | .vfms _ _ b _ => b.lit
  | .vfnma _ _ b _ => b.lit
  | .vfnms _ _ b _ => b.lit
  | .vmadd _ _ b _ => b.lit
  | .vmsub _ _ b _ => b.lit
  | .vseq _ _ b _ => b.lit
  | .vsne _ _ b _ => b.lit
  | .vslt _ _ b _ => b.lit
  | .vsge _ _ b _ => b.lit
  | .vsltu _ _ b _ => b.lit
  | .vsgeu _ _ b _ => b.lit
  | .vfeq _ _ b _ => b.lit
  | .vflt _ _ b _ => b.lit
  | .vfle _ _ b _ => b.lit
  | .vfunord _ _ b _ => b.lit
  | .vmv _ _ _ => 0
  | .vsel _ _ _ => 0
  | .viota _ => 0
  | .vslideup _ _ _ _ => 0
  | .vslidedn _ _ _ _ => 0
  | .vrev _ _ _ => 0
  | .vcompress _ _ => 0
  | .vexpand _ _ => 0
  | .vtos _ _ => 0
  | .stov _ _ _ => 0
  | .vperm _ _ _ _ => 0
  | .vzip _ _ _ => 0
  | .vunzip _ _ => 0
  | .vredsum _ _ _ _ => 0
  | .vredmax _ _ _ _ => 0
  | .vredmin _ _ _ _ => 0
  | .vfredsum _ _ _ _ => 0
  | .vfredmax _ _ _ _ => 0
  | .vfredmin _ _ _ _ => 0
  | .vscan _ _ _ => 0
  | .vfscan _ _ _ => 0
  | .vsegsum _ _ _ _ => 0
  | .vsegmax _ _ _ _ => 0
  | .vcvt _ _ _ _ _ => 0
  | .vsmxe _ _ _ => 0
  | .vquant _ _ _ _ => 0
  | .vdeq _ _ _ _ => 0
  | .vpack _ _ _ => 0
  | .vunpk _ _ _ _ => 0
  | .vtox _ _ => 0
  | .xtov _ _ => 0
  | .vcfg _ _ _ _ => 0
  | .vld _ _ _ => 0
  | .vlds _ _ _ _ => 0
  | .vst _ _ _ => 0
  | .vsts _ _ _ _ => 0
  | .vldx _ _ _ _ => 0
  | .vstx _ _ _ _ => 0
  | .vldp _ _ _ => 0
  | .vstp _ _ _ => 0
  | .vldpx _ _ _ _ => 0
  | .vstpx _ _ _ _ => 0
  | .vldt _ _ _ => 0
  | .vstt _ _ _ => 0
  | .pand _ _ _ => 0
  | .por _ _ _ => 0
  | .pxor _ _ _ => 0
  | .pandn _ _ _ => 0
  | .pnot _ _ => 0
  | .pall _ => 0
  | .pnone _ => 0
  | .ppop _ => 0
  | .pfirst _ => 0
  | .pany _ => 0
  | .psel _ _ _ => 0
  | .pfromv _ _ => 0
  | .ptov _ _ => 0
  | .pld _ _ => 0
  | .pst _ _ => 0
  | .vsort _ _ _ _ _ _ => 0
  | .vmerge _ _ _ => 0
  | .vmerges _ _ _ => 0
  | .vinter _ _ _ => 0
  | .vuniq _ _ => 0
  | .vrank _ _ _ _ => 0
  | .vranku _ _ _ _ => 0
  | .vpart _ _ _ _ => 0
  | .vchko _ _ _ => 0
  | .vtopk _ _ _ _ => 0
  | .vdiff _ _ _ => 0
  | .vuniqc _ _ => 0
  | .vmot _ => 0
  | .vmto _ _ => 0
  | .mshape _ _ => 0
  | .mmode _ => 0
  | .tmma _ _ _ _ _ => 0
  | .tmmap _ _ _ _ => 0
  | .tzero _ => 0
  | .tld _ _ _ => 0
  | .tst _ _ _ => 0
  | .tcvt _ _ _ _ => 0
  | .tldp _ _ _ => 0
  | .tstp _ _ _ => 0
  | .gtest _ _ => 0
  | .gset _ _ => 0
  | .amask _ _ _ => 0
  | .asoft _ _ _ => 0
  | .ascale _ _ _ => 0
  | .sbind _ _ _ => 0
  | .sunbind _ => 0
  | .sstat _ => 0
  | .sadv _ _ => 0
  | .sflush _ => 0
  | .streamRefill _ => 0
  | .streamOutputWrite _ => 0
  | .copy _ _ _ => 0
  | .copyg _ _ _ => 0
  | .cresume _ => 0
  | .cresumeAbort _ => 0
  | .rinit _ _ => 0
  | .rawait _ => 0
  | .rrel _ => 0
  | .waita _ _ _ _ _ => 0
  | .cstat _ => 0
  | .copyCompletion _ => 0
  | .engf => 0
  | .saadd _ _ _ _ _ _ _ => 0
  | .samin _ _ _ _ _ _ _ => 0
  | .samax _ _ _ _ _ _ _ => 0
  | .saxchg _ _ _ _ _ _ _ => 0
  | .sacas _ _ _ _ _ _ _ => 0
  | .saand _ _ _ _ _ _ _ => 0
  | .saor _ _ _ _ _ _ _ => 0
  | .safadd _ _ _ _ _ _ _ => 0
  | .gaadd _ _ _ _ _ _ _ => 0
  | .gamin _ _ _ _ _ _ _ => 0
  | .gamax _ _ _ _ _ _ _ => 0
  | .gaxchg _ _ _ _ _ _ _ => 0
  | .gacas _ _ _ _ _ _ _ => 0
  | .gaand _ _ _ _ _ _ _ => 0
  | .gaor _ _ _ _ _ _ _ => 0
  | .gafadd _ _ _ _ _ _ _ => 0
  | .kclaim _ _ => 0
  | .kfree _ => 0
  | .kins _ _ _ _ => 0
  | .kprb _ _ _ _ => 0
  | .kdel _ _ _ _ => 0
  | .kacc _ _ _ _ _ => 0
  | .kdrn _ _ => 0
  | .kstat _ => 0
  | .kseal _ => 0
  | .kclear _ => 0
  | .semts _ => 0
  | .semtry _ => 0
  | .semclr _ => 0
  | .crd _ _ => 0
  | .cwr _ _ _ => 0
  | .qatom _ _ _ _ _ _ => 0
  | .barv _ _ _ => 0
  | .barw _ _ => 0
  | .bara _ _ _ => 0
  | .baraInit _ _ _ => 0
  | .quadMessage _ _ _ _ => 0
  | .tspawn _ => 0
  | .twait _ => 0
  | .texit _ => 0
  | .texitAbort _ => 0
  | .tyield => 0
  | .qpush _ _ _ _ => 0
  | .qpop _ _ _ => 0
  | .vrel => 0
  | .tstat _ => 0
  | .evdec _ _ _ => 0
  | .evinc _ _ _ => 0
  | .rgather _ _ _ _ => 0
  | .rscat _ _ _ _ => 0
  | .rscatadd _ _ _ _ => 0
  | .rgstat => 0
  | .deferredMce => 0
  | .br _ _ _ _ => 0
  | .jmp _ => 0
  | .call _ => 0
  | .jr _ => 0
  | .callr _ => 0
  | .ret => 0
  | .gcall _ => 0
  | .trap _ => 0
  | .eret => 0
  | .gret => 0
  | .waiti => 0
  | .halt => 0
  | .fence _ _ => 0
  | .win _ _ => 0
  | .tlbinv _ _ => 0
  | .qsend _ _ => 0
  | .qrecv _ _ => 0
  | .qstat _ _ => 0
  | .vqrecv _ _ => 0
  | .shlst _ _ _ _ => 0
  | .kvxlt _ _ _ _ => 0
  | .pageInComplete _ => 0
  | .kvcommit _ _ => 0
  | .kvroll _ _ => 0
  | .kvfork _ _ => 0
  | .mcst _ _ _ _ => 0
  | .coll _ _ => 0
  | .cwaitc _ => 0
  | .collCompletion _ => 0
  | .skbld _ _ _ _ => 0
  | .sksub _ _ => 0
  | .skpeel _ _ _ => 0
  | .skrecon _ _ _ => 0
  | .skstat _ => 0
  | .skiverPeerRequest _ _ => 0
  | .li _ _ => 0
  | .lf _ _ => 0
  | .annulledStep => 0
  | .interrupt => 0
  | .timer => 0
  | .ipset _ => 0
  | .budgetExhausted => 0
  | .budget => 0
  | .taskDispatch => 0
  | .queuePull _ => 0
  | .aging => 0
  | .preemptTimeout => 0
  | .preemption => 0
  | .repartition => 0
  | .cinchSample => 0
  | .cinchInterval => 0
  | .cinchMoveComplete => 0
  | .remoteAccess _ _ _ => 0
  | .podBarrierMessage _ _ _ => 0
  | .flitReceive _ _ _ => 0
  | .linkReplay _ => 0
  | .linkRetrain _ => 0
  | .linkDown _ => 0
  | .remoteTimeout _ => 0
  | .admitPackage _ => 0
  | .retentionEntry _ => 0
  | .retentionExit _ => 0
  | .tscSync _ => 0
  | .throttle _ => 0
  | .packageReset _ => 0
  | .hostWindowAccess _ _ _ => 0
  | .controlWindowWrite _ _ => 0
  | .hdoor _ => 0
  | .harnessReplay => 0
  | .endReplay => 0
  | .launch => 0
  | .waitev => 0
  | .evadd => 0
  | .kload => 0
  | .graph => 0
  | .notify => 0
  | .cancel _ => 0
  | .hdbell _ => 0
  | .getVersion => 0
  | .getCapabilities => 0
  | .negotiateAlgorithms => 0
  | .getDigests => 0
  | .getCertificate => 0
  | .challenge => 0
  | .getMeasurements => 0
  | .linkUp _ => 0
  | .hostConfigRequest _ => 0

/-- The instruction's form is `.vl`: it has a trailing literal. -/
def VSrc.isLit : VSrc → Bool
  | .vl _ => true
  | .vv _ => false
  | .vs _ => false
  | .vi _ => false

/-- Major 0x00. -/
noncomputable def cand00 (r : RWord) : Except DecodeError Instr :=
  match r.fn.toNat with
  | 0 => .ok (.add r.d r.a r.b)
  | 1 => .ok (.sub r.d r.a r.b)
  | 2 => .ok (.and r.d r.a r.b)
  | 3 => .ok (.or r.d r.a r.b)
  | 4 => .ok (.xor r.d r.a r.b)
  | 5 => .ok (.andn r.d r.a r.b)
  | 6 => .ok (.orn r.d r.a r.b)
  | 8 => .ok (.sll r.d r.a r.b)
  | 9 => .ok (.srl r.d r.a r.b)
  | 10 => .ok (.sra r.d r.a r.b)
  | 11 => .ok (.ror r.d r.a r.b)
  | 12 => .ok (.mul r.d r.a r.b)
  | 13 => .ok (.mulh r.d r.a r.b)
  | 14 => .ok (.mulhu r.d r.a r.b)
  | 16 => .ok (.div r.d r.a r.b)
  | 17 => .ok (.divu r.d r.a r.b)
  | 18 => .ok (.rem r.d r.a r.b)
  | 19 => .ok (.remu r.d r.a r.b)
  | 20 => .ok (.min r.d r.a r.b)
  | 21 => .ok (.max r.d r.a r.b)
  | 22 => .ok (.minu r.d r.a r.b)
  | 23 => .ok (.maxu r.d r.a r.b)
  | 24 => .ok (.addw r.d r.a r.b)
  | 25 => .ok (.subw r.d r.a r.b)
  | _ => .error .reservedFunction

/-- Major 0x01. -/
noncomputable def cand01 (r : RWord) : Except DecodeError Instr :=
  match r.fn.toNat with
  | 0 => .ok (.seq r.d r.a r.b)
  | 1 => .ok (.sne r.d r.a r.b)
  | 2 => .ok (.slt r.d r.a r.b)
  | 3 => .ok (.sge r.d r.a r.b)
  | 4 => .ok (.sltu r.d r.a r.b)
  | 5 => .ok (.sgeu r.d r.a r.b)
  | _ => .error .reservedFunction

/-- Major 0x02. -/
noncomputable def cand02 (r : RWord) : Except DecodeError Instr :=
  .ok (.addi r.d r.a (r.b ++ r.fn))

/-- Major 0x03. -/
noncomputable def cand03 (r : RWord) : Except DecodeError Instr :=
  .ok (.andi r.d r.a (r.b ++ r.fn))

/-- Major 0x04. -/
noncomputable def cand04 (r : RWord) : Except DecodeError Instr :=
  .ok (.ori r.d r.a (r.b ++ r.fn))

/-- Major 0x05. -/
noncomputable def cand05 (r : RWord) : Except DecodeError Instr :=
  .ok (.xori r.d r.a (r.b ++ r.fn))

/-- Major 0x06. -/
noncomputable def cand06 (r : RWord) : Except DecodeError Instr :=
  match (r.b.extractLsb' 1 2).toNat with
  | 0 => .ok (.slli r.d r.a ((r.b.extractLsb' 0 1) ++ r.fn))
  | 1 => .ok (.srli r.d r.a ((r.b.extractLsb' 0 1) ++ r.fn))
  | 2 => .ok (.srai r.d r.a ((r.b.extractLsb' 0 1) ++ r.fn))
  | _ => .ok (.rori r.d r.a ((r.b.extractLsb' 0 1) ++ r.fn))

/-- Major 0x07. -/
noncomputable def cand07 (r : RWord) : Except DecodeError Instr :=
  match r.fn.toNat with
  | 0 => .ok (.clz r.d r.a)
  | 1 => .ok (.ctz r.d r.a)
  | 2 => .ok (.popc r.d r.a)
  | 3 => .ok (.sextb r.d r.a)
  | 4 => .ok (.sexth r.d r.a)
  | 5 => .ok (.sextw r.d r.a)
  | 6 => .ok (.zextb r.d r.a)
  | 7 => .ok (.zexth r.d r.a)
  | 8 => .ok (.zextw r.d r.a)
  | 9 => .ok (.bswap r.d r.a)
  | _ => .error .reservedFunction

/-- Major 0x08. -/
noncomputable def cand08 (r : RWord) : Except DecodeError Instr :=
  match (r.fn.extractLsb' 0 3).toNat with
  | 0 => .ok (.ldb r.d r.a (r.b ++ (r.fn.extractLsb' 3 2)))
  | 1 => .ok (.ldbu r.d r.a (r.b ++ (r.fn.extractLsb' 3 2)))
  | 2 => .ok (.ldh r.d r.a (r.b ++ (r.fn.extractLsb' 3 2)))
  | 3 => .ok (.ldhu r.d r.a (r.b ++ (r.fn.extractLsb' 3 2)))
  | 4 => .ok (.ldw r.d r.a (r.b ++ (r.fn.extractLsb' 3 2)))
  | 5 => .ok (.ldwu r.d r.a (r.b ++ (r.fn.extractLsb' 3 2)))
  | 6 => .ok (.ldd r.d r.a (r.b ++ (r.fn.extractLsb' 3 2)))
  | _ => .error .reservedFunction

/-- Major 0x09. -/
noncomputable def cand09 (r : RWord) : Except DecodeError Instr :=
  match (r.fn.extractLsb' 0 3).toNat with
  | 0 => .ok (.stb r.d r.a (r.b ++ (r.fn.extractLsb' 3 2)))
  | 2 => .ok (.sth r.d r.a (r.b ++ (r.fn.extractLsb' 3 2)))
  | 4 => .ok (.stw r.d r.a (r.b ++ (r.fn.extractLsb' 3 2)))
  | 6 => .ok (.std r.d r.a (r.b ++ (r.fn.extractLsb' 3 2)))
  | _ => .error .reservedFunction

/-- Major 0x0A. -/
noncomputable def cand0A (r : RWord) : Except DecodeError Instr :=
  match (r.fn.extractLsb' 0 3).toNat with
  | 0 => if r.fn.getLsbD 4 then .ok (.stxb r.d r.a r.b (r.fn.extractLsb' 3 1)) else .ok (.ldxb r.d r.a r.b (r.fn.extractLsb' 3 1))
  | 1 => .ok (.ldxbu r.d r.a r.b (r.fn.extractLsb' 3 1))
  | 2 => if r.fn.getLsbD 4 then .ok (.stxh r.d r.a r.b (r.fn.extractLsb' 3 1)) else .ok (.ldxh r.d r.a r.b (r.fn.extractLsb' 3 1))
  | 3 => .ok (.ldxhu r.d r.a r.b (r.fn.extractLsb' 3 1))
  | 4 => if r.fn.getLsbD 4 then .ok (.stxw r.d r.a r.b (r.fn.extractLsb' 3 1)) else .ok (.ldxw r.d r.a r.b (r.fn.extractLsb' 3 1))
  | 5 => .ok (.ldxwu r.d r.a r.b (r.fn.extractLsb' 3 1))
  | 6 => if r.fn.getLsbD 4 then .ok (.stxd r.d r.a r.b (r.fn.extractLsb' 3 1)) else .ok (.ldxd r.d r.a r.b (r.fn.extractLsb' 3 1))
  | _ => .error .reservedFunction

/-- Major 0x0B. -/
noncomputable def cand0B (r : RWord) : Except DecodeError Instr :=
  match r.fn.toNat with
  | 0 => .ok (.fadd r.d r.a r.b)
  | 1 => .ok (.fsub r.d r.a r.b)
  | 2 => .ok (.fmul r.d r.a r.b)
  | 3 => .ok (.fdiv r.d r.a r.b)
  | 4 => .ok (.fsqrt r.d r.a)
  | 5 => .ok (.fmin r.d r.a r.b)
  | 6 => .ok (.fmax r.d r.a r.b)
  | 7 => .ok (.feq r.d r.a r.b)
  | 8 => .ok (.flt r.d r.a r.b)
  | 9 => .ok (.fle r.d r.a r.b)
  | 10 => .ok (.fclass r.d r.a)
  | 11 => .ok (.fcvtsw r.d r.a)
  | 12 => .ok (.fcvtswu r.d r.a)
  | 13 => .ok (.fcvtws r.d r.a)
  | 14 => .ok (.fcvtwus r.d r.a)
  | 16 => .ok (.fcvths r.d r.a)
  | 17 => .ok (.fcvtsh r.d r.a)
  | 18 => .ok (.fcvtbs r.d r.a)
  | 19 => .ok (.fcvtsb r.d r.a)
  | _ => .error .reservedFunction

/-- Major 0x0C. -/
noncomputable def cand0C (r : RWord) : Except DecodeError Instr :=
  match r.fn.toNat with
  | 0 => .ok (.fmadd r.d r.a r.b)
  | 1 => .ok (.fmsub r.d r.a r.b)
  | 2 => .ok (.fnmadd r.d r.a r.b)
  | 3 => .ok (.fnmsub r.d r.a r.b)
  | _ => .error .reservedFunction

/-- Major 0x0D. -/
noncomputable def cand0D (r : RWord) : Except DecodeError Instr :=
  .ok (.mfs r.d (r.b ++ r.fn))

/-- Major 0x0E. -/
noncomputable def cand0E (r : RWord) : Except DecodeError Instr :=
  .ok (.mts r.a (r.b ++ r.fn))

/-- Major 0x10. -/
noncomputable def cand10 (r : RWord) (lit : BitVec 32) : Except DecodeError Instr :=
  match (r.fn.extractLsb' 0 4).toNat with
  | 0 => .ok (.vadd r.d r.a (VSrc.ofForm (r.op.extractLsb' 0 2) r.b lit) (r.fn.extractLsb' 4 1))
  | 1 => .ok (.vsub r.d r.a (VSrc.ofForm (r.op.extractLsb' 0 2) r.b lit) (r.fn.extractLsb' 4 1))
  | 2 => .ok (.vrsub r.d r.a (VSrc.ofForm (r.op.extractLsb' 0 2) r.b lit) (r.fn.extractLsb' 4 1))
  | 3 => .ok (.vmul r.d r.a (VSrc.ofForm (r.op.extractLsb' 0 2) r.b lit) (r.fn.extractLsb' 4 1))
  | 4 => .ok (.vmulh r.d r.a (VSrc.ofForm (r.op.extractLsb' 0 2) r.b lit) (r.fn.extractLsb' 4 1))
  | 5 => .ok (.vmin r.d r.a (VSrc.ofForm (r.op.extractLsb' 0 2) r.b lit) (r.fn.extractLsb' 4 1))
  | 6 => .ok (.vmax r.d r.a (VSrc.ofForm (r.op.extractLsb' 0 2) r.b lit) (r.fn.extractLsb' 4 1))
  | 7 => .ok (.vminu r.d r.a (VSrc.ofForm (r.op.extractLsb' 0 2) r.b lit) (r.fn.extractLsb' 4 1))
  | 8 => .ok (.vmaxu r.d r.a (VSrc.ofForm (r.op.extractLsb' 0 2) r.b lit) (r.fn.extractLsb' 4 1))
  | 9 => .ok (.vand r.d r.a (VSrc.ofForm (r.op.extractLsb' 0 2) r.b lit) (r.fn.extractLsb' 4 1))
  | 10 => .ok (.vor r.d r.a (VSrc.ofForm (r.op.extractLsb' 0 2) r.b lit) (r.fn.extractLsb' 4 1))
  | 11 => .ok (.vxor r.d r.a (VSrc.ofForm (r.op.extractLsb' 0 2) r.b lit) (r.fn.extractLsb' 4 1))
  | 12 => .ok (.vsll r.d r.a (VSrc.ofForm (r.op.extractLsb' 0 2) r.b lit) (r.fn.extractLsb' 4 1))
  | 13 => .ok (.vsrl r.d r.a (VSrc.ofForm (r.op.extractLsb' 0 2) r.b lit) (r.fn.extractLsb' 4 1))
  | 14 => .ok (.vsra r.d r.a (VSrc.ofForm (r.op.extractLsb' 0 2) r.b lit) (r.fn.extractLsb' 4 1))
  | _ => .ok (.vadds r.d r.a (VSrc.ofForm (r.op.extractLsb' 0 2) r.b lit) (r.fn.extractLsb' 4 1))

/-- Major 0x14. -/
noncomputable def cand14 (r : RWord) (lit : BitVec 32) : Except DecodeError Instr :=
  match (r.fn.extractLsb' 0 4).toNat with
  | 0 => .ok (.vfadd r.d r.a (VSrc.ofForm (r.op.extractLsb' 0 2) r.b lit) (r.fn.extractLsb' 4 1))
  | 1 => .ok (.vfsub r.d r.a (VSrc.ofForm (r.op.extractLsb' 0 2) r.b lit) (r.fn.extractLsb' 4 1))
  | 2 => .ok (.vfmul r.d r.a (VSrc.ofForm (r.op.extractLsb' 0 2) r.b lit) (r.fn.extractLsb' 4 1))
  | 3 => .ok (.vfdiv r.d r.a (VSrc.ofForm (r.op.extractLsb' 0 2) r.b lit) (r.fn.extractLsb' 4 1))
  | 4 => .ok (.vfmin r.d r.a (VSrc.ofForm (r.op.extractLsb' 0 2) r.b lit) (r.fn.extractLsb' 4 1))
  | 5 => .ok (.vfmax r.d r.a (VSrc.ofForm (r.op.extractLsb' 0 2) r.b lit) (r.fn.extractLsb' 4 1))
  | 6 => .ok (.vfsqrt r.d r.a (r.fn.extractLsb' 4 1))
  | 7 => .ok (.vexp2 r.d r.a (r.fn.extractLsb' 4 1))
  | 8 => .ok (.vlog2 r.d r.a (r.fn.extractLsb' 4 1))
  | 9 => .ok (.vrcp r.d r.a (r.fn.extractLsb' 4 1))
  | 10 => .ok (.vrsqrt r.d r.a (r.fn.extractLsb' 4 1))
  | 11 => .ok (.vfsgn r.d r.a (VSrc.ofForm (r.op.extractLsb' 0 2) r.b lit) (r.fn.extractLsb' 4 1))
  | _ => .error .reservedFunction

/-- Major 0x18. -/
noncomputable def cand18 (r : RWord) (lit : BitVec 32) : Except DecodeError Instr :=
  match (r.fn.extractLsb' 0 4).toNat with
  | 0 => .ok (.vfma r.d r.a (VSrc.ofForm (r.op.extractLsb' 0 2) r.b lit) (r.fn.extractLsb' 4 1))
  | 1 => .ok (.vfms r.d r.a (VSrc.ofForm (r.op.extractLsb' 0 2) r.b lit) (r.fn.extractLsb' 4 1))
  | 2 => .ok (.vfnma r.d r.a (VSrc.ofForm (r.op.extractLsb' 0 2) r.b lit) (r.fn.extractLsb' 4 1))
  | 3 => .ok (.vfnms r.d r.a (VSrc.ofForm (r.op.extractLsb' 0 2) r.b lit) (r.fn.extractLsb' 4 1))
  | 4 => .ok (.vmadd r.d r.a (VSrc.ofForm (r.op.extractLsb' 0 2) r.b lit) (r.fn.extractLsb' 4 1))
  | 5 => .ok (.vmsub r.d r.a (VSrc.ofForm (r.op.extractLsb' 0 2) r.b lit) (r.fn.extractLsb' 4 1))
  | _ => .error .reservedFunction

/-- Major 0x1C. -/
noncomputable def cand1C (r : RWord) (lit : BitVec 32) : Except DecodeError Instr :=
  match (r.fn.extractLsb' 0 4).toNat with
  | 0 => .ok (.vseq r.d r.a (VSrc.ofForm (r.op.extractLsb' 0 2) r.b lit) (r.fn.extractLsb' 4 1))
  | 1 => .ok (.vsne r.d r.a (VSrc.ofForm (r.op.extractLsb' 0 2) r.b lit) (r.fn.extractLsb' 4 1))
  | 2 => .ok (.vslt r.d r.a (VSrc.ofForm (r.op.extractLsb' 0 2) r.b lit) (r.fn.extractLsb' 4 1))
  | 3 => .ok (.vsge r.d r.a (VSrc.ofForm (r.op.extractLsb' 0 2) r.b lit) (r.fn.extractLsb' 4 1))
  | 4 => .ok (.vsltu r.d r.a (VSrc.ofForm (r.op.extractLsb' 0 2) r.b lit) (r.fn.extractLsb' 4 1))
  | 5 => .ok (.vsgeu r.d r.a (VSrc.ofForm (r.op.extractLsb' 0 2) r.b lit) (r.fn.extractLsb' 4 1))
  | 6 => .ok (.vfeq r.d r.a (VSrc.ofForm (r.op.extractLsb' 0 2) r.b lit) (r.fn.extractLsb' 4 1))
  | 7 => .ok (.vflt r.d r.a (VSrc.ofForm (r.op.extractLsb' 0 2) r.b lit) (r.fn.extractLsb' 4 1))
  | 8 => .ok (.vfle r.d r.a (VSrc.ofForm (r.op.extractLsb' 0 2) r.b lit) (r.fn.extractLsb' 4 1))
  | 9 => .ok (.vfunord r.d r.a (VSrc.ofForm (r.op.extractLsb' 0 2) r.b lit) (r.fn.extractLsb' 4 1))
  | _ => .error .reservedFunction

/-- Major 0x20. -/
noncomputable def cand20 (r : RWord) : Except DecodeError Instr :=
  match (r.fn.extractLsb' 0 4).toNat with
  | 0 => .ok (.vmv r.d r.a (r.fn.extractLsb' 4 1))
  | 1 => .ok (.vsel r.d r.a r.b)
  | 2 => .ok (.viota r.d)
  | 3 => .ok (.vslideup r.d r.a r.b (r.fn.extractLsb' 4 1))
  | 4 => .ok (.vslidedn r.d r.a r.b (r.fn.extractLsb' 4 1))
  | 5 => .ok (.vrev r.d r.a (r.fn.extractLsb' 4 1))
  | 6 => .ok (.vcompress r.d r.a)
  | 7 => .ok (.vexpand r.d r.a)
  | 8 => .ok (.vtos r.a r.b)
  | 9 => .ok (.stov r.d r.b (r.fn.extractLsb' 4 1))
  | 10 => .ok (.vperm r.d r.a r.b (r.fn.extractLsb' 4 1))
  | 11 => .ok (.vzip r.d r.a r.b)
  | 12 => .ok (.vunzip r.d r.a)
  | _ => .error .reservedFunction

/-- Major 0x21. -/
noncomputable def cand21 (r : RWord) : Except DecodeError Instr :=
  match (r.fn.extractLsb' 0 4).toNat with
  | 0 => .ok (.vredsum r.d r.a (r.b.extractLsb' 0 1) (r.fn.extractLsb' 4 1))
  | 1 => .ok (.vredmax r.d r.a (r.b.extractLsb' 0 1) (r.fn.extractLsb' 4 1))
  | 2 => .ok (.vredmin r.d r.a (r.b.extractLsb' 0 1) (r.fn.extractLsb' 4 1))
  | 3 => .ok (.vfredsum r.d r.a (r.b.extractLsb' 0 1) (r.fn.extractLsb' 4 1))
  | 4 => .ok (.vfredmax r.d r.a (r.b.extractLsb' 0 1) (r.fn.extractLsb' 4 1))
  | 5 => .ok (.vfredmin r.d r.a (r.b.extractLsb' 0 1) (r.fn.extractLsb' 4 1))
  | 6 => .ok (.vscan r.d r.a (r.fn.extractLsb' 4 1))
  | 7 => .ok (.vfscan r.d r.a (r.fn.extractLsb' 4 1))
  | 8 => .ok (.vsegsum r.d r.a r.b (r.fn.extractLsb' 4 1))
  | 9 => .ok (.vsegmax r.d r.a r.b (r.fn.extractLsb' 4 1))
  | _ => .error .reservedFunction

/-- Major 0x22. -/
noncomputable def cand22 (r : RWord) : Except DecodeError Instr :=
  match (r.fn.extractLsb' 0 4).toNat with
  | 0 => .ok (.vcvt r.d r.a (r.b.extractLsb' 3 4) (r.b.extractLsb' 2 1) (r.fn.extractLsb' 4 1))
  | 1 => .ok (.vsmxe r.d r.a (r.fn.extractLsb' 4 1))
  | 2 => .ok (.vquant r.d r.a r.b (r.fn.extractLsb' 4 1))
  | 3 => .ok (.vdeq r.d r.a r.b (r.fn.extractLsb' 4 1))
  | 4 => .ok (.vpack r.d r.a (r.fn.extractLsb' 4 1))
  | 5 => .ok (.vunpk r.d r.a (r.b.extractLsb' 0 1) (r.fn.extractLsb' 4 1))
  | 6 => .ok (.vtox r.d r.a)
  | 7 => .ok (.xtov r.d r.a)
  | _ => .error .reservedFunction

/-- Major 0x23. -/
noncomputable def cand23 (r : RWord) : Except DecodeError Instr :=
  .ok (.vcfg r.d r.a ((r.b.extractLsb' 0 4) ++ (r.fn.extractLsb' 4 1)) (r.fn.extractLsb' 0 4))

/-- Major 0x24. -/
noncomputable def cand24 (r : RWord) : Except DecodeError Instr :=
  match (r.fn.extractLsb' 0 4).toNat with
  | 0 => .ok (.vld r.d r.a (r.fn.extractLsb' 4 1))
  | 1 => .ok (.vlds r.d r.a r.b (r.fn.extractLsb' 4 1))
  | 2 => .ok (.vst r.d r.a (r.fn.extractLsb' 4 1))
  | 3 => .ok (.vsts r.d r.a r.b (r.fn.extractLsb' 4 1))
  | 4 => .ok (.vldx r.d r.a r.b (r.fn.extractLsb' 4 1))
  | 5 => .ok (.vstx r.d r.a r.b (r.fn.extractLsb' 4 1))
  | 6 => .ok (.vldp r.d r.a (r.fn.extractLsb' 4 1))
  | 7 => .ok (.vstp r.d r.a (r.fn.extractLsb' 4 1))
  | 8 => .ok (.vldpx r.d r.a r.b (r.fn.extractLsb' 4 1))
  | 9 => .ok (.vstpx r.d r.a r.b (r.fn.extractLsb' 4 1))
  | 10 => .ok (.vldt r.d r.a (r.fn.extractLsb' 4 1))
  | 11 => .ok (.vstt r.d r.a (r.fn.extractLsb' 4 1))
  | _ => .error .reservedFunction

/-- Major 0x25. -/
noncomputable def cand25 (r : RWord) : Except DecodeError Instr :=
  match r.fn.toNat with
  | 0 => .ok (.pand r.d r.a r.b)
  | 1 => .ok (.por r.d r.a r.b)
  | 2 => .ok (.pxor r.d r.a r.b)
  | 3 => .ok (.pandn r.d r.a r.b)
  | 4 => .ok (.pnot r.d r.a)
  | 5 => .ok (.pall r.d)
  | 6 => .ok (.pnone r.d)
  | 7 => .ok (.ppop r.a)
  | 8 => .ok (.pfirst r.a)
  | 9 => .ok (.pany r.a)
  | 10 => .ok (.psel r.d r.a r.b)
  | 11 => .ok (.pfromv r.d r.a)
  | 12 => .ok (.ptov r.d r.a)
  | 13 => .ok (.pld r.d r.a)
  | 14 => .ok (.pst r.d r.a)
  | _ => .error .reservedFunction

/-- Major 0x26. -/
noncomputable def cand26 (r : RWord) : Except DecodeError Instr :=
  match (r.fn.extractLsb' 0 4).toNat with
  | 0 => .ok (.vsort r.d r.a (r.b.extractLsb' 2 2) (r.b.extractLsb' 1 1) (r.b.extractLsb' 0 1) (r.fn.extractLsb' 4 1))
  | 1 => .ok (.vmerge r.d r.a r.b)
  | 2 => .ok (.vmerges r.d r.a r.b)
  | 3 => .ok (.vinter r.d r.a r.b)
  | 4 => .ok (.vuniq r.d r.a)
  | 5 => .ok (.vrank r.d r.a r.b (r.fn.extractLsb' 4 1))
  | 6 => .ok (.vranku r.d r.a r.b (r.fn.extractLsb' 4 1))
  | 7 => .ok (.vpart r.d r.a r.b (r.fn.extractLsb' 4 1))
  | 8 => .ok (.vchko r.a (r.b.extractLsb' 1 2) (r.b.extractLsb' 0 1))
  | 9 => .ok (.vtopk r.d r.a r.b (r.fn.extractLsb' 4 1))
  | 10 => .ok (.vdiff r.d r.a r.b)
  | 11 => .ok (.vuniqc r.d r.a)
  | 12 => .ok (.vmot r.a)
  | 13 => .ok (.vmto r.a r.b)
  | _ => .error .reservedFunction

/-- Major 0x27. -/
noncomputable def cand27 (r : RWord) : Except DecodeError Instr :=
  match (r.fn.extractLsb' 0 4).toNat with
  | 0 => .ok (.mshape r.a r.b)
  | 1 => .ok (.mmode (r.b.extractLsb' 0 2))
  | 2 => .ok (.tmma (r.d.extractLsb' 5 1) (r.d.extractLsb' 0 5) r.a r.b (r.fn.extractLsb' 4 1))
  | 3 => .ok (.tmmap r.d r.a r.b (r.fn.extractLsb' 4 1))
  | 4 => .ok (.tzero r.d)
  | 5 => .ok (.tld r.d r.a r.b)
  | 6 => .ok (.tst r.d r.a r.b)
  | 7 => .ok (.tcvt r.d r.a (r.b.extractLsb' 3 1) (r.b.extractLsb' 0 3))
  | 8 => .ok (.tldp r.d r.a r.b)
  | 9 => .ok (.tstp r.d r.a r.b)
  | 10 => .ok (.gtest r.d r.a)
  | 11 => .ok (.gset r.d r.b)
  | _ => .error .reservedFunction

/-- Major 0x28. -/
noncomputable def cand28 (r : RWord) : Except DecodeError Instr :=
  match r.fn.toNat with
  | 0 => .ok (.amask r.d r.a r.b)
  | 1 => .ok (.asoft r.d r.a r.b)
  | 2 => .ok (.ascale r.d r.a (r.b.extractLsb' 0 1))
  | _ => .error .reservedFunction

/-- Major 0x29. -/
noncomputable def cand29 (r : RWord) : Except DecodeError Instr :=
  match r.fn.toNat with
  | 0 => .ok (.sbind r.d r.a (r.b.extractLsb' 0 1))
  | 1 => .ok (.sunbind r.a)
  | 2 => .ok (.sstat r.a)
  | 3 => .ok (.sadv r.a r.b)
  | 4 => .ok (.sflush r.a)
  | _ => .error .reservedFunction

/-- Major 0x2A. -/
noncomputable def cand2A (r : RWord) : Except DecodeError Instr :=
  match r.fn.toNat with
  | 0 => .ok (.copy r.d r.a r.b)
  | 1 => .ok (.copyg r.d r.a r.b)
  | 2 => if r.b.getLsbD 0 then .ok (.cresumeAbort r.a) else .ok (.cresume r.a)
  | 3 => .ok (.rinit r.a r.b)
  | 4 => .ok (.rawait r.a)
  | 5 => .ok (.rrel r.a)
  | 6 => .ok (.waita (r.d.extractLsb' 6 1) (r.d.extractLsb' 3 3) (r.d.extractLsb' 0 3) r.a r.b)
  | 7 => .ok (.cstat r.a)
  | _ => .error .reservedFunction

/-- Major 0x2B. -/
noncomputable def cand2B (r : RWord) : Except DecodeError Instr :=
  match r.fn.toNat with
  | 0 => .ok (.saadd (r.d.extractLsb' 6 1) (r.d.extractLsb' 3 3) (r.d.extractLsb' 2 1) (r.d.extractLsb' 1 1) (r.d.extractLsb' 0 1) r.a r.b)
  | 1 => .ok (.samin (r.d.extractLsb' 6 1) (r.d.extractLsb' 3 3) (r.d.extractLsb' 2 1) (r.d.extractLsb' 1 1) (r.d.extractLsb' 0 1) r.a r.b)
  | 2 => .ok (.samax (r.d.extractLsb' 6 1) (r.d.extractLsb' 3 3) (r.d.extractLsb' 2 1) (r.d.extractLsb' 1 1) (r.d.extractLsb' 0 1) r.a r.b)
  | 3 => .ok (.saxchg (r.d.extractLsb' 6 1) (r.d.extractLsb' 3 3) (r.d.extractLsb' 2 1) (r.d.extractLsb' 1 1) (r.d.extractLsb' 0 1) r.a r.b)
  | 4 => .ok (.sacas (r.d.extractLsb' 6 1) (r.d.extractLsb' 3 3) (r.d.extractLsb' 2 1) (r.d.extractLsb' 1 1) (r.d.extractLsb' 0 1) r.a r.b)
  | 5 => .ok (.saand (r.d.extractLsb' 6 1) (r.d.extractLsb' 3 3) (r.d.extractLsb' 2 1) (r.d.extractLsb' 1 1) (r.d.extractLsb' 0 1) r.a r.b)
  | 6 => .ok (.saor (r.d.extractLsb' 6 1) (r.d.extractLsb' 3 3) (r.d.extractLsb' 2 1) (r.d.extractLsb' 1 1) (r.d.extractLsb' 0 1) r.a r.b)
  | 7 => .ok (.safadd (r.d.extractLsb' 6 1) (r.d.extractLsb' 3 3) (r.d.extractLsb' 2 1) (r.d.extractLsb' 1 1) (r.d.extractLsb' 0 1) r.a r.b)
  | 16 => .ok (.gaadd (r.d.extractLsb' 6 1) (r.d.extractLsb' 3 3) (r.d.extractLsb' 2 1) (r.d.extractLsb' 1 1) (r.d.extractLsb' 0 1) r.a r.b)
  | 17 => .ok (.gamin (r.d.extractLsb' 6 1) (r.d.extractLsb' 3 3) (r.d.extractLsb' 2 1) (r.d.extractLsb' 1 1) (r.d.extractLsb' 0 1) r.a r.b)
  | 18 => .ok (.gamax (r.d.extractLsb' 6 1) (r.d.extractLsb' 3 3) (r.d.extractLsb' 2 1) (r.d.extractLsb' 1 1) (r.d.extractLsb' 0 1) r.a r.b)
  | 19 => .ok (.gaxchg (r.d.extractLsb' 6 1) (r.d.extractLsb' 3 3) (r.d.extractLsb' 2 1) (r.d.extractLsb' 1 1) (r.d.extractLsb' 0 1) r.a r.b)
  | 20 => .ok (.gacas (r.d.extractLsb' 6 1) (r.d.extractLsb' 3 3) (r.d.extractLsb' 2 1) (r.d.extractLsb' 1 1) (r.d.extractLsb' 0 1) r.a r.b)
  | 21 => .ok (.gaand (r.d.extractLsb' 6 1) (r.d.extractLsb' 3 3) (r.d.extractLsb' 2 1) (r.d.extractLsb' 1 1) (r.d.extractLsb' 0 1) r.a r.b)
  | 22 => .ok (.gaor (r.d.extractLsb' 6 1) (r.d.extractLsb' 3 3) (r.d.extractLsb' 2 1) (r.d.extractLsb' 1 1) (r.d.extractLsb' 0 1) r.a r.b)
  | 23 => .ok (.gafadd (r.d.extractLsb' 6 1) (r.d.extractLsb' 3 3) (r.d.extractLsb' 2 1) (r.d.extractLsb' 1 1) (r.d.extractLsb' 0 1) r.a r.b)
  | _ => .error .reservedFunction

/-- Major 0x2C. -/
noncomputable def cand2C (r : RWord) : Except DecodeError Instr :=
  match (r.fn.extractLsb' 0 4).toNat with
  | 0 => .ok (.kclaim r.a (r.b.extractLsb' 0 2))
  | 1 => .ok (.kfree (r.b.extractLsb' 0 2))
  | 2 => .ok (.kins r.d r.a (r.b.extractLsb' 0 2) (r.fn.extractLsb' 4 1))
  | 3 => .ok (.kprb r.d r.a (r.b.extractLsb' 0 2) (r.fn.extractLsb' 4 1))
  | 4 => .ok (.kdel r.d r.a (r.b.extractLsb' 0 2) (r.fn.extractLsb' 4 1))
  | 5 => .ok (.kacc r.d r.a (r.b.extractLsb' 2 3) (r.b.extractLsb' 0 2) (r.fn.extractLsb' 4 1))
  | 6 => .ok (.kdrn r.d (r.b.extractLsb' 0 2))
  | 7 => .ok (.kstat (r.b.extractLsb' 0 2))
  | 8 => .ok (.kseal (r.b.extractLsb' 0 2))
  | 9 => .ok (.kclear (r.b.extractLsb' 0 2))
  | _ => .error .reservedFunction

/-- Major 0x2D. -/
noncomputable def cand2D (r : RWord) : Except DecodeError Instr :=
  match (r.fn.extractLsb' 0 4).toNat with
  | 0 => .ok (.semts (r.b.extractLsb' 0 5))
  | 1 => .ok (.semtry (r.b.extractLsb' 0 5))
  | 2 => .ok (.semclr (r.b.extractLsb' 0 5))
  | 3 => .ok (.crd (r.d.extractLsb' 1 1) (r.b.extractLsb' 0 5))
  | 4 => .ok (.cwr (r.d.extractLsb' 2 1) r.a (r.b.extractLsb' 0 5))
  | 5 => .ok (.qatom r.d r.a (r.b.extractLsb' 4 1) (r.b.extractLsb' 3 1) (r.b.extractLsb' 0 3) (r.fn.extractLsb' 4 1))
  | 6 => .ok (.barv r.a (r.b.extractLsb' 4 3) (r.b.extractLsb' 0 4))
  | 7 => .ok (.barw (r.b.extractLsb' 4 3) (r.b.extractLsb' 0 4))
  | 8 => if r.d.getLsbD 0 then .ok (.baraInit r.a (r.b.extractLsb' 4 3) (r.b.extractLsb' 0 4)) else .ok (.bara r.a (r.b.extractLsb' 4 3) (r.b.extractLsb' 0 4))
  | _ => .error .reservedFunction

/-- Major 0x2E. -/
noncomputable def cand2E (r : RWord) : Except DecodeError Instr :=
  match r.fn.toNat with
  | 0 => .ok (.tspawn r.a)
  | 1 => .ok (.twait r.a)
  | 2 => if r.b.getLsbD 0 then .ok (.texitAbort r.a) else .ok (.texit r.a)
  | 3 => .ok (.tyield)
  | 4 => .ok (.qpush r.d r.a (r.b.extractLsb' 5 1) (r.b.extractLsb' 0 5))
  | 5 => .ok (.qpop r.d r.a (r.b.extractLsb' 0 5))
  | 6 => .ok (.vrel)
  | 7 => .ok (.tstat (r.b.extractLsb' 0 3))
  | 8 => .ok (.evdec (r.d.extractLsb' 0 1) r.a r.b)
  | 9 => .ok (.evinc (r.d.extractLsb' 0 1) r.a r.b)
  | _ => .error .reservedFunction

/-- Major 0x2F. -/
noncomputable def cand2F (r : RWord) : Except DecodeError Instr :=
  match (r.fn.extractLsb' 0 4).toNat with
  | 0 => .ok (.rgather r.d r.a r.b (r.fn.extractLsb' 4 1))
  | 1 => .ok (.rscat r.d r.a r.b (r.fn.extractLsb' 4 1))
  | 2 => .ok (.rscatadd r.d r.a r.b (r.fn.extractLsb' 4 1))
  | 3 => .ok (.rgstat)
  | _ => .error .reservedFunction

/-- Major 0x30. -/
noncomputable def cand30 (r : RWord) : Except DecodeError Instr :=
  .ok (.br r.d (r.a.extractLsb' 4 3) (r.a.extractLsb' 3 1) ((r.a.extractLsb' 0 3) ++ r.b ++ r.fn))

/-- Major 0x31. -/
noncomputable def cand31 (r : RWord) : Except DecodeError Instr :=
  .ok (.jmp (r.d ++ r.a ++ r.b ++ r.fn))

/-- Major 0x32. -/
noncomputable def cand32 (r : RWord) : Except DecodeError Instr :=
  .ok (.call (r.d ++ r.a ++ r.b ++ r.fn))

/-- Major 0x33. -/
noncomputable def cand33 (r : RWord) : Except DecodeError Instr :=
  match r.fn.toNat with
  | 0 => .ok (.jr r.a)
  | 1 => .ok (.callr r.a)
  | 2 => .ok (.ret)
  | _ => .error .reservedFunction

/-- Major 0x34. -/
noncomputable def cand34 (r : RWord) : Except DecodeError Instr :=
  .ok (.gcall ((r.b.extractLsb' 0 5) ++ r.fn))

/-- Major 0x35. -/
noncomputable def cand35 (r : RWord) : Except DecodeError Instr :=
  match r.fn.toNat with
  | 0 => .ok (.trap r.b)
  | 1 => .ok (.eret)
  | 2 => .ok (.gret)
  | 3 => .ok (.waiti)
  | 4 => .ok (.halt)
  | 5 => .ok (.fence (r.b.extractLsb' 4 3) (r.b.extractLsb' 0 4))
  | 6 => .ok (.win r.a r.b)
  | 7 => .ok (.tlbinv r.a r.b)
  | _ => .error .reservedFunction

/-- Major 0x36. -/
noncomputable def cand36 (r : RWord) : Except DecodeError Instr :=
  match r.fn.toNat with
  | 0 => .ok (.qsend r.d r.a)
  | 1 => .ok (.qrecv r.d r.a)
  | 2 => .ok (.qstat r.d r.a)
  | 3 => .ok (.vqrecv r.d r.a)
  | _ => .error .reservedFunction

/-- Major 0x37. -/
noncomputable def cand37 (r : RWord) : Except DecodeError Instr :=
  match (r.fn.extractLsb' 0 4).toNat with
  | 0 => .ok (.shlst r.d r.a r.b (r.fn.extractLsb' 4 1))
  | 1 => .ok (.kvxlt r.d r.a r.b (r.fn.extractLsb' 4 1))
  | 2 => .ok (.kvcommit r.a r.b)
  | 3 => .ok (.kvroll r.a r.b)
  | 4 => .ok (.kvfork r.a r.b)
  | _ => .error .reservedFunction

/-- Major 0x38. -/
noncomputable def cand38 (r : RWord) : Except DecodeError Instr :=
  match (r.fn.extractLsb' 0 4).toNat with
  | 0 => .ok (.mcst r.d r.a r.b (r.fn.extractLsb' 4 1))
  | 1 => .ok (.coll r.d r.a)
  | 2 => .ok (.cwaitc r.a)
  | _ => .error .reservedFunction

/-- Major 0x39. -/
noncomputable def cand39 (r : RWord) : Except DecodeError Instr :=
  match r.fn.toNat with
  | 0 => .ok (.skbld (r.d.extractLsb' 1 1) (r.d.extractLsb' 0 1) r.a r.b)
  | 1 => .ok (.sksub r.a r.b)
  | 2 => .ok (.skpeel (r.d.extractLsb' 0 1) r.a r.b)
  | 3 => .ok (.skrecon (r.d.extractLsb' 0 1) r.a r.b)
  | 4 => .ok (.skstat r.a)
  | _ => .error .reservedFunction

/-- Major 0x3E. -/
noncomputable def cand3E (r : RWord) : Except DecodeError Instr :=
  .ok (.li (r.d.extractLsb' 1 6) ((r.d.extractLsb' 0 1) ++ r.a ++ r.b ++ r.fn))

/-- Major 0x3F. -/
noncomputable def cand3F (r : RWord) : Except DecodeError Instr :=
  .ok (.lf (r.d.extractLsb' 1 6) ((r.d.extractLsb' 0 1) ++ r.a ++ r.b ++ r.fn))

/-- The instruction that the major opcode and the function code name, with the fields as they stand (R61, R62). -/
noncomputable def candidate (r : RWord) (lit : BitVec 32) : Except DecodeError Instr :=
  match r.op.toNat with
  | 0 => cand00 r
  | 1 => cand01 r
  | 2 => cand02 r
  | 3 => cand03 r
  | 4 => cand04 r
  | 5 => cand05 r
  | 6 => cand06 r
  | 7 => cand07 r
  | 8 => cand08 r
  | 9 => cand09 r
  | 10 => cand0A r
  | 11 => cand0B r
  | 12 => cand0C r
  | 13 => cand0D r
  | 14 => cand0E r
  | 16 => cand10 r lit
  | 17 => cand10 r lit
  | 18 => cand10 r lit
  | 19 => cand10 r lit
  | 20 => cand14 r lit
  | 21 => cand14 r lit
  | 22 => cand14 r lit
  | 23 => cand14 r lit
  | 24 => cand18 r lit
  | 25 => cand18 r lit
  | 26 => cand18 r lit
  | 27 => cand18 r lit
  | 28 => cand1C r lit
  | 29 => cand1C r lit
  | 30 => cand1C r lit
  | 31 => cand1C r lit
  | 32 => cand20 r
  | 33 => cand21 r
  | 34 => cand22 r
  | 35 => cand23 r
  | 36 => cand24 r
  | 37 => cand25 r
  | 38 => cand26 r
  | 39 => cand27 r
  | 40 => cand28 r
  | 41 => cand29 r
  | 42 => cand2A r
  | 43 => cand2B r
  | 44 => cand2C r
  | 45 => cand2D r
  | 46 => cand2E r
  | 47 => cand2F r
  | 48 => cand30 r
  | 49 => cand31 r
  | 50 => cand32 r
  | 51 => cand33 r
  | 52 => cand34 r
  | 53 => cand35 r
  | 54 => cand36 r
  | 55 => cand37 r
  | 56 => cand38 r
  | 57 => cand39 r
  | 62 => cand3E r
  | 63 => cand3F r
  | _ => .error .reservedMajor

/-- Decoding: the candidate, provided that every field is of its class and no unused bit is set (R55, R58, R59). -/
noncomputable def decode (w lit : BitVec 32) : Except DecodeError Instr :=
  match candidate (RWord.ofWord w) lit with
  | .error e => .error e
  | .ok i =>
    if i.encodeR = some (RWord.ofWord w) ∧ i.wf = true then .ok i else .error .badField

/-- The instruction has an encoding, that is, it is no event. -/
def Instr.isEncoded (i : Instr) : Bool := i.encodeR.isSome

/-- The instruction word; zero for an event, which has none. -/
def Instr.word (i : Instr) : BitVec 32 :=
  match i.encodeR with
  | some r => r.toWord
  | none => 0

/-- The words of an instruction: its word, and its literal in a `.vl` form (R49); none for an event. -/
def encode (i : Instr) : List (BitVec 32) :=
  match i.encodeR with
  | none => []
  | some r => if hasLiteral r.toWord then [r.toWord, i.lit] else [r.toWord]

/-- The instruction read from the `nbits` bits `w`, numbered as the opcode table numbers them; the literal's bits, which
the table does not give, are bits 63:32. -/
noncomputable def decodeTableWord (_nbits w : Nat) : Option Instr :=
  match decode (BitVec.ofNat 32 w) (BitVec.ofNat 32 (w / 2 ^ 32)) with
  | .ok i => some i
  | .error _ => none

/-! ## The words of vector-side instructions

ERET checks that each saved word is one (R48); it needs no instruction for that, only the rows' masks and classes. -/

/-- A word of major 0x10 that passes R59 steps 1 to 3. -/
def vecWord10 (w : BitVec 32) : Bool :=
  (w &&& 0xF000000F#32 == 0x40000000#32 && ((w.extractLsb' 26 2) != 3#2 || (w.extractLsb' 5 7) == 0#7)) ||
  (w &&& 0xF000000F#32 == 0x40000001#32 && ((w.extractLsb' 26 2) != 3#2 || (w.extractLsb' 5 7) == 0#7)) ||
  (w &&& 0xF000000F#32 == 0x40000002#32 && ((w.extractLsb' 26 2) != 3#2 || (w.extractLsb' 5 7) == 0#7)) ||
  (w &&& 0xF000000F#32 == 0x40000003#32 && ((w.extractLsb' 26 2) != 3#2 || (w.extractLsb' 5 7) == 0#7)) ||
  (w &&& 0xF000000F#32 == 0x40000004#32 && ((w.extractLsb' 26 2) != 3#2 || (w.extractLsb' 5 7) == 0#7)) ||
  (w &&& 0xF000000F#32 == 0x40000005#32 && ((w.extractLsb' 26 2) != 3#2 || (w.extractLsb' 5 7) == 0#7)) ||
  (w &&& 0xF000000F#32 == 0x40000006#32 && ((w.extractLsb' 26 2) != 3#2 || (w.extractLsb' 5 7) == 0#7)) ||
  (w &&& 0xF000000F#32 == 0x40000007#32 && ((w.extractLsb' 26 2) != 3#2 || (w.extractLsb' 5 7) == 0#7)) ||
  (w &&& 0xF000000F#32 == 0x40000008#32 && ((w.extractLsb' 26 2) != 3#2 || (w.extractLsb' 5 7) == 0#7)) ||
  (w &&& 0xF000000F#32 == 0x40000009#32 && ((w.extractLsb' 26 2) != 3#2 || (w.extractLsb' 5 7) == 0#7)) ||
  (w &&& 0xF000000F#32 == 0x4000000A#32 && ((w.extractLsb' 26 2) != 3#2 || (w.extractLsb' 5 7) == 0#7)) ||
  (w &&& 0xF000000F#32 == 0x4000000B#32 && ((w.extractLsb' 26 2) != 3#2 || (w.extractLsb' 5 7) == 0#7)) ||
  (w &&& 0xF000000F#32 == 0x4000000C#32 && ((w.extractLsb' 26 2) != 3#2 || (w.extractLsb' 5 7) == 0#7)) ||
  (w &&& 0xF000000F#32 == 0x4000000D#32 && ((w.extractLsb' 26 2) != 3#2 || (w.extractLsb' 5 7) == 0#7)) ||
  (w &&& 0xF000000F#32 == 0x4000000E#32 && ((w.extractLsb' 26 2) != 3#2 || (w.extractLsb' 5 7) == 0#7)) ||
  (w &&& 0xF000000F#32 == 0x4000000F#32 && ((w.extractLsb' 26 2) != 3#2 || (w.extractLsb' 5 7) == 0#7))

/-- A word of major 0x14 that passes R59 steps 1 to 3. -/
def vecWord14 (w : BitVec 32) : Bool :=
  (w &&& 0xF000000F#32 == 0x50000000#32 && ((w.extractLsb' 26 2) != 3#2 || (w.extractLsb' 5 7) == 0#7)) ||
  (w &&& 0xF000000F#32 == 0x50000001#32 && ((w.extractLsb' 26 2) != 3#2 || (w.extractLsb' 5 7) == 0#7)) ||
  (w &&& 0xF000000F#32 == 0x50000002#32 && ((w.extractLsb' 26 2) != 3#2 || (w.extractLsb' 5 7) == 0#7)) ||
  (w &&& 0xF000000F#32 == 0x50000003#32 && ((w.extractLsb' 26 2) != 3#2 || (w.extractLsb' 5 7) == 0#7)) ||
  (w &&& 0xF000000F#32 == 0x50000004#32 && ((w.extractLsb' 26 2) != 3#2 || (w.extractLsb' 5 7) == 0#7)) ||
  (w &&& 0xF000000F#32 == 0x50000005#32 && ((w.extractLsb' 26 2) != 3#2 || (w.extractLsb' 5 7) == 0#7)) ||
  (w &&& 0xFC000FEF#32 == 0x50000006#32) ||
  (w &&& 0xFC000FEF#32 == 0x50000007#32) ||
  (w &&& 0xFC000FEF#32 == 0x50000008#32) ||
  (w &&& 0xFC000FEF#32 == 0x50000009#32) ||
  (w &&& 0xFC000FEF#32 == 0x5000000A#32) ||
  (w &&& 0xF000000F#32 == 0x5000000B#32 && ((w.extractLsb' 26 2) != 3#2 || (w.extractLsb' 5 7) == 0#7))

/-- A word of major 0x18 that passes R59 steps 1 to 3. -/
def vecWord18 (w : BitVec 32) : Bool :=
  (w &&& 0xF000000F#32 == 0x60000000#32 && ((w.extractLsb' 26 2) != 3#2 || (w.extractLsb' 5 7) == 0#7)) ||
  (w &&& 0xF000000F#32 == 0x60000001#32 && ((w.extractLsb' 26 2) != 3#2 || (w.extractLsb' 5 7) == 0#7)) ||
  (w &&& 0xF000000F#32 == 0x60000002#32 && ((w.extractLsb' 26 2) != 3#2 || (w.extractLsb' 5 7) == 0#7)) ||
  (w &&& 0xF000000F#32 == 0x60000003#32 && ((w.extractLsb' 26 2) != 3#2 || (w.extractLsb' 5 7) == 0#7)) ||
  (w &&& 0xF000000F#32 == 0x60000004#32 && ((w.extractLsb' 26 2) != 3#2 || (w.extractLsb' 5 7) == 0#7)) ||
  (w &&& 0xF000000F#32 == 0x60000005#32 && ((w.extractLsb' 26 2) != 3#2 || (w.extractLsb' 5 7) == 0#7))

/-- A word of major 0x1C that passes R59 steps 1 to 3. -/
def vecWord1C (w : BitVec 32) : Bool :=
  (w &&& 0xF000000F#32 == 0x70000000#32 && (isPred (w.extractLsb' 19 7)) && ((w.extractLsb' 26 2) != 3#2 || (w.extractLsb' 5 7) == 0#7)) ||
  (w &&& 0xF000000F#32 == 0x70000001#32 && (isPred (w.extractLsb' 19 7)) && ((w.extractLsb' 26 2) != 3#2 || (w.extractLsb' 5 7) == 0#7)) ||
  (w &&& 0xF000000F#32 == 0x70000002#32 && (isPred (w.extractLsb' 19 7)) && ((w.extractLsb' 26 2) != 3#2 || (w.extractLsb' 5 7) == 0#7)) ||
  (w &&& 0xF000000F#32 == 0x70000003#32 && (isPred (w.extractLsb' 19 7)) && ((w.extractLsb' 26 2) != 3#2 || (w.extractLsb' 5 7) == 0#7)) ||
  (w &&& 0xF000000F#32 == 0x70000004#32 && (isPred (w.extractLsb' 19 7)) && ((w.extractLsb' 26 2) != 3#2 || (w.extractLsb' 5 7) == 0#7)) ||
  (w &&& 0xF000000F#32 == 0x70000005#32 && (isPred (w.extractLsb' 19 7)) && ((w.extractLsb' 26 2) != 3#2 || (w.extractLsb' 5 7) == 0#7)) ||
  (w &&& 0xF000000F#32 == 0x70000006#32 && (isPred (w.extractLsb' 19 7)) && ((w.extractLsb' 26 2) != 3#2 || (w.extractLsb' 5 7) == 0#7)) ||
  (w &&& 0xF000000F#32 == 0x70000007#32 && (isPred (w.extractLsb' 19 7)) && ((w.extractLsb' 26 2) != 3#2 || (w.extractLsb' 5 7) == 0#7)) ||
  (w &&& 0xF000000F#32 == 0x70000008#32 && (isPred (w.extractLsb' 19 7)) && ((w.extractLsb' 26 2) != 3#2 || (w.extractLsb' 5 7) == 0#7)) ||
  (w &&& 0xF000000F#32 == 0x70000009#32 && (isPred (w.extractLsb' 19 7)) && ((w.extractLsb' 26 2) != 3#2 || (w.extractLsb' 5 7) == 0#7))

/-- A word of major 0x20 that passes R59 steps 1 to 3. -/
def vecWord20 (w : BitVec 32) : Bool :=
  (w &&& 0xFC000FEF#32 == 0x80000000#32) ||
  (w &&& 0xFC00001F#32 == 0x80000001#32) ||
  (w &&& 0xFC07FFFF#32 == 0x80000002#32) ||
  (w &&& 0xFC00000F#32 == 0x80000003#32) ||
  (w &&& 0xFC00000F#32 == 0x80000004#32) ||
  (w &&& 0xFC000FEF#32 == 0x80000005#32) ||
  (w &&& 0xFC000FFF#32 == 0x80000006#32) ||
  (w &&& 0xFC000FFF#32 == 0x80000007#32) ||
  (w &&& 0xFFF8001F#32 == 0x80000008#32) ||
  (w &&& 0xFC07F00F#32 == 0x80000009#32) ||
  (w &&& 0xFC00000F#32 == 0x8000000A#32) ||
  (w &&& 0xFC00001F#32 == 0x8000000B#32) ||
  (w &&& 0xFC000FFF#32 == 0x8000000C#32)

/-- A word of major 0x21 that passes R59 steps 1 to 3. -/
def vecWord21 (w : BitVec 32) : Bool :=
  (w &&& 0xFC000FCF#32 == 0x84000000#32 && (decide ((w.extractLsb' 5 1) = 0 ∨ (w.extractLsb' 19 7) = 0))) ||
  (w &&& 0xFC000FCF#32 == 0x84000001#32 && (decide ((w.extractLsb' 5 1) = 0 ∨ (w.extractLsb' 19 7) = 0))) ||
  (w &&& 0xFC000FCF#32 == 0x84000002#32 && (decide ((w.extractLsb' 5 1) = 0 ∨ (w.extractLsb' 19 7) = 0))) ||
  (w &&& 0xFC000FCF#32 == 0x84000003#32 && (decide ((w.extractLsb' 5 1) = 0 ∨ (w.extractLsb' 19 7) = 0))) ||
  (w &&& 0xFC000FCF#32 == 0x84000004#32 && (decide ((w.extractLsb' 5 1) = 0 ∨ (w.extractLsb' 19 7) = 0))) ||
  (w &&& 0xFC000FCF#32 == 0x84000005#32 && (decide ((w.extractLsb' 5 1) = 0 ∨ (w.extractLsb' 19 7) = 0))) ||
  (w &&& 0xFC000FEF#32 == 0x84000006#32) ||
  (w &&& 0xFC000FEF#32 == 0x84000007#32) ||
  (w &&& 0xFC00000F#32 == 0x84000008#32 && (isPred (w.extractLsb' 5 7))) ||
  (w &&& 0xFC00000F#32 == 0x84000009#32 && (isPred (w.extractLsb' 5 7)))

/-- A word of major 0x22 that passes R59 steps 1 to 3. -/
def vecWord22 (w : BitVec 32) : Bool :=
  (w &&& 0xFC00006F#32 == 0x88000000#32 && (isEtype (w.extractLsb' 8 4))) ||
  (w &&& 0xFC000FEF#32 == 0x88000001#32 && (isScale (w.extractLsb' 19 7))) ||
  (w &&& 0xFC00000F#32 == 0x88000002#32 && (isScale (w.extractLsb' 5 7))) ||
  (w &&& 0xFC00000F#32 == 0x88000003#32 && (isScale (w.extractLsb' 5 7))) ||
  (w &&& 0xFC000FEF#32 == 0x88000004#32) ||
  (w &&& 0xFC000FCF#32 == 0x88000005#32) ||
  (w &&& 0xFC000FFF#32 == 0x88000006#32 && (isScale (w.extractLsb' 19 7))) ||
  (w &&& 0xFC000FFF#32 == 0x88000007#32 && (isScale (w.extractLsb' 12 7)))

/-- A word of major 0x23 that passes R59 steps 1 to 3. -/
def vecWord23 (w : BitVec 32) : Bool :=
  (w &&& 0xFC000E00#32 == 0x8C000000#32 && (isScalarDest (w.extractLsb' 19 7)) && (isEtype (w.extractLsb' 0 4)))

/-- A word of major 0x24 that passes R59 steps 1 to 3. -/
def vecWord24 (w : BitVec 32) : Bool :=
  (w &&& 0xFC000FEF#32 == 0x90000000#32) ||
  (w &&& 0xFC00000F#32 == 0x90000001#32) ||
  (w &&& 0xFC000FEF#32 == 0x90000002#32) ||
  (w &&& 0xFC00000F#32 == 0x90000003#32) ||
  (w &&& 0xFC00000F#32 == 0x90000004#32) ||
  (w &&& 0xFC00000F#32 == 0x90000005#32) ||
  (w &&& 0xFC000FEF#32 == 0x90000006#32) ||
  (w &&& 0xFC000FEF#32 == 0x90000007#32) ||
  (w &&& 0xFC00000F#32 == 0x90000008#32) ||
  (w &&& 0xFC00000F#32 == 0x90000009#32) ||
  (w &&& 0xFC000FEF#32 == 0x9000000A#32) ||
  (w &&& 0xFC000FEF#32 == 0x9000000B#32)

/-- A word of major 0x25 that passes R59 steps 1 to 3. -/
def vecWord25 (w : BitVec 32) : Bool :=
  (w &&& 0xFC00001F#32 == 0x94000000#32 && (isPred (w.extractLsb' 19 7)) && (isPred (w.extractLsb' 12 7)) && (isPred (w.extractLsb' 5 7))) ||
  (w &&& 0xFC00001F#32 == 0x94000001#32 && (isPred (w.extractLsb' 19 7)) && (isPred (w.extractLsb' 12 7)) && (isPred (w.extractLsb' 5 7))) ||
  (w &&& 0xFC00001F#32 == 0x94000002#32 && (isPred (w.extractLsb' 19 7)) && (isPred (w.extractLsb' 12 7)) && (isPred (w.extractLsb' 5 7))) ||
  (w &&& 0xFC00001F#32 == 0x94000003#32 && (isPred (w.extractLsb' 19 7)) && (isPred (w.extractLsb' 12 7)) && (isPred (w.extractLsb' 5 7))) ||
  (w &&& 0xFC000FFF#32 == 0x94000004#32 && (isPred (w.extractLsb' 19 7)) && (isPred (w.extractLsb' 12 7))) ||
  (w &&& 0xFC07FFFF#32 == 0x94000005#32 && (isPred (w.extractLsb' 19 7))) ||
  (w &&& 0xFC07FFFF#32 == 0x94000006#32 && (isPred (w.extractLsb' 19 7))) ||
  (w &&& 0xFFF80FFF#32 == 0x94000007#32 && (isPred (w.extractLsb' 12 7))) ||
  (w &&& 0xFFF80FFF#32 == 0x94000008#32 && (isPred (w.extractLsb' 12 7))) ||
  (w &&& 0xFFF80FFF#32 == 0x94000009#32 && (isPred (w.extractLsb' 12 7))) ||
  (w &&& 0xFC00001F#32 == 0x9400000A#32 && (isPred (w.extractLsb' 19 7)) && (isPred (w.extractLsb' 12 7)) && (isPred (w.extractLsb' 5 7))) ||
  (w &&& 0xFC000FFF#32 == 0x9400000B#32 && (isPred (w.extractLsb' 19 7))) ||
  (w &&& 0xFC000FFF#32 == 0x9400000C#32 && (isPred (w.extractLsb' 12 7))) ||
  (w &&& 0xFC000FFF#32 == 0x9400000D#32 && (isPred (w.extractLsb' 19 7))) ||
  (w &&& 0xFC000FFF#32 == 0x9400000E#32 && (isPred (w.extractLsb' 19 7)))

/-- A word of major 0x26 that passes R59 steps 1 to 3. -/
def vecWord26 (w : BitVec 32) : Bool :=
  (w &&& 0xFC000E0F#32 == 0x98000000#32 && (decide ((w.extractLsb' 7 2).toNat < 3))) ||
  (w &&& 0xFC00001F#32 == 0x98000001#32) ||
  (w &&& 0xFC00001F#32 == 0x98000002#32) ||
  (w &&& 0xFC00001F#32 == 0x98000003#32) ||
  (w &&& 0xFC000FFF#32 == 0x98000004#32) ||
  (w &&& 0xFC00000F#32 == 0x98000005#32) ||
  (w &&& 0xFC00000F#32 == 0x98000006#32) ||
  (w &&& 0xFC00000F#32 == 0x98000007#32) ||
  (w &&& 0xFFF80F1F#32 == 0x98000008#32 && (decide ((w.extractLsb' 6 2).toNat < 3))) ||
  (w &&& 0xFC00000F#32 == 0x98000009#32) ||
  (w &&& 0xFC00001F#32 == 0x9800000A#32) ||
  (w &&& 0xFC000FFF#32 == 0x9800000B#32) ||
  (w &&& 0xFFF80FFF#32 == 0x9800000C#32) ||
  (w &&& 0xFFF8001F#32 == 0x9800000D#32)

/-- A word of major 0x27 that passes R59 steps 1 to 3. -/
def vecWord27 (w : BitVec 32) : Bool :=
  (w &&& 0xFFF8001F#32 == 0x9C000000#32) ||
  (w &&& 0xFFFFFF9F#32 == 0x9C000001#32) ||
  (w &&& 0xFE00000F#32 == 0x9C000002#32 && (decide ((w.extractLsb' 24 1) = 0 ∨ (w.extractLsb' 12 7).toNat < 32))) ||
  (w &&& 0xFC00000F#32 == 0x9C000003#32 && (isTile (w.extractLsb' 19 7)) && (isPair (w.extractLsb' 12 7)) && (isPair (w.extractLsb' 5 7))) ||
  (w &&& 0xFC07FFFF#32 == 0x9C000004#32 && (isTile (w.extractLsb' 19 7))) ||
  (w &&& 0xFC00001F#32 == 0x9C000005#32 && (isTile (w.extractLsb' 19 7))) ||
  (w &&& 0xFC00001F#32 == 0x9C000006#32 && (isTile (w.extractLsb' 19 7))) ||
  (w &&& 0xFC000E1F#32 == 0x9C000007#32 && (isTile (w.extractLsb' 12 7))) ||
  (w &&& 0xFC00001F#32 == 0x9C000008#32 && (isTile (w.extractLsb' 19 7))) ||
  (w &&& 0xFC00001F#32 == 0x9C000009#32 && (isTile (w.extractLsb' 19 7))) ||
  (w &&& 0xFC000FFF#32 == 0x9C00000A#32 && (isGuard (w.extractLsb' 19 7)) && (isPred (w.extractLsb' 12 7))) ||
  (w &&& 0xFC07F01F#32 == 0x9C00000B#32 && (isGuard (w.extractLsb' 19 7)))

/-- A word of major 0x28 that passes R59 steps 1 to 3. -/
def vecWord28 (w : BitVec 32) : Bool :=
  (w &&& 0xFC00001F#32 == 0xA0000000#32 && (isPred (w.extractLsb' 19 7))) ||
  (w &&& 0xFC00001F#32 == 0xA0000001#32 && (isTile (w.extractLsb' 12 7))) ||
  (w &&& 0xFC000FDF#32 == 0xA0000002#32 && (isTile (w.extractLsb' 19 7)))

/-- A word of major 0x29 that passes R59 steps 1 to 3. -/
def vecWord29 (w : BitVec 32) : Bool :=
  (w &&& 0xFC000FDF#32 == 0xA4000000#32) ||
  (w &&& 0xFFF80FFF#32 == 0xA4000001#32) ||
  (w &&& 0xFFF80FFF#32 == 0xA4000002#32) ||
  (w &&& 0xFFF8001F#32 == 0xA4000003#32) ||
  (w &&& 0xFFF80FFF#32 == 0xA4000004#32)

/-- A word of major 0x2A that passes R59 steps 1 to 3. -/
def vecWord2A (w : BitVec 32) : Bool :=
  (w &&& 0xFC00001F#32 == 0xA8000000#32 && (isPair (w.extractLsb' 5 7))) ||
  (w &&& 0xFC00001F#32 == 0xA8000001#32 && (isPair (w.extractLsb' 5 7))) ||
  (w &&& 0xFFF80FFF#32 == 0xA8000002#32) ||
  (w &&& 0xFFF80FFF#32 == 0xA8000022#32) ||
  (w &&& 0xFFF8001F#32 == 0xA8000003#32) ||
  (w &&& 0xFFF80FFF#32 == 0xA8000004#32) ||
  (w &&& 0xFFF80FFF#32 == 0xA8000005#32) ||
  (w &&& 0xFC00001F#32 == 0xA8000006#32 && (decide ((w.extractLsb' 19 3).toNat < 6)) && (isScope (w.extractLsb' 22 3))) ||
  (w &&& 0xFFF80FFF#32 == 0xA8000007#32)

/-- A word of major 0x2B that passes R59 steps 1 to 3. -/
def vecWord2B (w : BitVec 32) : Bool :=
  (w &&& 0xFC00001F#32 == 0xAC000000#32 && (isScope (w.extractLsb' 22 3)) && (decide ((w.extractLsb' 22 3) = 0 ∨ (w.extractLsb' 21 1) = 1 ∨ (w.extractLsb' 20 1) = 1))) ||
  (w &&& 0xFC00001F#32 == 0xAC000001#32 && (isScope (w.extractLsb' 22 3)) && (decide ((w.extractLsb' 22 3) = 0 ∨ (w.extractLsb' 21 1) = 1 ∨ (w.extractLsb' 20 1) = 1))) ||
  (w &&& 0xFC00001F#32 == 0xAC000002#32 && (isScope (w.extractLsb' 22 3)) && (decide ((w.extractLsb' 22 3) = 0 ∨ (w.extractLsb' 21 1) = 1 ∨ (w.extractLsb' 20 1) = 1))) ||
  (w &&& 0xFC00001F#32 == 0xAC000003#32 && (isScope (w.extractLsb' 22 3)) && (decide ((w.extractLsb' 22 3) = 0 ∨ (w.extractLsb' 21 1) = 1 ∨ (w.extractLsb' 20 1) = 1))) ||
  (w &&& 0xFC00001F#32 == 0xAC000004#32 && (isScope (w.extractLsb' 22 3)) && (decide ((w.extractLsb' 22 3) = 0 ∨ (w.extractLsb' 21 1) = 1 ∨ (w.extractLsb' 20 1) = 1)) && (isPair (w.extractLsb' 5 7))) ||
  (w &&& 0xFC00001F#32 == 0xAC000005#32 && (isScope (w.extractLsb' 22 3)) && (decide ((w.extractLsb' 22 3) = 0 ∨ (w.extractLsb' 21 1) = 1 ∨ (w.extractLsb' 20 1) = 1))) ||
  (w &&& 0xFC00001F#32 == 0xAC000006#32 && (isScope (w.extractLsb' 22 3)) && (decide ((w.extractLsb' 22 3) = 0 ∨ (w.extractLsb' 21 1) = 1 ∨ (w.extractLsb' 20 1) = 1))) ||
  (w &&& 0xFC00001F#32 == 0xAC000007#32 && (isScope (w.extractLsb' 22 3)) && (decide ((w.extractLsb' 22 3) = 0 ∨ (w.extractLsb' 21 1) = 1 ∨ (w.extractLsb' 20 1) = 1)) && (decide ((w.extractLsb' 25 1) = 1))) ||
  (w &&& 0xFC00001F#32 == 0xAC000010#32 && (isScope (w.extractLsb' 22 3)) && (decide ((w.extractLsb' 22 3) = 0 ∨ (w.extractLsb' 21 1) = 1 ∨ (w.extractLsb' 20 1) = 1))) ||
  (w &&& 0xFC00001F#32 == 0xAC000011#32 && (isScope (w.extractLsb' 22 3)) && (decide ((w.extractLsb' 22 3) = 0 ∨ (w.extractLsb' 21 1) = 1 ∨ (w.extractLsb' 20 1) = 1))) ||
  (w &&& 0xFC00001F#32 == 0xAC000012#32 && (isScope (w.extractLsb' 22 3)) && (decide ((w.extractLsb' 22 3) = 0 ∨ (w.extractLsb' 21 1) = 1 ∨ (w.extractLsb' 20 1) = 1))) ||
  (w &&& 0xFC00001F#32 == 0xAC000013#32 && (isScope (w.extractLsb' 22 3)) && (decide ((w.extractLsb' 22 3) = 0 ∨ (w.extractLsb' 21 1) = 1 ∨ (w.extractLsb' 20 1) = 1))) ||
  (w &&& 0xFC00001F#32 == 0xAC000014#32 && (isScope (w.extractLsb' 22 3)) && (decide ((w.extractLsb' 22 3) = 0 ∨ (w.extractLsb' 21 1) = 1 ∨ (w.extractLsb' 20 1) = 1)) && (isPair (w.extractLsb' 5 7))) ||
  (w &&& 0xFC00001F#32 == 0xAC000015#32 && (isScope (w.extractLsb' 22 3)) && (decide ((w.extractLsb' 22 3) = 0 ∨ (w.extractLsb' 21 1) = 1 ∨ (w.extractLsb' 20 1) = 1))) ||
  (w &&& 0xFC00001F#32 == 0xAC000016#32 && (isScope (w.extractLsb' 22 3)) && (decide ((w.extractLsb' 22 3) = 0 ∨ (w.extractLsb' 21 1) = 1 ∨ (w.extractLsb' 20 1) = 1))) ||
  (w &&& 0xFC00001F#32 == 0xAC000017#32 && (isScope (w.extractLsb' 22 3)) && (decide ((w.extractLsb' 22 3) = 0 ∨ (w.extractLsb' 21 1) = 1 ∨ (w.extractLsb' 20 1) = 1)) && (decide ((w.extractLsb' 25 1) = 1)))

/-- A word of major 0x2C that passes R59 steps 1 to 3. -/
def vecWord2C (w : BitVec 32) : Bool :=
  (w &&& 0xFFF80F9F#32 == 0xB0000000#32 && (isPair (w.extractLsb' 12 7))) ||
  (w &&& 0xFFFFFF9F#32 == 0xB0000001#32) ||
  (w &&& 0xFC000F8F#32 == 0xB0000002#32) ||
  (w &&& 0xFC000F8F#32 == 0xB0000003#32) ||
  (w &&& 0xFC000F8F#32 == 0xB0000004#32) ||
  (w &&& 0xFC000C0F#32 == 0xB0000005#32 && (decide ((w.extractLsb' 7 3).toNat < 7))) ||
  (w &&& 0xFC07FF9F#32 == 0xB0000006#32) ||
  (w &&& 0xFFFFFF9F#32 == 0xB0000007#32) ||
  (w &&& 0xFFFFFF9F#32 == 0xB0000008#32) ||
  (w &&& 0xFFFFFF9F#32 == 0xB0000009#32)

/-- A word of major 0x2D that passes R59 steps 1 to 3. -/
def vecWord2D (w : BitVec 32) : Bool :=
  (w &&& 0xFFFFFC1F#32 == 0xB4000000#32) ||
  (w &&& 0xFFFFFC1F#32 == 0xB4000001#32) ||
  (w &&& 0xFFFFFC1F#32 == 0xB4000002#32) ||
  (w &&& 0xFFEFFC1F#32 == 0xB4000003#32) ||
  (w &&& 0xFFD80C1F#32 == 0xB4000004#32) ||
  (w &&& 0xFC000C0F#32 == 0xB4000005#32 && (decide ((w.extractLsb' 5 3).toNat < 7)) && (decide (¬ ((w.extractLsb' 9 1) = 1 ∧ (w.extractLsb' 8 1) = 1)))) ||
  (w &&& 0xFFF8001F#32 == 0xB4000006#32 && (isBarScope (w.extractLsb' 9 3)) && (isPred (w.extractLsb' 12 7))) ||
  (w &&& 0xFFFFF01F#32 == 0xB4000007#32 && (isBarScope (w.extractLsb' 9 3))) ||
  (w &&& 0xFFF8001F#32 == 0xB4000008#32 && (isBarScope (w.extractLsb' 9 3))) ||
  (w &&& 0xFFF8001F#32 == 0xB4080008#32 && (isBarScope (w.extractLsb' 9 3)))

/-- A word of major 0x2E that passes R59 steps 1 to 3. -/
def vecWord2E (w : BitVec 32) : Bool :=
  (w &&& 0xFFF80FFF#32 == 0xB8000000#32) ||
  (w &&& 0xFFF80FFF#32 == 0xB8000001#32) ||
  (w &&& 0xFFF80FFF#32 == 0xB8000002#32) ||
  (w &&& 0xFFF80FFF#32 == 0xB8000022#32) ||
  (w &&& 0xFFFFFFFF#32 == 0xB8000003#32) ||
  (w &&& 0xFC00081F#32 == 0xB8000004#32) ||
  (w &&& 0xFC000C1F#32 == 0xB8000005#32) ||
  (w &&& 0xFFFFFFFF#32 == 0xB8000006#32) ||
  (w &&& 0xFFFFFF1F#32 == 0xB8000007#32 && (decide ((w.extractLsb' 5 3).toNat < 6))) ||
  (w &&& 0xFFF0001F#32 == 0xB8000008#32) ||
  (w &&& 0xFFF0001F#32 == 0xB8000009#32)

/-- A word of major 0x2F that passes R59 steps 1 to 3. -/
def vecWord2F (w : BitVec 32) : Bool :=
  (w &&& 0xFC00000F#32 == 0xBC000000#32 && (isPair (w.extractLsb' 5 7))) ||
  (w &&& 0xFC00000F#32 == 0xBC000001#32 && (isPair (w.extractLsb' 5 7))) ||
  (w &&& 0xFC00000F#32 == 0xBC000002#32 && (isPair (w.extractLsb' 5 7))) ||
  (w &&& 0xFFFFFFFF#32 == 0xBC000003#32)

/-- A word of major 0x36 that passes R59 steps 1 to 3. -/
def vecWord36 (w : BitVec 32) : Bool :=
  (w &&& 0xFC000FFF#32 == 0xD8000003#32 && (decide ((w.extractLsb' 12 7).toNat < 4)))

/-- A word of major 0x37 that passes R59 steps 1 to 3. -/
def vecWord37 (w : BitVec 32) : Bool :=
  (w &&& 0xFC00000F#32 == 0xDC000000#32 && (isPair (w.extractLsb' 12 7)) && (isPair (w.extractLsb' 5 7))) ||
  (w &&& 0xFC00000F#32 == 0xDC000001#32 && (isPair (w.extractLsb' 5 7))) ||
  (w &&& 0xFFF8001F#32 == 0xDC000002#32 && (isPair (w.extractLsb' 12 7))) ||
  (w &&& 0xFFF8001F#32 == 0xDC000003#32 && (isPair (w.extractLsb' 12 7))) ||
  (w &&& 0xFFF8001F#32 == 0xDC000004#32 && (isPair (w.extractLsb' 12 7)))

/-- A word of major 0x38 that passes R59 steps 1 to 3. -/
def vecWord38 (w : BitVec 32) : Bool :=
  (w &&& 0xFC00000F#32 == 0xE0000000#32) ||
  (w &&& 0xFC000FFF#32 == 0xE0000001#32 && (isPair (w.extractLsb' 12 7))) ||
  (w &&& 0xFFF80FFF#32 == 0xE0000002#32)

/-- A word of major 0x39 that passes R59 steps 1 to 3. -/
def vecWord39 (w : BitVec 32) : Bool :=
  (w &&& 0xFFE0001F#32 == 0xE4000000#32 && (isPair (w.extractLsb' 12 7))) ||
  (w &&& 0xFFF8001F#32 == 0xE4000001#32) ||
  (w &&& 0xFFF0001F#32 == 0xE4000002#32 && (isPair (w.extractLsb' 12 7))) ||
  (w &&& 0xFFF0001F#32 == 0xE4000003#32 && (isPair (w.extractLsb' 12 7))) ||
  (w &&& 0xFFF80FFF#32 == 0xE4000004#32)

/-- The word of a vector-side instruction that passes R59 steps 1 to 3 (R48, R61). -/
def isVectorWord (w : BitVec 32) : Bool :=
  vecWord10 w || vecWord14 w || vecWord18 w || vecWord1C w || vecWord20 w || vecWord21 w || vecWord22 w || vecWord23 w || vecWord24 w || vecWord25 w || vecWord26 w || vecWord27 w || vecWord28 w || vecWord29 w || vecWord2A w || vecWord2B w || vecWord2C w || vecWord2D w || vecWord2E w || vecWord2F w || vecWord36 w || vecWord37 w || vecWord38 w || vecWord39 w

/-- The vector-side words that are privileged encodings: VMTO and TEXIT.ABORT (R60, R288). -/
def isPrivilegedVectorWord (w : BitVec 32) : Bool :=
  (w &&& 0xFC00000F#32 == 0x9800000D#32) || (w &&& 0xFC00002F#32 == 0xB8000022#32)

end Sys2Proof
end

