-- ==== Sys2Proof/Config.lean ====
section
/-! DEFINITION. What the manual leaves open: the free values, each an opaque constant that no proof can evaluate, and the
sizes that the ordering code fixes. -/

namespace Sys2Proof.Config

/-- The value a free choice takes, by the number of the choice: State counts the choices made (log 12). -/
opaque freeWord : Nat → BitVec 64

/-- A byte of a strip that its stream does not reach, by the binding's record, its position and the place in the strip (R195,
log 12). -/
opaque stripRest : List (BitVec 32) → Nat → Nat → BitVec 8

/-- The stack of a die that holds a byte of its HBM, by the byte's address: the spread is not architectural (R313, log 121). -/
opaque stackOf : Nat → Nat

/-- The syndrome and the unit kind of an error record, by the number of the event (R331, log 14). -/
opaque syndrome : Nat → BitVec 64
opaque unitKind : Nat → BitVec 8

/-- The firmware version that CPVER shows (R361, log 15). -/
opaque firmwareVersion : BitVec 16

/-- The bring-up error code of a failed step (R370, log 15). -/
opaque bringUpError : BitVec 3 → BitVec 16

/-- The response of the root of trust to an SPDM request, by the number of the request (R369, log 16). -/
opaque spdmResponse : Nat → BitVec 64

/-- A graph image as the command processor reads it, by its address and the number of the load: the numbers of its stages and
queues; the manual does not give the image's format (R303, log 23). -/
opaque graphImage : BitVec 64 → Nat → List Nat

/-- The KV tables of a request, each with the token it is rolled back to and its number of pages, by the number of the choice (R366,
log 66). -/
opaque requestTables : BitVec 16 → Nat → List (Nat × Nat × Nat)

/-- Cores of a die, cores of a quad, harts of a core (R265, scope table). -/
def coresPerDie : Nat := 48
def coresPerQuad : Nat := 4
def hartsPerCore : Nat := 4

/-- HBM of a die in 256 MiB units (R314). -/
def memUnits : Nat := 894

end Sys2Proof.Config
end

