-- ==== Sys2Proof/Machine/Sparse.lean ====
section
/-! DEFINITION. Sparse maps: a list of key and value pairs, keys strictly rising, with no entry equal to the value that
an unlisted key reads as.  In that form equal maps are equal lists.  Memory, register files and the units of the pod are
kept this way. -/

namespace Sys2Proof.Machine

/-- A map from Nat with finitely many keys whose value is not the default. -/
abbrev Sparse (α : Type) := List (Nat × α)

/-- The value at key `n`, `dflt` where the map lists none. -/
def sparseGet {α : Type} (dflt : α) : Sparse α → Nat → α
  | [], _ => dflt
  | (k, v) :: m, n => if k = n then v else sparseGet dflt m n

/-- Insert a pair at its place in rising key order. -/
def sparseInsert {α : Type} (n : Nat) (v : α) : Sparse α → Sparse α
  | [] => [(n, v)]
  | (k, x) :: m => if n < k then (n, v) :: (k, x) :: m else (k, x) :: sparseInsert n v m

/-- Remove every entry at a key. -/
def sparseErase {α : Type} (n : Nat) : Sparse α → Sparse α
  | [] => []
  | (k, x) :: m => if k = n then sparseErase n m else (k, x) :: sparseErase n m

/-- Write `v` at key `n`; writing the default removes the entry. -/
def sparsePut {α : Type} [DecidableEq α] (dflt : α) (m : Sparse α) (n : Nat) (v : α) : Sparse α :=
  if v = dflt then sparseErase n m else sparseInsert n v (sparseErase n m)

/-- The canonical form: keys strictly rising and no entry equal to the default. -/
def sparseWf {α : Type} [DecidableEq α] (dflt : α) : Sparse α → Bool
  | [] => true
  | (k, v) :: m => decide (v ≠ dflt) && m.all (fun p => decide (k < p.1)) && sparseWf dflt m

/-- Write the bytes of a list at successive keys. -/
def sparsePutList {α : Type} [DecidableEq α] (dflt : α) (m : Sparse α) (n : Nat) : List α → Sparse α
  | [] => m
  | v :: vs => sparsePutList dflt (sparsePut dflt m n v) (n + 1) vs

/-- The values at `c` successive keys from `n`. -/
def sparseGetList {α : Type} (dflt : α) (m : Sparse α) (n : Nat) : Nat → List α
  | 0 => []
  | c + 1 => sparseGet dflt m n :: sparseGetList dflt m (n + 1) c

end Sys2Proof.Machine
end

