-- ==== Sys2Proof/Machine/State.lean ====
section
/-! DEFINITION. The state of the machine: every piece of architectural state the manual gives a hart, a core, a quad, a
die, a package and the pod, as plain data, and the state after reset.  One hart is in focus: `State.hart` is its state,
`State.others` holds the other harts, and which agent takes the next step is data too (`agenda`, `parked`). -/

namespace Sys2Proof.Machine

/-- The causes of R414. -/
inductive Cause where
  | ill | priv | winf | align | xlate | prot | ordns | ordmm | rse | gate | budget | engf | keyf | strf | matf | trap
  | peel | mce | timer | host | cancel
deriving DecidableEq, Repr

/-- The vector configuration registers (R42), FRM (R77) and MMODE (R218): what an entry captures at dispatch (R25, R47). -/
structure VConf where
  vl : BitVec 14
  rc : BitVec 6
  etype : BitVec 4
  psel : BitVec 5
  gsel : BitVec 4
  vwb : BitVec 7
  estart : BitVec 18
  maskmode : BitVec 1
  frm : BitVec 3
  mmode : BitVec 2
deriving DecidableEq, Repr

/-- An entry of the vector queue: what R47 saves, the address of its instruction (R201), and whether its execution has
begun (it is then blocked at its ESTART, R45). -/
structure Entry where
  word : BitVec 32
  lit : BitVec 32
  a0 : Word
  a1 : Word
  b0 : Word
  b1 : Word
  cfg : VConf
  pc : Word
  begun : Bool
deriving DecidableEq, Repr

/-- An entry of the return store (R37). -/
structure Frame where
  ret : Word
  gate : Bool
  oldPriv : BitVec 2
  oldMm : BitVec 1
deriving DecidableEq, Repr

/-- A fault recorded against an element of a stream or a transfer: the element, the cause and the address. -/
structure ElemFault where
  idx : Nat
  cause : Cause
  addr : Word
deriving DecidableEq, Repr

/-- A stream binding (R194, R234): the bound row, the sixteen words of its record, the direction, the position, the last
key (R175), the elements an input buffer holds from the position on, the appended elements that an output buffer still
holds, the recorded fault, and whether its buffer holds an uncorrectable error (R212). -/
structure Stream where
  row : BitVec 7
  record : List (BitVec 32)
  out : Bool
  pos : Nat
  lastKey : Option (BitVec 32)
  buffer : List (BitVec 32)
  fault : Option ElemFault
  bad : Bool
deriving DecidableEq, Repr

/-- A barrier token of a hart (R271): scope, number, instance and the generation of the last arrival. -/
structure Token where
  scope : BitVec 3
  number : BitVec 4
  inst : Nat
  gen : BitVec 32
deriving DecidableEq, Repr

/-- What a hart is doing: no task, running, stopped by HALT (R120), or draining its vector queue before it stops or is
suspended (R120, R295). -/
inductive Phase where
  | idle
  | running
  | halted
  | halting
  | suspending
deriving DecidableEq, Repr

/-- Program counter and the two queued addresses with their annul bits (R20); NBF and NAF say that NB or NA is not yet
formed (R52, R122); `waiting` says that the WAITI at PC has begun to wait (R120). -/
structure Fetch where
  pc : Word
  na : Word
  nb : Word
  apc : Bool
  ana : Bool
  nbf : Bool
  naf : Bool
  waiting : Bool
deriving DecidableEq, Repr

/-- The vector-side registers of a hart (R20): rows by byte, order words (R157), dirty bits and high-water marks (R38) by
row, predicates, tiles by element, guards, scale entries (R75), bindings by slot, and the generator G (R79). `strips` and
`outs` are the model's own: the strips that the executing entry reads from its input streams, by byte, and what it writes to its
output streams, by four bits; both are empty between entries. `badRows` and `badTiles` mark bytes of rows and elements of tiles that
hold an uncorrectable error (R212). -/
structure VecRegs where
  rows : Sparse Byte
  order : Sparse (BitVec 32)
  dirty : Sparse Bool
  high : Sparse Nat
  preds : Sparse (BitVec 1024)
  tiles : Sparse (BitVec 32)
  guards : Sparse Bool
  scales : Sparse (BitVec 16)
  streams : Sparse (Option Stream)
  gen : BitVec 32
  strips : Sparse (Option Byte)
  outs : Sparse (Option Nat)
  badRows : List Nat
  badTiles : List Nat
deriving DecidableEq, Repr

/-- The other unprivileged system registers of a hart (R42, R78, R79, R110, R213, R398) and the launch allotment. -/
structure SysRegs where
  swb : BitVec 8
  kbase : BitVec 9
  laneMap : BitVec 8
  laneMin : BitVec 4
  lanePref : BitVec 4
  rowsN : BitVec 8
  window : BitVec 8
  tilesN : BitVec 6
  mshp : Word
  mfmt : Word
  mgen : Word
  mgpos : Word
  skm : Word
  skmmax : Word
  skrmax : Word
  fflags : BitVec 6
  srseed : BitVec 32
  reseed : Bool
  rascnt : BitVec 32
  rasspill : Word
deriving DecidableEq, Repr

/-- The privileged registers of a hart (R43, R46, R47, R111, R122, R123, R413). -/
structure TrapRegs where
  priv : BitVec 2
  ie : BitVec 1
  ppriv : BitVec 2
  pie : BitVec 1
  xpc : Word
  xna : Word
  xnb : Word
  xflags : BitVec 4
  cause : BitVec 9
  xval : Word
  xvq : Word
  tvec : Word
  gatebase : Word
  gatecnt : BitVec 11
  savearea : Word
  ipend : BitVec 4
  imask : BitVec 4
  tcmpTime : BitVec 63
  tcmpEn : BitVec 1
deriving DecidableEq, Repr

/-- A task descriptor (R279). -/
structure Descriptor where
  entry : Word
  arg : Word
  ctx : Word
  stat : Word
  budget : BitVec 48
  btrap : Bool
  lmin : BitVec 4
  lpref : BitVec 4
  rowsN : BitVec 8
  window : BitVec 7
  tilesN : BitVec 6
  prio : BitVec 2
  stv : Bool
  stg : BitVec 4
  waitEv : BitVec 12
  waitV : Bool
  part : BitVec 30
  doneEv : BitVec 12
  doneV : Bool
  req : BitVec 16
  kimg : Word
  kcnt : BitVec 10
deriving DecidableEq, Repr

/-- The task a hart holds (R279, R285, R291, R298): its id, its descriptor, the class it was selected in, whether a CHECK
node launched it (R366), whether VREL has been dispatched and whether it has executed (R35), the remaining budget, whether it has none,
the value the count started from, whether the count has stopped at 0, the cycles the task has held a hart, the time up to which both
are counted, the time of its dispatch and the barrier tokens. -/
structure Task where
  id : BitVec 32
  desc : Descriptor
  cls : BitVec 2
  check : Bool
  vrel : Bool
  released : Bool
  budgetRem : BitVec 48
  budgetOff : Bool
  budgetFrom : BitVec 48
  budgetOut : Bool
  held : Word
  seen : Nat
  dispatched : Nat
  tokens : List Token
deriving DecidableEq, Repr

/-- The state of one hart. `pendEngf` and `pendMce` are taken at the next vector-instruction boundary (R201, R327); `gathered`
is its last gather command (R328), `colls` the statuses of its collectives (R384), both of the task it holds (R21, log 90);
`unanswered` names a package that does not answer an access of it under way (R395); `stalled` says that its blocked entry waits for
accesses under way or an engine, and for nothing that R295 names. -/
structure Hart where
  phase : Phase
  fetch : Fetch
  sregs : Sparse Word
  kbank : Sparse Word
  cfg : VConf
  vec : VecRegs
  queues : Sparse (List Word)
  vq : List Entry
  ras : List Frame
  sys : SysRegs
  trap : TrapRegs
  task : Task
  pendEngf : List Word
  pendMce : List Word
  gathered : Word
  colls : List (BitVec 16 × Option (BitVec 8))
  unanswered : Option (BitVec 6)
  stalled : Bool
deriving DecidableEq, Repr

/-- A copy transfer's or a page-in's completion (R241): kind, scope, value and address. -/
structure Completion where
  kind : BitVec 2
  scope : BitVec 3
  value : BitVec 32
  addr : Word
deriving DecidableEq, Repr

/-- The state of a copy channel (R246). -/
inductive ChanState where
  | idle | running | faulted | holding
deriving DecidableEq, Repr

/-- A copy channel (R198, R242–R246): the owning hart, the records, the patch list of a COPYG, the completion, the next
element, the fault, one more than the status of a record that a full ring keeps back (0: none), the address of the
instruction, the privilege it was issued at, and whether its task has been aborted (R300). -/
structure Channel where
  st : ChanState
  owner : BitVec 2
  src : List (BitVec 32)
  dst : List (BitVec 32)
  patches : Option (List (BitVec 32))
  comp : Completion
  k : Nat
  fault : Option ElemFault
  held : BitVec 32
  pc : Word
  priv : BitVec 2
  orphan : Bool
deriving DecidableEq, Repr

/-- An entry of the interlock table (R199): the hart, the channel or collective that holds it, and the two 4 KiB-granule
ranges with their spaces (true: scratchpad). -/
structure Interlock where
  hart : Nat
  coll : Bool
  unit : Nat
  srcSp : Bool
  srcLo : Nat
  srcHi : Nat
  dstSp : Bool
  dstLo : Nat
  dstHi : Nat
deriving DecidableEq, Repr

/-- A keyed region's handle (R204): b, key type, area, spill area, sealed, failed, and the drain cursor (the last key
delivered). -/
structure Keyed where
  bits : Nat
  keyType : BitVec 2
  base : Nat
  spillBase : Word
  spillCount : BitVec 32
  spillCap : BitVec 32
  sealed : Bool
  failed : Bool
  cursor : Option (BitVec 32)
deriving DecidableEq, Repr

/-- The entry covers some granule; one that does not only keeps its place in the order of issue (R199). -/
def Interlock.live (k : Interlock) : Bool := k.srcLo ≤ k.srcHi || k.dstLo ≤ k.dstHi

/-- A barrier (R271). -/
structure Barrier where
  target : BitVec 32
  count : BitVec 32
  gen : BitVec 32
deriving DecidableEq, Repr

/-- A semaphore: its bit and the harts that wait, oldest first (R265). -/
structure Sem where
  bit : Bool
  waiters : List Nat
deriving DecidableEq, Repr

/-- A queued task (R281, R285): its id, descriptor, class, the times since when it waits in the class and without a
placement, whether a CHECK node launched it, and, for a suspended task, the area its context lies in with the cycles it
has held a hart, the value its budget counts from, whether its count has ended (R299), and what R296 does not carry: the elements
that a faulted output stream keeps (R239), by slot, and the errors (R327) and the engine faults (R201) still to be raised. -/
structure Queued where
  id : BitVec 32
  desc : Descriptor
  cls : BitVec 2
  since : Nat
  unplaced : Nat
  check : Bool
  resumed : Bool
  area : Word
  held : Word
  budgetFrom : BitVec 48
  budgetOut : Bool
  kept : List (Nat × List (BitVec 32))
  pendMce : List Word
  pendEngf : List Word
deriving DecidableEq, Repr

/-- The state of one core: partition word, scratchpad bytes and poison marks, channels, interlock table, keyed regions,
barriers, task queue, fencing (R212), repartition in progress (R190), banks in retention (R329), and the instruction words that its
cache holds apart from memory, by physical address, with whether a fetch finds them there (R53, log 9). -/
structure Core where
  part : Word
  sp : Sparse Byte
  spPoison : List Nat
  chans : Sparse Channel
  locks : List Interlock
  keyed : Sparse (Option Keyed)
  barriers : Sparse Barrier
  queue : List Queued
  fenced : Bool
  moving : Option (BitVec 30)
  retained : List Nat
  code : Sparse (Option (BitVec 32 × Bool))
deriving DecidableEq, Repr

/-- The state of one quad: communication file with the words that carry an uncorrectable error, and among them those that no write mends,
barriers and task queue (R265, R271, R281, R330). -/
structure Quad where
  sems : Sparse Sem
  words : Sparse Word
  badWords : List Nat
  barriers : Sparse Barrier
  queue : List Queued
  semFenced : Bool
  deadWords : List Nat
deriving DecidableEq, Repr

/-- A cached translation (R316–R321): virtual page and size, physical page and the leaf's bits, and whether it holds an uncorrectable
error (R330). -/
structure Tlb where
  page : Nat
  big : Bool
  leaf : Word
  bad : Bool
deriving DecidableEq, Repr

/-- A stage of the loaded graph (R302, R303): template, minimum, and the queues' state is in `StageQueue`. -/
structure Stage where
  desc : Descriptor
  min : Nat
deriving DecidableEq, Repr

/-- A stage queue (R304): ends, log2 depth, record size, end-of-stream pushes still needed, the records, and the numbers, from the
oldest on, of those that hold an uncorrectable error (R330). -/
structure StageQueue where
  src : BitVec 4
  dst : BitVec 4
  ldepth : Nat
  rsize : Nat
  eosLeft : BitVec 4
  records : List (List Byte)
  samples : Nat
  sum : Nat
  marks : List Nat
deriving DecidableEq, Repr

/-- A slot of the shortlist filter (R358, R359): the holding task, the ring with the core it lies in, the running maximum and sum, the
list, and whether a NaN was seen; `ready` holds a record that a full ring keeps back (R360). -/
structure Slot where
  owner : BitVec 32
  ring : Word
  ringCore : Nat
  m : BitVec 32
  s : BitVec 32
  list : List (BitVec 32 × BitVec 32)
  nan : Bool
  ready : Bool
deriving DecidableEq, Repr

/-- The state of one die: task queues and backing store (R281), wait list and event counters (R286), sequence number,
translation (R316), Cinch (R308–R311), stage graph, retention, log and readback registers (R329–R332), the records logged at
the latest time-stamp with their sources (R331), barriers (R312), the shortlist filter, the counters still to be decremented for
aborted tasks, each with the hart whose transfers the release waits for (R291, R300), and the units with a lasting fault, by their
source numbers (R212, R331), and the stage queues among them, by their own. -/
structure Die where
  queue : List Queued
  store : List Queued
  waiting : List Queued
  events : Sparse (BitVec 32)
  seq : BitVec 30
  ptEn : BitVec 1
  ptRoot : BitVec 36
  tlb : List Tlb
  dqbase : Word
  dqcap : BitVec 21
  cinchIvl : BitVec 5
  cinchEn : BitVec 1
  cinchLow : BitVec 4
  cinchHigh : BitVec 4
  cinchLast : Word
  cinchTime : Nat
  stages : List Stage
  squeues : List StageQueue
  stageOf : Sparse (Option (BitVec 4))
  retEn : BitVec 1
  retIdl : BitVec 5
  elbase : Word
  elcnt : Word
  rbsel : Word
  logTime : Nat
  logNow : List (Nat × List Byte)
  barriers : Sparse Barrier
  slots : Sparse (Option Slot)
  retained : List Nat
  owed : List (Nat × BitVec 12)
  fenced : List Nat
  fencedQueues : List Nat
deriving DecidableEq, Repr

/-- A Rein link (R373, R374): state, package at the far side, replays; the receiver's next sequence number, whether it has sent a
NAK, and the flits delivered; the sender's next sequence number, its replay buffer, oldest first, the flit that the last NAK
named and how often that flit has been replayed; and the switch at its end. -/
structure Link where
  st : BitVec 2
  peer : BitVec 6
  replays : BitVec 32
  seq : BitVec 12
  naked : Bool
  inbox : List Flit
  sendSeq : BitVec 12
  sent : List Flit
  named : BitVec 12
  tries : BitVec 4
  switch : BitVec 6
deriving DecidableEq, Repr

/-- A record that a KVXLT posted for a block with a page-in in flight (R391). -/
structure Miss where
  page : BitVec 32
  ring : Word
  ringCore : Nat
  local' : Word
  asker : Nat
deriving DecidableEq, Repr

/-- A page-in that the owner's copy engine runs (R391): the block, the frame popped for it, the hart whose access it is (R394), the
misses in the order they were posted, the releases that wait for it (R387), and, once the copy has ended, the kind and the value
of the records still to be sent. -/
structure PageIn where
  block : Word
  frame : Option Word
  issuer : Nat
  misses : List Miss
  releases : Nat
  ended : Option (Nat × Word)
deriving DecidableEq, Repr

/-- A collective in the package's engine (R380–R384): the member's record, the issuing hart with its privilege, completion, id,
the address of the COLL instruction, and the status of a completion record that a full ring keeps back. -/
structure Collective where
  id : BitVec 16
  hart : Nat
  record : List (BitVec 32)
  comp : Completion
  pc : Word
  priv : BitVec 2
  held : Option (BitVec 8)
deriving DecidableEq, Repr

/-- The replay the command processor runs (R364): harness, node address, parameter block, the requests it has named, those
whose nodes it skips (R366), the words of the node in hand once it has started, followed by the descriptor of a LAUNCH, and how much
of that node is done. -/
structure Replay where
  harness : BitVec 8
  node : Word
  param : Word
  nparm : BitVec 12
  named : List (BitVec 16)
  skip : List (BitVec 16)
  inHand : List Word
  done : Nat
deriving DecidableEq, Repr

/-- The phases of an SPDM session that bind a responder: nothing agreed, version, capabilities, algorithms (R369). -/
inductive Spdm where
  | start | version | capabilities | algorithms
deriving DecidableEq, Repr

/-- The ordering code's size: four compute dies or two (R1). -/
inductive Part where
  | dz4 | dz2
deriving DecidableEq, Repr

/-- The dies of a part, numbered from 0 (R1). -/
def Part.dies : Part → Nat
  | .dz4 => 4
  | .dz2 => 2

/-- The response to the last host request: the bytes read, and whether it completed with Unsupported Request (R361, R368). -/
structure HostReply where
  data : List Byte
  unsupported : Bool
deriving DecidableEq, Repr

/-- The state of one package: ordering code, the bytes of CXL memory that the tier exposes behind each port (R315), part size, KV tables
(R386, R405), Rein links and reachability (R374, R375), control window (R361), command processor with the queued replays and the
requests whose nodes each skips, MSI vectors raised, page-ins, collectives, barriers (R357), the response to the host, the fused
rollback counter (R369), the SPDM session with its last response, bring-up, and the arithmetic clock: its rate, the cycles it had
counted at a time, and that time (R356, R371). -/
structure Pkg where
  part : Part
  cxl : Sparse Nat
  kv2base : Word
  kv2count : BitVec 48
  kv2bs : BitVec 6
  kvhstk : Word
  kvcstk : Word
  skctab : Word
  reinsel : BitVec 6
  links : Sparse Link
  podmap : BitVec 64
  memsz : BitVec 10
  htbase : Word
  rqbase : Word
  h2die : BitVec 2
  h2qtr : BitVec 2
  ready : Bool
  boot : BitVec 16
  err : Bool
  replays : List (BitVec 8 × List (BitVec 16))
  replay : Option Replay
  msi : List (BitVec 11)
  pageIns : List PageIn
  colls : List Collective
  collSeq : BitVec 16
  barriers : Sparse Barrier
  reply : Option HostReply
  fuse : BitVec 32
  spdm : Spdm
  spdmOut : Word
  configRetries : Nat
  mhz : Nat
  clkBase : Nat
  clkTime : Nat
  tscSkew : Int
deriving DecidableEq, Repr

/-- What an error-correcting code protects (R212, R330): memory or the L2 that holds it, with the source of R331 that detects the error, a
pool with its keyed buckets, a row, a tile element or a stream buffer of a hart, a word of a quad's file, a core's bank units, a quad's
semaphores, a Rein link, a record of a stage queue in a die's SRAM, the cached translation of a virtual address, or another unit of a
die. -/
inductive Spot where
  | mem (addr source : Nat)
  | pool (core off : Nat)
  | row (hart byte : Nat)
  | tile (hart elem : Nat)
  | stream (hart slot : Nat)
  | word (quad n : Nat)
  | unit (core : Nat)
  | sems (quad : Nat)
  | link (pkg n : Nat)
  | stage (die queue record : Nat)
  | tlb (die va : Nat)
  | other (die source : Nat)
deriving DecidableEq, Repr

/-- Who acts in a relaxed turn of a hart: its scalar agent, its vector agent with the oldest entry, or its vector agent in an engine that an
event names (R334). -/
inductive Actor where
  | scalar
  | vector
  | engine (i : Instr)
deriving DecidableEq, Repr

/-- A turn that the agenda gives: a step of a hart, a turn of a hart's vector unit, a relaxed turn of one of its agents, which does not see
the stores that the other agent hides from it, whose own stores may stay hidden, and whose stores to what it does not see may come before
the unseen ones in coherence order (R344), a step of a hart whose scalar agent reads in a granule what its vector agent stores to it in
the turns after (R344), a store by its place in the list of those that one agent of the hart in focus does not see yet and now comes to see, an instruction word that
a core's cache comes to hold, gives up, or finds or does not find at a fetch (R53), the passing of cycles, an event of the opcode table,
an error of a class (R330), a flit that a package sends (R373), and a host read of the control window (R361). -/
inductive Turn where
  | hart (id : Nat)
  | vector (id : Nat)
  | relaxed (id : Nat) (actor : Actor) (hide under : Bool)
  | foresee (id granule : Nat) (bytes : List Byte) (turns : List Actor)
  | reveal (vector : Bool) (n : Nat)
  | code (core addr : Nat) (hit : Option Bool)
  | cycles (n : Nat)
  | event (i : Instr)
  | upset (cls : BitVec 2) (spot : Spot)
  | flit (pkg : Nat) (link : BitVec 6) (vc : BitVec 8) (dest : BitVec 6) (kind : BitVec 8) (payload : BitVec 1824)
  | hostRead (pkg : Nat) (off size : Nat)
deriving DecidableEq, Repr

/-- A store that an agent may still not see (R344): where it went, the bytes of it that the agent does not see, each with its value before
and after the store in coherence order, and whether an atomic made it. Of a store that a fence orders (R338) `blind` says which entries may
still not see it, in the vector queue and in the queues that traps have saved since, oldest first, and `late` lists the engine units
that began work after the fence; without a fence every entry and unit may not see it. `frees` lists the engine units whose completion makes
it seen (R340). An engine unit is a channel, a stream slot, the block of a page-in or a collective: its kind and its number. -/
structure Stale where
  addr : Nat
  size : Nat
  cells : List (Nat × Byte × Byte)
  atomic : Bool
  blind : Option (List (List Bool))
  late : List (Nat × Nat)
  frees : List (Nat × Nat)
deriving DecidableEq, Repr

/-- The stores made in a relaxed turn, in order: those of the agent, and those that are no agent's, such as the entries that a trap saves
(R45). -/
structure Stores where
  agent : List (Nat × List Byte)
  rest : List (Nat × List Byte)
deriving DecidableEq, Repr

/-- The whole pod with one hart in focus. A hart's number is PKGNUM·768 + DIENUM·192 + CORENUM·4 + HARTID. `time` counts
half nanoseconds (2 GHz cycles), so TSC is half of it (R356). `freeCount` counts the free choices made. `lag` delays the
vector unit: with it an instruction is only queued, and its entry executes at a turn of its own. `parked` says that the
focused hart waits. `dead` lists the bytes of memory with a lasting fault, whose error marks no write clears (R330). `unseenV` and `unseenS`
list the stores that the vector agent and the scalar agent of the focused hart may still not see, in coherence order (R344, log 98);
`stores` collects the stores of a relaxed turn while it runs, and is none between turns. -/
structure State where
  id : Nat
  hart : Hart
  others : Sparse Hart
  cores : Sparse Core
  quads : Sparse Quad
  dies : Sparse Die
  pkgs : Sparse Pkg
  podBarriers : Sparse Barrier
  mem : List Host.Cell
  poison : List Nat
  dead : List Nat
  unseenV : List Stale
  unseenS : List Stale
  stores : Option Stores
  time : Nat
  freeCount : Nat
  agenda : List Turn
  lag : Bool
  parked : Bool
  rotor : Nat
deriving DecidableEq, Repr

/-- Why the machine stops. -/
inductive Fault where
  /-- Nothing raises it: the manual gives every access of the machine an effect or a trap, an address that names no
  target included (R315), so no step of this model ends in a fault. Safe. -/
  | unreachable
deriving DecidableEq, Repr

/-- Why an instruction has no meaning here. -/
inductive Refusal where
  /-- `exec` answers this for an instruction that has no meaning yet. Safe: it only stops. -/
  | notModelled (mnemonic : String)
deriving DecidableEq, Repr

/-- Configuration registers at dispatch and reset (R42, R77). -/
def VConf.reset : VConf := ⟨0, 1, 5, 0, 0, 0, 0, 0, 0, 0⟩

/-- Vector-side registers at dispatch (R21). -/
def VecRegs.reset : VecRegs := ⟨[], [], [], [], [], [], [], [], [], 1, [], [], [], []⟩

/-- R42, R78, R79, R110, R213, R398; lanes, rows, window and tiles as a `.launch` with every default gives them (R15). -/
def SysRegs.reset : SysRegs :=
  ⟨0, 0, 255, 8, 8, 128, 64, 0, 0, 0, 0, 0, 3072, 196608, 4, 0, 1, false, 0, 0⟩

/-- R43, R46, R47, R111, R122, R123: STATUS.PRIV is 2, everything else 0. -/
def TrapRegs.reset : TrapRegs := ⟨2, 0, 0, 0, 0, 0, 0, 0, 0, 0, 0, 0, 0, 0, 0, 0, 0, 0, 0⟩

/-- The descriptor of no task: what a `.launch` with every default gives (R15), with no record, counter or request. -/
def Descriptor.none : Descriptor :=
  ⟨0, 0, 0, 0, 0, false, 8, 8, 128, 64, 0, 0, false, 0, 0, false, 0x08200C0C, 0, false, 0, 0, 0⟩

/-- No task. -/
def Task.none : Task :=
  ⟨0, Descriptor.none, 0, false, false, false, 0, true, 0, false, 0, 0, 0, []⟩

/-- A hart after reset: halted with no task (R370); PC is 0 and the queued addresses follow it (log 1). -/
def Hart.reset : Hart :=
  ⟨.idle, ⟨0, 4, 8, false, false, false, false, false⟩, [], [], VConf.reset, VecRegs.reset, [], [], [], SysRegs.reset,
    TrapRegs.reset, Task.none, [], [], 0, [], none, false⟩

/-- A channel at rest. -/
def Channel.idle : Channel := ⟨.idle, 0, [], [], none, ⟨0, 0, 0, 0⟩, 0, none, 0, 0, 0, false⟩

/-- A core after reset: the default partition word (R189), a pool of zeros (R370). -/
def Core.reset : Core := ⟨0x08200C0C, [], [], [], [], [], [], [], false, none, [], []⟩

/-- R265, R271: zero after package reset. -/
def Barrier.zero : Barrier := ⟨0, 0, 0⟩
def Sem.free : Sem := ⟨false, []⟩
def Quad.reset : Quad := ⟨[], [], [], [], [], false, []⟩

/-- R286, R287, R311, R316, R329, R331. -/
def Die.reset : Die :=
  ⟨[], [], [], [], 0, 0, 0, [], 0, 65536, 16, 1, 4, 12, 0, 0, [], [], [], 1, 20, 0, 0, 0, 0, [], [], [], [], [], [], []⟩

/-- A link after bring-up: up (R370 step 4, log 6), with the reset values of R374 for the rest; every link leads to switch 0 (log 92). -/
def Link.reset : Link := ⟨2, 0, 0, 0, false, [], 0, [], 0, 0, 0⟩

/-- R314, R361, R374, R386, R405; the part is a SEL-DZ4 (log 73), every byte behind a CXL port is exposed (log 43); bring-up is done and
every package of the pod is reachable (R370, log 6). -/
def Pkg.reset : Pkg :=
  ⟨.dz4, [], 0, 0, 1, 0, 0, 0, 0, [], BitVec.allOnes 64, 894, 0, 0, 0, 0, true, 0, false, [], none, [], [], [], 0, [], none, 0, .start, 0, 0,
    2000, 0, 0, 0⟩

/-- The machine right after reset and bring-up (R370): every hart idle, every pool, file, barrier, counter and queue
zero, memory with nothing listed. -/
def State.reset : State :=
  ⟨0, Hart.reset, [], [], [], [], [], [], [], [], [], [], [], none, 0, 0, [], false, false, 0⟩

end Sys2Proof.Machine
end

