-- ==== Sys2Proof/Machine/Ops.lean ====
section
/-! DEFINITION. The named operations over the state: the monad of meanings, harts and units by number, scalar names
(R31), translation and memory (R313–R320), fetching and the queued addresses (R49–R52, R105), the error log (R331), and
taking a trap or an interrupt (R45, R125). -/

namespace Sys2Proof.Machine

/-! ## Bits and bytes -/

/-- The low `n` bits of a number, sign-extended to an integer. -/
def sextNat (n x : Nat) : Int :=
  let y := x % 2 ^ n
  if y < 2 ^ (n - 1) then (y : Int) else (y : Int) - 2 ^ n

/-- A number in `n` bytes, least significant first (R4). -/
def leBytes : Nat → Nat → List Byte
  | 0, _ => []
  | n + 1, x => BitVec.ofNat 8 x :: leBytes n (x / 256)

/-- The number whose little-endian bytes these are (R4). -/
def leNat : List Byte → Nat
  | [] => 0
  | b :: bs => b.toNat + 256 * leNat bs

/-- Bits h:l of a number (R5). -/
def bitsOf (x h l : Nat) : Nat := x / 2 ^ l % 2 ^ (h - l + 1)

/-- Bit i of a number (R5). -/
def bitOf (x i : Nat) : Bool := x / 2 ^ i % 2 == 1

/-! ## The monad of meanings -/

/-- How a meaning ends early: a trap with its XVAL, a trap whose XVAL is the instruction word (R125), a block (R45): the instruction has
not completed and waits for another agent, or a stall: it waits for accesses under way or for an engine (R199, R342). -/
inductive Stop where
  | trap (c : Cause) (v : Word)
  | trapWord (c : Cause)
  | block
  | stall
deriving DecidableEq, Repr

/-- A meaning: it reads and changes the state, and may end early with the changes made so far. -/
abbrev M := ExceptT Stop (StateM State)

/-- Run a meaning: how it ended, and the state it left. -/
def M.exec {α : Type} (m : M α) (s : State) : Except Stop α × State := m s

/-- `trap(cause, val)` of R18. -/
def trap {α : Type} (c : Cause) (v : Word) : M α := throw (.trap c v)

/-- A trap whose XVAL is the instruction word, zero-extended (R125). -/
def trapWord {α : Type} (c : Cause) : M α := throw (.trapWord c)

/-- The instruction waits (R45). -/
def block {α : Type} : M α := throw .block

/-- The instruction stalls (R199, R342). -/
def stall {α : Type} : M α := throw .stall

/-- Trap when a condition holds. -/
def trapIf (p : Bool) (c : Cause) (v : Word) : M Unit := if p then trap c v else pure ()

/-- `for j in i .. i+n-1` of R17. -/
def forFrom : Nat → Nat → (Nat → M Unit) → M Unit
  | 0, _, _ => pure ()
  | n + 1, i, f => do f i; forFrom n (i + 1) f

/-- `for j in 0 .. n-1` of R17. -/
def forN (n : Nat) (f : Nat → M Unit) : M Unit := forFrom n 0 f

/-- The results of a meaning at i, …, i+n-1, in order. -/
def mapFrom {α : Type} : Nat → Nat → (Nat → M α) → M (List α)
  | 0, _, _ => pure []
  | n + 1, i, f => do let x ← f i; let xs ← mapFrom n (i + 1) f; pure (x :: xs)

/-- The first of i, …, i+n-1 at which a test holds. -/
def findFrom : Nat → Nat → (Nat → Bool) → Option Nat
  | 0, _, _ => none
  | n + 1, i, p => if p i then some i else findFrom n (i + 1) p

/-- A free value: the next choice that the manual leaves open (log 12). -/
def freeWord : M Word := do
  let s ← get
  set { s with freeCount := s.freeCount + 1 }
  pure (Config.freeWord s.freeCount)

/-! ## Harts and units by number -/

def hartsPerDie : Nat := 192
def hartsPerPkg : Nat := 768

def coreOf (hart : Nat) : Nat := hart / 4
def quadOf (hart : Nat) : Nat := hart / 16
def dieOf (hart : Nat) : Nat := hart / hartsPerDie
def pkgOf (hart : Nat) : Nat := hart / hartsPerPkg
def dieOfCore (core : Nat) : Nat := core / 48
def pkgOfDie (die : Nat) : Nat := die / 4

/-- The state of hart `n`, in focus or not. -/
def State.hartAt (s : State) (n : Nat) : Hart := if n = s.id then s.hart else sparseGet Hart.reset s.others n

/-- Replace the state of hart `n`. -/
def State.setHartAt (s : State) (n : Nat) (h : Hart) : State :=
  if n = s.id then { s with hart := h } else { s with others := sparsePut Hart.reset s.others n h }

/-- Bring hart `n` into focus. -/
def State.focusOn (s : State) (n : Nat) : State :=
  if n = s.id then s
  else { s with
    id := n
    hart := sparseGet Hart.reset s.others n
    others := sparsePut Hart.reset (sparseErase n s.others) s.id s.hart
    parked := false }

def State.core (s : State) (c : Nat) : Core := sparseGet Core.reset s.cores c
def State.setCore (s : State) (c : Nat) (x : Core) : State := { s with cores := sparsePut Core.reset s.cores c x }
def State.quad (s : State) (q : Nat) : Quad := sparseGet Quad.reset s.quads q
def State.setQuad (s : State) (q : Nat) (x : Quad) : State := { s with quads := sparsePut Quad.reset s.quads q x }
def State.die (s : State) (d : Nat) : Die := sparseGet Die.reset s.dies d
def State.setDie (s : State) (d : Nat) (x : Die) : State := { s with dies := sparsePut Die.reset s.dies d x }
def State.pkg (s : State) (p : Nat) : Pkg := sparseGet Pkg.reset s.pkgs p
def State.setPkg (s : State) (p : Nat) (x : Pkg) : State := { s with pkgs := sparsePut Pkg.reset s.pkgs p x }

/-- The core, quad, die and package of the focused hart. -/
def State.myCore (s : State) : Core := s.core (coreOf s.id)
def State.myQuad (s : State) : Quad := s.quad (quadOf s.id)
def State.myDie (s : State) : Die := s.die (dieOf s.id)
def State.myPkg (s : State) : Pkg := s.pkg (pkgOf s.id)

def getHart : M Hart := do pure (← get).hart
def modHart (f : Hart → Hart) : M Unit := modify fun s => { s with hart := f s.hart }
def modFetch (f : Fetch → Fetch) : M Unit := modHart fun h => { h with fetch := f h.fetch }
def modCfg (f : VConf → VConf) : M Unit := modHart fun h => { h with cfg := f h.cfg }
def modVec (f : VecRegs → VecRegs) : M Unit := modHart fun h => { h with vec := f h.vec }
def modSys (f : SysRegs → SysRegs) : M Unit := modHart fun h => { h with sys := f h.sys }
def modTrapRegs (f : TrapRegs → TrapRegs) : M Unit := modHart fun h => { h with trap := f h.trap }
def modTask (f : Task → Task) : M Unit := modHart fun h => { h with task := f h.task }
def modCore (c : Nat) (f : Core → Core) : M Unit := modify fun s => s.setCore c (f (s.core c))
def modQuad (q : Nat) (f : Quad → Quad) : M Unit := modify fun s => s.setQuad q (f (s.quad q))
def modDie (d : Nat) (f : Die → Die) : M Unit := modify fun s => s.setDie d (f (s.die d))
def modPkg (p : Nat) (f : Pkg → Pkg) : M Unit := modify fun s => s.setPkg p (f (s.pkg p))

/-- The time-stamp counter of a package: one count each nanosecond, `time` counting half nanoseconds (R356). -/
def State.tsc (s : State) (p : Nat) : Nat := ((s.time / 2 : Nat) + (s.pkg p).tscSkew).toNat

/-- Cycles of a package's arithmetic clock since its reset: 2 GHz cycles at 2,000 MHz (R356, R371). -/
def State.cycles (s : State) (p : Nat) : Nat :=
  (s.pkg p).clkBase + (s.time - (s.pkg p).clkTime) * (s.pkg p).mhz / 2000

/-! ## Scalar names (R31, R55) -/

/-- The check of R31 on a scalar-source name. -/
def scalarOk (h : Hart) (n : BitVec 7) : Bool :=
  if n.toNat < 64 then n.toNat == 0 || (n.toNat < h.sys.window.toNat && h.sys.swb.toNat + n.toNat ≤ 255)
  else h.sys.kbase.toNat + (n.toNat - 64) ≤ 511

/-- The value of a scalar-source name: s0 reads 0, sN the physical scalar SWB + N, kN the constant KBASE + N (R31). -/
def scalarVal (h : Hart) (n : BitVec 7) : Word :=
  if n.toNat < 64 then if n.toNat = 0 then 0 else sparseGet 0 h.sregs (h.sys.swb.toNat + n.toNat)
  else sparseGet 0 h.kbank (h.sys.kbase.toNat + (n.toNat - 64))

/-- Write a scalar destination; a write to s0 is discarded (R31). -/
def setScalar (h : Hart) (n : BitVec 7) (v : Word) : Hart :=
  if n.toNat = 0 then h else { h with sregs := sparsePut 0 h.sregs (h.sys.swb.toNat + n.toNat) v }

/-- Raise WINF unless a scalar name is inside its window; XVAL is the operand field value (R31). -/
def checkScalar (n : BitVec 7) : M Unit := do
  let h ← getHart
  if scalarOk h n then pure () else trap .winf (n.zeroExtend 64)

/-- Read a scalar-source name. -/
def readScalar (n : BitVec 7) : M Word := do
  checkScalar n
  pure (scalarVal (← getHart) n)

/-- Write a scalar destination. -/
def writeScalar (n : BitVec 7) (v : Word) : M Unit := do
  checkScalar n
  modHart fun h => setScalar h n v

/-- Check both names of a pair; XVAL is the field value (R31, R231). -/
def checkPair (n : BitVec 7) : M Unit := do
  let h ← getHart
  if scalarOk h n && scalarOk h (n + 1) then pure () else trap .winf (n.zeroExtend 64)

/-! ## Physical memory (R313–R315, R322, R330) -/

/-- What a byte that nothing has written reads as (log 2). -/
def memDefault : Byte := 0

/-- The canonical form of memory: addresses strictly rising, and no entry equal to what an unlisted address reads as. -/
def Memory.wf (m : List Host.Cell) : Bool := sparseWf memDefault m

/-- The byte at a physical address. -/
def State.byteAt (s : State) (a : Nat) : Byte := sparseGet memDefault s.mem a

/-- Write bytes at a physical address; a write clears the poison marks of its bytes but for those with a lasting fault (R330). A relaxed
turn collects it (log 98). -/
def State.putBytes (s : State) (a : Nat) (bs : List Byte) : State :=
  { s with
    stores := s.stores.map fun w => { w with agent := w.agent ++ [(a, bs)] }
    mem := sparsePutList memDefault s.mem a bs
    poison := s.poison.filter fun p => p < a || a + bs.length ≤ p || s.dead.contains p }

/-- The stores that led from a state to another are no agent's. -/
def State.unowned (s t : State) : State := { t with stores := match s.stores, t.stores with
  | some x, some y => some ⟨x.agent, y.rest ++ y.agent.drop x.agent.length⟩
  | _, y => y }

/-- The little-endian number in `n` bytes at a physical address. -/
def State.memNat (s : State) (a n : Nat) : Nat := leNat (sparseGetList memDefault s.mem a n)

/-- Write a little-endian number of `n` bytes at a physical address. -/
def State.putNat (s : State) (a n x : Nat) : State := s.putBytes a (leBytes n x)

/-- The package a physical address names, seen from a package: the address carries it in bits 51:46 (R313). -/
def physPkg (a : Nat) : Nat := bitsOf a 51 46

/-- The address lies in a package control window (R313). -/
def isControlWindow (a : Nat) : Bool := bitsOf a 45 45 == 0 && bitsOf a 44 40 == 0x1F

/-- The physical address names no target (R315), seen from package `p`. -/
def absent (s : State) (p a : Nat) : Bool :=
  let q := physPkg a
  !(q == p || (s.pkg p).podmap.getLsbD q) ||
  (if bitOf a 45 then
     (s.pkg q).part.dies ≤ bitsOf a 44 43 || sparseGet (2 ^ 43) (s.pkg q).cxl (bitsOf a 44 43) ≤ bitsOf a 42 0
   else if bitsOf a 44 40 == 0x1F then false
   else bitsOf a 44 40 != 0 || (s.pkg q).part.dies ≤ bitsOf a 39 38 || (s.pkg q).memsz.toNat * 2 ^ 28 ≤ bitsOf a 37 0)

/-- The die whose L2 is the home of a physical address, numbered over the pod (R322). -/
def homeDie (a : Nat) : Nat := physPkg a * 4 + (if bitOf a 45 then bitsOf a 44 43 else bitsOf a 39 38)

/-! ## Translation (R316–R320) -/

/-- The permission an access needs (R319). -/
inductive Access where
  | fetch
  | load
  | store
  | atomic
deriving DecidableEq, Repr

/-- The forms that device memory tells apart (R319, R361): scalar loads and stores, the VMEM forms 0–3, others. -/
inductive Agent where
  | scalar
  | vmem
  | other
deriving DecidableEq, Repr

/-- A table entry is malformed at its level (R318). -/
def malformedEntry (level e : Nat) : Bool :=
  let leaf := bitsOf e 3 1 != 0
  bitsOf e 15 10 != 0 || bitsOf e 63 52 != 0 || bitsOf e 9 8 == 3 || (bitOf e 2 && !bitOf e 1) ||
  (leaf && level == 0) || (!leaf && level == 2) || (!leaf && bitsOf e 9 4 != 0) ||
  (leaf && level == 1 && bitsOf e 27 16 != 0)

/-- Index of a virtual address at a level (R317). -/
def tableIndex (level va : Nat) : Nat :=
  if level = 0 then bitsOf va 51 40 else if level = 1 then bitsOf va 39 28 else bitsOf va 27 16

/-- A byte of a span carries an error mark (R330). -/
def State.marked (s : State) (a n : Nat) : Bool := s.poison.any fun p => a ≤ p && p < a + n

/-- The access's package is another one that does not answer it (R395). -/
def unanswered (s : State) (pa : Nat) : Bool := s.hart.unanswered == some (BitVec.ofNat 6 (physPkg pa)) && physPkg pa != pkgOf s.id

/-- A fenced unit holds the byte: the L2 of its home die or, for HBM, its stack there (R212, R331, log 121). -/
def fencedAt (s : State) (pa : Nat) : Bool :=
  (s.die (homeDie pa)).fenced.any fun n => n == 60 || (!bitOf pa 45 && n == 62 + Config.stackOf pa % 3)

/-- A fenced unit holds a granule of a span (R212). -/
def fencedSpan (s : State) (a n : Nat) : Bool := (List.range ((n + 63) / 64)).any fun i => fencedAt s (a + 64 * i)

/-- The walk from a table at a level: the leaf, its address and whether it maps 256 MiB (R317, R318). An entry that is marked or in a
fenced unit raises MCE (R330), and so does one that its package does not answer (R395). An error comes with the entry's address. -/
def walkFrom (s : State) (p : Nat) : Nat → Nat → Nat → Nat → Except (Cause × Nat) (Nat × Nat × Bool)
  | 0, _, table, _ => .error (.prot, table)
  | fuel + 1, level, table, va =>
    let at' := table + 8 * tableIndex level va
    if absent s p table || isControlWindow table then .error (.prot, at')
    else
      let e := s.memNat at' 8
      if s.marked at' 8 || unanswered s at' || fencedAt s at' then .error (.mce, at')
      else if !bitOf e 0 then .error (.xlate, at')
      else if malformedEntry level e then .error (.prot, at')
      else if bitsOf e 3 1 != 0 then .ok (e, at', level == 1)
      else walkFrom s p fuel (level + 1) (bitsOf e 51 16 * 2 ^ 16) va

/-- Walk the tables of a die for a virtual address (R317). -/
def walk (s : State) (d va : Nat) : Except (Cause × Nat) (Nat × Nat × Bool) :=
  walkFrom s (pkgOfDie d) 3 0 ((s.die d).ptRoot.toNat * 2 ^ 16) va

/-- The virtual page number that a TLB entry of a size holds an address under. -/
def pageOf (big : Bool) (va : Nat) : Nat := if big then va / 2 ^ 28 else va / 2 ^ 16

/-- The cached leaf of a virtual address (R321). -/
def tlbFind (tlb : List Tlb) (va : Nat) : Option Tlb := tlb.find? fun t => t.page == pageOf t.big va

/-- Set bits of the leaf entry in memory, at the entry's home L2 (R320): the access of no agent (R334). -/
def markLeaf (at' bit : Nat) (s : State) : State :=
  let e := s.memNat at' 8
  if bitOf e bit then s else { s.putNat at' 8 (e + 2 ^ bit) with stores := s.stores }

/-- Set D in the cached leaf of an address (R320). -/
def markDirty (va : Nat) (t : Tlb) : Tlb :=
  if t.page = pageOf t.big va then { t with leaf := t.leaf ||| 0x80 } else t

/-- Walk, set A in the leaf, and cache the entry (R320, R321). -/
def walkAndCache (d va : Nat) (v : Word) : M (Nat × Nat × Bool) := do
  let s ← get
  match walk s d va with
  | .error (c, at') => do
    if c = .mce && unanswered s at' then modHart fun h => { h with unanswered := none }
    trap c v
  | .ok (e, at', big) =>
    modify (markLeaf at' 6)
    let e' := if bitOf e 6 then e else e + 2 ^ 6
    modDie d fun x => { x with tlb := ⟨pageOf big va, big, BitVec.ofNat 64 e', false⟩ ::
      (x.tlb.filter fun t => !(t.page == pageOf t.big va)) }
    pure (e', at', big)

/-- The physical address under a leaf (R317, R318). -/
def leafAddr (e : Nat) (big : Bool) (va : Nat) : Nat :=
  if big then bitsOf e 51 28 * 2 ^ 28 + va % 2 ^ 28 else bitsOf e 51 16 * 2 ^ 16 + va % 2 ^ 16

/-- The permission check of R319 on a leaf. -/
def permitted (k : Access) (priv e : Nat) : Bool :=
  (priv != 0 || bitOf e 4) &&
  (match k with
   | .fetch => bitOf e 3
   | .load => bitOf e 1
   | .store => bitOf e 2
   | .atomic => bitOf e 1 && bitOf e 2)

/-- The device rule of R319 and the control-window rule of R361. -/
def deviceOk (k : Access) (g : Agent) (mt : Nat) (pa size : Nat) : Bool :=
  if isControlWindow pa then g == .scalar && k != .fetch && k != .atomic && size == 8 && pa % 8 == 0
  else mt != 2 || (k != .fetch && k != .atomic && g != .other)

/-- An access to a unit of the own die raises MCE where it is fenced (R212); XVAL is the unit's source number (R331, log 121). -/
def needUnit (n : Nat) : M Unit := do trapIf ((← get).myDie.fenced.contains n) .mce (BitVec.ofNat 64 n)

/-- An access to another package that does not answer it raises MCE (R395). -/
def needAnswer (p : Nat) (v : Word) : M Unit := do
  let s ← get
  if s.hart.unanswered == some (BitVec.ofNat 6 p) && p != pkgOf s.id then do
    modHart fun h => { h with unanswered := none }
    trap .mce v

/-- The checks on a physical address: a package that does not answer an access under way, which raises MCE for a load, an atomic or a
fetch (R395), then R315 and the device rule, and the fencing of a unit (R212). -/
def reach (k : Access) (g : Agent) (mt : Nat) (v : Word) (pa size : Nat) : M Nat := do
  let s ← get
  if unanswered s pa then do
    if k = .store then pure pa
    else do
      modHart fun h => { h with unanswered := none }
      trap .mce v
  else if absent s (pkgOf s.id) pa || !deviceOk k g mt pa size then trap .prot v
  else if !isControlWindow pa && fencedAt s pa then trap .mce v
  else pure pa

/-- The physical address of an access at a privilege, with the checks of R315 to R319; XVAL is the virtual address. -/
def translateAt (priv : Nat) (k : Access) (g : Agent) (v : Word) (size : Nat) : M Nat := do
  let s ← get
  let d := dieOf s.id
  let va := v.toNat
  if (s.die d).ptEn = 0 then
    if priv != 2 then trap .prot v
    else if 2 ^ 52 ≤ va then trap .xlate v
    else reach k g 0 v va size
  else if 2 ^ 52 ≤ va then trap .xlate v
  else do
    trapIf ((s.die d).fenced.contains 66) .mce v
    let (e, big) ← (match tlbFind (s.die d).tlb va with
      | some t => do
        trapIf t.bad .mce v
        pure (t.leaf.toNat, t.big)
      | none => do let (e, _, big) ← walkAndCache d va v; pure (e, big))
    if !permitted k priv e then trap .prot v
    let writes := k == .store || k == .atomic
    let (e, big) ← (if writes && !bitOf e 7 then do
        let (e, at', big) ← walkAndCache d va v
        if !permitted k priv e then trap .prot v
        modify (markLeaf at' 7)
        modDie d fun x => { x with tlb := x.tlb.map (markDirty va) }
        pure (e, big)
      else pure (e, big))
    reach k g (bitsOf e 9 8) v (leafAddr e big va) size

/-- Raise MCE when a byte of a span is poisoned (R330); XVAL is the address the access used. -/
def checkPoison (pa n : Nat) (v : Word) : M Unit := do
  if (← get).marked pa n then trap .mce v else pure ()

/-- Perform a store at a physical address. A store to a package that does not answer is lost, and MCE is raised at the next
vector-instruction boundary (R395). -/
def storeAt (v : Word) (pa n x : Nat) : M Unit := do
  if unanswered (← get) pa then modHart fun h => { h with unanswered := none, pendMce := h.pendMce ++ [v] }
  else modify fun s => s.putNat pa n x

/-- The current privilege. -/
def privNow : M Nat := do pure (← getHart).trap.priv.toNat

/-- `rdmem(addr, size)` of R18 at a privilege. -/
def rdmemAt (priv : Nat) (g : Agent) (v : Word) (size : Nat) : M Nat := do
  let pa ← translateAt priv .load g v size
  checkPoison pa size v
  pure ((← get).memNat pa size)

/-- `wrmem(addr, size, x)` of R18 at a privilege. -/
def wrmemAt (priv : Nat) (g : Agent) (v : Word) (size x : Nat) : M Unit := do
  let pa ← translateAt priv .store g v size
  storeAt v pa size x

/-- `rdmem` at the hart's privilege. A queued vector entry's accesses are checked at the privilege in force when it executes,
which an entry does not capture (R25, R47): DESIGN CHOICE, log 84. -/
def rdmem (g : Agent) (v : Word) (size : Nat) : M Nat := do rdmemAt (← privNow) g v size
/-- `wrmem` at the hart's privilege. -/
def wrmem (g : Agent) (v : Word) (size x : Nat) : M Unit := do wrmemAt (← privNow) g v size x

/-- Read the 8-byte words at an address. -/
def rdWords (priv : Nat) (v : Word) (n : Nat) : M (List Word) :=
  mapFrom n 0 fun i => do pure (BitVec.ofNat 64 (← rdmemAt priv .other (v + BitVec.ofNat 64 (8 * i)) 8))

/-- Write 8-byte words at an address, in rising order. -/
def wrWords (priv : Nat) (v : Word) : List Word → M Unit
  | [] => pure ()
  | x :: xs => do wrmemAt priv .other v 8 x.toNat; wrWords priv (v + 8) xs

/-! ## Fetching (R49–R52) -/

/-- The word that the instruction cache of the core gives for a physical address in place of memory (R53, log 9). -/
def cachedWord (k : Core) (pa : Nat) : Option (BitVec 32) :=
  match sparseGet none k.code pa with
  | some (w, true) => some w
  | _ => none

/-- Fetch the word at an address at a privilege (R52): as its core's instruction cache holds it, or as memory does (R53). -/
def fetchAt (priv : Nat) (v : Word) : M (BitVec 32) := do
  let pa ← translateAt priv .fetch .other v 4
  match cachedWord (← get).myCore pa with
  | some w => pure w
  | none => do
    checkPoison pa 4 v
    pure (BitVec.ofNat 32 ((← get).memNat pa 4))

/-- The sequential successor of an address (R50); its word is fetched. The word is fetched again when it executes, at the privilege,
the translation and the contents then in force: DESIGN CHOICE, log 85. -/
def succAt (priv : Nat) (v : Word) : M Word := do
  let w ← fetchAt priv v
  pure (if hasLiteral w then v + 8 else v + 4)

/-- The successor at the current privilege. -/
def succ (v : Word) : M Word := do succAt (← privNow) v

/-- Run a meaning and keep its effects; `none` when it traps. -/
def attempt {α : Type} (m : M α) : M (Except Stop α) := do
  let s ← get
  let (r, s') := m.exec s
  set s'
  pure r

/-- Form NA and NB where they are not yet formed (R52, R126). A fault traps, and says in NBF what is missing. -/
def formQueue : M Unit := do
  let f := (← getHart).fetch
  if f.naf then
    let na ← succ f.pc
    modFetch fun f => { f with na := na, naf := false }
  let f := (← getHart).fetch
  if f.nbf then
    let nb ← succ f.na
    modFetch fun f => { f with nb := nb, nbf := false }

/-- Put the hart at an address outside a step: PC, and NA and NB still to be formed, with no annul bit (R50, R52). -/
def startAt (v : Word) : M Unit := do
  modFetch fun _ => ⟨v, 0, 0, false, false, true, true, false⟩
  let _ ← attempt formQueue
  pure ()

/-- How a scalar instruction ends: on to the next word, a taken transfer, a branch that annuls its slots, or PC, NA and
NB set by the instruction itself. -/
inductive Flow where
  | next
  | taken (t : Word)
  | annul
  | placed
deriving DecidableEq, Repr

/-- The second half of a step (R105, R107): PC := NA, NA := NB, and NB is the target or the successor of NB. A fetch
fault on that successor is left for the boundary (R52); NB is 0 until it is formed (DESIGN CHOICE, log 101). -/
def advance (fl : Flow) : M Unit := do
  match fl with
  | .placed => pure ()
  | .taken t => modFetch fun f => ⟨f.na, f.nb, t, f.ana, false, false, false, false⟩
  | .next => do
    modFetch fun f => ⟨f.na, f.nb, 0, f.ana, false, true, false, false⟩
    let _ ← attempt formQueue
    pure ()
  | .annul => do
    modFetch fun f => ⟨f.na, f.nb, 0, true, true, true, false, false⟩
    let _ ← attempt formQueue
    pure ()

/-! ## The error log (R331) -/

/-- Write records to consecutive slots of a log ring: the die's writes, not an agent's. -/
def putRecords (base cap : Nat) : Nat → List (List Byte) → State → State
  | _, [], s => s
  | wr, r :: rs, s => putRecords base cap (wr + 1) rs (s.unowned (s.putBytes (base + 32 * (wr % cap)) r))

/-- Write one record to the log ring of a die, or count it lost while the ring is disabled. Records of one time-stamp stand in the
order of their sources, so a record goes in before those of later sources (R331). ELBASE is read as a physical address
(log 18). -/
def logEvent (d source cls addr : Nat) : M Unit := modify fun s =>
  let x := s.die d
  let base := bitsOf x.elbase.toNat 51 5 * 32
  let n := s.freeCount
  let wr := bitsOf x.elcnt.toNat 31 0
  let lost := bitsOf x.elcnt.toNat 63 32
  if base = 0 then
    s.setDie d { x with elcnt := BitVec.ofNat 64 (wr + 2 ^ 32 * ((lost + 1) % 2 ^ 32)) }
  else
    let cap := 2 ^ (bitsOf x.elbase.toNat 63 60 + 4)
    let kind := (Config.unitKind n).toNat
    let rec' := leBytes 8 (s.tsc (pkgOfDie d)) ++ leBytes 2 source ++ leBytes 1 cls ++ leBytes 1 kind ++ leBytes 4 0 ++
      leBytes 8 addr ++ leBytes 8 (Config.syndrome n).toNat
    let now := s.tsc (pkgOfDie d)
    let same := if x.logTime = now then x.logNow else []
    let before := same.filter fun r => r.1 ≤ source
    let after := same.filter fun r => source < r.1
    let s := putRecords base cap ((wr + 2 ^ 32 - after.length) % 2 ^ 32) (rec' :: after.map (·.2)) s
    let s := s.setDie d { x with
      elcnt := BitVec.ofNat 64 ((wr + 1) % 2 ^ 32 + 2 ^ 32 * lost)
      logTime := now
      logNow := before ++ (source, rec') :: after }
    { s with freeCount := n + 1 }

/-! ## The vector-queue save area (R47) -/

/-- The configuration of an entry as bytes 16–31 of its slot hold it (R47). -/
def VConf.pack (c : VConf) : Word × Word :=
  (BitVec.ofNat 64 (c.vl.toNat + 2 ^ 14 * (c.rc.toNat - 1) + 2 ^ 19 * c.etype.toNat + 2 ^ 23 * c.psel.toNat +
    2 ^ 28 * c.gsel.toNat + 2 ^ 32 * c.vwb.toNat + 2 ^ 39 * c.estart.toNat + 2 ^ 57 * c.maskmode.toNat +
    2 ^ 58 * c.frm.toNat), c.mmode.zeroExtend 64)

/-- The configuration that bytes 16–31 of a slot hold (R47). -/
def VConf.unpack (w m : Word) : VConf :=
  ⟨w.extractLsb' 0 14, (w.extractLsb' 14 5).zeroExtend 6 + 1, w.extractLsb' 19 4, w.extractLsb' 23 5,
    w.extractLsb' 28 4, w.extractLsb' 32 7, w.extractLsb' 39 18, w.extractLsb' 57 1, w.extractLsb' 58 3,
    m.extractLsb' 0 2⟩

/-- The eight words of an entry's slot (R47). -/
def Entry.pack (e : Entry) : List Word :=
  let (c0, c1) := e.cfg.pack
  [e.lit ++ e.word, e.b0, c0, c1, e.b1, e.a0, e.a1, 0]

/-- The entry that a slot holds; the address of its instruction is not saved, so it is a free value (log 12). -/
def Entry.unpack (ws : List Word) (pc : Word) : Entry :=
  let g i := ws.getD i 0
  ⟨(g 0).extractLsb' 0 32, (g 0).extractLsb' 32 32, g 5, g 6, g 1, g 4, VConf.unpack (g 2) (g 3), pc, false⟩

/-- Write entries to an area, in queue order; the number written whole, and the trap that ended the writing (R45). The entry of a trap
writes at privilege 2, though the hart's privilege rises only after it (DEDUCED, log 112); its writes are no agent's. -/
def saveEntries (v : Word) : List Entry → Nat → M (Nat × Option Word)
  | [], n => pure (n, none)
  | e :: es, n => do
    let s ← get
    let r ← attempt (wrWords 2 v e.pack)
    modify s.unowned
    match r with
    | .ok _ => saveEntries (v + 64) es (n + 1)
    | .error (.trap _ a) => pure (n, some a)
    | .error _ => pure (n, some v)

/-- The hart leaves every queue it waits in (R268). -/
def leaveWaits : M Unit := modify fun s =>
  let q := s.quad (quadOf s.id)
  let drop := fun (p : Nat × Sem) => (p.1, { p.2 with waiters := p.2.waiters.filter fun w => w != s.id })
  s.setQuad (quadOf s.id) { q with sems := q.sems.map drop }

/-! ## Taking a trap or an interrupt (R45, R125) -/

/-- The code of a cause (R414). -/
def Cause.code : Cause → BitVec 8
  | .ill => 0x01 | .priv => 0x02 | .winf => 0x03 | .align => 0x04 | .xlate => 0x05 | .prot => 0x06 | .ordns => 0x07
  | .ordmm => 0x08 | .rse => 0x09 | .gate => 0x0A | .budget => 0x0B | .engf => 0x0C | .keyf => 0x0D | .strf => 0x0E
  | .matf => 0x0F | .trap => 0x10 | .peel => 0x11 | .mce => 0x1F | .timer => 0x80 | .host => 0x81 | .cancel => 0x83

/-- Stop dispatch and save the vector entries at XVQ (R45 steps 1–3); the address of the write that faulted, if any. An entry that has
stalled partway, for accesses or an engine, is saved as a blocked one is, at the element it has reached (DEDUCED, log 102). -/
def saveQueue : M (Option Word) := do
  let h ← getHart
  match h.vq with
  | e :: _ => if e.begun then modCfg fun c => { c with estart := e.cfg.estart }
  | [] => pure ()
  leaveWaits
  let base : Word := BitVec.ofNat 64 (bitsOf h.trap.xvq.toNat 51 5 * 32)
  let (n, bad) ← saveEntries base h.vq 0
  modTrapRegs fun t => { t with xvq := base ||| BitVec.ofNat 64 (n * 2 ^ 58) }
  modHart fun h => { h with vq := [] }
  pure bad

/-- XFLAGS of the queued addresses (R122). -/
def Fetch.flags (f : Fetch) : BitVec 4 :=
  BitVec.ofNat 4 (f.apc.toNat + 2 * f.ana.toNat + 4 * (f.nbf || f.naf).toNat + 8 * f.naf.toNat)

/-- Enter the handler at TVEC at privilege 2 with interrupts off (R125). A fetch fault there stops the hart as HALT stops
it and is logged as class 3 (R52). -/
def enterHandler : M Unit := do
  modTrapRegs fun t => { t with ppriv := t.priv, pie := t.ie, priv := 2, ie := 0 }
  let t := (← getHart).trap.tvec
  modFetch fun _ => ⟨t, 0, 0, false, false, true, true, false⟩
  match ← attempt formQueue with
  | .ok _ => pure ()
  | .error (.trap _ a) => do
    modHart fun h => { h with phase := .halted }
    let s ← get
    logEvent (dieOf s.id) (coreOf s.id % 48) 3 a.toNat
  | .error _ => modHart fun h => { h with phase := .halted }

/-- Trap or interrupt entry: the steps of R45 and R125. `v` is CAUSE.V. A trap that ends the draining of a pre-empted hart
leaves the pre-emption pending (log 20), and one that ends the draining of HALT leaves the hart running, in the handler (DEDUCED,
log 103). -/
def trapEntry (v : Bool) (c : Cause) (x : Word) : M Unit := do
  let bad ← saveQueue
  modHart fun h =>
    let f := h.fetch
    { h with
      phase := .running
      trap := { h.trap with
        ipend := if h.phase = .suspending then h.trap.ipend ||| 4 else h.trap.ipend
        xpc := f.pc &&& ~~~3
        xna := f.na &&& ~~~3
        xnb := f.nb &&& ~~~3
        xflags := f.flags
        cause := match bad with
          | some _ => Cause.mce.code.zeroExtend 9
          | none => (if v then 1#1 else 0#1) ++ c.code
        xval := bad.getD x } }
  enterHandler

/-- Trap entry as a function on states. -/
def takeTrap (v : Bool) (c : Cause) (x : Word) (s : State) : State := ((trapEntry v c x).exec s).2

/-! ## Running a scalar meaning -/

/-- Execute a scalar instruction: its meaning and the advance of the queued addresses, or the trap it raises (R44), or,
when it must wait, the same state with the hart parked. `w` is the instruction word. -/
def runScalar (w : BitVec 32) (m : M Flow) (s : State) : Host.Outcome State Fault Refusal :=
  match m.exec s with
  | (.ok fl, s') => .next ((advance fl).exec s').2
  | (.error (.trap c v), s') => .next (takeTrap false c v s')
  | (.error (.trapWord c), s') => .next (takeTrap false c (w.zeroExtend 64) s')
  | (.error .block, _) => .next { s with parked := true }
  | (.error .stall, _) => .next { s with parked := true }

/-- Execute an event: its effect on the state, or no effect where its condition does not hold. -/
def runEvent (m : M Unit) (s : State) : Host.Outcome State Fault Refusal :=
  match m.exec s with
  | (.ok _, s') => .next s'
  | (.error _, _) => .next s

/-- The transfers that earlier vector entries of the hart in focus started and that are not yet performed: a running transfer,
collective or page-in (R394), or an output element that its stream still holds; an element of a faulted transfer is none (R197, R342). -/
def transfersPending (s : State) : Bool :=
  (List.range 4).any (fun c =>
    let ch := sparseGet Channel.idle s.myCore.chans c
    ch.owner.toNat == s.id % 4 && ch.st == .running) ||
  s.myCore.locks.any (fun k => k.hart == s.id && k.coll && k.live) ||
  s.pkgs.any (fun p => p.2.pageIns.any fun g => g.issuer == s.id && g.ended.isNone) ||
  s.hart.vec.streams.any fun p => match p.2 with
    | some st => st.out && !st.buffer.isEmpty && st.fault.isNone
    | none => false

/-- A completion record of the hart in focus that a full ring keeps back: a write of its vector agent that is not performed (R200, R334). -/
def recordsPending (s : State) : Bool :=
  (List.range 4).any (fun c =>
    let ch := sparseGet Channel.idle s.myCore.chans c
    ch.owner.toNat == s.id % 4 && ch.held != 0 && !ch.orphan) ||
  s.pkgs.any (fun p => p.2.colls.any fun x => x.hart == s.id && x.held.isSome)

/-- The accesses that earlier vector entries of the hart in focus started and that are not yet performed (R117). The records of an ended
page-in are none of them, since a FENCE may complete before they are sent (R409, R410). -/
def accessesPending (s : State) : Bool := transfersPending s || recordsPending s

/-- A release waits for every earlier transfer of the hart's vector agent (R339, R342), and not for a record that a full ring keeps back:
that may need the very slot that an RREL is to release (DEDUCED, log 123). -/
def release : M Unit := do if transfersPending (← get) then stall else pure ()

/-- The focused hart's privilege is 2, or PRIV (R59, R60). -/
def needSupervisor : M Unit := do
  if (← getHart).trap.priv = 2 then pure () else trapWord .priv

end Sys2Proof.Machine
end

