-- ==== Sys2Proof/Machine/Fp.lean ====
section
/-! DEFINITION. Number formats and exact arithmetic (R72–R94): patterns to exact values, exact operations, and `rnd`.
A value is a sign, a magnitude and an exponent of two; a quotient or a root that is not such a value carries a sticky bit,
which says that the true value lies strictly between the magnitude and the next one. -/

namespace Sys2Proof.Machine

/-- A floating-point format (R72): exponent and mantissa bits, bias, whether it has infinities, and whether it has a NaN
with the most significant mantissa bit clear (a signalling one). -/
structure Fmt where
  eb : Nat
  mb : Nat
  bias : Nat
  hasInf : Bool
  hasSig : Bool
deriving DecidableEq, Repr

def fp32 : Fmt := ⟨8, 23, 127, true, true⟩
def fp16 : Fmt := ⟨5, 10, 15, true, true⟩
def bf16 : Fmt := ⟨8, 7, 127, true, true⟩
def e4m3 : Fmt := ⟨4, 3, 7, false, false⟩
def e5m2 : Fmt := ⟨5, 2, 15, true, false⟩
def e2m1 : Fmt := ⟨2, 1, 1, false, false⟩

/-- The format of a floating-point ETYPE (R72); FP32 for the codes that are none. -/
def fmtOf (etype : Nat) : Fmt :=
  match etype with
  | 6 => fp16 | 7 => bf16 | 8 => e4m3 | 9 => e5m2 | 10 => e2m1 | _ => fp32

/-- An exact value: NaN (signalling or quiet), an infinity, or (-1)^neg · (m + δ) · 2^e with δ = 0, or 0 < δ < 1 when
sticky. -/
inductive Ex where
  | nan (sig : Bool)
  | inf (neg : Bool)
  | fin (neg : Bool) (m : Nat) (e : Int) (sticky : Bool)
deriving DecidableEq, Repr

/-- Sticky flags by their bit in FFLAGS (R78). -/
abbrev Flags := BitVec 6
def flNX : Flags := 1
def flUF : Flags := 2
def flOF : Flags := 4
def flDZ : Flags := 8
def flNV : Flags := 16
def flSAT : Flags := 32

/-- A flag when a condition holds. -/
def flIf (p : Bool) (f : Flags) : Flags := if p then f else 0

/-- Sign bit of a pattern. -/
def Fmt.neg (f : Fmt) (x : Nat) : Bool := bitOf x (f.eb + f.mb)
/-- Exponent and mantissa bits of a pattern. -/
def Fmt.mag (f : Fmt) (x : Nat) : Nat := x % 2 ^ (f.eb + f.mb)
/-- Largest finite pattern (R72). -/
def Fmt.maxMag (f : Fmt) : Nat :=
  if f.hasInf then (2 ^ f.eb - 1) * 2 ^ f.mb - 1 else if f.eb = 4 then 0x7E else 2 ^ (f.eb + f.mb) - 1
/-- Pattern of +infinity. -/
def Fmt.infMag (f : Fmt) : Nat := (2 ^ f.eb - 1) * 2 ^ f.mb
/-- Canonical NaN (R72). -/
def Fmt.nanPat (f : Fmt) : Nat := if f.hasInf then f.infMag + 2 ^ (f.mb - 1) else if f.eb = 4 then 0x7F else 0
/-- Sign bit as a number. -/
def Fmt.signPat (f : Fmt) (neg : Bool) : Nat := if neg then 2 ^ (f.eb + f.mb) else 0

/-- The exact value of a pattern (R72). -/
def Fmt.value (f : Fmt) (x : Nat) : Ex :=
  let neg := f.neg x
  let m := x % 2 ^ f.mb
  let e := x / 2 ^ f.mb % 2 ^ f.eb
  if f.hasInf && e == 2 ^ f.eb - 1 then
    if m = 0 then .inf neg else .nan (f.hasSig && m < 2 ^ (f.mb - 1))
  else if !f.hasInf && f.eb == 4 && f.mag x == 0x7F then .nan false
  else if e = 0 then .fin neg m (1 - (f.bias : Int) - f.mb) false
  else .fin neg (2 ^ f.mb + m) ((e : Int) - f.bias - f.mb) false

/-- A pattern is NaN. -/
def Fmt.isNan (f : Fmt) (x : Nat) : Bool := match f.value x with | .nan _ => true | _ => false
/-- A pattern is a signalling NaN. -/
def Fmt.isSig (f : Fmt) (x : Nat) : Bool := match f.value x with | .nan b => b | _ => false

/-- The exact value of an integer. -/
def Ex.ofInt (i : Int) : Ex := .fin (i < 0) i.natAbs 0 false

/-- The magnitude rounds up, given the kept part's parity, the dropped part `rem` of `k` bits with its sticky bit, the
mode, the sign and the random word u (R80). -/
def roundsUp (mode : Nat) (neg : Bool) (lo rem k : Nat) (sticky : Bool) (u : Nat) : Bool :=
  let inexact := rem != 0 || sticky
  match mode with
  | 0 => inexact && (2 ^ k < 2 * rem || (2 * rem == 2 ^ k && (sticky || lo % 2 == 1)))
  | 1 => false
  | 2 => neg && inexact
  | 3 => !neg && inexact
  | _ =>
    inexact &&
      (if neg then !(u < ((2 ^ k - rem) * 65536 - sticky.toNat) / 2 ^ k) else u < rem * 65536 / 2 ^ k)

/-- The magnitude in units of 2^q: kept part, dropped part, its bits, sticky. A value far below the unit is dropped as a
sticky bit alone. -/
def splitAt (m : Nat) (e : Int) (sticky : Bool) (q : Int) : Nat × Nat × Nat × Bool :=
  if q ≤ e then (m * 2 ^ (e - q).toNat, 0, 1, sticky)
  else
    let k := (q - e).toNat
    if Nat.log2 m + 64 < k then (0, 0, 64, m != 0 || sticky) else (m / 2 ^ k, m % 2 ^ k, k, sticky)

/-- The result of `rnd`: a pattern and the flags it sets. -/
abbrev Rounded := Nat × Flags

/-- A finite value beyond the range of its target, by the mode and under SAT (R80, R85). -/
def Fmt.overflow (f : Fmt) (mode : Nat) (neg sat : Bool) : Rounded :=
  if sat || (!f.hasInf && f.eb == 2) then (f.signPat neg + f.maxMag, flOF ||| flNX ||| flSAT)
  else if !f.hasInf then (f.nanPat, flOF ||| flNX)
  else
    let toInf := match mode with | 1 => false | 2 => neg | 3 => !neg | _ => true
    (f.signPat neg + (if toInf then f.infMag else f.maxMag), flOF ||| flNX)

/-- The finite part of `rnd(x, T)` (R80, R82, R83). Tininess is detected after rounding; a value above the largest finite
one rounds under mode 4 as under mode 0. -/
def Fmt.roundFin (f : Fmt) (mode : Nat) (u : Nat) (sat : Bool) (neg : Bool) (m : Nat) (e : Int) (sticky : Bool) :
    Rounded :=
  if m = 0 && !sticky then (f.signPat neg, 0)
  else
    let emin : Int := 1 - f.bias
    let top : Int := e + Nat.log2 m
    let q : Int := (if emin ≤ top then top else emin) - f.mb
    let qmin : Int := emin - f.mb
    let (lo, rem, k, st) := splitAt m e sticky q
    let inexact := rem != 0 || st
    let base := (q - qmin).toNat * 2 ^ f.mb
    let above := f.maxMag < base + lo || (base + lo == f.maxMag && inexact)
    let mode' := if mode == 4 && above then 0 else mode
    let mag := base + lo + (roundsUp mode' neg lo rem k st u).toNat
    if f.maxMag < mag then f.overflow mode' neg sat
    else
      let (lo', rem', k', st') := splitAt m e sticky (top - f.mb)
      let up' := roundsUp mode' neg lo' rem' k' st' u
      let tiny := top < emin && !(top == emin - 1 && up' && lo' + 1 == 2 ^ (f.mb + 1))
      (f.signPat neg + mag, flIf inexact flNX ||| flIf (inexact && tiny) flUF)

/-- `rnd(x, T)` with the rules of R84 and R85 for NaN and infinities; `sat` is the SAT bit of the instruction. -/
def Fmt.rnd (f : Fmt) (mode : Nat) (u : Nat) (sat : Bool) : Ex → Rounded
  | .nan sig => if !f.hasInf && f.eb == 2 then (0, flNV) else (f.nanPat, flIf sig flNV)
  | .inf neg =>
    if sat || (!f.hasInf && f.eb == 2) then (f.signPat neg + f.maxMag, flSAT)
    else if f.hasInf then (f.signPat neg + f.infMag, 0)
    else (f.nanPat, flNV)
  | .fin neg m e st => f.roundFin mode u sat neg m e st

/-- `rne`: rounding to FP32 with ties to even (R90). -/
def rne (x : Ex) : Rounded := fp32.rnd 0 0 false x

/-- A value rounded to an integer under a mode, and whether that was inexact (R80, R86). -/
def roundToInt (mode u : Nat) (neg : Bool) (m : Nat) (e : Int) (sticky : Bool) : Int × Bool :=
  let (lo, rem, k, st) := splitAt m e sticky 0
  let n := lo + (roundsUp mode neg lo rem k st u).toNat
  (if neg then -(n : Int) else n, rem != 0 || st)

/-- An FP-to-integer conversion to the range lo … hi (R86); beyond hi in magnitude mode 4 acts as mode 0 (R80). -/
def toIntClamped (mode u : Nat) (sat : Bool) (lo hi : Int) : Ex → Int × Flags
  | .nan _ => (0, flNV)
  | .inf neg => (if neg then lo else hi, if sat then flSAT else flNV)
  | .fin neg m e st =>
    let (fl, rem, _, st') := splitAt m e st 0
    let above := decide (hi < (fl : Int)) || (decide ((fl : Int) = hi) && (rem != 0 || st'))
    let (n, inexact) := roundToInt (if mode == 4 && above then 0 else mode) u neg m e st
    if n < lo then (lo, if sat then flSAT else flNV)
    else if hi < n then (hi, if sat then flSAT else flNV)
    else (n, flIf inexact flNX)

/-! ## Exact operations (R83, R84) -/

def Ex.isNan : Ex → Bool | .nan _ => true | _ => false
def Ex.isSig : Ex → Bool | .nan b => b | _ => false
def Ex.isZero : Ex → Bool | .fin _ 0 _ false => true | _ => false
def Ex.signBit : Ex → Bool | .nan _ => false | .inf b => b | .fin b _ _ _ => b

/-- Change of sign. -/
def Ex.negate : Ex → Ex
  | .nan b => .nan b
  | .inf b => .inf !b
  | .fin b m e s => .fin (!b) m e s

/-- Signalling operands set NV (R83). -/
def sigFlags (xs : List Ex) : Flags := flIf (xs.any Ex.isSig) flNV

/-- The exact sum of two finite values; an exact zero is +0, or -0 under mode 2, unless both operands are zeros of one
sign. -/
def addFin (mode : Nat) (n1 : Bool) (m1 : Nat) (e1 : Int) (n2 : Bool) (m2 : Nat) (e2 : Int) : Ex :=
  let e := if e1 ≤ e2 then e1 else e2
  let i1 : Int := m1 * 2 ^ (e1 - e).toNat
  let i2 : Int := m2 * 2 ^ (e2 - e).toNat
  let i := (if n1 then -i1 else i1) + (if n2 then -i2 else i2)
  if i = 0 then .fin (if m1 = 0 && m2 = 0 && n1 == n2 then n1 else mode == 2) 0 0 false
  else .fin (i < 0) i.natAbs e false

/-- a + b, with NV for opposite infinities. -/
def Ex.add (mode : Nat) (a b : Ex) : Ex × Flags :=
  match a, b with
  | .nan s, b => (.nan false, flIf (s || b.isSig) flNV)
  | _, .nan s => (.nan false, flIf s flNV)
  | .inf x, .inf y => if x == y then (.inf x, 0) else (.nan false, flNV)
  | .inf x, _ => (.inf x, 0)
  | _, .inf y => (.inf y, 0)
  | .fin n1 m1 e1 _, .fin n2 m2 e2 _ => (addFin mode n1 m1 e1 n2 m2 e2, 0)

/-- a × b, with NV for 0 × ∞. -/
def Ex.mul (a b : Ex) : Ex × Flags :=
  match a, b with
  | .nan s, b => (.nan false, flIf (s || b.isSig) flNV)
  | _, .nan s => (.nan false, flIf s flNV)
  | .inf x, b => if b.isZero then (.nan false, flNV) else (.inf (x != b.signBit), 0)
  | a, .inf y => if a.isZero then (.nan false, flNV) else (.inf (a.signBit != y), 0)
  | .fin n1 m1 e1 _, .fin n2 m2 e2 _ => (.fin (n1 != n2) (m1 * m2) (e1 + e2) false, 0)

/-- a × b + c with the product negated and the addend negated on request, rounded later as one operation. A 0 × ∞ sets
NV even when c is a quiet NaN (R103, R137). -/
def Ex.fma (mode : Nat) (negP negC : Bool) (a b c : Ex) : Ex × Flags :=
  let (p, f1) := a.mul b
  let p := if negP then p.negate else p
  let c' := if negC then c.negate else c
  let (r, f2) := p.add mode c'
  (r, f1 ||| f2)

/-- a ÷ b: 0/0 and ∞/∞ set NV, a finite nonzero value by zero sets DZ (R83). -/
def Ex.div (a b : Ex) : Ex × Flags :=
  match a, b with
  | .nan s, b => (.nan false, flIf (s || b.isSig) flNV)
  | _, .nan s => (.nan false, flIf s flNV)
  | .inf _, .inf _ => (.nan false, flNV)
  | .inf x, .fin y _ _ _ => (.inf (x != y), 0)
  | .fin x _ _ _, .inf y => (.fin (x != y) 0 0 false, 0)
  | .fin n1 m1 e1 _, .fin n2 m2 e2 _ =>
    if m2 = 0 then if m1 = 0 then (.nan false, flNV) else (.inf (n1 != n2), flDZ)
    else if m1 = 0 then (.fin (n1 != n2) 0 0 false, 0)
    else
      let sh := Nat.log2 m2 + 160
      (.fin (n1 != n2) (m1 * 2 ^ sh / m2) (e1 - e2 - sh) (m1 * 2 ^ sh % m2 != 0), 0)

/-- The floor of the square root of a number, by bits from the top. -/
def natSqrt (n : Nat) : Nat :=
  let rec go : Nat → Nat → Nat
    | 0, r => r
    | k + 1, r => let r' := r + 2 ^ k; go k (if r' * r' ≤ n then r' else r)
  go (Nat.log2 n / 2 + 1) 0

/-- The square root of m·2^e in at least 100 bits with a sticky bit. -/
def sqrtFin (m : Nat) (e : Int) : Ex :=
  let sh : Nat := 240 + (if e % 2 = 0 then 0 else 1)
  let n := m * 2 ^ sh
  let r := natSqrt n
  .fin false r ((e - sh) / 2) (r * r != n)

/-- √a: NV below -0, √-0 = -0 (R83, R136). -/
def Ex.sqrt : Ex → Ex × Flags
  | .nan s => (.nan false, flIf s flNV)
  | .inf neg => if neg then (.nan false, flNV) else (.inf false, 0)
  | .fin neg m e _ =>
    if m = 0 then (.fin neg 0 0 false, 0) else if neg then (.nan false, flNV) else (sqrtFin m e, 0)

/-- 1/√a (R136): ±0 gives ±∞ with DZ, +∞ gives +0, below -0 NaN with NV. The root of 1/a is taken of a quotient with
many bits, so that its floor and its sticky bit are those of the exact value. -/
def Ex.rsqrt : Ex → Ex × Flags
  | .nan s => (.nan false, flIf s flNV)
  | .inf neg => if neg then (.nan false, flNV) else (.fin false 0 0 false, 0)
  | .fin neg m e _ =>
    if m = 0 then (.inf neg, flDZ)
    else if neg then (.nan false, flNV)
    else
      let sh : Nat := 320 + (if e % 2 = 0 then 0 else 1)
      let n := 2 ^ sh / m
      let r := natSqrt n
      (.fin false r ((-e - sh) / 2) (!(r * r == n && 2 ^ sh % m == 0)), 0)

/-- 1/a (R136): ±0 gives ±∞ with DZ, ±∞ gives ±0. -/
def Ex.rcp (a : Ex) : Ex × Flags := (Ex.fin false 1 0 false).div a

/-! ## Comparison and selection (R83, R84) -/

/-- The place of a non-NaN pattern in the order of values with -0 below +0 (R84). -/
def Fmt.ordKey (f : Fmt) (x : Nat) : Int := if f.neg x then -(f.mag x : Int) - 1 else f.mag x

/-- Equality of values; -0 equals +0; NV only for a signalling NaN. -/
def Fmt.eqVal (f : Fmt) (x y : Nat) : Bool × Flags :=
  if f.isNan x || f.isNan y then (false, flIf (f.isSig x || f.isSig y) flNV)
  else (f.ordKey x == f.ordKey y || (f.mag x == 0 && f.mag y == 0), 0)

/-- The ordered comparison <; NV for any NaN. -/
def Fmt.ltVal (f : Fmt) (x y : Nat) : Bool × Flags :=
  if f.isNan x || f.isNan y then (false, flNV) else (f.ordKey x < f.ordKey y, 0)

/-- The ordered comparison ≤; NV for any NaN. -/
def Fmt.leVal (f : Fmt) (x y : Nat) : Bool × Flags :=
  if f.isNan x || f.isNan y then (false, flNV) else (f.ordKey x ≤ f.ordKey y, 0)

/-- The smaller (or larger) of two patterns by R84: one NaN gives the other operand, two give the canonical NaN. -/
def Fmt.pick (f : Fmt) (largest : Bool) (x y : Nat) : Rounded :=
  let fl := flIf (f.isSig x || f.isSig y) flNV
  if f.isNan x then if f.isNan y then (f.nanPat, fl) else (y, fl)
  else if f.isNan y then (x, fl)
  else if largest then (if f.ordKey x < f.ordKey y then y else x, 0)
  else (if f.ordKey y < f.ordKey x then y else x, 0)

/-- One step of the stochastic generator (R80). -/
def genStep (g : BitVec 32) : BitVec 32 :=
  let g := g ^^^ (g <<< 13)
  let g := g ^^^ (g >>> 17)
  g ^^^ (g <<< 5)

/-- T[j] of R90: 2^(j/128) rounded to FP32, for j = 0 … 127. -/
def exp2Table : List Nat :=
  [0x3F800000, 0x3F80B1ED, 0x3F8164D2, 0x3F8218AF, 0x3F82CD87, 0x3F838359, 0x3F843A29, 0x3F84F1F6, 0x3F85AAC3, 0x3F866491, 0x3F871F62, 0x3F87DB35, 0x3F88980F, 0x3F8955EE, 0x3F8A14D5, 0x3F8AD4C6] ++
  [0x3F8B95C2, 0x3F8C57CA, 0x3F8D1ADF, 0x3F8DDF04, 0x3F8EA43A, 0x3F8F6A81, 0x3F9031DC, 0x3F90FA4D, 0x3F91C3D3, 0x3F928E72, 0x3F935A2B, 0x3F9426FF, 0x3F94F4F0, 0x3F95C3FF, 0x3F96942D, 0x3F97657D] ++
  [0x3F9837F0, 0x3F990B88, 0x3F99E046, 0x3F9AB62B, 0x3F9B8D3A, 0x3F9C6573, 0x3F9D3EDA, 0x3F9E196E, 0x3F9EF532, 0x3F9FD228, 0x3FA0B051, 0x3FA18FAF, 0x3FA27043, 0x3FA3520F, 0x3FA43516, 0x3FA51958] ++
  [0x3FA5FED7, 0x3FA6E595, 0x3FA7CD94, 0x3FA8B6D5, 0x3FA9A15B, 0x3FAA8D26, 0x3FAB7A3A, 0x3FAC6897, 0x3FAD583F, 0x3FAE4934, 0x3FAF3B79, 0x3FB02F0E, 0x3FB123F6, 0x3FB21A32, 0x3FB311C4, 0x3FB40AAF] ++
  [0x3FB504F3, 0x3FB60094, 0x3FB6FD92, 0x3FB7FBF0, 0x3FB8FBAF, 0x3FB9FCD2, 0x3FBAFF5B, 0x3FBC034A, 0x3FBD08A4, 0x3FBE0F68, 0x3FBF179A, 0x3FC0213B, 0x3FC12C4D, 0x3FC238D2, 0x3FC346CD, 0x3FC4563F] ++
  [0x3FC5672A, 0x3FC67991, 0x3FC78D75, 0x3FC8A2D8, 0x3FC9B9BE, 0x3FCAD226, 0x3FCBEC15, 0x3FCD078C, 0x3FCE248C, 0x3FCF4319, 0x3FD06334, 0x3FD184DF, 0x3FD2A81E, 0x3FD3CCF1, 0x3FD4F35B, 0x3FD61B5E] ++
  [0x3FD744FD, 0x3FD87039, 0x3FD99D16, 0x3FDACB94, 0x3FDBFBB8, 0x3FDD2D82, 0x3FDE60F5, 0x3FDF9613, 0x3FE0CCDF, 0x3FE2055B, 0x3FE33F89, 0x3FE47B6D, 0x3FE5B907, 0x3FE6F85B, 0x3FE8396A, 0x3FE97C38] ++
  [0x3FEAC0C7, 0x3FEC0719, 0x3FED4F30, 0x3FEE9910, 0x3FEFE4BA, 0x3FF13231, 0x3FF28177, 0x3FF3D290, 0x3FF5257D, 0x3FF67A41, 0x3FF7D0DF, 0x3FF9295A, 0x3FFA83B3, 0x3FFBDFED, 0x3FFD3E0C, 0x3FFE9E11]

/-- L[j] of R91: log2(1 + j/128) rounded to FP32, for j = 0 … 127. -/
def log2Table : List Nat :=
  [0x00000000, 0x3C37F286, 0x3CB73CB4, 0x3D08E68F, 0x3D35D69C, 0x3D626FD6, 0x3D8759C5, 0x3D9D517F, 0x3DB31FB8, 0x3DC8C50B, 0x3DDE4212, 0x3DF39761, 0x3E0462C4, 0x3E0EE68D, 0x3E19574F, 0x3E23B550] ++
  [0x3E2E00D2, 0x3E383A17, 0x3E42615F, 0x3E4C76E8, 0x3E567AF1, 0x3E606DB6, 0x3E6A4F72, 0x3E74205F, 0x3E7DE0B6, 0x3E83C857, 0x3E88983F, 0x3E8D602E, 0x3E92203D, 0x3E96D888, 0x3E9B8926, 0x3EA03232] ++
  [0x3EA4D3C2, 0x3EA96DF0, 0x3EAE00D2, 0x3EB28C7F, 0x3EB7110E, 0x3EBB8E96, 0x3EC0052B, 0x3EC474E4, 0x3EC8DDD4, 0x3ECD4012, 0x3ED19BB0, 0x3ED5F0C4, 0x3EDA3F60, 0x3EDE8797, 0x3EE2C97D, 0x3EE70525] ++
  [0x3EEB3A9F, 0x3EEF69FF, 0x3EF39355, 0x3EF7B6B4, 0x3EFBD42B, 0x3EFFEBCD, 0x3F01FED4, 0x3F0404E8, 0x3F060828, 0x3F08089E, 0x3F0A0650, 0x3F0C0146, 0x3F0DF989, 0x3F0FEF1F, 0x3F11E20F, 0x3F13D260] ++
  [0x3F15C01A, 0x3F17AB44, 0x3F1993E3, 0x3F1B7A00, 0x3F1D5DA0, 0x3F1F3ECA, 0x3F211D84, 0x3F22F9D5, 0x3F24D3C2, 0x3F26AB53, 0x3F28808C, 0x3F2A5374, 0x3F2C2411, 0x3F2DF268, 0x3F2FBE80, 0x3F31885C] ++
  [0x3F335004, 0x3F35157D, 0x3F36D8CB, 0x3F3899F5, 0x3F3A58FF, 0x3F3C15EE, 0x3F3DD0C8, 0x3F3F8991, 0x3F41404F, 0x3F42F506, 0x3F44A7BA, 0x3F465872, 0x3F480731, 0x3F49B3FB, 0x3F4B5ED7, 0x3F4D07C7] ++
  [0x3F4EAED0, 0x3F5053F7, 0x3F51F740, 0x3F5398AF, 0x3F553848, 0x3F56D60F, 0x3F587209, 0x3F5A0C3A, 0x3F5BA4A4, 0x3F5D3B4E, 0x3F5ED039, 0x3F60636A, 0x3F61F4E5, 0x3F6384AD, 0x3F6512C7, 0x3F669F35] ++
  [0x3F6829FB, 0x3F69B31E, 0x3F6B3A9F, 0x3F6CC083, 0x3F6E44CD, 0x3F6FC781, 0x3F7148A1, 0x3F72C832, 0x3F744636, 0x3F75C2B0, 0x3F773DA4, 0x3F78B714, 0x3F7A2F04, 0x3F7BA578, 0x3F7D1A71, 0x3F7E8DF2]
/-! ## VEXP2 and VLOG2 (R90, R91) -/

/-- FP32 value of a pattern. -/
def v32 (x : Nat) : Ex := fp32.value x

/-- `rne(a·b + c)` on FP32 patterns, flags dropped. -/
def rneFma (a b c : Ex) : Nat := (rne (Ex.fma 0 false false a b c).1).1

/-- The part of R90 before its last rounding: the exact value q·2^n for a finite x, and whether x is an integer. -/
def exp2Core (neg : Bool) (m : Nat) (e : Int) : Ex × Bool :=
  let num : Int := if neg then -(m : Int) else m
  -- n := floor(x) and f·2^s with s the fraction bits of x
  let s : Nat := (-e).toNat
  let n : Int := if 0 ≤ e then num * 2 ^ e.toNat else if Nat.log2 m + 64 < s then (if neg then -1 else 0) else num / 2 ^ s
  let far := !(0 ≤ e) && Nat.log2 m + 64 < s
  let f : Nat := if 0 ≤ e then 0 else if far then 0 else (num - n * 2 ^ s).toNat
  let j : Nat := if far then (if neg then 127 else 0) else f * 128 / 2 ^ s
  let r : Ex :=
    if 0 ≤ e then .fin false 0 0 false
    else if far then (if neg then addFin 0 false 1 (-7) true m e else .fin false m e false)
    else .fin false (f * 128 - j * 2 ^ s) (-(s : Int) - 7) false
  let t1 := rneFma r (v32 0x3D635847) (v32 0x3E75FDF0)
  let t2 := rneFma r (v32 t1) (v32 0x3F317218)
  let p := rneFma r (v32 t2) (v32 0x3F800000)
  let q := (rne ((v32 (exp2Table.getD j 0)).mul (v32 p)).1).1
  let exactInt := decide (0 ≤ e) || (!far && f == 0)
  (match v32 q with
   | .fin b qm qe st => .fin b qm (qe + n) st
   | x => x, exactInt)

/-- VEXP2 of one FP32 pattern (R90). -/
def exp2Fp (mode u : Nat) (x : Nat) : Rounded :=
  match fp32.value x with
  | .nan s => (fp32.nanPat, flIf s flNV)
  | .inf neg => (if neg then 0 else fp32.infMag, 0)
  | .fin neg m e _ =>
    if m = 0 then (0x3F800000, 0)
    else
      let (y, exactInt) := exp2Core neg m e
      let (r, fl) := fp32.rnd mode u false y
      (r, fl ||| flIf (!exactInt) flNX)

/-- `ex2` of R229: R90 with its last step rounded to nearest-even. -/
def ex2 (x : Nat) : Rounded := exp2Fp 0 0 x

/-- Q[j] of R91: 1 / (1 + j/128) rounded to FP32. -/
def log2Q (j : Nat) : Nat := (rne ((Ex.fin false 128 0 false).div (.fin false (128 + j) 0 false)).1).1

/-- VLOG2 of one FP32 pattern (R91). -/
def log2Fp (mode u : Nat) (x : Nat) : Rounded :=
  match fp32.value x with
  | .nan s => (fp32.nanPat, flIf s flNV)
  | .inf neg => if neg then (fp32.nanPat, flNV) else (fp32.infMag, 0)
  | .fin neg m e _ =>
    if m = 0 then (fp32.signPat true + fp32.infMag, flDZ)
    else if neg then (fp32.nanPat, flNV)
    else
      let b := Nat.log2 m
      let j := (m - 2 ^ b) * 128 / 2 ^ b
      let un := (m - 2 ^ b) * 128 - j * 2 ^ b
      let uv : Ex := .fin false un (-(b : Int) - 7) false
      let z := (rne (uv.mul (v32 (log2Q j))).1).1
      let t1 := rneFma (v32 z) (v32 0x3EF6384F) (v32 0xBF38AA3B)
      let t2 := rneFma (v32 z) (v32 t1) (v32 0x3FB8AA3B)
      let w := (rne ((v32 z).mul (v32 t2)).1).1
      let s := (rne ((v32 (log2Table.getD j 0)).add 0 (v32 w)).1).1
      let (y, _) := (Ex.ofInt (e + b)).add 0 (v32 s)
      let (r, fl) := fp32.rnd mode u false y
      (r, fl ||| flIf (m != 2 ^ b) flNX)

/-! ## Pairwise sums (R92) -/

/-- One level of R92: neighbours combined, an odd last value kept at the end. -/
def pairUp (f : Nat → Nat → Rounded) : List Nat → List Nat × Flags
  | x :: y :: rest =>
    let (z, fl) := f x y
    let (zs, fl') := pairUp f rest
    (z :: zs, fl ||| fl')
  | xs => (xs, 0)

/-- The levels of R92 until one value remains; +0 (here 0) of an empty list. A list of one value gives that value as it stands, a NaN too,
with no flag: step 3 of R92 performs no operation that R83 or R84 could speak of (DEDUCED, log 107). The fuel bounds the levels. -/
def pairReduce (f : Nat → Nat → Rounded) : Nat → List Nat → Rounded
  | _, [] => (0, 0)
  | _, [x] => (x, 0)
  | 0, x :: _ => (x, 0)
  | k + 1, xs =>
    let (ys, fl) := pairUp f xs
    let (r, fl') := pairReduce f k ys
    (r, fl ||| fl')

/-- The rounded sum of two patterns of a format; mode 4 acts as mode 0 (R81). -/
def Fmt.sum (f : Fmt) (mode : Nat) (x y : Nat) : Rounded :=
  let mode := if mode = 4 then 0 else mode
  let (e, fl) := (f.value x).add mode (f.value y)
  let (r, fl') := f.rnd mode 0 false e
  (r, fl ||| fl')

end Sys2Proof.Machine
end

