-- ==== Sys2Proof/Machine/Flags.lean ====
section
/-! DEFINITION. The sticky flags (R78, R83) and rounding in the vector stream (R80): every flag an instruction sets goes
through `setFlags`, every rounding under FRM through `vrnd`. -/

namespace Sys2Proof.Machine

/-- `setflag` of R18: OR flags into FFLAGS. -/
def setFlags (fl : Flags) : M Unit := modSys fun y => { y with fflags := y.fflags ||| fl }

/-- Under FRM mode 4 a call of `rnd` first advances G by one step (R80); the random word u of the call. -/
def stepGen (frm : BitVec 3) : M Nat := do
  if frm = 4 then
    modVec fun v => { v with gen := genStep v.gen }
    pure ((← getHart).vec.gen.toNat / 65536)
  else pure 0

/-- `rnd(x, T)` in the vector stream: rounds under FRM, sets the flags and gives the pattern (R18, R80). -/
def vrnd (frm : BitVec 3) (f : Fmt) (sat : Bool) (x : Ex) : M Nat := do
  let u ← stepGen frm
  let (r, fl) := f.rnd frm.toNat u sat x
  setFlags fl
  pure r

/-- A rounding to FP32 with ties to even whatever FRM is; its flags are set (R81). -/
def vrne (x : Ex) : M Nat := do
  let (r, fl) := rne x
  setFlags fl
  pure r

/-- A pattern with flags that are set. -/
def flagged (r : Rounded) : M Nat := do
  setFlags r.2
  pure r.1

end Sys2Proof.Machine
end

