-- ==== Sys2Proof/Machine/Operands.lean ====
section
/-! DEFINITION. Operands of the vector stream: element types (R22, R72), rows and windows (R23, R31), `elem`, `active`,
`opb`, `wr` and `masked` (R18), predicates, scale entries, the scratchpad (R192), the interlock table (R199), shape
records (R16, R153) and stream bindings (R194–R197), and `vrun`, which gives an entry its operands. -/

namespace Sys2Proof.Machine

/-! ## Element types -/

/-- Element width in bits (R22). -/
def widthOf (etype : Nat) : Nat :=
  if etype = 10 then 4
  else if etype = 3 || etype = 4 || etype = 5 then 32
  else if etype = 2 || etype = 6 || etype = 7 then 16
  else 8

/-- VLMAX of an element type (R22). -/
def vlmax (etype : Nat) : Nat := 32768 / widthOf etype

/-- INT8, INT16 and INT32: the integer types read as two's complement (R73). -/
def isSignedType (etype : Nat) : Bool := etype == 0 || etype == 2 || etype == 3
/-- The integer types 0–4. -/
def isIntType (etype : Nat) : Bool := etype < 5
/-- FP32, FP16 and BF16. -/
def isFpType (etype : Nat) : Bool := etype == 5 || etype == 6 || etype == 7

/-- An integer element by its type's sign (R135). -/
def intOf (etype x : Nat) : Int := if isSignedType etype then sextNat (widthOf etype) x else (x : Int)

/-- Range of an integer type. -/
def intMin (etype : Nat) : Int := if isSignedType etype then -(2 ^ (widthOf etype - 1) : Nat) else 0
def intMax (etype : Nat) : Int :=
  if isSignedType etype then (2 ^ (widthOf etype - 1) : Nat) - 1 else (2 ^ widthOf etype : Nat) - 1

/-- An integer taken to `w` bits. -/
def wrapBits (w : Nat) (x : Int) : Nat := (x % (2 ^ w : Nat)).toNat

def VConf.vlN (c : VConf) : Nat := c.vl.toNat
def VConf.rcN (c : VConf) : Nat := c.rc.toNat
def VConf.et (c : VConf) : Nat := c.etype.toNat
def VConf.width (c : VConf) : Nat := widthOf c.et
/-- RC·VL, the number of elements of a tile. -/
def VConf.count (c : VConf) : Nat := c.rcN * c.vlN
def VConf.est (c : VConf) : Nat := c.estart.toNat

/-! ## Rows -/

/-- WINF unless rows n … n+count-1 lie in the allotment; XVAL is the operand field value (R23, R31). -/
def checkRowsAs (c : VConf) (n field : BitVec 7) (count : Nat) : M Unit := do
  let h ← getHart
  trapIf (127 < n.toNat + count - 1 || h.sys.rowsN.toNat ≤ c.vwb.toNat + n.toNat + count - 1) .winf (field.zeroExtend 64)

def checkRows (c : VConf) (n : BitVec 7) (count : Nat) : M Unit := checkRowsAs c n n count

/-- WINF for rows reckoned past the last name: rows first … first+count-1 of the operand `field`, as numbers. -/
def checkRowsNat (c : VConf) (first count : Nat) (field : BitVec 7) : M Unit := do
  let h ← getHart
  trapIf (127 < first + count - 1 || h.sys.rowsN.toNat ≤ c.vwb.toNat + first + count - 1) .winf (field.zeroExtend 64)

/-- WINF unless a tile name is inside the allotment (R31). -/
def checkTile (n : Nat) : M Unit := do
  let h ← getHart
  trapIf (h.sys.tilesN.toNat ≤ n) .winf (BitVec.ofNat 64 n)

/-- Byte `off` of row `row` of the allotment: its key in the row file. -/
def rowKey (row off : Nat) : Nat := row * 4096 + off

/-- The binding whose row is a physical row. -/
def streamAt (v : VecRegs) (row : Nat) : Option (Nat × Stream) :=
  v.streams.findSome? fun p => match p.2 with
    | some st => if st.row.toNat = row then some (p.1, st) else none
    | none => none

/-- Key of byte `off` of row `t` of the strip in a slot. -/
def stripKey (slot t off : Nat) : Nat := (slot * 128 + t) * 4096 + off

/-- Byte `off` of row `t` of the tile named n, given as a number: of the strip where the row is a bound input row, else of the row
(R194, R234). A byte that the strip does not reach has a free value (log 12). -/
def tileByte (v : VecRegs) (vwb n t off : Nat) : Byte :=
  match streamAt v (vwb + n) with
  | some (slot, st) => (sparseGet none v.strips (stripKey slot t off)).getD (Config.stripRest st.record st.pos (rowKey t off))
  | none => sparseGet 0 v.rows (rowKey (vwb + n + t) off)

/-- The `w`-bit element at position `i` of row `t` of the tile named n (R74). -/
def tileElem (v : VecRegs) (vwb n t i w : Nat) : Nat :=
  if w = 4 then
    let b := (tileByte v vwb n t (i / 2)).toNat
    if i % 2 = 0 then b % 16 else b / 16
  else leNat ((List.range (w / 8)).map fun k => tileByte v vwb n t (i * (w / 8) + k))

/-- `elem(n, j)` at width `w` (R18), read from the rows as they stood: an entry reads its sources before it writes (R128). -/
def VecRegs.elW (v : VecRegs) (c : VConf) (n : BitVec 7) (w j : Nat) : Nat :=
  tileElem v c.vwb.toNat n.toNat (j / c.vlN) (j % c.vlN) w

/-- `elem(n, j)` at ETYPE. -/
def VecRegs.el (v : VecRegs) (c : VConf) (n : BitVec 7) (j : Nat) : Nat := v.elW c n c.width j

/-- Clear the order word of a row (R18, R39). -/
def clearOrder (row : Nat) : M Unit := modVec fun v => { v with order := sparsePut 0 v.order row 0 }

/-- Write one element of a physical row: the bytes, the dirty bit, the high-water mark and the order word (R18, R38);
the write clears an error mark (R330). -/
def putElem (v : VecRegs) (row i w x : Nat) : VecRegs :=
  let z := w / 8
  let off := if w = 4 then i / 2 else i * z
  let old := (sparseGet 0 v.rows (rowKey row off)).toNat
  let bytes : List Byte :=
    if w = 4 then [BitVec.ofNat 8 (if i % 2 = 0 then old / 16 * 16 + x % 16 else old % 16 + x % 16 * 16)]
    else leBytes z x
  let last := off + bytes.length
  { v with
    rows := sparsePutList 0 v.rows (rowKey row off) bytes
    dirty := sparsePut false v.dirty row true
    high := sparsePut 0 v.high row (Nat.max (sparseGet 0 v.high row) last)
    order := sparsePut 0 v.order row 0
    badRows := v.badRows.filter fun p => p < rowKey row off || rowKey row last ≤ p }

/-- The row that serves row `t` of the rows named from n on: the first row of the tile of RC rows that it lies in (R23). -/
def tileStart (c : VConf) (n t : Nat) : Nat := n + t / c.rcN * c.rcN

/-- Key of four bits of the strip that an output slot collects, counted in fours of bits within a row. -/
def outKey (slot t k : Nat) : Nat := (slot * 128 + t) * 8192 + k

/-- Collect a `w`-bit element at position `i` of row `t` of an output slot's strip. -/
def putOut (v : VecRegs) (slot t i w x : Nat) : VecRegs :=
  { v with outs := (List.range (w / 4)).foldl (fun m k =>
      sparsePut none m (outKey slot t (i * (w / 4) + k)) (some (x / 16 ^ k % 16))) v.outs }

/-- The element that a slot has collected at position `i` of row `t`, where every part of it was written. -/
def outElem (v : VecRegs) (slot t i w : Nat) : Option Nat :=
  (List.range (w / 4)).foldr (fun k acc => do
    let y ← acc
    let x ← sparseGet none v.outs (outKey slot t (i * (w / 4) + k))
    pure (16 * y + x)) (some 0)

/-- Write position `i` of row `t` of the rows named from n on; where the row's tile is a bound output row, its stream collects the
element (R195). -/
def wrAt (c : VConf) (n t i w x : Nat) : M Unit := modVec fun v =>
  match streamAt v (c.vwb.toNat + tileStart c n t) with
  | some (slot, _) => putOut v slot (t % c.rcN) i w (x % 2 ^ w)
  | none => putElem v (c.vwb.toNat + n + t) i w (x % 2 ^ w)

/-- `wr(n, j, x)` at width `w` (R18). -/
def wrW (c : VConf) (n w j x : Nat) : M Unit := wrAt c n (j / c.vlN) (j % c.vlN) w x

/-- `wr(n, j, x)` at ETYPE. -/
def wr (c : VConf) (n j x : Nat) : M Unit := wrW c n c.width j x

/-- The rest of `masked` for row `t` of the rows named from n on: the row's order word is cleared (R18). -/
def clearAt (c : VConf) (n t : Nat) : M Unit := do
  match streamAt (← getHart).vec (c.vwb.toNat + tileStart c n t) with
  | some _ => pure ()
  | none => clearOrder (c.vwb.toNat + n + t)

/-- `masked(n, j)` at width `w` (R18, R130): zero under MASKMODE 1, else only the order word is cleared. -/
def maskedW (c : VConf) (n w j : Nat) : M Unit := do
  if j < c.est then pure ()
  else if c.maskmode = 1 then wrW c n w j 0
  else clearAt c n (j / c.vlN)

def masked (c : VConf) (n j : Nat) : M Unit := maskedW c n c.width j

/-- Predicate p (R20). -/
def predOf (v : VecRegs) (p : Nat) : BitVec 1024 := sparseGet 0 v.preds p

def readPred (p : Nat) : M (BitVec 1024) := do pure (predOf (← getHart).vec p)
def writePred (p : Nat) (x : BitVec 1024) : M Unit := modVec fun v => { v with preds := sparsePut 0 v.preds p x }

/-- Bits 0 … n-1 set. -/
def lowOnes (n : Nat) : BitVec 1024 := BitVec.ofNat 1024 (2 ^ n - 1)

/-- Number of set bits of a predicate among positions 0 … n-1. -/
def popBelow (p : BitVec 1024) (n : Nat) : Nat := (List.range n).countP fun i => p.getLsbD i

/-- `active(j)` (R18), given the predicate that PSEL names. -/
def activeIn (c : VConf) (m : BitVec 1) (p : BitVec 1024) (j : Nat) : Bool :=
  decide (c.est ≤ j) && (m == 0 || p.getLsbD (j % c.vlN))

/-- The same with ESTART taken as 0 (R165, R259, R270). -/
def activeFrom0 (c : VConf) (m : BitVec 1) (p : BitVec 1024) (j : Nat) : Bool := m == 0 || p.getLsbD (j % c.vlN)

/-- The predicate that PSEL named at dispatch. -/
def pselPred (c : VConf) : M (BitVec 1024) := readPred c.psel.toNat

/-- MATF when VL exceeds the 1,024 positions of a predicate (R129, R132). -/
def needPredVl (c : VConf) : M Unit := trapIf (1024 < c.vlN) .matf (BitVec.ofNat 64 c.vlN)

/-- The same for an instruction with M = 1. -/
def maskVl (c : VConf) (m : BitVec 1) : M Unit := if m = 1 then needPredVl c else pure ()

/-- Entry e of scale register x (R75). -/
def scaleAt (v : VecRegs) (x e : Nat) : BitVec 16 := sparseGet 0 v.scales (x * 256 + e)
def putScale (x e : Nat) (s : BitVec 16) : M Unit :=
  modVec fun v => { v with scales := sparsePut 0 v.scales (x * 256 + e) s }

/-- Element (m, n) of a tile (R191). -/
def tileAt (v : VecRegs) (a m n : Nat) : Nat := (sparseGet 0 v.tiles (a * 16384 + m * 128 + n)).toNat
/-- Write an element of a tile; the write clears an error mark (R330). -/
def putTile (a m n x : Nat) : M Unit := modVec fun v => { v with
  tiles := sparsePut 0 v.tiles (a * 16384 + m * 128 + n) (BitVec.ofNat 32 x)
  badTiles := v.badTiles.filter fun i => i != a * 16384 + m * 128 + n }

/-- MCE for an error mark among elements (m, n) of a tile, m below `rows` and n below `cols`, that an instruction reads (R212); XVAL is
the tile's number (log 86). -/
def tileErrors (a rows cols : Nat) : M Unit := do
  let v := (← getHart).vec
  trapIf (v.badTiles.any fun i => i / 16384 == a && i % 16384 / 128 < rows && i % 128 < cols) .mce (BitVec.ofNat 64 a)

/-! ## Progress of the executing entry -/

/-- The executing entry resumes at element k (R44, R45). -/
def setProgress (k : Nat) : M Unit := modHart fun h =>
  match h.vq with
  | e :: es => { h with vq := { e with cfg := { e.cfg with estart := BitVec.ofNat 18 k } } :: es }
  | [] => h

/-- Perform element k: a trap or a block there leaves ESTART at k (R150). -/
def atElem (k : Nat) (m : M Unit) : M Unit := do
  match ← attempt m with
  | .ok _ => pure ()
  | .error st => do setProgress k; throw st

/-- `deliver(q4, x)` (R18, R28): a full queue blocks. -/
def deliver (x : Word) : M Unit := do
  let h ← getHart
  let q := sparseGet [] h.queues 4
  if 8 ≤ q.length then block else modHart fun h => { h with queues := sparsePut [] h.queues 4 (q ++ [x]) }

/-- q4 has room for one value; an entry that delivers one value blocks before it changes anything. -/
def needRoom : M Unit := do
  let h ← getHart
  if 8 ≤ (sparseGet [] h.queues 4).length then block else pure ()

/-- Deliver the values of a list one at a time, from value ESTART on (R415). -/
def deliverAll (from' : Nat) (xs : List Word) : M Unit :=
  forN xs.length fun i => if i < from' then pure () else atElem i (deliver (xs.getD i 0))

/-! ## The interlock table (R199) -/

/-- An outstanding transfer of a hart covers a granule of the bytes lo … lo+size-1 so that an access stalls: a read on a destination
granule, a write on a source or a destination granule. -/
def lockHit (locks : List Interlock) (hart : Nat) (sp : Bool) (lo size : Nat) (write : Bool) : Bool :=
  let g0 := lo / 4096
  let g1 := (lo + size - 1) / 4096
  locks.any fun k =>
    k.hart == hart && ((k.dstSp == sp && k.dstLo ≤ g1 && g0 ≤ k.dstHi) ||
      (write && k.srcSp == sp && k.srcLo ≤ g1 && g0 ≤ k.srcHi))

/-- A vector-agent access of bytes lo … lo+size-1 stalls on the outstanding transfers of its hart. -/
def stallOn (sp : Bool) (lo size : Nat) (write : Bool) : M Unit := do
  let s ← get
  if lockHit s.myCore.locks s.id sp lo size write then stall else pure ()

/-- A global read of the vector agent: ALIGN, interlock, then `rdmem` (R149, R199). -/
def vread (g : Agent) (a : Word) (z : Nat) : M Nat := do
  trapIf (a.toNat % z != 0) .align a
  stallOn false a.toNat z false
  rdmem g a z

/-- A global write of the vector agent. -/
def vwrite (g : Agent) (a : Word) (z x : Nat) : M Unit := do
  trapIf (a.toNat % z != 0) .align a
  stallOn false a.toNat z true
  wrmem g a z x

/-! ## The scratchpad (R192, R203, R262) -/

/-- The core and the offset that a scratchpad address names (R192). -/
def spTarget (s : State) (a : Nat) : Nat × Nat :=
  (if bitOf a 23 then coreOf s.id else quadOf s.id * 4 + bitsOf a 22 21, bitsOf a 20 0)

/-- Scratchpad size of a core: 64 KiB · SPB (R189, R192). -/
def spSize (k : Core) : Nat := bitsOf k.part.toNat 13 8 * 65536

/-- Size of the area of a keyed region in bytes, rounded up to 4 KiB (R203). -/
def keyedSize (bits : Nat) : Nat := (33 * (2 ^ bits + 2 ^ (bits - 3)) + 4095) / 4096 * 4096

/-- The handle of the claimed region that bytes off … off+size-1 of a core reach. -/
def claimedAt (k : Core) (off size : Nat) : Option Nat :=
  k.keyed.findSome? fun p => match p.2 with
    | some r => if r.base < off + size && off < r.base + keyedSize r.bits then some p.1 else none
    | none => none

/-- The checks of an access of `size` bytes at a scratchpad address (R192, R210, R212, R262): a message waits while the target core
is repartitioned, the range is that of the core's partition, and a fenced core raises MCE; `plain` accesses may not reach a
claimed area. The core and the offset. -/
def spCheck (a : Word) (size : Nat) (plain : Bool) : M (Nat × Nat) := do
  let s ← get
  trapIf (a.toNat / 2 ^ 24 != 0) .prot a
  let (c, off) := spTarget s a.toNat
  let k := s.core c
  if (!bitOf a.toNat 23 || c != coreOf s.id) && k.moving.isSome then stall
  trapIf (spSize k < off + size) .prot a
  trapIf k.fenced .mce a
  match (if plain then claimedAt k off size else none) with
  | some h => trap .keyf (BitVec.ofNat 64 (h + 64))
  | none => pure (c, off)

/-- Bytes of a core's scratchpad as a number. -/
def State.spNat (s : State) (c off n : Nat) : Nat := leNat (sparseGetList 0 (s.core c).sp off n)

/-- Write a number of n bytes to a core's scratchpad; the write clears poison marks (R330). -/
def State.putSp (s : State) (c off n x : Nat) : State :=
  let k := s.core c
  s.setCore c { k with
    sp := sparsePutList 0 k.sp off (leBytes n x)
    spPoison := k.spPoison.filter fun p => p < off || off + n ≤ p }

/-- MCE when a byte of a scratchpad span is poisoned (R212, R330). -/
def spPoisonCheck (c off n : Nat) (a : Word) : M Unit := do
  let s ← get
  trapIf ((s.core c).spPoison.any fun p => off ≤ p && p < off + n) .mce a

/-- A plain scratchpad read of the vector agent: ALIGN first, then R192, the interlock and poison. -/
def spRead (a : Word) (z : Nat) : M Nat := do
  trapIf (a.toNat % z != 0) .align a
  let (c, off) ← spCheck a z true
  stallOn true (c * 2 ^ 21 + off) z false
  spPoisonCheck c off z a
  pure ((← get).spNat c off z)

/-- A plain scratchpad write of the vector agent. -/
def spWrite (a : Word) (z x : Nat) : M Unit := do
  trapIf (a.toNat % z != 0) .align a
  let (c, off) ← spCheck a z true
  stallOn true (c * 2 ^ 21 + off) z true
  modify fun s => s.putSp c off z x

/-- Write one half of the byte at a global address (R74, R152): the other half is kept. -/
def nibbleWrite (g : Agent) (a : Word) (high : Bool) (x : Nat) : M Unit := do
  stallOn false a.toNat 1 true
  let pa ← translateAt (← privNow) .store g a 1
  let old := ((← get).byteAt pa).toNat
  storeAt a pa 1 (if high then old % 16 + x % 16 * 16 else old / 16 * 16 + x % 16)

/-- Write one half of the byte at a scratchpad address. -/
def spNibbleWrite (a : Word) (high : Bool) (x : Nat) : M Unit := do
  let (c, off) ← spCheck a 1 true
  stallOn true (c * 2 ^ 21 + off) 1 true
  modify fun s =>
    let old := s.spNat c off 1
    s.putSp c off 1 (if high then old % 16 + x % 16 * 16 else old / 16 * 16 + x % 16)

/-- An access of either space: true names the scratchpad. -/
def spaceRead (sp : Bool) (a : Word) (z : Nat) : M Nat := if sp then spRead a z else vread .other a z
def spaceWrite (sp : Bool) (a : Word) (z x : Nat) : M Unit := if sp then spWrite a z x else vwrite .other a z x

/-! ## Shape records (R16, R153, R154) -/

/-- Element i of a record as a number. -/
def recW (r : List (BitVec 32)) (i : Nat) : Nat := (r.getD i 0).toNat
def recBase (r : List (BitVec 32)) : Word := BitVec.ofNat 64 (recW r 0 + 2 ^ 32 * recW r 1)
def recType (r : List (BitVec 32)) : Nat := bitsOf (recW r 2) 3 0
def recRank (r : List (BitVec 32)) : Nat := bitsOf (recW r 2) 6 4
def recScratch (r : List (BitVec 32)) : Bool := bitsOf (recW r 2) 9 8 == 1
def recPad (r : List (BitVec 32)) : Bool := bitsOf (recW r 11) 9 8 == 1
/-- Elements of the shape: e3·e4·e5·e6. -/
def recN (r : List (BitVec 32)) : Nat := recW r 3 * recW r 4 * recW r 5 * recW r 6

/-- The number of the first offending element of a record whose type is refused or not (R153, R154). -/
def recFault (typeBad : Bool) (r : List (BitVec 32)) : Option Nat :=
  let e2 := recW r 2
  let rank := recRank r
  if typeBad || rank < 1 || 4 < rank || 2 ≤ bitsOf e2 9 8 || bitsOf e2 31 10 != 0 || bitOf e2 7 then some 2
  else findFrom 13 3 fun i =>
    if i ≤ 6 then recW r i == 0 || (rank ≤ i - 3 && recW r i != 1)
    else if i ≤ 10 then rank ≤ i - 7 && recW r i != 0
    else if i = 11 then 2 ≤ bitsOf (recW r 11) 9 8 || bitsOf (recW r 11) 31 10 != 0 || bitsOf (recW r 11) 7 5 != 0
    else if i = 12 then false
    else recW r i != 0

/-- The offending element under R153: the type must be the one given, where one is given (R242 omits that comparison), and not 10. -/
def recBad (type : Option Nat) (r : List (BitVec 32)) : Option Nat :=
  recFault (recType r == 10 || match type with | some x => recType r != x | none => 12 ≤ recType r) r

/-- The offending element under R234, which accepts every type 0–11. -/
def bindBad (r : List (BitVec 32)) : Option Nat := recFault (12 ≤ recType r) r

/-- Address of element j of a shape (R153); 4-bit elements are addressed by their byte (R74). -/
def recAddr (r : List (BitVec 32)) (j : Nat) : Word :=
  let x0 := j % recW r 3
  let j1 := j / recW r 3
  let x1 := j1 % recW r 4
  let j2 := j1 / recW r 4
  let x2 := j2 % recW r 5
  let x3 := j2 / recW r 5
  let st := fun i => sextNat 32 (recW r i)
  let off : Int := x0 * st 7 + x1 * st 8 + x2 * st 9 + x3 * st 10
  let w := widthOf (recType r)
  recBase r + BitVec.ofInt 64 (if w = 4 then off / 2 else off * (w / 8 : Nat))

/-- The element offset of element j, whose low bit picks the nibble of a 4-bit element (R74). -/
def recNibble (r : List (BitVec 32)) (j : Nat) : Bool :=
  let st := fun i => sextNat 32 (recW r i)
  let j1 := j / recW r 3
  let j2 := j1 / recW r 4
  let off : Int := (j % recW r 3 : Nat) * st 7 + (j1 % recW r 4 : Nat) * st 8 + (j2 % recW r 5 : Nat) * st 9 +
    (j2 / recW r 5 : Nat) * st 10
  off % 2 == 1

/-- Read element j of the tensor that a record describes. -/
def recRead (r : List (BitVec 32)) (j : Nat) : M Nat := do
  let w := widthOf (recType r)
  let x ← spaceRead (recScratch r) (recAddr r j) (if w = 4 then 1 else w / 8)
  pure (if w = 4 then if recNibble r j then x / 16 else x % 16 else x)

/-- Write element j of the tensor that a record describes. -/
def recWrite (r : List (BitVec 32)) (j x : Nat) : M Unit := do
  let w := widthOf (recType r)
  if w = 4 then
    if recScratch r then spNibbleWrite (recAddr r j) (recNibble r j) x
    else nibbleWrite .other (recAddr r j) (recNibble r j) x
  else spaceWrite (recScratch r) (recAddr r j) (w / 8) x

/-- Elements 0–15 of row n as 32-bit words, whatever ETYPE is (R153, R234). -/
def rowRecord (c : VConf) (n : BitVec 7) : M (List (BitVec 32)) := do
  let v := (← getHart).vec
  pure ((List.range 16).map fun i => BitVec.ofNat 32 (tileElem v c.vwb.toNat n.toNat 0 i 32))

/-! ## Streams (R194–R197, R232) -/

/-- STRF with a reason: XVAL is the field value + 256 × reason (R232). -/
def strf {α : Type} (field reason : Nat) : M α := trap .strf (BitVec.ofNat 64 (field + 256 * reason))

/-- Put a binding into its slot. -/
def putStream (slot : Nat) (st : Option Stream) : M Unit :=
  modVec fun v => { v with streams := sparsePut none v.streams slot st }

/-- Raise STRF for a recorded fault (R196, R239), or MCE for an uncorrectable error that a refill met (R212): XVAL is the element's
address, and the record is no longer pending, so the requeued instruction tries the element again. -/
def raiseStream {α : Type} (slot : Nat) (st : Stream) (f : ElemFault) : M α := do
  putStream slot (some { st with fault := none })
  trap (if f.cause = .mce && !st.out then .mce else .strf) f.addr

/-- Read the elements from…from+n-1 of an input stream: those the buffer holds, the rest from memory. A refill that faults
is recorded against its element (R196); so is one that reaches a claimed area, of which R203 does not say how it is reported: it counts
as a fault of the refill, with the element's address (DEDUCED, log 104). The elements below the fault. -/
def fetchStrip (st : Stream) : Nat → Nat → M (List Nat × Option ElemFault)
  | 0, _ => pure ([], none)
  | n + 1, j =>
    if recN st.record ≤ j then pure ([], none)
    else do
      let x ← (match st.buffer[j - st.pos]? with
        | some x => pure (Except.ok x.toNat)
        | none => match st.fault with
          | some f => if f.idx ≤ j then pure (.error (.trap f.cause f.addr)) else attempt (recRead st.record j)
          | none => attempt (recRead st.record j))
      match x with
      | .ok x => do
        let (xs, f) ← fetchStrip st n (j + 1)
        pure (x :: xs, f)
      | .error (.trap c a) => pure ([], some ⟨j, c, if c = .keyf then recAddr st.record j else a⟩)
      | .error st => throw st

/-- Fill the strip of a slot: element j of the list stands at flat position j of a tile of rows of `vl` elements. -/
def fillStrip (slot vl w : Nat) (xs : List Nat) : M Unit := modVec fun v =>
  let filled := (List.range xs.length).foldl (fun r j => putElem r (j / vl) (j % vl) w (xs.getD j 0)) VecRegs.reset
  let bytes := (List.range xs.length).flatMap fun j =>
    let off := if w = 4 then j % vl / 2 else j % vl * (w / 8)
    (List.range (if w = 4 then 1 else w / 8)).map fun k => (j / vl, off + k)
  { v with strips := bytes.foldl (fun m p =>
      sparsePut none m (stripKey slot p.1 p.2) (some (sparseGet 0 filled.rows (rowKey p.1 p.2)))) v.strips }

/-- Bytes of a stream buffer: 2·SBB KiB (R194). -/
def streamBytes (k : Core) : Nat := 2048 * bitsOf k.part.toNat 29 24

/-- Elements that the buffer of a stream holds (R194). -/
def streamRoom (k : Core) (st : Stream) : Nat := streamBytes k * 8 / widthOf (recType st.record)

/-- Index of the first appended element that an output stream still holds. -/
def Stream.next (st : Stream) : Nat := st.pos - st.buffer.length

/-- Perform the first held element of an output stream; a fault is recorded against it (R239). True when it was performed. -/
def writeNext (slot : Nat) (st : Stream) : M (Stream × Bool) := do
  match st.buffer with
  | [] => pure (st, false)
  | x :: xs =>
    match ← attempt (recWrite st.record st.next x.toNat) with
    | .ok _ => do
      let st := { st with buffer := xs }
      putStream slot (some st)
      pure (st, true)
    | .error (.trap c a) => do
      let a := if c = .keyf then recAddr st.record st.next else a
      let st := { st with fault := some ⟨st.next, c, a⟩ }
      putStream slot (some st)
      pure (st, false)
    | .error e => throw e

/-- Perform held elements of an output stream in stream order until at most `room` are left or one faults. The fuel is their
number. -/
def drainTo (slot room : Nat) : Nat → Stream → M Stream
  | 0, st => pure st
  | n + 1, st => do
    if st.buffer.length ≤ room then pure st
    else
      let (st', more) ← writeNext slot st
      if more then drainTo slot room n st' else pure st'

/-- Make room for `n` elements in an output stream's buffer (R177, R194): what it holds is performed first, and a fault met or recorded
raises STRF (R239). -/
def streamRoomFor (slot : Nat) (st : Stream) (n : Nat) : M Stream := do
  match st.fault with
  | some f => raiseStream slot st f
  | none => do
    let st ← drainTo slot (streamRoom (← get).myCore st - n) st.buffer.length st
    match st.fault with
    | some f => raiseStream slot st f
    | none => pure st

/-- How an operand uses its rows: as a source, a destination, or both. -/
inductive Use where
  | src | dst | both
deriving DecidableEq, Repr

/-- An operand: the field value, the first row, the number of rows, its use, how many strips of RC·VL elements its rows hold, and
the bytes of each row that it reads. -/
structure Opnd where
  field : BitVec 7
  first : Nat
  rows : Nat
  use : Use
  strips : Nat := 1
  span : Nat := 4096

/-- Bytes that the VL elements of a row take. -/
def VConf.span (c : VConf) : Nat := (c.vlN * c.width + 7) / 8

/-- A source tile, a destination tile, and a tile both read and written, of RC rows. -/
def Opnd.src (c : VConf) (n : BitVec 7) : Opnd := ⟨n, n.toNat, c.rcN, .src, 1, c.span⟩
def Opnd.dst (c : VConf) (n : BitVec 7) : Opnd := ⟨n, n.toNat, c.rcN, .dst, 1, 0⟩
def Opnd.both (c : VConf) (n : BitVec 7) : Opnd := ⟨n, n.toNat, c.rcN, .both, 1, c.span⟩
/-- Tile number `k` of RC rows that belongs to the operand n: further rows that an entry names (R23). -/
def Opnd.srcAt (c : VConf) (n : BitVec 7) (k : Nat) : Opnd := ⟨n, n.toNat + k * c.rcN, c.rcN, .src, 1, c.span⟩
def Opnd.dstAt (c : VConf) (n : BitVec 7) (k : Nat) : Opnd := ⟨n, n.toNat + k * c.rcN, c.rcN, .dst, 1, 0⟩
/-- Rows first … first+count-1 that belong to the operand n (R23), read or written as whole rows. -/
def Opnd.rawIn (n : BitVec 7) (first count : Nat) : Opnd := ⟨n, first, count, .src, 1, 4096⟩
def Opnd.rawOut (n : BitVec 7) (first count : Nat) : Opnd := ⟨n, first, count, .dst, 1, 0⟩

/-- The misuse check of one operand (R196, R239): STRF, XVAL the field value. A later row of an operand that no stream serves must not
be bound either: its storage is neither read nor written (R234, log 34). -/
def checkUse (c : VConf) (et : Nat) (n : Nat) (o : Opnd) : M Unit := do
  let v := (← getHart).vec
  match streamAt v (c.vwb.toNat + o.first) with
  | none => do
    if (List.range o.rows).any fun t => (streamAt v (c.vwb.toNat + o.first + t)).isSome then strf o.field.toNat 0
  | some (slot, st) =>
    let bad := match o.use with
      | .src => st.out
      | .dst => !st.out || recN st.record < st.pos + (n * o.strips - c.est)
      | .both => true
    if bad || recType st.record != et then strf o.field.toNat 0
    else match st.out, st.fault with
      | true, some f => raiseStream slot st f
      | _, _ => pure ()

/-- The buffer of a stream in which an uncorrectable error was met: what an input buffer holds is fetched again; the elements of an output
buffer are lost, and free values stand in their places (R212, log 86). -/
def spoilBuffer (slot : Nat) (st : Stream) : M Unit := do
  let xs ← if st.out then mapFrom st.buffer.length 0 fun _ => do
      pure (BitVec.ofNat 32 ((← freeWord).toNat % 2 ^ widthOf (recType st.record)))
    else pure []
  putStream slot (some { st with bad := false, buffer := xs })

/-- MCE for an uncorrectable error in the buffer of a stream (R212), with the row's number as XVAL. -/
def loseBuffer {α : Type} (slot : Nat) (st : Stream) : M α := do
  spoilBuffer slot st
  trap .mce (BitVec.ofNat 64 st.row.toNat)

/-- MCE for an uncorrectable error that the entry would read (R212): in a row of a source, with the row's number as XVAL, or in
the buffer of a stream. -/
def checkErrors (c : VConf) (o : Opnd) : M Unit := do
  let v := (← getHart).vec
  let row := c.vwb.toNat + o.first
  match streamAt v row with
  | some (slot, st) =>
    if st.bad then do
      loseBuffer slot st
  | none =>
    if o.use = .dst then pure ()
    else match (List.range o.rows).find? fun t =>
        v.badRows.any fun p => rowKey (row + t) 0 ≤ p && p < rowKey (row + t) o.span with
      | some t => trap .mce (BitVec.ofNat 64 (row + t))
      | none => pure ()

/-- Room in the buffer of a destination's stream for the elements that the entry will append (R194). -/
def needStreamRoom (c : VConf) (n : Nat) (o : Opnd) : M Unit := do
  match o.use, streamAt (← getHart).vec (c.vwb.toNat + o.first) with
  | .dst, some (slot, st) => do let _ ← streamRoomFor slot st (n * o.strips - c.est); pure ()
  | _, _ => pure ()

/-- Fetch the strip of a source operand whose row is a bound input row (R195): STRF when a refill fault lies inside it
(R196). Positions past the end take the pad value when the record pads. -/
def loadStrip (c : VConf) (w n : Nat) (o : Opnd) : M Unit := do
  let h ← getHart
  match o.use, streamAt h.vec (c.vwb.toNat + o.first) with
  | .src, some (slot, st) => do
    let (xs, f) ← fetchStrip st (n * o.strips) st.pos
    match f with
    | some f => raiseStream slot st f
    | none =>
      let pad := if recPad st.record then List.replicate (n * o.strips - xs.length) (recW st.record 12 % 2 ^ w) else []
      fillStrip slot c.vlN w (xs ++ pad)
  | _, _ => pure ()

/-- How many elements of a source tile are real: positions at and above take the pad value or pass through `masked`
(R195); `none` where every position is. -/
def stripLen (v : VecRegs) (c : VConf) (n : BitVec 7) : Option Nat :=
  match streamAt v (c.vwb.toNat + n.toNat) with
  | some (_, st) => if st.out || recPad st.record then none else some (recN st.record - st.pos)
  | none => none

/-- Position `j` of a source tile lies inside its strip. -/
def inStrip (v : VecRegs) (c : VConf) (n : BitVec 7) (j : Nat) : Bool :=
  match stripLen v c n with
  | some k => j < k
  | none => true

/-- Position `j` of a source tile lies past the end of a stream that pads: it holds the pad value and sets no flag (R19, R195). -/
def padded (v : VecRegs) (c : VConf) (n : BitVec 7) (j : Nat) : Bool :=
  match streamAt v (c.vwb.toNat + n.toNat) with
  | some (_, st) => !st.out && recPad st.record && recN st.record - st.pos ≤ j
  | none => false

/-- Consume the strip of an input slot, once: POS advances, the buffer loses what was taken. -/
def consume (n : Nat) (st : Stream) : Stream :=
  let p := Nat.min (st.pos + n) (recN st.record)
  { st with
    pos := p
    buffer := st.buffer.drop (p - st.pos)
    bad := st.bad && p - st.pos < st.buffer.length
    fault := match st.fault with | some f => if f.idx < p then none else some f | none => none }

/-- Append elements lo … hi-1 of what a destination's stream has collected (R195). An element that no position wrote (MASKMODE 0)
is a free value (log 12). A strip longer than the buffer passes through it: the first elements held are performed until the rest fits
(R194); where one faults, the buffer keeps it and those after it (R239, log 32). -/
def appendStrip (c : VConf) (lo hi : Nat) (o : Opnd) : M Unit := do
  let v := (← getHart).vec
  match o.use, streamAt v (c.vwb.toNat + o.first) with
  | .dst, some (slot, st) => do
    let w := widthOf (recType st.record)
    let xs ← mapFrom (hi - lo) lo fun j =>
      match outElem v slot (j / c.vlN) (j % c.vlN) w with
      | some x => pure (BitVec.ofNat 32 x)
      | none => do pure (BitVec.ofNat 32 ((← freeWord).toNat % 2 ^ w))
    let st := { st with pos := st.pos + (hi - lo), buffer := st.buffer ++ xs }
    putStream slot (some st)
    if st.fault.isNone then do
      let _ ← drainTo slot (streamRoom (← get).myCore st) st.buffer.length st
      pure ()
  | _, _ => pure ()

/-- At retirement: advance the inputs by their strips, append the outputs' elements (R195). -/
def retireStreams (c : VConf) (n : Nat) (o : Opnd) : M Unit := do
  match o.use, streamAt (← getHart).vec (c.vwb.toNat + o.first) with
  | .src, some (slot, st) => if st.out then pure () else putStream slot (some (consume (n * o.strips) st))
  | _, _ => appendStrip c c.est (n * o.strips) o

/-- Forget the strips and the collected elements. -/
def dropStrips : M Unit := modVec fun v => { v with strips := [], outs := [] }

/-- One operand of each row: two operands that name one bound row read one strip (R195). -/
def dedupOpnds (os : List Opnd) : List Opnd :=
  os.foldl (fun acc o => if acc.any (fun p => p.first == o.first && p.use == o.use) then acc else acc ++ [o]) []

/-- The element at which the oldest entry would resume. -/
def progressOf (h : Hart) : Nat := match h.vq with
  | e :: _ => e.cfg.est
  | [] => 0

/-- Give an entry its operands: the window checks of R23, in the order of the list (log 26), the misuse checks of R196, errors
(R212), room in the output streams, the strips. `n` is the number of elements of a strip, `et` the element type a binding must have. -/
def prepareOpnds (c : VConf) (n et : Nat) (os : List Opnd) : M Unit := do
  os.foldlM (fun _ o => checkRowsNat c o.first o.rows o.field) ()
  os.foldlM (fun _ o => checkUse c et n o) ()
  os.foldlM (fun _ o => checkErrors c o) ()
  os.foldlM (fun _ o => needStreamRoom c n o) ()
  os.foldlM (fun _ o => loadStrip c (widthOf et) n o) ()

/-- The end of an entry that began in the state `s`: a strip that stalls while it passes through its buffer (R194, R199) leaves the state
as it was, and the entry runs again. -/
def orAgain (s : State) (m : M Unit) : M Unit := do
  match ← attempt m with
  | .ok _ => pure ()
  | .error st => do set s; throw st

/-- Give an entry its operands; then its work; then the retirement of the streams that were bound before it. An entry that stops at an
element has appended the elements below it (R150, R195). -/
def vrunN (c : VConf) (n et : Nat) (os : List Opnd) (body : M Unit) : M Unit := do
  prepareOpnds c n et os
  let s ← get
  let os := (dedupOpnds os).filter fun o => (streamAt s.hart.vec (c.vwb.toNat + o.first)).isSome
  let from' := progressOf s.hart
  match ← attempt body with
  | .ok _ => orAgain s (os.foldlM (fun _ o => retireStreams c n o) ())
  | .error st => do
    let upTo := progressOf (← getHart)
    if from' < upTo then orAgain s (os.foldlM (fun _ o => appendStrip c from' upTo o) ())
    throw st
  dropStrips

/-- `vrunN` for tiles of RC·VL elements of ETYPE. -/
def vrun (c : VConf) (os : List Opnd) (body : M Unit) : M Unit := vrunN c c.count c.et os body

/-! ## The b operand (R18, R56) -/

/-- The operand of a V-format b field. -/
def opndsOf (c : VConf) (b : VSrc) : List Opnd :=
  match b with
  | .vv n => [Opnd.src c n]
  | .vs _ => []
  | .vi _ => []
  | .vl _ => []

/-- The 7-bit immediate as an integer. -/
def immOf (i : BitVec 7) : Int := i.toInt

/-- A captured scalar or a literal as a pattern of ETYPE (R18): integer types take the low bits; FP32 takes bits 31:0;
FP16 and BF16 take one call of `rnd`. -/
def convertScalar (c : VConf) (x : Nat) : M Nat := do
  if isIntType c.et then pure (x % 2 ^ c.width)
  else if c.et = 5 then pure (x % 2 ^ 32)
  else if c.et = 6 || c.et = 7 then vrnd c.frm (fmtOf c.et) false (v32 (x % 2 ^ 32))
  else pure (x % 2 ^ c.width)

/-- The immediate of the `.vi` form: sign-extended, or converted exactly (R18). -/
def immPattern (et : Nat) (i : BitVec 7) : Nat :=
  if isFpType et then ((fmtOf et).rnd 0 0 false (Ex.ofInt (immOf i))).1 else wrapBits (widthOf et) (immOf i)

/-- The rows that a V-format b names. -/
def rowsOf (b : VSrc) : List (BitVec 7) :=
  match b with
  | .vv n => [n]
  | .vs _ => []
  | .vi _ => []
  | .vl _ => []

/-- `opb` (R18): how b is read at each position. The conversion of a captured value is made once, when some position is
active. -/
def prepB (c : VConf) (e : Entry) (v : VecRegs) (b : VSrc) (anyActive : Bool) : M (Nat → Nat) :=
  match b with
  | .vv n => pure fun j => v.el c n j
  | .vi i => pure fun _ => immPattern c.et i
  | .vs _ => do
    let x ← if anyActive then convertScalar c e.b0.toNat else pure 0
    pure fun _ => x
  | .vl lit => do
    let x ← if anyActive then convertScalar c lit.toNat else pure 0
    pure fun _ => x

/-- A vector load: one that stalls at an element has loaded none, so that its elements of one address have one value (R151, R199). -/
def loadWhole (m : M Unit) : M Unit := do
  let s ← get
  match ← attempt m with
  | .ok _ => pure ()
  | .error .stall => do set s; stall
  | .error st => throw st

/-- Run `m` for a padded position: it sets no flag and does not step the generator; under FRM mode 4 its random word is free
(R19, log 81). -/
def quietly {α : Type} (c : VConf) (quiet : Bool) (m : M α) : M α := do
  if quiet then do
    let h ← getHart
    if c.frm = 4 then do
      let x ← freeWord
      modVec fun v => { v with gen := x.extractLsb' 0 32 }
    let r ← m
    modSys fun y => { y with fflags := h.sys.fflags }
    modVec fun v => { v with gen := h.vec.gen }
    pure r
  else m

/-- Position `j` is past the end of a source that pads. -/
def anyPadded (v : VecRegs) (c : VConf) (srcs : List (BitVec 7)) (j : Nat) : Bool := srcs.any fun n => padded v c n j

/-- The name of tile number k of RC rows that belongs to the operand n (R23). -/
def VConf.tileName (c : VConf) (n : BitVec 7) (k : Nat) : BitVec 7 := n + BitVec.ofNat 7 (k * c.rcN)

/-- The vector registers as an entry's sources are read, and which flat positions are active: `active(j)` under the
predicate of PSEL, inside the strip of every source (R18, R195). -/
def sources (c : VConf) (m : BitVec 1) (srcs : List (BitVec 7)) : M (VecRegs × (Nat → Bool)) := do
  let v := (← getHart).vec
  let p := predOf v c.psel.toNat
  pure (v, fun j => activeIn c m p j && srcs.all fun n => inStrip v c n j)

/-- `opb` for the active positions of a tile, quietly where every one of them is padded (R19). -/
def prepActive (c : VConf) (e : Entry) (v : VecRegs) (b : VSrc) (srcs : List (BitVec 7)) (act : Nat → Bool) : M (Nat → Nat) :=
  let any := (List.range c.count).any act
  quietly c (any && (List.range c.count).all fun j => !act j || anyPadded v c srcs j) (prepB c e v b any)

/-- Some position of the tile is active. -/
def someActive (c : VConf) (m : BitVec 1) (p : BitVec 1024) : Bool :=
  (List.range c.count).any fun j => activeIn c m p j

/-- An entry that is performed whole or has no effect: a trap or a block inside `m` leaves the state as it was before it. -/
def wholly {α : Type} (m : M α) : M α := do
  let s ← get
  match ← attempt m with
  | .ok x => pure x
  | .error st => do set s; throw st

/-- The configuration with ESTART taken as 0, for the entries that ignore it (R130). -/
def VConf.from0 (c : VConf) : VConf := { c with estart := 0 }

/-- Write a tile at width `w`: what a function gives for a position goes through `wr`, the other positions through
`masked`. -/
def putTileW (c : VConf) (n : Nat) (w : Nat) (f : Nat → M (Option Nat)) : M Unit :=
  forN c.count fun j => do
    match ← f j with
    | some x => wrW c n w j x
    | none => maskedW c n w j

end Sys2Proof.Machine
end

