-- ==== Sys2Proof/Machine/Queue.lean ====
section
/-! DEFINITION. The vector queue (R25, R26, R416): dispatching an instruction into it, executing its oldest entry, and
retiring that entry. -/

namespace Sys2Proof.Machine

/-- The operand captured through a field at dispatch (R25, R47). -/
inductive Cap where
  | none
  | scalar (n : BitVec 7)
  | pair (n : BitVec 7)
deriving DecidableEq, Repr

/-- What dispatch needs to know of a vector-side instruction: whether its encoding is privileged (R60), whether it still
dispatches after VREL (R35), the ETYPE codes it accepts (R127), the operands it captures through a and b, the checks its
entry places at dispatch, whether it waits for the queue to drain first (R290), whether its entry carries ESTART 0 (R165, R216, R259,
R399), and what the scalar unit does at dispatch (VCFG, MMODE). -/
structure VOp where
  privileged : Bool := false
  afterVrel : Bool := false
  etypes : Nat → Bool := fun _ => true
  a : Cap := .none
  b : Cap := .none
  check : Entry → M Unit := fun _ => pure ()
  serial : Bool := false
  whole : Bool := false
  atDispatch : Entry → M Entry := fun e => pure e

/-- The window check of a captured name (R416 step 4). -/
def Cap.check : Cap → M Unit
  | .none => pure ()
  | .scalar n => checkScalar n
  | .pair n => checkPair n

/-- The values captured through a field. -/
def Cap.values (h : Hart) : Cap → Word × Word
  | .none => (0, 0)
  | .scalar n => (scalarVal h n, 0)
  | .pair n => (scalarVal h n, scalarVal h (n + 1))

/-- The checks of R416 and the entry that is appended. A trap is precise in the scalar stream. -/
def dispatchEntry (w : BitVec 32) (lit : BitVec 32) (op : VOp) : M Entry := do
  let h ← getHart
  if op.privileged then needSupervisor
  trapIf (h.task.vrel && !op.afterVrel) .ill 1
  if !op.etypes h.cfg.et then trapWord .ill
  op.a.check
  op.b.check
  let (a0, a1) := op.a.values h
  let (b0, b1) := op.b.values h
  let e : Entry := ⟨w, lit, a0, a1, b0, b1, if op.whole then h.cfg.from0 else h.cfg, h.fetch.pc, false⟩
  op.check e
  if 32 ≤ h.vq.length || (op.serial && !h.vq.isEmpty) then block
  let e ← op.atDispatch e
  modHart fun h => { h with vq := h.vq ++ [e] }
  pure e

/-- Retire the oldest entry: it leaves the queue and ESTART returns to 0 (R42). -/
def retireHead : M Unit := modHart fun h =>
  { h with vq := h.vq.tail, cfg := { h.cfg with estart := 0 } }

/-- Mark the oldest entry as begun (R45). -/
def markBegun : M Unit := modHart fun h =>
  match h.vq with
  | e :: es => { h with vq := { e with begun := true } :: es }
  | [] => h

/-- Execute the oldest entry with its own meaning: it retires, or traps in the vector stream, or stays, blocked (R44, R45).
A trap raised after the entry has retired leaves the queue as it is (R403). -/
def executeHead (perform : Entry → M Unit) : M Unit := do
  let h ← getHart
  match h.vq with
  | [] => pure ()
  | e :: es => do
    let r ← attempt (perform e)
    dropStrips
    match r with
    | .ok _ => retireHead
    | .error .block => do
      markBegun
      modHart fun h => { h with stalled := false }
    | .error .stall => do
      markBegun
      modHart fun h => { h with stalled := true }
    | .error (.trap c v) => do
      let h ← getHart
      if es.length < h.vq.length then markBegun
      trapEntry true c v
    | .error (.trapWord c) => do
      markBegun
      trapEntry true c (e.word.zeroExtend 64)

/-- Execute a vector-side instruction: the scalar unit checks and dispatches it (R416), goes on to the next word, and the
vector unit executes the entry at once when it is the oldest and the vector unit does not lag; an entry that serialises
always executes at once (R290). -/
def dispatchV (w lit : BitVec 32) (op : VOp) (perform : Entry → M Unit) (s : State) : Host.Outcome State Fault Refusal :=
  match (dispatchEntry w lit op).exec s with
  | (.ok _, s') =>
    let s' := ((advance .next).exec s').2
    if s'.hart.vq.length = 1 && (op.serial || !s'.lag) then .next ((executeHead perform).exec s').2 else .next s'
  | (.error (.trap c v), s') => .next (takeTrap false c v s')
  | (.error (.trapWord c), s') => .next (takeTrap false c (w.zeroExtend 64) s')
  | (.error .block, _) => .next { s with parked := true }
  | (.error .stall, _) => .next { s with parked := true }

end Sys2Proof.Machine
end

