-- ==== Sys2Proof/Machine/VArith.lean ====
section
/-! DEFINITION. Element-wise vector arithmetic (R134–R137) and comparison (R138): VINT, VFP, VMAC, VCMP. -/

namespace Sys2Proof.Machine

/-- The scalar that a V-format b captures at dispatch (R56). -/
def capOf (b : VSrc) : Cap :=
  match b with
  | .vs n => .scalar n
  | .vv _ => .none
  | .vi _ => .none
  | .vl _ => .none

/-- The ETYPE sets of R127. -/
def only5 (et : Nat) : Bool := et == 5
def upTo7 (et : Nat) : Bool := et < 8
def upTo11 (et : Nat) : Bool := et < 12
def not4bit (et : Nat) : Bool := et < 12 && et != 10

/-- The loop of R134 over a, b and d: `f` gives the result from the elements of a, b and d. -/
def eltwise (d a : BitVec 7) (b : VSrc) (m : BitVec 1) (readsD : Bool) (f : VConf → Nat → Nat → Nat → M Nat)
    (e : Entry) : M Unit := do
  let c := e.cfg
  maskVl c m
  vrun c (Opnd.src c a :: opndsOf c b ++ [if readsD then Opnd.both c d else Opnd.dst c d]) (do
    let (v, act) ← sources c m (a :: rowsOf b)
    let srcs := a :: rowsOf b
    let y ← prepActive c e v b srcs act
    putTileW c d.toNat c.width fun j =>
      if act j then do pure (some (← quietly c (anyPadded v c srcs j) (f c (v.el c a j) (y j) (v.el c d j))))
      else pure none)

/-- An integer function of a and b modulo 2^w (R134, R135). -/
def intwise (d a : BitVec 7) (b : VSrc) (m : BitVec 1) (f : Nat → Nat → Nat → Int) (e : Entry) : M Unit :=
  eltwise d a b m false (fun c x y _ => pure (wrapBits c.width (f c.et x y))) e

/-- A floating-point function of a and b, rounded once (R134, R136). -/
def fpwise (d a : BitVec 7) (b : VSrc) (m : BitVec 1) (f : Nat → Ex → Ex → Ex × Flags) (e : Entry) : M Unit :=
  eltwise d a b m false (fun c x y _ => do
    let t := fmtOf c.et
    let (r, fl) := f c.frm.toNat (t.value x) (t.value y)
    setFlags fl
    vrnd c.frm t false r) e

/-- The loop of R134 for a unary function of a. -/
def unwise (d a : BitVec 7) (m : BitVec 1) (f : VConf → Nat → M Nat) (e : Entry) : M Unit := do
  let c := e.cfg
  maskVl c m
  vrun c [Opnd.src c a, Opnd.dst c d] (do
    let (v, act) ← sources c m [a]
    putTileW c d.toNat c.width fun j =>
      if act j then do pure (some (← quietly c (padded v c a j) (f c (v.el c a j)))) else pure none)

/-- A rounded unary function. -/
def fpUnary (d a : BitVec 7) (m : BitVec 1) (f : Ex → Ex × Flags) (e : Entry) : M Unit :=
  unwise d a m (fun c x => do
    let t := fmtOf c.et
    let (r, fl) := f (t.value x)
    setFlags fl
    vrnd c.frm t false r) e

/-- VFMA and its relatives: ±(d × a) ± b, rounded once (R137). -/
def fmawise (d a : BitVec 7) (b : VSrc) (m : BitVec 1) (negP negB : Bool) (e : Entry) : M Unit :=
  eltwise d a b m true (fun c x y z => do
    let t := fmtOf c.et
    let (r, fl) := Ex.fma c.frm.toNat negP negB (t.value z) (t.value x) (t.value y)
    setFlags fl
    vrnd c.frm t false r) e

/-- A pattern of ETYPE's width as two's complement. -/
def sgn (et x : Nat) : Int := sextNat (widthOf et) x

/-- VADDS of R135: the sum by ETYPE's sign, clamped; SAT when clamped. -/
def addSat (et x y : Nat) : Int × Flags :=
  let t := intOf et x + intOf et y
  if t < intMin et then (intMin et, flSAT) else if intMax et < t then (intMax et, flSAT) else (t, 0)

/-- A finite FP32 pattern: VEXP2 of it calls `rnd` (R90). -/
def exp2Calls (x : Nat) : Bool := bitsOf x 30 23 != 255
/-- A finite FP32 pattern above zero: VLOG2 of it calls `rnd` (R91). -/
def log2Calls (x : Nat) : Bool := bitsOf x 30 23 != 255 && !bitOf x 31 && x % 2 ^ 31 != 0

/-- The sign that VFSGN takes from b at a position (R136). -/
def signOfB (c : VConf) (e : Entry) (v : VecRegs) (b : VSrc) (j : Nat) : Bool :=
  match b with
  | .vv n => bitOf (v.el c n j) (c.width - 1)
  | .vs _ => bitOf e.b0.toNat 31
  | .vi i => i.msb
  | .vl lit => bitOf lit.toNat 31

/-- A comparison that writes predicate d (R138). -/
def compare (d a : BitVec 7) (b : VSrc) (m : BitVec 1) (f : VConf → Nat → Nat → Bool × Flags) (e : Entry) : M Unit := do
  let c := e.cfg
  needPredVl c
  trapIf (1 < c.rcN) .matf (BitVec.ofNat 64 c.rcN)
  vrun c (Opnd.src c a :: opndsOf c b) (do
    let (v, act) ← sources c m (a :: rowsOf b)
    let y ← prepActive c e v b (a :: rowsOf b) act
    let old := predOf v d.toNat
    let r (i : Nat) : Bool × Flags := if act i then f c (v.el c a i) (y i) else (false, 0)
    setFlags ((List.range c.vlN).foldl (fun fl i => if anyPadded v c (a :: rowsOf b) i then fl else fl ||| (r i).2) 0)
    writePred d.toNat (BitVec.ofNat 1024 ((List.range 1024).foldr (fun i x =>
      2 * x + (if c.vlN ≤ i || i < c.est then old.getLsbD i
        else if act i then (r i).1
        else if c.maskmode = 1 then false else old.getLsbD i).toNat) 0)))

/-- A comparison of integers or patterns. -/
def cmpInt (f : Nat → Nat → Nat → Bool) (c : VConf) (x y : Nat) : Bool × Flags := (f c.et x y, 0)
/-- A comparison of floating-point patterns. -/
def cmpFp (f : Fmt → Nat → Nat → Bool × Flags) (c : VConf) (x y : Nat) : Bool × Flags := f (fmtOf c.et) x y
/-- Either pattern is NaN; NV only for a signalling one (R138). -/
def Fmt.unordered (f : Fmt) (x y : Nat) : Bool × Flags :=
  (f.isNan x || f.isNan y, flIf (f.isSig x || f.isSig y) flNV)

/-- VADD (R135): Element-wise integer addition over the tile. -/
def performVadd (d : BitVec 7) (a : BitVec 7) (b : VSrc) (m : BitVec 1) (e : Entry) : M Unit :=
  intwise d a b m (fun _ x y => x + y) e

/-- VADD: dispatch (R416) and execution. -/
def execVadd (d : BitVec 7) (a : BitVec 7) (b : VSrc) (m : BitVec 1) (s : State) : Host.Outcome State Fault Refusal :=
  dispatchV (encVadd d a b m).toWord b.lit { etypes := isIntType, b := capOf b } (performVadd d a b m) s

/-- VSUB (R135): Element-wise integer a - b. -/
def performVsub (d : BitVec 7) (a : BitVec 7) (b : VSrc) (m : BitVec 1) (e : Entry) : M Unit :=
  intwise d a b m (fun _ x y => x - y) e

/-- VSUB: dispatch (R416) and execution. -/
def execVsub (d : BitVec 7) (a : BitVec 7) (b : VSrc) (m : BitVec 1) (s : State) : Host.Outcome State Fault Refusal :=
  dispatchV (encVsub d a b m).toWord b.lit { etypes := isIntType, b := capOf b } (performVsub d a b m) s

/-- VRSUB (R135): Element-wise integer b - a. -/
def performVrsub (d : BitVec 7) (a : BitVec 7) (b : VSrc) (m : BitVec 1) (e : Entry) : M Unit :=
  intwise d a b m (fun _ x y => y - x) e

/-- VRSUB: dispatch (R416) and execution. -/
def execVrsub (d : BitVec 7) (a : BitVec 7) (b : VSrc) (m : BitVec 1) (s : State) : Host.Outcome State Fault Refusal :=
  dispatchV (encVrsub d a b m).toWord b.lit { etypes := isIntType, b := capOf b } (performVrsub d a b m) s

/-- VMUL (R135): Element-wise low product. -/
def performVmul (d : BitVec 7) (a : BitVec 7) (b : VSrc) (m : BitVec 1) (e : Entry) : M Unit :=
  intwise d a b m (fun _ x y => x * y) e

/-- VMUL: dispatch (R416) and execution. -/
def execVmul (d : BitVec 7) (a : BitVec 7) (b : VSrc) (m : BitVec 1) (s : State) : Host.Outcome State Fault Refusal :=
  dispatchV (encVmul d a b m).toWord b.lit { etypes := isIntType, b := capOf b } (performVmul d a b m) s

/-- VMULH (R135): Element-wise high product by ETYPE's sign. -/
def performVmulh (d : BitVec 7) (a : BitVec 7) (b : VSrc) (m : BitVec 1) (e : Entry) : M Unit :=
  intwise d a b m (fun et x y => intOf et x * intOf et y / (2 ^ widthOf et : Nat)) e

/-- VMULH: dispatch (R416) and execution. -/
def execVmulh (d : BitVec 7) (a : BitVec 7) (b : VSrc) (m : BitVec 1) (s : State) : Host.Outcome State Fault Refusal :=
  dispatchV (encVmulh d a b m).toWord b.lit { etypes := isIntType, b := capOf b } (performVmulh d a b m) s

/-- VMIN (R135): Element-wise signed minimum. -/
def performVmin (d : BitVec 7) (a : BitVec 7) (b : VSrc) (m : BitVec 1) (e : Entry) : M Unit :=
  intwise d a b m (fun et x y => if sgn et x ≤ sgn et y then x else y) e

/-- VMIN: dispatch (R416) and execution. -/
def execVmin (d : BitVec 7) (a : BitVec 7) (b : VSrc) (m : BitVec 1) (s : State) : Host.Outcome State Fault Refusal :=
  dispatchV (encVmin d a b m).toWord b.lit { etypes := isIntType, b := capOf b } (performVmin d a b m) s

/-- VMAX (R135): Element-wise signed maximum. -/
def performVmax (d : BitVec 7) (a : BitVec 7) (b : VSrc) (m : BitVec 1) (e : Entry) : M Unit :=
  intwise d a b m (fun et x y => if sgn et x ≤ sgn et y then y else x) e

/-- VMAX: dispatch (R416) and execution. -/
def execVmax (d : BitVec 7) (a : BitVec 7) (b : VSrc) (m : BitVec 1) (s : State) : Host.Outcome State Fault Refusal :=
  dispatchV (encVmax d a b m).toWord b.lit { etypes := isIntType, b := capOf b } (performVmax d a b m) s

/-- VMINU (R135): Element-wise unsigned minimum. -/
def performVminu (d : BitVec 7) (a : BitVec 7) (b : VSrc) (m : BitVec 1) (e : Entry) : M Unit :=
  intwise d a b m (fun _ x y => if x ≤ y then x else y) e

/-- VMINU: dispatch (R416) and execution. -/
def execVminu (d : BitVec 7) (a : BitVec 7) (b : VSrc) (m : BitVec 1) (s : State) : Host.Outcome State Fault Refusal :=
  dispatchV (encVminu d a b m).toWord b.lit { etypes := isIntType, b := capOf b } (performVminu d a b m) s

/-- VMAXU (R135): Element-wise unsigned maximum. -/
def performVmaxu (d : BitVec 7) (a : BitVec 7) (b : VSrc) (m : BitVec 1) (e : Entry) : M Unit :=
  intwise d a b m (fun _ x y => if x ≤ y then y else x) e

/-- VMAXU: dispatch (R416) and execution. -/
def execVmaxu (d : BitVec 7) (a : BitVec 7) (b : VSrc) (m : BitVec 1) (s : State) : Host.Outcome State Fault Refusal :=
  dispatchV (encVmaxu d a b m).toWord b.lit { etypes := isIntType, b := capOf b } (performVmaxu d a b m) s

/-- VAND (R135): Element-wise and. -/
def performVand (d : BitVec 7) (a : BitVec 7) (b : VSrc) (m : BitVec 1) (e : Entry) : M Unit :=
  intwise d a b m (fun _ x y => (x &&& y : Nat)) e

/-- VAND: dispatch (R416) and execution. -/
def execVand (d : BitVec 7) (a : BitVec 7) (b : VSrc) (m : BitVec 1) (s : State) : Host.Outcome State Fault Refusal :=
  dispatchV (encVand d a b m).toWord b.lit { etypes := isIntType, b := capOf b } (performVand d a b m) s

/-- VOR (R135): Element-wise or. -/
def performVor (d : BitVec 7) (a : BitVec 7) (b : VSrc) (m : BitVec 1) (e : Entry) : M Unit :=
  intwise d a b m (fun _ x y => (x ||| y : Nat)) e

/-- VOR: dispatch (R416) and execution. -/
def execVor (d : BitVec 7) (a : BitVec 7) (b : VSrc) (m : BitVec 1) (s : State) : Host.Outcome State Fault Refusal :=
  dispatchV (encVor d a b m).toWord b.lit { etypes := isIntType, b := capOf b } (performVor d a b m) s

/-- VXOR (R135): Element-wise xor. -/
def performVxor (d : BitVec 7) (a : BitVec 7) (b : VSrc) (m : BitVec 1) (e : Entry) : M Unit :=
  intwise d a b m (fun _ x y => (x ^^^ y : Nat)) e

/-- VXOR: dispatch (R416) and execution. -/
def execVxor (d : BitVec 7) (a : BitVec 7) (b : VSrc) (m : BitVec 1) (s : State) : Host.Outcome State Fault Refusal :=
  dispatchV (encVxor d a b m).toWord b.lit { etypes := isIntType, b := capOf b } (performVxor d a b m) s

/-- VSLL (R135): Element-wise left shift. -/
def performVsll (d : BitVec 7) (a : BitVec 7) (b : VSrc) (m : BitVec 1) (e : Entry) : M Unit :=
  intwise d a b m (fun et x y => x * 2 ^ (y % widthOf et)) e

/-- VSLL: dispatch (R416) and execution. -/
def execVsll (d : BitVec 7) (a : BitVec 7) (b : VSrc) (m : BitVec 1) (s : State) : Host.Outcome State Fault Refusal :=
  dispatchV (encVsll d a b m).toWord b.lit { etypes := isIntType, b := capOf b } (performVsll d a b m) s

/-- VSRL (R135): Element-wise logical right shift. -/
def performVsrl (d : BitVec 7) (a : BitVec 7) (b : VSrc) (m : BitVec 1) (e : Entry) : M Unit :=
  intwise d a b m (fun et x y => (x / 2 ^ (y % widthOf et) : Nat)) e

/-- VSRL: dispatch (R416) and execution. -/
def execVsrl (d : BitVec 7) (a : BitVec 7) (b : VSrc) (m : BitVec 1) (s : State) : Host.Outcome State Fault Refusal :=
  dispatchV (encVsrl d a b m).toWord b.lit { etypes := isIntType, b := capOf b } (performVsrl d a b m) s

/-- VSRA (R135): Element-wise arithmetic right shift. -/
def performVsra (d : BitVec 7) (a : BitVec 7) (b : VSrc) (m : BitVec 1) (e : Entry) : M Unit :=
  intwise d a b m (fun et x y => sgn et x / (2 ^ (y % widthOf et) : Nat)) e

/-- VSRA: dispatch (R416) and execution. -/
def execVsra (d : BitVec 7) (a : BitVec 7) (b : VSrc) (m : BitVec 1) (s : State) : Host.Outcome State Fault Refusal :=
  dispatchV (encVsra d a b m).toWord b.lit { etypes := isIntType, b := capOf b } (performVsra d a b m) s

/-- VADDS (R135): Element-wise saturating addition setting SAT when clamped. -/
def performVadds (d : BitVec 7) (a : BitVec 7) (b : VSrc) (m : BitVec 1) (e : Entry) : M Unit :=
  eltwise d a b m false (fun c x y _ => do
    let (r, fl) := addSat c.et x y
    setFlags fl
    pure (wrapBits c.width r)) e

/-- VADDS: dispatch (R416) and execution. -/
def execVadds (d : BitVec 7) (a : BitVec 7) (b : VSrc) (m : BitVec 1) (s : State) : Host.Outcome State Fault Refusal :=
  dispatchV (encVadds d a b m).toWord b.lit { etypes := isIntType, b := capOf b } (performVadds d a b m) s

/-- VFADD (R136): Element-wise FP addition rounded once. -/
def performVfadd (d : BitVec 7) (a : BitVec 7) (b : VSrc) (m : BitVec 1) (e : Entry) : M Unit :=
  fpwise d a b m (fun mode x y => x.add mode y) e

/-- VFADD: dispatch (R416) and execution. -/
def execVfadd (d : BitVec 7) (a : BitVec 7) (b : VSrc) (m : BitVec 1) (s : State) : Host.Outcome State Fault Refusal :=
  dispatchV (encVfadd d a b m).toWord b.lit { etypes := isFpType, b := capOf b } (performVfadd d a b m) s

/-- VFSUB (R136): Element-wise FP subtraction. -/
def performVfsub (d : BitVec 7) (a : BitVec 7) (b : VSrc) (m : BitVec 1) (e : Entry) : M Unit :=
  fpwise d a b m (fun mode x y => x.add mode y.negate) e

/-- VFSUB: dispatch (R416) and execution. -/
def execVfsub (d : BitVec 7) (a : BitVec 7) (b : VSrc) (m : BitVec 1) (s : State) : Host.Outcome State Fault Refusal :=
  dispatchV (encVfsub d a b m).toWord b.lit { etypes := isFpType, b := capOf b } (performVfsub d a b m) s

/-- VFMUL (R136): Element-wise FP multiplication. -/
def performVfmul (d : BitVec 7) (a : BitVec 7) (b : VSrc) (m : BitVec 1) (e : Entry) : M Unit :=
  fpwise d a b m (fun _ x y => x.mul y) e

/-- VFMUL: dispatch (R416) and execution. -/
def execVfmul (d : BitVec 7) (a : BitVec 7) (b : VSrc) (m : BitVec 1) (s : State) : Host.Outcome State Fault Refusal :=
  dispatchV (encVfmul d a b m).toWord b.lit { etypes := isFpType, b := capOf b } (performVfmul d a b m) s

/-- VFDIV (R136): Element-wise FP division. -/
def performVfdiv (d : BitVec 7) (a : BitVec 7) (b : VSrc) (m : BitVec 1) (e : Entry) : M Unit :=
  fpwise d a b m (fun _ x y => x.div y) e

/-- VFDIV: dispatch (R416) and execution. -/
def execVfdiv (d : BitVec 7) (a : BitVec 7) (b : VSrc) (m : BitVec 1) (s : State) : Host.Outcome State Fault Refusal :=
  dispatchV (encVfdiv d a b m).toWord b.lit { etypes := isFpType, b := capOf b } (performVfdiv d a b m) s

/-- VFMIN (R136): Element-wise FP minimum per R84. -/
def performVfmin (d : BitVec 7) (a : BitVec 7) (b : VSrc) (m : BitVec 1) (e : Entry) : M Unit :=
  eltwise d a b m false (fun c x y _ => flagged ((fmtOf c.et).pick false x y)) e

/-- VFMIN: dispatch (R416) and execution. -/
def execVfmin (d : BitVec 7) (a : BitVec 7) (b : VSrc) (m : BitVec 1) (s : State) : Host.Outcome State Fault Refusal :=
  dispatchV (encVfmin d a b m).toWord b.lit { etypes := isFpType, b := capOf b } (performVfmin d a b m) s

/-- VFMAX (R136): Element-wise FP maximum per R84. -/
def performVfmax (d : BitVec 7) (a : BitVec 7) (b : VSrc) (m : BitVec 1) (e : Entry) : M Unit :=
  eltwise d a b m false (fun c x y _ => flagged ((fmtOf c.et).pick true x y)) e

/-- VFMAX: dispatch (R416) and execution. -/
def execVfmax (d : BitVec 7) (a : BitVec 7) (b : VSrc) (m : BitVec 1) (s : State) : Host.Outcome State Fault Refusal :=
  dispatchV (encVfmax d a b m).toWord b.lit { etypes := isFpType, b := capOf b } (performVfmax d a b m) s

/-- VFSQRT (R136): Element-wise FP square root. -/
def performVfsqrt (d : BitVec 7) (a : BitVec 7) (m : BitVec 1) (e : Entry) : M Unit :=
  fpUnary d a m Ex.sqrt e

/-- VFSQRT: dispatch (R416) and execution. -/
def execVfsqrt (d : BitVec 7) (a : BitVec 7) (m : BitVec 1) (s : State) : Host.Outcome State Fault Refusal :=
  dispatchV (encVfsqrt d a m).toWord 0 { etypes := isFpType } (performVfsqrt d a m) s

/-- VEXP2 (R90): Element-wise base-2 exponential computed as R90 fixes. -/
def performVexp2 (d : BitVec 7) (a : BitVec 7) (m : BitVec 1) (e : Entry) : M Unit :=
  unwise d a m (fun c x => do
    let u ← if exp2Calls x then stepGen c.frm else pure 0
    flagged (exp2Fp c.frm.toNat u x)) e

/-- VEXP2: dispatch (R416) and execution. -/
def execVexp2 (d : BitVec 7) (a : BitVec 7) (m : BitVec 1) (s : State) : Host.Outcome State Fault Refusal :=
  dispatchV (encVexp2 d a m).toWord 0 { etypes := only5 } (performVexp2 d a m) s

/-- VLOG2 (R91): Element-wise base-2 logarithm computed as R91 fixes. -/
def performVlog2 (d : BitVec 7) (a : BitVec 7) (m : BitVec 1) (e : Entry) : M Unit :=
  unwise d a m (fun c x => do
    let u ← if log2Calls x then stepGen c.frm else pure 0
    flagged (log2Fp c.frm.toNat u x)) e

/-- VLOG2: dispatch (R416) and execution. -/
def execVlog2 (d : BitVec 7) (a : BitVec 7) (m : BitVec 1) (s : State) : Host.Outcome State Fault Refusal :=
  dispatchV (encVlog2 d a m).toWord 0 { etypes := only5 } (performVlog2 d a m) s

/-- VRCP (R136): Element-wise correctly rounded reciprocal. -/
def performVrcp (d : BitVec 7) (a : BitVec 7) (m : BitVec 1) (e : Entry) : M Unit :=
  fpUnary d a m Ex.rcp e

/-- VRCP: dispatch (R416) and execution. -/
def execVrcp (d : BitVec 7) (a : BitVec 7) (m : BitVec 1) (s : State) : Host.Outcome State Fault Refusal :=
  dispatchV (encVrcp d a m).toWord 0 { etypes := isFpType } (performVrcp d a m) s

/-- VRSQRT (R136): Element-wise correctly rounded reciprocal square root. -/
def performVrsqrt (d : BitVec 7) (a : BitVec 7) (m : BitVec 1) (e : Entry) : M Unit :=
  fpUnary d a m Ex.rsqrt e

/-- VRSQRT: dispatch (R416) and execution. -/
def execVrsqrt (d : BitVec 7) (a : BitVec 7) (m : BitVec 1) (s : State) : Host.Outcome State Fault Refusal :=
  dispatchV (encVrsqrt d a m).toWord 0 { etypes := isFpType } (performVrsqrt d a m) s

/-- VFSGN (R136): Replaces each element's sign bit with that of b. -/
def performVfsgn (d : BitVec 7) (a : BitVec 7) (b : VSrc) (m : BitVec 1) (e : Entry) : M Unit :=
  do
  let c := e.cfg
  maskVl c m
  vrun c (Opnd.src c a :: opndsOf c b ++ [Opnd.dst c d]) (do
    let (v, act) ← sources c m (a :: rowsOf b)
    let t := fmtOf c.et
    putTileW c d.toNat c.width fun j =>
      pure (if act j then some (t.mag (v.el c a j) + t.signPat (signOfB c e v b j)) else none))

/-- VFSGN: dispatch (R416) and execution. -/
def execVfsgn (d : BitVec 7) (a : BitVec 7) (b : VSrc) (m : BitVec 1) (s : State) : Host.Outcome State Fault Refusal :=
  dispatchV (encVfsgn d a b m).toWord b.lit { etypes := isFpType, b := capOf b } (performVfsgn d a b m) s

/-- VFMA (R137): Element-wise fused d times a plus b. -/
def performVfma (d : BitVec 7) (a : BitVec 7) (b : VSrc) (m : BitVec 1) (e : Entry) : M Unit :=
  fmawise d a b m false false e

/-- VFMA: dispatch (R416) and execution. -/
def execVfma (d : BitVec 7) (a : BitVec 7) (b : VSrc) (m : BitVec 1) (s : State) : Host.Outcome State Fault Refusal :=
  dispatchV (encVfma d a b m).toWord b.lit { etypes := isFpType, b := capOf b } (performVfma d a b m) s

/-- VFMS (R137): Element-wise fused d times a minus b. -/
def performVfms (d : BitVec 7) (a : BitVec 7) (b : VSrc) (m : BitVec 1) (e : Entry) : M Unit :=
  fmawise d a b m false true e

/-- VFMS: dispatch (R416) and execution. -/
def execVfms (d : BitVec 7) (a : BitVec 7) (b : VSrc) (m : BitVec 1) (s : State) : Host.Outcome State Fault Refusal :=
  dispatchV (encVfms d a b m).toWord b.lit { etypes := isFpType, b := capOf b } (performVfms d a b m) s

/-- VFNMA (R137): Element-wise fused negated product minus b. -/
def performVfnma (d : BitVec 7) (a : BitVec 7) (b : VSrc) (m : BitVec 1) (e : Entry) : M Unit :=
  fmawise d a b m true true e

/-- VFNMA: dispatch (R416) and execution. -/
def execVfnma (d : BitVec 7) (a : BitVec 7) (b : VSrc) (m : BitVec 1) (s : State) : Host.Outcome State Fault Refusal :=
  dispatchV (encVfnma d a b m).toWord b.lit { etypes := isFpType, b := capOf b } (performVfnma d a b m) s

/-- VFNMS (R137): Element-wise fused negated product plus b. -/
def performVfnms (d : BitVec 7) (a : BitVec 7) (b : VSrc) (m : BitVec 1) (e : Entry) : M Unit :=
  fmawise d a b m true false e

/-- VFNMS: dispatch (R416) and execution. -/
def execVfnms (d : BitVec 7) (a : BitVec 7) (b : VSrc) (m : BitVec 1) (s : State) : Host.Outcome State Fault Refusal :=
  dispatchV (encVfnms d a b m).toWord b.lit { etypes := isFpType, b := capOf b } (performVfnms d a b m) s

/-- VMADD (R137): Element-wise integer d times a plus b. -/
def performVmadd (d : BitVec 7) (a : BitVec 7) (b : VSrc) (m : BitVec 1) (e : Entry) : M Unit :=
  eltwise d a b m true (fun c x y z => pure (wrapBits c.width (z * x + y))) e

/-- VMADD: dispatch (R416) and execution. -/
def execVmadd (d : BitVec 7) (a : BitVec 7) (b : VSrc) (m : BitVec 1) (s : State) : Host.Outcome State Fault Refusal :=
  dispatchV (encVmadd d a b m).toWord b.lit { etypes := isIntType, b := capOf b } (performVmadd d a b m) s

/-- VMSUB (R137): Element-wise integer d times a minus b. -/
def performVmsub (d : BitVec 7) (a : BitVec 7) (b : VSrc) (m : BitVec 1) (e : Entry) : M Unit :=
  eltwise d a b m true (fun c x y z => pure (wrapBits c.width ((z : Int) * x - y))) e

/-- VMSUB: dispatch (R416) and execution. -/
def execVmsub (d : BitVec 7) (a : BitVec 7) (b : VSrc) (m : BitVec 1) (s : State) : Host.Outcome State Fault Refusal :=
  dispatchV (encVmsub d a b m).toWord b.lit { etypes := isIntType, b := capOf b } (performVmsub d a b m) s

/-- VSEQ (R138): Writes predicate bits for equal patterns. -/
def performVseq (d : BitVec 7) (a : BitVec 7) (b : VSrc) (m : BitVec 1) (e : Entry) : M Unit :=
  compare d a b m (cmpInt fun _ x y => x == y) e

/-- VSEQ: dispatch (R416) and execution. -/
def execVseq (d : BitVec 7) (a : BitVec 7) (b : VSrc) (m : BitVec 1) (s : State) : Host.Outcome State Fault Refusal :=
  dispatchV (encVseq d a b m).toWord b.lit { etypes := isIntType, b := capOf b } (performVseq d a b m) s

/-- VSNE (R138): Writes predicate bits for unequal patterns. -/
def performVsne (d : BitVec 7) (a : BitVec 7) (b : VSrc) (m : BitVec 1) (e : Entry) : M Unit :=
  compare d a b m (cmpInt fun _ x y => x != y) e

/-- VSNE: dispatch (R416) and execution. -/
def execVsne (d : BitVec 7) (a : BitVec 7) (b : VSrc) (m : BitVec 1) (s : State) : Host.Outcome State Fault Refusal :=
  dispatchV (encVsne d a b m).toWord b.lit { etypes := isIntType, b := capOf b } (performVsne d a b m) s

/-- VSLT (R138): Writes predicate bits for signed less-than. -/
def performVslt (d : BitVec 7) (a : BitVec 7) (b : VSrc) (m : BitVec 1) (e : Entry) : M Unit :=
  compare d a b m (cmpInt fun et x y => sgn et x < sgn et y) e

/-- VSLT: dispatch (R416) and execution. -/
def execVslt (d : BitVec 7) (a : BitVec 7) (b : VSrc) (m : BitVec 1) (s : State) : Host.Outcome State Fault Refusal :=
  dispatchV (encVslt d a b m).toWord b.lit { etypes := isIntType, b := capOf b } (performVslt d a b m) s

/-- VSGE (R138): Writes predicate bits for signed greater-or-equal. -/
def performVsge (d : BitVec 7) (a : BitVec 7) (b : VSrc) (m : BitVec 1) (e : Entry) : M Unit :=
  compare d a b m (cmpInt fun et x y => sgn et y ≤ sgn et x) e

/-- VSGE: dispatch (R416) and execution. -/
def execVsge (d : BitVec 7) (a : BitVec 7) (b : VSrc) (m : BitVec 1) (s : State) : Host.Outcome State Fault Refusal :=
  dispatchV (encVsge d a b m).toWord b.lit { etypes := isIntType, b := capOf b } (performVsge d a b m) s

/-- VSLTU (R138): Writes predicate bits for unsigned less-than. -/
def performVsltu (d : BitVec 7) (a : BitVec 7) (b : VSrc) (m : BitVec 1) (e : Entry) : M Unit :=
  compare d a b m (cmpInt fun _ x y => x < y) e

/-- VSLTU: dispatch (R416) and execution. -/
def execVsltu (d : BitVec 7) (a : BitVec 7) (b : VSrc) (m : BitVec 1) (s : State) : Host.Outcome State Fault Refusal :=
  dispatchV (encVsltu d a b m).toWord b.lit { etypes := isIntType, b := capOf b } (performVsltu d a b m) s

/-- VSGEU (R138): Writes predicate bits for unsigned greater-or-equal. -/
def performVsgeu (d : BitVec 7) (a : BitVec 7) (b : VSrc) (m : BitVec 1) (e : Entry) : M Unit :=
  compare d a b m (cmpInt fun _ x y => y ≤ x) e

/-- VSGEU: dispatch (R416) and execution. -/
def execVsgeu (d : BitVec 7) (a : BitVec 7) (b : VSrc) (m : BitVec 1) (s : State) : Host.Outcome State Fault Refusal :=
  dispatchV (encVsgeu d a b m).toWord b.lit { etypes := isIntType, b := capOf b } (performVsgeu d a b m) s

/-- VFEQ (R138): Writes predicate bits for FP equality. -/
def performVfeq (d : BitVec 7) (a : BitVec 7) (b : VSrc) (m : BitVec 1) (e : Entry) : M Unit :=
  compare d a b m (cmpFp Fmt.eqVal) e

/-- VFEQ: dispatch (R416) and execution. -/
def execVfeq (d : BitVec 7) (a : BitVec 7) (b : VSrc) (m : BitVec 1) (s : State) : Host.Outcome State Fault Refusal :=
  dispatchV (encVfeq d a b m).toWord b.lit { etypes := isFpType, b := capOf b } (performVfeq d a b m) s

/-- VFLT (R138): Writes predicate bits for FP less-than. -/
def performVflt (d : BitVec 7) (a : BitVec 7) (b : VSrc) (m : BitVec 1) (e : Entry) : M Unit :=
  compare d a b m (cmpFp Fmt.ltVal) e

/-- VFLT: dispatch (R416) and execution. -/
def execVflt (d : BitVec 7) (a : BitVec 7) (b : VSrc) (m : BitVec 1) (s : State) : Host.Outcome State Fault Refusal :=
  dispatchV (encVflt d a b m).toWord b.lit { etypes := isFpType, b := capOf b } (performVflt d a b m) s

/-- VFLE (R138): Writes predicate bits for FP less-or-equal. -/
def performVfle (d : BitVec 7) (a : BitVec 7) (b : VSrc) (m : BitVec 1) (e : Entry) : M Unit :=
  compare d a b m (cmpFp Fmt.leVal) e

/-- VFLE: dispatch (R416) and execution. -/
def execVfle (d : BitVec 7) (a : BitVec 7) (b : VSrc) (m : BitVec 1) (s : State) : Host.Outcome State Fault Refusal :=
  dispatchV (encVfle d a b m).toWord b.lit { etypes := isFpType, b := capOf b } (performVfle d a b m) s

/-- VFUNORD (R138): Writes predicate bits where either operand is NaN. -/
def performVfunord (d : BitVec 7) (a : BitVec 7) (b : VSrc) (m : BitVec 1) (e : Entry) : M Unit :=
  compare d a b m (cmpFp Fmt.unordered) e

/-- VFUNORD: dispatch (R416) and execution. -/
def execVfunord (d : BitVec 7) (a : BitVec 7) (b : VSrc) (m : BitVec 1) (s : State) : Host.Outcome State Fault Refusal :=
  dispatchV (encVfunord d a b m).toWord b.lit { etypes := isFpType, b := capOf b } (performVfunord d a b m) s

end Sys2Proof.Machine
end

