-- ==== Sys2Proof/Machine/VMem.lean ====
section
/-! DEFINITION. Vector memory (R148–R153): the VMEM family. -/

namespace Sys2Proof.Machine

/-- A space that VMEM addresses, and the agent class of the access (R319). -/
structure Space where
  sp : Bool
  agent : Agent

def globalPlain : Space := ⟨false, .vmem⟩
def globalIndexed : Space := ⟨false, .other⟩
def scratch : Space := ⟨true, .other⟩

/-- Read the `w`-bit element at an address; `high` picks the half of a 4-bit element's byte. -/
def readElem (p : Space) (a : Word) (high : Bool) (w : Nat) : M Nat := do
  let x ← (if p.sp then spRead a (w / 8 + (if w = 4 then 1 else 0)) else vread p.agent a (w / 8 + (if w = 4 then 1 else 0)))
  pure (if w = 4 then if high then x / 16 else x % 16 else x)

/-- Write the `w`-bit element at an address. -/
def writeElem (p : Space) (a : Word) (high : Bool) (w x : Nat) : M Unit :=
  if w = 4 then if p.sp then spNibbleWrite a high x else nibbleWrite p.agent a high x
  else if p.sp then spWrite a (w / 8) x else vwrite p.agent a (w / 8) x

/-- How element j is addressed (R148). -/
inductive Addressing where
  | unit
  | stride
  | index (b : BitVec 7)

/-- Address of element j: A + z·j, A + B·j, or A + z·index; modulo 2^64. -/
def elemAddr (c : VConf) (e : Entry) (v : VecRegs) (md : Addressing) (j : Nat) : Word :=
  match md with
  | .unit => e.a0 + BitVec.ofNat 64 (if c.width = 4 then j / 2 else c.width / 8 * j)
  | .stride => e.a0 + e.b0 * BitVec.ofNat 64 j
  | .index b => e.a0 + BitVec.ofNat 64 (c.width / 8 * v.el c b j)

/-- The index tile of an addressing. -/
def Addressing.rows (md : Addressing) : List (BitVec 7) :=
  match md with
  | .unit => []
  | .stride => []
  | .index b => [b]

/-- Rows d … d+n-1 and b … b+m-1 overlap. -/
def overlaps (d n b m : Nat) : Bool := d < b + m && b < d + n

/-- A vector load (R149–R152): each active element from ESTART upward; MATF where the destination overlaps the index tile
(R128), after the rows and their streams are checked (DEDUCED, log 27). -/
def loadTile (d : BitVec 7) (m : BitVec 1) (p : Space) (md : Addressing) (e : Entry) : M Unit := do
  let c := e.cfg
  maskVl c m
  vrun c (md.rows.map (Opnd.src c) ++ [Opnd.dst c d]) (do
    trapIf (md.rows.any fun b => overlaps d.toNat c.rcN b.toNat c.rcN) .matf (d.zeroExtend 64)
    let (v, act) ← sources c m md.rows
    loadWhole (forN c.count fun j =>
      if act j then atElem j do
        let x ← readElem p (elemAddr c e v md j) (j % 2 == 1) c.width
        wr c d.toNat j x
      else masked c d.toNat j))

/-- A vector store (R149–R152): each active element from ESTART upward. -/
def storeTile (d : BitVec 7) (m : BitVec 1) (p : Space) (md : Addressing) (e : Entry) : M Unit := do
  let c := e.cfg
  maskVl c m
  vrun c (Opnd.src c d :: md.rows.map (Opnd.src c)) (do
    let (v, act) ← sources c m (d :: md.rows)
    forN c.count fun j =>
      if act j then atElem j (writeElem p (elemAddr c e v md j) (j % 2 == 1) c.width (v.el c d j))
      else pure ())

/-- MATF for the offending element of a record; XVAL is its number. -/
def recordFault (bad : Option Nat) : M Unit :=
  match bad with
  | some i => trap .matf (BitVec.ofNat 64 i)
  | none => pure ()

/-- MATF unless a record is well formed (R153). -/
def checkRecord (type : Option Nat) (r : List (BitVec 32)) : M Unit := recordFault (recBad type r)

/-- VLD (R149): Contiguous vector load from global memory. -/
def performVld (d : BitVec 7) (m : BitVec 1) (e : Entry) : M Unit :=
  loadTile d m globalPlain .unit e

/-- VLD: dispatch (R416) and execution. -/
def execVld (d : BitVec 7) (a : BitVec 7) (m : BitVec 1) (s : State) : Host.Outcome State Fault Refusal :=
  dispatchV (encVld d a m).toWord 0 { etypes := upTo11, a := .scalar a } (performVld d m) s

/-- VLDS (R149): Strided vector load. -/
def performVlds (d : BitVec 7) (m : BitVec 1) (e : Entry) : M Unit :=
  loadTile d m globalPlain .stride e

/-- VLDS: dispatch (R416) and execution. -/
def execVlds (d : BitVec 7) (a : BitVec 7) (b : BitVec 7) (m : BitVec 1) (s : State) : Host.Outcome State Fault Refusal :=
  dispatchV (encVlds d a b m).toWord 0 { etypes := not4bit, a := .scalar a, b := .scalar b } (performVlds d m) s

/-- VST (R149): Contiguous vector store. -/
def performVst (d : BitVec 7) (m : BitVec 1) (e : Entry) : M Unit :=
  storeTile d m globalPlain .unit e

/-- VST: dispatch (R416) and execution. -/
def execVst (d : BitVec 7) (a : BitVec 7) (m : BitVec 1) (s : State) : Host.Outcome State Fault Refusal :=
  dispatchV (encVst d a m).toWord 0 { etypes := upTo11, a := .scalar a } (performVst d m) s

/-- VSTS (R149): Strided vector store. -/
def performVsts (d : BitVec 7) (m : BitVec 1) (e : Entry) : M Unit :=
  storeTile d m globalPlain .stride e

/-- VSTS: dispatch (R416) and execution. -/
def execVsts (d : BitVec 7) (a : BitVec 7) (b : BitVec 7) (m : BitVec 1) (s : State) : Host.Outcome State Fault Refusal :=
  dispatchV (encVsts d a b m).toWord 0 { etypes := not4bit, a := .scalar a, b := .scalar b } (performVsts d m) s

/-- VLDX (R149): Indexed vector gather load. -/
def performVldx (d : BitVec 7) (b : BitVec 7) (m : BitVec 1) (e : Entry) : M Unit :=
  loadTile d m globalIndexed (.index b) e

/-- VLDX: dispatch (R416) and execution. -/
def execVldx (d : BitVec 7) (a : BitVec 7) (b : BitVec 7) (m : BitVec 1) (s : State) : Host.Outcome State Fault Refusal :=
  dispatchV (encVldx d a b m).toWord 0 { etypes := not4bit, a := .scalar a } (performVldx d b m) s

/-- VSTX (R149): Indexed vector scatter store. -/
def performVstx (d : BitVec 7) (b : BitVec 7) (m : BitVec 1) (e : Entry) : M Unit :=
  storeTile d m globalIndexed (.index b) e

/-- VSTX: dispatch (R416) and execution. -/
def execVstx (d : BitVec 7) (a : BitVec 7) (b : BitVec 7) (m : BitVec 1) (s : State) : Host.Outcome State Fault Refusal :=
  dispatchV (encVstx d a b m).toWord 0 { etypes := not4bit, a := .scalar a } (performVstx d b m) s

/-- VLDP (R149): Contiguous load from the scratchpad. -/
def performVldp (d : BitVec 7) (m : BitVec 1) (e : Entry) : M Unit :=
  loadTile d m scratch .unit e

/-- VLDP: dispatch (R416) and execution. -/
def execVldp (d : BitVec 7) (a : BitVec 7) (m : BitVec 1) (s : State) : Host.Outcome State Fault Refusal :=
  dispatchV (encVldp d a m).toWord 0 { etypes := upTo11, a := .scalar a } (performVldp d m) s

/-- VSTP (R149): Contiguous store to the scratchpad. -/
def performVstp (d : BitVec 7) (m : BitVec 1) (e : Entry) : M Unit :=
  storeTile d m scratch .unit e

/-- VSTP: dispatch (R416) and execution. -/
def execVstp (d : BitVec 7) (a : BitVec 7) (m : BitVec 1) (s : State) : Host.Outcome State Fault Refusal :=
  dispatchV (encVstp d a m).toWord 0 { etypes := upTo11, a := .scalar a } (performVstp d m) s

/-- VLDPX (R149): Indexed load from the scratchpad. -/
def performVldpx (d : BitVec 7) (b : BitVec 7) (m : BitVec 1) (e : Entry) : M Unit :=
  loadTile d m scratch (.index b) e

/-- VLDPX: dispatch (R416) and execution. -/
def execVldpx (d : BitVec 7) (a : BitVec 7) (b : BitVec 7) (m : BitVec 1) (s : State) : Host.Outcome State Fault Refusal :=
  dispatchV (encVldpx d a b m).toWord 0 { etypes := not4bit, a := .scalar a } (performVldpx d b m) s

/-- VSTPX (R149): Indexed store to the scratchpad. -/
def performVstpx (d : BitVec 7) (b : BitVec 7) (m : BitVec 1) (e : Entry) : M Unit :=
  storeTile d m scratch (.index b) e

/-- VSTPX: dispatch (R416) and execution. -/
def execVstpx (d : BitVec 7) (a : BitVec 7) (b : BitVec 7) (m : BitVec 1) (s : State) : Host.Outcome State Fault Refusal :=
  dispatchV (encVstpx d a b m).toWord 0 { etypes := not4bit, a := .scalar a } (performVstpx d b m) s

/-- VLDT (R153): Tensor load addressed by a shape record. MATF of an overlap or of a bad record comes after the rows and their streams
are checked (DEDUCED, log 27). -/
def performVldt (d : BitVec 7) (a : BitVec 7) (m : BitVec 1) (e : Entry) : M Unit :=
  do
  let c := e.cfg
  maskVl c m
  vrun c [Opnd.rawIn a a.toNat 1, Opnd.dst c d] (do
    trapIf (overlaps d.toNat c.rcN a.toNat 1) .matf (d.zeroExtend 64)
    let r ← rowRecord c a
    checkRecord (some c.et) r
    let (_, act) ← sources c m []
    loadWhole (forN c.count fun j =>
      if act j && j < recN r then atElem j do
        let x ← recRead r j
        wr c d.toNat j x
      else if act j && recPad r then wr c d.toNat j (recW r 12)
      else masked c d.toNat j))

/-- VLDT: dispatch (R416) and execution. -/
def execVldt (d : BitVec 7) (a : BitVec 7) (m : BitVec 1) (s : State) : Host.Outcome State Fault Refusal :=
  dispatchV (encVldt d a m).toWord 0 { etypes := not4bit } (performVldt d a m) s

/-- VSTT (R153): Tensor store addressed by a shape record. -/
def performVstt (d : BitVec 7) (a : BitVec 7) (m : BitVec 1) (e : Entry) : M Unit :=
  do
  let c := e.cfg
  maskVl c m
  vrun c [Opnd.src c d, Opnd.rawIn a a.toNat 1] (do
    let r ← rowRecord c a
    checkRecord (some c.et) r
    let (v, act) ← sources c m [d]
    forN c.count fun j =>
      if act j && j < recN r then atElem j (recWrite r j (v.el c d j)) else pure ())

/-- VSTT: dispatch (R416) and execution. -/
def execVstt (d : BitVec 7) (a : BitVec 7) (m : BitVec 1) (s : State) : Host.Outcome State Fault Refusal :=
  dispatchV (encVstt d a m).toWord 0 { etypes := not4bit } (performVstt d a m) s

end Sys2Proof.Machine
end

