-- ==== Sys2Proof/Machine/VMove.lean ====
section
/-! DEFINITION. Data movement (R139): the VMOV family, and VQRECV (R121). -/

namespace Sys2Proof.Machine

/-- Element k of the tile at n, where the tile has it: `none` past the end of a stream without padding (R195). -/
def pick? (v : VecRegs) (c : VConf) (n : BitVec 7) (k : Nat) : Option Nat :=
  if inStrip v c n k then some (v.el c n k) else none

/-- A movement that writes position j of d with what `f` gives, and passes the others through `masked`. `f` sees the
registers as they stood, the PSEL predicate and the position. -/
def moveTile (c : VConf) (d : BitVec 7) (m : BitVec 1) (srcs : List (BitVec 7))
    (f : VecRegs → BitVec 1024 → Nat → Option Nat) : M Unit :=
  vrun c (srcs.map (Opnd.src c) ++ [Opnd.dst c d]) (do
    let v := (← getHart).vec
    let p := predOf v c.psel.toNat
    putTileW c d.toNat c.width fun j => pure (if activeIn c m p j then f v p j else none))

/-- Sign-extended to 64 bits for INT8, INT16, INT32 and MXINT8, else the zero-extended pattern (R139). -/
def extendElem (et x : Nat) : Word :=
  if isSignedType et || et == 11 then BitVec.ofInt 64 (sextNat (widthOf et) x) else BitVec.ofNat 64 x

/-- Elements 2j and 2j+1 of the 2RC-row tile at d are element j of a and of b (R139). -/
def zipTile (c : VConf) (d a b : BitVec 7) : M Unit := do
  let v := (← getHart).vec
  forN (2 * c.count) fun k => do
    let n := if k % 2 = 0 then a else b
    match pick? v c n (k / 2) with
    | some x => wr c d.toNat k x
    | none => masked c d.toNat k

/-- Element j of the tile at d is element 2j of the 2RC-row tile at a, and element j of the tile at d + RC is element
2j+1 (R139). A bound row a or a + RC gives its own strip (R195). -/
def unzipTile (c : VConf) (d a : BitVec 7) : M Unit := do
  let v := (← getHart).vec
  forN (2 * c.count) fun k => do
    let n := a + BitVec.ofNat 7 (k / c.count * c.rcN)
    let t := k % 2 * c.rcN + k / 2 / c.vlN
    match pick? v c n (k % c.count) with
    | some x => wrAt c d.toNat t (k / 2 % c.vlN) c.width x
    | none => if c.maskmode = 1 then wrAt c d.toNat t (k / 2 % c.vlN) c.width 0 else clearAt c d.toNat t

/-- VMV (R139): Copies tile a to tile d. -/
def performVmv (d : BitVec 7) (a : BitVec 7) (m : BitVec 1) (e : Entry) : M Unit :=
  do
  let c := e.cfg
  maskVl c m
  moveTile c d m [a] fun v _ j => pick? v c a j

/-- VMV: dispatch (R416) and execution. -/
def execVmv (d : BitVec 7) (a : BitVec 7) (m : BitVec 1) (s : State) : Host.Outcome State Fault Refusal :=
  dispatchV (encVmv d a m).toWord 0 { etypes := upTo11 } (performVmv d a m) s

/-- VSEL (R139): Selects a or b per the PSEL predicate. The functions of VMOV that take M use `active` and honour ESTART; VSEL, VIOTA,
VCOMPRESS, VEXPAND, VZIP and VUNZIP ignore it (DEDUCED, log 108). -/
def performVsel (d : BitVec 7) (a : BitVec 7) (b : BitVec 7) (e : Entry) : M Unit :=
  do
  let c := e.cfg.from0
  needPredVl c
  moveTile c d 0 [a, b] fun v p j => pick? v c (if p.getLsbD (j % c.vlN) then a else b) j

/-- VSEL: dispatch (R416) and execution. -/
def execVsel (d : BitVec 7) (a : BitVec 7) (b : BitVec 7) (s : State) : Host.Outcome State Fault Refusal :=
  dispatchV (encVsel d a b).toWord 0 { etypes := upTo11 } (performVsel d a b) s

/-- VIOTA (R139): Writes prefix counts of the PSEL predicate. -/
def performViota (d : BitVec 7) (e : Entry) : M Unit :=
  do
  let c := e.cfg.from0
  needPredVl c
  moveTile c d 0 [] fun _ p j => some (popBelow p (j % c.vlN))

/-- VIOTA: dispatch (R416) and execution. -/
def execViota (d : BitVec 7) (s : State) : Host.Outcome State Fault Refusal :=
  dispatchV (encViota d).toWord 0 { etypes := isIntType } (performViota d) s

/-- VSLIDEUP (R139): Slides each row up by s positions. -/
def performVslideup (d : BitVec 7) (a : BitVec 7) (m : BitVec 1) (e : Entry) : M Unit :=
  do
  let c := e.cfg
  maskVl c m
  let k := e.b0.toNat
  moveTile c d m [a] fun v _ j => if j % c.vlN < k then none else pick? v c a (j - k)

/-- VSLIDEUP: dispatch (R416) and execution. -/
def execVslideup (d : BitVec 7) (a : BitVec 7) (b : BitVec 7) (m : BitVec 1) (s : State) : Host.Outcome State Fault Refusal :=
  dispatchV (encVslideup d a b m).toWord 0 { etypes := upTo11, b := .scalar b } (performVslideup d a m) s

/-- VSLIDEDN (R139): Slides each row down by s positions. -/
def performVslidedn (d : BitVec 7) (a : BitVec 7) (m : BitVec 1) (e : Entry) : M Unit :=
  do
  let c := e.cfg
  maskVl c m
  let k := e.b0.toNat
  moveTile c d m [a] fun v _ j => if j % c.vlN + k < c.vlN then pick? v c a (j + k) else some 0

/-- VSLIDEDN: dispatch (R416) and execution. -/
def execVslidedn (d : BitVec 7) (a : BitVec 7) (b : BitVec 7) (m : BitVec 1) (s : State) : Host.Outcome State Fault Refusal :=
  dispatchV (encVslidedn d a b m).toWord 0 { etypes := upTo11, b := .scalar b } (performVslidedn d a m) s

/-- VREV (R139): Reverses each row. -/
def performVrev (d : BitVec 7) (a : BitVec 7) (m : BitVec 1) (e : Entry) : M Unit :=
  do
  let c := e.cfg
  maskVl c m
  moveTile c d m [a] fun v _ j => pick? v c a (j / c.vlN * c.vlN + (c.vlN - 1 - j % c.vlN))

/-- VREV: dispatch (R416) and execution. -/
def execVrev (d : BitVec 7) (a : BitVec 7) (m : BitVec 1) (s : State) : Host.Outcome State Fault Refusal :=
  dispatchV (encVrev d a m).toWord 0 { etypes := upTo11 } (performVrev d a m) s

/-- VCOMPRESS (R139): Packs selected positions to the front of each row. -/
def performVcompress (d : BitVec 7) (a : BitVec 7) (e : Entry) : M Unit :=
  do
  let c := e.cfg.from0
  needPredVl c
  moveTile c d 0 [a] fun v p j =>
    match findFrom c.vlN 0 (fun i => p.getLsbD i && popBelow p i == j % c.vlN) with
    | some i => pick? v c a (j / c.vlN * c.vlN + i)
    | none => none

/-- VCOMPRESS: dispatch (R416) and execution. -/
def execVcompress (d : BitVec 7) (a : BitVec 7) (s : State) : Host.Outcome State Fault Refusal :=
  dispatchV (encVcompress d a).toWord 0 { etypes := upTo11 } (performVcompress d a) s

/-- VEXPAND (R139): Spreads leading elements to selected positions. -/
def performVexpand (d : BitVec 7) (a : BitVec 7) (e : Entry) : M Unit :=
  do
  let c := e.cfg.from0
  needPredVl c
  moveTile c d 0 [a] fun v p j =>
    if p.getLsbD (j % c.vlN) then pick? v c a (j / c.vlN * c.vlN + popBelow p (j % c.vlN)) else none

/-- VEXPAND: dispatch (R416) and execution. -/
def execVexpand (d : BitVec 7) (a : BitVec 7) (s : State) : Host.Outcome State Fault Refusal :=
  dispatchV (encVexpand d a).toWord 0 { etypes := upTo11 } (performVexpand d a) s

/-- VTOS (R139): Delivers element s of the tile to q4; an element past the end of an unpadded stream is a free value (log 116). -/
def performVtos (a : BitVec 7) (e : Entry) : M Unit :=
  do
  let c := e.cfg
  vrun c [Opnd.src c a] (do
    needRoom
    let v := (← getHart).vec
    let k := e.b0.toNat
    deliver (if k < c.count then extendElem c.et (v.el c a k) else 0))

/-- VTOS: dispatch (R416) and execution. -/
def execVtos (a : BitVec 7) (b : BitVec 7) (s : State) : Host.Outcome State Fault Refusal :=
  dispatchV (encVtos a b).toWord 0 { etypes := upTo11, b := .scalar b } (performVtos a) s

/-- STOV (R139): Broadcasts a converted captured scalar to every element. -/
def performStov (d : BitVec 7) (m : BitVec 1) (e : Entry) : M Unit :=
  do
  let c := e.cfg
  maskVl c m
  vrun c [Opnd.dst c d] (do
    let p ← pselPred c
    let x ← if someActive c m p then convertScalar c e.b0.toNat else pure 0
    putTileW c d.toNat c.width fun j => pure (if activeIn c m p j then some x else none))

/-- STOV: dispatch (R416) and execution. -/
def execStov (d : BitVec 7) (b : BitVec 7) (m : BitVec 1) (s : State) : Host.Outcome State Fault Refusal :=
  dispatchV (encStov d b m).toWord 0 { etypes := upTo7, b := .scalar b } (performStov d m) s

/-- VPERM (R139): Permutes each row by index row b. -/
def performVperm (d : BitVec 7) (a : BitVec 7) (b : BitVec 7) (m : BitVec 1) (e : Entry) : M Unit :=
  do
  let c := e.cfg
  maskVl c m
  moveTile c d m [a, b] fun v _ j =>
    match pick? v c b j with
    | some k => if k < c.vlN then pick? v c a (j / c.vlN * c.vlN + k) else some 0
    | none => none

/-- VPERM: dispatch (R416) and execution. -/
def execVperm (d : BitVec 7) (a : BitVec 7) (b : BitVec 7) (m : BitVec 1) (s : State) : Host.Outcome State Fault Refusal :=
  dispatchV (encVperm d a b m).toWord 0 { etypes := upTo11 } (performVperm d a b m) s

/-- VZIP (R139): Interleaves two tiles into 2RC rows. -/
def performVzip (d : BitVec 7) (a : BitVec 7) (b : BitVec 7) (e : Entry) : M Unit :=
  do
  let c := e.cfg.from0
  vrun c [Opnd.src c a, Opnd.src c b, Opnd.dst c d, Opnd.dstAt c d 1] (zipTile c d a b)

/-- VZIP: dispatch (R416) and execution. -/
def execVzip (d : BitVec 7) (a : BitVec 7) (b : BitVec 7) (s : State) : Host.Outcome State Fault Refusal :=
  dispatchV (encVzip d a b).toWord 0 { etypes := upTo11 } (performVzip d a b) s

/-- VUNZIP (R139): De-interleaves 2RC rows into two tiles. -/
def performVunzip (d : BitVec 7) (a : BitVec 7) (e : Entry) : M Unit :=
  do
  let c := e.cfg.from0
  vrun c [Opnd.src c a, Opnd.srcAt c a 1, Opnd.dst c d, Opnd.dstAt c d 1] (unzipTile c d a)

/-- VUNZIP: dispatch (R416) and execution. -/
def execVunzip (d : BitVec 7) (a : BitVec 7) (s : State) : Host.Outcome State Fault Refusal :=
  dispatchV (encVunzip d a).toWord 0 { etypes := upTo11 } (performVunzip d a) s

/-- VQRECV (R121): Broadcasts the oldest entry of q0-q3 to a tile in the vector stream. -/
def performVqrecv (d : BitVec 7) (a : BitVec 7) (e : Entry) : M Unit :=
  do
  let c := e.cfg.from0
  vrun c [Opnd.dst c d] (do
    let h ← getHart
    match sparseGet [] h.queues a.toNat with
    | [] => block
    | x :: q => do
      modHart fun h => { h with queues := sparsePut [] h.queues a.toNat q }
      let fl := h.sys.fflags
      let y ← if c.count = 0 then pure 0 else convertScalar c x.toNat
      modSys fun r => { r with fflags := fl }
      putTileW c d.toNat c.width fun _ => pure (some y))

/-- VQRECV: dispatch (R416) and execution. -/
def execVqrecv (d : BitVec 7) (a : BitVec 7) (s : State) : Host.Outcome State Fault Refusal :=
  dispatchV (encVqrecv d a).toWord 0 { etypes := upTo7 } (performVqrecv d a) s

end Sys2Proof.Machine
end

