-- ==== Sys2Proof/Machine/Ordered.lean ====
section
/-! DEFINITION. Ordered runs (R157–R179): the ORD family. -/

namespace Sys2Proof.Machine

/-! ## Order words and keys (R157, R158) -/

/-- KTOF(ETYPE), and the types it maps (R163). -/
def ktOf (et : Nat) : Nat := match et with | 3 => 0 | 4 => 1 | 5 => 2 | 7 => 3 | _ => 4
def isKeyType (et : Nat) : Bool := et == 2 || et == 3 || et == 4 || et == 5 || et == 7

/-- The place of a floating-point pattern in the total order of R158: both zeros at 0, every NaN above +∞. -/
def fpOrder (f : Fmt) (x : Nat) : Int :=
  if f.isNan x then 2 ^ 40 else if f.neg x then -(f.mag x : Int) else f.mag x

/-- The place of a key in the total order of its key type (R158). -/
def keyOrder (kt x : Nat) : Int :=
  match kt with
  | 0 => sextNat 32 x
  | 1 => x
  | 2 => fpOrder fp32 x
  | 3 => fpOrder bf16 x
  | _ => sextNat 16 x

/-- `prec(x, y, dir)` and `same(x, y)` of R158. -/
def prec (kt : Nat) (desc : Bool) (x y : Nat) : Bool :=
  if desc then keyOrder kt y < keyOrder kt x else keyOrder kt x < keyOrder kt y
def sameKey (kt x y : Nat) : Bool := keyOrder kt x == keyOrder kt y

/-- Fields of an order word (R157). -/
def owS (w : BitVec 32) : Bool := w.getLsbD 0
def owDir (w : BitVec 32) : Bool := w.getLsbD 1
def owKt (w : BitVec 32) : Nat := (w.extractLsb' 2 3).toNat
def owPk (w : BitVec 32) : Nat := (w.extractLsb' 5 2).toNat
def owCont (w : BitVec 32) : Bool := w.getLsbD 7
def owLen (w : BitVec 32) : Nat := (w.extractLsb' 8 12).toNat

/-- The order word of a sorted row. -/
def orderWord (desc : Bool) (kt pk : Nat) (cont : Bool) (len : Nat) : BitVec 32 :=
  BitVec.ofNat 32 (1 + 2 * desc.toNat + 4 * kt + 32 * pk + 128 * cont.toNat + 256 * len)

/-- The order word of a physical row. -/
def orderOf (v : VecRegs) (row : Nat) : BitVec 32 := sparseGet 0 v.order row

/-- Set the order word of a physical row; a bound row keeps 0 (R162). -/
def setOrder (row : Nat) (w : BitVec 32) : M Unit := modVec fun v =>
  if (streamAt v row).isSome then v else { v with order := sparsePut 0 v.order row w }

/-! ## Sorted operands (R159, R160, R164) -/

/-- A sorted operand: KT, DIR, PK, the keys and the payload in run order. -/
structure Run where
  kt : Nat
  desc : Bool
  pk : Nat
  keys : List Nat
  pays : List Nat

/-- XVAL of ORDNS and ORDMM (R164). -/
def orderXval (opnd why row idx : Nat) : Word := BitVec.ofNat 64 (opnd + 4 * why + 256 * row + 65536 * idx)

/-- PK of the first row of a sorted operand, as the window check of its payload rows reads it. -/
def firstPk (v : VecRegs) (c : VConf) (n : BitVec 7) : Nat :=
  let w := orderOf v (c.vwb.toNat + n.toNat)
  if owS w then owPk w else 0

/-- An operand that a stream never serves: only its rows are checked (R23). -/
def checkSpan (c : VConf) (n : BitVec 7) (first count : Nat) : M Unit :=
  if count = 0 then pure () else checkRowsNat c first count n

/-- Window checks of a sorted operand of `rows` rows with its payload rows (R160, R164). -/
def checkRun (c : VConf) (n : BitVec 7) (rows : Nat) (pay : Bool) : M Unit := do
  checkSpan c n n.toNat rows
  let v := (← getHart).vec
  if pay && firstPk v c n != 0 then checkSpan c n (n.toNat + rows) rows

/-- Why row t of a sorted operand is not valid (R159, R164). A row that fails several conditions reports the first of S, CONT, LEN and
disagreement: R164 orders rows, not conditions (log 82). -/
def rowFault (v : VecRegs) (base t : Nat) : Option Nat :=
  let w := orderOf v (base + t)
  let f := orderOf v base
  if !owS w then some 0
  else if t = 0 && owCont w then some 1
  else if t != 0 && !owCont w then some 2
  else if (if owKt w < 3 then 1024 else 2048) < owLen w then some 3
  else if owKt w != owKt f || owDir w != owDir f || owPk w != owPk f then some 4
  else none

/-- ORDNS on a sorted operand, row by row (R159, R164). -/
def needSorted (c : VConf) (n : BitVec 7) (rows opnd : Nat) : M Unit := do
  let v := (← getHart).vec
  match (List.range rows).findSome? fun t => (rowFault v (c.vwb.toNat + n.toNat) t).map fun why => (t, why) with
  | some (t, why) => trap .ordns (orderXval opnd why t 0)
  | none => pure ()

/-- The `w`-bit element at position i of a physical row. -/
def rowElem (v : VecRegs) (row i w : Nat) : Nat := leNat (sparseGetList 0 v.rows (rowKey row (i * (w / 8))) (w / 8))

/-- Read a sorted operand of `rows` rows: `okey` and `opay` in run order. Its rows are bound to no stream (R162); payload rows may
be (R195). An uncorrectable error in its keys raises MCE (R212); R164 does not place that check: it comes as the keys are read, after
ORDNS and before ORDMM (DEDUCED, log 105). -/
def readRun (c : VConf) (n : BitVec 7) (rows : Nat) : M Run := do
  let v := (← getHart).vec
  let base := c.vwb.toNat + n.toNat
  let f := orderOf v base
  let longest := ((List.range rows).map fun t => owLen (orderOf v (base + t))).foldl Nat.max 0
  checkErrors c ⟨n, n.toNat, rows, .src, 1, longest * (c.width / 8)⟩
  let places := (List.range rows).flatMap fun t => (List.range (owLen (orderOf v (base + t)))).map fun i => (t, i)
  pure ⟨owKt f, owDir f, owPk f, places.map fun p => rowElem v (base + p.1) p.2 c.width,
    places.map fun p => if owPk f = 0 then 0 else tileElem v c.vwb.toNat (n.toNat + rows) p.1 p.2 c.width⟩

/-- ORDMM where a run's KT differs from KTOF(ETYPE) (R164). -/
def needKt (c : VConf) (r : Run) (opnd : Nat) : M Unit := trapIf (r.kt != ktOf c.et) .ordmm (orderXval opnd 0 0 0)

/-- `setrun` of R161 for the rows from row `off` on of the tile named n, whose payload goes to the same rows of the tile `pay`;
MATF when the run does not fit. -/
def setRun (c : VConf) (n off rows pay : Nat) (keys pays : List Nat) (desc : Bool) (pk : Nat) : M Unit := do
  let len := keys.length
  trapIf (rows * c.vlN < len) .matf (BitVec.ofNat 64 len)
  if c.vlN = 0 then pure ()
  else
    forN len fun i => do
      wrAt c n (off + i / c.vlN) (i % c.vlN) c.width (keys.getD i 0)
      if pk != 0 then wrAt c pay (off + i / c.vlN) (i % c.vlN) c.width (pays.getD i 0)
    forN rows fun t => do
      setOrder (c.vwb.toNat + n + off + t)
        (orderWord desc (ktOf c.et) pk (t != 0) (Nat.min (len - t * c.vlN) c.vlN))
      if pk != 0 then setOrder (c.vwb.toNat + pay + off + t) 0

/-- An ORD entry other than VMOT: MATF under a mask with VL above 1,024, ESTART taken as 0 and saved as 0 (R165). -/
def ordEntry (e : Entry) (m : BitVec 1) (body : VConf → M Unit) : M Unit := do
  setProgress 0
  let c := e.cfg.from0
  maskVl c m
  body c

/-! ## Sorting (R167, R174) -/

/-- Insert a key with its payload before every element that it does not follow: sorting with it is stable. -/
def insertKey (before : Nat → Nat → Bool) (x : Nat × Nat) : List (Nat × Nat) → List (Nat × Nat)
  | [] => [x]
  | y :: ys => if before y.1 x.1 then y :: insertKey before x ys else x :: y :: ys

/-- A stable sort by `prec`. -/
def sortKeys (before : Nat → Nat → Bool) : List (Nat × Nat) → List (Nat × Nat)
  | [] => []
  | x :: xs => insertKey before x (sortKeys before xs)

/-- The active elements at positions lo … lo+n-1 of a tile with their payload (R167): companion rows, the index counted from
lo, or none. -/
def activeKeys (v : VecRegs) (c : VConf) (a : BitVec 7) (act : Nat → Bool) (pk lo n : Nat) : List (Nat × Nat) :=
  ((List.range n).filter fun i => act (lo + i)).map fun i =>
    let j := lo + i
    (v.el c a j, if pk = 1 then tileElem v c.vwb.toNat (a.toNat + c.rcN) (j / c.vlN) (j % c.vlN) c.width
      else if pk = 2 then i else 0)

/-- VSORT with its qualifiers (R167). -/
def sortTile (d a : BitVec 7) (pk : Nat) (byRow desc : Bool) (c : VConf) (m : BitVec 1) : M Unit := do
  let extra := (if pk = 1 then [Opnd.srcAt c a 1] else []) ++ (if pk != 0 then [Opnd.dstAt c d 1] else [])
  vrun c ([Opnd.src c a, Opnd.dst c d] ++ extra) (do
    let (v, act) ← sources c m (a :: if pk = 1 then [c.tileName a 1] else [])
    let sorted := fun lo n => sortKeys (prec (ktOf c.et) desc) (activeKeys v c a act pk lo n)
    if byRow then
      forN c.rcN fun t => do
        let xs := sorted (t * c.vlN) c.vlN
        setRun c d.toNat t 1 (d.toNat + c.rcN) (xs.map Prod.fst) (xs.map Prod.snd) desc pk
    else
      let xs := sorted 0 c.count
      setRun c d.toNat 0 c.rcN (d.toNat + c.rcN) (xs.map Prod.fst) (xs.map Prod.snd) desc pk)

/-! ## Two runs (R169–R171) -/

/-- The checks of an instruction on two runs (R164), and the PK of the runs. The window checks take a, b, d, then the payload rows of
each (log 26). -/
def twoRuns (c : VConf) (d a b : BitVec 7) (rows : Nat) : M Nat := do
  checkSpan c a a.toNat c.rcN
  checkSpan c b b.toNat c.rcN
  checkSpan c d d.toNat rows
  let v := (← getHart).vec
  checkRun c a c.rcN true
  checkRun c b c.rcN true
  if firstPk v c a != 0 then checkSpan c d (d.toNat + rows) rows
  needSorted c a c.rcN 1
  needSorted c b c.rcN 2
  let x ← readRun c a c.rcN
  let y ← readRun c b c.rcN
  needKt c x 1
  needKt c y 2
  trapIf (x.kt != y.kt) .ordmm (orderXval 3 0 0 0)
  trapIf (x.desc != y.desc) .ordmm (orderXval 3 1 0 0)
  trapIf (x.pk != y.pk) .ordmm (orderXval 3 2 0 0)
  pure x.pk

/-- The merge of R169: on equal keys the first run's element goes first. The fuel is the total length. -/
def mergeKeys (before : Nat → Nat → Bool) : Nat → List (Nat × Nat) → List (Nat × Nat) → List (Nat × Nat)
  | 0, xs, ys => xs ++ ys
  | _ + 1, [], ys => ys
  | _ + 1, xs, [] => xs
  | k + 1, x :: xs, y :: ys =>
    if before y.1 x.1 then y :: mergeKeys before k (x :: xs) ys else x :: mergeKeys before k xs (y :: ys)

/-- Elements of a whose rank among equal keys passes a test against the number of equal keys in b (R170). -/
def matchKeys (r : Run) (other : List Nat) (keep : Nat → Nat → Bool) : List (Nat × Nat) :=
  ((List.range r.keys.length).filter fun i =>
    let x := r.keys.getD i 0
    keep ((r.keys.take (i + 1)).countP fun y => sameKey r.kt x y) (other.countP fun y => sameKey r.kt x y)).map fun i =>
      (r.keys.getD i 0, r.pays.getD i 0)

/-- The groups of equal neighbouring keys: the first element of each with the group's size (R171). -/
def groupKeys (kt : Nat) : List (Nat × Nat) → List ((Nat × Nat) × Nat)
  | [] => []
  | x :: xs =>
    match groupKeys kt xs with
    | (y, n) :: gs => if sameKey kt x.1 y.1 then (x, n + 1) :: gs else (x, 1) :: (y, n) :: gs
    | [] => [(x, 1)]

/-- Write a run of `tiles` tiles of RC rows at d with its payload rows behind it, reading the payload of the runs at `srcs`: the
streams bound to those rows serve the entry (R195, R196); the rows are checked already. The misuse check of those streams is not placed by
R164: it comes after ORDMM and before the capacity check (DEDUCED, log 105). -/
def intoRun (c : VConf) (d : BitVec 7) (tiles pk : Nat) (srcs : List (BitVec 7)) (body : M Unit) : M Unit :=
  vrun c ((if pk = 0 then [] else srcs.map fun n => Opnd.srcAt c n 1) ++
    (List.range (if pk = 0 then tiles else 2 * tiles)).map (Opnd.dstAt c d)) body

/-- VINTER and VDIFF (R170). -/
def matchRuns (d a b : BitVec 7) (keep : Nat → Nat → Bool) (c : VConf) : M Unit := do
  let pk ← twoRuns c d a b c.rcN
  intoRun c d 1 pk [a] (do
    let x ← readRun c a c.rcN
    let y ← readRun c b c.rcN
    let r := matchKeys x y.keys keep
    setRun c d.toNat 0 c.rcN (d.toNat + c.rcN) (r.map Prod.fst) (r.map Prod.snd) x.desc x.pk)

/-- VUNIQ and VUNIQC (R171). -/
def uniqueRun (d a : BitVec 7) (counted : Bool) (c : VConf) : M Unit := do
  checkSpan c a a.toNat c.rcN
  checkSpan c d d.toNat c.rcN
  checkRun c a c.rcN (!counted)
  let v := (← getHart).vec
  if counted || firstPk v c a != 0 then checkSpan c d (d.toNat + c.rcN) c.rcN
  needSorted c a c.rcN 1
  let r ← readRun c a c.rcN
  needKt c r 1
  intoRun c d 1 (if counted then 1 else r.pk) (if counted then [] else [a]) (do
    let x ← readRun c a c.rcN
    let gs := groupKeys x.kt (x.keys.zip x.pays)
    let top := 2 ^ c.width - 1
    setRun c d.toNat 0 c.rcN (d.toNat + c.rcN) (gs.map fun g => g.1.1)
      (gs.map fun g => if counted then Nat.min g.2 top else g.1.2) x.desc (if counted then 1 else x.pk)
    if counted && gs.any fun g => top < g.2 then setFlags flSAT)

/-! ## Locating keys (R172, R173) -/

/-- VRANK and VRANKU (R172). The payload rows of a are checked with a, before b and d (DEDUCED, log 26). -/
def rankTile (d a b : BitVec 7) (m : BitVec 1) (counts : Nat → Nat → Nat → Bool) (c : VConf) : M Unit := do
  checkRun c a c.rcN true
  checkSpan c b b.toNat c.rcN
  checkSpan c d d.toNat c.rcN
  needSorted c a c.rcN 1
  let x ← readRun c a c.rcN
  needKt c x 1
  vrun c [Opnd.src c b, Opnd.dst c d] (do
    let (v, act) ← sources c m [b]
    putTileW c d.toNat c.width fun j =>
      if act j then do
        let n := x.keys.countP fun k => counts x.kt k (v.el c b j)
        let top := 2 ^ c.width - 1
        quietly c (padded v c b j) (if top < n then setFlags flSAT else pure ())
        pure (some (Nat.min n top))
      else pure none)

/-- Put the active elements, ordered by bucket, at positions 0, 1, … of d and their buckets at those of d + RC (R173). The payload rows of
b are checked with b, before d (DEDUCED, log 26). -/
def partTile (d a b : BitVec 7) (m : BitVec 1) (c : VConf) : M Unit := do
  checkSpan c a a.toNat c.rcN
  checkRun c b 1 true
  checkSpan c d d.toNat (2 * c.rcN)
  needSorted c b 1 2
  let x ← readRun c b 1
  needKt c x 2
  vrun c [Opnd.src c a, Opnd.dst c d, Opnd.dstAt c d 1] (do
    let (v, act) ← sources c m [a]
    let items := ((List.range c.count).filter act).map fun j =>
      (x.keys.countP (fun k => !prec x.kt false (v.el c a j) k), v.el c a j)
    let xs := sortKeys (fun i j => i < j) items
    forN c.count fun j =>
      match xs[j]? with
      | some (k, y) => do
        wr c d.toNat j y
        wr c (d.toNat + c.rcN) j k
      | none => do
        masked c d.toNat j
        masked c (d.toNat + c.rcN) j)

/-! ## Streamed merging (R175–R177) -/

/-- The head of an input stream `k` elements after its position, `none` at the end; a fault is recorded and raises STRF
(R177). -/
def streamHead (slot : Nat) (st : Stream) (k : Nat) : M (Option Nat) := do
  match ← fetchStrip st 1 (st.pos + k) with
  | (_, some f) => raiseStream slot st f
  | ([], none) => pure none
  | (x :: _, none) => pure (some x)

/-- A head that stands before its stream's last key raises ORDNS (R175). -/
def checkHead (st : Stream) (k : Nat) (desc : Bool) (last : Option (BitVec 32)) (opnd kt : Nat) : Option Nat → M Unit
  | none => pure ()
  | some x => match last with
    | some l => trapIf (prec kt desc x l.toNat) .ordns (orderXval opnd 5 0 ((st.pos + k) % 2 ^ 32))
    | none => pure ()

/-- The first phase of VMERGES (R175): the elements taken, in order, and how many came from each stream with its last key. Both heads
are fetched before either is checked. -/
def mergeHeads (sa sb : Nat × Stream) (desc : Bool) (kt : Nat) :
    Nat → Nat → Nat → Option (BitVec 32) → Option (BitVec 32) →
      M (List Nat × (Nat × Option (BitVec 32)) × Nat × Option (BitVec 32))
  | 0, i, k, la, lb => pure ([], (i, la), k, lb)
  | n + 1, i, k, la, lb => do
    let ha ← streamHead sa.1 sa.2 i
    let hb ← streamHead sb.1 sb.2 k
    checkHead sa.2 i desc la 1 kt ha
    checkHead sb.2 k desc lb 2 kt hb
    let fromB := match ha, hb with
      | _, none => false
      | none, some _ => true
      | some x, some y => prec kt desc y x
    match ha, hb with
    | none, none => pure ([], (i, la), k, lb)
    | _, _ =>
      if fromB then do
        let y := hb.getD 0
        let (xs, r) ← mergeHeads sa sb desc kt n i (k + 1) la (some (BitVec.ofNat 32 y))
        pure (y :: xs, r)
      else do
        let x := ha.getD 0
        let (xs, r) ← mergeHeads sa sb desc kt n (i + 1) k (some (BitVec.ofNat 32 x)) lb
        pure (x :: xs, r)

/-- The binding that VMERGES needs at a field (R176). -/
def needBinding (c : VConf) (n : BitVec 7) (out : Bool) : M (Nat × Stream) := do
  let h ← getHart
  match streamAt h.vec (c.vwb.toNat + n.toNat) with
  | some (slot, st) => if st.out == out then pure (slot, st) else strf n.toNat 0
  | none => strf n.toNat 0

/-- DIR and KT as e11 of a record declares them (R154). -/
def recSorted (r : List (BitVec 32)) : Bool := bitOf (recW r 11) 0
def recDesc (r : List (BitVec 32)) : Bool := bitOf (recW r 11) 1
def recKt (r : List (BitVec 32)) : Nat := bitsOf (recW r 11) 4 2

/-- VMERGES (R175–R177). A fault recorded at the output stream raises STRF even where nothing is appended, with VL 0 or both inputs
exhausted: R239 and R176 both speak of the case; so does MCE of an error in a bound buffer, which R212 and R176 pull apart (DEDUCED,
log 106). -/
def mergeStreams (d a b : BitVec 7) (c : VConf) : M Unit := do
  checkSpan c a a.toNat c.rcN
  checkSpan c b b.toNat c.rcN
  checkSpan c d d.toNat c.rcN
  let (ia, sa) ← needBinding c a false
  let (ib, sb) ← needBinding c b false
  let (id, sd) ← needBinding c d true
  if a = b then strf b.toNat 0
  trapIf (!recSorted sa.record) .ordns (orderXval 1 6 0 0)
  trapIf (!recSorted sb.record) .ordns (orderXval 2 6 0 0)
  trapIf (recKt sa.record != ktOf c.et) .ordmm (orderXval 1 0 0 0)
  trapIf (recKt sb.record != ktOf c.et) .ordmm (orderXval 2 0 0 0)
  trapIf (recDesc sa.record != recDesc sb.record) .ordmm (orderXval 3 1 0 0)
  if recType sa.record != c.et then strf a.toNat 0
  if recType sb.record != c.et then strf b.toNat 0
  if recType sd.record != c.et then strf d.toNat 0
  match sd.fault with
  | some f => raiseStream id sd f
  | none => pure ()
  [Opnd.src c a, Opnd.src c b, Opnd.dst c d].foldlM (fun _ o => checkErrors c o) ()
  let (xs, (na, la), nb, lb) ← mergeHeads (ia, sa) (ib, sb) (recDesc sa.record) (ktOf c.et) c.vlN 0 0 sa.lastKey sb.lastKey
  if recN sd.record < sd.pos + xs.length then strf d.toNat 0
  needRoom
  let sd ← streamRoomFor id sd xs.length
  putStream id (some { sd with pos := sd.pos + xs.length, buffer := sd.buffer ++ xs.map (BitVec.ofNat 32) })
  putStream ia (some { consume na sa with lastKey := la })
  putStream ib (some { consume nb sb with lastKey := lb })
  deliver (BitVec.ofNat 64 xs.length)

/-- B of VMTO is a legal order word (R179). -/
def orderLegal (x : Word) : Bool := bitsOf x.toNat 63 20 == 0 && bitsOf x.toNat 4 2 < 5 && bitsOf x.toNat 6 5 != 3

/-- VSORT (R167): Stably sorts the active elements into a run. -/
def performVsort (d : BitVec 7) (a : BitVec 7) (p : BitVec 2) (w : BitVec 1) (y : BitVec 1) (m : BitVec 1) (e : Entry) : M Unit :=
  ordEntry e m fun c => sortTile d a p.toNat (w == 1) (y == 1) c m

/-- VSORT: dispatch (R416) and execution. -/
def execVsort (d : BitVec 7) (a : BitVec 7) (p : BitVec 2) (w : BitVec 1) (y : BitVec 1) (m : BitVec 1) (s : State) : Host.Outcome State Fault Refusal :=
  dispatchV (encVsort d a p w y m).toWord 0 { whole := true, etypes := isKeyType } (performVsort d a p w y m) s

/-- VMERGE (R169): Merges two sorted runs into 2RC rows. -/
def performVmerge (d : BitVec 7) (a : BitVec 7) (b : BitVec 7) (e : Entry) : M Unit :=
  ordEntry e 0 fun c => do
    let pk ← twoRuns c d a b (2 * c.rcN)
    intoRun c d 2 pk [a, b] (do
      let x ← readRun c a c.rcN
      let y ← readRun c b c.rcN
      let xs := x.keys.zip x.pays
      let ys := y.keys.zip y.pays
      let r := mergeKeys (prec x.kt x.desc) (xs.length + ys.length) xs ys
      setRun c d.toNat 0 (2 * c.rcN) (d.toNat + 2 * c.rcN) (r.map Prod.fst) (r.map Prod.snd) x.desc x.pk)

/-- VMERGE: dispatch (R416) and execution. -/
def execVmerge (d : BitVec 7) (a : BitVec 7) (b : BitVec 7) (s : State) : Host.Outcome State Fault Refusal :=
  dispatchV (encVmerge d a b).toWord 0 { whole := true, etypes := isKeyType } (performVmerge d a b) s

/-- VMERGES (R175): Merges two bound input streams into an output stream. -/
def performVmerges (d : BitVec 7) (a : BitVec 7) (b : BitVec 7) (e : Entry) : M Unit :=
  ordEntry e 0 (mergeStreams d a b)

/-- VMERGES: dispatch (R416) and execution. -/
def execVmerges (d : BitVec 7) (a : BitVec 7) (b : BitVec 7) (s : State) : Host.Outcome State Fault Refusal :=
  dispatchV (encVmerges d a b).toWord 0 { whole := true, etypes := isKeyType } (performVmerges d a b) s

/-- VINTER (R170): Multiset intersection of two runs. -/
def performVinter (d : BitVec 7) (a : BitVec 7) (b : BitVec 7) (e : Entry) : M Unit :=
  ordEntry e 0 (matchRuns d a b fun n nb => n ≤ nb)

/-- VINTER: dispatch (R416) and execution. -/
def execVinter (d : BitVec 7) (a : BitVec 7) (b : BitVec 7) (s : State) : Host.Outcome State Fault Refusal :=
  dispatchV (encVinter d a b).toWord 0 { whole := true, etypes := isKeyType } (performVinter d a b) s

/-- VUNIQ (R171): Keeps the first element of each group of equal keys. -/
def performVuniq (d : BitVec 7) (a : BitVec 7) (e : Entry) : M Unit :=
  ordEntry e 0 (uniqueRun d a false)

/-- VUNIQ: dispatch (R416) and execution. -/
def execVuniq (d : BitVec 7) (a : BitVec 7) (s : State) : Host.Outcome State Fault Refusal :=
  dispatchV (encVuniq d a).toWord 0 { whole := true, etypes := isKeyType } (performVuniq d a) s

/-- VRANK (R172): Counts run elements below each probe. -/
def performVrank (d : BitVec 7) (a : BitVec 7) (b : BitVec 7) (m : BitVec 1) (e : Entry) : M Unit :=
  ordEntry e m (rankTile d a b m fun kt k x => prec kt false k x)

/-- VRANK: dispatch (R416) and execution. -/
def execVrank (d : BitVec 7) (a : BitVec 7) (b : BitVec 7) (m : BitVec 1) (s : State) : Host.Outcome State Fault Refusal :=
  dispatchV (encVrank d a b m).toWord 0 { whole := true, etypes := isKeyType } (performVrank d a b m) s

/-- VRANKU (R172): Counts run elements at or below each probe. -/
def performVranku (d : BitVec 7) (a : BitVec 7) (b : BitVec 7) (m : BitVec 1) (e : Entry) : M Unit :=
  ordEntry e m (rankTile d a b m fun kt k x => !prec kt false x k)

/-- VRANKU: dispatch (R416) and execution. -/
def execVranku (d : BitVec 7) (a : BitVec 7) (b : BitVec 7) (m : BitVec 1) (s : State) : Host.Outcome State Fault Refusal :=
  dispatchV (encVranku d a b m).toWord 0 { whole := true, etypes := isKeyType } (performVranku d a b m) s

/-- VPART (R173): Buckets elements by a sorted splitter row. -/
def performVpart (d : BitVec 7) (a : BitVec 7) (b : BitVec 7) (m : BitVec 1) (e : Entry) : M Unit :=
  ordEntry e m (partTile d a b m)

/-- VPART: dispatch (R416) and execution. -/
def execVpart (d : BitVec 7) (a : BitVec 7) (b : BitVec 7) (m : BitVec 1) (s : State) : Host.Outcome State Fault Refusal :=
  dispatchV (encVpart d a b m).toWord 0 { whole := true, etypes := isKeyType } (performVpart d a b m) s

/-- VCHKO (R168): Checks a tile's order and tags it as a run or delivers the failing index. -/
def performVchko (a : BitVec 7) (p : BitVec 2) (y : BitVec 1) (e : Entry) : M Unit :=
  ordEntry e 0 fun c => do
    if p != 0 then checkSpan c a a.toNat (2 * c.rcN)
    vrun c [Opnd.src c a] (do
      needRoom
      let v := (← getHart).vec
      let bad := findFrom (c.count - 1) 1 fun j => prec (ktOf c.et) (y == 1) (v.el c a j) (v.el c a (j - 1))
      match bad with
      | some j => do
        forN c.rcN fun t => setOrder (c.vwb.toNat + a.toNat + t) 0
        deliver (BitVec.ofNat 64 j)
      | none => do
        if c.vlN != 0 then
          forN c.rcN fun t => setOrder (c.vwb.toNat + a.toNat + t) (orderWord (y == 1) (ktOf c.et) p.toNat (t != 0) c.vlN)
        deliver (BitVec.allOnes 64))

/-- VCHKO: dispatch (R416) and execution. -/
def execVchko (a : BitVec 7) (p : BitVec 2) (y : BitVec 1) (s : State) : Host.Outcome State Fault Refusal :=
  dispatchV (encVchko a p y).toWord 0 { whole := true, etypes := isKeyType } (performVchko a p y) s

/-- VTOPK (R174): Writes the k greatest active elements as a descending run. -/
def performVtopk (d : BitVec 7) (a : BitVec 7) (m : BitVec 1) (e : Entry) : M Unit :=
  ordEntry e m fun c =>
    vrun c [Opnd.src c a, Opnd.dst c d, Opnd.dstAt c d 1] (do
      let (v, act) ← sources c m [a]
      let xs := (sortKeys (prec (ktOf c.et) true) (activeKeys v c a act 2 0 c.count)).take (Nat.min e.b0.toNat c.count)
      setRun c d.toNat 0 c.rcN (d.toNat + c.rcN) (xs.map Prod.fst) (xs.map Prod.snd) true 2)

/-- VTOPK: dispatch (R416) and execution. -/
def execVtopk (d : BitVec 7) (a : BitVec 7) (b : BitVec 7) (m : BitVec 1) (s : State) : Host.Outcome State Fault Refusal :=
  dispatchV (encVtopk d a b m).toWord 0 { whole := true, etypes := isKeyType, b := .scalar b } (performVtopk d a m) s

/-- VDIFF (R170): Multiset difference of two runs. -/
def performVdiff (d : BitVec 7) (a : BitVec 7) (b : BitVec 7) (e : Entry) : M Unit :=
  ordEntry e 0 (matchRuns d a b fun n nb => nb < n)

/-- VDIFF: dispatch (R416) and execution. -/
def execVdiff (d : BitVec 7) (a : BitVec 7) (b : BitVec 7) (s : State) : Host.Outcome State Fault Refusal :=
  dispatchV (encVdiff d a b).toWord 0 { whole := true, etypes := isKeyType } (performVdiff d a b) s

/-- VUNIQC (R171): Keeps first keys of groups with their counts as payload. -/
def performVuniqc (d : BitVec 7) (a : BitVec 7) (e : Entry) : M Unit :=
  ordEntry e 0 (uniqueRun d a true)

/-- VUNIQC: dispatch (R416) and execution. -/
def execVuniqc (d : BitVec 7) (a : BitVec 7) (s : State) : Host.Outcome State Fault Refusal :=
  dispatchV (encVuniqc d a).toWord 0 { whole := true, etypes := isKeyType } (performVuniqc d a) s

/-- VMOT (R178): Delivers order words of RC rows to q4. -/
def performVmot (a : BitVec 7) (e : Entry) : M Unit :=
  do
  let c := e.cfg
  checkSpan c a a.toNat c.rcN
  let v := (← getHart).vec
  deliverAll c.est ((List.range c.rcN).map fun t => (orderOf v (c.vwb.toNat + a.toNat + t)).zeroExtend 64)

/-- VMOT: dispatch (R416) and execution. -/
def execVmot (a : BitVec 7) (s : State) : Host.Outcome State Fault Refusal :=
  dispatchV (encVmot a).toWord 0 {} (performVmot a) s

/-- VMTO (R179): Privileged write of one row's order word; with VL = 0 it writes it too, since VMTO ignores VL (log 82). -/
def performVmto (a : BitVec 7) (e : Entry) : M Unit :=
  do
  setProgress 0
  let c := e.cfg
  checkSpan c a a.toNat 1
  setOrder (c.vwb.toNat + a.toNat) (e.b0.extractLsb' 0 20 |>.zeroExtend 32)

/-- VMTO: dispatch (R416) and execution. -/
def execVmto (a : BitVec 7) (b : BitVec 7) (s : State) : Host.Outcome State Fault Refusal :=
  dispatchV (encVmto a b).toWord 0 { whole := true, privileged := true, b := .scalar b, check := fun e => trapIf (!orderLegal e.b0) .ill e.b0 } (performVmto a) s

end Sys2Proof.Machine
end

