-- ==== Sys2Proof/Machine/Streams.lean ====
section
/-! DEFINITION. Stream bindings (R194–R197, R233–R239): the STRM family, and the events of the stream buffers. -/

namespace Sys2Proof.Machine

/-- The binding of a row, or STRF with reason 3 (R232). -/
def boundRow (c : VConf) (a : BitVec 7) : M (Nat × Stream) := do
  checkRowsNat c a.toNat 1 a
  match streamAt (← getHart).vec (c.vwb.toNat + a.toNat) with
  | some p => pure p
  | none => strf a.toNat 3

/-- Perform every appended element of an output stream, or raise the fault met or recorded (R235, R238, R239), or MCE for an error in its
buffer (R212). -/
def flushStream (slot : Nat) (st : Stream) : M Unit := do
  if st.bad then loseBuffer slot st
  match st.fault with
  | some f => raiseStream slot st f
  | none => do
    let st ← drainTo slot 0 st.buffer.length st
    match st.fault with
    | some f => raiseStream slot st f
    | none => pure ()

/-- SBIND (R234). -/
def bindRow (c : VConf) (d a : BitVec 7) (outp : Bool) : M Unit := do
  checkRowsNat c d.toNat 1 d
  vrun c [Opnd.rawIn a a.toNat 1] (do
    let r ← rowRecord c a
    recordFault (bindBad r)
    let v := (← getHart).vec
    let row := c.vwb.toNat + d.toNat
    if (streamAt v row).isSome then strf d.toNat 1
    match findFrom 8 0 fun i => (sparseGet none v.streams i).isNone with
    | none => strf d.toNat 2
    | some slot => do
      clearOrder row
      putStream slot (some ⟨BitVec.ofNat 7 row, r, outp, 0, none, [], none, false⟩))

/-- The word that SSTAT delivers (R236). -/
def streamWord (v : VecRegs) (row : Nat) : Word :=
  match streamAt v row with
  | none => 0
  | some (slot, st) => BitVec.ofNat 64 (st.pos % 2 ^ 32 + 2 ^ 32 * slot + 2 ^ 35 + 2 ^ 36 * st.out.toNat +
      2 ^ 37 * (!st.out && st.pos == recN st.record).toNat + 2 ^ 38 * st.fault.isSome.toNat)

/-- End every binding of the hart as SUNBIND ends one (R35, R235). -/
def unbindAll : M Unit :=
  forN 8 fun slot => do
    match sparseGet none (← getHart).vec.streams slot with
    | some st => do
      if st.out then flushStream slot st
      putStream slot none
    | none => pure ()

/-- The next element that an input buffer is to fetch. -/
def refillSlot (slot : Nat) : M Unit := do
  let s ← get
  match sparseGet none s.hart.vec.streams slot with
  | none => block
  | some st =>
    let j := st.pos + st.buffer.length
    if st.out || st.fault.isSome || recN st.record ≤ j || streamRoom s.myCore st ≤ st.buffer.length then block
    else
      match ← attempt (recRead st.record j) with
      | .ok x => putStream slot (some { st with buffer := st.buffer ++ [BitVec.ofNat 32 x] })
      | .error (.trap c a) =>
        putStream slot (some { st with fault := some ⟨j, c, if c = .keyf then recAddr st.record j else a⟩ })
      | .error e => throw e

/-- STREAM_REFILL (R194, R196): the buffer of a slot of the hart in focus fetches one element ahead, or records its fault. -/
def execStreamRefill (slot : BitVec 3) (s : State) : Host.Outcome State Fault Refusal :=
  runEvent (refillSlot slot.toNat) s

/-- STREAM_OUTPUT_WRITE (R239): the first held element of an output slot of the hart in focus is performed, or its fault is
recorded. A buffer with an error waits for the instruction that meets it (R212). -/
def execStreamOutputWrite (slot : BitVec 3) (s : State) : Host.Outcome State Fault Refusal :=
  runEvent (do
    match sparseGet none (← getHart).vec.streams slot.toNat with
    | some st => if st.out && st.fault.isNone && !st.buffer.isEmpty && !st.bad then (do let _ ← writeNext slot.toNat st; pure ()) else block
    | none => block) s

/-- SBIND (R234): Binds a row to a shape record as an input or output stream. -/
def performSbind (d : BitVec 7) (a : BitVec 7) (o : BitVec 1) (e : Entry) : M Unit :=
  bindRow e.cfg d a (o == 1)

/-- SBIND: dispatch (R416) and execution. -/
def execSbind (d : BitVec 7) (a : BitVec 7) (o : BitVec 1) (s : State) : Host.Outcome State Fault Refusal :=
  dispatchV (encSbind d a o).toWord 0 {} (performSbind d a o) s

/-- SUNBIND (R235): Ends a stream binding after flushing output. -/
def performSunbind (a : BitVec 7) (e : Entry) : M Unit :=
  do
  let (slot, st) ← boundRow e.cfg a
  if st.out then flushStream slot st
  putStream slot none

/-- SUNBIND: dispatch (R416) and execution. -/
def execSunbind (a : BitVec 7) (s : State) : Host.Outcome State Fault Refusal :=
  dispatchV (encSunbind a).toWord 0 {} (performSunbind a) s

/-- SSTAT (R236): Delivers a stream status word to q4. -/
def performSstat (a : BitVec 7) (e : Entry) : M Unit :=
  do
  checkRowsNat e.cfg a.toNat 1 a
  needRoom
  deliver (streamWord (← getHart).vec (e.cfg.vwb.toNat + a.toNat))

/-- SSTAT: dispatch (R416) and execution. -/
def execSstat (a : BitVec 7) (s : State) : Host.Outcome State Fault Refusal :=
  dispatchV (encSstat a).toWord 0 {} (performSstat a) s

/-- SADV (R237): Skips elements of an input stream unread. -/
def performSadv (a : BitVec 7) (e : Entry) : M Unit :=
  do
  let (slot, st) ← boundRow e.cfg a
  if st.out then strf a.toNat 4
  putStream slot (some { consume e.b0.toNat st with lastKey := none })

/-- SADV: dispatch (R416) and execution. -/
def execSadv (a : BitVec 7) (b : BitVec 7) (s : State) : Host.Outcome State Fault Refusal :=
  dispatchV (encSadv a b).toWord 0 { b := .scalar b } (performSadv a) s

/-- SFLUSH (R238): Waits for output or discards and refills input buffers. -/
def performSflush (a : BitVec 7) (e : Entry) : M Unit :=
  do
  let (slot, st) ← boundRow e.cfg a
  if st.out then flushStream slot st else putStream slot (some { st with buffer := [], fault := none, bad := false })

/-- SFLUSH: dispatch (R416) and execution. -/
def execSflush (a : BitVec 7) (s : State) : Host.Outcome State Fault Refusal :=
  dispatchV (encSflush a).toWord 0 {} (performSflush a) s

end Sys2Proof.Machine
end

