-- ==== Sys2Proof/Machine/Copy.lean ====
section
/-! DEFINITION. Rings (R202), the copy engine (R198–R201, R241–R246), ring and wait instructions (R247–R251): the COPY
family, and the completion of a transfer. -/

namespace Sys2Proof.Machine

/-! ## Rings (R202) -/

/-- Bytes of a ring: 16 + 16·⌈CAP/128⌉ + CAP·SLOT. -/
def ringBytes (cap slot : Nat) : Nat := 16 + 16 * ((cap + 127) / 128) + cap * slot

/-- CAP and SLOT are inside the limits of R202. -/
def ringSizes (cap slot : Nat) : Bool :=
  2 ≤ cap && cap ≤ 1024 && cap == 2 ^ Nat.log2 cap && slot % 16 == 0 && 16 ≤ slot && slot ≤ 4096

/-- A ring's header: CAP, SLOT, RD, WR. -/
structure Ring where
  cap : Nat
  slot : Nat
  rd : Nat
  wr : Nat

/-- The header at an offset of a core's scratchpad; `none` when it breaks the limits of R202. -/
def ringHeader (s : State) (c off : Nat) : Option Ring :=
  let r : Ring := ⟨s.spNat c off 2, s.spNat c (off + 2) 2, s.spNat c (off + 4) 4, s.spNat c (off + 8) 4⟩
  if ringSizes r.cap r.slot && s.spNat c (off + 12) 4 == 0 && (r.wr + 2 ^ 32 - r.rd) % 2 ^ 32 ≤ r.cap &&
      off + ringBytes r.cap r.slot ≤ spSize (s.core c) then some r else none

/-- Slots between RD and WR. -/
def Ring.used (r : Ring) : Nat := (r.wr + 2 ^ 32 - r.rd) % 2 ^ 32

/-- Byte offset of slot i from the ring's address. -/
def Ring.slotAt (r : Ring) (i : Nat) : Nat := 16 + 16 * ((r.cap + 127) / 128) + i * r.slot

/-- The FILLED bit of slot i. -/
def ringFilled (s : State) (c off i : Nat) : Bool := bitOf (s.spNat c (off + 16 + i / 8) 1) (i % 8)

/-- Set or clear the FILLED bit of slot i. -/
def ringMark (c off i : Nat) (b : Bool) (s : State) : State :=
  let x := s.spNat c (off + 16 + i / 8) 1
  let y := if bitOf x (i % 8) then x - 2 ^ (i % 8) else x
  s.putSp c (off + 16 + i / 8) 1 (if b then y + 2 ^ (i % 8) else y)

/-- How a post to a ring ends. -/
inductive Posted where
  | posted | full | broken
deriving DecidableEq, Repr

/-- Write a record to the slot at WR, set its FILLED bit and advance WR (R200). -/
def ringPost (c off : Nat) (bytes : List Byte) (s : State) : Posted × State :=
  match ringHeader s c off with
  | none => (.broken, s)
  | some r =>
    if r.used = r.cap then (.full, s)
    else
      let i := r.wr % r.cap
      let s := s.putSp c (off + r.slotAt i) bytes.length (leNat bytes)
      let s := ringMark c off i true s
      (.posted, s.putSp c (off + 8) 4 ((r.wr + 1) % 2 ^ 32))

/-- The core and the offset of the ring that a scratchpad address names for a core. -/
def ringPlace (core : Nat) (ring : Word) : Nat × Nat :=
  (if bitOf ring.toNat 23 then core else core / 4 * 4 + bitsOf ring.toNat 22 21, bitsOf ring.toNat 20 0)

/-- Post a record to a ring named by a scratchpad address: `false` while the ring is full, or while the core that the message is for is
being repartitioned. A fenced core takes no record and raises MCE (R262). A ring whose header is broken drops the record and is logged as
class 0 (R200). -/
def postRecord (core : Nat) (ring : Word) (bytes : List Byte) : M Bool := do
  let s ← get
  let (c, off) := ringPlace core ring
  if !bitOf ring.toNat 23 && (s.core c).moving.isSome then pure false
  else do
  trapIf (s.core c).fenced .mce ring
  let (r, s') := ringPost c off bytes s
  match r with
  | .posted => do set s'; pure true
  | .full => pure false
  | .broken => do
    logEvent (dieOfCore core) (core % 48) 0 ring.toNat
    pure true

/-- Post a record for an engine: one for a fenced core is lost, and the hart that waits for it, if there is one, takes MCE at its next
vector-instruction boundary (R262; DESIGN CHOICE, log 122). -/
def postFor (hart : Option Nat) (core : Nat) (ring : Word) (bytes : List Byte) : M Bool := do
  match ← attempt (postRecord core ring bytes) with
  | .ok done => pure done
  | .error _ => do
    match hart with
    | some n => modify fun s => s.setHartAt n { s.hartAt n with pendMce := (s.hartAt n).pendMce ++ [ring] }
    | none => pure ()
    pure true

/-- The bytes of a core's scratchpad that the posting of `n` bytes to a ring reaches, as spans: the header, the FILLED bit, the slot. -/
def ringSpans (s : State) (c off n : Nat) : List (Nat × Nat) :=
  (off, 16) :: match ringHeader s c off with
    | some r => [(off + 16 + r.wr % r.cap / 8, 1), (off + r.slotAt (r.wr % r.cap), n)]
    | none => []

/-- The post of a record for a hart waits for the transfers of entries of its interlock table (R199, R337). -/
def ringWaits (core : Nat) (ring : Word) (n : Nat) (locks : List Interlock) (hart : Nat) : M Unit := do
  let (c, off) := ringPlace core ring
  (ringSpans (← get) c off n).foldlM (fun _ p =>
    if lockHit locks hart true (c * 2 ^ 21 + p.1) p.2 true then stall else pure ()) ()

/-- Post a record for an engine once the transfers of the entries `locks` of the hart's interlock table let it (R199, R337): `false` until
then. -/
def postAfter (locks : List Interlock) (hart : Nat) (to' : Option Nat) (core : Nat) (ring : Word) (bytes : List Byte) : M Bool := do
  match ← attempt (ringWaits core ring bytes.length locks hart) with
  | .ok _ => postFor to' core ring bytes
  | .error _ => pure false

/-- The checks of an access of bytes of a ring: the interlock table and error marks (R199, R212). -/
def ringAccess (c off n : Nat) (write : Bool) (a : Word) : M Unit := do
  stallOn true (c * 2 ^ 21 + off) n write
  spPoisonCheck c off n a

/-- The checks of an instruction that reads a ring's header (R202, R247, R249): alignment, range, interlock, limits. The core, the
offset and the header. R203 names a VMEM, a COPY end and an SA atomic for KEYF; a ring instruction that reaches a claimed area traps
too (DEDUCED, log 110). -/
def needRing (a : Word) (field : BitVec 7) : M (Nat × Nat × Ring) := do
  trapIf (a.toNat % 16 != 0) .align a
  let (c, off) ← spCheck a 16 true
  ringAccess c off 16 false a
  match ringHeader (← get) c off with
  | some r => pure (c, off, r)
  | none => strf field.toNat 5

/-! ## Agents of the background -/

/-- The entries of the interlock table that stand before a channel's, or a collective's, own one: of the transfers issued before it. A unit
that has given its entry back waits for none. -/
def earlierLocks (k : Core) (coll : Bool) (unit : Nat) : List Interlock :=
  let own := fun (l : Interlock) => l.coll == coll && l.unit == unit
  if k.locks.any own then k.locks.takeWhile fun l => !own l else []

/-- Run the work of an engine that acts for a hart at a privilege: of the interlock table its accesses see the entries `held` (R199). -/
def asEngine (hart : Nat) (priv : BitVec 2) (held : List Interlock) {α : Type} (m : M α) : M (Except Stop α) := do
  let s ← get
  let back := s.id
  let parked := s.parked
  let c := coreOf hart
  let old := (s.hartAt hart).trap.priv
  let locks := (s.core c).locks
  modify fun s => s.focusOn hart
  modTrapRegs fun t => { t with priv := priv }
  modCore c fun k => { k with locks := held }
  let r ← attempt m
  modTrapRegs fun t => { t with priv := old }
  modCore c fun k => { k with locks := locks }
  modify fun s => { s.focusOn back with parked := parked }
  pure r

/-! ## Transfers -/

/-- Lowest and highest byte that a record can address, and its space (R242). -/
def recSpan (r : List (BitVec 32)) : Nat × Nat :=
  let z := widthOf (recType r)
  let part := fun (i : Nat) => ((recW r (3 + i) - 1 : Nat) : Int) * sextNat 32 (recW r (7 + i))
  let lo := (List.range 4).foldl (fun (x : Int) i => x + (if part i < 0 then part i else 0)) 0
  let hi := (List.range 4).foldl (fun (x : Int) i => x + (if 0 < part i then part i else 0)) 0
  let b : Int := (recBase r).toNat
  let first := b + lo * z / 8
  let last := b + (hi * z + z - 1) / 8
  (first.toNat, last.toNat)

/-- Granules of a record in the numbering of the interlock table: scratchpad bytes by core and offset. -/
def recGranules (s : State) (r : List (BitVec 32)) : Nat × Nat :=
  let (lo, hi) := recSpan r
  if recScratch r then
    let (c, off) := spTarget s lo
    ((c * 2 ^ 21 + off) / 4096, (c * 2 ^ 21 + off + (hi - lo)) / 4096)
  else (lo / 4096, hi / 4096)

/-- A ring completion address is malformed: it names a 16-aligned scratchpad address of the issuing core, with bit 63 set
(R241). -/
def ringAddrBad (s : State) (a : Nat) : Bool :=
  !bitOf a 63 || bitsOf a 62 24 != 0 || a % 16 != 0 || (!bitOf a 23 && bitsOf a 22 21 != coreOf s.id % 4)

/-- The scratchpad address of a ring completion address. -/
def ringOf (a : Word) : Word := BitVec.ofNat 64 (bitsOf a.toNat 23 0)

/-- The completion word and address of a pair (R241); STRF with reason 5 where it is malformed. `noStart` asks for START 0
(R380). -/
def needCompletion (pair : Word × Word) (field : BitVec 7) (noStart : Bool) : M Completion := do
  let s ← get
  let w := pair.1.toNat
  let a := pair.2.toNat
  let kind := bitsOf w 1 0
  let badAddr :=
    if kind = 0 then a != 0
    else if kind = 1 then a % 8 != 0 || (bitOf a 63 && bitsOf a 62 24 != 0)
    else ringAddrBad s a
  if kind = 3 || 5 < bitsOf w 6 4 || bitOf w 7 || (noStart && bitsOf w 31 8 != 0) || badAddr then strf field.toNat 5
  pure ⟨BitVec.ofNat 2 kind, BitVec.ofNat 3 (bitsOf w 6 4), BitVec.ofNat 32 (bitsOf w 63 32), pair.2⟩

/-- The ring header of a completion is checked at issue (R241). -/
def needCompletionRing (b : BitVec 7) (k : Completion) : M Unit := do
  if k.kind = 2 then do
    let _ ← needRing (ringOf k.addr) b
    pure ()
  else pure ()

/-- Entries of the interlock table that are taken up; one that keeps only its place is not. -/
def Core.lockCount (k : Core) : Nat := k.locks.countP Interlock.live

/-- Issue a transfer (R198, R242): wait for the interlocks of its own accesses, and, as for a ring (R45), for a channel and for an
interlock entry. On a core with a fenced channel it raises MCE (R212), whose XVAL is the source record's base (DEDUCED, log 111). -/
def issue (src dst : List (BitVec 32)) (patches : Option (List (BitVec 32))) (k : Completion) (start : Nat) (e : Entry) :
    M Unit := do
  let s ← get
  trapIf s.myCore.fenced .mce (recBase src)
  let (sl, sh) := recGranules s src
  let (dl, dh) := recGranules s dst
  stallOn (recScratch src) (sl * 4096) ((sh - sl + 1) * 4096) false
  stallOn (recScratch dst) (dl * 4096) ((dh - dl + 1) * 4096) true
  match findFrom 4 0 fun i => (sparseGet Channel.idle s.myCore.chans i).st == .idle with
  | none => block
  | some ch => do
    if 16 ≤ s.myCore.lockCount then block
    modCore (coreOf s.id) fun c => { c with
      chans := sparsePut Channel.idle c.chans ch
        ⟨.running, BitVec.ofNat 2 (s.id % 4), src, dst, patches, k, start, none, 0, e.pc, s.hart.trap.priv, false⟩
      locks := c.locks ++ [⟨s.id, false, ch, recScratch src, sl, sh, recScratch dst, dl, dh⟩] }

/-- Word i of a patch list (R243). -/
def patchW (ps : List (BitVec 32)) (i : Nat) : Nat := (ps.getD i 0).toNat
def patchCount (ps : List (BitVec 32)) : Nat := patchW ps 0
def patchX (ps : List (BitVec 32)) (p : Nat) : Int := sextNat 16 (patchW ps (1 + 2 * p))
def patchY (ps : List (BitVec 32)) (p : Nat) : Int := sextNat 16 (patchW ps (1 + 2 * p) / 65536)
def patchWidth (ps : List (BitVec 32)) (p : Nat) : Nat := patchW ps (2 + 2 * p) % 65536
def patchHeight (ps : List (BitVec 32)) (p : Nat) : Nat := patchW ps (2 + 2 * p) / 65536

/-- Elements of the patch sequence: T = Σ ph·pw·C. -/
def patchTotal (chans : Nat) (ps : List (BitVec 32)) : Nat :=
  (List.range (patchCount ps)).foldl (fun t p => t + patchHeight ps p * patchWidth ps p * chans) 0

/-- The patch that holds a destination offset, and the offset within it. The fuel is the number of patches left. -/
def patchOf (chans : Nat) (ps : List (BitVec 32)) : Nat → Nat → Nat → Nat × Nat
  | 0, p, k => (p, k)
  | n + 1, p, k =>
    let size := patchHeight ps p * patchWidth ps p * chans
    if k < size then (p, k) else patchOf chans ps n (p + 1) (k - size)

/-- The source element of a destination offset: its flat index, or `none` outside the image. -/
def patchSource (src : List (BitVec 32)) (ps : List (BitVec 32)) (k : Nat) : Option Nat :=
  let ch := recW src 3
  let (p, l) := patchOf ch ps (patchCount ps) 0 k
  let pw := patchWidth ps p
  let x := patchX ps p + (l / ch % pw : Nat)
  let y := patchY ps p + (l / (ch * pw) : Nat)
  if 0 ≤ x && x < recW src 4 && 0 ≤ y && y < recW src 5 then some (l % ch + ch * (x.toNat + recW src 4 * y.toNat)) else none

/-- A patch reaches outside the image. -/
def patchOutside (src : List (BitVec 32)) (ps : List (BitVec 32)) (p : Nat) : Bool :=
  patchX ps p < 0 || (recW src 4 : Int) < patchX ps p + patchWidth ps p ||
  patchY ps p < 0 || (recW src 5 : Int) < patchY ps p + patchHeight ps p

/-- Number of elements of a channel's transfer. -/
def Channel.total (c : Channel) : Nat :=
  match c.patches with
  | none => recN c.src
  | some ps => patchTotal (recW c.src 3) ps

/-- Report an access that reaches a claimed area with the address it used, as a fault record holds it (R201, R246). -/
def atAddress {α : Type} (a : Word) (m : M α) : M α := do
  match ← attempt m with
  | .ok x => pure x
  | .error (.trap .keyf _) => trap .keyf a
  | .error e => throw e

/-- Move element k of a transfer (R242, R243). -/
def moveElem (c : Channel) (k : Nat) : M Unit := do
  let read (j : Nat) : M Nat := atAddress (recAddr c.src j) (recRead c.src j)
  let x ← (match c.patches with
    | none => read k
    | some ps =>
      match patchSource c.src ps k with
      | some j => read j
      | none => pure (recW c.src 12 % 2 ^ widthOf (recType c.src)))
  atAddress (recAddr c.dst k) (recWrite c.dst k x)

/-- Elements from k on, up to the first that faults: the elements performed in order, and the fault. The fuel is the number
left. -/
def moveFrom (c : Channel) : Nat → Nat → M (Nat × Option ElemFault)
  | 0, k => pure (k, none)
  | n + 1, k => do
    match ← attempt (moveElem c k) with
    | .ok _ => moveFrom c n (k + 1)
    | .error (.trap x a) => pure (k, some ⟨k, x, a⟩)
    | .error e => throw e

/-- The write of a flag completion (R200, R241); it waits, as a later access, for earlier transfers (R199, R337). -/
def flagWrite (k : Completion) : M Unit :=
  if bitOf k.addr.toNat 63 then atAddress (ringOf k.addr) (spWrite (ringOf k.addr) 8 k.value.toNat)
  else vwrite .other k.addr 8 k.value.toNat

/-- A completion record (R201). -/
def completionRecord (pc : Word) (status k : Nat) : List Byte := leBytes 8 pc.toNat ++ leBytes 4 status ++ leBytes 4 k

/-- Replace a channel. -/
def putChannel (core ch : Nat) (x : Channel) : M Unit :=
  modCore core fun c => { c with chans := sparsePut Channel.idle c.chans ch x }

/-- Release the interlock entry of a channel. -/
def unlockChannel (core ch : Nat) : M Unit :=
  modCore core fun c => { c with locks := c.locks.filter fun k => k.coll || k.unit != ch }

/-- The place in the interlock table of a transfer whose record a full ring keeps back: it covers no granule and takes up no entry, and
says which transfers were issued before it (R199, R337). -/
def Interlock.empty (k : Interlock) : Interlock := { k with srcLo := 2 ^ 64, srcHi := 0, dstLo := 2 ^ 64, dstHi := 0 }

/-- Release the granules of a channel's or a collective's interlock entry, and keep its place. -/
def emptyLock (core : Nat) (coll : Bool) (unit : Nat) : M Unit :=
  modCore core fun c => { c with locks := c.locks.map fun k => if k.coll = coll ∧ k.unit = unit then k.empty else k }

/-- Post the record that a channel keeps back; it goes free unless it is faulted or running again (R200, R244). A record waits for a full
ring and for the transfers issued before its own (R199, R337). -/
def postHeld (core ch : Nat) (x : Channel) : M Unit := do
  let hart := core * 4 + x.owner.toNat
  let bytes := completionRecord x.pc (x.held.toNat - 1) x.k
  if ← postAfter (earlierLocks ((← get).core core) false ch) hart (if x.orphan then none else some hart) core (ringOf x.comp.addr)
      bytes then
    if x.st = .holding then do
      unlockChannel core ch
      putChannel core ch Channel.idle
    else putChannel core ch { x with held := 0 }
  else putChannel core ch x

/-- A transfer faulted at k (R201, R244): the fault record, ENGF for the issuer, a ring record with status 1. The transfer of an
aborted task signals as usual and is abandoned (R300). -/
def transferFault (core ch : Nat) (x : Channel) (f : ElemFault) : M Unit := do
  if x.orphan then
    if x.comp.kind = 2 then do
      emptyLock core false ch
      postHeld core ch { x with st := .holding, k := f.idx, held := 2 }
    else do
      unlockChannel core ch
      putChannel core ch Channel.idle
  else do
    let hart := core * 4 + x.owner.toNat
    modify fun s =>
      let h := s.hartAt hart
      s.setHartAt hart { h with pendEngf := h.pendEngf ++ [BitVec.ofNat 64 ch] }
    let x := { x with st := .faulted, k := f.idx, fault := some f, held := if x.comp.kind = 2 then 2 else 0 }
    putChannel core ch x
    if x.comp.kind = 2 then do
      let _ ← attempt (postHeld core ch x)
      pure ()

/-- A transfer has performed every element: release the interlock and signal (R200), with k = N (R242). -/
def transferDone (core ch : Nat) (x : Channel) : M Unit := do
  let x := { x with k := x.total }
  if x.comp.kind = 2 then do
    emptyLock core false ch
    postHeld core ch { x with st := .holding, held := 1 }
  else do
    unlockChannel core ch
    putChannel core ch Channel.idle

/-- Run a channel to its completion or its fault (R200, R201). Its issue has waited for the interlocks of its elements (R198); its flag waits
for the transfers issued before it, with the elements performed. -/
def runChannel (core ch : Nat) : M Unit := do
  let s ← get
  let x := sparseGet Channel.idle (s.core core).chans ch
  let hart := core * 4 + x.owner.toNat
  if x.held != 0 then postHeld core ch x
  else if x.st != .running then block
  else
    match ← asEngine hart x.priv [] (moveFrom x (x.total - x.k) x.k) with
    | .ok (_, none) =>
      if x.comp.kind = 1 then
        match ← asEngine hart x.priv (earlierLocks (s.core core) false ch) (flagWrite x.comp) with
        | .ok _ => transferDone core ch x
        | .error (.trap c a) => transferFault core ch x ⟨x.total, c, a⟩
        | .error _ => putChannel core ch { x with k := Nat.max x.k x.total }
      else transferDone core ch x
    | .ok (_, some f) => transferFault core ch x f
    | .error _ => block

/-- COPY_COMPLETION (R200, R201): a channel of the core in focus runs to its end and signals. -/
def execCopyCompletion (ch : BitVec 2) (s : State) : Host.Outcome State Fault Refusal :=
  runEvent (do runChannel (coreOf (← get).id) ch.toNat) s

/-- The channel that an operand names: A<63:2> is zero (R245, R246). -/
def channelNum (x : Word) (a : BitVec 7) : M Nat := if 4 ≤ x.toNat then strf a.toNat 5 else pure x.toNat

/-- The condition codes of WAITA (R240). -/
def waitHolds (c : BitVec 3) (x y : Word) : Bool :=
  match c.toNat with
  | 0 => x == y
  | 1 => x != y
  | 2 => y.ule x
  | 3 => x.ult y
  | 4 => y.sle x
  | 5 => x.slt y
  | _ => false

/-- A scratchpad address of the issuing core (R247). -/
def ownPool (a : Word) : M Unit := do
  let s ← get
  trapIf (a.toNat / 2 ^ 24 != 0 || (!bitOf a.toNat 23 && bitsOf a.toNat 22 21 != coreOf s.id % 4)) .prot a

/-- The checks of COPYG (R243) on the source record and its patch list. -/
def checkPatches (src dst ps : List (BitVec 32)) : M Unit := do
  trapIf (patchCount ps < 1 || 511 < patchCount ps) .matf 0x20000
  let n := patchCount ps
  let bad := fun p => patchWidth ps p == 0 || 4096 < patchWidth ps p || patchHeight ps p == 0 || 4096 < patchHeight ps p
  match findFrom n 0 bad with
  | some p => trap .matf (BitVec.ofNat 64 (0x10000 + p))
  | none => pure ()
  trapIf (recN dst < patchTotal (recW src 3) ps) .matf 3
  if recPad src then pure ()
  else match findFrom n 0 (patchOutside src ps) with
    | some p => trap .matf (BitVec.ofNat 64 (0x10000 + p))
    | none => pure ()

/-- The 32-bit words of a row, or of the strip of the input stream bound to it. -/
def rowWords (c : VConf) (row : Nat) : M (List (BitVec 32)) := do
  let v := (← getHart).vec
  pure ((List.range 1024).map fun i => BitVec.ofNat 32 (tileElem v c.vwb.toNat row 0 i 32))

/-- COPY (R242): Issues a tensor transfer to a free channel with an interlock entry. -/
def performCopy (d : BitVec 7) (a : BitVec 7) (b : BitVec 7) (e : Entry) : M Unit :=
  do
  let c := e.cfg
  vrun c [Opnd.rawIn a a.toNat 1, Opnd.rawIn d d.toNat 1] (do
    let src ← rowRecord c a
    let dst ← rowRecord c d
    checkRecord none src
    checkRecord none dst
    trapIf (recType src != recType dst) .matf 2
    trapIf (recN src != recN dst) .matf 3
    let k ← needCompletion (e.b0, e.b1) b false
    needCompletionRing b k
    issue src dst none k (bitsOf e.b0.toNat 31 8) e)

/-- COPY: dispatch (R416) and execution. -/
def execCopy (d : BitVec 7) (a : BitVec 7) (b : BitVec 7) (s : State) : Host.Outcome State Fault Refusal :=
  dispatchV (encCopy d a b).toWord 0 { b := .pair b } (performCopy d a b) s

/-- COPYG (R243): Issues a patch-gather transfer. -/
def performCopyg (d : BitVec 7) (a : BitVec 7) (b : BitVec 7) (e : Entry) : M Unit :=
  do
  let c := e.cfg
  vrun c [Opnd.rawIn a a.toNat 1, Opnd.rawIn a (a.toNat + 1) 1, Opnd.rawIn d d.toNat 1] (do
    let src ← rowRecord c a
    let dst ← rowRecord c d
    checkRecord none src
    trapIf (recRank src != 3) .matf 2
    checkRecord none dst
    trapIf (recRank dst != 1 || recType src != recType dst) .matf 2
    let ws ← rowWords c (a.toNat + 1)
    checkPatches src dst ws
    let k ← needCompletion (e.b0, e.b1) b false
    needCompletionRing b k
    issue src dst (some (ws.take (1 + 2 * patchCount ws))) k (bitsOf e.b0.toNat 31 8) e)

/-- COPYG: dispatch (R416) and execution. -/
def execCopyg (d : BitVec 7) (a : BitVec 7) (b : BitVec 7) (s : State) : Host.Outcome State Fault Refusal :=
  dispatchV (encCopyg d a b).toWord 0 { b := .pair b } (performCopyg d a b) s

/-- The faulted channel of the issuing hart that CRESUME names (R245). -/
def faultedChannel (x : Word) (a : BitVec 7) : M (Nat × Channel) := do
  let s ← get
  let n ← channelNum x a
  let ch := sparseGet Channel.idle s.myCore.chans n
  if ch.st != .faulted || ch.owner.toNat != s.id % 4 then strf a.toNat 5
  pure (n, ch)

/-- CRESUME (R245): Restarts a faulted transfer from its recorded element. -/
def performCresume (a : BitVec 7) (e : Entry) : M Unit :=
  do
  let (n, ch) ← faultedChannel e.a0 a
  let s ← get
  putChannel (coreOf s.id) n { ch with st := .running, fault := none }

/-- CRESUME: dispatch (R416) and execution. -/
def execCresume (a : BitVec 7) (s : State) : Host.Outcome State Fault Refusal :=
  dispatchV (encCresume a).toWord 0 { afterVrel := true, a := .scalar a } (performCresume a) s

/-- CRESUME_ABORT (R245): Abandons a faulted transfer, freeing its channel and interlock entry. -/
def performCresumeAbort (a : BitVec 7) (e : Entry) : M Unit :=
  do
  let (n, _) ← faultedChannel e.a0 a
  let s ← get
  unlockChannel (coreOf s.id) n
  putChannel (coreOf s.id) n Channel.idle

/-- CRESUME_ABORT: dispatch (R416) and execution. -/
def execCresumeAbort (a : BitVec 7) (s : State) : Host.Outcome State Fault Refusal :=
  dispatchV (encCresumeAbort a).toWord 0 { afterVrel := true, a := .scalar a } (performCresumeAbort a) s

/-- RINIT (R247): Writes a ring header. -/
def performRinit (b : BitVec 7) (e : Entry) : M Unit :=
  do
  let x := e.a0
  trapIf (x.toNat % 16 != 0) .align x
  ownPool x
  let cap := bitsOf e.b0.toNat 15 0
  let slot := bitsOf e.b0.toNat 31 16
  if bitsOf e.b0.toNat 63 32 != 0 || !ringSizes cap slot then strf b.toNat 5
  let n := 16 + 16 * ((cap + 127) / 128)
  let (c, off) ← spCheck x (ringBytes cap slot) true
  stallOn true (c * 2 ^ 21 + off) n true
  modify fun s => s.putSp c off n (cap + 2 ^ 16 * slot)

/-- RINIT: dispatch (R416) and execution. -/
def execRinit (a : BitVec 7) (b : BitVec 7) (s : State) : Host.Outcome State Fault Refusal :=
  dispatchV (encRinit a b).toWord 0 { afterVrel := true, a := .scalar a, b := .scalar b } (performRinit b) s

/-- RAWAIT (R249): Waits for the read slot to be filled, acquires and delivers its address. -/
def performRawait (a : BitVec 7) (e : Entry) : M Unit :=
  do
  let (c, off, r) ← needRing e.a0 a
  needRoom
  let s ← get
  let i := r.rd % r.cap
  ringAccess c (off + 16 + i / 8) 1 false e.a0
  if !ringFilled s c off i then block
  deliver (e.a0 + BitVec.ofNat 64 (r.slotAt i))

/-- RAWAIT: dispatch (R416) and execution. -/
def execRawait (a : BitVec 7) (s : State) : Host.Outcome State Fault Refusal :=
  dispatchV (encRawait a).toWord 0 { afterVrel := true, a := .scalar a } (performRawait a) s

/-- RREL (R250): Clears the read slot's filled bit, increments RD and releases. -/
def performRrel (a : BitVec 7) (e : Entry) : M Unit :=
  do
  let (c, off, r) ← needRing e.a0 a
  let s ← get
  let i := r.rd % r.cap
  ringAccess c (off + 16 + i / 8) 1 true e.a0
  if !ringFilled s c off i then strf a.toNat 5
  stallOn true (c * 2 ^ 21 + off + 4) 4 true
  release
  modify fun s => (ringMark c off i false s).putSp c (off + 4) 4 ((r.rd + 1) % 2 ^ 32)

/-- RREL: dispatch (R416) and execution. -/
def execRrel (a : BitVec 7) (s : State) : Host.Outcome State Fault Refusal :=
  dispatchV (encRrel a).toWord 0 { afterVrel := true, a := .scalar a } (performRrel a) s

/-- WAITA (R251): Polls a word until a condition holds, then acquires. -/
def performWaita (p : BitVec 1) (c : BitVec 3) (e : Entry) : M Unit :=
  do
  let x ← spaceRead (p == 1) e.a0 8
  if !waitHolds c (BitVec.ofNat 64 x) e.b0 then block

/-- WAITA: dispatch (R416) and execution. -/
def execWaita (p : BitVec 1) (sf : BitVec 3) (c : BitVec 3) (a : BitVec 7) (b : BitVec 7) (s : State) : Host.Outcome State Fault Refusal :=
  dispatchV (encWaita p sf c a b).toWord 0 { afterVrel := true, a := .scalar a, b := .scalar b } (performWaita p c) s

/-- The code of a channel's state (R246). -/
def ChanState.code : ChanState → Nat
  | .idle => 0
  | .running => 1
  | .faulted => 2
  | .holding => 3

/-- CSTAT (R246): Delivers two status words of a copy channel. -/
def performCstat (a : BitVec 7) (e : Entry) : M Unit :=
  do
  let n ← channelNum e.a0 a
  let ch := sparseGet Channel.idle (← get).myCore.chans n
  let cause := (ch.fault.map fun f => f.cause.code.toNat).getD 0
  deliverAll e.cfg.est [BitVec.ofNat 64 (ch.st.code + 4 * ch.owner.toNat + 2 ^ 8 * cause + 2 ^ 32 * ch.k),
    (ch.fault.map ElemFault.addr).getD ch.pc]

/-- CSTAT: dispatch (R416) and execution. -/
def execCstat (a : BitVec 7) (s : State) : Host.Outcome State Fault Refusal :=
  dispatchV (encCstat a).toWord 0 { afterVrel := true, a := .scalar a } (performCstat a) s

/-- ENGF (R201): the hart in focus takes its pending engine fault in the vector stream. -/
def engineFault : M Unit := do
  match (← getHart).pendEngf with
  | [] => block
  | x :: xs => do
    modHart fun h => { h with pendEngf := xs }
    trapEntry true .engf x

/-- ENGF (R201). -/
def execEngf (s : State) : Host.Outcome State Fault Refusal := runEvent engineFault s

end Sys2Proof.Machine
end

