-- ==== Sys2Proof/Machine/Atomics.lean ====
section
/-! DEFINITION. Atomics of the scratchpad and of memory (R252–R254): the SPA family. -/

namespace Sys2Proof.Machine

/-- An atomic `.rel` that writes a value waits for what a release waits for (R254, R342); one that writes none is no release (R340). -/
def releaseIf (r : BitVec 1) (new : M (Option Nat)) : M Unit := do
  if r = 1 then do
    let s ← get
    let x ← new
    set s
    if x.isSome then release

/-- One indivisible step on the word at an address (R253): ALIGN, then the checks of its space, then the release (R254);
`new` gives the value to write from the old one, `none` where the atomic writes nothing. `z` is the size in bytes. -/
def atomicStep (sp : Bool) (z : Nat) (r : BitVec 1) (a : Word) (before : M Unit) (new : Nat → M (Option Nat)) : M Nat := do
  trapIf (a.toNat % z != 0) .align a
  if sp then do
    let (c, off) ← spCheck a z true
    stallOn true (c * 2 ^ 21 + off) z true
    spPoisonCheck c off z a
    before
    let old := (← get).spNat c off z
    releaseIf r (new old)
    match ← new old with
    | some x => modify fun s => s.putSp c off z x
    | none => pure ()
    pure old
  else do
    stallOn false a.toNat z true
    let pa ← translateAt (← privNow) .atomic .other a z
    checkPoison pa z a
    before
    let old := (← get).memNat pa z
    releaseIf r (new old)
    match ← new old with
    | some x => modify fun s => s.putNat pa z x
    | none => pure ()
    pure old

/-- Size in bytes under W (R252). -/
def atomSize (w : BitVec 1) : Nat := if w = 1 then 4 else 8

/-- Q (R252): the old value goes to q4, sign-extended for ADD, MIN and MAX. -/
def deliverOld (q : BitVec 1) (signed : Bool) (z old : Nat) : M Unit :=
  if q = 1 then deliver (if signed then BitVec.ofInt 64 (sextNat (8 * z) old) else BitVec.ofNat 64 old) else pure ()

/-- An SPA instruction (R253): a full q4 blocks before anything changes. -/
def atomic (sp : Bool) (w r q : BitVec 1) (signed : Bool) (e : Entry) (new : Nat → Nat → M (Option Nat)) : M Unit := do
  let z := atomSize w
  let old ← atomicStep sp z r e.a0 (if q = 1 then needRoom else pure ()) (new z)
  deliverOld q signed z old

/-- The new values of R253, from the size, the captured operands and the old value. -/
def atomAdd (e : Entry) (z old : Nat) : M (Option Nat) := pure (some ((old + e.b0.toNat) % 2 ^ (8 * z)))
def atomMin (e : Entry) (z old : Nat) : M (Option Nat) :=
  pure (some (if sextNat (8 * z) e.b0.toNat < sextNat (8 * z) old then e.b0.toNat % 2 ^ (8 * z) else old))
def atomMax (e : Entry) (z old : Nat) : M (Option Nat) :=
  pure (some (if sextNat (8 * z) old < sextNat (8 * z) e.b0.toNat then e.b0.toNat % 2 ^ (8 * z) else old))
def atomXchg (e : Entry) (z _old : Nat) : M (Option Nat) := pure (some (e.b0.toNat % 2 ^ (8 * z)))
def atomAnd (e : Entry) (_z old : Nat) : M (Option Nat) := pure (some (old &&& e.b0.toNat))
def atomOr (e : Entry) (z old : Nat) : M (Option Nat) := pure (some (old ||| e.b0.toNat % 2 ^ (8 * z)))
/-- CAS: a failed one writes nothing. -/
def atomCas (e : Entry) (z old : Nat) : M (Option Nat) :=
  pure (if old = e.b0.toNat % 2 ^ (8 * z) then some (e.b1.toNat % 2 ^ (8 * z)) else none)
/-- FADD: FP32, ties to even whatever FRM is, its flags set (R83, R84). -/
def atomFadd (e : Entry) (_z old : Nat) : M (Option Nat) := do pure (some (← flagged (fp32.sum 0 old (e.b0.toNat % 2 ^ 32))))

/-- SAADD (R253): Scratchpad atomic add. -/
def performSaadd (w : BitVec 1) (r : BitVec 1) (q : BitVec 1) (e : Entry) : M Unit :=
  atomic true w r q true e (atomAdd e)

/-- SAADD: dispatch (R416) and execution. -/
def execSaadd (w : BitVec 1) (sf : BitVec 3) (r : BitVec 1) (c : BitVec 1) (q : BitVec 1) (a : BitVec 7) (b : BitVec 7) (s : State) : Host.Outcome State Fault Refusal :=
  dispatchV (encSaadd w sf r c q a b).toWord 0 { afterVrel := true, a := .scalar a, b := .scalar b } (performSaadd w r q) s

/-- SAMIN (R253): Scratchpad atomic signed minimum. -/
def performSamin (w : BitVec 1) (r : BitVec 1) (q : BitVec 1) (e : Entry) : M Unit :=
  atomic true w r q true e (atomMin e)

/-- SAMIN: dispatch (R416) and execution. -/
def execSamin (w : BitVec 1) (sf : BitVec 3) (r : BitVec 1) (c : BitVec 1) (q : BitVec 1) (a : BitVec 7) (b : BitVec 7) (s : State) : Host.Outcome State Fault Refusal :=
  dispatchV (encSamin w sf r c q a b).toWord 0 { afterVrel := true, a := .scalar a, b := .scalar b } (performSamin w r q) s

/-- SAMAX (R253): Scratchpad atomic signed maximum. -/
def performSamax (w : BitVec 1) (r : BitVec 1) (q : BitVec 1) (e : Entry) : M Unit :=
  atomic true w r q true e (atomMax e)

/-- SAMAX: dispatch (R416) and execution. -/
def execSamax (w : BitVec 1) (sf : BitVec 3) (r : BitVec 1) (c : BitVec 1) (q : BitVec 1) (a : BitVec 7) (b : BitVec 7) (s : State) : Host.Outcome State Fault Refusal :=
  dispatchV (encSamax w sf r c q a b).toWord 0 { afterVrel := true, a := .scalar a, b := .scalar b } (performSamax w r q) s

/-- SAXCHG (R253): Scratchpad atomic exchange. -/
def performSaxchg (w : BitVec 1) (r : BitVec 1) (q : BitVec 1) (e : Entry) : M Unit :=
  atomic true w r q false e (atomXchg e)

/-- SAXCHG: dispatch (R416) and execution. -/
def execSaxchg (w : BitVec 1) (sf : BitVec 3) (r : BitVec 1) (c : BitVec 1) (q : BitVec 1) (a : BitVec 7) (b : BitVec 7) (s : State) : Host.Outcome State Fault Refusal :=
  dispatchV (encSaxchg w sf r c q a b).toWord 0 { afterVrel := true, a := .scalar a, b := .scalar b } (performSaxchg w r q) s

/-- SACAS (R253): Scratchpad atomic compare-and-swap. -/
def performSacas (w : BitVec 1) (r : BitVec 1) (q : BitVec 1) (e : Entry) : M Unit :=
  atomic true w r q false e (atomCas e)

/-- SACAS: dispatch (R416) and execution. -/
def execSacas (w : BitVec 1) (sf : BitVec 3) (r : BitVec 1) (c : BitVec 1) (q : BitVec 1) (a : BitVec 7) (b : BitVec 7) (s : State) : Host.Outcome State Fault Refusal :=
  dispatchV (encSacas w sf r c q a b).toWord 0 { afterVrel := true, a := .scalar a, b := .pair b } (performSacas w r q) s

/-- SAAND (R253): Scratchpad atomic and. -/
def performSaand (w : BitVec 1) (r : BitVec 1) (q : BitVec 1) (e : Entry) : M Unit :=
  atomic true w r q false e (atomAnd e)

/-- SAAND: dispatch (R416) and execution. -/
def execSaand (w : BitVec 1) (sf : BitVec 3) (r : BitVec 1) (c : BitVec 1) (q : BitVec 1) (a : BitVec 7) (b : BitVec 7) (s : State) : Host.Outcome State Fault Refusal :=
  dispatchV (encSaand w sf r c q a b).toWord 0 { afterVrel := true, a := .scalar a, b := .scalar b } (performSaand w r q) s

/-- SAOR (R253): Scratchpad atomic or. -/
def performSaor (w : BitVec 1) (r : BitVec 1) (q : BitVec 1) (e : Entry) : M Unit :=
  atomic true w r q false e (atomOr e)

/-- SAOR: dispatch (R416) and execution. -/
def execSaor (w : BitVec 1) (sf : BitVec 3) (r : BitVec 1) (c : BitVec 1) (q : BitVec 1) (a : BitVec 7) (b : BitVec 7) (s : State) : Host.Outcome State Fault Refusal :=
  dispatchV (encSaor w sf r c q a b).toWord 0 { afterVrel := true, a := .scalar a, b := .scalar b } (performSaor w r q) s

/-- SAFADD (R253): Scratchpad atomic FP32 add. -/
def performSafadd (w : BitVec 1) (r : BitVec 1) (q : BitVec 1) (e : Entry) : M Unit :=
  atomic true w r q false e (atomFadd e)

/-- SAFADD: dispatch (R416) and execution. -/
def execSafadd (w : BitVec 1) (sf : BitVec 3) (r : BitVec 1) (c : BitVec 1) (q : BitVec 1) (a : BitVec 7) (b : BitVec 7) (s : State) : Host.Outcome State Fault Refusal :=
  dispatchV (encSafadd w sf r c q a b).toWord 0 { afterVrel := true, a := .scalar a, b := .scalar b } (performSafadd w r q) s

/-- GAADD (R253): Global atomic add at the home L2. -/
def performGaadd (w : BitVec 1) (r : BitVec 1) (q : BitVec 1) (e : Entry) : M Unit :=
  atomic false w r q true e (atomAdd e)

/-- GAADD: dispatch (R416) and execution. -/
def execGaadd (w : BitVec 1) (sf : BitVec 3) (r : BitVec 1) (c : BitVec 1) (q : BitVec 1) (a : BitVec 7) (b : BitVec 7) (s : State) : Host.Outcome State Fault Refusal :=
  dispatchV (encGaadd w sf r c q a b).toWord 0 { afterVrel := true, a := .scalar a, b := .scalar b } (performGaadd w r q) s

/-- GAMIN (R253): Global atomic signed minimum. -/
def performGamin (w : BitVec 1) (r : BitVec 1) (q : BitVec 1) (e : Entry) : M Unit :=
  atomic false w r q true e (atomMin e)

/-- GAMIN: dispatch (R416) and execution. -/
def execGamin (w : BitVec 1) (sf : BitVec 3) (r : BitVec 1) (c : BitVec 1) (q : BitVec 1) (a : BitVec 7) (b : BitVec 7) (s : State) : Host.Outcome State Fault Refusal :=
  dispatchV (encGamin w sf r c q a b).toWord 0 { afterVrel := true, a := .scalar a, b := .scalar b } (performGamin w r q) s

/-- GAMAX (R253): Global atomic signed maximum. -/
def performGamax (w : BitVec 1) (r : BitVec 1) (q : BitVec 1) (e : Entry) : M Unit :=
  atomic false w r q true e (atomMax e)

/-- GAMAX: dispatch (R416) and execution. -/
def execGamax (w : BitVec 1) (sf : BitVec 3) (r : BitVec 1) (c : BitVec 1) (q : BitVec 1) (a : BitVec 7) (b : BitVec 7) (s : State) : Host.Outcome State Fault Refusal :=
  dispatchV (encGamax w sf r c q a b).toWord 0 { afterVrel := true, a := .scalar a, b := .scalar b } (performGamax w r q) s

/-- GAXCHG (R253): Global atomic exchange. -/
def performGaxchg (w : BitVec 1) (r : BitVec 1) (q : BitVec 1) (e : Entry) : M Unit :=
  atomic false w r q false e (atomXchg e)

/-- GAXCHG: dispatch (R416) and execution. -/
def execGaxchg (w : BitVec 1) (sf : BitVec 3) (r : BitVec 1) (c : BitVec 1) (q : BitVec 1) (a : BitVec 7) (b : BitVec 7) (s : State) : Host.Outcome State Fault Refusal :=
  dispatchV (encGaxchg w sf r c q a b).toWord 0 { afterVrel := true, a := .scalar a, b := .scalar b } (performGaxchg w r q) s

/-- GACAS (R253): Global atomic compare-and-swap. -/
def performGacas (w : BitVec 1) (r : BitVec 1) (q : BitVec 1) (e : Entry) : M Unit :=
  atomic false w r q false e (atomCas e)

/-- GACAS: dispatch (R416) and execution. -/
def execGacas (w : BitVec 1) (sf : BitVec 3) (r : BitVec 1) (c : BitVec 1) (q : BitVec 1) (a : BitVec 7) (b : BitVec 7) (s : State) : Host.Outcome State Fault Refusal :=
  dispatchV (encGacas w sf r c q a b).toWord 0 { afterVrel := true, a := .scalar a, b := .pair b } (performGacas w r q) s

/-- GAAND (R253): Global atomic and. -/
def performGaand (w : BitVec 1) (r : BitVec 1) (q : BitVec 1) (e : Entry) : M Unit :=
  atomic false w r q false e (atomAnd e)

/-- GAAND: dispatch (R416) and execution. -/
def execGaand (w : BitVec 1) (sf : BitVec 3) (r : BitVec 1) (c : BitVec 1) (q : BitVec 1) (a : BitVec 7) (b : BitVec 7) (s : State) : Host.Outcome State Fault Refusal :=
  dispatchV (encGaand w sf r c q a b).toWord 0 { afterVrel := true, a := .scalar a, b := .scalar b } (performGaand w r q) s

/-- GAOR (R253): Global atomic or. -/
def performGaor (w : BitVec 1) (r : BitVec 1) (q : BitVec 1) (e : Entry) : M Unit :=
  atomic false w r q false e (atomOr e)

/-- GAOR: dispatch (R416) and execution. -/
def execGaor (w : BitVec 1) (sf : BitVec 3) (r : BitVec 1) (c : BitVec 1) (q : BitVec 1) (a : BitVec 7) (b : BitVec 7) (s : State) : Host.Outcome State Fault Refusal :=
  dispatchV (encGaor w sf r c q a b).toWord 0 { afterVrel := true, a := .scalar a, b := .scalar b } (performGaor w r q) s

/-- GAFADD (R253): Global atomic FP32 add. -/
def performGafadd (w : BitVec 1) (r : BitVec 1) (q : BitVec 1) (e : Entry) : M Unit :=
  atomic false w r q false e (atomFadd e)

/-- GAFADD: dispatch (R416) and execution. -/
def execGafadd (w : BitVec 1) (sf : BitVec 3) (r : BitVec 1) (c : BitVec 1) (q : BitVec 1) (a : BitVec 7) (b : BitVec 7) (s : State) : Host.Outcome State Fault Refusal :=
  dispatchV (encGafadd w sf r c q a b).toWord 0 { afterVrel := true, a := .scalar a, b := .scalar b } (performGafadd w r q) s

end Sys2Proof.Machine
end

