-- ==== Sys2Proof/Machine/VConvert.lean ====
section
/-! DEFINITION. Conversions (R142, R146), block scales and block quantisation (R75, R76, R88, R89, R143–R145), and the moves
of whole scale registers (R147): the VCVT family. -/

namespace Sys2Proof.Machine

/-- Element types that a plain conversion takes (R142). -/
def upTo9 (et : Nat) : Bool := et < 10
/-- The block-scaled types (R143–R145). -/
def isBlockType (et : Nat) : Bool := 8 ≤ et && et < 12

/-- Conversion of one element from ETYPE to T (R85, R86, R142). -/
def convertElem (c : VConf) (t : Nat) (sat : Bool) (x : Nat) : M Nat := do
  if isIntType c.et then
    let i := intOf c.et x
    if isIntType t then
      let clamped := sat && (i < intMin t || intMax t < i)
      setFlags (flIf clamped flSAT)
      pure (wrapBits (widthOf t) (if clamped then if i < intMin t then intMin t else intMax t else i))
    else vrnd c.frm (fmtOf t) sat (Ex.ofInt i)
  else
    let v := (fmtOf c.et).value x
    if isIntType t then
      let u ← stepGen c.frm
      let (i, fl) := toIntClamped c.frm.toNat u sat (intMin t) (intMax t) v
      setFlags fl
      pure (wrapBits (widthOf t) i)
    else vrnd c.frm (fmtOf t) sat v

/-- An element-wise conversion from the width of ETYPE to width `w` (R142, R146). -/
def convertTile (d a : BitVec 7) (m : BitVec 1) (w : Nat) (f : VConf → Nat → M Nat) (e : Entry) : M Unit := do
  let c := e.cfg
  maskVl c m
  trapIf (32768 / w < c.vlN) .matf (BitVec.ofNat 64 c.vlN)
  vrun c [Opnd.src c a, Opnd.dst c d] (do
    let (v, act) ← sources c m [a]
    putTileW c d.toNat w fun j =>
      if act j then do pure (some (← quietly c (padded v c a j) (f c (v.el c a j)))) else pure none)

/-! ## Blocks -/

/-- Blocks of a row: ⌈VL/32⌉ (R75). -/
def blocksPerRow (c : VConf) : Nat := (c.vlN + 31) / 32

/-- The scale entry of flat position j (R75). -/
def scaleEntry (c : VConf) (j : Nat) : Nat := j / c.vlN * blocksPerRow c + j % c.vlN / 32

/-- VLMAX of FP32 rows and the reach of a scale register (R75, R132). -/
def blockVl (c : VConf) : M Unit := do
  needPredVl c
  let n := c.rcN * blocksPerRow c
  trapIf (256 < n) .matf (BitVec.ofNat 64 n)

/-- emax of R88. -/
def emaxOf (et : Nat) : Int := match et with | 8 => 8 | 9 => 15 | 10 => 2 | _ => 0

/-- Magnitude of an FP32 pattern for amax: an infinity counts as the largest finite value; NaN does not count (R88). -/
def amaxOf (xs : List Nat) : Nat :=
  xs.foldl (fun r x => if fp32.isNan x then r else Nat.max r (Nat.min (fp32.mag x) fp32.maxMag)) 0

/-- The scale exponent X of a block whose active FP32 elements are given (R88). -/
def blockExp (et : Nat) (xs : List Nat) : Int :=
  match v32 (amaxOf xs) with
  | .fin _ m e _ =>
    if m = 0 then 0
    else
      let x : Int := e + Nat.log2 m - emaxOf et
      if x < -127 then -127 else if 127 < x then 127 else x
  | _ => 0

/-- x · 2^k, exactly. -/
def Ex.scale (k : Int) : Ex → Ex
  | .fin n m e s => .fin n m (e + k) s
  | x => x

/-- The element of greatest magnitude of a block, lowest index first; NaN does not count (R89). -/
def greatest (xs : List Nat) : Option Nat :=
  xs.foldl (fun r x => if fp32.isNan x then r
    else match r with
      | none => some x
      | some y => if fp32.mag y < fp32.mag x then some x else some y) none

/-- A value exceeds 6 in magnitude. -/
def above6 : Ex → Bool
  | .nan _ => false
  | .inf _ => true
  | .fin _ m e _ => if 0 ≤ e then 6 < m * 2 ^ e.toNat else 6 * 2 ^ (-e).toNat < m

/-- The element that a block of E2M1X writes as 0b1000: the greatest one, when its y exceeds 6 (R89). -/
def specialOf (et : Nat) (xs : List Nat) : Option Nat :=
  if et = 10 then
    match greatest xs with
    | some g => if above6 ((v32 g).scale (-(blockExp 10 xs))) then some g else none
    | none => none
  else none

/-- The scale entry of a block: the scale byte of R88 and the special byte of R89. -/
def blockScale (c : VConf) (xs : List Nat) : M (BitVec 16) := do
  let x := blockExp c.et xs
  let sp ← (match specialOf c.et xs with
    | some g => vrnd c.frm e4m3 true ((v32 g).scale (-x))
    | none => pure 0)
  pure (BitVec.ofNat 16 ((x + 127).toNat + 256 * sp))

/-- The active FP32 elements of block k of row t. -/
def blockElems (v : VecRegs) (c : VConf) (a : BitVec 7) (act : Nat → Bool) (t k : Nat) : List Nat :=
  ((List.range (Nat.min 32 (c.vlN - 32 * k))).filter fun i => act (t * c.vlN + 32 * k + i)).map fun i =>
    v.elW c a 32 (t * c.vlN + 32 * k + i)

/-- Positions of block b of row t that are active. -/
def blockActive (c : VConf) (act : Nat → Bool) (t b : Nat) : List Nat :=
  ((List.range (Nat.min 32 (c.vlN - 32 * b))).map fun i => t * c.vlN + 32 * b + i).filter act

/-- The work of VSMXE: the scale entries of every block, in increasing entry (R143); one whose active positions are all padded sets no
flag (R19). -/
def writeScales (c : VConf) (x : BitVec 7) (v : VecRegs) (a : BitVec 7) (act : Nat → Bool) : M Unit :=
  forN (c.rcN * blocksPerRow c) fun n => do
    let js := blockActive c act (n / blocksPerRow c) (n % blocksPerRow c)
    let s ← quietly c (!js.isEmpty && js.all (padded v c a)) (blockScale c (blockElems v c a act (n / blocksPerRow c) (n % blocksPerRow c)))
    putScale x.toNat n s

/-- The MXINT8 pattern of y: 64·y rounded to an integer and clamped to ±127 (R85, R89). -/
def quantInt (mode u : Nat) (y : Ex) : Int × Flags :=
  match y with
  | .nan _ => (0, flNV)
  | .inf neg => (if neg then -127 else 127, flSAT)
  | .fin neg m e st =>
    let (fl, rem, _, st') := splitAt m (e + 6) st 0
    let above := 127 < fl || (fl == 127 && (rem != 0 || st'))
    let (n, inexact) := roundToInt (if mode == 4 && above then 0 else mode) u neg m (e + 6) st
    let f := flIf inexact flNX
    if n < -127 then (-127, f ||| flSAT) else if 127 < n then (127, f ||| flSAT) else (n, f)

/-- The quantised pattern of an active FP32 element, given its block's elements (R89). Each is a call of `rnd`, that of a NaN included
(DEDUCED, log 114). -/
def quantElem (c : VConf) (xs : List Nat) (x : Nat) : M Nat := do
  let y := (v32 x).scale (-(blockExp c.et xs))
  if c.et = 11 then
    let u ← stepGen c.frm
    let (n, fl) := quantInt c.frm.toNat u y
    setFlags fl
    pure (wrapBits 8 n)
  else if specialOf c.et xs = some x then pure 8
  else do
    let r ← vrnd c.frm (fmtOf c.et) true y
    pure (if c.et = 10 && r = 8 then 0 else r)

/-- The unscaled value of a block-scaled element (R73, R76), given its scale entry. -/
def unscaled (et x : Nat) (s : BitVec 16) : Ex :=
  if et = 11 then .fin (decide (sextNat 8 x < 0)) (sextNat 8 x).natAbs (-6) false
  else if et = 10 && x = 8 then
    let sp := (s.extractLsb' 8 8).toNat
    if e4m3.mag sp = 0 then .fin false 0 0 false else e4m3.value sp
  else (fmtOf et).value x

/-- The value of a block-scaled element: NaN under the scale byte 0xFF (R75, R76). -/
def scaledValue (et x : Nat) (s : BitVec 16) : Ex :=
  let b := (s.extractLsb' 0 8).toNat
  if b = 255 then .nan false else (unscaled et x s).scale ((b : Int) - 127)

/-- VCVT (R142): Converts each element to type T, optionally saturating. -/
def performVcvt (d : BitVec 7) (a : BitVec 7) (t : BitVec 4) (sf : BitVec 1) (m : BitVec 1) (e : Entry) : M Unit :=
  convertTile d a m (widthOf t.toNat) (fun c x => convertElem c t.toNat (sf == 1) x) e

/-- VCVT: dispatch (R416) and execution. -/
def execVcvt (d : BitVec 7) (a : BitVec 7) (t : BitVec 4) (sf : BitVec 1) (m : BitVec 1) (s : State) : Host.Outcome State Fault Refusal :=
  dispatchV (encVcvt d a t sf m).toWord 0 { etypes := fun et => upTo9 et && upTo9 t.toNat } (performVcvt d a t sf m) s

/-- VSMXE (R143): Computes block scales of an FP32 tile into a scale register. -/
def performVsmxe (d : BitVec 7) (a : BitVec 7) (m : BitVec 1) (e : Entry) : M Unit :=
  do
  let c := e.cfg
  blockVl c
  vrun c [Opnd.src c a] (do
    let (v, act) ← sources c m [a]
    writeScales c d v a act)

/-- VSMXE: dispatch (R416) and execution. -/
def execVsmxe (d : BitVec 7) (a : BitVec 7) (m : BitVec 1) (s : State) : Host.Outcome State Fault Refusal :=
  dispatchV (encVsmxe d a m).toWord 0 { etypes := isBlockType } (performVsmxe d a m) s

/-- VQUANT (R144): Computes block scales and quantises the tile. -/
def performVquant (d : BitVec 7) (a : BitVec 7) (b : BitVec 7) (m : BitVec 1) (e : Entry) : M Unit :=
  do
  let c := e.cfg
  blockVl c
  vrun c [Opnd.src c a, Opnd.dst c d] (do
    let (v, act) ← sources c m [a]
    writeScales c b v a act
    putTileW c d.toNat c.width fun j =>
      if act j then do
        pure (some (← quietly c (padded v c a j)
          (quantElem c (blockElems v c a act (j / c.vlN) (j % c.vlN / 32)) (v.elW c a 32 j))))
      else pure none)

/-- VQUANT: dispatch (R416) and execution. -/
def execVquant (d : BitVec 7) (a : BitVec 7) (b : BitVec 7) (m : BitVec 1) (s : State) : Host.Outcome State Fault Refusal :=
  dispatchV (encVquant d a b m).toWord 0 { etypes := isBlockType } (performVquant d a b m) s

/-- VDEQ (R145): Dequantises a block-scaled tile to FP32. -/
def performVdeq (d : BitVec 7) (a : BitVec 7) (b : BitVec 7) (m : BitVec 1) (e : Entry) : M Unit :=
  do
  let c := e.cfg
  blockVl c
  vrun c [Opnd.src c a, Opnd.dst c d] (do
    let (v, act) ← sources c m [a]
    putTileW c d.toNat 32 fun j =>
      if act j then do
        pure (some (← quietly c (padded v c a j)
          (vrnd c.frm fp32 false (scaledValue c.et (v.el c a j) (scaleAt v b.toNat (scaleEntry c j))))))
      else pure none)

/-- VDEQ: dispatch (R416) and execution. -/
def execVdeq (d : BitVec 7) (a : BitVec 7) (b : BitVec 7) (m : BitVec 1) (s : State) : Host.Outcome State Fault Refusal :=
  dispatchV (encVdeq d a b m).toWord 0 { etypes := isBlockType } (performVdeq d a b m) s

/-- VPACK (R146): Narrows each element to half width. -/
def performVpack (d : BitVec 7) (a : BitVec 7) (m : BitVec 1) (e : Entry) : M Unit :=
  convertTile d a m (e.cfg.width / 2) (fun _ x => pure x) e

/-- VPACK: dispatch (R416) and execution. -/
def execVpack (d : BitVec 7) (a : BitVec 7) (m : BitVec 1) (s : State) : Host.Outcome State Fault Refusal :=
  dispatchV (encVpack d a m).toWord 0 { etypes := fun et => et < 12 && et != 10 } (performVpack d a m) s

/-- VUNPK (R146): Widens each element to double width. -/
def performVunpk (d : BitVec 7) (a : BitVec 7) (sf : BitVec 1) (m : BitVec 1) (e : Entry) : M Unit :=
  convertTile d a m (2 * e.cfg.width)
    (fun c x => pure (if sf = 1 then wrapBits (2 * c.width) (sextNat c.width x) else x)) e

/-- VUNPK: dispatch (R416) and execution. -/
def execVunpk (d : BitVec 7) (a : BitVec 7) (sf : BitVec 1) (m : BitVec 1) (s : State) : Host.Outcome State Fault Refusal :=
  dispatchV (encVunpk d a sf m).toWord 0 { etypes := fun et => et < 12 && widthOf et != 32 } (performVunpk d a sf m) s

/-- VTOX (R147): Moves 512 bytes of a row into a scale register. -/
def performVtox (d : BitVec 7) (a : BitVec 7) (e : Entry) : M Unit :=
  do
  let c := e.cfg
  vrun c [Opnd.rawIn a a.toNat 1] (do
    let v := (← getHart).vec
    forN 256 fun k => putScale d.toNat k (BitVec.ofNat 16 (tileElem v c.vwb.toNat a.toNat 0 k 16)))

/-- VTOX: dispatch (R416) and execution. -/
def execVtox (d : BitVec 7) (a : BitVec 7) (s : State) : Host.Outcome State Fault Refusal :=
  dispatchV (encVtox d a).toWord 0 { etypes := fun _ => true } (performVtox d a) s

/-- XTOV (R147): Moves a scale register into 512 bytes of a row. -/
def performXtov (d : BitVec 7) (a : BitVec 7) (e : Entry) : M Unit :=
  do
  let c := e.cfg
  vrun c [Opnd.rawOut d d.toNat 1] (do
    let v := (← getHart).vec
    forN 256 fun k => wrAt c d.toNat 0 k 16 (scaleAt v a.toNat k).toNat)

/-- XTOV: dispatch (R416) and execution. -/
def execXtov (d : BitVec 7) (a : BitVec 7) (s : State) : Host.Outcome State Fault Refusal :=
  dispatchV (encXtov d a).toWord 0 { etypes := fun _ => true } (performXtov d a) s

end Sys2Proof.Machine
end

