-- ==== Sys2Proof/Machine/Matrix.lean ====
section
/-! DEFINITION. The matrix unit (R94, R213–R227): the MAT family. -/

namespace Sys2Proof.Machine

/-- The granted shape that MSHP holds (R213). -/
structure Shape where
  mg : Nat
  ng : Nat
  kg : Nat

def shapeOf (y : SysRegs) : Shape :=
  ⟨bitsOf y.mshp.toNat 7 0 + 1, bitsOf y.mshp.toNat 15 8 + 1, bitsOf y.mshp.toNat 25 16 + 1⟩

/-- Guard g (R20). -/
def guardOf (v : VecRegs) (g : Nat) : Bool := sparseGet false v.guards g
def putGuard (g : Nat) (b : Bool) : M Unit := modVec fun v => { v with guards := sparsePut false v.guards g b }

/-- The row of an operand name is inside the allotment (R31, R215). -/
def checkRowName (c : VConf) (n : BitVec 7) : M Unit := checkRowsNat c n.toNat 1 n

/-- MATF while MSHP.V = 0 (R216, R227, R228), with XVAL 0; R227 gives no XVAL for GTEST, which takes the same (DEDUCED, log 119). -/
def needShape : M Shape := do
  let h ← getHart
  trapIf (!h.sys.mshp.getLsbD 31) .matf 0
  pure (shapeOf h.sys)

/-- A guarded instruction (R215): the window checks of its names; under a false guard nothing else; else MATF while MSHP.V
is 0, and its work. -/
def guarded (c : VConf) (names : M Unit) (body : Shape → M Unit) : M Unit := do
  names
  let h ← getHart
  if guardOf h.vec c.gsel.toNat then do
    let sh ← needShape
    body sh
  else pure ()

/-- A guarded instruction that completes as a whole: ESTART is 0 (R216). -/
def guardedWhole (e : Entry) (names : VConf → M Unit) (body : VConf → Shape → M Unit) : M Unit := do
  setProgress 0
  let c := e.cfg.from0
  guarded c (names c) (body c)

/-! ## MSHAPE (R217) -/

/-- The scale registers that a scaled operand needs: ⌈rows · ⌈K/32⌉ / 256⌉. -/
def scaleRegs (rows k : Nat) : Nat := (rows * ((k + 31) / 32) + 255) / 256

/-- The largest K' of R217 for a scaled operand. The fuel counts the multiples of 32 tried downward. -/
def grantK (base rows : Nat) : Nat → Nat → Nat
  | 0, k => k
  | n + 1, k => if base + scaleRegs rows k ≤ 8 then k else grantK base rows n ((k - 1) / 32 * 32)

/-- MSHAPE: the grant, or the MATF of a malformed request. -/
def mshape (e : Entry) : M Unit := do
  setProgress 0
  let a := e.a0.toNat
  let b := e.b0.toNat
  let fb := bitsOf b 3 0
  let sb := bitOf b 4
  let xb := bitsOf b 7 5
  let sa := bitOf b 12
  let xa := bitsOf b 15 13
  trapIf (bitsOf a 63 26 != 0 || bitsOf b 63 16 != 0 || bitsOf b 11 8 != 0) .matf e.b0
  trapIf (fb < 5 || 11 < fb) .matf e.b0
  trapIf ((10 ≤ fb && !sb) || (fb < 8 && sb)) .matf e.b0
  let mg := Nat.min (bitsOf a 7 0 + 1) 128
  let ng := Nat.min (bitsOf a 15 8 + 1) 128
  let k0 := Nat.min (bitsOf a 25 16 + 1) 512
  let k1 := if sa then grantK xa mg 17 k0 else k0
  let kg := if sb then grantK xb ng 17 k1 else k1
  trapIf (sa && sb && overlaps xa (scaleRegs mg kg) xb (scaleRegs ng kg)) .matf e.b0
  needRoom
  let w := BitVec.ofNat 64 (mg - 1 + 2 ^ 8 * (ng - 1) + 2 ^ 16 * (kg - 1) + 2 ^ 31)
  modSys fun y => { y with mshp := w, mfmt := BitVec.ofNat 64 (b % 2 ^ 16) }
  deliver w

/-! ## Operands and sums (R94, R218–R220) -/

/-- The formats and scale registers that MFMT holds (R213). -/
structure MatFmt where
  fb : Nat
  sb : Bool
  xb : Nat
  sa : Bool
  xa : Nat

def matFmt (y : SysRegs) : MatFmt :=
  let w := y.mfmt.toNat
  ⟨bitsOf w 3 0, bitOf w 4, bitsOf w 7 5, bitOf w 12, bitsOf w 15 13⟩

/-- The stride between operand rows that MMODE sets (R218). -/
def strideOf (c : VConf) (packed : Nat) : Nat :=
  match c.mmode.toNat with | 0 => packed | 1 => 128 | 2 => 256 | _ => 512

/-- K-group size of an operand format (R94). -/
def groupSize (fmt : Nat) (scaled : Bool) : Nat :=
  if scaled || 10 ≤ fmt then 32 else if fmt = 5 then 1 else if fmt < 8 then 2 else 4

/-- An operand element: its unscaled value and the scale exponent of its block; a NaN scale makes it NaN (R75, R76). -/
def matValue (v : VecRegs) (fmt x : Nat) (scaled : Bool) (base entry : Nat) : Ex × Int :=
  if scaled then
    let s := scaleAt v (base + entry / 256) (entry % 256)
    let b := (s.extractLsb' 0 8).toNat
    if b = 255 then (.nan false, 0) else (unscaled fmt x s, (b : Int) - 127)
  else (unscaled fmt x 0, 0)

/-- The exact sum of products as one operation (R83, R94): NaN when one of them is NaN or two are opposite infinities, whatever
their order; the sum of none is +0. -/
def sumProducts (xs : List Ex) : Ex × Flags :=
  let clash := xs.contains (.inf false) && xs.contains (.inf true)
  let total := match xs with
    | [] => .fin false 0 0 false
    | x :: rest => rest.foldl (fun acc y => (acc.add 0 y).1) x
  (total, flIf clash flNV)

/-- One K-group (R94 steps 1–3): the exact sum of its products, scaled, rounded to FP32. -/
def groupSum (ps : List ((Ex × Int) × (Ex × Int))) : Rounded :=
  let products := ps.map fun p => p.1.1.mul p.2.1
  let (sum, f1) := sumProducts (products.map Prod.fst)
  let scale := match ps with
    | [] => 0
    | p :: _ => p.1.2 + p.2.2
  let (r, f2) := rne (sum.scale scale)
  (r, products.foldl (fun f p => f ||| p.2) 0 ||| f1 ||| f2)

/-- The accumulation of R94 over the groups of one output, each with a mark where it sets no flag. Every group is added, one without an
active position as the sum +0. -/
def accumulateIn (acc : Nat) (groups : List (Bool × List ((Ex × Int) × (Ex × Int)))) : Rounded :=
  groups.foldl (fun (r : Rounded) g =>
    let (x, f1) := groupSum g.2
    let (y, f2) := (v32 r.1).add 0 (v32 x)
    let (z, f3) := rne y
    (z, if g.1 then r.2 else r.2 ||| f1 ||| f2 ||| f3)) (acc, 0)

/-- The accumulation of R94 where no operand is padded: only a group with an active position sets flags (R19). -/
def accumulate (acc : Nat) (groups : List (List ((Ex × Int) × (Ex × Int)))) : Rounded :=
  accumulateIn acc (groups.map fun g => (g.isEmpty, g))

/-- The k positions of each group that take part, with their column of A (R94, R221). -/
def kGroups (kg size : Nat) (m : BitVec 1) (p : BitVec 1024) : List (List (Nat × Nat)) :=
  (List.range ((kg + size - 1) / size)).map fun g =>
    ((List.range (Nat.min size (kg - g * size))).filter fun i => m == 0 || p.getLsbD (g * size + i)).map fun i =>
      let k := g * size + i
      (k, if m = 0 then k else popBelow p k)

/-- Accumulate A·B into tile d over the granted shape (R221): `ra m k` and `rb k n` give the elements, `none` where a stream
has none; a group whose elements all have a padded factor (`pad m k col n`) sets no flag (R19). -/
def matmul (sh : Shape) (d : Nat) (groups : List (List (Nat × Nat))) (ra : Nat → Nat → Nat → Option (Ex × Int))
    (rb : Nat → Nat → Option (Ex × Int)) (pad : Nat → Nat → Nat → Nat → Bool) : M Unit := do
  tileErrors d sh.mg sh.ng
  let v := (← getHart).vec
  let cell (m n : Nat) : Rounded := accumulateIn (tileAt v d m n) (groups.map fun g =>
    (g.all fun (k, col) => pad m k col n || (ra m k col).isNone || (rb k n).isNone,
      g.filterMap fun (k, col) =>
        match ra m k col, rb k n with
        | some x, some y => some (x, y)
        | _, _ => none))
  forN (sh.mg * sh.ng) fun f => do
    let (r, fl) := cell (f / sh.ng) (f % sh.ng)
    setFlags fl
    putTile d (f / sh.ng) (f % sh.ng) r

/-- The configuration that lays an operand out in rows of VLMAX(format) elements, as one tile (R219). -/
def flatConf (c : VConf) (fmt : Nat) : VConf := { c with vl := BitVec.ofNat 14 (vlmax fmt), rc := 63 }

/-- An operand of `count` elements at row n in a format (R219). -/
def flatOpnd (n : BitVec 7) (fmt count : Nat) (u : Use) : Opnd :=
  ⟨n, n.toNat, Nat.max 1 ((count + vlmax fmt - 1) / vlmax fmt), u, count, 4096⟩

/-- The element type that an A operand is read in: ETYPE, or the type of the input stream bound to it (R219). -/
def formatA (c : VConf) (v : VecRegs) (a : BitVec 7) : Nat :=
  match streamAt v (c.vwb.toNat + a.toNat) with
  | some (_, st) => if st.out then c.et else recType st.record
  | none => c.et

/-- FA agrees with SA and, under a K-mask, is unscaled (R220, R221). -/
def checkFA (fa : Nat) (sa : Bool) (m : BitVec 1) : M Unit := do
  trapIf (fa < 5 || 11 < fa || (10 ≤ fa && !sa) || (fa < 8 && sa)) .matf (BitVec.ofNat 64 fa)
  trapIf (m == 1 && sa) .matf (BitVec.ofNat 64 fa)

/-- L holds the K and the N it must hold (R218). -/
def checkL (c : VConf) (need : Nat) : M Nat := do
  let l := strideOf c need
  trapIf (l < need) .matf (BitVec.ofNat 64 l)
  pure l

/-- Columns of A: K, or the popcount of the K-mask (R221). -/
def columnsOf (kg : Nat) (m : BitVec 1) (p : BitVec 1024) : Nat := if m = 0 then kg else popBelow p kg

/-- Element at a flat index of an operand laid out in rows of VLMAX(format). -/
def flatElem (v : VecRegs) (c : VConf) (n : BitVec 7) (fmt i : Nat) : Option Nat :=
  if inStrip v c n i then some (tileElem v c.vwb.toNat n.toNat (i / vlmax fmt) (i % vlmax fmt) (widthOf fmt)) else none

/-- Give TMMA its row operands: windows, stream checks, strips, the work, and the consumption of exactly the elements
covered (R219). -/
def withFlat (c : VConf) (os : List (Nat × Opnd)) (body : M Unit) : M Unit := do
  os.foldlM (fun _ o => checkRowsNat c o.2.first o.2.rows o.2.field) ()
  os.foldlM (fun _ o => checkUse c o.1 1 o.2) ()
  os.foldlM (fun _ o => checkErrors c o.2) ()
  os.foldlM (fun _ o => needStreamRoom c 1 o.2) ()
  os.foldlM (fun _ o => loadStrip (flatConf c o.1) (widthOf o.1) 1 o.2) ()
  wholly (do
    body
    match os with
    | [x, y] =>
      if x.2.first = y.2.first then retireStreams (flatConf c x.1) 1 (if x.2.strips < y.2.strips then y.2 else x.2)
      else do retireStreams (flatConf c x.1) 1 x.2; retireStreams (flatConf c y.1) 1 y.2
    | os => os.foldlM (fun _ o => retireStreams (flatConf c o.1) 1 o.2) ())
  dropStrips

/-- TMMA with A in rows (R221). -/
def tmmaRows (c : VConf) (sh : Shape) (d : Nat) (a b : BitVec 7) (m : BitVec 1) : M Unit := do
  let h ← getHart
  let mf := matFmt h.sys
  let p := predOf h.vec c.psel.toNat
  maskVl c m
  let fa := formatA c h.vec a
  checkFA fa mf.sa m
  let ka := columnsOf sh.kg m p
  let la ← checkL c ka
  let lb ← checkL c sh.ng
  let ca := if ka = 0 then 0 else (sh.mg - 1) * la + ka
  let cb := (sh.kg - 1) * lb + sh.ng
  withFlat c [(fa, flatOpnd a fa ca .src), (mf.fb, flatOpnd b mf.fb cb .src)] (do
    let v := (← getHart).vec
    let size := Nat.min (groupSize fa mf.sa) (groupSize mf.fb mf.sb)
    matmul sh d (kGroups sh.kg size m p)
      (fun i k col => (flatElem v c a fa (i * la + col)).map fun x =>
        matValue v fa x mf.sa mf.xa (i * ((sh.kg + 31) / 32) + k / 32))
      (fun k n => (flatElem v c b mf.fb (k * lb + n)).map fun x =>
        matValue v mf.fb x mf.sb mf.xb (k / 32 * sh.ng + n))
      (fun i k col n => padded v c a (i * la + col) || padded v c b (k * lb + n)))

/-- TMMA with A in a tile, rounded to BF16 (R222). FA, SA and XA say nothing of A, and R220 is not asked of them (DEDUCED, log 120). -/
def tmmaTile (c : VConf) (sh : Shape) (d a : Nat) (b : BitVec 7) (m : BitVec 1) : M Unit := do
  let h ← getHart
  let mf := matFmt h.sys
  let p := predOf h.vec c.psel.toNat
  maskVl c m
  trapIf (128 < sh.kg) .matf (BitVec.ofNat 64 sh.kg)
  trapIf (a = d) .matf (BitVec.ofNat 64 d)
  let lb ← checkL c sh.ng
  let _ ← checkL c (columnsOf sh.kg m p)
  withFlat c [(mf.fb, flatOpnd b mf.fb ((sh.kg - 1) * lb + sh.ng) .src)] (do
    tileErrors a sh.mg (columnsOf sh.kg m p)
    let v := (← getHart).vec
    matmul sh d (kGroups sh.kg (Nat.min 2 (groupSize mf.fb mf.sb)) m p)
      (fun i _ col => some (bf16.value (bf16.rnd 0 0 false (v32 (tileAt v a i col))).1, 0))
      (fun k n => (flatElem v c b mf.fb (k * lb + n)).map fun x =>
        matValue v mf.fb x mf.sb mf.xb (k / 32 * sh.ng + n))
      (fun _ k _ n => padded v c b (k * lb + n)))

/-! ## TMMAP (R223) -/

/-- A scratchpad operand: base, row pitch, tile pitch, rotation code. -/
structure PoolOpnd where
  base : Nat
  pitch : Nat
  tile : Nat
  rot : Nat

/-- The operand that a register pair gives; a set bit that must be zero, or a pitch off its multiple, raises MATF. -/
def poolOpnd (x y : Word) : M PoolOpnd := do
  trapIf (bitsOf x.toNat 63 40 != 0 || bitsOf x.toNat 27 24 != 0) .matf x
  trapIf (bitsOf y.toNat 63 34 != 0 || bitsOf y.toNat 7 0 != 0) .matf y
  pure ⟨bitsOf x.toNat 23 0, bitsOf x.toNat 39 24, bitsOf y.toNat 31 0, bitsOf y.toNat 33 32⟩

/-- Read element (i, j) of a scratchpad operand in a format. -/
def poolElem (o : PoolOpnd) (fmt i j : Nat) : M Nat := do
  let w := widthOf fmt
  let a := o.base + i / 128 * o.tile + i % 128 * o.pitch + 256 * (i * o.rot % 8) +
    (if w = 4 then j / 2 else j * (w / 8))
  let x ← spRead (BitVec.ofNat 64 a) (if w = 4 then 1 else w / 8)
  pure (if w = 4 then if j % 2 = 0 then x % 16 else x / 16 else x)

/-- A table of operand elements: rows by index, each a list. -/
def poolTable (o : PoolOpnd) (fmt : Nat) (rows : List Nat) (cols : Nat) : M (List (Nat × List Nat)) :=
  rows.foldlM (fun acc i => do
    let xs ← mapFrom cols 0 fun j => poolElem o fmt i j
    pure (acc ++ [(i, xs)])) []

/-- An element of such a table. -/
def tableAt (t : List (Nat × List Nat)) (i j : Nat) : Nat := ((t.find? fun r => r.1 == i).map fun r => r.2.getD j 0).getD 0

/-- TMMAP (R223): both operands in the scratchpad. -/
def tmmapTile (c : VConf) (sh : Shape) (d : Nat) (m : BitVec 1) (e : Entry) : M Unit := do
  let h ← getHart
  let mf := matFmt h.sys
  let p := predOf h.vec c.psel.toNat
  maskVl c m
  checkFA c.et mf.sa m
  let oa ← poolOpnd e.a0 e.a1
  let ob ← poolOpnd e.b0 e.b1
  let ka := columnsOf sh.kg m p
  let _ ← checkL c ka
  let _ ← checkL c sh.ng
  let ks := (List.range sh.kg).filter fun k => m == 0 || p.getLsbD k
  let ta ← poolTable oa c.et (List.range sh.mg) ka
  let tb ← poolTable ob mf.fb ks sh.ng
  let size := Nat.min (groupSize c.et mf.sa) (groupSize mf.fb mf.sb)
  matmul sh d (kGroups sh.kg size m p)
    (fun i k col => some (matValue h.vec c.et (tableAt ta i col) mf.sa mf.xa (i * ((sh.kg + 31) / 32) + k / 32)))
    (fun k n => some (matValue h.vec mf.fb (tableAt tb k n) mf.sb mf.xb (k / 32 * sh.ng + n)))
    (fun _ _ _ _ => false)

/-! ## Moving tiles (R225, R226) -/

/-- Address of element f of the granted region: A + m·B + 4n (R225). -/
def tileAddr (e : Entry) (sh : Shape) (f : Nat) : Word :=
  e.a0 + e.b0 * BitVec.ofNat 64 (f / sh.ng) + BitVec.ofNat 64 (4 * (f % sh.ng))

/-- TLD and TLDP: elements from ESTART on (R225). -/
def tileLoad (sp : Bool) (d : BitVec 7) (e : Entry) : M Unit :=
  guarded e.cfg (checkTile d.toNat) fun sh =>
    forN (sh.mg * sh.ng) fun f =>
      if f < e.cfg.est then pure ()
      else atElem f do
        let x ← spaceRead sp (tileAddr e sh f) 4
        putTile d.toNat (f / sh.ng) (f % sh.ng) x

/-- TST and TSTP. -/
def tileStore (sp : Bool) (d : BitVec 7) (e : Entry) : M Unit :=
  guarded e.cfg (checkTile d.toNat) fun sh => do
    let v := (← getHart).vec
    forN (sh.mg * sh.ng) fun f =>
      if f < e.cfg.est then pure ()
      else atElem f do
        trapIf (v.badTiles.contains (d.toNat * 16384 + f / sh.ng * 128 + f % sh.ng)) .mce (BitVec.ofNat 64 d.toNat)
        spaceWrite sp (tileAddr e sh f) 4 (tileAt v d.toNat (f / sh.ng) (f % sh.ng))

/-- Write flat index f of a region to rows of VLMAX(ETYPE) elements (R226). -/
def flatWrite (c : VConf) (d f x : Nat) : M Unit :=
  wrAt (flatConf c c.et) d (f / vlmax c.et) (f % vlmax c.et) c.width x

/-- The FP32 patterns of block e of a tile region, blocks of 32 along n within each m (R226). -/
def tileBlock (v : VecRegs) (sh : Shape) (a e : Nat) : List Nat :=
  let per := (sh.ng + 31) / 32
  let k := e % per
  (List.range (Nat.min 32 (sh.ng - 32 * k))).map fun i => tileAt v a (e / per) (32 * k + i)

/-- TCVT to a block-scaled type: all scales in increasing entry, then the elements (R226). -/
def tcvtBlocks (c : VConf) (sh : Shape) (d a x : Nat) : M Unit := do
  let v := (← getHart).vec
  let per := (sh.ng + 31) / 32
  trapIf ((8 - x) * 256 < sh.mg * per) .matf (BitVec.ofNat 64 ((8 - x) * 256))
  forN (sh.mg * per) fun n => do
    let s ← blockScale c (tileBlock v sh a n)
    putScale (x + n / 256) (n % 256) s
  forN (sh.mg * sh.ng) fun f => do
    let y ← quantElem c (tileBlock v sh a (f / sh.ng * per + f % sh.ng / 32)) (tileAt v a (f / sh.ng) (f % sh.ng))
    flatWrite c d f y

/-- TCVT to FP32, FP16 or BF16 (R226). -/
def tcvtPlain (c : VConf) (sh : Shape) (d a : Nat) (sat : Bool) : M Unit := do
  let v := (← getHart).vec
  forN (sh.mg * sh.ng) fun f => do
    let x := tileAt v a (f / sh.ng) (f % sh.ng)
    let y ← if c.et = 5 then pure x else vrnd c.frm (fmtOf c.et) sat (v32 x)
    flatWrite c d f y

/-- MSHAPE (R217): Grants and latches the matrix shape and format and delivers MSHP to q4. -/
def performMshape (e : Entry) : M Unit :=
  mshape e

/-- MSHAPE: dispatch (R416) and execution. -/
def execMshape (a : BitVec 7) (b : BitVec 7) (s : State) : Host.Outcome State Fault Refusal :=
  dispatchV (encMshape a b).toWord 0 { whole := true, a := .scalar a, b := .scalar b } (performMshape) s

/-- MMODE (R218): Sets the matrix vector length at dispatch. -/
def performMmode (_ : Entry) : M Unit :=
  pure ()

/-- MMODE: dispatch (R416) and execution. -/
def execMmode (v : BitVec 2) (s : State) : Host.Outcome State Fault Refusal :=
  dispatchV (encMmode v).toWord 0 { atDispatch := fun e => do modCfg (fun c => { c with mmode := v }); pure e } (performMmode) s

/-- TMMA (R221): Accumulates A times B into a tile, optionally K-masked or with A from a tile. -/
def performTmma (t : BitVec 1) (d : BitVec 5) (a : BitVec 7) (b : BitVec 7) (m : BitVec 1) (e : Entry) : M Unit :=
  guardedWhole e (fun c => do
    checkTile d.toNat
    if t = 1 then checkTile a.toNat else checkRowName c a
    checkRowName c b) fun c sh =>
    if t = 1 then tmmaTile c sh d.toNat a.toNat b m else tmmaRows c sh d.toNat a b m

/-- TMMA: dispatch (R416) and execution. -/
def execTmma (t : BitVec 1) (d : BitVec 5) (a : BitVec 7) (b : BitVec 7) (m : BitVec 1) (s : State) : Host.Outcome State Fault Refusal :=
  dispatchV (encTmma t d a b m).toWord 0 { whole := true } (performTmma t d a b m) s

/-- TMMAP (R223): Tile product with both operands in the scratchpad. -/
def performTmmap (d : BitVec 7) (m : BitVec 1) (e : Entry) : M Unit :=
  guardedWhole e (fun _ => checkTile d.toNat) fun c sh => tmmapTile c sh d.toNat m e

/-- TMMAP: dispatch (R416) and execution. -/
def execTmmap (d : BitVec 7) (a : BitVec 7) (b : BitVec 7) (m : BitVec 1) (s : State) : Host.Outcome State Fault Refusal :=
  dispatchV (encTmmap d a b m).toWord 0 { whole := true, a := .pair a, b := .pair b } (performTmmap d m) s

/-- TZERO (R225): Writes +0 to every element of a tile. -/
def performTzero (d : BitVec 7) (e : Entry) : M Unit :=
  guardedWhole e (fun _ => checkTile d.toNat) fun _ _ => forN 16384 fun f => putTile d.toNat (f / 128) (f % 128) 0

/-- TZERO: dispatch (R416) and execution. -/
def execTzero (d : BitVec 7) (s : State) : Host.Outcome State Fault Refusal :=
  dispatchV (encTzero d).toWord 0 { whole := true } (performTzero d) s

/-- TLD (R225): Loads a tile region from global memory. -/
def performTld (d : BitVec 7) (e : Entry) : M Unit :=
  tileLoad false d e

/-- TLD: dispatch (R416) and execution. -/
def execTld (d : BitVec 7) (a : BitVec 7) (b : BitVec 7) (s : State) : Host.Outcome State Fault Refusal :=
  dispatchV (encTld d a b).toWord 0 { a := .scalar a, b := .scalar b } (performTld d) s

/-- TST (R225): Stores a tile region to global memory. -/
def performTst (d : BitVec 7) (e : Entry) : M Unit :=
  tileStore false d e

/-- TST: dispatch (R416) and execution. -/
def execTst (d : BitVec 7) (a : BitVec 7) (b : BitVec 7) (s : State) : Host.Outcome State Fault Refusal :=
  dispatchV (encTst d a b).toWord 0 { a := .scalar a, b := .scalar b } (performTst d) s

/-- TCVT (R226): Converts a tile region into vector rows in ETYPE. -/
def performTcvt (d : BitVec 7) (a : BitVec 7) (sf : BitVec 1) (x : BitVec 3) (e : Entry) : M Unit :=
  guardedWhole e (fun c => do checkRowName c d; checkTile a.toNat) fun c sh => do
    trapIf (c.et < 5 || 11 < c.et) .matf (BitVec.ofNat 64 c.et)
    withFlat c [(c.et, flatOpnd d c.et (sh.mg * sh.ng) .dst)] (do
      tileErrors a.toNat sh.mg sh.ng
      if c.et < 8 then tcvtPlain c sh d.toNat a.toNat (sf == 1) else tcvtBlocks c sh d.toNat a.toNat x.toNat)

/-- TCVT: dispatch (R416) and execution. -/
def execTcvt (d : BitVec 7) (a : BitVec 7) (sf : BitVec 1) (x : BitVec 3) (s : State) : Host.Outcome State Fault Refusal :=
  dispatchV (encTcvt d a sf x).toWord 0 { whole := true } (performTcvt d a sf x) s

/-- TLDP (R225): Loads a tile region from the scratchpad. -/
def performTldp (d : BitVec 7) (e : Entry) : M Unit :=
  tileLoad true d e

/-- TLDP: dispatch (R416) and execution. -/
def execTldp (d : BitVec 7) (a : BitVec 7) (b : BitVec 7) (s : State) : Host.Outcome State Fault Refusal :=
  dispatchV (encTldp d a b).toWord 0 { a := .scalar a, b := .scalar b } (performTldp d) s

/-- TSTP (R225): Stores a tile region to the scratchpad. -/
def performTstp (d : BitVec 7) (e : Entry) : M Unit :=
  tileStore true d e

/-- TSTP: dispatch (R416) and execution. -/
def execTstp (d : BitVec 7) (a : BitVec 7) (b : BitVec 7) (s : State) : Host.Outcome State Fault Refusal :=
  dispatchV (encTstp d a b).toWord 0 { a := .scalar a, b := .scalar b } (performTstp d) s

/-- GTEST (R227): Sets a guard when any of the first Mg predicate bits is set. -/
def performGtest (d : BitVec 7) (a : BitVec 7) (_ : Entry) : M Unit :=
  do
  setProgress 0
  let sh ← needShape
  let p ← readPred a.toNat
  putGuard d.toNat (popBelow p sh.mg != 0)

/-- GTEST: dispatch (R416) and execution. -/
def execGtest (d : BitVec 7) (a : BitVec 7) (s : State) : Host.Outcome State Fault Refusal :=
  dispatchV (encGtest d a).toWord 0 { whole := true } (performGtest d a) s

/-- GSET (R227): Sets a guard from bit 0 of a scalar. -/
def performGset (d : BitVec 7) (e : Entry) : M Unit :=
  do
  setProgress 0
  putGuard d.toNat (e.b0.getLsbD 0)

/-- GSET: dispatch (R416) and execution. -/
def execGset (d : BitVec 7) (b : BitVec 7) (s : State) : Host.Outcome State Fault Refusal :=
  dispatchV (encGset d b).toWord 0 { whole := true, b := .scalar b } (performGset d) s

end Sys2Proof.Machine
end

