-- ==== Sys2Proof/Machine/Pred.lean ====
section
/-! DEFINITION. The predicate family (R155, R156): PRED.  Its functions ignore ESTART and MASKMODE and set no flag. -/

namespace Sys2Proof.Machine

/-- `P[d] := f(P[a], P[b])` over all 1,024 bits. -/
def predBinary (d a b : BitVec 7) (f : BitVec 1024 → BitVec 1024 → BitVec 1024) : M Unit := do
  let x ← readPred a.toNat
  let y ← readPred b.toNat
  writePred d.toNat (f x y)

/-- Deliver a value computed from the bits of a below VL. -/
def predDeliver (a : BitVec 7) (c : VConf) (f : BitVec 1024 → Nat → Word) : M Unit := do
  needPredVl c
  needRoom
  let x ← readPred a.toNat
  deliver (f x c.vlN)

/-- The pattern of 1 in an element type (R155). -/
def onePattern (et : Nat) : Nat := if isFpType et then ((fmtOf et).rnd 0 0 false (Ex.ofInt 1)).1 else 1

/-- A predicate from 1,024 truth values. -/
def predOfFn (f : Nat → Bool) : BitVec 1024 := BitVec.ofNat 1024 ((List.range 1024).foldr (fun i x => 2 * x + (f i).toNat) 0)

/-- PAND (R155): Predicate and over all 1024 bits. -/
def performPand (d : BitVec 7) (a : BitVec 7) (b : BitVec 7) (_ : Entry) : M Unit :=
  predBinary d a b fun x y => x &&& y

/-- PAND: dispatch (R416) and execution. -/
def execPand (d : BitVec 7) (a : BitVec 7) (b : BitVec 7) (s : State) : Host.Outcome State Fault Refusal :=
  dispatchV (encPand d a b).toWord 0 { etypes := upTo11 } (performPand d a b) s

/-- POR (R155): Predicate or. -/
def performPor (d : BitVec 7) (a : BitVec 7) (b : BitVec 7) (_ : Entry) : M Unit :=
  predBinary d a b fun x y => x ||| y

/-- POR: dispatch (R416) and execution. -/
def execPor (d : BitVec 7) (a : BitVec 7) (b : BitVec 7) (s : State) : Host.Outcome State Fault Refusal :=
  dispatchV (encPor d a b).toWord 0 { etypes := upTo11 } (performPor d a b) s

/-- PXOR (R155): Predicate xor. -/
def performPxor (d : BitVec 7) (a : BitVec 7) (b : BitVec 7) (_ : Entry) : M Unit :=
  predBinary d a b fun x y => x ^^^ y

/-- PXOR: dispatch (R416) and execution. -/
def execPxor (d : BitVec 7) (a : BitVec 7) (b : BitVec 7) (s : State) : Host.Outcome State Fault Refusal :=
  dispatchV (encPxor d a b).toWord 0 { etypes := upTo11 } (performPxor d a b) s

/-- PANDN (R155): Predicate and-not. -/
def performPandn (d : BitVec 7) (a : BitVec 7) (b : BitVec 7) (_ : Entry) : M Unit :=
  predBinary d a b fun x y => x &&& ~~~y

/-- PANDN: dispatch (R416) and execution. -/
def execPandn (d : BitVec 7) (a : BitVec 7) (b : BitVec 7) (s : State) : Host.Outcome State Fault Refusal :=
  dispatchV (encPandn d a b).toWord 0 { etypes := upTo11 } (performPandn d a b) s

/-- PNOT (R155): Predicate not. -/
def performPnot (d : BitVec 7) (a : BitVec 7) (_ : Entry) : M Unit :=
  predBinary d a a fun x _ => ~~~x

/-- PNOT: dispatch (R416) and execution. -/
def execPnot (d : BitVec 7) (a : BitVec 7) (s : State) : Host.Outcome State Fault Refusal :=
  dispatchV (encPnot d a).toWord 0 { etypes := upTo11 } (performPnot d a) s

/-- PALL (R155): Sets bits below VL, clears the rest. -/
def performPall (d : BitVec 7) (e : Entry) : M Unit :=
  do
  needPredVl e.cfg
  writePred d.toNat (lowOnes e.cfg.vlN)

/-- PALL: dispatch (R416) and execution. -/
def execPall (d : BitVec 7) (s : State) : Host.Outcome State Fault Refusal :=
  dispatchV (encPall d).toWord 0 { etypes := upTo11 } (performPall d) s

/-- PNONE (R155): Clears every bit. -/
def performPnone (d : BitVec 7) (_ : Entry) : M Unit :=
  writePred d.toNat 0

/-- PNONE: dispatch (R416) and execution. -/
def execPnone (d : BitVec 7) (s : State) : Host.Outcome State Fault Refusal :=
  dispatchV (encPnone d).toWord 0 { etypes := upTo11 } (performPnone d) s

/-- PPOP (R155): Delivers the count of set bits below VL to q4. -/
def performPpop (a : BitVec 7) (e : Entry) : M Unit :=
  predDeliver a e.cfg fun x vl => BitVec.ofNat 64 (popBelow x vl)

/-- PPOP: dispatch (R416) and execution. -/
def execPpop (a : BitVec 7) (s : State) : Host.Outcome State Fault Refusal :=
  dispatchV (encPpop a).toWord 0 { etypes := upTo11 } (performPpop a) s

/-- PFIRST (R155): Delivers the lowest set position below VL. -/
def performPfirst (a : BitVec 7) (e : Entry) : M Unit :=
  predDeliver a e.cfg fun x vl =>
    match findFrom vl 0 fun i => x.getLsbD i with
    | some i => BitVec.ofNat 64 i
    | none => BitVec.allOnes 64

/-- PFIRST: dispatch (R416) and execution. -/
def execPfirst (a : BitVec 7) (s : State) : Host.Outcome State Fault Refusal :=
  dispatchV (encPfirst a).toWord 0 { etypes := upTo11 } (performPfirst a) s

/-- PANY (R155): Delivers 1 when any bit below VL is set. -/
def performPany (a : BitVec 7) (e : Entry) : M Unit :=
  predDeliver a e.cfg fun x vl => if popBelow x vl = 0 then 0 else 1

/-- PANY: dispatch (R416) and execution. -/
def execPany (a : BitVec 7) (s : State) : Host.Outcome State Fault Refusal :=
  dispatchV (encPany a).toWord 0 { etypes := upTo11 } (performPany a) s

/-- PSEL (R155): Bitwise select of a into d under b. -/
def performPsel (d : BitVec 7) (a : BitVec 7) (b : BitVec 7) (_ : Entry) : M Unit :=
  do
  let z ← readPred d.toNat
  predBinary d a b fun x y => (x &&& y) ||| (z &&& ~~~y)

/-- PSEL: dispatch (R416) and execution. -/
def execPsel (d : BitVec 7) (a : BitVec 7) (b : BitVec 7) (s : State) : Host.Outcome State Fault Refusal :=
  dispatchV (encPsel d a b).toWord 0 { etypes := upTo11 } (performPsel d a b) s

/-- PFROMV (R155): Sets predicate bits for nonzero elements of a row; an element past the end of an unpadded stream is a free value (log 116). -/
def performPfromv (d : BitVec 7) (a : BitVec 7) (e : Entry) : M Unit :=
  do
  let c := { e.cfg.from0 with rc := 1 }
  needPredVl c
  vrun c [Opnd.src c a] (do
    let v := (← getHart).vec
    writePred d.toNat (predOfFn fun i => decide (i < c.vlN) && v.el c a i != 0))

/-- PFROMV: dispatch (R416) and execution. -/
def execPfromv (d : BitVec 7) (a : BitVec 7) (s : State) : Host.Outcome State Fault Refusal :=
  dispatchV (encPfromv d a).toWord 0 { etypes := upTo11 } (performPfromv d a) s

/-- PTOV (R155): Writes 1 or 0 elements from predicate bits. -/
def performPtov (d : BitVec 7) (a : BitVec 7) (e : Entry) : M Unit :=
  do
  let c := e.cfg.from0
  needPredVl c
  vrun c [Opnd.dst c d] (do
    let x ← readPred a.toNat
    putTileW c d.toNat c.width fun j => pure (some (if x.getLsbD (j % c.vlN) then onePattern c.et else 0)))

/-- PTOV: dispatch (R416) and execution. -/
def execPtov (d : BitVec 7) (a : BitVec 7) (s : State) : Host.Outcome State Fault Refusal :=
  dispatchV (encPtov d a).toWord 0 { etypes := upTo7 } (performPtov d a) s

/-- PLD (R156): Loads a predicate from 128 bytes of memory, whatever VL is: R155 does not let it depend on VL (DEDUCED, log 109). -/
def performPld (d : BitVec 7) (e : Entry) : M Unit :=
  do
  setProgress 0
  let x ← vread .other e.a0 128
  writePred d.toNat (BitVec.ofNat 1024 x)

/-- PLD: dispatch (R416) and execution. -/
def execPld (d : BitVec 7) (a : BitVec 7) (s : State) : Host.Outcome State Fault Refusal :=
  dispatchV (encPld d a).toWord 0 { etypes := upTo11, a := .scalar a } (performPld d) s

/-- PST (R156): Stores a predicate to 128 bytes of memory, whatever VL is (DEDUCED, log 109). -/
def performPst (d : BitVec 7) (e : Entry) : M Unit :=
  do
  setProgress 0
  let x ← readPred d.toNat
  vwrite .other e.a0 128 x.toNat

/-- PST: dispatch (R416) and execution. -/
def execPst (d : BitVec 7) (a : BitVec 7) (s : State) : Host.Outcome State Fault Refusal :=
  dispatchV (encPst d a).toWord 0 { etypes := upTo11, a := .scalar a } (performPst d) s

end Sys2Proof.Machine
end

