-- ==== Sys2Proof/Machine/Attention.lean ====
section
/-! DEFINITION. The attention mask generator and the online softmax (R228–R230): the ATTN family. -/

namespace Sys2Proof.Machine

/-- `visible(q, k)` of R228 for query row m and key column n, from the mask and position words. -/
def visible (mask pos m n : Nat) : Bool :=
  let q := bitsOf pos 19 0 + m
  let k := bitsOf pos 39 20 + n
  let nkv := bitsOf pos 59 40
  (nkv == 0 || k < nkv) && (!bitOf mask 3 || bitsOf mask 63 44 ≤ k) &&
  ((bitOf mask 2 && k < bitsOf mask 43 24) ||
   ((!bitOf mask 0 || k ≤ q) && (!bitOf mask 1 || (q : Int) - k < bitsOf mask 23 4)))

/-- An FP32 operation rounded to nearest-even, its flags set (R229). -/
def rneOp (r : Ex × Flags) : M Nat := do
  setFlags r.2
  vrne r.1

/-- Element m of a row as FP32. -/
def rowFp (v : VecRegs) (c : VConf) (row m : Nat) : Nat := rowElem32 v (c.vwb.toNat + row) m
where
  /-- The 32-bit element at a position of a physical row. -/
  rowElem32 (v : VecRegs) (row m : Nat) : Nat := leNat (sparseGetList 0 v.rows (rowKey row (4 * m)) 4)

/-- One row of an online-softmax step (R229): the new maximum, the new sum, the factor and the probabilities. -/
def softRow (cs mo lo : Nat) (scores : List (Option Nat)) : M (Nat × Nat × Nat × List Nat) := do
  let ts ← scores.foldlM (fun acc o => do
    match o with
    | some x => pure (acc ++ [some (← rneOp ((v32 cs).mul (v32 x)))])
    | none => pure (acc ++ [none])) []
  if ts.all Option.isNone then pure (mo, lo, 0x3F800000, ts.map fun _ => 0)
  else do
    let mn ← ts.foldlM (fun r o => match o with
      | some t => flagged (fp32.pick true r t)
      | none => pure r) mo
    let ps ← ts.foldlM (fun acc o => do
      match o with
      | some t => do
        let d ← rneOp ((v32 t).add 0 (v32 mn).negate)
        let x ← flagged (ex2 d)
        let y ← flagged (bf16.rnd 0 0 false (v32 x))
        pure (acc ++ [y * 65536])
      | none => pure (acc ++ [0])) []
    let al ← (if (fp32.eqVal mo mn).1 then pure 0x3F800000
      else do
        let d ← rneOp ((v32 mo).add 0 (v32 mn).negate)
        flagged (ex2 d))
    let s ← flagged (pairReduce (fp32.sum 0) (ps.length + 1) ps)
    let scaled ← rneOp ((v32 al).mul (v32 lo))
    let l ← rneOp ((v32 scaled).add 0 (v32 s))
    pure (mn, l, al, ps)

/-- ASOFT (R229). -/
def asoftTile (c : VConf) (sh : Shape) (d a : Nat) (e : Entry) : M Unit := do
  tileErrors a sh.mg sh.ng
  let h ← getHart
  let v := h.vec
  forN sh.mg fun m => do
    let scores := (List.range sh.ng).map fun n =>
      if visible h.sys.mgen.toNat h.sys.mgpos.toNat m n then some (tileAt v a m n) else none
    let (mn, l, al, ps) ← softRow (e.b0.toNat % 2 ^ 32) (rowFp v c d m) (rowFp v c (d + 1) m) scores
    forN sh.ng fun n => putTile a m n (ps.getD n 0)
    wrAt c d 0 m 32 mn
    wrAt c d 1 m 32 l
    wrAt c d 2 m 32 al

/-- ASCALE (R230). -/
def ascaleTile (sh : Shape) (d : Nat) (factor : Nat → Nat) (div : Bool) : M Unit := do
  tileErrors d sh.mg sh.ng
  let v := (← getHart).vec
  forN (sh.mg * sh.ng) fun f => do
    let m := f / sh.ng
    let n := f % sh.ng
    let o := v32 (tileAt v d m n)
    let x := v32 (factor m)
    let r ← if div && x.isZero then pure 0 else rneOp (if div then o.div x else o.mul x)
    putTile d m n r

/-- AMASK (R228): Latches mask and position words, writes the row predicate and sets the guard. Bits 63:60 of B are checked before
MSHP.V (DEDUCED, log 119). -/
def performAmask (d : BitVec 7) (e : Entry) : M Unit :=
  do
  setProgress 0
  trapIf (bitsOf e.b0.toNat 63 60 != 0) .matf e.b0
  let sh ← needShape
  modSys fun y => { y with mgen := e.a0, mgpos := e.b0 }
  let p := predOfFn fun m => decide (m < sh.mg) && (List.range sh.ng).any fun n => visible e.a0.toNat e.b0.toNat m n
  writePred d.toNat p
  putGuard e.cfg.gsel.toNat (p != 0)

/-- AMASK: dispatch (R416) and execution. -/
def execAmask (d : BitVec 7) (a : BitVec 7) (b : BitVec 7) (s : State) : Host.Outcome State Fault Refusal :=
  dispatchV (encAmask d a b).toWord 0 { whole := true, a := .scalar a, b := .scalar b } (performAmask d) s

/-- ASOFT (R229): One online-softmax step over a score tile. -/
def performAsoft (d : BitVec 7) (a : BitVec 7) (e : Entry) : M Unit :=
  guardedWhole e (fun c => do checkRowName c d; checkTile a.toNat) fun c sh =>
    vrun c [⟨d, d.toNat, 2, .both, 1, 4 * sh.mg⟩, ⟨d, d.toNat + 2, 1, .both, 1, 0⟩] (asoftTile c sh d.toNat a.toNat e)

/-- ASOFT: dispatch (R416) and execution. -/
def execAsoft (d : BitVec 7) (a : BitVec 7) (b : BitVec 7) (s : State) : Host.Outcome State Fault Refusal :=
  dispatchV (encAsoft d a b).toWord 0 { whole := true, b := .scalar b } (performAsoft d a) s

/-- ASCALE (R230): Scales or divides tile rows by per-row factors. -/
def performAscale (d : BitVec 7) (a : BitVec 7) (v : BitVec 1) (e : Entry) : M Unit :=
  guardedWhole e (fun c => do checkTile d.toNat; checkRowName c a) fun c sh =>
    vrun c [⟨a, a.toNat, 1, .src, 1, 4 * sh.mg⟩] (do
      let w := (← getHart).vec
      ascaleTile sh d.toNat (fun m => tileElem w c.vwb.toNat a.toNat 0 m 32) (v == 1))

/-- ASCALE: dispatch (R416) and execution. -/
def execAscale (d : BitVec 7) (a : BitVec 7) (v : BitVec 1) (s : State) : Host.Outcome State Fault Refusal :=
  dispatchV (encAscale d a v).toWord 0 { whole := true } (performAscale d a v) s

end Sys2Proof.Machine
end

