-- ==== Sys2Proof/Machine/Scalar.lean ====
section
/-! DEFINITION. The scalar integer instructions (R95–R98): ALU, CMP, the immediate forms, shifts, BITS, LI and LF. -/

namespace Sys2Proof.Machine

/-- Signed division truncated toward zero: by zero all ones, and the most negative value by -1 is itself (R87). -/
def divS (x y : Word) : Word := if y = 0 then BitVec.allOnes 64 else x.sdiv y
/-- Unsigned division: by zero all ones (R87). -/
def divU (x y : Word) : Word := if y = 0 then BitVec.allOnes 64 else x / y
/-- Signed remainder: by zero the dividend (R87). -/
def remS (x y : Word) : Word := if y = 0 then x else x.srem y
/-- Unsigned remainder: by zero the dividend (R87). -/
def remU (x y : Word) : Word := if y = 0 then x else x % y
/-- Bits 127:64 of the signed product. -/
def mulHi (x y : Word) : Word := BitVec.ofInt 64 (x.toInt * y.toInt / 2 ^ 64)
/-- Bits 127:64 of the unsigned product. -/
def mulHiU (x y : Word) : Word := BitVec.ofNat 64 (x.toNat * y.toNat / 2 ^ 64)
/-- The shift amount B<5:0>. -/
def shAmt (y : Word) : Nat := y.toNat % 64
/-- sx(x, 32). -/
def sext32 (x : Word) : Word := (x.truncate 32).signExtend 64
/-- 1 or 0. -/
def ofBool (p : Bool) : Word := if p then 1 else 0
/-- Leading zero bits; 64 of zero (R97). -/
def clz64 (x : Word) : Word := if x = 0 then 64 else BitVec.ofNat 64 (63 - Nat.log2 x.toNat)
/-- Trailing zero bits; 64 of zero (R97). -/
def ctz64 (x : Word) : Word := BitVec.ofNat 64 (((List.range 64).find? fun i => x.getLsbD i).getD 64)
/-- Number of set bits (R97). -/
def popc64 (x : Word) : Word := BitVec.ofNat 64 ((List.range 64).countP fun i => x.getLsbD i)
/-- The eight bytes in reverse order (R97). -/
def bswap64 (x : Word) : Word := BitVec.ofNat 64 (leNat (leBytes 8 x.toNat).reverse)

/-- `D := f(A, B)`: every name is checked first, then D is written (R31, R95). -/
def binary (d a b : BitVec 7) (f : Word → Word → Word) : M Flow := do
  checkScalar d
  let x ← readScalar a
  let y ← readScalar b
  writeScalar d (f x y)
  pure .next

/-- `D := f(A)` (R96, R97). -/
def unary (d a : BitVec 7) (f : Word → Word) : M Flow := do
  checkScalar d
  let x ← readScalar a
  writeScalar d (f x)
  pure .next

/-- ADD (R95): Writes A + B modulo 2^64 to the scalar destination. -/
def execAdd (d : BitVec 7) (a : BitVec 7) (b : BitVec 7) (s : State) : Host.Outcome State Fault Refusal :=
  runScalar (encAdd d a b).toWord (binary d a b fun x y => x + y) s

/-- SUB (R95): Writes A - B modulo 2^64 to the scalar destination. -/
def execSub (d : BitVec 7) (a : BitVec 7) (b : BitVec 7) (s : State) : Host.Outcome State Fault Refusal :=
  runScalar (encSub d a b).toWord (binary d a b fun x y => x - y) s

/-- AND (R95): Writes A and B to the scalar destination. -/
def execAnd (d : BitVec 7) (a : BitVec 7) (b : BitVec 7) (s : State) : Host.Outcome State Fault Refusal :=
  runScalar (encAnd d a b).toWord (binary d a b fun x y => x &&& y) s

/-- OR (R95): Writes A or B to the scalar destination. -/
def execOr (d : BitVec 7) (a : BitVec 7) (b : BitVec 7) (s : State) : Host.Outcome State Fault Refusal :=
  runScalar (encOr d a b).toWord (binary d a b fun x y => x ||| y) s

/-- XOR (R95): Writes A xor B to the scalar destination. -/
def execXor (d : BitVec 7) (a : BitVec 7) (b : BitVec 7) (s : State) : Host.Outcome State Fault Refusal :=
  runScalar (encXor d a b).toWord (binary d a b fun x y => x ^^^ y) s

/-- ANDN (R95): Writes A and not B to the scalar destination. -/
def execAndn (d : BitVec 7) (a : BitVec 7) (b : BitVec 7) (s : State) : Host.Outcome State Fault Refusal :=
  runScalar (encAndn d a b).toWord (binary d a b fun x y => x &&& ~~~y) s

/-- ORN (R95): Writes A or not B to the scalar destination. -/
def execOrn (d : BitVec 7) (a : BitVec 7) (b : BitVec 7) (s : State) : Host.Outcome State Fault Refusal :=
  runScalar (encOrn d a b).toWord (binary d a b fun x y => x ||| ~~~y) s

/-- SLL (R95): Shifts A left by B<5:0>. -/
def execSll (d : BitVec 7) (a : BitVec 7) (b : BitVec 7) (s : State) : Host.Outcome State Fault Refusal :=
  runScalar (encSll d a b).toWord (binary d a b fun x y => x <<< shAmt y) s

/-- SRL (R95): Shifts A right by B<5:0>, zeros in. -/
def execSrl (d : BitVec 7) (a : BitVec 7) (b : BitVec 7) (s : State) : Host.Outcome State Fault Refusal :=
  runScalar (encSrl d a b).toWord (binary d a b fun x y => x >>> shAmt y) s

/-- SRA (R95): Shifts A right by B<5:0>, sign in. -/
def execSra (d : BitVec 7) (a : BitVec 7) (b : BitVec 7) (s : State) : Host.Outcome State Fault Refusal :=
  runScalar (encSra d a b).toWord (binary d a b fun x y => x.sshiftRight (shAmt y)) s

/-- ROR (R95): Rotates A right by B<5:0>. -/
def execRor (d : BitVec 7) (a : BitVec 7) (b : BitVec 7) (s : State) : Host.Outcome State Fault Refusal :=
  runScalar (encRor d a b).toWord (binary d a b fun x y => x.rotateRight (shAmt y)) s

/-- MUL (R95): Writes bits 63:0 of A times B. -/
def execMul (d : BitVec 7) (a : BitVec 7) (b : BitVec 7) (s : State) : Host.Outcome State Fault Refusal :=
  runScalar (encMul d a b).toWord (binary d a b fun x y => x * y) s

/-- MULH (R95): Writes bits 127:64 of the signed product. -/
def execMulh (d : BitVec 7) (a : BitVec 7) (b : BitVec 7) (s : State) : Host.Outcome State Fault Refusal :=
  runScalar (encMulh d a b).toWord (binary d a b fun x y => mulHi x y) s

/-- MULHU (R95): Writes bits 127:64 of the unsigned product. -/
def execMulhu (d : BitVec 7) (a : BitVec 7) (b : BitVec 7) (s : State) : Host.Outcome State Fault Refusal :=
  runScalar (encMulhu d a b).toWord (binary d a b fun x y => mulHiU x y) s

/-- DIV (R95): Signed division truncated toward zero, never trapping (R87). -/
def execDiv (d : BitVec 7) (a : BitVec 7) (b : BitVec 7) (s : State) : Host.Outcome State Fault Refusal :=
  runScalar (encDiv d a b).toWord (binary d a b fun x y => divS x y) s

/-- DIVU (R95): Unsigned division, never trapping. -/
def execDivu (d : BitVec 7) (a : BitVec 7) (b : BitVec 7) (s : State) : Host.Outcome State Fault Refusal :=
  runScalar (encDivu d a b).toWord (binary d a b fun x y => divU x y) s

/-- REM (R95): Signed remainder. -/
def execRem (d : BitVec 7) (a : BitVec 7) (b : BitVec 7) (s : State) : Host.Outcome State Fault Refusal :=
  runScalar (encRem d a b).toWord (binary d a b fun x y => remS x y) s

/-- REMU (R95): Unsigned remainder. -/
def execRemu (d : BitVec 7) (a : BitVec 7) (b : BitVec 7) (s : State) : Host.Outcome State Fault Refusal :=
  runScalar (encRemu d a b).toWord (binary d a b fun x y => remU x y) s

/-- MIN (R95): Writes the signed smaller of A and B. -/
def execMin (d : BitVec 7) (a : BitVec 7) (b : BitVec 7) (s : State) : Host.Outcome State Fault Refusal :=
  runScalar (encMin d a b).toWord (binary d a b fun x y => if x.slt y then x else y) s

/-- MAX (R95): Writes the signed larger of A and B. -/
def execMax (d : BitVec 7) (a : BitVec 7) (b : BitVec 7) (s : State) : Host.Outcome State Fault Refusal :=
  runScalar (encMax d a b).toWord (binary d a b fun x y => if x.slt y then y else x) s

/-- MINU (R95): Writes the unsigned smaller of A and B. -/
def execMinu (d : BitVec 7) (a : BitVec 7) (b : BitVec 7) (s : State) : Host.Outcome State Fault Refusal :=
  runScalar (encMinu d a b).toWord (binary d a b fun x y => if x.ult y then x else y) s

/-- MAXU (R95): Writes the unsigned larger of A and B. -/
def execMaxu (d : BitVec 7) (a : BitVec 7) (b : BitVec 7) (s : State) : Host.Outcome State Fault Refusal :=
  runScalar (encMaxu d a b).toWord (binary d a b fun x y => if x.ult y then y else x) s

/-- ADDW (R95): Adds modulo 2^32 and sign-extends bit 31. -/
def execAddw (d : BitVec 7) (a : BitVec 7) (b : BitVec 7) (s : State) : Host.Outcome State Fault Refusal :=
  runScalar (encAddw d a b).toWord (binary d a b fun x y => sext32 (x + y)) s

/-- SUBW (R95): Subtracts modulo 2^32 and sign-extends bit 31. -/
def execSubw (d : BitVec 7) (a : BitVec 7) (b : BitVec 7) (s : State) : Host.Outcome State Fault Refusal :=
  runScalar (encSubw d a b).toWord (binary d a b fun x y => sext32 (x - y)) s

/-- SEQ (R95): Writes 1 when A equals B, else 0. -/
def execSeq (d : BitVec 7) (a : BitVec 7) (b : BitVec 7) (s : State) : Host.Outcome State Fault Refusal :=
  runScalar (encSeq d a b).toWord (binary d a b fun x y => ofBool (x == y)) s

/-- SNE (R95): Writes 1 when A differs from B, else 0. -/
def execSne (d : BitVec 7) (a : BitVec 7) (b : BitVec 7) (s : State) : Host.Outcome State Fault Refusal :=
  runScalar (encSne d a b).toWord (binary d a b fun x y => ofBool (x != y)) s

/-- SLT (R95): Writes 1 when A < B signed. -/
def execSlt (d : BitVec 7) (a : BitVec 7) (b : BitVec 7) (s : State) : Host.Outcome State Fault Refusal :=
  runScalar (encSlt d a b).toWord (binary d a b fun x y => ofBool (x.slt y)) s

/-- SGE (R95): Writes 1 when A >= B signed. -/
def execSge (d : BitVec 7) (a : BitVec 7) (b : BitVec 7) (s : State) : Host.Outcome State Fault Refusal :=
  runScalar (encSge d a b).toWord (binary d a b fun x y => ofBool (!x.slt y)) s

/-- SLTU (R95): Writes 1 when A < B unsigned. -/
def execSltu (d : BitVec 7) (a : BitVec 7) (b : BitVec 7) (s : State) : Host.Outcome State Fault Refusal :=
  runScalar (encSltu d a b).toWord (binary d a b fun x y => ofBool (x.ult y)) s

/-- SGEU (R95): Writes 1 when A >= B unsigned. -/
def execSgeu (d : BitVec 7) (a : BitVec 7) (b : BitVec 7) (s : State) : Host.Outcome State Fault Refusal :=
  runScalar (encSgeu d a b).toWord (binary d a b fun x y => ofBool (!x.ult y)) s

/-- ADDI (R96): Adds the sign-extended 12-bit immediate to A. -/
def execAddi (d : BitVec 7) (a : BitVec 7) (im : BitVec 12) (s : State) : Host.Outcome State Fault Refusal :=
  runScalar (encAddi d a im).toWord (unary d a fun x => x + im.signExtend 64) s

/-- ANDI (R96): Ands A with the sign-extended immediate. -/
def execAndi (d : BitVec 7) (a : BitVec 7) (im : BitVec 12) (s : State) : Host.Outcome State Fault Refusal :=
  runScalar (encAndi d a im).toWord (unary d a fun x => x &&& im.signExtend 64) s

/-- ORI (R96): Ors A with the sign-extended immediate. -/
def execOri (d : BitVec 7) (a : BitVec 7) (im : BitVec 12) (s : State) : Host.Outcome State Fault Refusal :=
  runScalar (encOri d a im).toWord (unary d a fun x => x ||| im.signExtend 64) s

/-- XORI (R96): Xors A with the sign-extended immediate. -/
def execXori (d : BitVec 7) (a : BitVec 7) (im : BitVec 12) (s : State) : Host.Outcome State Fault Refusal :=
  runScalar (encXori d a im).toWord (unary d a fun x => x ^^^ im.signExtend 64) s

/-- SLLI (R96): Shifts A left by an immediate amount. -/
def execSlli (d : BitVec 7) (a : BitVec 7) (sf : BitVec 6) (s : State) : Host.Outcome State Fault Refusal :=
  runScalar (encSlli d a sf).toWord (unary d a fun x => x <<< sf.toNat) s

/-- SRLI (R96): Shifts A right logically by an immediate amount. -/
def execSrli (d : BitVec 7) (a : BitVec 7) (sf : BitVec 6) (s : State) : Host.Outcome State Fault Refusal :=
  runScalar (encSrli d a sf).toWord (unary d a fun x => x >>> sf.toNat) s

/-- SRAI (R96): Shifts A right arithmetically by an immediate amount. -/
def execSrai (d : BitVec 7) (a : BitVec 7) (sf : BitVec 6) (s : State) : Host.Outcome State Fault Refusal :=
  runScalar (encSrai d a sf).toWord (unary d a fun x => x.sshiftRight sf.toNat) s

/-- RORI (R96): Rotates A right by an immediate amount. -/
def execRori (d : BitVec 7) (a : BitVec 7) (sf : BitVec 6) (s : State) : Host.Outcome State Fault Refusal :=
  runScalar (encRori d a sf).toWord (unary d a fun x => x.rotateRight sf.toNat) s

/-- CLZ (R97): Counts leading zero bits of A. -/
def execClz (d : BitVec 7) (a : BitVec 7) (s : State) : Host.Outcome State Fault Refusal :=
  runScalar (encClz d a).toWord (unary d a fun x => clz64 x) s

/-- CTZ (R97): Counts trailing zero bits of A. -/
def execCtz (d : BitVec 7) (a : BitVec 7) (s : State) : Host.Outcome State Fault Refusal :=
  runScalar (encCtz d a).toWord (unary d a fun x => ctz64 x) s

/-- POPC (R97): Counts set bits of A. -/
def execPopc (d : BitVec 7) (a : BitVec 7) (s : State) : Host.Outcome State Fault Refusal :=
  runScalar (encPopc d a).toWord (unary d a fun x => popc64 x) s

/-- SEXTB (R97): Sign-extends the low 8 bits of A. -/
def execSextb (d : BitVec 7) (a : BitVec 7) (s : State) : Host.Outcome State Fault Refusal :=
  runScalar (encSextb d a).toWord (unary d a fun x => (x.truncate 8).signExtend 64) s

/-- SEXTH (R97): Sign-extends the low 16 bits of A. -/
def execSexth (d : BitVec 7) (a : BitVec 7) (s : State) : Host.Outcome State Fault Refusal :=
  runScalar (encSexth d a).toWord (unary d a fun x => (x.truncate 16).signExtend 64) s

/-- SEXTW (R97): Sign-extends the low 32 bits of A. -/
def execSextw (d : BitVec 7) (a : BitVec 7) (s : State) : Host.Outcome State Fault Refusal :=
  runScalar (encSextw d a).toWord (unary d a fun x => sext32 x) s

/-- ZEXTB (R97): Zero-extends the low 8 bits of A. -/
def execZextb (d : BitVec 7) (a : BitVec 7) (s : State) : Host.Outcome State Fault Refusal :=
  runScalar (encZextb d a).toWord (unary d a fun x => (x.truncate 8).zeroExtend 64) s

/-- ZEXTH (R97): Zero-extends the low 16 bits of A. -/
def execZexth (d : BitVec 7) (a : BitVec 7) (s : State) : Host.Outcome State Fault Refusal :=
  runScalar (encZexth d a).toWord (unary d a fun x => (x.truncate 16).zeroExtend 64) s

/-- ZEXTW (R97): Zero-extends the low 32 bits of A. -/
def execZextw (d : BitVec 7) (a : BitVec 7) (s : State) : Host.Outcome State Fault Refusal :=
  runScalar (encZextw d a).toWord (unary d a fun x => (x.truncate 32).zeroExtend 64) s

/-- BSWAP (R97): Reverses the eight bytes of A. -/
def execBswap (d : BitVec 7) (a : BitVec 7) (s : State) : Host.Outcome State Fault Refusal :=
  runScalar (encBswap d a).toWord (unary d a fun x => bswap64 x) s

/-- LI (R98): Loads a sign-extended 20-bit immediate. -/
def execLi (d : BitVec 6) (im : BitVec 20) (s : State) : Host.Outcome State Fault Refusal :=
  runScalar (encLi d im).toWord (do writeScalar (d.zeroExtend 7) (im.signExtend 64); pure .next) s

/-- LF (R98): Loads the top 20 bits of an FP32 pattern. -/
def execLf (d : BitVec 6) (im : BitVec 20) (s : State) : Host.Outcome State Fault Refusal :=
  runScalar (encLf d im).toWord (do writeScalar (d.zeroExtend 7) ((im ++ 0#12).zeroExtend 64); pure .next) s

end Sys2Proof.Machine
end

