-- ==== Sys2Proof/Machine/Control.lean ====
section
/-! DEFINITION. Control flow (R105–R109), the return store (R36, R37), gates (R112, R113), SYS (R115–R120, R126) and the
scalar functions of QMOV (R121). -/

namespace Sys2Proof.Machine

/-- The branch condition of a code (R54). -/
def condHolds (c : BitVec 3) (x : Word) : Bool :=
  match c.toNat with
  | 0 => x == 0
  | 1 => x != 0
  | 2 => x.slt 0
  | 3 => !x.slt 0
  | 4 => x.sle 0
  | 5 => !x.sle 0
  | _ => false

/-- Address of the instruction plus 4 times a signed word displacement (R107, R108). -/
def branchTarget {n : Nat} (pc : Word) (im : BitVec n) : Word := pc + 4 * im.signExtend 64

/-- XVAL of the GATE trap that a push would raise, if it would spill a gate frame: none when the push may go on (R36). -/
def pushBlocked (h : Hart) : Option Word :=
  if h.ras.length < 16 then none
  else match h.ras.getLast? with
    | some f => if f.gate then some f.ret else none
    | none => none

/-- The address of spilled frame `n` (R36). -/
def frameAddr (h : Hart) (n : BitVec 32) : Word := h.sys.rasspill + 16 * n.zeroExtend 64

/-- Push a frame: with 16 entries held, the oldest is written to the spill area first (R36, R37). The caller has checked
that the oldest is a plain frame. -/
def pushFrame (f : Frame) : M Unit := do
  let h ← getHart
  if h.ras.length < 16 then modHart fun h => { h with ras := f :: h.ras }
  else do
    wrWords h.trap.priv.toNat (frameAddr h h.sys.rascnt) [(h.ras.getLast?.map Frame.ret).getD 0, 0]
    modHart fun h => { h with ras := f :: h.ras.dropLast, sys := { h.sys with rascnt := h.sys.rascnt + 1 } }

/-- Push a plain frame for a call: GATE when a gate frame would be spilled (R36). -/
def pushCall (ret : Word) : M Unit := do
  match pushBlocked (← getHart) with
  | some v => trap .gate v
  | none => pushFrame ⟨ret, false, 0, 0⟩

/-- The newest frame, in the store or in the spill area, without popping it: RSE when there is none (R36); a refilled
frame that says kind 1 traps GATE (R110). -/
def topFrame : M Frame := do
  let h ← getHart
  match h.ras with
  | f :: _ => pure f
  | [] => do
    if h.sys.rascnt = 0 then trap .rse 0
    let ws ← rdWords h.trap.priv.toNat (frameAddr h (h.sys.rascnt - 1)) 2
    let ret := ws.getD 0 0
    if (ws.getD 1 0).getLsbD 0 then trap .gate ret
    pure ⟨ret, false, 0, 0⟩

/-- Pop the newest frame (R36). -/
def popFrame : M Unit := modHart fun h =>
  match h.ras with
  | _ :: fs => { h with ras := fs }
  | [] => { h with sys := { h.sys with rascnt := h.sys.rascnt - 1 } }

/-- PC, NA and NB set by a serialising instruction, with no annul bits. -/
def placeAt (pc na nb : Word) : M Unit := modFetch fun _ => ⟨pc, na, nb, false, false, false, false, false⟩

/-- The return address of a call: the successor of NB, whose word is fetched first (R52, R108). -/
def callReturn : M Word := do
  let h ← getHart
  succ h.fetch.nb

/-- A program address of a register transfer: ALIGN unless bits 1:0 are zero (R109). -/
def jumpAddr (a : BitVec 7) : M Word := do
  let t ← readScalar a
  trapIf (t.toNat % 4 != 0) .align t
  pure t

/-- Entry of the gate table: target, V, privilege, MASKMODE (R111). -/
structure Gate where
  target : Word
  v : Bool
  priv : BitVec 2
  mm : BitVec 1
deriving DecidableEq, Repr

/-- Read gate n with supervisor permission (R111). -/
def readGate (n : BitVec 10) : M Gate := do
  let h ← getHart
  let ws ← rdWords 2 (h.trap.gatebase + 16 * n.zeroExtend 64) 2
  let f := ws.getD 1 0
  pure ⟨ws.getD 0 0, f.getLsbD 0, f.extractLsb' 1 2, f.extractLsb' 3 1⟩

/-- The saved entries at XVQ: the words of each slot (R47). -/
def readSlots (base : Word) : Nat → Nat → M (List (List Word))
  | 0, _ => pure []
  | n + 1, i => do
    let ws ← rdWords 2 (base + BitVec.ofNat 64 (64 * i)) 8
    let rest ← readSlots base n (i + 1)
    pure (ws :: rest)

/-- The checks of R48 on a saved entry: ILL for a word that is no legal vector-side instruction, PRIV for a privileged one
below the privilege to be restored; XVAL is the position. -/
def checkSlot (ppriv : BitVec 2) (i : Nat) (ws : List Word) : M Unit := do
  let w : BitVec 32 := (ws.getD 0 0).extractLsb' 0 32
  trapIf (!isVectorWord w) .ill (BitVec.ofNat 64 i)
  trapIf (isPrivilegedVectorWord w && ppriv != 2) .priv (BitVec.ofNat 64 i)

/-- Requeue a saved entry (R48). -/
def requeue (ws : List Word) : M Unit := do
  let pc ← freeWord
  modHart fun h => { h with vq := h.vq ++ [Entry.unpack ws pc] }

/-- Restore privilege, interrupt enable, PC, NA, NB and the annul bits from the trap registers (R126). -/
def restoreFetch : M Unit := do
  modTrapRegs fun t => { t with priv := t.ppriv, ie := t.pie }
  modHart fun h =>
    let t := h.trap
    { h with fetch := ⟨t.xpc, t.xna, t.xnb, t.xflags.getLsbD 0, t.xflags.getLsbD 1,
        t.xflags.getLsbD 2 || t.xflags.getLsbD 3, t.xflags.getLsbD 3, false⟩ }
  let _ ← attempt formQueue
  pure ()

/-- An entry of the die's TLB that TLBINV invalidates: the page of an address, the entries with G = 0, or every one
(R119). -/
def tlbDropped (mode : Nat) (va : Nat) (t : Tlb) : Bool :=
  match mode with
  | 0 => t.page == pageOf t.big va
  | 1 => !t.leaf.getLsbD 5
  | _ => true

/-- A queue register by number. -/
def queueAt (h : Hart) (n : BitVec 7) : List Word := sparseGet [] h.queues n.toNat
def setQueue (n : BitVec 7) (xs : List Word) : M Unit := modHart fun h => { h with queues := sparsePut [] h.queues n.toNat xs }

/-- BR (R107): Conditional branch with two delay slots and optional annul. -/
def execBr (a : BitVec 7) (c : BitVec 3) (n : BitVec 1) (im : BitVec 15) (s : State) : Host.Outcome State Fault Refusal :=
  runScalar (encBr a c n im).toWord (do
    let x ← readScalar a
    let h ← getHart
    if condHolds c x then pure (.taken (branchTarget h.fetch.pc im))
    else if n = 1 then pure .annul
    else pure .next) s

/-- JMP (R108): Unconditional jump with two delay slots. -/
def execJmp (im : BitVec 26) (s : State) : Host.Outcome State Fault Refusal :=
  runScalar (encJmp im).toWord (do
    let h ← getHart
    pure (.taken (branchTarget h.fetch.pc im))) s

/-- CALL (R108): Pushes a plain frame and jumps. -/
def execCall (im : BitVec 26) (s : State) : Host.Outcome State Fault Refusal :=
  runScalar (encCall im).toWord (do
    let h ← getHart
    let r ← callReturn
    pushCall r
    pure (.taken (branchTarget h.fetch.pc im))) s

/-- JR (R109): Jumps to a register target. -/
def execJr (a : BitVec 7) (s : State) : Host.Outcome State Fault Refusal :=
  runScalar (encJr a).toWord (do
    let t ← jumpAddr a
    pure (.taken t)) s

/-- CALLR (R109): Pushes a plain frame and jumps to a register target. -/
def execCallr (a : BitVec 7) (s : State) : Host.Outcome State Fault Refusal :=
  runScalar (encCallr a).toWord (do
    let t ← jumpAddr a
    let r ← callReturn
    pushCall r
    pure (.taken t)) s

/-- RET (R109): Pops a plain frame and returns. -/
def execRet (s : State) : Host.Outcome State Fault Refusal :=
  runScalar (encRet).toWord (do
    let f ← topFrame
    trapIf f.gate .gate f.ret
    trapIf (f.ret.toNat % 4 != 0) .align f.ret
    popFrame
    pure (.taken f.ret)) s

/-- GCALL (R112): Enters a gate, pushing a gate frame and raising privilege. -/
def execGcall (n : BitVec 10) (s : State) : Host.Outcome State Fault Refusal :=
  runScalar (encGcall n).toWord (do
    let h ← getHart
    let x : Word := n.zeroExtend 64
    trapIf (h.trap.gatecnt.toNat ≤ n.toNat) .gate x
    let g ← readGate n
    trapIf (!g.v || g.priv == 3 || g.priv < h.trap.priv || g.target.toNat % 4 != 0) .gate x
    trapIf (pushBlocked h).isSome .gate x
    let na ← succAt g.priv.toNat g.target
    let nb ← succAt g.priv.toNat na
    pushFrame ⟨h.fetch.na, true, h.trap.priv, h.cfg.maskmode⟩
    modTrapRegs fun t => { t with priv := g.priv }
    modCfg fun c => { c with maskmode := g.mm }
    placeAt g.target na nb
    pure .placed) s

/-- GRET (R113): Pops a gate frame and restores privilege and MASKMODE. -/
def execGret (s : State) : Host.Outcome State Fault Refusal :=
  runScalar (encGret).toWord (do
    let h ← getHart
    let f ← topFrame
    trapIf (!f.gate) .gate f.ret
    trapIf (h.trap.priv < f.oldPriv) .gate f.ret
    let na ← succAt f.oldPriv.toNat f.ret
    let nb ← succAt f.oldPriv.toNat na
    popFrame
    modTrapRegs fun t => { t with priv := f.oldPriv }
    modCfg fun c => { c with maskmode := f.oldMm }
    placeAt f.ret na nb
    pure .placed) s

/-- TRAP (R116): Completes and enters the handler with cause TRAP. -/
def execTrap (c : BitVec 7) (s : State) : Host.Outcome State Fault Refusal :=
  runScalar (encTrap c).toWord (do
    advance .next
    trapEntry false .trap (c.zeroExtend 64)
    pure .placed) s

/-- ERET (R126): Requeues saved vector entries and resumes the interrupted sequence. -/
def execEret (s : State) : Host.Outcome State Fault Refusal :=
  runScalar (encEret).toWord (do
    needSupervisor
    let h ← getHart
    let count := bitsOf h.trap.xvq.toNat 63 58
    let base : Word := BitVec.ofNat 64 (bitsOf h.trap.xvq.toNat 51 5 * 32)
    let slots ← readSlots base count 0
    forN count fun i => checkSlot h.trap.ppriv i (slots.getD i [])
    if 32 < h.vq.length + count then block
    forN count fun i => requeue (slots.getD i [])
    modTrapRegs fun t => { t with xvq := base }
    restoreFetch
    pure .placed) s

/-- IPEND and IMASK have no common set bit (R120). -/
def noneEnabled (h : Hart) : Bool := h.trap.ipend &&& h.trap.imask == 0

/-- WAITI (R120): Waits until an enabled interrupt is pending. -/
def execWaiti (s : State) : Host.Outcome State Fault Refusal :=
  if s.hart.trap.priv = 2 && noneEnabled s.hart then
    .next { s with parked := true, hart := { s.hart with fetch := { s.hart.fetch with waiting := true } } }
  else runScalar (encWaiti).toWord (do
    needSupervisor
    pure .next) s

/-- A WAITI that waits completes once IPEND and IMASK have a common set bit (R120). -/
def endWaiti : M Unit := do
  let h ← getHart
  if !h.fetch.waiting || noneEnabled h then block
  advance .next

/-- HALT (R120): Drains the vector queue and stops the hart. -/
def execHalt (s : State) : Host.Outcome State Fault Refusal :=
  runScalar (encHalt).toWord (do
    needSupervisor
    modHart fun h => { h with phase := if h.vq.isEmpty then .halted else .halting }
    pure .next) s

/-- FENCE (R117): Holds dispatch until the named kinds of access are performed at the scope. -/
def execFence (sf : BitVec 3) (k : BitVec 4) (s : State) : Host.Outcome State Fault Refusal :=
  runScalar (encFence sf k).toWord (do
    let s ← get
    if (k &&& 0xE) != 0 && (!s.hart.vq.isEmpty || accessesPending s) then block else pure .next) s

/-- WIN (R118): Moves SWB and VWB together. -/
def execWin (a : BitVec 7) (b : BitVec 7) (s : State) : Host.Outcome State Fault Refusal :=
  runScalar (encWin a b).toWord (do
    let x ← readScalar a
    let y ← readScalar b
    modSys fun r => { r with swb := x.extractLsb' 3 5 ++ 0#3 }
    modCfg fun c => { c with vwb := y.extractLsb' 3 4 ++ 0#3 }
    pure .next) s

/-- TLBINV (R119): Invalidates TLB entries across the die. -/
def execTlbinv (a : BitVec 7) (b : BitVec 7) (s : State) : Host.Outcome State Fault Refusal :=
  runScalar (encTlbinv a b).toWord (do
    needSupervisor
    let x ← readScalar a
    let y ← readScalar b
    if 2 < y.toNat then trapWord .ill
    let s ← get
    modDie (dieOf s.id) fun k => { k with tlb := k.tlb.filter fun t => !tlbDropped y.toNat x.toNat t }
    pure .next) s

/-- QSEND (R121): Appends a scalar to q0-q3, blocking while full. -/
def execQsend (d : BitVec 7) (a : BitVec 7) (s : State) : Host.Outcome State Fault Refusal :=
  runScalar (encQsend d a).toWord (do
    let x ← readScalar a
    let q := queueAt (← getHart) d
    if 8 ≤ q.length then block
    setQueue d (q ++ [x])
    pure .next) s

/-- QRECV (R121): Removes the oldest entry of q4-q7, blocking while empty. -/
def execQrecv (d : BitVec 7) (a : BitVec 7) (s : State) : Host.Outcome State Fault Refusal :=
  runScalar (encQrecv d a).toWord (do
    checkScalar d
    match queueAt (← getHart) a with
    | [] => block
    | x :: q => do
      setQueue a q
      writeScalar d x
      pure .next) s

/-- QSTAT (R121): Reads the number of entries in a queue register. -/
def execQstat (d : BitVec 7) (a : BitVec 7) (s : State) : Host.Outcome State Fault Refusal :=
  runScalar (encQstat d a).toWord (do
    checkScalar d
    writeScalar d (BitVec.ofNat 64 (queueAt (← getHart) a).length)
    pure .next) s

end Sys2Proof.Machine
end

