-- ==== Sys2Proof/Machine/Keyed.lean ====
section
/-! DEFINITION. Keyed regions (R203–R210, R255–R261): the KEY family. -/

namespace Sys2Proof.Machine

/-- KEYF with a reason (R210, R256). -/
def keyf {α : Type} (h : BitVec 2) (reason : Nat) : M α := trap .keyf (BitVec.ofNat 64 (h.toNat + 16 * reason))

/-- Replace the region of a handle of the hart's core. -/
def putKeyed (h : BitVec 2) (r : Option Keyed) : M Unit := do
  let s ← get
  modCore (coreOf s.id) fun k => { k with keyed := sparsePut none k.keyed h.toNat r }

/-- The region of a handle; a failed one reads as unclaimed (R256). -/
def keyedOf (h : BitVec 2) : M Keyed := do
  match sparseGet none (← get).myCore.keyed h.toNat with
  | some r => if r.failed then keyf h 0 else pure r
  | none => keyf h 0

/-- The checks of R256 in their order: claimed, key type, sealed state where the instruction asks for one. -/
def checkKeyed (c : VConf) (h : BitVec 2) (wantSealed : Option Bool) : M Keyed := do
  let r ← keyedOf h
  if r.keyType.toNat != ktOf c.et then keyf h 3
  match wantSealed with
  | some true => if r.sealed then pure r else keyf h 2
  | some false => if r.sealed then keyf h 1 else pure r
  | none => pure r

/-- The canonical pattern of a key (R205). -/
def canonKey (kt : BitVec 2) (x : Nat) : Nat :=
  if kt = 2 then if fp32.isNan x then 0x7FC00000 else if x % 2 ^ 31 = 0 then 0 else x else x

/-- h1 and h2 of R205. -/
def hash1 (b k : Nat) : Nat := k * 0x9E3779B1 % 2 ^ 32 / 2 ^ (32 - b)
def hash2 (b k : Nat) : Nat := k * 0x85EBCA77 % 2 ^ 32 / 2 ^ (35 - b)

/-- Number of buckets, primary and secondary (R203). -/
def bucketCount (r : Keyed) : Nat := 2 ^ r.bits + 2 ^ (r.bits - 3)

/-- Offset of a bucket; the secondary buckets follow the primary ones (R203). -/
def bucketAt (r : Keyed) (i : Nat) : Nat := r.base + 33 * i

/-- An access of bytes of the core's own scratchpad by a keyed operation: MCE on a fenced core (R212), and the interlock table (R199). -/
def needOwn (off n : Nat) (write : Bool) : M Unit := do
  let s ← get
  trapIf s.myCore.fenced .mce (BitVec.ofNat 64 (2 ^ 23 + off))
  stallOn true (coreOf s.id * 2 ^ 21 + off) n write

/-- Mark the region at a base failed (R212). -/
def failAt (base : Nat) (k : Core) : Core := { k with
  keyed := k.keyed.map fun p => (p.1, p.2.map fun r => if r.base = base then { r with failed := true } else r) }

/-- An uncorrectable error in buckets of a region raises MCE and marks its handle failed (R212). -/
def soundSpan (r : Keyed) (off n : Nat) : M Unit := do
  let c := coreOf (← get).id
  match ← attempt (spPoisonCheck c off n (BitVec.ofNat 64 (2 ^ 23 + off))) with
  | .ok _ => pure ()
  | .error st => do modCore c (failAt r.base); throw st

/-- The metadata byte of a bucket (R204), after the checks of a read of the bucket. -/
def bucketMeta (r : Keyed) (i : Nat) : M Nat := do
  let at' := bucketAt r i
  needOwn at' 33 false
  soundSpan r at' 33
  let s ← get
  pure (s.spNat (coreOf s.id) (at' + 32) 1)

/-- Write `n` bytes at an offset of the core's own scratchpad. -/
def putOwn (off n x : Nat) : M Unit := do
  needOwn off n true
  modify fun s => s.putSp (coreOf s.id) off n x

/-- Key and value of a slot (R203). -/
def slotKey (s : State) (r : Keyed) (i k : Nat) : Nat := s.spNat (coreOf s.id) (bucketAt r i + 8 * k) 4
def slotValue (s : State) (r : Keyed) (i k : Nat) : Nat := s.spNat (coreOf s.id) (bucketAt r i + 8 * k + 4) 4

/-- The slot of a bucket that holds a key. -/
def findSlot (r : Keyed) (i k : Nat) : M (Option Nat) := do
  let m ← bucketMeta r i
  let s ← get
  pure (findFrom 4 0 fun n => bitOf m n && slotKey s r i n == k)

/-- The search of R206 step 1: the primary bucket, and the secondary one when the overflow bit is set. -/
def findKeyed (r : Keyed) (k : Nat) : M (Option (Nat × Nat)) := do
  let p := hash1 r.bits k
  match ← findSlot r p k with
  | some n => pure (some (p, n))
  | none => do
    if bitOf (← bucketMeta r p) 4 then
      let q := 2 ^ r.bits + hash2 r.bits k
      match ← findSlot r q k with
      | some n => pure (some (q, n))
      | none => pure none
    else pure none

/-- Store in the lowest free slot of a bucket, if it has one. -/
def storeFree (r : Keyed) (i k v : Nat) : M Bool := do
  let m ← bucketMeta r i
  match findFrom 4 0 fun n => !bitOf m n with
  | none => pure false
  | some n => do
    putOwn (bucketAt r i + 8 * n) 4 k
    putOwn (bucketAt r i + 8 * n + 4) 4 v
    putOwn (bucketAt r i + 32) 1 (m + 2 ^ n)
    pure true

/-- Set a bit of a bucket's metadata byte. -/
def setMeta (r : Keyed) (i bit : Nat) : M Unit := do
  let m ← bucketMeta r i
  putOwn (bucketAt r i + 32) 1 (if bitOf m bit then m else m + 2 ^ bit)

/-- Insertion of an absent key (R206 steps 2–5): the status. The overflow bit is set when the secondary bucket takes the key, not when
that bucket is full too: DESIGN CHOICE, log 83. -/
def insertKeyed (h : BitVec 2) (r : Keyed) (k v : Nat) : M Nat := do
  let p := hash1 r.bits k
  if ← storeFree r p k v then pure 0
  else if ← storeFree r (2 ^ r.bits + hash2 r.bits k) k v then do
    setMeta r p 4
    pure 0
  else do
    let r' ← keyedOf h
    if r'.spillCount = r'.spillCap then pure 3
    else do
      vwrite .other (r'.spillBase + 8 * r'.spillCount.zeroExtend 64) 8 (k + 2 ^ 32 * v)
      putKeyed h (some { r' with spillCount := r'.spillCount + 1 })
      setMeta r p 5
      pure 2

/-- Put a lane into the group of its key; a new key opens a group at the end, so groups stand by their lowest lane (R259). -/
def addLane (k j : Nat) : List (Nat × List Nat) → List (Nat × List Nat)
  | [] => [(k, [j])]
  | (x, js) :: gs => if x = k then (x, js ++ [j]) :: gs else (x, js) :: addLane k j gs

/-- One combining step of KACC (R208). -/
def combine (o : BitVec 3) (x y : Nat) : Rounded :=
  match o.toNat with
  | 1 => fp32.sum 0 x y
  | 2 => (if sextNat 32 x < sextNat 32 y then y else x, 0)
  | 3 => (if sextNat 32 y < sextNat 32 x then y else x, 0)
  | 4 => fp32.pick true x y
  | 5 => fp32.pick false x y
  | _ => ((x + y) % 2 ^ 32, 0)

/-- Combine a group's values in ascending order (R209). -/
def combineAll (o : BitVec 3) : List Nat → Rounded
  | [] => (0, 0)
  | x :: xs => xs.foldl (fun acc y => let (r, fl) := combine o acc.1 y; (r, acc.2 ||| fl)) (x, 0)

/-- The keyed operations on groups. -/
inductive KeyOp where
  | ins | prb | del
  | acc (o : BitVec 3)
deriving DecidableEq, Repr

/-- The operation on one group (R259): status and value of each lane. A group whose lanes are all `quiet` sets no flag (R19). -/
def groupOp (op : KeyOp) (h : BitVec 2) (r : Keyed) (value : Nat → Nat) (quiet : Nat → Bool) (k : Nat) (js : List Nat) :
    M (List (Nat × Nat × Nat)) := do
  let found ← findKeyed r k
  let first := fun (st : Nat) => js.mapIdx fun i j => (j, (if i = 0 then st else 1), 0)
  match op with
  | .ins => do
    match found with
    | some _ => pure (first 1)
    | none => pure (first (← insertKeyed h r k (value (js.headD 0))))
  | .prb => do
    match found with
    | some (i, n) => do
      let v := slotValue (← get) r i n
      pure (js.map fun j => (j, 0, v))
    | none => do
      let st := if bitOf (← bucketMeta r (hash1 r.bits k)) 5 then 2 else 1
      pure (js.map fun j => (j, st, 0))
  | .del => do
    match found with
    | some (i, n) => do
      let m ← bucketMeta r i
      putOwn (bucketAt r i + 32) 1 (m - 2 ^ n)
      pure (first 0)
    | none => pure (first 1)
  | .acc o => do
    let (x, fl) := combineAll o (js.map fun j => if o = 6 then 1 else value j)
    match found with
    | some (i, n) => do
      let (y, fl') := combine o (slotValue (← get) r i n) x
      putOwn (bucketAt r i + 8 * n + 4) 4 y
      if !js.all quiet then setFlags (fl ||| fl')
      pure (js.map fun j => (j, 1, 0))
    | none => do
      let st ← insertKeyed h r k x
      if st != 3 && !js.all quiet then setFlags fl
      pure (js.map fun j => (j, st, 0))

/-- The operations of every group, in order. -/
def groupsOp (op : KeyOp) (h : BitVec 2) (r : Keyed) (value : Nat → Nat) (quiet : Nat → Bool) : List (Nat × List Nat) →
    M (List (Nat × Nat × Nat))
  | [] => pure []
  | (k, js) :: gs => do
    let xs ← groupOp op h r value quiet k js
    let ys ← groupsOp op h r value quiet gs
    pure (xs ++ ys)

/-- Applied whole or refused whole (R259); of an operation that stops, only the failing of a handle stays (R212). -/
def keyWhole (h : BitVec 2) (m : M Unit) : M Unit := do
  let s ← get
  match ← attempt m with
  | .ok _ => pure ()
  | .error st => do
    let after := sparseGet none (← get).myCore.keyed h.toNat
    set s
    match sparseGet none s.myCore.keyed h.toNat with
    | some r => if after.any fun x => x.failed then putKeyed h (some { r with failed := true })
    | none => pure ()
    throw st

/-- KINS, KPRB, KDEL and KACC (R259): ESTART is taken as 0. -/
def keyedAccess (op : KeyOp) (d a : BitVec 7) (h : BitVec 2) (m : BitVec 1) (e : Entry) : M Unit := do
  setProgress 0
  let c := e.cfg.from0
  maskVl c m
  let values := op == .ins || (match op with | .acc o => o != 6 | _ => false)
  let extra := (if values then [Opnd.srcAt c a 1] else []) ++
    (if op == .prb then [Opnd.dstAt c d 1] else [])
  vrun c ([Opnd.src c a, Opnd.dst c d] ++ extra) (do
    let r ← checkKeyed c h (if op == .prb then none else some false)
    let srcs := a :: if values then [c.tileName a 1] else []
    let (v, act) ← sources c m srcs
    let lanes := (List.range c.count).filter act
    let groups := lanes.foldl (fun g j => addLane (canonKey r.keyType (v.el c a j)) j g) []
    let value := fun j => tileElem v c.vwb.toNat (a.toNat + c.rcN) (j / c.vlN) (j % c.vlN) 32
    keyWhole h (do
      let res ← groupsOp op h r value (anyPadded v c srcs) groups
      let look := fun j => res.find? fun p => p.1 == j
      putTileW c d.toNat 32 fun j => pure ((look j).map fun p => p.2.1)
      if op == .prb then putTileW c (d.toNat + c.rcN) 32 fun j => pure ((look j).map fun p => p.2.2)))

/-- The on-chip entries of a region, in bucket and slot order. -/
def onChip (s : State) (r : Keyed) : List (Nat × Nat) :=
  (List.range (bucketCount r)).flatMap fun i =>
    let m := s.spNat (coreOf s.id) (bucketAt r i + 32) 1
    ((List.range 4).filter (bitOf m)).map fun n => (slotKey s r i n, slotValue s r i n)

/-- The entries above the drain cursor in ascending key order (R210). -/
def remaining (s : State) (r : Keyed) : List (Nat × Nat) :=
  let above := (onChip s r).filter fun p => match r.cursor with
    | none => true
    | some k => keyOrder r.keyType.toNat k.toNat < keyOrder r.keyType.toNat p.1
  sortKeys (fun x y => keyOrder r.keyType.toNat x < keyOrder r.keyType.toNat y) above

/-- The checks of a read of all buckets of a region. -/
def soundBuckets (r : Keyed) : M Unit := do
  needOwn (bucketAt r 0) (33 * bucketCount r) false
  soundSpan r (bucketAt r 0) (33 * bucketCount r)

/-- Zero the metadata byte of every bucket. -/
def zeroMeta (r : Keyed) : M Unit := do
  needOwn r.base (33 * bucketCount r) true
  forN (bucketCount r) fun i => putOwn (bucketAt r i + 32) 1 0

/-- The highest free range of a size in the scratchpad region: a range ends at the region's end or where a claimed area
begins (R257). -/
def freeRange (k : Core) (size : Nat) : Option Nat :=
  let tops := spSize k :: k.keyed.filterMap fun p => p.2.map Keyed.base
  let fits := fun top => size ≤ top && k.keyed.all fun p => match p.2 with
    | some r => top ≤ r.base || r.base + keyedSize r.bits ≤ top - size
    | none => true
  ((tops.filter fits).map (· - size)).max?

/-- A claim word or a spill base is malformed (R257). -/
def claimBad (w base : Nat) : Bool :=
  w % 16 < 8 || 14 < w % 16 || bitsOf w 5 4 == 3 || bitsOf w 31 6 != 0 || base % 8 != 0 || 2 ^ 52 ≤ base ||
  (bitsOf w 63 32 == 0 && base != 0)

/-- KCLAIM (R257): Claims a keyed region and delivers its status and offset. A failed handle reads as unclaimed (R256). -/
def performKclaim (h : BitVec 2) (e : Entry) : M Unit :=
  do
  let w := e.a0.toNat
  if claimBad w e.a1.toNat then keyf h 5
  needRoom
  let s ← get
  let held := sparseGet none s.myCore.keyed h.toNat
  let k := s.myCore
  if held.any fun r => !r.failed then deliver 1
  else match freeRange { k with keyed := sparsePut none k.keyed h.toNat none } (keyedSize (w % 16)) with
    | none => deliver 2
    | some base => do
      let r : Keyed := ⟨w % 16, BitVec.ofNat 2 (w / 16), base, e.a1, 0, BitVec.ofNat 32 (w / 2 ^ 32), false, false, none⟩
      zeroMeta r
      putKeyed h (some r)
      deliver (BitVec.ofNat 64 (base * 2 ^ 32))

/-- KCLAIM: dispatch (R416) and execution. -/
def execKclaim (a : BitVec 7) (h : BitVec 2) (s : State) : Host.Outcome State Fault Refusal :=
  dispatchV (encKclaim a h).toWord 0 { afterVrel := true, a := .pair a } (performKclaim h) s

/-- KFREE (R258): Releases a keyed region and its handle. -/
def performKfree (h : BitVec 2) (_ : Entry) : M Unit :=
  do
  let _ ← keyedOf h
  putKeyed h none

/-- KFREE: dispatch (R416) and execution. -/
def execKfree (h : BitVec 2) (s : State) : Host.Outcome State Fault Refusal :=
  dispatchV (encKfree h).toWord 0 { afterVrel := true } (performKfree h) s

/-- KINS (R259): Inserts keys into a keyed region. -/
def performKins (d : BitVec 7) (a : BitVec 7) (h : BitVec 2) (m : BitVec 1) (e : Entry) : M Unit :=
  keyedAccess .ins d a h m e

/-- KINS: dispatch (R416) and execution. -/
def execKins (d : BitVec 7) (a : BitVec 7) (h : BitVec 2) (m : BitVec 1) (s : State) : Host.Outcome State Fault Refusal :=
  dispatchV (encKins d a h m).toWord 0 { whole := true, etypes := fun t => t == 3 || t == 4 || t == 5 } (performKins d a h m) s

/-- KPRB (R259): Probes keys on chip. -/
def performKprb (d : BitVec 7) (a : BitVec 7) (h : BitVec 2) (m : BitVec 1) (e : Entry) : M Unit :=
  keyedAccess .prb d a h m e

/-- KPRB: dispatch (R416) and execution. -/
def execKprb (d : BitVec 7) (a : BitVec 7) (h : BitVec 2) (m : BitVec 1) (s : State) : Host.Outcome State Fault Refusal :=
  dispatchV (encKprb d a h m).toWord 0 { whole := true, etypes := fun t => t == 3 || t == 4 || t == 5 } (performKprb d a h m) s

/-- KDEL (R259): Clears occupancy of on-chip matches. -/
def performKdel (d : BitVec 7) (a : BitVec 7) (h : BitVec 2) (m : BitVec 1) (e : Entry) : M Unit :=
  keyedAccess .del d a h m e

/-- KDEL: dispatch (R416) and execution. -/
def execKdel (d : BitVec 7) (a : BitVec 7) (h : BitVec 2) (m : BitVec 1) (s : State) : Host.Outcome State Fault Refusal :=
  dispatchV (encKdel d a h m).toWord 0 { whole := true, etypes := fun t => t == 3 || t == 4 || t == 5 } (performKdel d a h m) s

/-- KACC (R259): Combines equal keys and accumulates into buckets. -/
def performKacc (d : BitVec 7) (a : BitVec 7) (o : BitVec 3) (h : BitVec 2) (m : BitVec 1) (e : Entry) : M Unit :=
  keyedAccess (.acc o) d a h m e

/-- KACC: dispatch (R416) and execution. -/
def execKacc (d : BitVec 7) (a : BitVec 7) (o : BitVec 3) (h : BitVec 2) (m : BitVec 1) (s : State) : Host.Outcome State Fault Refusal :=
  dispatchV (encKacc d a o h m).toWord 0 { whole := true, etypes := fun t => t == 3 || t == 4 || t == 5 } (performKacc d a o h m) s

/-- KDRN (R260): Drains sealed entries in key order as a run. -/
def performKdrn (d : BitVec 7) (h : BitVec 2) (e : Entry) : M Unit :=
  do
  let c := e.cfg
  trapIf (c.rcN != 1) .matf (BitVec.ofNat 64 c.rcN)
  vrun c [Opnd.dst c d, Opnd.dstAt c d 1] (do
    let r ← checkKeyed c h (some true)
    needRoom
    keyWhole h (do
      soundBuckets r
      let xs := (remaining (← get) r).take c.vlN
      match xs.getLast? with
      | none => pure ()
      | some (k, _) => do
        setRun c d.toNat 0 1 (d.toNat + 1) (xs.map Prod.fst) (xs.map Prod.snd) false 1
        putKeyed h (some { r with cursor := some (BitVec.ofNat 32 k) })
      deliver (BitVec.ofNat 64 xs.length)))

/-- KDRN: dispatch (R416) and execution. -/
def execKdrn (d : BitVec 7) (h : BitVec 2) (s : State) : Host.Outcome State Fault Refusal :=
  dispatchV (encKdrn d h).toWord 0 { etypes := fun t => t == 3 || t == 4 || t == 5 } (performKdrn d h) s

/-- KSTAT (R261): Delivers two status words of a keyed region. A failed handle reads as unclaimed (R256, log 87). It counts
the entries of the buckets, so a fenced core raises MCE (R212); an error mark in a bucket's metadata is no use of the entry: it raises nothing
and fails no handle (DEDUCED, log 118). -/
def performKstat (h : BitVec 2) (e : Entry) : M Unit :=
  do
  let s ← get
  match sparseGet none s.myCore.keyed h.toNat with
  | none => deliverAll e.cfg.est [0, 0]
  | some r => do
    trapIf s.myCore.fenced .mce (BitVec.ofNat 64 (2 ^ 23 + r.base))
    let done := r.sealed && (remaining s r).isEmpty
    deliverAll e.cfg.est [BitVec.ofNat 64 ((!r.failed).toNat + 2 * r.sealed.toNat + 4 * r.failed.toNat + 16 * r.keyType.toNat +
      2 ^ 8 * r.bits + 2 ^ 12 * done.toNat), BitVec.ofNat 64 ((onChip s r).length + 2 ^ 32 * r.spillCount.toNat)]

/-- KSTAT: dispatch (R416) and execution. -/
def execKstat (h : BitVec 2) (s : State) : Host.Outcome State Fault Refusal :=
  dispatchV (encKstat h).toWord 0 { afterVrel := true } (performKstat h) s

/-- KSEAL (R261): Seals a region after accepted operations apply. -/
def performKseal (h : BitVec 2) (_ : Entry) : M Unit :=
  do
  let r ← keyedOf h
  putKeyed h (some { r with sealed := true })

/-- KSEAL: dispatch (R416) and execution. -/
def execKseal (h : BitVec 2) (s : State) : Host.Outcome State Fault Refusal :=
  dispatchV (encKseal h).toWord 0 { afterVrel := true } (performKseal h) s

/-- KCLEAR (R258): Empties a region keeping the claim. -/
def performKclear (h : BitVec 2) (_ : Entry) : M Unit :=
  do
  let r ← keyedOf h
  zeroMeta r
  putKeyed h (some { r with spillCount := 0, cursor := none, sealed := false })

/-- KCLEAR: dispatch (R416) and execution. -/
def execKclear (h : BitVec 2) (s : State) : Host.Outcome State Fault Refusal :=
  dispatchV (encKclear h).toWord 0 { afterVrel := true } (performKclear h) s

end Sys2Proof.Machine
end

