-- ==== Sys2Proof/Machine/Quad.lean ====
section
/-! DEFINITION. The quad (R262–R274): semaphores, data words, QATOM and barriers of every scope (R211, R271, R312, R357,
R377): the QUAD family, and the messages that reach a core or package 0. -/

namespace Sys2Proof.Machine

/-! ## Semaphores (R265–R268) -/

/-- MCE where the quad's semaphores are fenced (R265). -/
def needSems (n : BitVec 5) : M Unit := do trapIf (← get).myQuad.semFenced .mce (n.zeroExtend 64)

/-- Semaphore n of the quad. -/
def semOf (s : State) (n : BitVec 5) : Sem := sparseGet Sem.free s.myQuad.sems n.toNat
def putSem (n : BitVec 5) (x : Sem) : M Unit := do
  let s ← get
  modQuad (quadOf s.id) fun q => { q with sems := sparsePut Sem.free q.sems n.toNat x }

/-- A hart's blocked SEMTS has been handed its semaphore: the entry retires. -/
def retireOf (n : Nat) : M Unit := modify fun s =>
  let h := s.hartAt n
  s.setHartAt n { h with vq := h.vq.tail, cfg := { h.cfg with estart := 0 } }

/-! ## Barriers (R271–R273) -/

/-- The instance that a scope names for the hart in focus: its core, quad, die or package, or the pod. -/
def instanceOf (s : State) (sf : BitVec 3) : Nat :=
  match sf.toNat with
  | 1 => coreOf s.id
  | 2 => quadOf s.id
  | 3 => dieOf s.id
  | 4 => pkgOf s.id
  | _ => 0

/-- Barrier n of an instance. -/
def barrierAt (s : State) (sf : BitVec 3) (inst n : Nat) : Barrier :=
  sparseGet Barrier.zero (match sf.toNat with
    | 1 => (s.core inst).barriers
    | 2 => (s.quad inst).barriers
    | 3 => (s.die inst).barriers
    | 4 => (s.pkg inst).barriers
    | _ => s.podBarriers) n

/-- Replace barrier n of an instance. -/
def putBarrier (sf : BitVec 3) (inst n : Nat) (b : Barrier) (s : State) : State :=
  let put := fun (m : Sparse Barrier) => sparsePut Barrier.zero m n b
  match sf.toNat with
  | 1 => s.setCore inst { s.core inst with barriers := put (s.core inst).barriers }
  | 2 => s.setQuad inst { s.quad inst with barriers := put (s.quad inst).barriers }
  | 3 => s.setDie inst { s.die inst with barriers := put (s.die inst).barriers }
  | 4 => s.setPkg inst { s.pkg inst with barriers := put (s.pkg inst).barriers }
  | _ => { s with podBarriers := put s.podBarriers }

/-- The b field of a barrier instruction (R266). -/
def barField (sf : BitVec 3) (n : BitVec 4) : Word := BitVec.ofNat 64 (16 * sf.toNat + n.toNat)

/-- STRF of a barrier instruction (R272). -/
def barStrf {α : Type} (sf : BitVec 3) (n : BitVec 4) : M α := strf (16 * sf.toNat + n.toNat) 6

/-- MCE at a pod barrier where package 0 is not reachable (R377), or does not answer the message (R395). -/
def needPod (sf : BitVec 3) (n : BitVec 4) : M Unit := do
  let s ← get
  if sf.toNat == 5 && pkgOf s.id != 0 then do
    needAnswer 0 (barField sf n)
    trapIf (!s.myPkg.podmap.getLsbD 0) .mce (barField sf n)

/-- A core or quad barrier has a number below 8 (R211, R266). -/
def barNumber (sf : BitVec 3) (n : BitVec 4) (_ : Entry) : M Unit :=
  if sf.toNat ≤ 2 && 8 ≤ n.toNat then trapWord .ill else pure ()

/-- An arrival of a count at a barrier: the phase completes when COUNT reaches TARGET (R272). -/
def Barrier.arrive (b : Barrier) (count : Nat) : Barrier :=
  let sum := b.count.toNat + count
  if b.target.toNat ≤ sum then { b with count := BitVec.ofNat 32 (sum - b.target.toNat), gen := b.gen + 1 }
  else { b with count := BitVec.ofNat 32 sum }

/-- A token is of a barrier. -/
def Token.names (t : Token) (sf : BitVec 3) (n : BitVec 4) (inst : Nat) : Bool :=
  t.scope == sf && t.number == n && t.inst == inst

/-- BARA and BARV (R272): release, count, and record the token. -/
def arriveAt (sf : BitVec 3) (n : BitVec 4) (count : Nat) : M Unit := do
  needPod sf n
  let s ← get
  let inst := instanceOf s sf
  let b := barrierAt s sf inst n.toNat
  let others := s.hart.task.tokens.filter fun t => !t.names sf n inst
  if b.target = 0 || 31 ≤ others.length then barStrf sf n
  release
  modTask fun t => { t with tokens := others ++ [⟨sf, n, inst, b.gen⟩] }
  modify (putBarrier sf inst n.toNat (b.arrive count))

/-! ## QATOM (R270) -/

/-- The element types and operations that go together. -/
def qatomTypes (o : BitVec 3) (et : Nat) : Bool :=
  ((et == 3 || et == 4) && (o != 4)) || (et == 5 && (o == 3 || o == 4))

/-- The new word of an operation on a word. -/
def qatomOp (et : Nat) (o : BitVec 3) (old x : Nat) : Rounded :=
  let lt := fun (p q : Nat) => if et = 3 then decide (sextNat 32 p < sextNat 32 q) else decide (p < q)
  match o.toNat with
  | 0 => ((old + x) % 2 ^ 32, 0)
  | 1 => (if lt x old then x else old, 0)
  | 2 => (if lt old x then x else old, 0)
  | 3 => (x, 0)
  | 4 => fp32.sum 0 old x
  | 5 => (old &&& x, 0)
  | _ => (old ||| x, 0)

/-- Check one address of QATOM as R253 checks an SA address. -/
def qatomCheck (a : Word) : M Unit := do
  trapIf (a.toNat % 4 != 0) .align a
  let (c, off) ← spCheck a 4 true
  stallOn true (c * 2 ^ 21 + off) 4 true
  spPoisonCheck c off 4 a

/-- QUAD_MESSAGE (R262): a message of eight bytes reaches the bank unit of a core of the quad; a fenced core performs
nothing, and one under repartition makes it wait. -/
def execQuadMessage (core : BitVec 2) (off : BitVec 21) (wr : BitVec 1) (data : BitVec 64) (s : State) :
    Host.Outcome State Fault Refusal :=
  runEvent (do
    let s ← get
    let c := quadOf s.id * 4 + core.toNat
    let k := s.core c
    if k.fenced || k.moving.isSome || off.toNat % 8 != 0 || spSize k < off.toNat + 8 || (claimedAt k off.toNat 8).isSome then
      block
    if wr = 1 then modify fun s => s.putSp c off.toNat 8 data.toNat else pure ()) s

/-- POD_BARRIER_MESSAGE (R377): package 0 takes an arrival at a pod barrier, or a wait, as one step. -/
def execPodBarrierMessage (arrive : BitVec 1) (n : BitVec 4) (count : BitVec 32) (s : State) :
    Host.Outcome State Fault Refusal :=
  runEvent (do
    let b := barrierAt (← get) 5 0 n.toNat
    if arrive = 1 && b.target != 0 then modify (putBarrier 5 0 n.toNat (b.arrive count.toNat)) else pure ()) s

/-- SEMTS (R267): Takes a quad semaphore or queues and blocks until handed it. -/
def performSemts (n : BitVec 5) (_ : Entry) : M Unit :=
  do
  needSems n
  let s ← get
  let x := semOf s n
  if !x.bit && x.waiters.isEmpty then putSem n { x with bit := true }
  else do
    if !x.waiters.contains s.id then putSem n { x with waiters := x.waiters ++ [s.id] }
    block

/-- SEMTS: dispatch (R416) and execution. -/
def execSemts (n : BitVec 5) (s : State) : Host.Outcome State Fault Refusal :=
  dispatchV (encSemts n).toWord 0 { afterVrel := true } (performSemts n) s

/-- SEMTRY (R267): Takes a free semaphore or delivers 0. -/
def performSemtry (n : BitVec 5) (_ : Entry) : M Unit :=
  do
  needSems n
  needRoom
  let x := semOf (← get) n
  if !x.bit && x.waiters.isEmpty then do
    putSem n { x with bit := true }
    deliver 1
  else deliver 0

/-- SEMTRY: dispatch (R416) and execution. -/
def execSemtry (n : BitVec 5) (s : State) : Host.Outcome State Fault Refusal :=
  dispatchV (encSemtry n).toWord 0 { afterVrel := true } (performSemtry n) s

/-- SEMCLR (R267): Releases a semaphore, handing it to the oldest waiter. -/
def performSemclr (n : BitVec 5) (_ : Entry) : M Unit :=
  do
  needSems n
  release
  let x := semOf (← get) n
  match x.waiters with
  | w :: ws => do
    putSem n { x with waiters := ws, bit := true }
    retireOf w
  | [] => putSem n { x with bit := false }

/-- SEMCLR: dispatch (R416) and execution. -/
def execSemclr (n : BitVec 5) (s : State) : Host.Outcome State Fault Refusal :=
  dispatchV (encSemclr n).toWord 0 { afterVrel := true } (performSemclr n) s

/-- CRD (R269): Delivers a communication-file data word. -/
def performCrd (n : BitVec 5) (_ : Entry) : M Unit :=
  do
  let s ← get
  trapIf (s.myQuad.badWords.contains n.toNat || s.myQuad.deadWords.contains n.toNat) .mce (n.zeroExtend 64)
  deliver (sparseGet 0 s.myQuad.words n.toNat)

/-- CRD: dispatch (R416) and execution. -/
def execCrd (c : BitVec 1) (n : BitVec 5) (s : State) : Host.Outcome State Fault Refusal :=
  dispatchV (encCrd c n).toWord 0 { afterVrel := true } (performCrd n) s

/-- CWR (R269): Writes a communication-file data word. -/
def performCwr (r : BitVec 1) (n : BitVec 5) (e : Entry) : M Unit :=
  do
  if r = 1 then release
  let s ← get
  modQuad (quadOf s.id) fun q => { q with
    words := sparsePut 0 q.words n.toNat e.a0
    badWords := q.badWords.filter fun w => w != n.toNat }

/-- CWR: dispatch (R416) and execution. -/
def execCwr (r : BitVec 1) (a : BitVec 7) (n : BitVec 5) (s : State) : Host.Outcome State Fault Refusal :=
  dispatchV (encCwr r a n).toWord 0 { afterVrel := true, a := .scalar a } (performCwr r n) s

/-- QATOM (R270): Per-element 32-bit scratchpad atomics returning old values. -/
def performQatom (d : BitVec 7) (a : BitVec 7) (r : BitVec 1) (_c : BitVec 1) (o : BitVec 3) (m : BitVec 1) (e : Entry) : M Unit :=
  do
  let c := e.cfg.from0
  maskVl c m
  vrun c [Opnd.src c a, Opnd.srcAt c a 1, Opnd.dst c d] (do
    let (v, act) ← sources c m [a, c.tileName a 1]
    let addr := fun j => BitVec.ofNat 64 (v.el c a j)
    forN c.count fun j => if act j then qatomCheck (addr j) else pure ()
    if r = 1 then release
    forN c.count fun j =>
      if act j then do
        let s ← get
        let (k, off) := spTarget s (v.el c a j)
        let old := s.spNat k off 4
        let x := tileElem v c.vwb.toNat (a.toNat + c.rcN) (j / c.vlN) (j % c.vlN) 32
        let (new, fl) := qatomOp c.et o old x
        if !anyPadded v c [a, c.tileName a 1] j then setFlags fl
        modify fun s => s.putSp k off 4 new
        wrW c d.toNat 32 j old
      else maskedW c d.toNat 32 j)

/-- QATOM: dispatch (R416) and execution. -/
def execQatom (d : BitVec 7) (a : BitVec 7) (r : BitVec 1) (c : BitVec 1) (o : BitVec 3) (m : BitVec 1) (s : State) : Host.Outcome State Fault Refusal :=
  dispatchV (encQatom d a r c o m).toWord 0 { etypes := qatomTypes o } (performQatom d a r c o m) s

/-- BARV (R272): Arrives at a barrier with a predicate popcount. -/
def performBarv (a : BitVec 7) (sf : BitVec 3) (n : BitVec 4) (e : Entry) : M Unit :=
  do
  needPredVl e.cfg
  let p ← readPred a.toNat
  arriveAt sf n (popBelow p e.cfg.vlN)

/-- BARV: dispatch (R416) and execution. -/
def execBarv (a : BitVec 7) (sf : BitVec 3) (n : BitVec 4) (s : State) : Host.Outcome State Fault Refusal :=
  dispatchV (encBarv a sf n).toWord 0 { check := barNumber sf n } (performBarv a sf n) s

/-- BARW (R272): Waits for the barrier's generation to change, then acquires. -/
def performBarw (sf : BitVec 3) (n : BitVec 4) (_ : Entry) : M Unit :=
  do
  needPod sf n
  let s ← get
  let inst := instanceOf s sf
  match s.hart.task.tokens.find? fun t => t.names sf n inst with
  | none => barStrf sf n
  | some t =>
    if (barrierAt s sf inst n.toNat).gen = t.gen then block
    else modTask fun k => { k with tokens := k.tokens.filter fun t => !t.names sf n inst }

/-- BARW: dispatch (R416) and execution. -/
def execBarw (sf : BitVec 3) (n : BitVec 4) (s : State) : Host.Outcome State Fault Refusal :=
  dispatchV (encBarw sf n).toWord 0 { afterVrel := true, check := barNumber sf n } (performBarw sf n) s

/-- BARA (R272): Releases and arrives at a barrier with a count. -/
def performBara (sf : BitVec 3) (n : BitVec 4) (e : Entry) : M Unit :=
  arriveAt sf n (e.a0.toNat % 2 ^ 32)

/-- BARA: dispatch (R416) and execution. -/
def execBara (a : BitVec 7) (sf : BitVec 3) (n : BitVec 4) (s : State) : Host.Outcome State Fault Refusal :=
  dispatchV (encBara a sf n).toWord 0 { afterVrel := true, a := .scalar a, check := barNumber sf n } (performBara sf n) s

/-- BARA_INIT (R272): Sets a barrier's TARGET and clears COUNT. -/
def performBaraInit (sf : BitVec 3) (n : BitVec 4) (e : Entry) : M Unit :=
  do
  needPod sf n
  let s ← get
  let inst := instanceOf s sf
  let b := barrierAt s sf inst n.toNat
  if b.count != 0 then barStrf sf n
  modify (putBarrier sf inst n.toNat { b with target := e.a0.extractLsb' 0 32, count := 0 })

/-- BARA_INIT: dispatch (R416) and execution. -/
def execBaraInit (a : BitVec 7) (sf : BitVec 3) (n : BitVec 4) (s : State) : Host.Outcome State Fault Refusal :=
  dispatchV (encBaraInit a sf n).toWord 0 { afterVrel := true, a := .scalar a, check := barNumber sf n } (performBaraInit sf n) s

end Sys2Proof.Machine
end

