-- ==== Sys2Proof/Machine/SysRegs.lean ====
section
/-! DEFINITION. The system registers by number (R40–R43, R413 and the tables it names): reading, writing, MFS and MTS
(R104), and the readmission of a package (R374, R395). -/

namespace Sys2Proof.Machine

/-- A register number that a map defines (R413). -/
def isRegister (n : Nat) : Bool :=
  n ≤ 4 || (8 ≤ n && n ≤ 10) || (0x10 ≤ n && n ≤ 0x24) || (0x30 ≤ n && n ≤ 0x32) || n == 0x40 || n == 0x41 || n == 0x50 ||
  n == 0x51 || (0x100 ≤ n && n ≤ 0x10B) || (0x110 ≤ n && n ≤ 0x112) || n == 0x120 || n == 0x121 ||
  (0x130 ≤ n && n ≤ 0x139) || (0x140 ≤ n && n ≤ 0x167)

/-- The registers whose MFS waits for the vector stream (R30). -/
def mfsWaits (n : Nat) : Bool :=
  n == 0x31 || n == 0x18 || n == 0x1D || n == 0x1E || n == 0x1F || n == 0x21 || n == 0x22 || n == 0x23 || n == 0x24

/-- The registers whose MTS waits for the vector stream (R30). -/
def mtsWaits (n : Nat) : Bool := n == 0x31 || n == 0x22 || n == 0x23 || n == 0x24

/-- STATUS as read (R43). -/
def statusWord (h : Hart) : Word :=
  BitVec.ofNat 64 (h.trap.priv.toNat + 4 * h.trap.ie.toNat + 8 * h.cfg.maskmode.toNat + 32 * h.trap.ppriv.toNat +
    128 * h.trap.pie.toNat)

/-- LANES as read (R42): map, count, minimum and preferred number. -/
def lanesWord (y : SysRegs) : Word :=
  BitVec.ofNat 64 (y.laneMap.toNat + 2 ^ 8 * (List.range 8).countP (fun i => y.laneMap.getLsbD i) +
    2 ^ 12 * y.laneMin.toNat + 2 ^ 16 * y.lanePref.toNat)

/-- A stage queue's state as SQSTAT shows it (R307). -/
def sqstatWord (q : Option StageQueue) : Word :=
  match q with
  | none => 0
  | some q => BitVec.ofNat 64 (q.records.length + 2 ^ 17 * (q.eosLeft == 0).toNat + 2 ^ 18 + 2 ^ 20 * q.ldepth +
      2 ^ 25 * (if q.rsize = 16 then 0 else if q.rsize = 32 then 1 else 2) + 2 ^ 28 * q.src.toNat + 2 ^ 32 * q.dst.toNat +
      2 ^ 36 * q.eosLeft.toNat)

/-- The causes of R414. -/
def allCauses : List Cause :=
  [.ill, .priv, .winf, .align, .xlate, .prot, .ordns, .ordmm, .rse, .gate, .budget, .engf, .keyf, .strf, .matf, .trap,
    .peel, .mce, .timer, .host, .cancel]

/-- Words of state of an instance of a unit kind, and a word of it as a die's state shows it (R332): which state a kind, an instance
and an index name is not given (log 13). -/
opaque unitWords : BitVec 8 → BitVec 16 → Nat
opaque unitWord : State → Nat → BitVec 8 → BitVec 16 → Nat → Word

/-- What RBDATA of a die returns; 0 for an index beyond the unit's state (R332). -/
def readback (s : State) (d : Nat) : Word :=
  let sel := (s.die d).rbsel
  let kind := sel.extractLsb' 0 8
  let inst := sel.extractLsb' 8 16
  let i := (sel.extractLsb' 24 32).toNat
  if i < unitWords kind inst then unitWord s d kind inst i else 0

/-- The value MFS reads from a register (R41–R43 and the tables R413 names). -/
def readReg (s : State) (n : Nat) : Word :=
  let h := s.hart
  let c := h.cfg
  let y := h.sys
  let t := h.trap
  let d := s.myDie
  let p := s.myPkg
  match n with
  | 0x000 => BitVec.ofNat 64 (s.id % 4)
  | 0x001 => BitVec.ofNat 64 (coreOf s.id % 48)
  | 0x002 => BitVec.ofNat 64 (quadOf s.id % 12)
  | 0x003 => BitVec.ofNat 64 (dieOf s.id % 4)
  | 0x004 => BitVec.ofNat 64 (pkgOf s.id)
  | 0x008 => 0x0100
  | 0x009 => p.memsz.zeroExtend 64
  | 0x00A => p.podmap ||| BitVec.ofNat 64 (2 ^ pkgOf s.id)
  | 0x010 => c.vl.zeroExtend 64
  | 0x011 => c.rc.zeroExtend 64
  | 0x012 => c.etype.zeroExtend 64
  | 0x013 => c.psel.zeroExtend 64
  | 0x014 => c.gsel.zeroExtend 64
  | 0x015 => c.vwb.zeroExtend 64
  | 0x016 => y.swb.zeroExtend 64
  | 0x017 => y.kbase.zeroExtend 64
  | 0x018 => c.estart.zeroExtend 64
  | 0x019 => c.mmode.zeroExtend 64
  | 0x01A => lanesWord y
  | 0x01B => BitVec.ofNat 64 (y.rowsN.toNat + 2 ^ 8 * y.window.toNat + 2 ^ 16 * y.tilesN.toNat)
  | 0x01C => c.maskmode.zeroExtend 64
  | 0x01D => y.mshp
  | 0x01E => y.mfmt
  | 0x01F => y.mgen
  | 0x020 => s.myCore.part
  | 0x021 => y.mgpos
  | 0x022 => y.skm
  | 0x023 => y.skmmax
  | 0x024 => y.skrmax
  | 0x030 => c.frm.zeroExtend 64
  | 0x031 => y.fflags.zeroExtend 64
  | 0x032 => y.srseed.zeroExtend 64
  | 0x040 => y.rascnt.zeroExtend 64
  | 0x041 => y.rasspill
  | 0x050 => BitVec.ofNat 64 (s.tsc (pkgOf s.id))
  | 0x051 => BitVec.ofNat 64 (s.cycles (pkgOf s.id))
  | 0x100 => statusWord h
  | 0x101 => t.xpc
  | 0x102 => t.xna
  | 0x103 => t.xnb
  | 0x104 => t.xflags.zeroExtend 64
  | 0x105 => t.cause.zeroExtend 64
  | 0x106 => t.xval
  | 0x107 => t.xvq
  | 0x108 => t.tvec
  | 0x109 => t.gatebase
  | 0x10A => t.gatecnt.zeroExtend 64
  | 0x10B => t.savearea
  | 0x110 => t.ipend.zeroExtend 64
  | 0x111 => t.imask.zeroExtend 64
  | 0x112 => t.tcmpEn ++ t.tcmpTime
  | 0x120 => BitVec.ofNat 64 (d.ptEn.toNat + 2 ^ 16 * d.ptRoot.toNat)
  | 0x121 => BitVec.ofNat 64 (h.task.budgetRem.toNat + 2 ^ 63 * h.task.budgetOff.toNat)
  | 0x130 => BitVec.ofNat 64 (d.cinchIvl.toNat + 2 ^ 5 * d.cinchEn.toNat + 2 ^ 8 * d.cinchLow.toNat +
      2 ^ 12 * d.cinchHigh.toNat)
  | 0x131 => d.cinchLast
  | 0x132 => d.dqbase
  | 0x133 => d.dqcap.zeroExtend 64
  | 0x134 => BitVec.ofNat 64 (d.retEn.toNat + 2 ^ 4 * d.retIdl.toNat)
  | 0x135 => d.elbase
  | 0x136 => d.elcnt
  | 0x137 => d.rbsel
  | 0x138 => readback s (dieOf s.id)
  | 0x160 => p.reinsel.zeroExtend 64
  | 0x161 =>
    let l := sparseGet Link.reset p.links p.reinsel.toNat
    BitVec.ofNat 64 (l.st.toNat + 2 ^ 8 * l.peer.toNat + 2 ^ 32 * l.replays.toNat)
  | 0x162 => p.kv2base
  | 0x163 => p.kvhstk
  | 0x164 => p.kvcstk
  | 0x165 => p.skctab
  | 0x166 => BitVec.ofNat 64 (p.kv2count.toNat + 2 ^ 48 * p.kv2bs.toNat)
  | _ => if 0x140 ≤ n && n ≤ 0x15F then sqstatWord d.squeues[n - 0x140]? else 0

/-- A package has an up link (R374, R395). -/
def linkUp (p : Pkg) : Bool := (List.range 36).any fun i => (sparseGet Link.reset p.links i).st == 2

/-- The packages that a package reaches: itself, and those with an up link (R375). -/
def podmapOf (s : State) (p : Nat) : BitVec 64 :=
  BitVec.ofNat 64 (((List.range 64).filter fun q => q == p || linkUp (s.pkg q)).foldl (fun x q => x + 2 ^ q) 0)

/-- Readmission of a package by a REINCTL write with ADMIT = 1 on package 0: once a link to the package is up, its PODMAP bit is set
on every package (R374, R395), and its own map is package 0's again (log 92). -/
def readmit (target : Nat) : M Unit := modify fun s =>
  if pkgOf s.id = 0 && linkUp (s.pkg target) then
    let s := (List.range 64).foldl (fun s p =>
      s.setPkg p { s.pkg p with podmap := (s.pkg p).podmap ||| BitVec.ofNat 64 (2 ^ target) }) s
    s.setPkg target { s.pkg target with podmap := (s.pkg target).podmap ||| (s.pkg 0).podmap }
  else s

/-- ILL with XVAL the instruction word where a written value is outside a field's range (R40). -/
def illIf (p : Bool) : M Unit := if p then trapWord .ill else pure ()

/-- Keep the bits of a mask. -/
def keep (v : Word) (h l : Nat) : Word := BitVec.ofNat 64 (bitsOf v.toNat h l * 2 ^ l)

/-- The write of MTS (R40–R43 and the tables R413 names): a read-only register raises ILL, a value outside its range
raises ILL and changes nothing, reserved bits are ignored. -/
def writeReg (n : Nat) (v : Word) : M Unit := do
  let s ← get
  let h := s.hart
  let x := v.toNat
  let d := dieOf s.id
  let p := pkgOf s.id
  match n with
  | 0x010 => modCfg fun c => { c with vl := BitVec.ofNat 14 (Nat.min x (vlmax c.et)) }
  | 0x011 => do illIf (x < 1 || 32 < x); modCfg fun c => { c with rc := BitVec.ofNat 6 x }
  | 0x012 => do
    illIf (12 ≤ x)
    modCfg fun c => { c with etype := BitVec.ofNat 4 x, vl := BitVec.ofNat 14 (Nat.min c.vlN (vlmax x)) }
  | 0x013 => do illIf (24 ≤ x); modCfg fun c => { c with psel := BitVec.ofNat 5 x }
  | 0x014 => do illIf (16 ≤ x); modCfg fun c => { c with gsel := BitVec.ofNat 4 x }
  | 0x015 => do illIf (127 < x); modCfg fun c => { c with vwb := BitVec.ofNat 7 (x / 8 * 8) }
  | 0x016 => do illIf (255 < x); modSys fun y => { y with swb := BitVec.ofNat 8 (x / 8 * 8) }
  | 0x017 => do illIf (511 < x); modSys fun y => { y with kbase := BitVec.ofNat 9 (x / 8 * 8) }
  | 0x018 => do illIf (2 ^ 18 ≤ x); modCfg fun c => { c with estart := BitVec.ofNat 18 x }
  | 0x019 => do illIf (3 < x); modCfg fun c => { c with mmode := BitVec.ofNat 2 x }
  | 0x01C => do illIf (1 < x); modCfg fun c => { c with maskmode := BitVec.ofNat 1 x }
  | 0x022 => do
    let m := bitsOf x 19 0
    let r := bitsOf x 27 24
    illIf (m % 3 != 0 || m < 6 || bitsOf h.sys.skmmax.toNat 19 0 < m || bitsOf h.sys.skrmax.toNat 3 0 < r)
    modSys fun y => { y with skm := BitVec.ofNat 64 (m + 2 ^ 24 * r) }
  | 0x023 => do
    let m := bitsOf x 19 0
    illIf (m % 3 != 0 || m < bitsOf h.sys.skm.toNat 19 0 || 786432 < m)
    modSys fun y => { y with skmmax := BitVec.ofNat 64 m }
  | 0x024 => do
    let r := bitsOf x 3 0
    illIf (r = 0 || 8 < r)
    modSys fun y => { y with skrmax := BitVec.ofNat 64 r }
  | 0x030 => do illIf (5 ≤ x % 8); modCfg fun c => { c with frm := BitVec.ofNat 3 x }
  | 0x031 => modSys fun y => { y with fflags := BitVec.ofNat 6 x }
  | 0x032 => modSys fun y => { y with srseed := if x % 2 ^ 32 = 0 then 1 else BitVec.ofNat 32 x, reseed := true }
  | 0x040 => modSys fun y => { y with rascnt := BitVec.ofNat 32 x }
  | 0x041 => modSys fun y => { y with rasspill := keep v 51 4 }
  | 0x100 => do
    illIf (bitsOf x 1 0 == 3 || bitsOf x 6 5 == 3)
    modTrapRegs fun t => { t with
      priv := BitVec.ofNat 2 x, ie := BitVec.ofNat 1 (x / 4), ppriv := BitVec.ofNat 2 (x / 32), pie := BitVec.ofNat 1 (x / 128) }
    modCfg fun c => { c with maskmode := BitVec.ofNat 1 (x / 8) }
  | 0x101 => modTrapRegs fun t => { t with xpc := keep v 63 2 }
  | 0x102 => modTrapRegs fun t => { t with xna := keep v 63 2 }
  | 0x103 => modTrapRegs fun t => { t with xnb := keep v 63 2 }
  | 0x104 => modTrapRegs fun t => { t with xflags := BitVec.ofNat 4 x }
  | 0x105 => do
    illIf (allCauses.all fun c => c.code.toNat != x % 256)
    modTrapRegs fun t => { t with cause := BitVec.ofNat 9 x }
  | 0x106 => modTrapRegs fun t => { t with xval := v }
  | 0x107 => do illIf (32 < bitsOf x 63 58); modTrapRegs fun t => { t with xvq := keep v 63 58 ||| keep v 51 5 }
  | 0x108 => modTrapRegs fun t => { t with tvec := keep v 63 2 }
  | 0x109 => modTrapRegs fun t => { t with gatebase := keep v 51 4 }
  | 0x10A => do illIf (1024 < x % 2 ^ 11); modTrapRegs fun t => { t with gatecnt := BitVec.ofNat 11 x }
  | 0x10B => modTrapRegs fun t => { t with savearea := keep v 51 8 }
  | 0x110 => modTrapRegs fun t => { t with ipend := t.ipend &&& ~~~(BitVec.ofNat 4 x) }
  | 0x111 => modTrapRegs fun t => { t with imask := BitVec.ofNat 4 x }
  | 0x112 => modTrapRegs fun t => { t with tcmpTime := BitVec.ofNat 63 x, tcmpEn := BitVec.ofNat 1 (x / 2 ^ 63) }
  | 0x120 => modDie d fun k => { k with ptEn := BitVec.ofNat 1 x, ptRoot := BitVec.ofNat 36 (bitsOf x 51 16) }
  | 0x121 => modTask fun t => { t with
      budgetRem := BitVec.ofNat 48 x, budgetOff := bitOf x 63, budgetFrom := BitVec.ofNat 48 x, budgetOut := false }
  | 0x130 => do
    illIf (x % 32 < 12 || 24 < x % 32 || bitsOf x 15 12 ≤ bitsOf x 11 8)
    modDie d fun k => { k with
      cinchIvl := BitVec.ofNat 5 x, cinchEn := BitVec.ofNat 1 (x / 32), cinchLow := BitVec.ofNat 4 (x / 2 ^ 8),
      cinchHigh := BitVec.ofNat 4 (x / 2 ^ 12) }
  | 0x132 => do illIf (!(s.die d).store.isEmpty); modDie d fun k => { k with dqbase := keep v 51 7 }
  | 0x133 => do
    illIf (1048576 < x % 2 ^ 21 || !(s.die d).store.isEmpty)
    modDie d fun k => { k with dqcap := BitVec.ofNat 21 x }
  | 0x134 => do
    illIf (bitsOf x 8 4 < 10 || 30 < bitsOf x 8 4)
    modDie d fun k => { k with retEn := BitVec.ofNat 1 x, retIdl := BitVec.ofNat 5 (x / 16) }
  | 0x135 => modDie d fun k => { k with elbase := keep v 63 60 ||| keep v 51 5, logNow := [] }
  | 0x136 => modDie d fun k => { k with elcnt := v, logNow := [] }
  | 0x137 => modDie d fun k => { k with rbsel := keep v 55 0 }
  | 0x139 => do
    illIf (192 ≤ x % 256)
    let target := d * hartsPerDie + x % 256
    modify fun s =>
      let g := s.hartAt target
      s.setHartAt target { g with trap := { g.trap with ipend := g.trap.ipend ||| BitVec.ofNat 4 (x / 2 ^ 8) } }
  | 0x160 => do illIf (35 < x % 64); modPkg p fun k => { k with reinsel := BitVec.ofNat 6 x }
  | 0x162 => modPkg p fun k => { k with kv2base := keep v 51 3 }
  | 0x163 => modPkg p fun k => { k with kvhstk := keep v 51 3 }
  | 0x164 => modPkg p fun k => { k with kvcstk := keep v 51 3 }
  | 0x165 => modPkg p fun k => { k with skctab := keep v 51 6 }
  | 0x166 => do
    illIf (bitsOf x 53 48 == 0)
    modPkg p fun k => { k with kv2count := BitVec.ofNat 48 x, kv2bs := BitVec.ofNat 6 (x / 2 ^ 48) }
  | 0x167 => if bitOf x 8 then readmit (x % 64) else pure ()
  | _ => trapWord .ill

/-- The checks of R40 on a register number. -/
def checkReg (n : Nat) : M Unit := do
  let h ← getHart
  if 0x100 ≤ n && h.trap.priv != 2 then trapWord .priv
  if !isRegister n then trapWord .ill

/-- MFS (R104): Reads a system register. -/
def execMfs (d : BitVec 7) (n : BitVec 12) (s : State) : Host.Outcome State Fault Refusal :=
  runScalar (encMfs d n).toWord (do
    checkReg n.toNat
    checkScalar d
    if mfsWaits n.toNat && !(← getHart).vq.isEmpty then block
    writeScalar d (readReg (← get) n.toNat)
    pure .next) s

/-- MTS (R104): Writes a system register. The number is checked first, then the operand name, then whether the register is read-only and
the value in range: DESIGN CHOICE, log 88. -/
def execMts (a : BitVec 7) (n : BitVec 12) (s : State) : Host.Outcome State Fault Refusal :=
  runScalar (encMts a n).toWord (do
    checkReg n.toNat
    let v ← readScalar a
    if mtsWaits n.toNat && !(← getHart).vq.isEmpty then block
    writeReg n.toNat v
    pure .next) s

end Sys2Proof.Machine
end

