-- ==== Sys2Proof/Machine/Context.lean ====
section
/-! DEFINITION. The context area (R296): what the save engine writes when a task is suspended, and what a restore reads
(R297). -/

namespace Sys2Proof.Machine

/-! ## Packing -/

/-- Two 32-bit words in an 8-byte word. -/
def word2 (lo hi : BitVec 32) : Word := hi ++ lo

/-- Pairs of 32-bit words as 8-byte words. -/
def pairWords : List (BitVec 32) → List Word
  | a :: b :: xs => word2 a b :: pairWords xs
  | [a] => [word2 a 0]
  | [] => []

/-- 8-byte words as 32-bit words. -/
def splitWords : List Word → List (BitVec 32)
  | [] => []
  | w :: ws => w.extractLsb' 0 32 :: w.extractLsb' 32 32 :: splitWords ws

/-- A list cut or padded to a length. -/
def padTo {α : Type} (n : Nat) (x : α) (xs : List α) : List α := (xs ++ List.replicate n x).take n

/-- The cause of a code. -/
def causeOf (x : BitVec 8) : Cause := (allCauses.find? fun c => c.code == x).getD .mce

/-- The two words of a return-store entry (R37). -/
def Frame.pack (f : Frame) : List Word :=
  [f.ret, BitVec.ofNat 64 (f.gate.toNat + 2 * f.oldPriv.toNat + 8 * f.oldMm.toNat)]
def Frame.unpack (r w : Word) : Frame := ⟨r, w.getLsbD 0, w.extractLsb' 1 2, w.extractLsb' 3 1⟩

/-- The 64 bytes of a binding (R296): the record, whose elements 13–15 are always zero, holds there the position, the last key
and the rest, and the distance of the faulting element from the position in the zero bits of element 2 (log 19). -/
def packStream (st : Stream) : List (BitVec 32) :=
  let far := match st.fault with
    | some f => (if st.out then st.pos - f.idx else f.idx - st.pos) % 2 ^ 22
    | none => 0
  let code := match st.fault with | some f => f.cause.code.toNat | none => 0
  let r := padTo 13 0 st.record
  (r.set 2 (BitVec.ofNat 32 (recW r 2 % 2 ^ 10 + 2 ^ 10 * far))) ++
    [BitVec.ofNat 32 st.pos, st.lastKey.getD 0, BitVec.ofNat 32 (st.row.toNat + 2 ^ 7 * st.out.toNat + 2 ^ 8 +
      2 ^ 9 * st.lastKey.isSome.toNat + 2 ^ 10 * st.fault.isSome.toNat + 2 ^ 11 * code)]

/-- The binding that 64 bytes hold, with the elements that its buffer kept at a fault (R239). One that was not kept, as where a program
has changed the area, is a free value (log 12). -/
def unpackStream (kept : List (BitVec 32)) (ws : List (BitVec 32)) : M (Option Stream) := do
  let x := recW ws 15
  if !bitOf x 8 then pure none
  else do
    let far := recW ws 2 / 2 ^ 10
    let pos := recW ws 13
    let r := ((ws.take 13).set 2 (BitVec.ofNat 32 (recW ws 2 % 2 ^ 10))) ++ [0, 0, 0]
    let outp := bitOf x 7
    let idx := if outp then pos - far else pos + far
    let held := if outp && bitOf x 10 then far else 0
    let buf ← mapFrom held 0 fun i => match kept[i]? with
      | some x => pure x
      | none => do pure (BitVec.ofNat 32 ((← freeWord).toNat % 2 ^ widthOf (recType r)))
    pure (some ⟨BitVec.ofNat 7 x, r, outp, pos, if bitOf x 9 then some (ws.getD 14 0) else none, buf,
      if bitOf x 10 then some ⟨idx, causeOf (BitVec.ofNat 8 (x / 2 ^ 11)), recAddr r idx⟩ else none, false⟩)

/-- The word of a barrier token (R296). -/
def packToken (t : Token) : Word :=
  let sc := t.scope.toNat
  let unit := if sc = 1 then t.inst % 48 else if sc = 2 then t.inst % 12 else 0
  let die := if sc = 1 then t.inst / 48 % 4 else if sc = 2 then t.inst / 12 % 4 else if sc = 3 then t.inst % 4 else 0
  let pkg := if sc = 1 then t.inst / 192 else if sc = 2 then t.inst / 48 else if sc = 3 then t.inst / 4
    else if sc = 4 then t.inst else 0
  BitVec.ofNat 64 (t.gen.toNat + 2 ^ 32 * sc + 2 ^ 36 * t.number.toNat + 2 ^ 40 * unit + 2 ^ 46 * die + 2 ^ 48 * pkg +
    2 ^ 63)

/-- The token of a word that holds one. -/
def unpackToken (w : Word) : Option Token :=
  let x := w.toNat
  let sc := bitsOf x 34 32
  let unit := bitsOf x 45 40
  let die := bitsOf x 47 46
  let pkg := bitsOf x 53 48
  let inst := if sc = 1 then (pkg * 4 + die) * 48 + unit else if sc = 2 then (pkg * 4 + die) * 12 + unit
    else if sc = 3 then pkg * 4 + die else if sc = 4 then pkg else 0
  if bitOf x 63 then some ⟨BitVec.ofNat 3 sc, BitVec.ofNat 4 (x / 2 ^ 36), inst, BitVec.ofNat 32 x⟩ else none

/-! ## Saving -/

/-- The 32 words of the header (R296). -/
def contextHeader (h : Hart) : List Word :=
  let f := h.fetch
  let (c0, c1) := h.cfg.pack
  let y := h.sys
  let counts := (List.range 8).foldl (fun x i => x + 2 ^ (4 * i) * (sparseGet [] h.queues i).length) 0
  [f.pc, f.na, f.nb, f.flags.zeroExtend 64, statusWord h, c0, c1, y.swb.zeroExtend 64, y.kbase.zeroExtend 64,
    y.fflags.zeroExtend 64, y.srseed.zeroExtend 64, h.vec.gen.zeroExtend 64, y.rascnt.zeroExtend 64, y.rasspill,
    BitVec.ofNat 64 (h.task.budgetRem.toNat + 2 ^ 63 * h.task.budgetOff.toNat), y.mshp, y.mfmt, y.mgen, y.mgpos,
    BitVec.ofNat 64 counts, BitVec.ofNat 64 h.vq.length, lanesWord y, BitVec.ofNat 64 h.task.released.toNat,
    BitVec.ofNat 64 h.ras.length, 0, 0, 0, 0, 0, y.skm, y.skmmax, y.skrmax]

/-- The words of the area before its rows (R296). -/
def contextWords (h : Hart) : List Word :=
  let v := h.vec
  let guards := (List.range 16).foldl (fun x i => x + 2 ^ i * (sparseGet false v.guards i).toNat) 0
  contextHeader h ++
  sparseGetList 0 h.sregs 0 256 ++
  padTo 256 0 (h.vq.flatMap Entry.pack) ++
  padTo 32 0 (h.ras.reverse.flatMap Frame.pack) ++
  ((List.range 8).flatMap fun i => padTo 8 0 (sparseGet [] h.queues i)) ++
  ((List.range 24).flatMap fun p => (List.range 16).map fun i => (predOf v p).extractLsb' (64 * i) 64) ++
  ((List.range 512).map fun i =>
    let e := fun k => sparseGet 0 v.scales (4 * i + k)
    e 3 ++ e 2 ++ e 1 ++ e 0) ++
  ((List.range 8).flatMap fun i => match sparseGet none v.streams i with
    | some st => pairWords (packStream st)
    | none => List.replicate 8 0) ++
  pairWords (sparseGetList 0 v.order 0 128) ++
  ((List.range 32).map fun i =>
    let e := fun k => BitVec.ofNat 16 (sparseGet 0 v.high (4 * i + k) % 2 ^ 13 +
      2 ^ 15 * (sparseGet false v.dirty (4 * i + k)).toNat)
    e 3 ++ e 2 ++ e 1 ++ e 0) ++
  [BitVec.ofNat 64 guards] ++ padTo 31 0 (h.task.tokens.map packToken)

/-- Write bytes at an address with supervisor permission. -/
def wrBytes (v : Word) : List Byte → M Unit
  | [] => pure ()
  | b :: bs => do wrmemAt 2 .other v 1 b.toNat; wrBytes (v + 1) bs

/-- Read bytes at an address with supervisor permission. -/
def rdBytes (v : Word) (n : Nat) : M (List Byte) :=
  mapFrom n 0 fun i => do pure (BitVec.ofNat 8 (← rdmemAt 2 .other (v + BitVec.ofNat 64 i) 1))

/-- Address of row r, and of tile t, in an area. -/
def rowArea (area : Word) (r : Nat) : Word := area + BitVec.ofNat 64 (0x3600 + 4096 * r)
def tileArea (area : Word) (rows t : Nat) : Word := area + BitVec.ofNat 64 (0x3600 + 4096 * rows + 65536 * t)

/-- The words of a tile: two elements each, in row order. -/
def tileWords (v : VecRegs) (t : Nat) : List Word :=
  pairWords (sparseGetList 0 v.tiles (t * 16384) 16384)

/-- The save engine writes the context of the hart in focus (R295, R296): of each row only the bytes below its high-water
mark, and only where it is dirty (R38). -/
def saveContext (area : Word) : M Unit := do
  let h ← getHart
  wrWords 2 area (contextWords h)
  forN h.sys.rowsN.toNat fun r =>
    if sparseGet false h.vec.dirty r then
      wrBytes (rowArea area r) (sparseGetList 0 h.vec.rows (rowKey r 0) (sparseGet 0 h.vec.high r))
    else pure ()
  forN h.sys.tilesN.toNat fun t => wrWords 2 (tileArea area h.sys.rowsN.toNat t) (tileWords h.vec t)

/-! ## Restoring -/

/-- A sparse map from the values of keys 0, 1, …. -/
def sparseOf {α : Type} [DecidableEq α] (dflt : α) (xs : List α) : Sparse α := sparsePutList dflt [] 0 xs

/-- The entries of the queue area. -/
def restoreQueue (w : List Word) : Nat → Nat → M (List Entry)
  | 0, _ => pure []
  | n + 1, i => do
    let pc ← freeWord
    let rest ← restoreQueue w n (i + 1)
    pure (Entry.unpack ((w.drop (8 * i)).take 8) pc :: rest)

/-- A 16-bit field of a list of words. -/
def half (w : List Word) (i : Nat) : BitVec 16 := (w.getD (i / 4) 0).extractLsb' (16 * (i % 4)) 16

/-- Registers from the header (R296, R297). -/
def restoreHeader (w : List Word) (h : Hart) : Hart :=
  let g := fun i => w.getD i 0
  let status := (g 4).toNat
  let cfg := VConf.unpack (g 5) (g 6)
  let fl := (g 3).toNat
  let lanes := (g 21).toNat
  { h with
    fetch := ⟨g 0, g 1, g 2, bitOf fl 0, bitOf fl 1, bitOf fl 2 || bitOf fl 3, bitOf fl 3, false⟩
    cfg := { cfg with maskmode := BitVec.ofNat 1 (status / 8) }
    trap := { h.trap with
      priv := BitVec.ofNat 2 status, ie := BitVec.ofNat 1 (status / 4), ppriv := BitVec.ofNat 2 (status / 32)
      pie := BitVec.ofNat 1 (status / 128) }
    vec := { h.vec with gen := (g 11).extractLsb' 0 32 }
    sys := { h.sys with
      swb := (g 7).extractLsb' 0 8, kbase := (g 8).extractLsb' 0 9, fflags := (g 9).extractLsb' 0 6
      srseed := (g 10).extractLsb' 0 32, rascnt := (g 12).extractLsb' 0 32, rasspill := keep (g 13) 51 4
      mshp := keep (g 15) 31 31 ||| keep (g 15) 25 0, mfmt := keep (g 16) 15 12 ||| keep (g 16) 7 0, mgen := g 17, mgpos := g 18
      laneMap := if (g 22).getLsbD 0 then 0 else h.sys.laneMap
      laneMin := BitVec.ofNat 4 (lanes / 2 ^ 12), lanePref := BitVec.ofNat 4 (lanes / 2 ^ 16)
      skm := keep (g 29) 27 24 ||| keep (g 29) 19 0, skmmax := keep (g 30) 19 0, skrmax := keep (g 31) 3 0 }
    task := { h.task with
      vrel := (g 22).getLsbD 0
      released := (g 22).getLsbD 0
      budgetRem := (g 14).extractLsb' 0 48
      budgetOff := (g 14).getLsbD 63 } }

/-- A row of a restored context: the bytes that were stored, the rest zero (R38). -/
def restoreRow (area : Word) (w : List Word) (r : Nat) : M Unit := do
  let x := (half w r).toNat
  let dirty := bitOf x 15
  let n := x % 2 ^ 13
  let bs ← if dirty then rdBytes (rowArea area r) n else pure []
  modVec fun v => { v with
    rows := sparsePutList 0 v.rows (rowKey r 0) bs
    dirty := sparsePut false v.dirty r dirty
    high := sparsePut 0 v.high r n }

/-- A tile of a restored context. -/
def restoreTile (area : Word) (rows t : Nat) : M Unit := do
  let ws ← rdWords 2 (tileArea area rows t) 8192
  modVec fun v => { v with tiles := sparsePutList 0 v.tiles (t * 16384) (splitWords ws) }

/-- The word of VREL. -/
def isVrelWord (w : BitVec 32) : Bool := w == encVrel.toWord

/-- Restore the hart in focus from an area (R297): every item together, the order words included (R180). The hart has been
reset for the task; `kept` holds what its faulted output streams kept, by slot (R239). -/
def restoreContext (area : Word) (kept : List (Nat × List (BitVec 32))) : M Unit := do
  let ws ← rdWords 2 area 1728
  let part := fun at' n => (ws.drop at').take n
  let g := fun i => ws.getD i 0
  modHart fun h => restoreHeader (part 0 32) h
  let vq ← restoreQueue (part 288 256) (Nat.min (g 20).toNat 32) 0
  let slots ← mapFrom 8 0 fun i => unpackStream ((kept.lookup i).getD []) (splitWords (part (1536 + 8 * i) 8))
  modHart fun h => { h with
    sregs := sparseOf 0 (part 32 256)
    vq := vq
    ras := ((List.range (Nat.min (g 23).toNat 16)).map fun i => Frame.unpack (g (544 + 2 * i)) (g (545 + 2 * i))).reverse
    queues := sparseOf [] ((List.range 8).map fun i => part (576 + 8 * i) (Nat.min (bitsOf (g 19).toNat (4 * i + 3) (4 * i)) 8))
    vec := { h.vec with
      preds := sparseOf 0 ((List.range 24).map fun p =>
        BitVec.ofNat 1024 ((List.range 16).foldl (fun x i => x + 2 ^ (64 * i) * (g (640 + 16 * p + i)).toNat) 0))
      scales := sparseOf 0 ((List.range 2048).map fun i => half (part 1024 512) i)
      streams := sparseOf none slots
      order := sparseOf 0 ((splitWords (part 1600 64)).map (· &&& 0xFFFFF))
      guards := sparseOf false ((List.range 16).map fun i => (g 1696).getLsbD i) }
    task := { h.task with
      vrel := h.task.vrel || vq.any fun e => isVrelWord e.word
      tokens := (part 1697 31).filterMap unpackToken } }
  let h ← getHart
  forN h.sys.rowsN.toNat fun r => restoreRow area (part 1664 32) r
  forN h.sys.tilesN.toNat fun t => restoreTile area h.sys.rowsN.toNat t
  modTrapRegs fun t => { t with savearea := area &&& 0xFFFFFFFFFFF00 }
  let _ ← attempt formQueue
  pure ()

end Sys2Proof.Machine
end

