-- ==== Sys2Proof/Machine/Kv.lean ====
section
/-! DEFINITION. KV pages as their owners keep them (R385–R387): second-stage tables, frame stacks, the release of a block, and the
rolling back of a table's speculative pages (R392, R366). -/

namespace Sys2Proof.Machine

/-! ## Second-stage tables and frame stacks (R386) -/

/-- Package q can be reached from package p (R375). -/
def reachable (s : State) (p q : Nat) : Bool := p == q || (s.pkg p).podmap.getLsbD q

/-- Fields of a local entry (R385). -/
def kvMapped (e : Nat) : Bool := bitOf e 0 && bitsOf e 2 1 != 3
def kvSpec (e : Nat) : Bool := bitOf e 3
def kvCnt (e : Nat) : Nat := bitsOf e 9 5
def kvOwner (e : Nat) : Nat := bitsOf e 15 10
def kvBlock (e : Nat) : Nat := e / 2 ^ 16

/-- Address of the second-stage entry of block g of a package; `none` at or beyond COUNT (R386). -/
def stage2At (s : State) (q g : Nat) : Option Nat :=
  if g < (s.pkg q).kv2count.toNat then some ((s.pkg q).kv2base.toNat + 8 * g) else none

/-- The second-stage entry of a block; 0 at or beyond COUNT. -/
def stage2 (s : State) (q g : Nat) : Nat := match stage2At s q g with | some a => s.memNat a 8 | none => 0

/-- An entry is allocated: V = 1, and TIER 0 or 2 (R386). -/
def allocated (e : Nat) : Bool := bitOf e 0 && (bitsOf e 2 1 == 0 || bitsOf e 2 1 == 2)
def stage2Cxl (e : Nat) : Bool := bitsOf e 2 1 == 2
def stage2Shared (e : Nat) : Nat := bitsOf e 11 4
def stage2Frame (e : Nat) : Nat := bitsOf e 51 12 * 4096

/-- Pop a frame from a stack; `none` when it is empty or its base is 0 (R386). -/
def popStack (base : Nat) (s : State) : Option (Nat × State) :=
  let n := s.memNat base 8
  if base = 0 || n = 0 then none else some (s.memNat (base + 8 + 8 * n) 8, s.putNat base 8 (n - 1))

/-- Push a frame onto a stack of a package; a full one drops it, which is logged as class 0 (R387). -/
def pushStack (q base frame : Nat) : M Unit := do
  let s ← get
  let n := s.memNat base 8
  if base != 0 && n < s.memNat (base + 8) 8 then
    set ((s.putNat (base + 16 + 8 * n) 8 frame).putNat base 8 (n + 1))
  else logEvent (4 * q) 60 0 frame

/-- The page-in in flight of a block. -/
def pageInOf (s : State) (q g : Nat) : Option PageIn :=
  (s.pkg q).pageIns.find? fun p => p.block.toNat == g && p.ended.isNone

/-- Change the page-in in flight of a block. -/
def modPageIn (q g : Nat) (f : PageIn → PageIn) : M Unit :=
  modPkg q fun k => { k with
    pageIns := k.pageIns.map fun p => if p.block.toNat = g && p.ended.isNone then f p else p }

/-- Release block g of package q (R387). -/
def releaseBlock (q g : Nat) : M Unit := do
  let s ← get
  let e := stage2 s q g
  match stage2At s q g with
  | none => pure ()
  | some a =>
    if !allocated e then pure ()
    else if stage2Shared e != 0 then modify fun s => s.putNat a 8 (e - 16)
    else if bitOf e 3 && (pageInOf s q g).isSome then modPageIn q g fun p => { p with releases := p.releases + 1 }
    else do
      pushStack q (if stage2Cxl e then (s.pkg q).kvcstk.toNat else (s.pkg q).kvhstk.toNat) (stage2Frame e)
      modify fun s => s.putNat a 8 (e - 1)

/-- Address of entry p of a local table. -/
def localAt (base : Word) (p : Nat) : Word := base + BitVec.ofNat 64 (8 * p)

/-- KVCOMMIT or KVROLL on page p with entry e at token T (R392): the new entry, where it changes. -/
def trimmed (roll : Bool) (t p e : Nat) : Option Nat :=
  if t ≤ 16 * p then some 0
  else if 16 * p + kvCnt e ≤ t then if roll then none else some (e - 8)
  else some (e - 32 * kvCnt e + 32 * (t - 16 * p) - (if roll then 0 else 8))

/-- Roll back the speculative pages of a table at a physical address to token T, as KVROLL does (R366, R392): from page p on. An entry
whose owner is not reachable stays, and an absent address ends it. -/
def rollBack (q base t : Nat) : Nat → Nat → M Unit
  | 0, _ => pure ()
  | n + 1, p => do
    let s ← get
    let a := base + 8 * p
    if absent s q a || isControlWindow a then pure ()
    else do
      let e := s.memNat a 8
      match (if kvMapped e && kvSpec e && reachable s q (kvOwner e) then trimmed true t p e else none) with
      | none => pure ()
      | some e' => do
        modify fun s => s.putNat a 8 e'
        if t ≤ 16 * p then releaseBlock (kvOwner e) (kvBlock e)
      rollBack q base t n (p + 1)

/-- Step 5 of R366: the speculative pages of a request are rolled back. Which tables they stand in, of how many pages, and to which
token is free: the manual does not say (log 66). -/
def rollBackRequest (q : Nat) (r : BitVec 16) : M Unit := do
  let k := (← get).freeCount
  modify fun s => { s with freeCount := k + 1 }
  (Config.requestTables r k).foldlM (fun _ x => rollBack q x.1 x.2.1 (x.2.2 % 2 ^ 16) 0) ()

end Sys2Proof.Machine
end

