-- ==== Sys2Proof/Machine/Tasks.lean ====
section
/-! DEFINITION. Tasks (R279–R301): the queues of a die and the distributor, event counters, dispatch and restore, the end
of a task, suspension and pre-emption, budgets, requests, repartition, and the TASK family but for the stage queues. -/

namespace Sys2Proof.Machine

/-- Run a meaning with another hart in focus. -/
def onHart {α : Type} (n : Nat) (m : M α) : M (Except Stop α) := do
  let s ← get
  modify fun s => s.focusOn n
  let r ← attempt m
  modify fun s' => { s'.focusOn s.id with parked := s.parked }
  pure r

/-! ## Queue levels (R281–R283) -/

/-- A queue of tasks: of a core, a quad or a die, or the backing store of a die. -/
inductive Level where
  | core (c : Nat)
  | quad (q : Nat)
  | die (d : Nat)
  | store (d : Nat)
deriving DecidableEq, Repr

/-- The entries of a queue, oldest first. -/
def State.entries (s : State) : Level → List Queued
  | .core c => (s.core c).queue
  | .quad q => (s.quad q).queue
  | .die d => (s.die d).queue
  | .store d => (s.die d).store

def State.setEntries (s : State) (l : Level) (xs : List Queued) : State :=
  match l with
  | .core c => s.setCore c { s.core c with queue := xs }
  | .quad q => s.setQuad q { s.quad q with queue := xs }
  | .die d => s.setDie d { s.die d with queue := xs }
  | .store d => s.setDie d { s.die d with store := xs }

/-- Entries that the storage of a die's queue and backing store still takes; the wait list shares it (R286, log 96). -/
def storageLeft (x : Die) : Nat := 512 + x.dqcap.toNat - (x.queue.length + x.store.length + x.waiting.length)

/-- How many entries a queue holds (R281, R286). -/
def Level.cap (s : State) : Level → Nat
  | .core _ => 16
  | .quad _ => 64
  | .die d => Nat.min 512 ((s.die d).queue.length + storageLeft (s.die d))
  | .store d => Nat.min (s.die d).dqcap.toNat ((s.die d).store.length + storageLeft (s.die d))

/-- The level above. -/
def Level.up : Level → Option Level
  | .core c => some (.quad (c / 4))
  | .quad q => some (.die (q / 12))
  | .die d => some (.store d)
  | .store _ => none

/-- The levels above, nearest first. -/
def Level.above : Level → List Level
  | .core c => [.quad (c / 4), .die (c / 48), .store (c / 48)]
  | .quad q => [.die (q / 12), .store (q / 12)]
  | .die d => [.store d]
  | .store _ => []

/-- The last n entries of a backing store are written to their 128-byte slots at DQBASE (R281, R287); what a slot holds is free
(log 51). -/
def State.writeStore (d : Nat) : Nat → State → State
  | 0, s => s
  | n + 1, s =>
    let x := s.die d
    let slot := (x.store.length - (n + 1)) % Nat.max 1 x.dqcap.toNat
    let words := (List.range 16).map fun i => (Config.freeWord (s.freeCount + i)).toNat
    State.writeStore d n { s.putBytes (x.dqbase.toNat + 128 * slot) (words.flatMap (leBytes 8)) with freeCount := s.freeCount + 16 }

/-- Put entries at the tail of a queue. -/
def State.appendAll (s : State) (l : Level) (xs : List Queued) : State :=
  let s := s.setEntries l (s.entries l ++ xs)
  match l with
  | .store d => s.writeStore d xs.length
  | _ => s

/-- Append an entry at the tail. -/
def State.append (s : State) (l : Level) (x : Queued) : State := s.appendAll l [x]

/-- Move the 8 youngest entries of a queue to the level above (R283). -/
def State.lift (s : State) (l u : Level) : State :=
  let xs := s.entries l
  let s := s.setEntries l (xs.take (xs.length - 8))
  s.appendAll u (xs.drop (xs.length - 8))

/-- Make room for a block of 8 in a queue; the move cascades from the level above first (R283). The fuel is the number of
levels. -/
def makeRoom : Nat → Level → State → State
  | 0, _, s => s
  | n + 1, l, s =>
    if (s.entries l).length + 8 ≤ l.cap s then s
    else match l.up with
      | some u => (makeRoom n u s).lift l u
      | none => s

/-- Insert an entry at the tail of a queue (R282, R283); `none` when every level is full. -/
def insertAt (l : Level) (x : Queued) (s : State) : Option State :=
  if (s.entries l).length < l.cap s || l.above.any fun u => (s.entries u).length + 8 ≤ u.cap s then
    let s := s.append l x
    if l.cap s < (s.entries l).length then
      match l.up with
      | some u => some ((makeRoom 3 u s).lift l u)
      | none => some s
    else some s
  else none

/-- Requeue a task that has already been accepted: where no level has room the backing store takes it (log 21). -/
def requeueAt (l : Level) (x : Queued) (s : State) : State :=
  match insertAt l x s with
  | some s => s
  | none => s.append (.store (match l with | .core c => c / 48 | .quad q => q / 12 | .die d => d | .store d => d)) x

/-- The stage of a core, and whether the Cinch is moving it (R303, R310, R311). -/
def stageOfCore (s : State) (c : Nat) : Option (BitVec 4) := sparseGet none (s.die (dieOfCore c)).stageOf (c % 48)
def movingCore (s : State) (c : Nat) : Bool :=
  let x := (s.die (dieOfCore c)).cinchLast.toNat
  bitOf x 9 && bitsOf x 15 10 == c % 48

/-- A task is eligible for a core (R281, R310). -/
def eligible (s : State) (t : Descriptor) (c : Nat) : Bool :=
  !movingCore s c && (if t.stv then stageOfCore s c == some t.stg else (stageOfCore s c).isNone)

/-- The cores that a queue serves. -/
def Level.cores : Level → List Nat
  | .core c => [c]
  | .quad q => (List.range 4).map (4 * q + ·)
  | .die d => (List.range 48).map (48 * d + ·)
  | .store d => (List.range 48).map (48 * d + ·)

/-- A task may stand in a queue: it is eligible for one of its cores; the die queue and the backing store take every task. -/
def Level.serves (l : Level) (s : State) (t : Queued) : Bool :=
  match l with
  | .core _ | .quad _ => l.cores.any fun c => eligible s t.desc c
  | .die _ | .store _ => true

/-- The threshold below which a queue pulls (R283). -/
def Level.threshold : Level → Nat
  | .core _ => 4
  | .quad _ => 16
  | .die _ => 128
  | .store _ => 0

/-- Entries of a class, oldest first. -/
def ofClass (k : Nat) (xs : List Queued) : List Queued := xs.filter fun t => t.cls.toNat == k

/-- Every queue level of a die. -/
def levelsOf (d : Nat) : List Level :=
  (List.range 48).map (fun c => .core (48 * d + c)) ++ (List.range 12).map (fun q => .quad (12 * d + q)) ++
  [.die d, .store d]

/-- Entries that a graph load or a move of the Cinch left ineligible go to the die queue (log 22). -/
def expel (l : Level) (s : State) : State :=
  let out := (s.entries l).filter fun t => !l.serves s t
  match l with
  | .core _ | .quad _ =>
    if out.isEmpty then s
    else out.foldl (fun s t => requeueAt (.die ((l.cores.headD 0) / 48)) t s) (s.setEntries l ((s.entries l).filter (l.serves s)))
  | _ => s

/-- Pull up to 8 of the oldest eligible entries from the level above, highest class first (R283). -/
def pull (l : Level) (s : State) : Option State :=
  match l.up with
  | none => none
  | some u =>
    let ok := (s.entries u).filter (l.serves s)
    let take := ([3, 2, 1, 0].flatMap fun k => ofClass k ok).take 8
    if l.threshold ≤ (s.entries l).length || take.isEmpty then none
    else
      let s := s.setEntries u ((s.entries u).filter fun t => !take.any fun x => x.id == t.id)
      some (s.setEntries l (s.entries l ++ take))

/-! ## Event counters (R286) -/

/-- A counter is satisfied when its signed value is 0 or below. -/
def satisfied (x : BitVec 32) : Bool := x == 0 || x.msb

/-- Give a counter a value; once satisfied, the tasks that wait on it pass to the die queue in the order they joined. -/
def setEvent (d n : Nat) (v : BitVec 32) (s : State) : State :=
  let s := s.setDie d { s.die d with events := sparsePut 0 (s.die d).events n v }
  if satisfied v then
    let go := (s.die d).waiting.filter fun t => t.desc.waitEv.toNat == n
    let s := s.setDie d { s.die d with waiting := (s.die d).waiting.filter fun t => t.desc.waitEv.toNat != n }
    go.foldl (fun s t => requeueAt (.die d) { t with since := s.time, unplaced := s.time } s) s
  else s

/-- Counter n of a die. -/
def State.event (s : State) (d n : Nat) : BitVec 32 := sparseGet 0 (s.die d).events n

/-- Insert a task: the wait list, the core's own queue where it is eligible, or the die queue (R282). -/
def insertTask (d : Nat) (core : Option Nat) (x : Queued) (s : State) : Option State :=
  if x.desc.waitV && !satisfied (s.event d x.desc.waitEv.toNat) then
    if 0 < storageLeft (s.die d) then
      some (s.setDie d { s.die d with waiting := (s.die d).waiting ++ [x] })
    else none
  else
    match core with
    | some c => insertAt (if eligible s x.desc c then .core c else .die d) x s
    | none => insertAt (.die d) x s

/-! ## Descriptors (R279) -/

/-- The partition word obeys R189. -/
def partOk (w : Nat) : Bool :=
  let vrb := bitsOf w 5 0
  let spb := bitsOf w 13 8
  let acb := bitsOf w 21 16
  let sbb := bitsOf w 29 24
  bitsOf w 7 6 == 0 && bitsOf w 15 14 == 0 && bitsOf w 23 22 == 0 && bitsOf w 31 30 == 0 && 4 ≤ vrb && vrb ≤ 32 &&
  4 ≤ spb && spb ≤ 32 && 16 ≤ acb && acb ≤ 48 && 4 ≤ sbb && sbb ≤ 16 && vrb + spb + acb + sbb == 64

/-- The descriptor that 64 bytes hold; `none` where they break R279. -/
def parseDescriptor (ws : List Word) : Option Descriptor :=
  let w := fun i => (ws.getD i 0).toNat
  let a := w 5 % 2 ^ 32
  let b := w 5 / 2 ^ 32
  let c := w 6 / 2 ^ 32
  let lmin := bitsOf a 3 0
  let lpref := bitsOf a 7 4
  let rows := bitsOf a 15 8
  let win := bitsOf a 22 16
  let tiles := bitsOf a 28 23
  let kcnt := bitsOf (w 7) 61 52
  if w 0 % 4 == 0 && w 2 != 0 && w 2 % 256 == 0 && w 3 % 16 == 0 && bitsOf (w 4) 61 48 == 0 && !bitOf (w 4) 63 &&
      1 ≤ lmin && lmin ≤ lpref && lpref ≤ 8 && rows % 8 == 0 && 8 ≤ rows && rows ≤ 128 && win % 8 == 0 && 8 ≤ win &&
      win ≤ 64 && tiles ≤ 32 && bitsOf a 31 29 == 0 && !bitOf b 7 && bitsOf b 31 21 == 0 && partOk (w 6 % 2 ^ 32) &&
      bitsOf c 15 13 == 0 && w 7 % 8 == 0 && kcnt ≤ 512 && bitsOf (w 7) 63 62 == 0 then
    some {
      entry := ws.getD 0 0, arg := ws.getD 1 0, ctx := ws.getD 2 0, stat := ws.getD 3 0
      budget := BitVec.ofNat 48 (w 4), btrap := bitOf (w 4) 62
      lmin := BitVec.ofNat 4 lmin, lpref := BitVec.ofNat 4 lpref, rowsN := BitVec.ofNat 8 rows
      window := BitVec.ofNat 7 win, tilesN := BitVec.ofNat 6 tiles, prio := BitVec.ofNat 2 b, stv := bitOf b 2
      stg := BitVec.ofNat 4 (b / 8), waitEv := BitVec.ofNat 12 (b / 2 ^ 8), waitV := bitOf b 20
      part := BitVec.ofNat 30 (w 6), doneEv := BitVec.ofNat 12 c, doneV := bitOf c 12, req := BitVec.ofNat 16 (c / 2 ^ 16)
      kimg := BitVec.ofNat 64 (bitsOf (w 7) 51 0), kcnt := BitVec.ofNat 10 kcnt }
  else none

/-- The descriptor names a stage that the die's graph declares, or none (R289). -/
def stageOk (s : State) (d : Nat) (t : Descriptor) : Bool := !t.stv || t.stg.toNat < (s.die d).stages.length

/-- A new task, from its descriptor (R285). -/
def newTask (id : BitVec 32) (t : Descriptor) (check : Bool) (now : Nat) : Queued :=
  ⟨id, t, t.prio, now, now, check, false, 0, 0, t.budget, false, [], [], []⟩

/-- The next task id of a die: the die and a nonzero sequence number (R289). -/
def nextSeq (x : Die) : BitVec 30 := BitVec.ofNat 30 (x.seq.toNat % (2 ^ 30 - 1) + 1)
def taskId (d : Nat) (seq : BitVec 30) : BitVec 32 := BitVec.ofNat 2 (d % 4) ++ seq

/-! ## Time a task has held its hart (R291, R298) -/

/-- Bring the counts of the hart in focus up to now. -/
def catchUp : M Unit := do
  let s ← get
  modHart fun h =>
    if h.phase = .idle then h
    else
      let t := h.task
      let n := s.time - t.seen
      let rem := if t.budgetOff || t.budgetOut then t.budgetRem else BitVec.ofNat 48 (t.budgetRem.toNat - n)
      { h with task := { t with budgetRem := rem, held := t.held + BitVec.ofNat 64 n, seen := s.time } }

/-! ## Requests (R301, R365, R366) -/

/-- Address and state of a request word of a package. -/
def requestAddr (s : State) (p : Nat) (r : BitVec 16) : Nat := (s.pkg p).rqbase.toNat + 8 * r.toNat
def requestState (s : State) (p : Nat) (r : BitVec 16) : Nat := s.memNat (requestAddr s p r) 8 % 8
def setRequest (p : Nat) (r : BitVec 16) (v : Nat) (s : State) : State := s.putNat (requestAddr s p r) 8 v

/-- Write a status record (R291); one that cannot be written is dropped. The access is made on the die of a hart. -/
def recordStatus (n : Nat) (stat : Word) (kind status : Nat) (held : Word) : M Unit := do
  if stat = 0 then pure ()
  else do
    let _ ← asEngine n 2 [] (wholly (wrWords 2 stat [BitVec.ofNat 64 (status % 2 ^ 32 + 2 ^ 32 * kind), held]))
    pure ()

/-- Decrement the counter of a task that has ended (R291 step 5). -/
def doneEvent (d : Nat) (t : Descriptor) : M Unit :=
  if t.doneV then modify fun s => setEvent d t.doneEv.toNat (s.event d t.doneEv.toNat - 1) s else pure ()

/-- Accesses that an aborted task of a hart left in flight: its transfers, collectives and page-ins (R300, R342). -/
def leftInFlight (s : State) (n : Nat) : Bool :=
  let k := s.core (coreOf n)
  (List.range 4).any (fun c =>
    let x := sparseGet Channel.idle k.chans c
    x.owner.toNat == n % 4 && x.st == .running && x.orphan) ||
  k.locks.any (fun l => l.hart == n && l.coll && l.live) ||
  s.pkgs.any fun p => p.2.pageIns.any fun g => g.issuer == n && g.ended.isNone

/-- The decrement of a task's counter as the release that R291 makes it: it waits for what the hart left in flight. -/
def releaseDone (n : Nat) (t : Descriptor) : M Unit := do
  let d := dieOf n
  if t.doneV && leftInFlight (← get) n then modDie d fun k => { k with owed := k.owed ++ [(n, t.doneEv)] }
  else doneEvent d t

/-- The first decrement of a die that still waits and need not any more is made. -/
def payOwed (d : Nat) : M Unit := do
  let s ← get
  match (s.die d).owed.findIdx? fun p => !leftInFlight s p.1 with
  | none => block
  | some i => do
    let ev := ((s.die d).owed.getD i (0, 0)).2.toNat
    modDie d fun k => { k with owed := k.owed.eraseIdx i }
    modify fun s => setEvent d ev (s.event d ev - 1) s

/-- Release the filter slots of a task that has ended (R359). -/
def freeSlots (d : Nat) (id : BitVec 32) : M Unit :=
  modDie d fun k => { k with slots := k.slots.filter fun p => p.2.any fun x => x.owner != id }

/-- A queued task of a cancelled or failed request retires unrun, with kind 4 (R301). -/
def retireUnrun (d : Nat) (t : Queued) : M Unit := do
  freeSlots d t.id
  recordStatus (d * hartsPerDie) t.desc.stat 4 0 t.held
  doneEvent d t.desc

/-- The queued and waiting tasks of a die that belong to a request, and the state without them. -/
def takeRequest (r : BitVec 16) (d : Nat) (s : State) : List Queued × State :=
  let of := fun (t : Queued) => t.desc.req == r
  let out := ((levelsOf d).flatMap fun l => (s.entries l).filter of) ++ (s.die d).waiting.filter of
  let s := (levelsOf d).foldl (fun s l =>
    if (s.entries l).any of then s.setEntries l ((s.entries l).filter fun t => !of t) else s) s
  (out, s.setDie d { s.die d with waiting := (s.die d).waiting.filter fun t => !of t })

/-- The harts of a package that are not in their reset state. -/
def State.harts (s : State) (p : Nat) : List Nat := (s.id :: s.others.map Prod.fst).filter fun n => pkgOf n == p

/-- R366 for a request: later nodes are skipped, queued tasks retire unrun, running tasks that no CHECK node launched get CANCEL, and
its speculative KV pages are rolled back. -/
def stopRequest (p : Nat) (r : BitVec 16) : M Unit := do
  modPkg p fun k => { k with
    replay := k.replay.map fun x => { x with skip := r :: x.skip }
    replays := k.replays.map fun x => (x.1, r :: x.2) }
  forN 4 fun i => do
    let d := 4 * p + i
    let (out, s) := takeRequest r d (← get)
    set s
    out.foldlM (fun _ t => retireUnrun d t) ()
  modify fun s => (s.harts p).foldl (fun s n =>
    let h := s.hartAt n
    if h.phase != .idle && h.task.desc.req == r && !h.task.check then
      s.setHartAt n { h with trap := { h.trap with ipend := h.trap.ipend ||| 8 } }
    else s) s
  rollBackRequest p r

/-- A request fails with a task of it (R301, R365). -/
def failRequest (p : Nat) (r : BitVec 16) : M Unit := do
  let st := requestState (← get) p r
  if r = 0 || st = 3 || st = 4 then pure ()
  else do
    modify (setRequest p r 3)
    stopRequest p r

/-! ## The end of a task (R291, R300) -/

/-- A hart without a task: its lanes are released and nothing of the task is queued or bound; the registers keep what they hold until
the next dispatch (R21, R297, R354). -/
def Hart.freed (h : Hart) : Hart := { h with
  phase := .idle
  vq := []
  sys := { h.sys with laneMap := 0 }
  vec := { h.vec with streams := [] }
  task := Task.none
  pendEngf := []
  pendMce := []
  unanswered := none }

/-- Abandon the faulted transfers of the hart in focus, as CRESUME.ABORT does (R291, R300). -/
def abandonFaulted : M Unit :=
  forN 4 fun ch => do
    let s ← get
    let x := sparseGet Channel.idle s.myCore.chans ch
    if x.st = .faulted && x.owner.toNat = s.id % 4 then
      unlockChannel (coreOf s.id) ch
      putChannel (coreOf s.id) ch Channel.idle

/-- Release the hart, write the status record and decrement the counter; an aborted task's request fails (R291, R300, R301);
filter slots of the task are released (R359). -/
def finishTask (kind status : Nat) : M Unit := do
  catchUp
  leaveWaits
  let s ← get
  let t := s.hart.task
  let d := dieOf s.id
  freeSlots d t.id
  modHart Hart.freed
  recordStatus s.id t.desc.stat kind status t.held
  releaseDone s.id t.desc
  if kind != 0 && t.desc.req != 0 then failRequest (pkgOf s.id) t.desc.req

/-- The transfers of the hart in focus that are in flight run on without a task (R300). -/
def orphanTransfers : M Unit := do
  let s ← get
  modCore (coreOf s.id) fun k => { k with chans := k.chans.map fun p =>
    (p.1, if p.2.owner.toNat = s.id % 4 then { p.2 with orphan := true } else p.2) }

/-- Abort the task of the hart in focus (R300). -/
def abortTask (kind status : Nat) : M Unit := do
  modHart fun h => { h with vq := [] }
  abandonFaulted
  orphanTransfers
  finishTask kind status

/-- The hart in focus issued a transfer that has not completed and has not faulted. -/
def transfersLeft (s : State) : Bool :=
  (List.range 4).any fun c =>
    let x := sparseGet Channel.idle s.myCore.chans c
    x.owner.toNat == s.id % 4 && (x.st == .running || x.st == .holding)

/-- TEXIT (R291). -/
def exitTask (status : Nat) : M Unit := do
  unbindAll
  if transfersLeft (← get) || transfersPending (← get) then block
  abandonFaulted
  finishTask 0 status

/-! ## Placement (R32, R187, R190, R284) -/

/-- The harts of a core. -/
def hartsOf (c : Nat) : List Nat := (List.range 4).map (4 * c + ·)

/-- A hart holds a task, or is otherwise not free. -/
def busy (s : State) (n : Nat) : Bool := (s.hartAt n).phase != .idle

/-- The free clusters, rows and tiles of a core (R187, R191). -/
def freeLanes (s : State) (c : Nat) : BitVec 8 :=
  ((hartsOf c).filter (busy s)).foldl (fun m n => m &&& ~~~(s.hartAt n).sys.laneMap) 255
def freeRows (s : State) (c : Nat) : Nat :=
  16 * bitsOf (s.core c).part.toNat 5 0 - ((hartsOf c).filter (busy s)).foldl (fun x n => x + (s.hartAt n).sys.rowsN.toNat) 0
def freeTiles (s : State) (c : Nat) : Nat :=
  bitsOf (s.core c).part.toNat 21 16 - ((hartsOf c).filter (busy s)).foldl (fun x n => x + (s.hartAt n).sys.tilesN.toNat) 0

/-- Number of clusters of a map. -/
def lanes (m : BitVec 8) : Nat := (List.range 8).countP fun i => m.getLsbD i

/-- The lowest n clusters of a map. -/
def lowLanes (m : BitVec 8) (n : Nat) : BitVec 8 :=
  BitVec.ofNat 8 (((List.range 8).filter fun i => m.getLsbD i).take n |>.foldl (fun x i => x + 2 ^ i) 0)

/-- How a task fits a core: not, at once, or after a repartition of the empty core. -/
inductive Fit where
  | no | yes | part
deriving DecidableEq, Repr

/-- A word of a suspended task's area as the distributor reads it; 0 where it cannot (R297). -/
def savedWord (s : State) (t : Queued) (off : Word) : Nat :=
  match ((rdmemAt 2 .other (t.area + off) 8).exec s).1 with
  | .ok x => x
  | .error _ => 0

/-- The minimum and the preferred number of clusters of a task: of its descriptor, or, for a suspended one, of the saved LANES, and none
once VREL has executed (R32, R297; log 94). -/
def leaseOf (s : State) (t : Queued) : Nat × Nat :=
  if !t.resumed then (t.desc.lmin.toNat, t.desc.lpref.toNat)
  else if bitOf (savedWord s t 0xB0) 0 then (0, 0)
  else (bitsOf (savedWord s t 0xA8) 15 12, bitsOf (savedWord s t 0xA8) 19 16)

/-- R187 on a core, given how many free clusters it may count on. -/
def fits (s : State) (c : Nat) (q : Queued) (clusters : Nat) : Fit :=
  let t := q.desc
  let empty := !(hartsOf c).any (busy s)
  if (s.core c).fenced || (s.die (c / 48)).fenced.contains 61 || (s.core c).moving.isSome || !(hartsOf c).any (fun n => !busy s n) then .no
  else if (s.core c).part.extractLsb' 0 30 = t.part then
    if (leaseOf s q).1 ≤ clusters && t.rowsN.toNat ≤ freeRows s c && t.tilesN.toNat ≤ freeTiles s c then .yes else .no
  else if empty && t.rowsN.toNat ≤ 16 * bitsOf t.part.toNat 5 0 && t.tilesN.toNat ≤ bitsOf t.part.toNat 21 16 then .part
  else .no

/-- The entry that the distributor selects on a core: of the oldest entries of the classes, from 3 down, the first that can be
placed (R284). -/
def select (s : State) (c : Nat) : Option (Queued × Fit) :=
  [3, 2, 1, 0].findSome? fun k =>
    match (ofClass k (s.entries (.core c))).head? with
    | some t =>
      match fits s c t (lanes (freeLanes s c)) with
      | .no => none
      | f => if eligible s t.desc c then some (t, f) else none
    | none => none

/-- The hart of a task at its dispatch (R21, R32, R123): what belongs to the hart stays, IPEND and XVQ.COUNT
are 0, and a TCMP that the idle hart reached has disarmed. Nothing is gathered and no collective is known (R328, R384; log 90). -/
def dispatched (old : TrapRegs) (t : Queued) (map : BitVec 8) (now tsc : Nat) : Hart :=
  let d := t.desc
  { Hart.reset with
    phase := .running
    sys := { SysRegs.reset with
      laneMap := map, laneMin := d.lmin, lanePref := d.lpref, rowsN := d.rowsN, window := d.window.zeroExtend 8
      tilesN := d.tilesN }
    trap := { old with
      priv := 0, ie := 0, ppriv := 0, pie := 0, ipend := 0
      tcmpEn := if old.tcmpTime.toNat ≤ tsc then 0 else old.tcmpEn
      xvq := BitVec.ofNat 64 (bitsOf old.xvq.toNat 51 5 * 32), savearea := keep d.ctx 51 8 }
    task := ⟨t.id, d, t.cls, t.check, false, false, d.budget, d.budget == 0, t.budgetFrom, t.budgetOut, t.held, now, now, []⟩
    pendMce := t.pendMce
    pendEngf := t.pendEngf }

/-- Put a task on the hart in focus: a nonzero seed that the distributor chooses (R79, log 12), constants from KIMG, then the entry or the restored context; a fault aborts it with kind 5
(R279, R295, R297). -/
def startTask (t : Queued) (map : BitVec 8) : M Unit := do
  let s ← get
  modHart fun h => dispatched h.trap t map s.time (s.tsc (pkgOf s.id))
  let seed := (← freeWord).extractLsb' 0 32
  let seed := if seed = 0 then 1 else seed
  modSys fun y => { y with srseed := seed }
  modVec fun v => { v with gen := seed }
  match ← attempt (do
      let ws ← rdWords 2 t.desc.kimg t.desc.kcnt.toNat
      modHart fun h => { h with kbank := sparseOf 0 ws }
      if t.resumed then restoreContext t.area t.kept else startAt t.desc.entry) with
  | .ok _ => pure ()
  | .error (.trap c _) => abortTask 5 c.code.toNat
  | .error _ => pure ()

/-- The distributor selects a task for the core of the hart in focus and places it on its first free hart, or begins the
repartition that the task needs (R190, R284). -/
def dispatchTask : M Unit := do
  let s ← get
  let c := coreOf s.id
  match select s c with
  | none => block
  | some (t, f) =>
    if f = .part then modCore c fun k => { k with moving := some t.desc.part }
    else
      match (hartsOf c).find? fun n => !busy s n with
      | none => block
      | some n => do
        let map := lowLanes (freeLanes s c) (leaseOf s t).2
        modCore c fun k => { k with retained := [] }
        modify fun s => s.setEntries (.core c) ((s.entries (.core c)).filter fun x => x.id != t.id)
        let _ ← onHart n (startTask t map)
        pure ()

/-! ## Suspension (R294, R295) -/

/-- Flush the output streams without raising a fault, and discard the input buffers (R295 step 3, R239). An output buffer with an
uncorrectable error is not flushed: its MCE is raised after the restore (R212, log 86). -/
def settleStreams : M Unit :=
  forN 8 fun slot => do
    match sparseGet none (← getHart).vec.streams slot with
    | some st =>
      if st.out then
        if st.bad then do
          spoilBuffer slot st
          modHart fun h => { h with pendMce := h.pendMce ++ [BitVec.ofNat 64 st.row.toNat] }
        else if st.fault.isSome then pure ()
        else do
          let _ ← drainTo slot 0 st.buffer.length st
          pure ()
      else putStream slot (some { st with buffer := [], bad := false })
    | none => pure ()

/-- The elements that the faulted output streams of a hart keep, by slot (R239). -/
def keptElements (v : VecRegs) : List (Nat × List (BitVec 32)) :=
  (List.range 8).filterMap fun i => match sparseGet none v.streams i with
    | some st => if st.out && !st.buffer.isEmpty then some (i, st.buffer) else none
    | none => none

/-- The entry under which a suspended task is requeued. -/
def suspended (h : Hart) (area : Word) (now : Nat) : Queued :=
  let t := h.task
  ⟨t.id, t.desc, t.cls, now, now, t.check, true, area, t.held, t.budgetFrom, t.budgetOut, keptElements h.vec, h.pendMce,
    h.pendEngf⟩

/-- Steps 3–5 of R295 for the hart in focus: the accesses are performed (R343), the context is written, the hart is freed and the
task requeued, or put on the wait list of a counter. A fault aborts the task with kind 5; a task whose request ended while it was being
suspended retires as one already queued does (R301, R366). -/
def suspendTask (wait : Option (BitVec 12)) : M Unit := do
  settleStreams
  if transfersPending (← get) then block
  modHart fun h => match h.vq with
    | e :: _ => if e.begun then { h with cfg := { h.cfg with estart := e.cfg.estart } } else h
    | [] => h
  leaveWaits
  catchUp
  let area := (← getHart).trap.savearea
  match ← attempt (saveContext area) with
  | .error (.trap c _) => abortTask 5 c.code.toNat
  | .error e => throw e
  | .ok _ => do
    let s ← get
    let c := coreOf s.id
    let d := dieOf s.id
    let t := suspended s.hart area s.time
    modHart Hart.freed
    let st := requestState s (pkgOf s.id) t.desc.req
    if t.desc.req != 0 && !t.check && (st == 3 || st == 4) then retireUnrun d t
    else match wait with
    | some n =>
      let t := { t with desc := { t.desc with waitEv := n, waitV := true } }
      modDie d fun k => { k with waiting := k.waiting ++ [t] }
    | none => modify (requeueAt (if eligible s t.desc c then .core c else .die d) t)

/-- A pre-empted hart goes on: its queue drains until it is empty or its oldest entry is blocked, then the task is suspended; a stalled
entry does not end the drain (R295 step 2). -/
def continueSuspend : M Unit := do
  let h ← getHart
  match h.vq with
  | e :: _ => if e.begun && !h.stalled then suspendTask none else block
  | [] => suspendTask none

/-- A pending PREEMPT takes effect (R294). -/
def takePreempt : M Unit := do
  let h ← getHart
  if h.phase != .running || h.trap.priv = 2 || !h.trap.ipend.getLsbD 2 then block
  modTrapRegs fun t => { t with ipend := t.ipend &&& ~~~4 }
  modHart fun h => { h with phase := .suspending }

/-- A task eligible for the core, of the snapshot class or higher, stands in the core queue or above (R290). -/
def rival (s : State) : Bool :=
  let c := coreOf s.id
  (Level.core c :: (Level.core c).above).any fun l =>
    (s.entries l).any fun t => eligible s t.desc c && s.hart.task.cls ≤ t.cls

/-- The budget is used up (R299): BUDGET, or the end of the task with kind 1. -/
def takeBudget : M Unit := do
  let h ← getHart
  let t := h.task
  if h.phase = .idle || h.phase = .halted || t.budgetOff || t.budgetOut || t.budgetRem != 0 then block
  modTask fun t => { t with budgetOut := true }
  if t.desc.btrap then trapEntry false .budget (t.budgetFrom.zeroExtend 64)
  else abortTask 1 Cause.budget.code.toNat

/-! ## Events of the distributor -/

/-- TASK_DISPATCH (R284, R187): on the core of the hart in focus. -/
def execTaskDispatch (s : State) : Host.Outcome State Fault Refusal := runEvent dispatchTask s

/-- QUEUE_PULL (R283): level 0 pulls into the core queue of the hart in focus, 1 into its quad queue, 2 into its die queue. -/
def execQueuePull (level : BitVec 2) (s : State) : Host.Outcome State Fault Refusal :=
  runEvent (do
    let s ← get
    let l : Level := match level.toNat with
      | 0 => .core (coreOf s.id)
      | 1 => .quad (quadOf s.id)
      | _ => .die (dieOf s.id)
    match pull l (expel l s) with
    | some s' => set s'
    | none => set (expel l s)) s

/-- An entry that has waited 2²⁰ cycles in its class moves to the tail of the next one (R285). -/
def ageLevel (l : Level) (s : State) : State :=
  let old := fun (t : Queued) => t.cls != 3 && 2 ^ 20 ≤ s.time - t.since
  if (s.entries l).any old then
    s.setEntries l ((s.entries l).filter (fun t => !old t) ++
      ((s.entries l).filter old).map fun t => { t with cls := t.cls + 1, since := s.time })
  else s

/-- AGING (R285): on the die of the hart in focus. -/
def execAging (s : State) : Host.Outcome State Fault Refusal :=
  runEvent (modify fun s => (levelsOf (dieOf s.id)).foldl (fun s l => ageLevel l s) s) s

/-- A hart gives up its task at its next boundary, or is about to. One that halted, or stays at privilege 2, keeps a request to do so
pending (R294). -/
def givesUp (h : Hart) : Bool :=
  h.phase == .suspending || (h.phase == .running && h.trap.priv != 2 && h.trap.ipend.getLsbD 2)

/-- The victim for a task that has waited 2¹⁸ cycles without a placement: the running task of lowest snapshot class, the most
recently dispatched of equals (R294); one with a request pending is none again. -/
def victimFor (s : State) (t : Queued) (cores : List Nat) : Option Nat :=
  let run := (cores.flatMap hartsOf).filter fun n =>
    let h := s.hartAt n
    h.phase == .running && !h.trap.ipend.getLsbD 2 && decide (h.task.cls < t.cls)
  run.foldl (fun best n => match best with
    | none => some n
    | some m =>
      let x := (s.hartAt n).task
      let y := (s.hartAt m).task
      if x.cls < y.cls || (x.cls = y.cls && y.dispatched < x.dispatched) then some n else some m) none

/-- The victims that the waiting tasks of a die call for. -/
def victims (s : State) (d : Nat) : List Nat :=
  (levelsOf d).flatMap fun l => (s.entries l).filterMap fun t =>
    let cores := (l.cores).filter fun c => eligible s t.desc c
    if 2 ^ 18 ≤ s.time - t.unplaced && !(cores.flatMap hartsOf).any (fun n => givesUp (s.hartAt n)) then
      victimFor s t cores
    else none

/-- PREEMPT_TIMEOUT (R294): on the die of the hart in focus. -/
def execPreemptTimeout (s : State) : Host.Outcome State Fault Refusal :=
  runEvent (do
    let s ← get
    match (victims s (dieOf s.id)).head? with
    | none => block
    | some n => modify fun s =>
      let h := s.hartAt n
      s.setHartAt n { h with trap := { h.trap with ipend := h.trap.ipend ||| 4 } }) s

/-- PREEMPTION (R294, R295): the hart in focus begins its suspension, which ends here when its queue is empty. -/
def execPreemption (s : State) : Host.Outcome State Fault Refusal :=
  runEvent (do
    takePreempt
    if (← getHart).vq.isEmpty then do
      let _ ← attempt continueSuspend
      pure ()) s

/-- A core after a repartition: its pool reads zero and its keyed regions are released (R190). -/
def Core.repartitioned (k : Core) (w : BitVec 30) : Core :=
  { k with part := w.zeroExtend 64, sp := [], spPoison := [], keyed := [], moving := none }

/-- The core of the hart in focus, emptied, takes its new partition word; its pool reads zero and its keyed regions are released
(R190). -/
def repartition : M Unit := do
  let s ← get
  let c := coreOf s.id
  match s.myCore.moving with
  | none => block
  | some w =>
    if (hartsOf c).any (busy s) then block
    else modCore c fun k => k.repartitioned w

/-- REPARTITION (R190): the core of the hart in focus. -/
def execRepartition (s : State) : Host.Outcome State Fault Refusal := runEvent repartition s

/-- BUDGET_EXHAUSTED (R298): the hart in focus counts its budget down to now. -/
def execBudgetExhausted (s : State) : Host.Outcome State Fault Refusal := runEvent catchUp s

/-- BUDGET (R299): the hart in focus. -/
def execBudget (s : State) : Host.Outcome State Fault Refusal := runEvent takeBudget s

/-! ## TASK instructions (R288–R293) -/

/-- The word that TSPAWN delivers for a refused spawn (R289). -/
def refusedSpawn (reason : Nat) : Word := BitVec.ofNat 64 (2 ^ 63 + reason)

/-- The spawn of a descriptor: the word to deliver (R289). -/
def spawn (ws : List Word) : M Word := do
  let s ← get
  let d := dieOf s.id
  match parseDescriptor ws with
  | none => pure (refusedSpawn 2)
  | some t =>
    let st := requestState s (pkgOf s.id) t.req
    if !stageOk s d t then pure (refusedSpawn 2)
    else if t.req != 0 && (st == 3 || st == 4) then pure (refusedSpawn 3)
    else
      let seq := nextSeq (s.die d)
      match insertTask d (some (coreOf s.id)) (newTask (taskId d seq) t false s.time) s with
      | none => pure (refusedSpawn 1)
      | some s' => do
        set (s'.setDie d { s'.die d with seq := seq })
        pure ((taskId d seq).zeroExtend 64)

/-- The number of dispatchable entries of a die (R292). -/
def dispatchable (s : State) (d : Nat) : Nat := (levelsOf d).foldl (fun x l => x + (s.entries l).length) 0

/-- A counter operand is checked at dispatch (R288). -/
def checkCounter (e : Entry) : M Unit := trapIf (4096 ≤ e.a0.toNat) .ill e.a0

/-- EVDEC and EVINC (R293). -/
def addEvent (e : Entry) (q : BitVec 1) (up : Bool) : M Unit := do
  if q = 1 then needRoom
  needUnit 61
  release
  let s ← get
  let d := dieOf s.id
  let n := e.a0.toNat
  let old := s.event d n
  let b := e.b0.extractLsb' 0 32
  modify (setEvent d n (if up then old + b else old - b))
  if q = 1 then deliver (old.signExtend 64)

/-- TSPAWN (R289): Reads a descriptor, queues a task and delivers its id or a refusal. -/
def performTspawn (e : Entry) : M Unit :=
  do
  setProgress 0
  let a := e.a0
  trapIf (a.toNat % 64 != 0) .align a
  let ws ← mapFrom 8 0 fun i => do pure (BitVec.ofNat 64 (← vread .other (a + BitVec.ofNat 64 (8 * i)) 8))
  needRoom
  needUnit 61
  let w ← spawn ws
  deliver w

/-- TSPAWN: dispatch (R416) and execution. -/
def execTspawn (a : BitVec 7) (s : State) : Host.Outcome State Fault Refusal :=
  dispatchV (encTspawn a).toWord 0 { whole := true, afterVrel := true, a := .scalar a } performTspawn s

/-- TWAIT (R290): Completes on a satisfied counter or suspends the task on the wait list. -/
def performTwait (e : Entry) : M Unit :=
  do
  needUnit 61
  let s ← get
  if satisfied (s.event (dieOf s.id) e.a0.toNat) then pure ()
  else do
    settleStreams
    if transfersPending (← get) then block
    retireHead
    suspendTask (some (e.a0.extractLsb' 0 12))

/-- TWAIT: dispatch (R416) and execution. -/
def execTwait (a : BitVec 7) (s : State) : Host.Outcome State Fault Refusal :=
  dispatchV (encTwait a).toWord 0 { afterVrel := true, a := .scalar a, check := checkCounter, serial := true } (performTwait) s

/-- TEXIT (R291): Ends the task, writes its status and decrements DONEEV. -/
def performTexit (e : Entry) : M Unit :=
  exitTask e.a0.toNat

/-- TEXIT: dispatch (R416) and execution. -/
def execTexit (a : BitVec 7) (s : State) : Host.Outcome State Fault Refusal :=
  dispatchV (encTexit a).toWord 0 { afterVrel := true, a := .scalar a, serial := true } (performTexit) s

/-- TEXIT_ABORT (R300): Privileged abort of the interrupted task with kind 2. -/
def performTexitAbort (e : Entry) : M Unit :=
  do
  let h ← getHart
  abortTask (if h.trap.ipend.getLsbD 3 then 3 else 2) e.a0.toNat

/-- TEXIT_ABORT: dispatch (R416) and execution. -/
def execTexitAbort (a : BitVec 7) (s : State) : Host.Outcome State Fault Refusal :=
  dispatchV (encTexitAbort a).toWord 0 { privileged := true, afterVrel := true, a := .scalar a, serial := true } (performTexitAbort) s

/-- TYIELD (R290): Requeues the task when an eligible peer of equal or higher class waits. -/
def performTyield (_ : Entry) : M Unit :=
  do
  if rival (← get) then do
    settleStreams
    if transfersPending (← get) then block
    retireHead
    suspendTask none
  else pure ()

/-- TYIELD: dispatch (R416) and execution. -/
def execTyield (s : State) : Host.Outcome State Fault Refusal :=
  dispatchV (encTyield).toWord 0 { afterVrel := true, serial := true } (performTyield) s

/-- TSTAT (R292): Delivers one task status word. -/
def performTstat (n : BitVec 3) (_ : Entry) : M Unit :=
  do
  catchUp
  let s ← get
  let t := s.hart.task
  deliver (match n.toNat with
    | 0 => t.id.zeroExtend 64
    | 1 => t.desc.arg
    | 2 => if t.budgetOff then BitVec.allOnes 64 else t.budgetRem.zeroExtend 64
    | 3 => BitVec.ofNat 64 (t.cls.toNat + 4 * t.desc.stv.toNat + 8 * t.desc.stg.toNat)
    | 4 => t.desc.req.zeroExtend 64
    | _ => BitVec.ofNat 64 (dispatchable s (dieOf s.id)))

/-- TSTAT: dispatch (R416) and execution. -/
def execTstat (n : BitVec 3) (s : State) : Host.Outcome State Fault Refusal :=
  dispatchV (encTstat n).toWord 0 { afterVrel := true } (performTstat n) s

/-- EVDEC (R293): Releases and decrements an event counter. -/
def performEvdec (q : BitVec 1) (e : Entry) : M Unit :=
  addEvent e q false

/-- EVDEC: dispatch (R416) and execution. -/
def execEvdec (q : BitVec 1) (a : BitVec 7) (b : BitVec 7) (s : State) : Host.Outcome State Fault Refusal :=
  dispatchV (encEvdec q a b).toWord 0 { afterVrel := true, a := .scalar a, b := .scalar b, check := checkCounter } (performEvdec q) s

/-- EVINC (R293): Releases and increments an event counter. -/
def performEvinc (q : BitVec 1) (e : Entry) : M Unit :=
  addEvent e q true

/-- EVINC: dispatch (R416) and execution. -/
def execEvinc (q : BitVec 1) (a : BitVec 7) (b : BitVec 7) (s : State) : Host.Outcome State Fault Refusal :=
  dispatchV (encEvinc q a b).toWord 0 { afterVrel := true, a := .scalar a, b := .scalar b, check := checkCounter } (performEvinc q) s

end Sys2Proof.Machine
end

