-- ==== Sys2Proof/Machine/Stages.lean ====
section
/-! DEFINITION. Stage graphs (R302–R307) and the Cinch (R308–R311): loading a graph, QPUSH and QPOP, and the Cinch's events. -/

namespace Sys2Proof.Machine

/-! ## Loading a graph (R303) -/

/-- The numbers that a graph image holds for stage i: eight descriptor words, the minimum, the cores and the tasks; and for queue
j: the two stages, record code, log₂ depth and end-of-stream count (log 23). -/
def imageStage (xs : List Nat) (i k : Nat) : Nat := xs.getD (1 + 11 * i + k) 0
def imageStages (xs : List Nat) : Nat := Nat.min (xs.getD 0 0) 16
def imageQueue (xs : List Nat) (j k : Nat) : Nat := xs.getD (2 + 11 * imageStages xs + 5 * j + k) 0
def imageQueues (xs : List Nat) : Nat := Nat.min (xs.getD (1 + 11 * imageStages xs) 0) 32

/-- The template of stage i: STV is 1 and STG the stage (R302). -/
def stageTemplate (xs : List Nat) (i : Nat) : Descriptor :=
  let t := (parseDescriptor ((List.range 8).map fun k => BitVec.ofNat 64 (imageStage xs i k))).getD Descriptor.none
  { t with stv := true, stg := BitVec.ofNat 4 i, waitV := false }

/-- The stages of an image. -/
def graphStages (xs : List Nat) : List Stage :=
  (List.range (imageStages xs)).map fun i => ⟨stageTemplate xs i, Nat.max 1 (Nat.min (imageStage xs i 8) 48)⟩

/-- The queues of an image, empty. -/
def graphQueues (xs : List Nat) : List StageQueue :=
  (List.range (imageQueues xs)).map fun j =>
    ⟨BitVec.ofNat 4 (imageQueue xs j 0), BitVec.ofNat 4 (imageQueue xs j 1), 4 + imageQueue xs j 3 % 13,
      16 * 2 ^ (imageQueue xs j 2 % 3), BitVec.ofNat 4 (1 + imageQueue xs j 4 % 15), [], 0, 0, []⟩

/-- The stages of the die's cores: each stage takes its cores from the highest-numbered ones down. -/
def graphCores (xs : List Nat) : Sparse (Option (BitVec 4)) :=
  let order := (List.range (imageStages xs)).flatMap fun i => List.replicate (Nat.max 1 (imageStage xs i 9)) i
  ((order.take 48).zip ((List.range 48).reverse)).foldl (fun m p => sparsePut none m p.2 (some (BitVec.ofNat 4 p.1))) []

/-- Bytes of a context area (R296). -/
def contextSize (t : Descriptor) : Nat := 0x3600 + 4096 * t.rowsN.toNat + 65536 * t.tilesN.toNat

/-- Put copy i of a template into the die queue (R303). -/
def insertCopy (d : Nat) (t : Descriptor) (i : Nat) (s : State) : State :=
  let seq := nextSeq (s.die d)
  let t := { t with arg := t.arg + BitVec.ofNat 64 i, ctx := t.ctx + BitVec.ofNat 64 (i * contextSize t) }
  let s := s.setDie d { s.die d with seq := seq }
  requeueAt (.die d) (newTask (taskId d seq) t false s.time) s

/-- Load a graph on a die (R303, R308, R311). -/
def loadGraph (d : Nat) (xs : List Nat) (s : State) : State :=
  let s := s.setDie d { s.die d with
    stages := graphStages xs, squeues := graphQueues xs, stageOf := graphCores xs, cinchLast := 0, cinchTime := s.time }
  (List.range (imageStages xs)).foldl (fun s i =>
    (List.range (Nat.max 1 (Nat.min (imageStage xs i 10) 4096))).foldl (fun s k =>
      insertCopy d (stageTemplate xs i) k s) s) s

/-- A die holds a task with STV = 1. -/
def holdsStaged (s : State) (d : Nat) : Bool :=
  (levelsOf d).any (fun l => (s.entries l).any fun t => t.desc.stv) || (s.die d).waiting.any (fun t => t.desc.stv) ||
  (s.id :: s.others.map Prod.fst).any fun n =>
    dieOf n == d && (s.hartAt n).phase != .idle && (s.hartAt n).task.desc.stv

/-! ## Stage queues (R304–R306) -/

/-- The queue that QPUSH or QPOP names, or STRF with reason 7 (R304). An entry that has begun, and waits for room, has passed the check. MCE
where the queue's SRAM or the distributor is fenced (R212, log 121). -/
def stageQueue (q : BitVec 5) (push begun : Bool) : M StageQueue := do
  let s ← get
  let t := s.hart.task.desc
  needUnit 61
  trapIf (s.myDie.fencedQueues.contains q.toNat) .mce (q.zeroExtend 64)
  match s.myDie.squeues[q.toNat]? with
  | none => strf q.toNat 7
  | some x =>
    if begun then pure x
    else if !t.stv || t.stg != (if push then x.src else x.dst) || (push && x.eosLeft == 0) then strf q.toNat 7 else pure x

/-- Replace a stage queue of the die. -/
def putStageQueue (q : BitVec 5) (x : StageQueue) : M Unit := do
  let s ← get
  modDie (dieOf s.id) fun d => { d with squeues := d.squeues.set q.toNat x }

/-- A block on a stage queue; on a core that the Cinch is moving the task is pre-empted (R310). -/
def stageBlock : M Unit := do
  let s ← get
  if movingCore s (coreOf s.id) then modTrapRegs fun t => { t with ipend := t.ipend ||| 4 }
  block

/-- Byte i of tile d, counted from byte 0 of its first row, or of the strip of the input stream bound there. -/
def tileByteAt (v : VecRegs) (c : VConf) (d : BitVec 7) (i : Nat) : Byte := tileByte v c.vwb.toNat d.toNat (i / 4096) (i % 4096)

/-- Record r of a tile. -/
def recordAt (v : VecRegs) (c : VConf) (d : BitVec 7) (size r : Nat) : List Byte :=
  (List.range size).map fun i => tileByteAt v c d (r * size + i)

/-! ## The Cinch (R308–R311) -/

/-- CINCH_SAMPLE (R308): the queues of the die of the hart in focus. -/
def execCinchSample (s : State) : Host.Outcome State Fault Refusal :=
  runEvent (modDie (dieOf s.id) fun d => { d with
    squeues := d.squeues.map fun q => { q with
      samples := q.samples + 1, sum := q.sum + 65536 * q.records.length / 2 ^ q.ldepth } }) s

/-- The mean occupancy of a queue over the interval. -/
def StageQueue.mean (q : StageQueue) : Nat := q.sum / q.samples

/-- The demand of a stage (R308). -/
def demand (d : Die) (i : Nat) : Nat :=
  let ins := d.squeues.filter fun q => q.dst.toNat == i
  let outs := d.squeues.filter fun q => q.src.toNat == i
  let top := fun (qs : List StageQueue) => qs.foldl (fun x q => Nat.max x q.mean) 0
  if !ins.isEmpty && ins.all (fun q => q.eosLeft == 0 && q.records.isEmpty) then 0 else top ins + (65536 - top outs)

/-- Number of cores of a stage. -/
def coresOfStage (d : Die) (i : Nat) : List Nat :=
  (List.range 48).filter fun c => sparseGet none d.stageOf c == some (BitVec.ofNat 4 i)

/-- The stage of lowest demand that can donate, and the one of highest demand that calls for a core (R309). -/
def donor (d : Die) : Option Nat :=
  let ok := (List.range d.stages.length).filter fun i =>
    demand d i < 8192 * d.cinchLow.toNat && (d.stages.getD i ⟨Descriptor.none, 0⟩).min < (coresOfStage d i).length
  ok.foldl (fun best i => match best with
    | none => some i
    | some b => if demand d i < demand d b then some i else some b) none
def recipient (d : Die) : Option Nat :=
  let ok := (List.range d.stages.length).filter fun i => 8192 * d.cinchHigh.toNat < demand d i
  ok.foldl (fun best i => match best with
    | none => some i
    | some b => if demand d b < demand d i then some i else some b) none

/-- CINCHLAST from its fields (R311). -/
def cinchWord (from' dest core : Nat) (moved pend : Bool) (ivls : Nat) : Word :=
  BitVec.ofNat 64 (from' + 2 ^ 4 * dest + 2 ^ 8 * moved.toNat + 2 ^ 9 * pend.toNat + 2 ^ 10 * core +
    2 ^ 16 * (ivls % 2 ^ 32))

/-- The oldest entry of a hart is a QPUSH that waits for room, or a QPOP that is blocked. -/
def blockedOnStage (h : Hart) : Bool :=
  match h.vq with
  | e :: _ => e.begun && e.word.extractLsb' 26 6 == 0x2E &&
    (e.word.extractLsb' 0 5 == 5 || (e.word.extractLsb' 0 5 == 4 && decide (e.cfg.est < e.a0.toNat)))
  | [] => false

/-- The end of an interval on a die; the next one lasts from there on (R308–R311). -/
def cinchInterval (d : Nat) (s : State) : State :=
  let x := s.die d
  let last := x.cinchLast.toNat
  let pend := bitOf last 9
  let ivls := bitsOf last 47 16 + 1
  let fresh := fun (x : Die) => { x with
    cinchTime := x.cinchTime + 2 ^ x.cinchIvl.toNat, squeues := x.squeues.map fun q => { q with samples := 0, sum := 0 } }
  match (if x.cinchEn = 1 && !pend then donor x else none), recipient x with
  | some a, some b =>
    let core := (coresOfStage x a).foldl Nat.max 0
    let s := s.setDie d (fresh { x with cinchLast := cinchWord a b core true true ivls })
    (hartsOf (48 * d + core)).foldl (fun s n =>
      let h := s.hartAt n
      if blockedOnStage h then s.setHartAt n { h with trap := { h.trap with ipend := h.trap.ipend ||| 4 } } else s) s
  | _, _ => s.setDie d (fresh { x with
      cinchLast := cinchWord (bitsOf last 3 0) (bitsOf last 7 4) (bitsOf last 15 10) false pend ivls })

/-- CINCH_INTERVAL (R309): the die of the hart in focus, once the interval has lasted 2^IVL cycles (R308). -/
def execCinchInterval (s : State) : Host.Outcome State Fault Refusal :=
  runEvent (do
    let s ← get
    let x := s.myDie
    if x.stages.isEmpty || s.time < x.cinchTime + 2 ^ x.cinchIvl.toNat then block
    modify (cinchInterval (dieOf s.id))) s

/-- A task of a stage runs on a hart. -/
def runsStage (s : State) (stage n : Nat) : Bool :=
  busy s n && (s.hartAt n).task.desc.stv && (s.hartAt n).task.desc.stg.toNat == stage

/-- The moved core joins the recipient stage once no task of the donor runs on it, repartitioned where the recipient's word differs
(R310); where another task still runs on it, that waits for the recipient's first task (R190). -/
def cinchComplete (d : Nat) (s : State) : Option State :=
  let x := s.die d
  let last := x.cinchLast.toNat
  let core := bitsOf last 15 10
  let harts := hartsOf (48 * d + core)
  if bitOf last 9 && !harts.any (runsStage s (bitsOf last 3 0)) then
    let part := (x.stages.getD (bitsOf last 7 4) ⟨Descriptor.none, 0⟩).desc.part
    let k := s.core (48 * d + core)
    let s := if k.part.extractLsb' 0 30 = part || harts.any (busy s) then s else s.setCore (48 * d + core) (k.repartitioned part)
    some (s.setDie d { x with
      stageOf := sparsePut none x.stageOf core (some (BitVec.ofNat 4 (last / 2 ^ 4)))
      cinchLast := cinchWord (bitsOf last 3 0) (bitsOf last 7 4) core (bitOf last 8) false (bitsOf last 47 16) })
  else none

/-- CINCH_MOVE_COMPLETE (R310): the die of the hart in focus. -/
def execCinchMoveComplete (s : State) : Host.Outcome State Fault Refusal :=
  runEvent (do
    match cinchComplete (dieOf s.id) (← get) with
    | some s' => set s'
    | none => block) s

/-! ## QPUSH and QPOP (R304–R306) -/

/-- QPUSH (R305): Pushes records into a stage queue, blocking for room. A write to the queue clears error marks (R330). The
end-of-stream is counted after the last records stand in the queue: in a turn of its own where the vector unit lags (R352). -/
def performQpush (d : BitVec 7) (eos : BitVec 1) (q : BitVec 5) (e : Entry) : M Unit :=
  do
  let c := e.cfg
  let x ← stageQueue q true e.begun
  let n := e.a0.toNat
  if 4096 < n || c.rcN * 4096 < n * x.rsize || (n = 0 && eos = 0) then strf q.toNat 8
  vrun c [Opnd.rawIn d d.toNat c.rcN] (do
    let k := c.est
    if k < n then release
    let free := 2 ^ x.ldepth - x.records.length
    let f := Nat.min free (n - k)
    let v := (← getHart).vec
    let x := { x with
      records := x.records ++ (List.range f).map fun r => recordAt v c d x.rsize (k + r)
      marks := x.marks.filter (· < x.records.length) }
    putStageQueue q x
    if k + f < n then do
      setProgress (k + f)
      stageBlock
    else if eos = 1 && k < n && (← get).lag then do
      setProgress n
      block
    else if eos = 1 then putStageQueue q { x with eosLeft := if x.eosLeft = 0 then 0 else x.eosLeft - 1 }
    else pure ())

/-- QPUSH: dispatch (R416) and execution. -/
def execQpush (d : BitVec 7) (a : BitVec 7) (e : BitVec 1) (q : BitVec 5) (s : State) : Host.Outcome State Fault Refusal :=
  dispatchV (encQpush d a e q).toWord 0 { a := .scalar a } (performQpush d e q) s

/-- QPOP (R306): Pops up to n records from a stage queue and delivers the count. A record with an error mark among them raises MCE, and
nothing is popped (R330); XVAL is the queue's number (DEDUCED, log 86). -/
def performQpop (d : BitVec 7) (q : BitVec 5) (e : Entry) : M Unit :=
  do
  let c := e.cfg
  let x ← stageQueue q false e.begun
  let n := e.a0.toNat
  if n < 1 || 4096 < n || c.rcN * 4096 < n * x.rsize then strf q.toNat 8
  let os := [Opnd.rawOut d d.toNat c.rcN]
  if x.records.isEmpty && x.eosLeft = 0 then do
    prepareOpnds c c.count c.et os
    deliver 0
  else vrun c os (do
    if x.records.isEmpty then stageBlock
    needRoom
    let f := Nat.min x.records.length n
    trapIf (x.marks.any (· < f)) .mce (q.zeroExtend 64)
    putStageQueue q { x with records := x.records.drop f, marks := (x.marks.filter (f ≤ ·)).map (· - f) }
    let bytes := (x.records.take f).flatten
    forN bytes.length fun i => wrAt c d.toNat (i / 4096) (i % 4096) 8 (bytes.getD i 0).toNat
    deliver (BitVec.ofNat 64 f))

/-- QPOP: dispatch (R416) and execution. -/
def execQpop (d : BitVec 7) (a : BitVec 7) (q : BitVec 5) (s : State) : Host.Outcome State Fault Refusal :=
  dispatchV (encQpop d a q).toWord 0 { a := .scalar a } (performQpop d q) s

end Sys2Proof.Machine
end

