-- ==== Sys2Proof/Machine/Gather.lean ====
section
/-! DEFINITION. The gather engine (R324–R328): the GATH family, and the error that a hart takes after a command was accepted. -/

namespace Sys2Proof.Machine

/-- Row bytes, ADD type and row count of a row descriptor (R324). -/
def gathR (e : Entry) : Nat := bitsOf e.b1.toNat 12 0
def gathAdd (e : Entry) : Nat := bitsOf e.b1.toNat 14 13
def gathRows (e : Entry) : Nat := bitsOf e.b1.toNat 47 16

/-- The row descriptor breaks R324. -/
def gathBad (e : Entry) : Bool :=
  gathR e % 4 != 0 || gathR e < 4 || 4096 < gathR e || 2 ≤ gathAdd e || bitOf e.b1.toNat 15 || gathRows e == 0 ||
  bitsOf e.b1.toNat 63 48 != 0

/-- Rows that the records of a tile of records take (R325). -/
def gathSpan (c : VConf) (e : Entry) : Nat := (c.count * gathR e + 4095) / 4096

/-- The first checks of R325, and that the gather engine of the die is not fenced (R212). -/
def gathCheck (c : VConf) (e : Entry) : M Unit := do
  needUnit 65
  if gathBad e then trap .matf e.b1
  trapIf (e.b0.toNat % 4 != 0) .matf e.b0
  trapIf (131072 < c.count * gathR e) .matf (BitVec.ofNat 64 (c.count * gathR e))

/-- The operands: the index tile, and the rows of the records. -/
def gathOpnds (c : VConf) (e : Entry) (d a : BitVec 7) (write : Bool) : List Opnd :=
  if gathSpan c e = 0 then [Opnd.src c a]
  else [Opnd.src c a, if write then Opnd.rawOut d d.toNat (gathSpan c e) else Opnd.rawIn d d.toNat (gathSpan c e)]

/-- The active positions and their indices, with the check of every index (R325). -/
def gathIndices (c : VConf) (e : Entry) (a : BitVec 7) (m : BitVec 1) : M (List (Nat × Nat)) := do
  let (v, act) ← sources c m [a]
  let xs := ((List.range c.count).filter act).map fun j => (j, v.el c a j)
  match xs.find? fun p => gathRows e ≤ p.2 with
  | some (j, _) => trap .matf (BitVec.ofNat 64 j)
  | none => pure xs

/-- Address of word k of table row i (R325). -/
def gathAddr (e : Entry) (i k : Nat) : Word := e.b0 + BitVec.ofNat 64 (i * gathR e + 4 * k)

/-- Position of word k of record j: the row and the 32-bit element. -/
def recordRow (e : Entry) (j k : Nat) : Nat := (j * gathR e + 4 * k) / 4096
def recordPos (e : Entry) (j k : Nat) : Nat := (j * gathR e + 4 * k) % 4096 / 4

/-- Word k of record j of the tile at d. -/
def recordWord (v : VecRegs) (c : VConf) (e : Entry) (d : BitVec 7) (j k : Nat) : Nat :=
  tileElem v c.vwb.toNat d.toNat (recordRow e j k) (recordPos e j k) 32

/-- The distinct indices of a list, in order of appearance. -/
def distinct (xs : List Nat) : List Nat := xs.foldl (fun acc i => if acc.contains i then acc else acc ++ [i]) []

/-- The word that RGSTAT delivers after a command (R328). -/
def gathDone (xs : List (Nat × Nat)) : M Unit :=
  modHart fun h => { h with
    gathered := BitVec.ofNat 64 (xs.length + 2 ^ 32 * (distinct (xs.map Prod.snd)).length) }

/-- `masked` for record j (R326). -/
def maskedRecord (c : VConf) (e : Entry) (d : BitVec 7) (j : Nat) : M Unit :=
  if j < c.est then pure ()
  else forN (gathR e / 4) fun k =>
    if c.maskmode = 1 then wrAt c d.toNat (recordRow e j k) (recordPos e j k) 32 0
    else clearAt c d.toNat (recordRow e j k)

/-- Check every word of the active rows at acceptance (R327). -/
def scatterCheck (e : Entry) (k : Access) (xs : List (Nat × Nat)) : M Unit := do
  let priv ← privNow
  xs.foldlM (fun _ p => forN (gathR e / 4) fun w => do
    let a := gathAddr e p.2 w
    trapIf (a.toNat % 4 != 0) .align a
    stallOn false a.toNat 4 true
    let _ ← translateAt priv k .other a 4
    pure ()) ()

/-- Wait for the interlocks of every word that RGATHER will read, before it reads one: its positions are then performed in one go and
count from its ESTART (R199, R328). -/
def gatherWaits (e : Entry) (xs : List (Nat × Nat)) : M Unit :=
  xs.foldlM (fun _ p => forN (gathR e / 4) fun k => stallOn false (gathAddr e p.2 k).toNat 4 false) ()

/-- RSCAT and RSCATADD (R327): what happens at each distinct row, after the checks; a fault restarts the whole command. -/
def scatter (d a : BitVec 7) (m : BitVec 1) (e : Entry) (k : Access)
    (row : VecRegs → List Nat → Nat → M Unit) : M Unit := do
  let c := e.cfg
  maskVl c m
  gathCheck c e
  vrun c (gathOpnds c e d a false) (do
    let xs ← gathIndices c e a m
    match ← attempt (scatterCheck e k xs) with
    | .error .stall => stall
    | .error st => do setProgress 0; throw st
    | .ok _ => do
      let v := (← getHart).vec
      (distinct (xs.map Prod.snd)).foldlM (fun _ i =>
        row v ((xs.filter fun p => p.2 == i).map Prod.fst) i) ()
      gathDone xs)

/-- Combine word k of the records of one row in ascending j (R327). -/
def gatherSum (v : VecRegs) (c : VConf) (e : Entry) (d : BitVec 7) (k : Nat) (js : List Nat) : Rounded :=
  combineAll (if gathAdd e = 0 then 0 else 1) (js.map fun j => recordWord v c e d j k)

/-- DEFERRED_MCE (R327): the hart in focus takes an error of an accepted command, or of a lost remote store, in the vector
stream. -/
def deferredMce : M Unit := do
  match (← getHart).pendMce with
  | [] => block
  | a :: as => do
    modHart fun h => { h with pendMce := as }
    trapEntry true .mce a

/-- DEFERRED_MCE (R327). -/
def execDeferredMce (s : State) : Host.Outcome State Fault Refusal := runEvent deferredMce s

/-- RGATHER (R326): Gathers table rows at listed indices into records. -/
def performRgather (d : BitVec 7) (a : BitVec 7) (m : BitVec 1) (e : Entry) : M Unit :=
  do
  let c := e.cfg
  maskVl c m
  gathCheck c e
  vrun c (gathOpnds c e d a true) (do
    trapIf (gathSpan c e != 0 && overlaps d.toNat (gathSpan c e) a.toNat c.rcN) .matf (d.zeroExtend 64)
    let xs ← gathIndices c e a m
    gatherWaits e xs
    forN c.count fun j =>
      match xs.find? fun p => p.1 == j with
      | some (_, i) => atElem j do
        let ws ← mapFrom (gathR e / 4) 0 fun k => vread .other (gathAddr e i k) 4
        forN (gathR e / 4) fun k => wrAt c d.toNat (recordRow e j k) (recordPos e j k) 32 (ws.getD k 0)
      | none => maskedRecord c e d j
    gathDone xs)

/-- RGATHER: dispatch (R416) and execution. -/
def execRgather (d : BitVec 7) (a : BitVec 7) (b : BitVec 7) (m : BitVec 1) (s : State) : Host.Outcome State Fault Refusal :=
  dispatchV (encRgather d a b m).toWord 0 { etypes := fun t => t == 3 || t == 4, b := .pair b } (performRgather d a m) s

/-- RSCAT (R327): Scatters records to table rows. -/
def performRscat (d : BitVec 7) (a : BitVec 7) (m : BitVec 1) (e : Entry) : M Unit :=
  scatter d a m e .store fun v js i => do
    let j := js.getLastD 0
    forN (gathR e / 4) fun k => do
      let w := gathAddr e i k
      let pa ← translateAt (← privNow) .store .other w 4
      storeAt w pa 4 (recordWord v e.cfg e d j k)

/-- RSCAT: dispatch (R416) and execution. -/
def execRscat (d : BitVec 7) (a : BitVec 7) (b : BitVec 7) (m : BitVec 1) (s : State) : Host.Outcome State Fault Refusal :=
  dispatchV (encRscat d a b m).toWord 0 { etypes := fun t => t == 3 || t == 4, b := .pair b } (performRscat d a m) s

/-- RSCATADD (R327): Adds combined records into table rows atomically. -/
def performRscatadd (d : BitVec 7) (a : BitVec 7) (m : BitVec 1) (e : Entry) : M Unit :=
  scatter d a m e .atomic fun v js i =>
    forN (gathR e / 4) fun k => do
      let w := gathAddr e i k
      let pa ← translateAt (← privNow) .atomic .other w 4
      match ← attempt (checkPoison pa 4 w) with
      | .error _ => modHart fun h => { h with pendMce := h.pendMce ++ [w] }
      | .ok _ => do
        let (x, fl) := gatherSum v e.cfg e d k js
        let (y, fl') := combine (if gathAdd e = 0 then 0 else 1) ((← get).memNat pa 4) x
        if !js.all (padded v e.cfg a) then setFlags (fl ||| fl')
        modify fun s => s.putNat pa 4 y

/-- RSCATADD: dispatch (R416) and execution. -/
def execRscatadd (d : BitVec 7) (a : BitVec 7) (b : BitVec 7) (m : BitVec 1) (s : State) : Host.Outcome State Fault Refusal :=
  dispatchV (encRscatadd d a b m).toWord 0 { etypes := fun t => t == 3 || t == 4, b := .pair b } (performRscatadd d a m) s

/-- RGSTAT (R328): Delivers counts of the last gather command. -/
def performRgstat (_ : Entry) : M Unit :=
  do deliver (← getHart).gathered

/-- RGSTAT: dispatch (R416) and execution. -/
def execRgstat (s : State) : Host.Outcome State Fault Refusal :=
  dispatchV (encRgstat).toWord 0 { afterVrel := true } (performRgstat) s

end Sys2Proof.Machine
end

