-- ==== Sys2Proof/Machine/Near.lean ====
section
/-! DEFINITION. KV cache translation (R385–R394) and the shortlist filter (R358–R360): the NEAR family, and the end of a
page-in. -/

namespace Sys2Proof.Machine

/-! ## Events (R390) and the page-in (R391) -/

/-- An event record. -/
def eventBytes (page kind : Nat) (v : Word) : List Byte := leBytes 4 page ++ leBytes 4 kind ++ leBytes 8 v.toNat

/-- Free slots of a ring. -/
def Ring.free (r : Ring) : Nat := r.cap - r.used

/-- Send the records of an ended page-in until a ring is full: those still to be sent. -/
def sendEvents (kind : Nat) (v : Word) : List Miss → M (List Miss)
  | [] => pure []
  | m :: ms => do
    if ← postFor none m.ringCore m.ring (eventBytes m.page.toNat kind v) then sendEvents kind v ms else pure (m :: ms)

/-- Copy a block of a package from a frame to another, byte for byte (R391); false where it names an absent target, data that is marked
or a fenced unit. -/
def copyFrame (q src dst : Nat) : M Bool := do
  let s ← get
  let n := (s.pkg q).kv2bs.toNat * 4096
  if absent s q src || absent s q (src + n - 1) || absent s q dst || absent s q (dst + n - 1) || isControlWindow src ||
      isControlWindow dst || s.marked src n || fencedSpan s src n || fencedSpan s dst n then pure false
  else do
    set (s.putBytes dst (sparseGetList memDefault s.mem src n))
    pure true

/-- Set TIER of a local entry after a page-in (R391): 0 where the asking package owns the block, else 1. -/
def retier (q : Nat) (m : Miss) (s : State) : State :=
  let e := s.memNat m.local'.toNat 8
  s.putNat m.local'.toNat 8 (e - 2 * bitsOf e 2 1 + (if m.asker = q then 0 else 2))

/-- The copy of a page-in ends: the frame popped at its start serves the block, or it fails and goes back (R391); the releases that waited are made (R387). -/
def endPageIn (q : Nat) (p : PageIn) : M PageIn := do
  let s ← get
  let g := p.block.toNat
  let e := stage2 s q g
  let a := (stage2At s q g).getD 0
  let cxl := stage2Frame e
  let moved ← (match p.frame with
    | none => pure none
    | some f => do
      if ← copyFrame q cxl f.toNat then pure (some f.toNat)
      else do
        pushStack q (s.pkg q).kvhstk.toNat f.toNat
        pure none)
  let res ← (match moved with
    | none => do
      modify fun s => s.putNat a 8 (if bitOf e 3 then e - 8 else e)
      pure (4, p.block)
    | some f => do
      modify fun s => s.putNat a 8 (bitsOf e 11 4 * 16 + 1 + bitsOf f 51 12 * 4096)
      pushStack q (s.pkg q).kvcstk.toNat cxl
      modify fun s => p.misses.foldl (fun s m => retier q m s) s
      pure (3, BitVec.ofNat 64 f))
  let p' : PageIn := { p with ended := some res, releases := 0 }
  modPkg q fun k => { k with
    pageIns := k.pageIns.map fun x => if x.block = p.block && x.ended.isNone then p' else x }
  forN p.releases fun _ => releaseBlock q g
  pure p'

/-- PAGE_IN_COMPLETE (R391): page-in `idx` of the package of the hart in focus ends, or sends its records once it has ended: they may come
any time later (R409), and those that full rings keep back later still. One with no record to send leaves as it ends. -/
def execPageInComplete (idx : BitVec 4) (s : State) : Host.Outcome State Fault Refusal :=
  runEvent (do
    let q := pkgOf (← get).id
    match ((← get).pkg q).pageIns[idx.toNat]? with
    | none => block
    | some p => do
      let rest ← (match p.ended with
        | none => do
          let p ← endPageIn q p
          pure p.misses
        | some (kind, v) => do
          let rest ← sendEvents kind v p.misses
          modPkg q fun k => { k with pageIns := k.pageIns.set idx.toNat { p with misses := rest } }
          pure rest)
      if rest.isEmpty then modPkg q fun k => { k with pageIns := k.pageIns.eraseIdx idx.toNat }) s

/-! ## Resolving pages -/

/-- The owner of a mapped entry is reachable and answers, or MCE with the entry's address (R395). -/
def needOwner (v : Word) (e : Nat) : M Unit := do
  needAnswer (kvOwner e) v
  let s ← get
  trapIf (!reachable s (pkgOf s.id) (kvOwner e)) .mce v

/-- The second-stage entry of a mapped local entry can be read at its owner: an absent address raises PROT and an error mark MCE, with
the address of the local entry as a failure of the resolution has it (R315, R330, R389, R395; log 89). -/
def needStage2 (v : Word) (e : Nat) : M Unit := do
  let s ← get
  match stage2At s (kvOwner e) (kvBlock e) with
  | none => pure ()
  | some a => do
    trapIf (absent s (kvOwner e) a || isControlWindow a) .prot v
    trapIf (s.marked a 8) .mce v

/-- What a mapped local entry needs: its owner is reachable, and its second-stage entry can be read. -/
def needResolved (v : Word) (e : Nat) : M Unit := do
  if kvMapped e then do
    needOwner v e
    needStage2 v e

/-- A local entry with its physical address, read by the vector agent with the second-stage entry of a mapped one. -/
def readLocal (v : Word) (k : Access) : M (Nat × Nat) := do
  stallOn false v.toNat 8 (k == .atomic)
  let pa ← translateAt (← privNow) k .other v 8
  checkPoison pa 8 v
  let e := (← get).memNat pa 8
  needResolved v e
  pure (pa, e)

/-- A page-in pops its frame from the owner's stack as it starts, so that page-ins take frames in the order in which they start (R391,
R408); `none` where the stack is empty. -/
def takeFrame (q : Nat) : M (Option Word) := do
  let s ← get
  match popStack (s.pkg q).kvhstk.toNat s with
  | none => pure none
  | some (f, s') => do
    set s'
    pure (some (BitVec.ofNat 64 f))

/-- What KVXLT does at an active position (R389): address, and the kind and block of the event. -/
def resolve (page : Nat) (ring : Word) (pa e : Nat) : M (Nat × Option (Nat × Nat)) := do
  let s ← get
  let q := kvOwner e
  let g := kvBlock e
  let x := if kvMapped e then stage2 s q g else 0
  let miss : Miss := ⟨BitVec.ofNat 32 page, ring, coreOf s.id, BitVec.ofNat 64 pa, pkgOf s.id⟩
  if !allocated x then pure (0, some (2, g))
  else if stage2Cxl x && !bitOf x 3 then do
    modify fun s => s.putNat ((stage2At s q g).getD 0) 8 (x + 8)
    let frame ← takeFrame q
    modPkg q fun k => { k with pageIns := k.pageIns ++ [⟨BitVec.ofNat 64 g, frame, s.id, [miss], 0, none⟩] }
    pure (0, some (0, g))
  else if stage2Cxl x then do
    modPageIn q g fun p => { p with misses := p.misses ++ [miss] }
    pure (0, some (1, g))
  else pure (stage2Frame x, none)

/-- Phase 2 of KVXLT for the positions of a row, in order: the new predicate and the number of events. -/
def xlatFrom (c : VConf) (d : BitVec 7) (ring : Word) (look : Nat → Option (Nat × Nat × Nat)) :
    Nat → Nat → BitVec 1024 → Nat → M (BitVec 1024 × Nat)
  | 0, _, p, n => pure (p, n)
  | k + 1, i, p, n => do
    let off := p &&& ~~~(BitVec.ofNat 1024 (2 ^ i))
    match look i with
    | none => do
      maskedW c d.toNat 32 i
      maskedW c (d.toNat + 1) 32 i
      xlatFrom c d ring look k (i + 1) (if c.maskmode = 1 then off else p) n
    | some (page, pa, e) => do
      let (f, ev) ← resolve page ring pa e
      wrW c d.toNat 32 i (f % 2 ^ 32)
      wrW c (d.toNat + 1) 32 i (f / 2 ^ 32)
      match ev with
      | none => xlatFrom c d ring look k (i + 1) (off ||| BitVec.ofNat 1024 (2 ^ i)) n
      | some (kind, g) => do
        let s ← get
        ringWaits (coreOf s.id) ring 16 s.myCore.locks s.id
        let _ ← postRecord (coreOf s.id) ring (eventBytes page kind (BitVec.ofNat 64 g))
        xlatFrom c d ring look k (i + 1) off (n + 1)

/-- KVCOMMIT and KVROLL from page p on: entries cleared and CNT values changed (R392). -/
def trimFrom (roll : Bool) (base : Word) (t : Nat) : Nat → Nat → Nat → Nat → M (Nat × Nat)
  | 0, _, x, y => pure (x, y)
  | n + 1, p, x, y => do
    let v := localAt base p
    stallOn false v.toNat 8 false
    let e ← rdmem .other v 8
    if !(kvMapped e && kvSpec e) then trimFrom roll base t n (p + 1) x y
    else do
      needResolved v e
      match trimmed roll t p e with
      | none => trimFrom roll base t n (p + 1) x y
      | some e' => do
        vwrite .other v 8 e'
        if t ≤ 16 * p then do
          releaseBlock (kvOwner e) (kvBlock e)
          trimFrom roll base t n (p + 1) (x + 1) y
        else trimFrom roll base t n (p + 1) x (if 16 * p + kvCnt e ≤ t then y else y + 1)

/-- KVCOMMIT and KVROLL (R392). -/
def trimTable (roll : Bool) (a : BitVec 7) (e : Entry) : M Unit := do
  setProgress 0
  if bitsOf e.a1.toNat 63 16 != 0 || e.a1.toNat % 2 ^ 16 = 0 then strf a.toNat 5
  trapIf (e.a0.toNat % 8 != 0) .align e.a0
  needRoom
  let (x, y) ← trimFrom roll e.a0 e.b0.toNat (e.a1.toNat % 2 ^ 16) 0 0 0
  deliver (BitVec.ofNat 64 (x + 2 ^ 32 * y))

/-- How often a block occurs among the entries to be shared. -/
def shareCount (xs : List (Nat × Nat × Nat)) (q g : Nat) : Nat :=
  (xs.filter fun p => kvMapped p.2.2 && kvOwner p.2.2 == q && kvBlock p.2.2 == g).length

/-- Page p of KVFORK is checked (R393): the physical addresses of both entries, and the source entry. -/
def forkCheck (a : BitVec 7) (src dst : Word) (p : Nat) : M (Nat × Nat × Nat) := do
  let (spa, e) ← readLocal (localAt src p) .load
  stallOn false (localAt dst p).toNat 8 true
  let dpa ← translateAt (← privNow) .atomic .other (localAt dst p) 8
  checkPoison dpa 8 (localAt dst p)
  let s ← get
  if kvSpec e || bitOf (s.memNat dpa 8) 0 then strf a.toNat 5
  if kvMapped e && allocated (stage2 s (kvOwner e) (kvBlock e)) then do
    stallOn false (localAt src p).toNat 8 true
    let _ ← translateAt (← privNow) .store .other (localAt src p) 8
  pure (spa, dpa, e)

/-- Copy an entry, with SHARED in both copies and one more sharer at the owner where the block is allocated (R393). -/
def forkEntry (x : Nat × Nat × Nat) (s : State) : State :=
  let (spa, dpa, e) := x
  let q := kvOwner e
  let g := kvBlock e
  if kvMapped e && allocated (stage2 s q g) then
    let e' := if bitOf e 4 then e else e + 16
    let s := (s.putNat spa 8 e').putNat dpa 8 e'
    s.putNat ((stage2At s q g).getD 0) 8 (stage2 s q g + 16)
  else s.putNat dpa 8 e

/-! ## The shortlist filter (R358–R360) -/

/-- Fields of the control word of SHLST. -/
def shSlot (w : Nat) : Nat := bitsOf w 3 0
def shFirst (w : Nat) : Bool := bitOf w 4
def shLast (w : Nat) : Bool := bitOf w 5
def shK (w : Nat) : Nat := bitsOf w 16 8

/-- An FP32 operation to nearest-even; the filter sets no flag. -/
def quietRne (x : Ex × Flags) : Nat := (rne x.1).1

/-- One chunk of a row passes the filter: the running maximum and sum (R359). -/
def filterChunk (cs : Nat) (m s : Nat) (xs : List Nat) : Nat × Nat :=
  let ts := (xs.filter fun x => !fp32.isNan x).map fun x => quietRne ((v32 cs).mul (v32 x))
  let mn := ts.foldl (fun r t => (fp32.pick true r t).1) m
  let al := if (fp32.eqVal m mn).1 then 0x3F800000 else (ex2 (quietRne ((v32 m).add 0 (v32 mn).negate))).1
  let es := ts.map fun t => (ex2 (quietRne ((v32 t).add 0 (v32 mn).negate))).1
  let sum := (pairReduce (fp32.sum 0) (es.length + 1) es).1
  (mn, quietRne ((v32 (quietRne ((v32 al).mul (v32 s)))).add 0 (v32 sum)))

/-- The elements of a strip by 2 KiB chunk of the store address, in rising address order: position and pattern. -/
def stripChunks (a0 : Nat) (xs : List (Nat × Nat)) : List (List Nat) :=
  let chunks := (xs.map fun p => (a0 + 4 * p.1) / 2048).eraseDups
  chunks.map fun k => (xs.filter fun p => (a0 + 4 * p.1) / 2048 == k).map Prod.snd

/-- Insert into the list in descending order under R158, ties lower index first, and keep K (R359). -/
def keepTop (k : Nat) (l : List (BitVec 32 × BitVec 32)) (xs : List (Nat × Nat)) : List (BitVec 32 × BitVec 32) :=
  let all := l.map (fun p => (p.1.toNat, p.2.toNat)) ++ xs
  let byIdx := sortKeys (fun x y => x < y) (all.map fun p => (p.2, p.1))
  let sorted := sortKeys (fun x y => prec 2 true x y) (byIdx.map fun p => (p.2, p.1))
  (sorted.take k).map fun p => (BitVec.ofNat 32 p.1, BitVec.ofNat 32 p.2)

/-- A strip passes a slot (R359). -/
def passStrip (sl : Slot) (cs k a0 base : Nat) (xs : List (Nat × Nat)) : Slot :=
  let (m, s) := (stripChunks a0 xs).foldl (fun (acc : Nat × Nat) ch => filterChunk cs acc.1 acc.2 ch)
    (sl.m.toNat, sl.s.toNat)
  { sl with
    m := BitVec.ofNat 32 m
    s := BitVec.ofNat 32 s
    list := keepTop k sl.list (xs.map fun p => (p.2, (base + p.1) % 2 ^ 32))
    nan := sl.nan || xs.any fun p => fp32.isNan p.2 }

/-- The record of a row (R360). -/
def slotRecord (sl : Slot) : List Byte :=
  leBytes 4 sl.list.length ++ leBytes 4 sl.m.toNat ++ leBytes 4 sl.s.toNat ++ leBytes 4 sl.nan.toNat ++
  sl.list.flatMap (fun p => leBytes 4 p.1.toNat) ++ sl.list.flatMap fun p => leBytes 4 p.2.toNat

/-- Replace a slot of a die. -/
def putSlot (d n : Nat) (x : Option Slot) : M Unit := modDie d fun k => { k with slots := sparsePut none k.slots n x }

/-- Write the record of a slot with `post`; a full ring keeps it back, and the slot stays held (R360). -/
def postSlot (post : Nat → Word → List Byte → M Bool) (d n : Nat) (sl : Slot) : M Unit := do
  if ← post sl.ringCore sl.ring (slotRecord sl) then putSlot d n none
  else putSlot d n (some { sl with ready := true })

/-- Values that the ring of a held slot takes (R359); a ring whose header has become malformed bounds nothing (R200). -/
def slotCap (s : State) (sl : Slot) : Nat :=
  match ringHeader s sl.ringCore (bitsOf sl.ring.toNat 20 0) with
  | some r => (r.slot - 16) / 8
  | none => 256

/-- The checks of SHLST (R359). A strip of the task that holds the slot waits there while the record of the row before it waits for a full
ring, which keeps the slot held (R360; DESIGN CHOICE, log 117). -/
def shCheck (a b : BitVec 7) (e : Entry) : M Unit := do
  let s ← get
  let w := e.a1.toNat
  if bitsOf w 31 17 != 0 || bitsOf w 7 6 != 0 || shK w < 1 || 256 < shK w then strf a.toNat 5
  if 2 ^ 32 ≤ e.b0.toNat then strf b.toNat 5
  if shFirst w then do
    if ringAddrBad s e.b1.toNat then strf b.toNat 5
    let (_, _, r) ← needRing (ringOf e.b1) b
    if (r.slot - 16) / 8 < shK w then strf a.toNat 5
  let held := sparseGet none s.myDie.slots (shSlot w)
  match held with
  | some sl => do
    if shFirst w || sl.owner != s.hart.task.id then strf a.toNat 5
    if sl.ready then block
    if slotCap s sl < shK w then strf a.toNat 5
  | none => if shFirst w then pure () else strf a.toNat 5
  trapIf (e.a0.toNat % 2048 != 0) .align e.a0

/-- SHLST (R359): Stores a logit strip and feeds it to a shortlist filter slot. Where the record has to wait for a transfer (R199), or meets
a fenced core (R262), every element has been stored, and a restart stores none again. -/
def performShlst (d : BitVec 7) (a : BitVec 7) (b : BitVec 7) (m : BitVec 1) (e : Entry) : M Unit :=
  do
  let c := e.cfg
  maskVl c m
  vrun c [Opnd.src c d] (do
    shCheck a b e
    let (v, act) ← sources c m [d]
    forN c.count fun j =>
      if act j then atElem j (vwrite .other (e.a0 + BitVec.ofNat 64 (4 * j)) 4 (v.el c d j)) else pure ()
    let s ← get
    let w := e.a1.toNat
    let n := shSlot w
    let p := predOf v c.psel.toNat
    let xs := ((List.range c.count).filter fun j => activeFrom0 c m p j && inStrip v c d j).map fun j => (j, v.el c d j)
    let fresh : Slot := ⟨s.hart.task.id, ringOf e.b1, coreOf s.id, 0xFF800000, 0, [], false, false⟩
    let sl := if shFirst w then fresh else (sparseGet none s.myDie.slots n).getD fresh
    let sl := passStrip sl (bitsOf w 63 32) (shK w) e.a0.toNat e.b0.toNat xs
    if shLast w then do
      setProgress c.count
      ringWaits sl.ringCore sl.ring (slotRecord sl).length s.myCore.locks s.id
      postSlot postRecord (dieOf s.id) n sl
    else putSlot (dieOf s.id) n (some sl))

/-- SHLST: dispatch (R416) and execution. -/
def execShlst (d : BitVec 7) (a : BitVec 7) (b : BitVec 7) (m : BitVec 1) (s : State) : Host.Outcome State Fault Refusal :=
  dispatchV (encShlst d a b m).toWord 0 { etypes := fun t => t == 5, a := .pair a, b := .pair b } (performShlst d a b m) s

/-- KVXLT (R389): Resolves KV pages to frames and posts tier-miss events. -/
def performKvxlt (d : BitVec 7) (a : BitVec 7) (b : BitVec 7) (m : BitVec 1) (e : Entry) : M Unit :=
  do
  setProgress 0
  let c := e.cfg.from0
  trapIf (c.rcN != 1) .matf (BitVec.ofNat 64 c.rcN)
  needPredVl c
  vrun c [Opnd.src c a, Opnd.dst c d, Opnd.dstAt c d 1] (do
    let w := e.b1.toNat
    let npg := bitsOf w 47 32
    if ringAddrBad (← get) (w - 2 ^ 32 * npg) || npg = 0 then strf b.toNat 5
    trapIf (e.b0.toNat % 8 != 0) .align e.b0
    let (v, act) ← sources c m [a]
    let on := (List.range c.vlN).filter act
    match on.find? fun i => npg ≤ v.el c a i with
    | some i => trap .matf (BitVec.ofNat 64 i)
    | none => pure ()
    let ring := ringOf e.b1
    let (_, _, r) ← needRing ring b
    if r.free < c.vlN then block
    let xs ← on.foldlM (fun acc i => do
      let page := v.el c a i
      let (pa, x) ← readLocal (localAt e.b0 page) .load
      pure (acc ++ [(i, page, pa, x)])) []
    needRoom
    let look := fun i => (xs.find? fun p => p.1 == i).map Prod.snd
    let (p, n) ← wholly (xlatFrom c d ring look c.vlN 0 (predOf v c.psel.toNat) 0)
    writePred c.psel.toNat p
    deliver (BitVec.ofNat 64 n))

/-- KVXLT: dispatch (R416) and execution. -/
def execKvxlt (d : BitVec 7) (a : BitVec 7) (b : BitVec 7) (m : BitVec 1) (s : State) : Host.Outcome State Fault Refusal :=
  dispatchV (encKvxlt d a b m).toWord 0 { etypes := fun t => t == 4, b := .pair b } (performKvxlt d a b m) s

/-- KVCOMMIT (R392): Commits speculative pages at token T, releasing pages beyond it. -/
def performKvcommit (a : BitVec 7) (e : Entry) : M Unit :=
  trimTable false a e

/-- KVCOMMIT: dispatch (R416) and execution. -/
def execKvcommit (a : BitVec 7) (b : BitVec 7) (s : State) : Host.Outcome State Fault Refusal :=
  dispatchV (encKvcommit a b).toWord 0 { afterVrel := true, a := .pair a, b := .scalar b } (performKvcommit a) s

/-- KVROLL (R392): Rolls speculative pages back to token T. -/
def performKvroll (a : BitVec 7) (e : Entry) : M Unit :=
  trimTable true a e

/-- KVROLL: dispatch (R416) and execution. -/
def execKvroll (a : BitVec 7) (b : BitVec 7) (s : State) : Host.Outcome State Fault Refusal :=
  dispatchV (encKvroll a b).toWord 0 { afterVrel := true, a := .pair a, b := .scalar b } (performKvroll a) s

/-- KVFORK (R393): Shares n pages of a table with another sequence. -/
def performKvfork (a : BitVec 7) (e : Entry) : M Unit :=
  do
  setProgress 0
  trapIf (e.a0.toNat % 8 != 0) .align e.a0
  trapIf (e.a1.toNat % 8 != 0) .align e.a1
  let n := e.b0.toNat
  let xs ← mapFrom n 0 (forkCheck a e.a0 e.a1)
  let s ← get
  if xs.any fun p => kvMapped p.2.2 &&
      (let x := stage2 s (kvOwner p.2.2) (kvBlock p.2.2)
       allocated x && 255 < stage2Shared x + shareCount xs (kvOwner p.2.2) (kvBlock p.2.2)) then strf a.toNat 5
  needRoom
  modify fun s => xs.foldl (fun s x => forkEntry x s) s
  deliver e.b0

/-- KVFORK: dispatch (R416) and execution. -/
def execKvfork (a : BitVec 7) (b : BitVec 7) (s : State) : Host.Outcome State Fault Refusal :=
  dispatchV (encKvfork a b).toWord 0 { afterVrel := true, a := .pair a, b := .scalar b } (performKvfork a) s

end Sys2Proof.Machine
end

