-- ==== Sys2Proof/Machine/Fabric.lean ====
section
/-! DEFINITION. Multicast stores (R379) and collectives (R380–R384): the FAB family, and the collective engine of a package. -/

namespace Sys2Proof.Machine

/-! ## Multicast (R379) -/

/-- The packages of a replica mask. -/
def packagesOf (b : Nat) : List Nat := (List.range 64).filter (bitOf b)

/-- The physical address with another package in bits 51:46. -/
def atPackage (pa p : Nat) : Nat := pa % 2 ^ 46 + p * 2 ^ 46

/-- Store one element at a physical address; a 4-bit element takes half of its byte. -/
def storeElement (v : Word) (w : Nat) (high : Bool) (x pa : Nat) : M Unit := do
  if w = 4 then do
    let old := ((← get).byteAt pa).toNat
    storeAt v pa 1 (if high then old % 16 + x % 16 * 16 else old / 16 * 16 + x % 16)
  else storeAt v pa (w / 8) x

/-- Element j of MCST: one translation, then a write for each package; an absent target of any of them is PROT (R315), a fenced one MCE
(R212). -/
def multicast (c : VConf) (e : Entry) (ps : List Nat) (j x : Nat) : M Unit := do
  let z := if c.width = 4 then 1 else c.width / 8
  let a := e.a0 + BitVec.ofNat 64 (if c.width = 4 then j / 2 else z * j)
  trapIf (a.toNat % z != 0) .align a
  stallOn false a.toNat z true
  let pa ← translateAt (← privNow) .store .other a z
  let s ← get
  let dest := ps.map (atPackage pa)
  trapIf (dest.any (absent s (pkgOf s.id))) .prot a
  trapIf (dest.any (fencedAt s)) .mce a
  dest.foldlM (fun _ t => storeElement a c.width (j % 2 == 1) x t) ()

/-! ## Collective records (R380) -/

def collKind (r : List (BitVec 32)) : Nat := bitsOf (recW r 5) 3 0
def collOp (r : List (BitVec 32)) : Nat := bitsOf (recW r 5) 7 4
def collType (r : List (BitVec 32)) : Nat := bitsOf (recW r 5) 11 8
def collRoot (r : List (BitVec 32)) : Nat := bitsOf (recW r 5) 17 12
def collN (r : List (BitVec 32)) : Nat := recW r 4
def collMask (r : List (BitVec 32)) : Nat := recW r 6 + 2 ^ 32 * recW r 7
def collTag (r : List (BitVec 32)) : Nat := recW r 8
def collSend (r : List (BitVec 32)) : Word := recBase r
def collRecv (r : List (BitVec 32)) : Word := BitVec.ofNat 64 (recW r 2 + 2 ^ 32 * recW r 3)

/-- The members of a collective, in rank order (R381). -/
def collMembers (r : List (BitVec 32)) : List Nat := packagesOf (collMask r)

/-- Words of a unit and bytes of a word (R381). -/
def collWords (r : List (BitVec 32)) : Nat := if collOp r = 3 then bitsOf (recW r 9) 15 0 else 1
def collBytes (r : List (BitVec 32)) : Nat := widthOf (collType r) / 8

/-- The number of the first offending element of a record issued by package p (R380). -/
def collBad (p : Nat) (r : List (BitVec 32)) : Option Nat :=
  let types := [3, 4, 5, 7]
  findFrom 12 4 fun i =>
    if i = 4 then collN r == 0
    else if i = 5 then 3 < collKind r || 3 < collOp r || !types.contains (collType r) || bitsOf (recW r 5) 31 18 != 0 ||
      (collOp r == 3 && (collType r != 5 || (collKind r != 0 && collKind r != 2))) ||
      (collKind r == 3 && !bitOf (collMask r) (collRoot r))
    else if i = 6 then p < 32 && !bitOf (collMask r) p
    else if i = 7 then 32 ≤ p && !bitOf (collMask r) p
    else if i = 8 then false
    else if i = 9 then
      if collOp r = 3 then recW r 9 < 3 || 1024 < recW r 9 else recW r 9 != 0
    else recW r i != 0

/-- Units that a member's send buffer and its receive buffer hold (R381). -/
def sendUnits (r : List (BitVec 32)) (p : Nat) : Nat :=
  match collKind r with
  | 2 => (collMembers r).length * collN r
  | 3 => if p = collRoot r then collN r else 0
  | _ => collN r
def recvUnits (r : List (BitVec 32)) : Nat :=
  if collKind r = 1 then (collMembers r).length * collN r else collN r

/-- The 4 KiB granules of n units at a base; an empty range lies above every address. -/
def unitGranules (r : List (BitVec 32)) (base : Word) (n : Nat) : Nat × Nat :=
  if n = 0 then (2 ^ 60, 0)
  else (base.toNat / 4096, (base.toNat + n * collWords r * collBytes r - 1) / 4096)

/-! ## Reductions (R381, R382) -/

/-- The identity of the OP, and the unit of an empty shard under all-gather and broadcast. -/
def identityUnit (r : List (BitVec 32)) : List Nat :=
  let f := fmtOf (collType r)
  if collKind r = 1 || collKind r = 3 then List.replicate (collWords r) 0
  else match collOp r with
    | 0 => [0]
    | 1 => [if isIntType (collType r) then wrapBits 32 (intMin (collType r)) else f.signPat true + f.infMag]
    | 2 => [if isIntType (collType r) then wrapBits 32 (intMax (collType r)) else f.infMag]
    | _ => 0xFF800000 :: List.replicate (collWords r - 1) 0

/-- One FP32 operation to nearest-even with every flag it sets. -/
def rneFlagged (x : Ex × Flags) : Rounded :=
  let (r, fl) := rne x.1
  (r, x.2 ||| fl)

/-- The factor of a state with maximum m under the new maximum. -/
def mergeFactor (m mn : Nat) : Rounded :=
  if (fp32.eqVal m mn).1 then (0x3F800000, 0)
  else
    let (d, fl) := rneFlagged ((v32 m).add 0 (v32 mn).negate)
    let (x, fl') := ex2 d
    (x, fl ||| fl')

/-- rne(rne(a1·x) + rne(a2·y)). -/
def mergeWord (a1 a2 x y : Nat) : Rounded :=
  let (p, f0) := rneFlagged ((v32 a1).mul (v32 x))
  let (q, f1) := rneFlagged ((v32 a2).mul (v32 y))
  let (z, f2) := rneFlagged ((v32 p).add 0 (v32 q))
  (z, f0 ||| f1 ||| f2)

/-- The merge of two softmax states (R382). -/
def mergeState (x y : List Nat) : List Nat × Flags :=
  let (mn, f0) := fp32.pick true (x.getD 0 0) (y.getD 0 0)
  let (a1, f1) := mergeFactor (x.getD 0 0) mn
  let (a2, f2) := mergeFactor (y.getD 0 0) mn
  let rest := (List.zip x.tail y.tail).map fun p => mergeWord a1 a2 p.1 p.2
  (mn :: rest.map Prod.fst, rest.foldl (fun f p => f ||| p.2) (f0 ||| f1 ||| f2))

/-- Sum, max and min of two elements: integers wrap, FP sums round to nearest-even in TYPE (R381). -/
def reduceWord (op t x y : Nat) : Rounded :=
  if isIntType t then
    (match op with
     | 0 => (x + y) % 2 ^ 32
     | 1 => if intOf t x < intOf t y then y else x
     | _ => if intOf t x < intOf t y then x else y, 0)
  else if op = 0 then (fmtOf t).sum 0 x y
  else (fmtOf t).pick (op == 1) x y

/-- Two units combined. -/
def reduceUnit (r : List (BitVec 32)) (x y : List Nat) : List Nat × Flags :=
  if collOp r = 3 then mergeState x y
  else
    let (z, fl) := reduceWord (collOp r) (collType r) (x.getD 0 0) (y.getD 0 0)
    ([z], fl)

/-- The units of the members combined in an order that is free (R382, log 12). The fuel is the number of units. -/
def combineFree (r : List (BitVec 32)) : Nat → Flags → List (List Nat) → M (List Nat × Flags)
  | 0, fl, xs => pure (xs.headD [], fl)
  | k + 1, fl, xs =>
    if xs.length ≤ 1 then pure (xs.headD [], fl)
    else do
      let w ← freeWord
      let i := w.toNat % xs.length
      let rest := xs.eraseIdx i
      let j := w.toNat / 2 ^ 32 % rest.length
      let (z, fl') := reduceUnit r (xs.getD i []) (rest.getD j [])
      combineFree r k (fl ||| fl') (z :: rest.eraseIdx j)

/-! ## The collective engine (R381, R383) -/

/-- The send units of a member: none where a read faults. The member's own hart and privilege make the accesses. -/
def readUnits (p : Nat) (y : Collective) : M (List (Option (List Nat))) := do
  let r := y.record
  let n := sendUnits r p
  if collSend r = 0 then pure (List.replicate n (some (identityUnit r)))
  else
    match ← asEngine y.hart y.priv [] (mapFrom n 0 fun u => do
        match ← attempt (mapFrom (collWords r) 0 fun k =>
            rdmem .other (collSend r + BitVec.ofNat 64 ((u * collWords r + k) * collBytes r)) (collBytes r)) with
        | .ok ws => pure (some ws)
        | .error _ => pure none) with
    | .ok us => pure us
    | .error _ => pure (List.replicate n none)

/-- The reduction of send unit u over the members, where every member's unit was read. -/
def reduceAt (r : List (BitVec 32)) (sends : List (List (Option (List Nat)))) (u : Nat) : M (Option (List Nat) × Flags) := do
  let us := sends.filterMap fun m => (m[u]?).join
  if us.length < sends.length then pure (none, 0)
  else do
    let (z, fl) ← combineFree r us.length 0 us
    pure (some z, fl)

/-- Receive unit u of the member of rank k. -/
def recvUnit (r : List (BitVec 32)) (sends : List (List (Option (List Nat)))) (red : List (Option (List Nat))) (k u : Nat) :
    Option (List Nat) :=
  match collKind r with
  | 0 => (red[u]?).join
  | 1 => ((sends.getD (u / collN r) [])[u % collN r]?).join
  | 2 => (red[k * collN r + u]?).join
  | _ => ((sends.getD ((collMembers r).idxOf (collRoot r)) [])[u]?).join

/-- Write the receive units of the member of rank k; `mixed` leaves each unit old or new, freely (R383). True where a write
faulted. -/
def writeUnits (y : Collective) (mixed : Bool) (unit : Nat → Option (List Nat)) : M Bool := do
  let r := y.record
  let res ← asEngine y.hart y.priv [] (mapFrom (recvUnits r) 0 fun u => do
    let skip ← (if mixed then do pure ((← freeWord).getLsbD 0) else pure false)
    match unit u with
    | none => pure false
    | some ws =>
      if skip then pure false
      else
        match ← attempt (wholly (forN ws.length fun k =>
            wrmem .other (collRecv r + BitVec.ofNat 64 ((u * collWords r + k) * collBytes r)) (collBytes r)
              (ws.getD k 0))) with
        | .ok _ => pure false
        | .error _ => pure true)
  match res with
  | .ok bs => pure (bs.any id)
  | .error _ => pure true

/-- Release the interlock entry of a collective. -/
def unlockColl (y : Collective) : M Unit :=
  modCore (coreOf y.hart) fun c => { c with locks := c.locks.filter fun k => !(k.coll && k.unit == y.id.toNat) }

/-- Post the completion record that a collective keeps back, and forget the collective (R200); the record waits for the transfers issued
before it (R199, R337). What the record's last four bytes hold is free (log 12). -/
def postColl (q : Nat) (y : Collective) : M Unit := do
  let k := Config.freeWord (← get).freeCount
  let bytes := completionRecord y.pc (y.held.getD 0).toNat (k.toNat % 2 ^ 32)
  let done ← postAfter (earlierLocks ((← get).core (coreOf y.hart)) true y.id.toNat) y.hart (some y.hart) (coreOf y.hart)
    (ringOf y.comp.addr) bytes
  if done then do
    unlockColl y
    modify fun s => { s with freeCount := s.freeCount + 1 }
  modPkg q fun p => { p with colls :=
    if done then p.colls.filter fun x => x.id != y.id else p.colls.map fun x => if x.id = y.id then y else x }

/-- A collective of package q completes with a status: the flag, the status that CWAITC reads, the flags of the issuing hart,
ENGF for a member whose own access faulted, the interlock entry, the ring record (R381, R383). Its flag waits for the transfers issued
before it (R199, R337). -/
def endColl (q : Nat) (y : Collective) (status : Nat) (faulted : Bool) (fl : Flags) : M Unit := do
  let held := earlierLocks ((← get).core (coreOf y.hart)) true y.id.toNat
  let wrote ← (if y.comp.kind = 1 then do
      match ← asEngine y.hart y.priv held (flagWrite y.comp) with
      | .ok _ => pure true
      | .error .stall => stall
      | .error _ => pure false
    else pure true)
  let st : BitVec 8 := BitVec.ofNat 8 (if wrote then status else 1)
  modify fun s =>
    let h := s.hartAt y.hart
    if h.colls.any fun p => p.1 == y.id && p.2.isNone then
      s.setHartAt y.hart { h with
        colls := h.colls.map fun p => if p.1 = y.id && p.2.isNone then (p.1, some st) else p
        sys := { h.sys with fflags := h.sys.fflags ||| fl }
        pendEngf := if faulted || !wrote then h.pendEngf ++ [y.id.zeroExtend 64] else h.pendEngf }
    else s
  if y.comp.kind = 2 then do
    emptyLock (coreOf y.hart) true y.id.toNat
    postColl q { y with held := some st }
  else do
    unlockColl y
    modPkg q fun p => { p with colls := p.colls.filter fun x => x.id != y.id }

/-- The outstanding collective of a package that has a tag. -/
def collOf (s : State) (p tag : Nat) : Option Collective :=
  (s.pkg p).colls.find? fun x => x.held.isNone && collTag x.record == tag

/-- Two members disagree in KIND, OP, TYPE, N, W or ROOT (R383). -/
def collDiffers (r r' : List (BitVec 32)) : Bool :=
  recW r 4 != recW r' 4 || recW r 5 != recW r' 5 || recW r 9 != recW r' 9

/-- The data of a collective whose members have all issued it: read, combine, write, complete. `gone` says that a member has
become unreachable. -/
def moveColl (r : List (BitVec 32)) (gone : Bool) (ys : List (Nat × Collective)) : M Unit := do
  let sends ← ys.foldlM (fun acc y => do pure (acc ++ [← readUnits y.1 y.2])) []
  let bad := sends.map fun us => us.any Option.isNone
  let n := if collKind r = 0 then collN r else if collKind r = 2 then ys.length * collN r else 0
  let red ← mapFrom n 0 (reduceAt r sends)
  let fl := red.foldl (fun f x => f ||| x.2) 0
  let mixed := gone || bad.any id
  let wrote ← mapFrom ys.length 0 fun k => do
    match ys[k]? with
    | some y => writeUnits y.2 mixed (recvUnit r sends (red.map Prod.fst) k)
    | none => pure false
  let faults := (List.zip bad wrote).map fun p => p.1 || p.2
  let status := if gone then 4 else if faults.any id then 1 else 0
  forN ys.length fun k => do
    match ys[k]? with
    | some y => endColl y.1 y.2 status (faults.getD k false) fl
    | none => pure ()

/-- A member's exchange with another member was not answered in time (R395). -/
def collLate (s : State) (ms : List Nat) (y : Nat × Collective) : Bool :=
  match (s.hartAt y.2.hart).unanswered with
  | some p => p.toNat != y.1 && ms.contains p.toNat
  | none => false

/-- The engine takes up a collective of package q (R383): it waits until every member has issued it, unless a member is
unreachable, or is so for it (R395). -/
def runColl (q : Nat) (x : Collective) : M Unit := do
  let s ← get
  let ms := collMembers x.record
  let ys := ms.filterMap fun m => (collOf s m (collTag x.record)).map fun y => (m, y)
  let late := ys.filter (collLate s ms)
  let gone := (ms.any fun m => !reachable s q m) || !late.isEmpty
  modify fun s => late.foldl (fun s y => s.setHartAt y.2.hart { s.hartAt y.2.hart with unanswered := none }) s
  if ys.length = ms.length then
    if !gone && ys.any (fun y => collDiffers x.record y.2.record) then
      forN ys.length fun k => do
        match ys[k]? with
        | some y => endColl y.1 y.2 3 false 0
        | none => pure ()
    else moveColl x.record gone ys
  else if gone then
    forN ys.length fun k => do
      match ys[k]? with
      | some y => endColl y.1 y.2 4 false 0
      | none => pure ()
  else block

/-- COLL_COMPLETION (R383): collective `idx` of the package of the hart in focus completes, or posts the record that a full ring
kept back. -/
def execCollCompletion (idx : BitVec 4) (s : State) : Host.Outcome State Fault Refusal :=
  runEvent (do
    let s ← get
    let q := pkgOf s.id
    match (s.pkg q).colls[idx.toNat]? with
    | none => block
    | some x => if x.held.isSome then postColl q x else runColl q x) s

/-- Put a collective into the engine, with its interlock entry and its place in the hart's statuses (R383, R384). -/
def issueColl (r : List (BitVec 32)) (k : Completion) (e : Entry) : M (BitVec 16) := do
  let s ← get
  let q := pkgOf s.id
  let id := s.myPkg.collSeq
  let (sl, sh) := unitGranules r (collSend r) (if collSend r = 0 then 0 else sendUnits r q)
  let (dl, dh) := unitGranules r (collRecv r) (recvUnits r)
  if sl ≤ sh then stallOn false (sl * 4096) ((sh - sl + 1) * 4096) false
  if dl ≤ dh then stallOn false (dl * 4096) ((dh - dl + 1) * 4096) true
  if 16 ≤ s.myPkg.colls.length || 16 ≤ s.myCore.lockCount then block
  modPkg q fun p => { p with
    colls := p.colls ++ [⟨id, s.id, r, k, e.pc, s.hart.trap.priv, none⟩]
    collSeq := id + 1 }
  modCore (coreOf s.id) fun c => { c with
    locks := c.locks ++ [⟨s.id, true, id.toNat, false, sl, sh, false, dl, dh⟩] }
  modHart fun h => { h with colls := (h.colls ++ [(id, none)]).drop (h.colls.length + 1 - 16) }
  pure id

/-- MCST (R379): Stores each element to the replicas named by a package mask. -/
def performMcst (d : BitVec 7) (m : BitVec 1) (e : Entry) : M Unit :=
  do
  let c := e.cfg
  maskVl c m
  vrun c [Opnd.src c d] (do
    let s ← get
    let ps := packagesOf e.b0.toNat
    trapIf (ps.any fun p => !reachable s (pkgOf s.id) p) .prot e.b0
    let (v, act) ← sources c m [d]
    forN c.count fun j => if act j then atElem j (multicast c e ps j (v.el c d j)) else pure ())

/-- MCST: dispatch (R416) and execution. -/
def execMcst (d : BitVec 7) (a : BitVec 7) (b : BitVec 7) (m : BitVec 1) (s : State) : Host.Outcome State Fault Refusal :=
  dispatchV (encMcst d a b m).toWord 0 { etypes := upTo11, a := .scalar a, b := .scalar b } (performMcst d m) s

/-- COLL (R380): Starts a pod collective and delivers its id. -/
def performColl (d : BitVec 7) (a : BitVec 7) (e : Entry) : M Unit :=
  do
  setProgress 0
  let c := e.cfg
  vrun c [Opnd.rawIn d d.toNat 1] (do
    let r ← rowRecord c d
    let s ← get
    match collBad (pkgOf s.id) r with
    | some i => trap .matf (BitVec.ofNat 64 i)
    | none => pure ()
    trapIf ((collSend r).toNat % 4 != 0) .align (collSend r)
    trapIf ((collRecv r).toNat % 4 != 0) .align (collRecv r)
    let k ← needCompletion (e.a0, e.a1) a true
    needCompletionRing a k
    if (collOf s (pkgOf s.id) (collTag r)).isSome then strf a.toNat 5
    needRoom
    release
    let id ← issueColl r k e
    deliver (id.zeroExtend 64))

/-- COLL: dispatch (R416) and execution. -/
def execColl (d : BitVec 7) (a : BitVec 7) (s : State) : Host.Outcome State Fault Refusal :=
  dispatchV (encColl d a).toWord 0 { a := .pair a } (performColl d a) s

/-- CWAITC (R384): Waits for a collective, acquires and delivers its status. -/
def performCwaitc (e : Entry) : M Unit :=
  do
  needRoom
  let id := e.a0.extractLsb' 0 16
  match (← getHart).colls.reverse.find? fun p => p.1 == id with
  | none => deliver 0xFF
  | some (_, none) => block
  | some (_, some st) => deliver (st.zeroExtend 64)

/-- CWAITC: dispatch (R416) and execution. -/
def execCwaitc (a : BitVec 7) (s : State) : Host.Outcome State Fault Refusal :=
  dispatchV (encCwaitc a).toWord 0 { afterVrel := true, a := .scalar a } (performCwaitc) s

end Sys2Proof.Machine
end

