-- ==== Sys2Proof/Machine/Skiver.lean ====
section
/-! DEFINITION. Sketches and their reconciliation (R396–R407): the SKV family, and the answer of a peer's Skiver. -/

namespace Sys2Proof.Machine

/-! ## Cells (R396, R397) -/

/-- A cell of a sketch. -/
structure Cell where
  count : BitVec 32
  check : BitVec 32
  key : Word
  dig : Word
deriving DecidableEq, Repr

def Cell.zero : Cell := ⟨0, 0, 0, 0⟩

/-- mix(x) = x ⊕ (x >> 31). -/
def skMix (x : Word) : Word := x ^^^ (x >>> 31)

/-- The fingerprint of an entry. -/
def skFinger (key dig : Word) : Word := skMix key ^^^ dig

/-- C₀, C₁ and C₂. -/
def skConst (j : Nat) : Word :=
  if j = 0 then 0x9E3779B97F4A7C15 else if j = 1 then 0xC2B2AE3D27D4EB4F else 0x165667B19E3779F9

/-- h_j(f) in a sketch of m cells. -/
def skCell (m j : Nat) (f : Word) : Nat := j * (m / 3) + ((f * skConst j) >>> 32).toNat % (m / 3)

/-- hc(f). -/
def skCheck (f : Word) : BitVec 32 := (f * 0x94D049BB133111EB).extractLsb' 32 32

/-- An entry applied to one of its cells with sign s. -/
def Cell.apply (s : BitVec 32) (key dig : Word) (x : Cell) : Cell :=
  ⟨x.count + s, x.check ^^^ skCheck (skFinger key dig), x.key ^^^ key, x.dig ^^^ dig⟩

/-- An entry applied to a sketch with sign s (R396). -/
def skApply (s : BitVec 32) (key dig : Word) (cells : List Cell) : List Cell :=
  (List.range 3).foldl (fun cs j => cs.modify (skCell cells.length j (skFinger key dig)) (Cell.apply s key dig)) cells

/-- Cell i is pure (R402). -/
def skPure (cells : List Cell) (i : Nat) : Bool :=
  let x := cells.getD i Cell.zero
  let f := skFinger x.key x.dig
  let m := cells.length
  (x.count == 1 || x.count == BitVec.allOnes 32) && x.check == skCheck f && skCell m (i / (m / 3)) f == i

/-- m is within the limits of R397. -/
def skSize (m : Nat) : Bool := m % 3 == 0 && 6 ≤ m && m ≤ 786432

/-! ## Sketches in memory -/

/-- Bytes of a sketch of m cells. -/
def skBytes (m : Nat) : Nat := 16 + 24 * m

/-- Translate n bytes from an address upward, without wrap, page by page: a fault is at the lowest address that has one
(R400, R402). -/
def translateSpan (k : Access) (v : Word) (n : Nat) : M Unit :=
  if n = 0 then pure ()
  else do
    stallOn false v.toNat n (k == .store)
    let priv ← privNow
    forN ((v.toNat % 65536 + n + 65535) / 65536) fun i => do
      let a := if i = 0 then v.toNat else (v.toNat / 65536 + i) * 65536
      let _ ← translateAt priv k .other (BitVec.ofNat 64 a) 1
      pure ()

/-- ALIGN unless an address is a multiple of 8 (R399). -/
def needAligned8 (v : Word) : M Unit := trapIf (v.toNat % 8 != 0) .align v

/-- Read the header of a sketch: m, or STRF with reason 5 for the field that names it (R397). -/
def skHeader (v : Word) (field : BitVec 7) : M Nat := do
  let x ← vread .other v 8
  let y ← vread .other (v + 8) 8
  if !skSize (x % 2 ^ 32) || x / 2 ^ 32 != 0 || y != 0 then strf field.toNat 5
  pure (x % 2 ^ 32)

/-- Address of cell i. -/
def skAddr (v : Word) (i : Nat) : Word := v + BitVec.ofNat 64 (16 + 24 * i)

def readCell (v : Word) (i : Nat) : M Cell := do
  let a := skAddr v i
  let x ← vread .other a 8
  let k ← vread .other (a + 8) 8
  let d ← vread .other (a + 16) 8
  pure ⟨BitVec.ofNat 32 x, BitVec.ofNat 32 (x / 2 ^ 32), BitVec.ofNat 64 k, BitVec.ofNat 64 d⟩

def writeCell (v : Word) (i : Nat) (x : Cell) : M Unit := do
  let a := skAddr v i
  vwrite .other a 8 (x.count.toNat + 2 ^ 32 * x.check.toNat)
  vwrite .other (a + 8) 8 x.key.toNat
  vwrite .other (a + 16) 8 x.dig.toNat

def readSketch (v : Word) (m : Nat) : M (List Cell) := mapFrom m 0 (readCell v)

def writeCells (v : Word) (cells : List Cell) : M Unit := forN cells.length fun i => writeCell v i (cells.getD i Cell.zero)

/-- Write a header and cells. -/
def writeSketch (v : Word) (cells : List Cell) : M Unit := do
  vwrite .other v 8 cells.length
  vwrite .other (v + 8) 8 0
  writeCells v cells

/-- Entry k of an array: key and digest. -/
def readEntry (v : Word) (k : Nat) : M (Word × Word) := do
  let a := v + BitVec.ofNat 64 (16 * k)
  let x ← vread .other a 8
  let y ← vread .other (a + 8) 8
  pure (BitVec.ofNat 64 x, BitVec.ofNat 64 y)

/-- Apply an entry to a sketch in memory. -/
def applyInMemory (v : Word) (m : Nat) (s : BitVec 32) (key dig : Word) : M Unit :=
  forN 3 fun j => do
    let i := skCell m j (skFinger key dig)
    let x ← readCell v i
    writeCell v i (x.apply s key dig)

/-! ## Peeling (R402, R403) -/

/-- An emitted entry: key, digest, and whether its sign is +1. -/
abbrev Emitted := Word × Word × Bool

/-- The loop of R402: the cells, the emitted entries in order, and whether the output was full. The fuel bounds the entries of
the queue. -/
def peelLoop (cap : Nat) : Nat → List Nat → List Cell → List Emitted → List Cell × List Emitted × Bool
  | 0, _, cells, out => (cells, out, false)
  | _ + 1, [], cells, out => (cells, out, false)
  | n + 1, c :: q, cells, out =>
    if !skPure cells c then peelLoop cap n q cells out
    else
      let x := cells.getD c Cell.zero
      let plus := x.count == 1
      if out.length = cap then (cells, out, true)
      else
        let f := skFinger x.key x.dig
        let cells' := skApply (if plus then BitVec.allOnes 32 else 1) x.key x.dig cells
        let q' := (List.range 3).foldl (fun q j =>
          let i := skCell cells.length j f
          if skPure cells' i && !q.contains i then q ++ [i] else q) q
        peelLoop cap n q' cells' (out ++ [(x.key, x.dig, plus)])

/-- A peel with room for `cap` records: cells, emitted entries, status (R402). -/
def peel (cap : Nat) (cells : List Cell) : List Cell × List Emitted × Nat :=
  let q := (List.range cells.length).filter (skPure cells)
  let (cells', out, full) := peelLoop cap (cells.length + 3 * cap + 3) q cells []
  (cells', out, if full then 2 else if cells'.all (· == Cell.zero) then 0 else 1)

/-- Sizes during the rounds: M and RND. -/
def skM (w : Word) : Nat := bitsOf w.toNat 19 0
def skRnd (w : Word) : Nat := bitsOf w.toNat 27 24
def skWord (m rnd : Nat) : Word := BitVec.ofNat 64 (m + 2 ^ 24 * rnd)

/-- The end of a round (R403): SKM, and whether the round was the last one. -/
def endRound (y : SysRegs) (status : Nat) (skm : Word) : Word × Bool :=
  let m := skM skm
  let rnd := skRnd skm
  if status = 0 then (skWord m 0, false)
  else if status = 2 then (skm, false)
  else if rnd + 1 < bitsOf y.skrmax.toNat 3 0 && m < bitsOf y.skmmax.toNat 19 0 then
    (skWord (Nat.min (2 * m) (bitsOf y.skmmax.toNat 19 0)) (rnd + 1), false)
  else (skWord m 0, true)

/-- Write peeled records (R402). -/
def writeEmitted (v : Word) (out : List Emitted) : M Unit :=
  forN out.length fun i => do
    match out[i]? with
    | none => pure ()
    | some (k, d, plus) => do
      let a := v + BitVec.ofNat 64 (24 * i)
      vwrite .other a 8 k.toNat
      vwrite .other (a + 8) 8 d.toNat
      vwrite .other (a + 16) 8 (if plus then 1 else 2 ^ 64 - 1)

/-- The entry retires and PEEL is raised (R403). -/
def raisePeel (records m : Nat) : M Unit := do
  retireHead
  trap .peel (BitVec.ofNat 64 (records % 2 ^ 32 + 2 ^ 32 * m))

/-! ## Classes and peers (R405, R406) -/

/-- A class: entry array, n, R, record base, work area. -/
structure SkClass where
  entries : Word
  n : Nat
  r : Nat
  records : Word
  work : Word
deriving DecidableEq, Repr

/-- The class of a number on a package; none where SKCTAB is 0 or the descriptor is not valid (R405). The accesses are those of
the issuing hart's vector agent (R399). -/
def readClass (p cls : Nat) : M (Option SkClass) := do
  let base := ((← get).pkg p).skctab
  if base = 0 then pure none
  else do
    let ws ← mapFrom 8 0 fun i => vread .other (base + BitVec.ofNat 64 (64 * cls + 8 * i)) 8
    let w := fun i => ws.getD i 0
    let r := w 1 / 2 ^ 32
    if w 4 != 1 || w 5 != 0 || w 6 != 0 || w 7 != 0 || r % 8 != 0 || r < 8 || 4096 < r then pure none
    else pure (some ⟨BitVec.ofNat 64 (w 0), w 1 % 2 ^ 32, r, BitVec.ofNat 64 (w 2), BitVec.ofNat 64 (w 3)⟩)

/-- Entries k … k+n-1 of a class applied to cells. -/
def foldClass (x : SkClass) : Nat → Nat → List Cell → M (List Cell)
  | 0, _, cells => pure cells
  | n + 1, k, cells => do
    let (key, dig) ← readEntry x.entries k
    foldClass x n (k + 1) (skApply 1 key dig cells)

/-- The sketch of a class at m cells. -/
def classSketch (x : SkClass) (m : Nat) : M (List Cell) := foldClass x x.n 0 (List.replicate m Cell.zero)

/-- Cell by cell, local − remote (R401). -/
def skSub (xs ys : List Cell) : List Cell :=
  (List.zip xs ys).map fun p =>
    ⟨p.1.count - p.2.count, p.1.check ^^^ p.2.check, p.1.key ^^^ p.2.key, p.1.dig ^^^ p.2.dig⟩

/-- A work area that was used holds values that the manual does not give (log 12). -/
def scribble (v : Word) (bytes : Nat) : M Unit :=
  forN (bytes / 8) fun i => do
    let w ← freeWord
    vwrite .other (v + BitVec.ofNat 64 (8 * i)) 8 w.toNat

/-- Rounds from SKM on: the emitted entries, status 0 or 1, SKM, the rounds run, and the m of the last one (R406). The peel of a
round has room for m entries in the work area. The fuel bounds the rounds. -/
def reconRounds (y : SysRegs) (here there : SkClass) : Nat → Nat → Word → M (List Emitted × Nat × Word × Nat × Nat)
  | 0, n, skm => pure ([], 1, skm, n, skM skm)
  | k + 1, n, skm => do
    let m := skM skm
    let own ← classSketch here m
    let other ← classSketch there m
    writeSketch there.work other
    scribble here.work (2 * skBytes m)
    let (_, out, st) := peel m (skSub own other)
    let st := if st = 2 then 1 else st
    let (skm', last) := endRound y st skm
    if st = 0 || last then pure (out, st, skm', n + 1, m) else reconRounds y here there k (n + 1) skm'

/-- The local digest beats the remote one: greater version, then greater digest (R406). -/
def localWins (loc rem : Word) : Bool :=
  if loc.toNat / 2 ^ 32 = rem.toNat / 2 ^ 32 then rem.toNat < loc.toNat else rem.toNat / 2 ^ 32 < loc.toNat / 2 ^ 32

/-- The digest emitted with + for a key. -/
def plusOf (out : List Emitted) (key : Word) : Option Word :=
  (out.find? fun x => x.1 == key && x.2.2).map fun x => x.2.1

/-- The remote winners: key and digest, in emission order. -/
def remoteWinners (out : List Emitted) : List (Word × Word) :=
  out.filterMap fun x =>
    if x.2.2 then none
    else match plusOf out x.1 with
      | some d => if localWins d x.2.1 then none else some (x.1, x.2.1)
      | none => some (x.1, x.2.1)

/-- Keys won locally: emitted with +, and not won by the remote side. -/
def localWinners (out : List Emitted) : Nat :=
  let lost := (remoteWinners out).map Prod.fst
  (out.filter fun x => x.2.2 && !lost.contains x.1).length

/-- Binary search of a class for a key (R406). The fuel bounds the steps. -/
def findKey (x : SkClass) (key : Word) : Nat → Nat → Nat → M (Option Nat)
  | 0, _, _ => pure none
  | k + 1, lo, hi =>
    if hi ≤ lo then pure none
    else do
      let mid := (lo + hi) / 2
      let (y, _) ← readEntry x.entries mid
      if y = key then pure (some mid)
      else if y.toNat < key.toNat then findKey x key k (mid + 1) hi
      else findKey x key k lo mid

/-- Write staged record i: key, remote digest, and the record that the peer finds, or zeros (R406). -/
def stageRecord (x : SkClass) (stage : Word) (i : Nat) (key dig : Word) : M Unit := do
  let at' ← findKey x key 40 0 x.n
  let a := stage + BitVec.ofNat 64 (i * (16 + x.r))
  vwrite .other a 8 key.toNat
  vwrite .other (a + 8) 8 dig.toNat
  forN (x.r / 8) fun w => do
    let v ← (match at' with
      | some j => vread .other (x.records + BitVec.ofNat 64 (j * x.r + 8 * w)) 8
      | none => pure 0)
    vwrite .other (a + BitVec.ofNat 64 (16 + 8 * w)) 8 v

/-- The word that SKRECON delivers. -/
def reconWord (staged status rounds won : Nat) : Word :=
  BitVec.ofNat 64 (staged + 2 ^ 32 * status + 2 ^ 40 * rounds + 2 ^ 48 * Nat.min won 0xFFFF)

/-- SKRECON with valid classes on both sides (R406): it waits for room in q4 unless it raises PEEL, which delivers nothing (R403). -/
def reconcile (st : Bool) (here there : SkClass) (stage : Word) (cap : Nat) : M Unit := do
  let y := (← getHart).sys
  let (out, status, skm, rounds, m) ← reconRounds y here there 16 0 y.skm
  if !(status == 1 && !st) then needRoom
  if status = 1 then do
    modSys fun y => { y with skm := skm }
    if st then deliver (reconWord 0 1 rounds 0) else raisePeel 0 m
  else do
    let win := remoteWinners out
    let n := Nat.min win.length cap
    forN n fun i => do
      match win[i]? with
      | some (k, d) => stageRecord there stage i k d
      | none => pure ()
    modSys fun y => { y with skm := skm }
    deliver (reconWord n (if cap < win.length then 2 else 0) rounds (localWinners out))

/-- SKIVER_PEER_REQUEST (R406): the Skiver of the package in focus answers a peer's request for a class at a number of cells: it
builds the sketch in its work area. An invalid class answers nothing. -/
def execSkiverPeerRequest (cls : BitVec 8) (cells : BitVec 20) (s : State) : Host.Outcome State Fault Refusal :=
  runEvent (do
    match ← readClass (pkgOf (← get).id) cls.toNat with
    | none => block
    | some x =>
      if !skSize cells.toNat then block
      writeSketch x.work (← classSketch x cells.toNat)) s

/-- SKBLD (R400): Builds or accumulates entries into a sketch. ESTART counts to 2¹⁸ - 1, so the interlocks of the entries above are waited
for before the first one is applied: no entry is applied twice (log 57). -/
def performSkbld (n : BitVec 1) (c : BitVec 1) (a : BitVec 7) (e : Entry) : M Unit :=
  do
  let v := e.a0
  needAligned8 v
  needAligned8 e.a1
  let m := skM (← getHart).sys.skm
  let k0 := e.cfg.est
  translateSpan .load v (skBytes m)
  translateSpan .store v (skBytes m)
  if c = 1 then do
    let m' ← skHeader v a
    if m' != m then strf a.toNat 5
  else if k0 = 0 then writeSketch v (List.replicate m Cell.zero)
  if 2 ^ 18 ≤ e.b0.toNat then do
    stallOn false v.toNat (skBytes m) true
    stallOn false (e.a1.toNat + 2 ^ 22) (16 * e.b0.toNat - 2 ^ 22) false
  forFrom (e.b0.toNat - k0) k0 fun k => atElem k (wholly do
    let (key, dig) ← readEntry e.a1 k
    applyInMemory v m (if n = 1 then BitVec.allOnes 32 else 1) key dig)

/-- SKBLD: dispatch (R416) and execution. -/
def execSkbld (n : BitVec 1) (c : BitVec 1) (a : BitVec 7) (b : BitVec 7) (s : State) : Host.Outcome State Fault Refusal :=
  dispatchV (encSkbld n c a b).toWord 0 { afterVrel := true, a := .pair a, b := .scalar b } (performSkbld n c a) s

/-- SKSUB (R401): Subtracts a remote sketch from a local one. -/
def performSksub (a : BitVec 7) (b : BitVec 7) (e : Entry) : M Unit :=
  do
  setProgress 0
  needAligned8 e.a0
  needAligned8 e.b0
  let m ← skHeader e.a0 a
  let m' ← skHeader e.b0 b
  translateSpan .load e.a0 (skBytes m)
  translateSpan .store e.a0 (skBytes m)
  translateSpan .load e.b0 (skBytes m')
  if m != m' then strf b.toNat 5
  wholly do
    let xs ← readSketch e.a0 m
    let ys ← readSketch e.b0 m
    writeCells e.a0 (skSub xs ys)

/-- SKSUB: dispatch (R416) and execution. -/
def execSksub (a : BitVec 7) (b : BitVec 7) (s : State) : Host.Outcome State Fault Refusal :=
  dispatchV (encSksub a b).toWord 0 { whole := true, afterVrel := true, a := .scalar a, b := .scalar b } (performSksub a b) s

/-- SKPEEL (R402): Peels a difference sketch into signed entries and updates SKM. -/
def performSkpeel (t : BitVec 1) (a : BitVec 7) (e : Entry) : M Unit :=
  do
  setProgress 0
  needAligned8 e.a0
  needAligned8 e.a1
  let m ← skHeader e.a0 a
  translateSpan .load e.a0 (skBytes m)
  translateSpan .store e.a0 (skBytes m)
  translateSpan .store e.a1 (24 * e.b0.toNat)
  let cells ← readSketch e.a0 m
  let (cells', rs, status) := peel e.b0.toNat cells
  let y := (← getHart).sys
  let (skm, last) := endRound y status y.skm
  if !(last && t = 0) then needRoom
  writeEmitted e.a1 rs
  writeCells e.a0 cells'
  modSys fun y => { y with skm := skm }
  if last && t = 0 then raisePeel rs.length m
  else deliver (BitVec.ofNat 64 (rs.length % 2 ^ 32 + 2 ^ 32 * status + 2 ^ 40 * skRnd skm))

/-- SKPEEL: dispatch (R416) and execution. -/
def execSkpeel (t : BitVec 1) (a : BitVec 7) (b : BitVec 7) (s : State) : Host.Outcome State Fault Refusal :=
  dispatchV (encSkpeel t a b).toWord 0 { whole := true, afterVrel := true, a := .pair a, b := .scalar b } (performSkpeel t a) s

/-- SKRECON (R406): Reconciles a class with a peer package in rounds and stages winners. -/
def performSkrecon (t : BitVec 1) (a : BitVec 7) (e : Entry) : M Unit :=
  do
  setProgress 0
  let w := e.a0.toNat
  if bitsOf w 7 6 != 0 || bitsOf w 63 16 != 0 then strf a.toNat 5
  needAligned8 e.a1
  let s ← get
  let p := bitsOf w 5 0
  let here ← readClass (pkgOf s.id) (bitsOf w 15 8)
  let there ← if reachable s (pkgOf s.id) p then readClass p (bitsOf w 15 8) else pure none
  match here, there with
  | some x, some y =>
    if x.r != y.r then deliver (reconWord 0 3 0 0) else reconcile (t == 1) x y e.a1 e.b0.toNat
  | _, _ => deliver (reconWord 0 3 0 0)

/-- SKRECON: dispatch (R416) and execution. -/
def execSkrecon (t : BitVec 1) (a : BitVec 7) (b : BitVec 7) (s : State) : Host.Outcome State Fault Refusal :=
  dispatchV (encSkrecon t a b).toWord 0 { whole := true, afterVrel := true, a := .pair a, b := .scalar b } (performSkrecon t a) s

/-- SKSTAT (R404): Delivers counts of nonzero and pure cells. -/
def performSkstat (a : BitVec 7) (e : Entry) : M Unit :=
  do
  setProgress 0
  needAligned8 e.a0
  let m ← skHeader e.a0 a
  translateSpan .load e.a0 (skBytes m)
  let cells ← readSketch e.a0 m
  deliver (BitVec.ofNat 64 ((cells.filter (· != Cell.zero)).length +
    2 ^ 32 * ((List.range m).filter (skPure cells)).length))

/-- SKSTAT: dispatch (R416) and execution. -/
def execSkstat (a : BitVec 7) (s : State) : Host.Outcome State Fault Refusal :=
  dispatchV (encSkstat a).toWord 0 { whole := true, afterVrel := true, a := .scalar a } (performSkstat a) s

end Sys2Proof.Machine
end

