-- ==== Sys2Proof/Machine/Window.lean ====
section
/-! DEFINITION. The package control window (R361), the harness and its nodes (R362–R366), requests, and the scalar loads and
stores (R99–R101), which reach the window. -/

namespace Sys2Proof.Machine

/-! ## Control-window registers (R361) -/

/-- HSTAT. -/
def hstatWord (k : Pkg) : Nat :=
  k.ready.toNat + 2 * k.replay.isSome.toNat + 4 * k.err.toNat +
  2 ^ 8 * (match k.replay with | some r => r.harness.toNat | none => 0) + 2 ^ 16 * Nat.min k.replays.length 65535

/-- What a register of the window of a package reads as. -/
def controlRead (s : State) (p off : Nat) : Nat :=
  let k := s.pkg p
  match off with
  | 0x00 => Config.firmwareVersion.toNat + 2 ^ 16 * k.boot.toNat
  | 0x10 => k.htbase.toNat
  | 0x18 => hstatWord k
  | 0x20 => k.rqbase.toNat
  | 0x38 => k.h2die.toNat + 4 * k.h2qtr.toNat
  | _ => 0

/-- Queue one replay of a harness (R364). -/
def queueReplay (p : Nat) (v : Nat) : M Unit :=
  modPkg p fun k => { k with replays := k.replays ++ [(BitVec.ofNat 8 v, [])] }

/-- Cancel a request whose state is 1 (R366). -/
def cancelRequest (p : Nat) (r : BitVec 16) : M Unit := do
  if r = 0 || requestState (← get) p r != 1 then pure ()
  else do
    modify (setRequest p r 4)
    stopRequest p r

/-- Set IPEND.HOST of the hart that HDBELL names; a die that the part lacks, or a core above 47, is ignored (R123, R361). -/
def ringDoorbell (p v : Nat) : M Unit := modify fun s =>
  if 47 < bitsOf v 7 2 || (s.pkg p).part.dies ≤ bitsOf v 1 0 then s
  else
    let n := p * hartsPerPkg + bitsOf v 1 0 * hartsPerDie + bitsOf v 7 2 * 4 + bitsOf v 9 8
    let h := s.hartAt n
    s.setHartAt n { h with trap := { h.trap with ipend := h.trap.ipend ||| 2 } }

/-- An aligned 8-byte write to the window of a package; read-only registers and other offsets ignore it. -/
def controlWrite (p off v : Nat) : M Unit :=
  match off with
  | 0x08 => queueReplay p v
  | 0x10 => modPkg p fun k => { k with htbase := BitVec.ofNat 64 (bitsOf v 51 4 * 2 ^ 4) }
  | 0x20 => modPkg p fun k => { k with rqbase := BitVec.ofNat 64 (bitsOf v 51 3 * 2 ^ 3) }
  | 0x28 => cancelRequest p (BitVec.ofNat 16 v)
  | 0x30 => ringDoorbell p v
  | 0x38 => modPkg p fun k => { k with
      h2die := if bitsOf v 1 0 < k.part.dies then BitVec.ofNat 2 v else 0
      h2qtr := BitVec.ofNat 2 (v / 4) }
  | _ => pure ()

/-- The response to a host request (R361, R368). -/
def hostDone (p : Nat) (data : List Byte) (unsupported : Bool) : M Unit :=
  modPkg p fun k => { k with reply := some ⟨data, unsupported⟩ }

/-- A host write to the control window: one that is not an aligned 8-byte write is dropped and completes with Unsupported Request
(R361). -/
def hostControlWrite (p off size v : Nat) : M Unit := do
  if size = 8 && off % 8 = 0 then do
    controlWrite p off v
    hostDone p [] false
  else hostDone p [] true

/-- A host read of the control window: a request that lies within one register receives the addressed bytes (R361; log 97 for any other). -/
def hostControlRead (p off size : Nat) : M Unit := do
  if size = 0 || 8 < off % 8 + size then block
  let s ← get
  hostDone p (leBytes size (controlRead s p (off / 8 * 8) / 2 ^ (off % 8 * 8))) false

/-- A host access of BAR2 at the HBM of the die that H2WIN names; beyond MEMSZ a read returns all ones and a write is dropped, with
Unsupported Request (R368). -/
def hostWindow (p off size : Nat) (write : Bool) (data : Nat) : M Unit := do
  if size = 0 || 2 ^ 36 < off + size then block
  let s ← get
  let k := s.pkg p
  let o := k.h2qtr.toNat * 2 ^ 36 + off
  let a := p * 2 ^ 46 + k.h2die.toNat * 2 ^ 38 + o
  if k.memsz.toNat * 2 ^ 28 < o + size then hostDone p (if write then [] else List.replicate size 0xFF) true
  else if write then do
    modify fun s => s.putBytes a (leBytes size data)
    hostDone p [] false
  else hostDone p (sparseGetList memDefault s.mem a size) false

/-! ## Scalar loads and stores (R99–R101) -/

/-- A scalar load of z bytes: ALIGN before translation, then memory or the control window. -/
def scalarLoad (a : Word) (z : Nat) : M Nat := do
  trapIf (a.toNat % z != 0) .align a
  let pa ← translateAt (← privNow) .load .scalar a z
  if isControlWindow pa then pure (controlRead (← get) (physPkg pa) (bitsOf pa 39 0))
  else do
    checkPoison pa z a
    pure ((← get).memNat pa z)

/-- A scalar store of z bytes. -/
def scalarStore (a : Word) (z x : Nat) : M Unit := do
  trapIf (a.toNat % z != 0) .align a
  let pa ← translateAt (← privNow) .store .scalar a z
  if isControlWindow pa && !unanswered (← get) pa then controlWrite (physPkg pa) (bitsOf pa 39 0) x
  else storeAt a pa z x

/-- Address of LD and ST: A + sx(offset)·z. -/
def offsetAddr (x : Word) (o : BitVec 9) (z : Nat) : Word := x + o.signExtend 64 * BitVec.ofNat 64 z

/-- Address of LDX and STX: A + B, or A + B·z. -/
def indexAddr (x y : Word) (sf : BitVec 1) (z : Nat) : Word := x + (if sf = 1 then y * BitVec.ofNat 64 z else y)

/-- A loaded number, sign-extended or zero-extended from z bytes. -/
def extendLoad (z : Nat) (signed : Bool) (x : Nat) : Word :=
  if signed then BitVec.ofInt 64 (sextNat (8 * z) x) else BitVec.ofNat 64 x

/-- LD (R99): width and sign by the instruction. -/
def loadOffset (d a : BitVec 7) (o : BitVec 9) (z : Nat) (signed : Bool) : M Flow := do
  checkScalar d
  let x ← readScalar a
  let v ← scalarLoad (offsetAddr x o z) z
  writeScalar d (extendLoad z signed v)
  pure .next

/-- LDX (R99). -/
def loadIndexed (d a b : BitVec 7) (sf : BitVec 1) (z : Nat) (signed : Bool) : M Flow := do
  checkScalar d
  let x ← readScalar a
  let y ← readScalar b
  let v ← scalarLoad (indexAddr x y sf z) z
  writeScalar d (extendLoad z signed v)
  pure .next

/-- ST (R99): d names the stored source. -/
def storeOffset (d a : BitVec 7) (o : BitVec 9) (z : Nat) : M Flow := do
  let v ← readScalar d
  let x ← readScalar a
  scalarStore (offsetAddr x o z) z v.toNat
  pure .next

/-- STX (R99). -/
def storeIndexed (d a b : BitVec 7) (sf : BitVec 1) (z : Nat) : M Flow := do
  let v ← readScalar d
  let x ← readScalar a
  let y ← readScalar b
  scalarStore (indexAddr x y sf z) z v.toNat
  pure .next

/-! ## Harness nodes (R362–R366) -/

/-- Raise an MSI vector. -/
def raiseMsi (p : Nat) (v : BitVec 11) : M Unit := modPkg p fun k => { k with msi := k.msi ++ [v] }

/-- Fields of a node's first word: kind, flags, request, P0. -/
def nodeKind (ws : List Word) : Nat := bitsOf (ws.getD 0 0).toNat 7 0
def nodeFlags (ws : List Word) : Nat := bitsOf (ws.getD 0 0).toNat 15 8
def nodeReq (ws : List Word) : BitVec 16 := BitVec.ofNat 16 (bitsOf (ws.getD 0 0).toNat 31 16)
def nodeP0 (ws : List Word) : Nat := bitsOf (ws.getD 0 0).toNat 63 32
/-- P1, P2 and P3. -/
def nodeP (ws : List Word) (i : Nat) : Nat := (ws.getD i 0).toNat

/-- The node that a replay stands at, its operands patched; none where it is malformed (R362, R363). The command processor's
addresses are physical. -/
def readNode (s : State) (r : Replay) : Option (List Word) :=
  let raw := (List.range 4).map fun i => BitVec.ofNat 64 (s.memNat (r.node.toNat + 8 * i) 8)
  let patched := fun i => i != 0 && bitOf (nodeFlags raw) i
  if 6 < nodeKind raw || bitsOf (nodeFlags raw) 7 4 != 0 ||
      (List.range 4).any (fun i => patched i && r.nparm.toNat ≤ nodeP raw i) then none
  else some ((List.range 4).map fun i =>
    if patched i then BitVec.ofNat 64 (s.memNat (r.param.toNat + 8 * nodeP raw i) 8) else raw.getD i 0)

/-- A node that is skipped: it names a cancelled or failed request (R366). END still ends the replay, without that request
(log 91). -/
def skipped (r : Replay) (ws : List Word) : Bool :=
  nodeKind ws != 0 && nodeReq ws != 0 && r.skip.contains (nodeReq ws)

/-- Change the running replay. -/
def modReplay (p : Nat) (f : Replay → Replay) : M Unit := modPkg p fun k => { k with replay := k.replay.map f }

/-- Go on to the next node. -/
def nextNode (p : Nat) : M Unit := modReplay p fun r => { r with node := r.node + 32, inHand := [], done := 0 }

/-- A malformed node ends the replay, sets ERR and raises MSI vector 0 (R364). -/
def malformedNode (p : Nat) : M Unit := do
  modPkg p fun k => { k with replay := none, err := true }
  raiseMsi p 0

/-- The entry of a harness (R362): node list, parameter block and its length; none where V is 0 or a zero field is not. -/
def readHarness (s : State) (p : Nat) (i : BitVec 8) : Option (Word × Word × BitVec 12) :=
  let a := (s.pkg p).htbase.toNat + 16 * i.toNat
  let x := s.memNat a 8
  let y := s.memNat (a + 8) 8
  if !bitOf x 0 || bitsOf x 4 1 != 0 || bitsOf x 63 52 != 0 || bitsOf y 2 0 != 0 then none
  else some (BitVec.ofNat 64 (bitsOf x 51 5 * 2 ^ 5), BitVec.ofNat 64 (bitsOf y 51 3 * 2 ^ 3), BitVec.ofNat 12 (bitsOf y 63 52))

/-- Start the next queued replay (R362, R364). -/
def startReplay (p : Nat) : M Unit := do
  let s ← get
  match (s.pkg p).replays with
  | [] => block
  | (i, skip) :: rest =>
    match readHarness s p i with
    | none => modPkg p fun k => { k with replays := rest, err := true }
    | some (node, param, n) =>
      modPkg p fun k => { k with replays := rest, replay := some ⟨i, node, param, n, [], skip, [], 0⟩ }

/-- Start the node that the replay stands at: its words are read, and a request that it names for the first time goes active
(R363, R365). -/
def startNode (p : Nat) (r : Replay) (ws : List Word) : M Unit := do
  let q := nodeReq ws
  let fresh := q != 0 && !r.named.contains q && !r.skip.contains q
  if fresh then modify (setRequest p q 1)
  modReplay p fun r => { r with inHand := ws, named := if fresh then q :: r.named else r.named }

/-- Run the node of a kind: it starts, or goes on where it waits; nothing happens where another node stands. -/
def runNode (kind : Nat) (body : Nat → Replay → List Word → M Unit) : M Unit := do
  let s ← get
  let p := pkgOf s.id
  match (s.pkg p).replay with
  | none => block
  | some r =>
    if r.inHand.isEmpty then
      match readNode s r with
      | none => block
      | some ws =>
        if nodeKind ws != kind || skipped r ws then block
        startNode p r ws
        body p r ws
    else if nodeKind r.inHand = kind then body p r r.inHand
    else block

/-- The dies of the part that P0 names (log 100). -/
def nodeDies (s : State) (p : Nat) (ws : List Word) : List Nat :=
  ((List.range (s.pkg p).part.dies).filter (bitOf (nodeP0 ws))).map (4 * p + ·)

/-- Insert the copies of a LAUNCH from number k on; the node waits at the first that no queue takes (R363). -/
def launchFrom (p : Nat) (ws : List Word) (dies : List Nat) (t : Descriptor) : Nat → Nat → M Unit
  | 0, _ => nextNode p
  | n + 1, k => do
    let s ← get
    let copies := nodeP ws 2
    let d := dies.getD (k / copies) 0
    let i := k % copies
    let seq := nextSeq (s.die d)
    let t' := { t with
      arg := t.arg + BitVec.ofNat 64 (i * nodeP ws 3)
      req := if nodeReq ws = 0 then t.req else nodeReq ws }
    match insertTask d none (newTask (taskId d seq) t' (bitOf (nodeFlags ws) 0) s.time) s with
    | none => modReplay p fun r => { r with done := k }
    | some s' => do
      set (s'.setDie d { s'.die d with seq := seq })
      launchFrom p ws dies t n (k + 1)

/-- LAUNCH (R363): as it starts, the descriptor is read and checked for the dies that the node names; then its copies enter the queues. -/
def launchNode (p : Nat) (r : Replay) (ws : List Word) : M Unit := do
  let s ← get
  let dies := nodeDies s p ws
  let held := ws.length = 12
  let words := if held then ws.drop 4 else (List.range 8).map fun i => BitVec.ofNat 64 (s.memNat (nodeP ws 1 + 8 * i) 8)
  if dies.isEmpty then nextNode p
  else match parseDescriptor words with
    | none => malformedNode p
    | some t =>
      if !held && dies.any fun d => !stageOk s d t then malformedNode p
      else do
        modReplay p fun r => { r with inHand := ws.take 4 ++ words }
        launchFrom p ws dies t (dies.length * nodeP ws 2 - r.done) r.done

/-- GRAPH (R363) from die i on: the node waits at a die that holds a staged task. -/
def graphFrom (p : Nat) (ws : List Word) : Nat → Nat → M Unit
  | 0, _ => nextNode p
  | n + 1, i => do
    let s ← get
    let d := 4 * p + i
    if !(nodeDies s p ws).contains d then graphFrom p ws n (i + 1)
    else if holdsStaged s d then modReplay p fun r => { r with done := i }
    else do
      let xs := Config.graphImage (BitVec.ofNat 64 (nodeP ws 1)) s.freeCount
      modify fun s => loadGraph d xs { s with freeCount := s.freeCount + 1 }
      graphFrom p ws n (i + 1)

/-- NOTIFY's write: to a global address, or to the host's own memory, which is no state of this machine. -/
def notifyWrite (p a x : Nat) : M Unit := modify fun s =>
  if absent s p a || isControlWindow a then s else s.putNat a 8 x

/-- The end of a replay: its requests that are still active are done (R365). -/
def endReplay (p : Nat) (r : Replay) (ws : List Word) : M Unit := do
  let q := nodeReq ws
  let named := if q != 0 && !r.named.contains q && !r.skip.contains q then q :: r.named else r.named
  modify fun s => named.foldl (fun s q => if requestState s p q = 1 then setRequest p q 2 s else s) s
  modPkg p fun k => { k with replay := none }

/-- LDB (R99): Loads a sign-extended byte from A plus a scaled offset. -/
def execLdb (d : BitVec 7) (a : BitVec 7) (o : BitVec 9) (s : State) : Host.Outcome State Fault Refusal :=
  runScalar (encLdb d a o).toWord (loadOffset d a o 1 true) s

/-- LDBU (R99): Loads a zero-extended byte. -/
def execLdbu (d : BitVec 7) (a : BitVec 7) (o : BitVec 9) (s : State) : Host.Outcome State Fault Refusal :=
  runScalar (encLdbu d a o).toWord (loadOffset d a o 1 false) s

/-- LDH (R99): Loads a sign-extended halfword. -/
def execLdh (d : BitVec 7) (a : BitVec 7) (o : BitVec 9) (s : State) : Host.Outcome State Fault Refusal :=
  runScalar (encLdh d a o).toWord (loadOffset d a o 2 true) s

/-- LDHU (R99): Loads a zero-extended halfword. -/
def execLdhu (d : BitVec 7) (a : BitVec 7) (o : BitVec 9) (s : State) : Host.Outcome State Fault Refusal :=
  runScalar (encLdhu d a o).toWord (loadOffset d a o 2 false) s

/-- LDW (R99): Loads a sign-extended word. -/
def execLdw (d : BitVec 7) (a : BitVec 7) (o : BitVec 9) (s : State) : Host.Outcome State Fault Refusal :=
  runScalar (encLdw d a o).toWord (loadOffset d a o 4 true) s

/-- LDWU (R99): Loads a zero-extended word. -/
def execLdwu (d : BitVec 7) (a : BitVec 7) (o : BitVec 9) (s : State) : Host.Outcome State Fault Refusal :=
  runScalar (encLdwu d a o).toWord (loadOffset d a o 4 false) s

/-- LDD (R99): Loads a doubleword. -/
def execLdd (d : BitVec 7) (a : BitVec 7) (o : BitVec 9) (s : State) : Host.Outcome State Fault Refusal :=
  runScalar (encLdd d a o).toWord (loadOffset d a o 8 false) s

/-- STB (R99): Stores the low byte of the source named by d. -/
def execStb (d : BitVec 7) (a : BitVec 7) (o : BitVec 9) (s : State) : Host.Outcome State Fault Refusal :=
  runScalar (encStb d a o).toWord (storeOffset d a o 1) s

/-- STH (R99): Stores the low halfword. -/
def execSth (d : BitVec 7) (a : BitVec 7) (o : BitVec 9) (s : State) : Host.Outcome State Fault Refusal :=
  runScalar (encSth d a o).toWord (storeOffset d a o 2) s

/-- STW (R99): Stores the low word. -/
def execStw (d : BitVec 7) (a : BitVec 7) (o : BitVec 9) (s : State) : Host.Outcome State Fault Refusal :=
  runScalar (encStw d a o).toWord (storeOffset d a o 4) s

/-- STD (R99): Stores the doubleword. -/
def execStd (d : BitVec 7) (a : BitVec 7) (o : BitVec 9) (s : State) : Host.Outcome State Fault Refusal :=
  runScalar (encStd d a o).toWord (storeOffset d a o 8) s

/-- LDXB (R99): Indexed load of a sign-extended byte, index optionally scaled. -/
def execLdxb (d : BitVec 7) (a : BitVec 7) (b : BitVec 7) (sf : BitVec 1) (s : State) : Host.Outcome State Fault Refusal :=
  runScalar (encLdxb d a b sf).toWord (loadIndexed d a b sf 1 true) s

/-- LDXBU (R99): Indexed load of a zero-extended byte. -/
def execLdxbu (d : BitVec 7) (a : BitVec 7) (b : BitVec 7) (sf : BitVec 1) (s : State) : Host.Outcome State Fault Refusal :=
  runScalar (encLdxbu d a b sf).toWord (loadIndexed d a b sf 1 false) s

/-- LDXH (R99): Indexed load of a sign-extended halfword. -/
def execLdxh (d : BitVec 7) (a : BitVec 7) (b : BitVec 7) (sf : BitVec 1) (s : State) : Host.Outcome State Fault Refusal :=
  runScalar (encLdxh d a b sf).toWord (loadIndexed d a b sf 2 true) s

/-- LDXHU (R99): Indexed load of a zero-extended halfword. -/
def execLdxhu (d : BitVec 7) (a : BitVec 7) (b : BitVec 7) (sf : BitVec 1) (s : State) : Host.Outcome State Fault Refusal :=
  runScalar (encLdxhu d a b sf).toWord (loadIndexed d a b sf 2 false) s

/-- LDXW (R99): Indexed load of a sign-extended word. -/
def execLdxw (d : BitVec 7) (a : BitVec 7) (b : BitVec 7) (sf : BitVec 1) (s : State) : Host.Outcome State Fault Refusal :=
  runScalar (encLdxw d a b sf).toWord (loadIndexed d a b sf 4 true) s

/-- LDXWU (R99): Indexed load of a zero-extended word. -/
def execLdxwu (d : BitVec 7) (a : BitVec 7) (b : BitVec 7) (sf : BitVec 1) (s : State) : Host.Outcome State Fault Refusal :=
  runScalar (encLdxwu d a b sf).toWord (loadIndexed d a b sf 4 false) s

/-- LDXD (R99): Indexed load of a doubleword. -/
def execLdxd (d : BitVec 7) (a : BitVec 7) (b : BitVec 7) (sf : BitVec 1) (s : State) : Host.Outcome State Fault Refusal :=
  runScalar (encLdxd d a b sf).toWord (loadIndexed d a b sf 8 false) s

/-- STXB (R99): Indexed store of a byte. -/
def execStxb (d : BitVec 7) (a : BitVec 7) (b : BitVec 7) (sf : BitVec 1) (s : State) : Host.Outcome State Fault Refusal :=
  runScalar (encStxb d a b sf).toWord (storeIndexed d a b sf 1) s

/-- STXH (R99): Indexed store of a halfword. -/
def execStxh (d : BitVec 7) (a : BitVec 7) (b : BitVec 7) (sf : BitVec 1) (s : State) : Host.Outcome State Fault Refusal :=
  runScalar (encStxh d a b sf).toWord (storeIndexed d a b sf 2) s

/-- STXW (R99): Indexed store of a word. -/
def execStxw (d : BitVec 7) (a : BitVec 7) (b : BitVec 7) (sf : BitVec 1) (s : State) : Host.Outcome State Fault Refusal :=
  runScalar (encStxw d a b sf).toWord (storeIndexed d a b sf 4) s

/-- STXD (R99): Indexed store of a doubleword. -/
def execStxd (d : BitVec 7) (a : BitVec 7) (b : BitVec 7) (sf : BitVec 1) (s : State) : Host.Outcome State Fault Refusal :=
  runScalar (encStxd d a b sf).toWord (storeIndexed d a b sf 8) s

/-- HARNESS_REPLAY (R364): The command processor starts the next queued replay once the previous one ends. -/
def execHarnessReplay (s : State) : Host.Outcome State Fault Refusal :=
  runEvent (do
    let s ← get
    let p := pkgOf s.id
    match (s.pkg p).replay with
    | none => if (s.pkg p).ready then startReplay p else block
    | some r =>
      if !r.inHand.isEmpty then block
      else match readNode s r with
        | none => malformedNode p
        | some ws => if skipped r ws then nextNode p else block) s

/-- END (R365): Ends a replay, marking its active requests done. -/
def execEndReplay (s : State) : Host.Outcome State Fault Refusal :=
  runEvent (runNode 0 endReplay) s

/-- LAUNCH (R363): Inserts copies of a descriptor into die queues, waiting for room. -/
def execLaunch (s : State) : Host.Outcome State Fault Refusal :=
  runEvent (runNode 1 launchNode) s

/-- WAITEV (R363): Waits for a die event counter to be satisfied, then acquires. -/
def execWaitev (s : State) : Host.Outcome State Fault Refusal :=
  runEvent (runNode 2 fun p _ ws => do
    let s ← get
    if satisfied (s.event (4 * p + bitsOf (nodeP0 ws) 1 0) (bitsOf (nodeP0 ws) 23 12)) then nextNode p else pure ()) s

/-- EVADD (R363): Releases and adds a signed amount to a die event counter. -/
def execEvadd (s : State) : Host.Outcome State Fault Refusal :=
  runEvent (runNode 3 fun p _ ws => do
    let d := 4 * p + bitsOf (nodeP0 ws) 1 0
    let n := bitsOf (nodeP0 ws) 23 12
    modify fun s => setEvent d n (s.event d n + BitVec.ofNat 32 (nodeP ws 1)) s
    nextNode p) s

/-- KLOAD (R363): Copies a kernel image and invalidates every instruction cache. -/
def execKload (s : State) : Host.Outcome State Fault Refusal :=
  runEvent (runNode 4 fun p _ ws => do
    modify fun s => s.putBytes (nodeP ws 2) (sparseGetList memDefault s.mem (nodeP ws 1) (nodeP ws 3))
    modify fun s => (s.cores.map Prod.fst).foldl (fun s c =>
      if c / 192 = p then s.setCore c { s.core c with code := [] } else s) s
    nextNode p) s

/-- GRAPH (R363): Waits for each named die to hold no staged task, then loads the graph. -/
def execGraph (s : State) : Host.Outcome State Fault Refusal :=
  runEvent (runNode 5 fun p r ws => graphFrom p ws (4 - r.done) r.done) s

/-- NOTIFY (R363): Writes a value with release at pod scope and raises an MSI. -/
def execNotify (s : State) : Host.Outcome State Fault Refusal :=
  runEvent (runNode 6 fun p _ ws => do
    notifyWrite p (nodeP ws 1) (nodeP ws 2)
    raiseMsi p (BitVec.ofNat 11 (nodeP0 ws))
    nextNode p) s

/-- CONTROL_WINDOW_WRITE (R361): A write to a control-window register with no behaviour of its own. -/
def execControlWindowWrite (span : HostSpan) (val : BitVec 64) (s : State) : Host.Outcome State Fault Refusal :=
  runEvent (do hostControlWrite (pkgOf (← get).id) span.off.toNat span.size.toNat val.toNat) s

/-- HDOOR (R364): Queues one replay of a harness. -/
def execHdoor (val : BitVec 64) (s : State) : Host.Outcome State Fault Refusal :=
  runEvent (do queueReplay (pkgOf (← get).id) val.toNat) s

/-- CANCEL (R366): Cancels an active request, skipping nodes and ending its tasks. -/
def execCancel (val : BitVec 64) (s : State) : Host.Outcome State Fault Refusal :=
  runEvent (do cancelRequest (pkgOf (← get).id) (val.extractLsb' 0 16)) s

/-- HDBELL (R361): Sets IPEND.HOST of the named hart. -/
def execHdbell (val : BitVec 64) (s : State) : Host.Outcome State Fault Refusal :=
  runEvent (do ringDoorbell (pkgOf (← get).id) val.toNat) s

/-- HOST_WINDOW_ACCESS (R368): A host access through BAR2 performs at the selected die's HBM. -/
def execHostWindowAccess (span : HostSpan) (wr : BitVec 1) (data : BitVec 32768) (s : State) : Host.Outcome State Fault Refusal :=
  runEvent (do hostWindow (pkgOf (← get).id) span.off.toNat span.size.toNat (wr == 1) data.toNat) s

end Sys2Proof.Machine
end

