-- ==== Sys2Proof/Machine/Links.lean ====
section
/-! DEFINITION. Rein links (R372–R374), failures and readmission of packages (R395), accesses from other packages (R376) and the
time master (R356): the events of the pod. -/

namespace Sys2Proof.Machine

/-- Change a link of a package. -/
def modLink (p : Nat) (n : BitVec 6) (f : Link → Link) : M Unit :=
  modPkg p fun k => { k with links := sparsePut Link.reset k.links n.toNat (f (sparseGet Link.reset k.links n.toNat)) }

/-- Log a link or package event on die 0 of a package; its source and address are not given (log 12). -/
def logFabric (p cls : Nat) : M Unit := do
  let x ← freeWord
  let y ← freeWord
  logEvent (4 * p) (x.toNat % 2 ^ 16) cls y.toNat

/-- Run an event on a link of the package in focus, when the package has it. -/
def onLink (n : BitVec 6) (f : Nat → Link → M Unit) : M Unit := do
  let s ← get
  if 35 < n.toNat then block
  f (pkgOf s.id) (sparseGet Link.reset s.myPkg.links n.toNat)

/-- A page-in of a lost package fails for the packages that asked from afar (R395). -/
def splitPageIn (q : Nat) (p : PageIn) : List PageIn :=
  let far := p.misses.filter fun m => m.asker != q
  if p.ended.isSome || far.isEmpty then [p]
  else [{ p with misses := p.misses.filter fun m => m.asker == q }, ⟨p.block, none, p.issuer, far, 0, some (4, p.block)⟩]

/-- A package has lost its last up link: every other package clears its PODMAP bit, and it reaches none of them (R375, R395); where none has
the bit any more, that is logged already. -/
def losePackage (q : Nat) : M Unit := do
  let s ← get
  let known := (List.range 64).any fun p => p != q && (s.pkg p).podmap.getLsbD q
  modify fun s => (List.range 64).foldl (fun s p =>
    s.setPkg p { s.pkg p with podmap :=
      if p = q then BitVec.ofNat 64 (2 ^ q) else (s.pkg p).podmap &&& ~~~(BitVec.ofNat 64 (2 ^ q)) }) s
  modPkg q fun k => { k with pageIns := k.pageIns.flatMap (splitPageIn q) }
  if known then logFabric q 2

/-- Put a flit on a link: it takes the next sequence number, and the replay buffer keeps the last 256 (R372, R373). -/
def Link.send (l : Link) (f : Flit) : Link := { l with
  sendSeq := l.sendSeq + 1
  sent := (l.sent ++ [{ f with seq := l.sendSeq }]).drop (l.sent.length + 1 - 256) }

/-- A package sends a flit on an up link (R373). -/
def sendFlit (p : Nat) (n : BitVec 6) (f : Flit) : M Unit := do
  let l := sparseGet Link.reset ((← get).pkg p).links n.toNat
  if 35 < n.toNat || l.st != 2 then block
  modLink p n fun l => l.send f

/-- The receiver's half of R373: a flit that fails the CRC is discarded, with a NAK that names it and every later flit discarded until
it comes again; a good flit in its turn is delivered. A replay that succeeds is logged as class 1 (R395). -/
def receiveFlit (p : Nat) (n : BitVec 6) (l : Link) (f : Flit) (good : Bool) : M Unit := do
  if l.st != 2 then block
  if !good then modLink p n fun l => { l with naked := true }
  else if f.seq = l.seq then do
    modLink p n fun l => { l with seq := l.seq + 1, naked := false, inbox := l.inbox ++ [f] }
    if l.naked then logFabric p 1

/-- The traffic of a link that has gone down moves to another up link to the same switch, in order (R373): the lowest-numbered one
(log 92). What the replay buffer holds from the flit that the last NAK named on has not been delivered. -/
def moveTraffic (p : Nat) (n : BitVec 6) (l : Link) : M Unit := do
  let k := (← get).pkg p
  match findFrom 36 0 fun i =>
      i != n.toNat && (sparseGet Link.reset k.links i).st == 2 && (sparseGet Link.reset k.links i).switch == l.switch with
  | none => pure ()
  | some i => do
    modLink p (BitVec.ofNat 6 i) fun x => l.sent.foldl Link.send x
    modLink p n fun x => { x with sent := [] }

/-- FLIT_RECEIVE (R373): A Rein flit is corrected and CRC-checked, accepted or NAKed. -/
def execFlitReceive (link : BitVec 6) (flit : Flit) (good : BitVec 1) (s : State) : Host.Outcome State Fault Refusal :=
  runEvent (onLink link fun p l => receiveFlit p link l flit (good == 1)) s

/-- LINK_REPLAY (R373): A NAK makes the sender replay from the named flit; those before it have been delivered, and leave the buffer. -/
def execLinkReplay (nak : Nak) (s : State) : Host.Outcome State Fault Refusal :=
  runEvent (onLink nak.link fun p l => do
    let again := l.sent.dropWhile fun f => f.seq != nak.seq
    let tries := if l.named = nak.seq then l.tries else 0
    if l.st != 2 || again.isEmpty || 8 ≤ tries.toNat then block
    modLink p nak.link fun l => { l with
      sent := again, replays := l.replays + BitVec.ofNat 32 again.length, named := nak.seq, tries := tries + 1 }) s

/-- LINK_RETRAIN (R373): A flit replayed 8 times makes the link retrain. -/
def execLinkRetrain (link : BitVec 6) (s : State) : Host.Outcome State Fault Refusal :=
  runEvent (onLink link fun p l => do
    if l.st != 2 || l.tries.toNat < 8 then block
    modLink p link fun l => { l with st := 1, tries := 0 }) s

/-- LINK_DOWN (R373): A failed retrain takes the link down and moves its traffic. -/
def execLinkDown (link : BitVec 6) (s : State) : Host.Outcome State Fault Refusal :=
  runEvent (onLink link fun p l => do
    if l.st != 1 then block
    modLink p link fun l => { l with st := 0 }
    moveTraffic p link l
    logFabric p 2
    if !linkUp ((← get).pkg p) then losePackage p) s

/-- LINK_UP (R395): A Rein link that was down trains again and comes up, so that its package can be reached and readmitted. -/
def execLinkUp (far : LinkEnd) (s : State) : Host.Outcome State Fault Refusal :=
  runEvent (onLink far.link fun p l => do
    if l.st = 2 || l.st = 3 then block
    modLink p far.link fun l => { l with st := 2, peer := far.peer, tries := 0 }
    if l.st = 1 then logFabric p 1) s

/-- REMOTE_TIMEOUT (R395): A remote access unanswered for 2^22 cycles treats its package as unreachable. The access is the next one of
the hart in focus to that package; where the package is lost already, it is one that was outstanding then, and nothing more is logged. -/
def execRemoteTimeout (pkg : BitVec 6) (s : State) : Host.Outcome State Fault Refusal :=
  runEvent (do
    let s ← get
    let p := pkgOf s.id
    if pkg.toNat = p then block
    modHart fun h => { h with unanswered := some pkg }
    if (s.pkg p).podmap.getLsbD pkg.toNat then logFabric p 2) s

/-- ADMIT (R395): A REINCTL write on package 0 readmits a package to PODMAP. -/
def execAdmitPackage (val : BitVec 64) (s : State) : Host.Outcome State Fault Refusal :=
  runEvent (if val.getLsbD 8 then readmit (val.toNat % 64) else pure ()) s

/-- REMOTE_ACCESS (R376): An access from another package arrives and performs at the home L2. -/
def execRemoteAccess (addr : BitVec 52) (wr : BitVec 1) (data : BitVec 64) (s : State) : Host.Outcome State Fault Refusal :=
  runEvent (modify fun s =>
    if wr = 0 || absent s (pkgOf s.id) addr.toNat || isControlWindow addr.toNat then s
    else s.putNat addr.toNat 8 data.toNat) s

/-- TSC_SYNC (R356): Package 0 slews every TSC within 4 counts of its own. -/
def execTscSync (pkg : BitVec 6) (s : State) : Host.Outcome State Fault Refusal :=
  runEvent (modify fun s =>
    let k := s.pkg pkg.toNat
    if pkg = 0 || k.tscSkew = 0 then s
    else { s.setPkg pkg.toNat { k with tscSkew := if 0 < k.tscSkew then k.tscSkew - 1 else k.tscSkew + 1 } with
      time := s.time + 2 }) s

end Sys2Proof.Machine
end

