-- ==== Sys2Proof/Machine/Events.lean ====
section
/-! DEFINITION. Interrupts and their sources (R123, R124, R366), the annulled step (R106), retention (R329), throttling (R371),
package reset (R370) and the root of trust (R369). -/

namespace Sys2Proof.Machine

/-- TCMP raises TIMER once TSC has reached it, and disarms (R123). -/
def compareTimer : M Unit := do
  let s ← get
  let t := s.hart.trap
  if t.tcmpEn = 1 && t.tcmpTime.toNat ≤ s.tsc (pkgOf s.id) then
    modTrapRegs fun t => { t with ipend := t.ipend ||| 1, tcmpEn := 0 }
  else block

/-- CANCEL at a boundary below privilege 2 (R124). -/
def takeCancel : M Unit := do
  let h ← getHart
  if h.phase = .idle || h.phase = .halted || h.trap.priv = 2 || !h.trap.ipend.getLsbD 3 then block
  trapEntry false .cancel 0

/-- The pending interrupt that a hart takes (R124): the highest enabled bit, PREEMPT apart. -/
def pendingInterrupt (t : TrapRegs) : Option Cause :=
  let x := t.ipend &&& t.imask
  if t.ie = 0 then none
  else if x.getLsbD 3 then some .cancel
  else if x.getLsbD 1 then some .host
  else if x.getLsbD 0 then some .timer
  else none

/-- An interrupt at a boundary (R124, R125). -/
def takeInterrupt : M Unit := do
  let h ← getHart
  if h.phase = .idle || h.phase = .halted then block
  match pendingInterrupt h.trap with
  | some c => trapEntry false c 0
  | none => block

/-- An annulled word passes through PC as one step (R106). -/
def annulledStep : M Unit := do
  if !(← getHart).fetch.apc then block
  advance .next

/-! ## Errors (R212, R330) -/

/-- Log errors that were corrected, at addresses that the manual does not give (R329, log 12). -/
def logCorrected (d source n : Nat) : M Unit := forN n fun _ => do
  let a ← freeWord
  logEvent d source 0 a.toNat

/-- Add a mark to a list of marks. -/
def addMark (n : Nat) (xs : List Nat) : List Nat := if xs.contains n then xs else n :: xs

/-- Change the vector registers of a hart. -/
def modVecOf (n : Nat) (f : VecRegs → VecRegs) : M Unit :=
  modify fun s => s.setHartAt n { s.hartAt n with vec := f (s.hartAt n).vec }

/-- The die whose log an error goes to, its source and its address or row number (R331). A link's are not given; those of a
stage queue's SRAM are the distributor's and its number, those of a cached translation the walkers' and the address (log 86). -/
def Spot.site (s : State) : Spot → Option (Nat × Nat × Nat)
  | .mem a n => some (homeDie a, n, a)
  | .pool c off => some (dieOfCore c, c % 48, off)
  | .row h b => some (dieOf h, coreOf h % 48, b / 4096)
  | .tile h i => some (dieOf h, coreOf h % 48, i / 16384)
  | .stream h n => some (dieOf h, coreOf h % 48, match sparseGet none (s.hartAt h).vec.streams n with
      | some st => st.row.toNat
      | none => 0)
  | .word q n => some (q / 12, 48 + q % 12, n)
  | .unit c => some (dieOfCore c, c % 48, 0)
  | .sems q => some (q / 12, 48 + q % 12, 0)
  | .link _ _ => none
  | .stage d q _ => some (d, 61, q)
  | .tlb d va => some (d, 66, va)
  | .other d n => some (d, n, 0)

/-- Mark the cached translation of an address. -/
def markTlb (va : Nat) (t : Tlb) : Tlb := if t.page = pageOf t.big va then { t with bad := true } else t

/-- Mark record `r` of stage queue `q`. -/
def markRecord (q r : Nat) (d : Die) : Die := { d with squeues := d.squeues.modify q fun x => { x with marks := addMark r x.marks } }

/-- Data of a unit is lost at an operation for the hart in focus, which takes MCE (R212, R330); XVAL is the unit's source number
(log 121). -/
def loseAt (source : Nat) : M Unit :=
  modHart fun h => { h with pendMce := if h.phase = .idle then h.pendMce else h.pendMce ++ [BitVec.ofNat 64 source] }

/-- Data is lost at a spot: it is marked until a write clears the mark (R330); of a unit that the model does not lay out, the hart in focus
consumes it, and an error in semaphore state fences the quad's semaphores (R265). -/
def Spot.poison : Spot → M Unit
  | .mem a _ => modify fun s => { s with poison := addMark a s.poison }
  | .pool c off => modCore c fun k => { k with spPoison := addMark off k.spPoison }
  | .row h b => modVecOf h fun v => { v with badRows := addMark b v.badRows }
  | .tile h i => modVecOf h fun v => { v with badTiles := addMark i v.badTiles }
  | .stream h n => modVecOf h fun v => { v with
      streams := sparsePut none v.streams n ((sparseGet none v.streams n).map fun st => { st with bad := true }) }
  | .word q n => modQuad q fun k => { k with badWords := addMark n k.badWords }
  | .unit c => loseAt (c % 48)
  | .sems q => modQuad q fun k => { k with semFenced := true }
  | .link _ _ => pure ()
  | .stage d q r => modDie d (markRecord q r)
  | .tlb d va => modDie d fun x => { x with tlb := x.tlb.map (markTlb va) }
  | .other _ n => loseAt n

/-- A lasting fault in a unit of a die, by its source number (R331): a core, a quad, or another one (log 121). -/
def fenceUnit (d n : Nat) : M Unit :=
  if n < 48 then modCore (48 * d + n) fun k => { k with fenced := true }
  else if n < 60 then modQuad (12 * d + (n - 48)) fun k => { k with semFenced := true, deadWords := List.range 32 }
  else modDie d fun x => { x with fenced := addMark n x.fenced }

/-- A lasting fault fences the unit (R212, R265, R374), and the data at the spot is lost; a word that no write mends stays marked (R330), and
a package whose last up link is fenced is lost (R375, R395). -/
def Spot.fence (x : Spot) : M Unit := do
  x.poison
  match x with
  | .mem a _ => modify fun s => { s with dead := addMark a s.dead }
  | .pool c _ => modCore c fun k => { k with fenced := true }
  | .row h _ => modCore (coreOf h) fun k => { k with fenced := true }
  | .tile h _ => modCore (coreOf h) fun k => { k with fenced := true }
  | .stream h _ => modCore (coreOf h) fun k => { k with fenced := true }
  | .word q n => modQuad q fun k => { k with deadWords := addMark n k.deadWords }
  | .unit c => modCore c fun k => { k with fenced := true }
  | .sems _ => pure ()
  | .link p n => do
    modLink p (BitVec.ofNat 6 n) fun l => { l with st := 3 }
    if !linkUp ((← get).pkg p) then losePackage p
  | .stage d q _ => modDie d fun x => { x with fencedQueues := addMark q x.fencedQueues }
  | .tlb d _ => fenceUnit d 66
  | .other d n => fenceUnit d n

/-- An error of a class at a spot is logged (R330): class 0 and class 1 change nothing more, class 3 marks the spot, class 2 fences its
unit. -/
def upsetAt (cls : BitVec 2) (x : Spot) : M Unit := do
  match x.site (← get), x with
  | some (d, source, addr), _ => logEvent d source cls.toNat addr
  | none, .link p _ => logFabric p cls.toNat
  | none, _ => pure ()
  if cls = 3 then x.poison
  else if cls = 2 then x.fence

/-- A core holds no task. -/
def coreEmpty (s : State) (c : Nat) : Bool := !(hartsOf c).any (busy s)

/-- The root of trust accepts an image: both signatures verify, and its version is not below the fused rollback counter (R369, log 99). -/
def imageOk (k : Pkg) (edSig mlSig : BitVec 1) (version : BitVec 32) : Bool :=
  edSig == 1 && mlSig == 1 && decide (k.fuse.toNat ≤ version.toNat)

/-- Bring-up ends at a step up to the fourth, in which the links train (R370). -/
def linksFail (failStep : BitVec 3) : Bool := 1 ≤ failStep.toNat && failStep.toNat ≤ 4

/-- A package after reset (R370), its clock counting from now (R356); what the part is and what its fuses hold stay. Its links train in
step 4, in which its map is set (R375). -/
def Pkg.restarted (now : Nat) (map : BitVec 64) (old : Pkg) (failStep : BitVec 3) : Pkg :=
  let bad := 1 ≤ failStep.toNat && failStep.toNat ≤ 5
  { Pkg.reset with
    links := if linksFail failStep then (List.range 36).map fun i => (i, { Link.reset with st := 0 }) else []
    podmap := map
    part := old.part
    cxl := old.cxl
    fuse := old.fuse
    clkTime := now
    ready := !bad
    boot := if bad then Config.bringUpError failStep else 0 }

/-- Everything that a package holds goes to its reset state; memory keeps what it holds (R370). -/
def resetPackage (p : Nat) (failStep : BitVec 3) (s : State) : State :=
  let keep := fun {α : Type} (n : Nat) (m : Sparse α) => m.filter fun x => x.1 / n != p
  { s with
    hart := if pkgOf s.id = p then Hart.reset else s.hart
    others := keep hartsPerPkg s.others
    cores := keep 192 s.cores
    quads := keep 48 s.quads
    dies := keep 4 s.dies
    pkgs := sparsePut Pkg.reset s.pkgs p (Pkg.restarted s.time (podmapOf s p) (s.pkg p) failStep)
    podBarriers := if p = 0 then [] else s.podBarriers
    parked := false }

/-- An SPDM request (R369) is answered where the session may take it, and leaves the session at `next`; the response is the
root of trust's. -/
def spdmRequest (may : Spdm → Bool) (next : Spdm) : M Unit := do
  let s ← get
  if !may s.myPkg.spdm then block
  set { s with freeCount := s.freeCount + 1 }
  modPkg (pkgOf s.id) fun k => { k with spdm := next, spdmOut := Config.spdmResponse s.freeCount }

/-- ANNULLED_STEP (R106): An annulled word passes through PC as one step with no effect. -/
def execAnnulledStep (s : State) : Host.Outcome State Fault Refusal :=
  runEvent (annulledStep) s

/-- INTERRUPT (R124): At a boundary a pending enabled interrupt is taken with cause 0x80 plus its bit. -/
def execInterrupt (s : State) : Host.Outcome State Fault Refusal :=
  runEvent (do
    match ← attempt takeCancel with
    | .ok _ => pure ()
    | .error _ => takeInterrupt) s

/-- TIMER (R123): TSC reaches TCMP.TIME, setting IPEND.TIMER and clearing EN. -/
def execTimer (s : State) : Host.Outcome State Fault Refusal :=
  runEvent (compareTimer) s

/-- IPSET (R123): A privileged write sets IPEND bits of a target hart of the die. -/
def execIpset (val : BitVec 64) (s : State) : Host.Outcome State Fault Refusal :=
  runEvent (writeReg 0x139 val) s

/-- RETENTION_ENTRY (R329): An idle bank enters retention and re-encodes to DEC-TED. -/
def execRetentionEntry (bank : BitVec 6) (s : State) : Host.Outcome State Fault Refusal :=
  runEvent (do
    let s ← get
    let d := dieOf s.id
    if s.myDie.retEn = 0 then block
    if coreEmpty s (coreOf s.id) && !s.myCore.retained.contains bank.toNat then
      modCore (coreOf s.id) fun k => { k with retained := bank.toNat :: k.retained }
    else if !s.myDie.retained.contains bank.toNat then modDie d fun k => { k with retained := bank.toNat :: k.retained }
    else block) s

/-- RETENTION_EXIT (R329): An access wakes a retained bank, which re-encodes to SEC-DED; each error corrected on the way is logged as
class 0. -/
def execRetentionExit (exit : BankExit) (s : State) : Host.Outcome State Fault Refusal :=
  runEvent (do
    let s ← get
    let d := dieOf s.id
    let bank := exit.bank
    if s.myCore.retained.contains bank.toNat then do
      modCore (coreOf s.id) fun k => { k with retained := k.retained.filter fun b => b != bank.toNat }
      logCorrected d (coreOf s.id % 48) exit.corrected.toNat
    else if s.myDie.retained.contains bank.toNat then do
      modDie d fun k => { k with retained := k.retained.filter fun b => b != bank.toNat }
      logCorrected d 60 exit.corrected.toNat
    else block) s

/-- THROTTLE (R371): A thermal or power limit lowers the arithmetic clock in 100 MHz steps. -/
def execThrottle (steps : BitVec 8) (s : State) : Host.Outcome State Fault Refusal :=
  runEvent (modify fun s =>
    let p := pkgOf s.id
    s.setPkg p { s.pkg p with
      mhz := Nat.max 100 ((s.pkg p).mhz - 100 * steps.toNat), clkBase := s.cycles p, clkTime := s.time }) s

/-- PACKAGE_RESET (R370): PERST# deassertion runs bring-up from root of trust to READY; an image that the root of trust does not accept
fails step 1 (R369). A package whose links do not train is lost (R395). -/
def execPackageReset (bringUp : BringUp) (s : State) : Host.Outcome State Fault Refusal :=
  runEvent (do
    let s ← get
    let p := pkgOf s.id
    let step := if imageOk s.myPkg bringUp.edSig bringUp.mlSig bringUp.version then bringUp.failStep else 1
    modify (resetPackage p step)
    if linksFail step then losePackage p) s

/-- HOST_CONFIG_REQUEST (R370): A PCIe configuration request from the host is answered with Request Retry Status until READY, and completes normally after that. -/
def execHostConfigRequest (_ : BitVec 1) (s : State) : Host.Outcome State Fault Refusal :=
  runEvent (modify fun s =>
    let p := pkgOf s.id
    if (s.pkg p).ready then s
    else s.setPkg p { s.pkg p with configRetries := (s.pkg p).configRetries + 1 }) s

/-- GET_VERSION (R369): SPDM request answered with supported versions. -/
def execGetVersion (s : State) : Host.Outcome State Fault Refusal :=
  runEvent (spdmRequest (fun _ => true) .version) s

/-- GET_CAPABILITIES (R369): SPDM request answered with capabilities. -/
def execGetCapabilities (s : State) : Host.Outcome State Fault Refusal :=
  runEvent (spdmRequest (fun x => x == .version) .capabilities) s

/-- NEGOTIATE_ALGORITHMS (R369): SPDM request fixing the algorithms. -/
def execNegotiateAlgorithms (s : State) : Host.Outcome State Fault Refusal :=
  runEvent (spdmRequest (fun x => x == .capabilities) .algorithms) s

/-- GET_DIGESTS (R369): SPDM request for certificate digests. -/
def execGetDigests (s : State) : Host.Outcome State Fault Refusal :=
  runEvent (spdmRequest (fun x => x == .algorithms) .algorithms) s

/-- GET_CERTIFICATE (R369): SPDM request for a certificate chain. -/
def execGetCertificate (s : State) : Host.Outcome State Fault Refusal :=
  runEvent (spdmRequest (fun x => x == .algorithms) .algorithms) s

/-- CHALLENGE (R369): SPDM challenge answered with a signed response. -/
def execChallenge (s : State) : Host.Outcome State Fault Refusal :=
  runEvent (spdmRequest (fun x => x == .algorithms) .algorithms) s

/-- GET_MEASUREMENTS (R369): SPDM request answered with doubly signed measurements. -/
def execGetMeasurements (s : State) : Host.Outcome State Fault Refusal :=
  runEvent (spdmRequest (fun x => x == .algorithms) .algorithms) s

end Sys2Proof.Machine
end

