-- ==== Sys2Proof/Machine/Float.lean ====
section
/-! DEFINITION. Scalar floating point (R102, R103): FPS and FFMA. Operands are FP32 patterns in bits 31:0, rounding follows
FRM with mode 4 acting as mode 0, and the stochastic generator does not advance (R79, R102). -/

namespace Sys2Proof.Machine

/-- The rounding mode of a scalar operation (R102). -/
def scalarMode : M Nat := do
  let m := (← getHart).cfg.frm.toNat
  pure (if m = 4 then 0 else m)

/-- Bits 31:0 of a scalar. -/
def lo32 (x : Word) : Nat := x.toNat % 2 ^ 32

/-- `D := rnd(f(A, B), FP32)` (R102). -/
def fbinary (d a b : BitVec 7) (f : Nat → Ex → Ex → Ex × Flags) : M Flow := do
  checkScalar d
  let x ← readScalar a
  let y ← readScalar b
  let mode ← scalarMode
  let (r, fl) := f mode (v32 (lo32 x)) (v32 (lo32 y))
  let (p, fl') := fp32.rnd mode 0 false r
  setFlags (fl ||| fl')
  writeScalar d (BitVec.ofNat 64 p)
  pure .next

/-- A comparison or a selection of two FP32 patterns (R84, R102). -/
def fpick (d a b : BitVec 7) (f : Nat → Nat → Nat × Flags) : M Flow := do
  checkScalar d
  let x ← readScalar a
  let y ← readScalar b
  let (r, fl) := f (lo32 x) (lo32 y)
  setFlags fl
  writeScalar d (BitVec.ofNat 64 r)
  pure .next

/-- `D := f(A)` with flags, under the rounding mode. -/
def funary (d a : BitVec 7) (f : Nat → Word → Word × Flags) : M Flow := do
  checkScalar d
  let x ← readScalar a
  let mode ← scalarMode
  let (r, fl) := f mode x
  setFlags fl
  writeScalar d r
  pure .next

/-- A truth value as 1 or 0, with flags. -/
def boolNat (r : Bool × Flags) : Nat × Flags := (r.1.toNat, r.2)

/-- The class word of R102: KIND, sign, biased exponent. -/
def classWord (x : Nat) : Nat :=
  let e := bitsOf x 30 23
  let m := bitsOf x 22 0
  let kind := if e = 0 then if m = 0 then 0 else 1 else if e = 255 then if m = 0 then 3 else if m < 2 ^ 22 then 5 else 4 else 2
  kind + 8 * (bitOf x 31).toNat + 16 * e

/-- `rnd` of an exact value to a format, as a scalar. -/
def rndWord (f : Fmt) (mode : Nat) (x : Ex) : Word × Flags :=
  let (p, fl) := f.rnd mode 0 false x
  (BitVec.ofNat 64 p, fl)

/-- `D := rnd(±(A × B) ± C)` with C the destination's old value, rounded once (R103). -/
def fmadd (d a b : BitVec 7) (negP negC : Bool) : M Flow := do
  checkScalar d
  let x ← readScalar a
  let y ← readScalar b
  let z ← readScalar d
  let mode ← scalarMode
  let (r, fl) := Ex.fma mode negP negC (v32 (lo32 x)) (v32 (lo32 y)) (v32 (lo32 z))
  let (p, fl') := fp32.rnd mode 0 false r
  setFlags (fl ||| fl')
  writeScalar d (BitVec.ofNat 64 p)
  pure .next

/-- FADD (R102): Scalar FP32 addition rounded under FRM. -/
def execFadd (d : BitVec 7) (a : BitVec 7) (b : BitVec 7) (s : State) : Host.Outcome State Fault Refusal :=
  runScalar (encFadd d a b).toWord (fbinary d a b fun mode x y => x.add mode y) s

/-- FSUB (R102): Scalar FP32 subtraction. -/
def execFsub (d : BitVec 7) (a : BitVec 7) (b : BitVec 7) (s : State) : Host.Outcome State Fault Refusal :=
  runScalar (encFsub d a b).toWord (fbinary d a b fun mode x y => x.add mode y.negate) s

/-- FMUL (R102): Scalar FP32 multiplication. -/
def execFmul (d : BitVec 7) (a : BitVec 7) (b : BitVec 7) (s : State) : Host.Outcome State Fault Refusal :=
  runScalar (encFmul d a b).toWord (fbinary d a b fun _ x y => x.mul y) s

/-- FDIV (R102): Scalar FP32 division. -/
def execFdiv (d : BitVec 7) (a : BitVec 7) (b : BitVec 7) (s : State) : Host.Outcome State Fault Refusal :=
  runScalar (encFdiv d a b).toWord (fbinary d a b fun _ x y => x.div y) s

/-- FSQRT (R102): Scalar FP32 square root. -/
def execFsqrt (d : BitVec 7) (a : BitVec 7) (s : State) : Host.Outcome State Fault Refusal :=
  runScalar (encFsqrt d a).toWord (funary d a fun mode x =>
    let (r, fl) := (v32 (lo32 x)).sqrt
    let (w, fl') := rndWord fp32 mode r
    (w, fl ||| fl')) s

/-- FMIN (R102): Scalar FP32 minimum per R84. -/
def execFmin (d : BitVec 7) (a : BitVec 7) (b : BitVec 7) (s : State) : Host.Outcome State Fault Refusal :=
  runScalar (encFmin d a b).toWord (fpick d a b (fp32.pick false)) s

/-- FMAX (R102): Scalar FP32 maximum per R84. -/
def execFmax (d : BitVec 7) (a : BitVec 7) (b : BitVec 7) (s : State) : Host.Outcome State Fault Refusal :=
  runScalar (encFmax d a b).toWord (fpick d a b (fp32.pick true)) s

/-- FEQ (R102): Scalar FP32 equality test. -/
def execFeq (d : BitVec 7) (a : BitVec 7) (b : BitVec 7) (s : State) : Host.Outcome State Fault Refusal :=
  runScalar (encFeq d a b).toWord (fpick d a b fun x y => boolNat (fp32.eqVal x y)) s

/-- FLT (R102): Scalar FP32 less-than test. -/
def execFlt (d : BitVec 7) (a : BitVec 7) (b : BitVec 7) (s : State) : Host.Outcome State Fault Refusal :=
  runScalar (encFlt d a b).toWord (fpick d a b fun x y => boolNat (fp32.ltVal x y)) s

/-- FLE (R102): Scalar FP32 less-or-equal test. -/
def execFle (d : BitVec 7) (a : BitVec 7) (b : BitVec 7) (s : State) : Host.Outcome State Fault Refusal :=
  runScalar (encFle d a b).toWord (fpick d a b fun x y => boolNat (fp32.leVal x y)) s

/-- FCLASS (R102): Writes the class word of an FP32 value. -/
def execFclass (d : BitVec 7) (a : BitVec 7) (s : State) : Host.Outcome State Fault Refusal :=
  runScalar (encFclass d a).toWord (funary d a fun _ x => (BitVec.ofNat 64 (classWord (lo32 x)), 0)) s

/-- FCVTSW (R102): Converts INT32 to FP32. -/
def execFcvtsw (d : BitVec 7) (a : BitVec 7) (s : State) : Host.Outcome State Fault Refusal :=
  runScalar (encFcvtsw d a).toWord (funary d a fun mode x => rndWord fp32 mode (Ex.ofInt (sextNat 32 x.toNat))) s

/-- FCVTSWU (R102): Converts UINT32 to FP32. -/
def execFcvtswu (d : BitVec 7) (a : BitVec 7) (s : State) : Host.Outcome State Fault Refusal :=
  runScalar (encFcvtswu d a).toWord (funary d a fun mode x => rndWord fp32 mode (Ex.ofInt (lo32 x))) s

/-- FCVTWS (R102): Converts FP32 to INT32 per R86. -/
def execFcvtws (d : BitVec 7) (a : BitVec 7) (s : State) : Host.Outcome State Fault Refusal :=
  runScalar (encFcvtws d a).toWord (funary d a fun mode x =>
    let (n, fl) := toIntClamped mode 0 false (-(2 ^ 31)) (2 ^ 31 - 1) (v32 (lo32 x))
    (BitVec.ofInt 64 n, fl)) s

/-- FCVTWUS (R102): Converts FP32 to UINT32 per R86. -/
def execFcvtwus (d : BitVec 7) (a : BitVec 7) (s : State) : Host.Outcome State Fault Refusal :=
  runScalar (encFcvtwus d a).toWord (funary d a fun mode x =>
    let (n, fl) := toIntClamped mode 0 false 0 (2 ^ 32 - 1) (v32 (lo32 x))
    (BitVec.ofInt 64 n, fl)) s

/-- FCVTHS (R102): Converts FP32 to FP16. -/
def execFcvths (d : BitVec 7) (a : BitVec 7) (s : State) : Host.Outcome State Fault Refusal :=
  runScalar (encFcvths d a).toWord (funary d a fun mode x => rndWord fp16 mode (v32 (lo32 x))) s

/-- FCVTSH (R102): Converts FP16 to FP32. -/
def execFcvtsh (d : BitVec 7) (a : BitVec 7) (s : State) : Host.Outcome State Fault Refusal :=
  runScalar (encFcvtsh d a).toWord (funary d a fun mode x => rndWord fp32 mode (fp16.value (x.toNat % 2 ^ 16))) s

/-- FCVTBS (R102): Converts FP32 to BF16. -/
def execFcvtbs (d : BitVec 7) (a : BitVec 7) (s : State) : Host.Outcome State Fault Refusal :=
  runScalar (encFcvtbs d a).toWord (funary d a fun mode x => rndWord bf16 mode (v32 (lo32 x))) s

/-- FCVTSB (R102): Converts BF16 to FP32. -/
def execFcvtsb (d : BitVec 7) (a : BitVec 7) (s : State) : Host.Outcome State Fault Refusal :=
  runScalar (encFcvtsb d a).toWord (funary d a fun mode x => rndWord fp32 mode (bf16.value (x.toNat % 2 ^ 16))) s

/-- FMADD (R103): Fused A times B plus the addend held in d. -/
def execFmadd (d : BitVec 7) (a : BitVec 7) (b : BitVec 7) (s : State) : Host.Outcome State Fault Refusal :=
  runScalar (encFmadd d a b).toWord (fmadd d a b false false) s

/-- FMSUB (R103): Fused A times B minus the addend. -/
def execFmsub (d : BitVec 7) (a : BitVec 7) (b : BitVec 7) (s : State) : Host.Outcome State Fault Refusal :=
  runScalar (encFmsub d a b).toWord (fmadd d a b false true) s

/-- FNMADD (R103): Fused negated product minus the addend. -/
def execFnmadd (d : BitVec 7) (a : BitVec 7) (b : BitVec 7) (s : State) : Host.Outcome State Fault Refusal :=
  runScalar (encFnmadd d a b).toWord (fmadd d a b true true) s

/-- FNMSUB (R103): Fused negated product plus the addend. -/
def execFnmsub (d : BitVec 7) (a : BitVec 7) (b : BitVec 7) (s : State) : Host.Outcome State Fault Refusal :=
  runScalar (encFnmsub d a b).toWord (fmadd d a b true false) s

end Sys2Proof.Machine
end

