-- ==== Sys2Proof/Machine/VReduce.lean ====
section
/-! DEFINITION. Reductions, scans and segments (R92, R93, R140, R141): the VRED family. -/

namespace Sys2Proof.Machine

/-- The combining step of a reduction (R92): a rounded sum (mode 4 acts as mode 0), or the larger or smaller value. -/
def combSum (c : VConf) (x y : Nat) : Rounded :=
  if isIntType c.et then ((x + y) % 2 ^ c.width, 0) else (fmtOf c.et).sum c.frm.toNat x y
def combMax (c : VConf) (x y : Nat) : Rounded :=
  if isIntType c.et then (if intOf c.et x < intOf c.et y then y else x, 0) else (fmtOf c.et).pick true x y
def combMin (c : VConf) (x y : Nat) : Rounded :=
  if isIntType c.et then (if intOf c.et y < intOf c.et x then y else x, 0) else (fmtOf c.et).pick false x y

/-- The pairwise reduction of a list (R92). -/
def reduceList (f : Nat → Nat → Rounded) (xs : List Nat) : Rounded := pairReduce f (xs.length + 1) xs

/-- The values of row t at positions lo … hi-1; an inactive position counts as +0. -/
def rowValues (v : VecRegs) (c : VConf) (a : BitVec 7) (act : Nat → Bool) (t lo hi : Nat) : List Nat :=
  (List.range (hi - lo)).map fun i =>
    let j := t * c.vlN + lo + i
    if act j then v.el c a j else 0

/-- The reduction of values of which some are `quiet`: a step over quiet values alone sets no flag (R19, R92). -/
def reduceQuiet (f : Nat → Nat → Rounded) (xs : List (Nat × Bool)) : Rounded :=
  let step (x y : Nat) : Rounded :=
    let r := f (x % 2 ^ 64) (y % 2 ^ 64)
    if 2 ^ 64 ≤ x && 2 ^ 64 ≤ y then (r.1 + 2 ^ 64, 0) else r
  let r := reduceList step (xs.map fun x => if x.2 then x.1 + 2 ^ 64 else x.1)
  (r.1 % 2 ^ 64, r.2)

/-- The reduction of positions lo … hi-1 of row t. Where some of them are padded, those and the masked ones are quiet: a step over them
alone sets no flag (R19). -/
def reducePart (f : Nat → Nat → Rounded) (v : VecRegs) (c : VConf) (a : BitVec 7) (act : Nat → Bool) (t lo hi : Nat) : Rounded :=
  let pad (i : Nat) : Bool := padded v c a (t * c.vlN + lo + i)
  let xs := rowValues v c a act t lo hi
  if (List.range (hi - lo)).any pad then
    reduceQuiet f (xs.zip ((List.range (hi - lo)).map fun i => pad i || !act (t * c.vlN + lo + i)))
  else reduceList f xs

/-- VREDSUM … VFREDMIN (R140): with Q = 0 the result of row t goes to position t of row d, with Q = 1 the results are
delivered to q4 in row order, from result ESTART on (R415). With Q = 0 every result is written, whatever ESTART is (DEDUCED, log 115). -/
def reduceRows (d a : BitVec 7) (q m : BitVec 1) (f : VConf → Nat → Nat → Rounded) (e : Entry) : M Unit := do
  let c := if q = 1 then e.cfg.from0 else e.cfg
  maskVl c m
  trapIf (q = 0 && c.vlN < c.rcN) .matf (BitVec.ofNat 64 c.rcN)
  vrun c (Opnd.src c a :: if q = 0 then [⟨d, d.toNat, 1, .dst, 1, 0⟩] else []) (do
    let (v, act) ← sources c m [a]
    let rs := (List.range c.rcN).map fun t => reducePart (f c) v c a act t 0 c.vlN
    setFlags (rs.foldl (fun fl r => fl ||| r.2) 0)
    if q = 0 then forN c.rcN fun t => wrAt c d.toNat 0 t c.width (rs.getD t (0, 0)).1
    else deliverAll e.cfg.est (rs.map fun r => extendElem c.et r.1))

/-- The running sums of R93: output 0 is input 0 rounded, output j the rounded sum of output j-1 and input j. -/
def scanList (f : Nat → Nat → Rounded) (first : Nat → Rounded) : List Nat → List Rounded
  | [] => []
  | x :: xs =>
    let rec go (acc : Nat) : List Nat → List Rounded
      | [] => []
      | y :: ys => let r := f acc y; r :: go r.1 ys
    let r := first x
    r :: go r.1 xs

/-- Input 0 of a scan, rounded (R93). -/
def scanFirst (c : VConf) (x : Nat) : Rounded :=
  if isIntType c.et then (x, 0)
  else (fmtOf c.et).rnd (if c.frm = 4 then 0 else c.frm.toNat) 0 false ((fmtOf c.et).value x)

/-- Write rows of results: every position from ESTART on, inactive ones too; a padded position sets no flag (R19, R130, R141). -/
def putResults (c : VConf) (v : VecRegs) (d a : BitVec 7) (rows : List (List Rounded)) : M Unit := do
  let r (j : Nat) : Rounded := (rows.getD (j / c.vlN) []).getD (j % c.vlN) (0, 0)
  setFlags ((List.range c.count).foldl (fun fl j => if padded v c a j then fl else fl ||| (r j).2) 0)
  forN c.count fun j => if j < c.est then pure () else wr c d.toNat j (r j).1

/-- VSCAN and VFSCAN (R141). -/
def scanRows (d a : BitVec 7) (m : BitVec 1) (e : Entry) : M Unit := do
  let c := e.cfg
  maskVl c m
  vrun c [Opnd.src c a, Opnd.dst c d] (do
    let (v, act) ← sources c m [a]
    putResults c v d a ((List.range c.rcN).map fun t =>
      scanList (combSum c) (scanFirst c) (rowValues v c a act t 0 c.vlN)))

/-- The first position after i at which a segment starts, or VL. -/
def segEnd (p : BitVec 1024) (vl i : Nat) : Nat := (findFrom (vl - (i + 1)) (i + 1) fun k => p.getLsbD k).getD vl
/-- The start of the segment that holds position i: the highest set bit at or below it, or 0. -/
def segStart (p : BitVec 1024) : Nat → Nat
  | 0 => 0
  | i + 1 => if p.getLsbD (i + 1) then i + 1 else segStart p i

/-- VSEGSUM and VSEGMAX (R141): the reduction of each segment, at every position of it. -/
def segmentRows (d a b : BitVec 7) (m : BitVec 1) (f : VConf → Nat → Nat → Rounded) (e : Entry) : M Unit := do
  let c := e.cfg
  needPredVl c
  vrun c [Opnd.src c a, Opnd.dst c d] (do
    let (v, act) ← sources c m [a]
    let p := predOf v b.toNat
    putResults c v d a ((List.range c.rcN).map fun t => (List.range c.vlN).map fun i =>
      let s := segStart p i
      let n := segEnd p c.vlN s
      reducePart (f c) v c a act t s n))

/-- VREDSUM (R140): Integer sum of each row, to a row or to q4. -/
def performVredsum (d : BitVec 7) (a : BitVec 7) (q : BitVec 1) (m : BitVec 1) (e : Entry) : M Unit :=
  reduceRows d a q m combSum e

/-- VREDSUM: dispatch (R416) and execution. -/
def execVredsum (d : BitVec 7) (a : BitVec 7) (q : BitVec 1) (m : BitVec 1) (s : State) : Host.Outcome State Fault Refusal :=
  dispatchV (encVredsum d a q m).toWord 0 { etypes := isIntType } (performVredsum d a q m) s

/-- VREDMAX (R140): Integer maximum of each row. -/
def performVredmax (d : BitVec 7) (a : BitVec 7) (q : BitVec 1) (m : BitVec 1) (e : Entry) : M Unit :=
  reduceRows d a q m combMax e

/-- VREDMAX: dispatch (R416) and execution. -/
def execVredmax (d : BitVec 7) (a : BitVec 7) (q : BitVec 1) (m : BitVec 1) (s : State) : Host.Outcome State Fault Refusal :=
  dispatchV (encVredmax d a q m).toWord 0 { etypes := isIntType } (performVredmax d a q m) s

/-- VREDMIN (R140): Integer minimum of each row. -/
def performVredmin (d : BitVec 7) (a : BitVec 7) (q : BitVec 1) (m : BitVec 1) (e : Entry) : M Unit :=
  reduceRows d a q m combMin e

/-- VREDMIN: dispatch (R416) and execution. -/
def execVredmin (d : BitVec 7) (a : BitVec 7) (q : BitVec 1) (m : BitVec 1) (s : State) : Host.Outcome State Fault Refusal :=
  dispatchV (encVredmin d a q m).toWord 0 { etypes := isIntType } (performVredmin d a q m) s

/-- VFREDSUM (R140): Pairwise FP sum of each row per R92. -/
def performVfredsum (d : BitVec 7) (a : BitVec 7) (q : BitVec 1) (m : BitVec 1) (e : Entry) : M Unit :=
  reduceRows d a q m combSum e

/-- VFREDSUM: dispatch (R416) and execution. -/
def execVfredsum (d : BitVec 7) (a : BitVec 7) (q : BitVec 1) (m : BitVec 1) (s : State) : Host.Outcome State Fault Refusal :=
  dispatchV (encVfredsum d a q m).toWord 0 { etypes := isFpType } (performVfredsum d a q m) s

/-- VFREDMAX (R140): FP maximum of each row. -/
def performVfredmax (d : BitVec 7) (a : BitVec 7) (q : BitVec 1) (m : BitVec 1) (e : Entry) : M Unit :=
  reduceRows d a q m combMax e

/-- VFREDMAX: dispatch (R416) and execution. -/
def execVfredmax (d : BitVec 7) (a : BitVec 7) (q : BitVec 1) (m : BitVec 1) (s : State) : Host.Outcome State Fault Refusal :=
  dispatchV (encVfredmax d a q m).toWord 0 { etypes := isFpType } (performVfredmax d a q m) s

/-- VFREDMIN (R140): FP minimum of each row. -/
def performVfredmin (d : BitVec 7) (a : BitVec 7) (q : BitVec 1) (m : BitVec 1) (e : Entry) : M Unit :=
  reduceRows d a q m combMin e

/-- VFREDMIN: dispatch (R416) and execution. -/
def execVfredmin (d : BitVec 7) (a : BitVec 7) (q : BitVec 1) (m : BitVec 1) (s : State) : Host.Outcome State Fault Refusal :=
  dispatchV (encVfredmin d a q m).toWord 0 { etypes := isFpType } (performVfredmin d a q m) s

/-- VSCAN (R141): Sequential integer prefix sum of each row. -/
def performVscan (d : BitVec 7) (a : BitVec 7) (m : BitVec 1) (e : Entry) : M Unit :=
  scanRows d a m e

/-- VSCAN: dispatch (R416) and execution. -/
def execVscan (d : BitVec 7) (a : BitVec 7) (m : BitVec 1) (s : State) : Host.Outcome State Fault Refusal :=
  dispatchV (encVscan d a m).toWord 0 { etypes := isIntType } (performVscan d a m) s

/-- VFSCAN (R141): Sequential FP prefix sum of each row. -/
def performVfscan (d : BitVec 7) (a : BitVec 7) (m : BitVec 1) (e : Entry) : M Unit :=
  scanRows d a m e

/-- VFSCAN: dispatch (R416) and execution. -/
def execVfscan (d : BitVec 7) (a : BitVec 7) (m : BitVec 1) (s : State) : Host.Outcome State Fault Refusal :=
  dispatchV (encVfscan d a m).toWord 0 { etypes := isFpType } (performVfscan d a m) s

/-- VSEGSUM (R141): Sum of each segment written to every position of it. -/
def performVsegsum (d : BitVec 7) (a : BitVec 7) (b : BitVec 7) (m : BitVec 1) (e : Entry) : M Unit :=
  segmentRows d a b m combSum e

/-- VSEGSUM: dispatch (R416) and execution. -/
def execVsegsum (d : BitVec 7) (a : BitVec 7) (b : BitVec 7) (m : BitVec 1) (s : State) : Host.Outcome State Fault Refusal :=
  dispatchV (encVsegsum d a b m).toWord 0 { etypes := upTo7 } (performVsegsum d a b m) s

/-- VSEGMAX (R141): Maximum of each segment written to every position of it. -/
def performVsegmax (d : BitVec 7) (a : BitVec 7) (b : BitVec 7) (m : BitVec 1) (e : Entry) : M Unit :=
  segmentRows d a b m combMax e

/-- VSEGMAX: dispatch (R416) and execution. -/
def execVsegmax (d : BitVec 7) (a : BitVec 7) (b : BitVec 7) (m : BitVec 1) (s : State) : Host.Outcome State Fault Refusal :=
  dispatchV (encVsegmax d a b m).toWord 0 { etypes := upTo7 } (performVsegmax d a b m) s

end Sys2Proof.Machine
end

