-- ==== Sys2Proof/Machine/VectorConf.lean ====
section
/-! DEFINITION. VCFG (R133), the strip boundary with its lane grant (R33) and reseed (R79), and VREL (R35). -/

namespace Sys2Proof.Machine

/-- A task of the queues waits for clusters on a core (R33). -/
def waitsForLanes (s : State) (c : Nat) : Bool :=
  (Level.core c :: (Level.core c).above).any fun l => (s.entries l).any fun t =>
    eligible s t.desc c && decide (fits s c t 8 = .yes) && decide (fits s c t (lanes (freeLanes s c)) = .no)

/-- The lane grant at a strip boundary (R33). -/
def stripBoundary : M Unit := do
  let s ← get
  let c := coreOf s.id
  let y := s.hart.sys
  let n := lanes y.laneMap
  if waitsForLanes s c && y.laneMin.toNat < n then
    modSys fun y => { y with laneMap := lowLanes y.laneMap y.laneMin.toNat }
  else if n < y.lanePref.toNat then
    modSys fun y => { y with laneMap := y.laneMap ||| lowLanes (freeLanes s c) (y.lanePref.toNat - n) }
  else pure ()

/-- What the scalar unit does at the dispatch of VCFG (R133): VL, RC and ETYPE, the destination, and the seed that the entry
captures (R79). -/
def configure (d a : BitVec 7) (r : BitVec 5) (t : BitVec 4) (e : Entry) : M Entry := do
  let h ← getHart
  let vl := Nat.min (scalarVal h a).toNat (vlmax t.toNat)
  modCfg fun c => { c with vl := BitVec.ofNat 14 vl, rc := r.zeroExtend 6 + 1, etype := t }
  modHart fun h => setScalar h d (BitVec.ofNat 64 vl)
  let seed : Word := if h.sys.reseed then h.sys.srseed.zeroExtend 64 else 0
  modSys fun y => { y with reseed := false }
  pure { e with cfg := (← getHart).cfg, b0 := seed }

/-- VCFG (R133): Sets ETYPE, RC and VL in the scalar stream and queues a strip boundary. -/
def performVcfg (e : Entry) : M Unit :=
  do
  stripBoundary
  if e.b0 != 0 then modVec fun v => { v with gen := e.b0.extractLsb' 0 32 }

/-- VCFG: dispatch (R416) and execution. -/
def execVcfg (d : BitVec 7) (a : BitVec 7) (r : BitVec 5) (t : BitVec 4) (s : State) : Host.Outcome State Fault Refusal :=
  dispatchV (encVcfg d a r t).toWord 0 {
    check := fun _ => do
      checkScalar d
      checkScalar a
    atDispatch := configure d a r t } (performVcfg) s

/-- VREL (R35): Returns the lanes and makes the vector state dead. -/
def performVrel (_ : Entry) : M Unit :=
  do
  unbindAll
  modSys fun y => { y with laneMap := 0 }
  modTask fun t => { t with released := true }

/-- VREL: dispatch (R416) and execution. -/
def execVrel (s : State) : Host.Outcome State Fault Refusal :=
  dispatchV (encVrel).toWord 0 {
    atDispatch := fun e => do
      modTask fun t => { t with vrel := true }
      pure e } (performVrel) s

end Sys2Proof.Machine
end

