-- ==== Sys2Proof/Machine/Dispatch.lean ====
section
/-! DEFINITION. The dispatch of every instruction and event to its meaning. -/

namespace Sys2Proof.Machine

/-- The meaning of an instruction or an event in a state. -/
def exec (i : Instr) (s : State) : Host.Outcome State Fault Refusal :=
  match i with
  | .add d a b => Sys2Proof.Machine.execAdd d a b s
  | .sub d a b => Sys2Proof.Machine.execSub d a b s
  | .and d a b => Sys2Proof.Machine.execAnd d a b s
  | .or d a b => Sys2Proof.Machine.execOr d a b s
  | .xor d a b => Sys2Proof.Machine.execXor d a b s
  | .andn d a b => Sys2Proof.Machine.execAndn d a b s
  | .orn d a b => Sys2Proof.Machine.execOrn d a b s
  | .sll d a b => Sys2Proof.Machine.execSll d a b s
  | .srl d a b => Sys2Proof.Machine.execSrl d a b s
  | .sra d a b => Sys2Proof.Machine.execSra d a b s
  | .ror d a b => Sys2Proof.Machine.execRor d a b s
  | .mul d a b => Sys2Proof.Machine.execMul d a b s
  | .mulh d a b => Sys2Proof.Machine.execMulh d a b s
  | .mulhu d a b => Sys2Proof.Machine.execMulhu d a b s
  | .div d a b => Sys2Proof.Machine.execDiv d a b s
  | .divu d a b => Sys2Proof.Machine.execDivu d a b s
  | .rem d a b => Sys2Proof.Machine.execRem d a b s
  | .remu d a b => Sys2Proof.Machine.execRemu d a b s
  | .min d a b => Sys2Proof.Machine.execMin d a b s
  | .max d a b => Sys2Proof.Machine.execMax d a b s
  | .minu d a b => Sys2Proof.Machine.execMinu d a b s
  | .maxu d a b => Sys2Proof.Machine.execMaxu d a b s
  | .addw d a b => Sys2Proof.Machine.execAddw d a b s
  | .subw d a b => Sys2Proof.Machine.execSubw d a b s
  | .seq d a b => Sys2Proof.Machine.execSeq d a b s
  | .sne d a b => Sys2Proof.Machine.execSne d a b s
  | .slt d a b => Sys2Proof.Machine.execSlt d a b s
  | .sge d a b => Sys2Proof.Machine.execSge d a b s
  | .sltu d a b => Sys2Proof.Machine.execSltu d a b s
  | .sgeu d a b => Sys2Proof.Machine.execSgeu d a b s
  | .addi d a im => Sys2Proof.Machine.execAddi d a im s
  | .andi d a im => Sys2Proof.Machine.execAndi d a im s
  | .ori d a im => Sys2Proof.Machine.execOri d a im s
  | .xori d a im => Sys2Proof.Machine.execXori d a im s
  | .slli d a sf => Sys2Proof.Machine.execSlli d a sf s
  | .srli d a sf => Sys2Proof.Machine.execSrli d a sf s
  | .srai d a sf => Sys2Proof.Machine.execSrai d a sf s
  | .rori d a sf => Sys2Proof.Machine.execRori d a sf s
  | .clz d a => Sys2Proof.Machine.execClz d a s
  | .ctz d a => Sys2Proof.Machine.execCtz d a s
  | .popc d a => Sys2Proof.Machine.execPopc d a s
  | .sextb d a => Sys2Proof.Machine.execSextb d a s
  | .sexth d a => Sys2Proof.Machine.execSexth d a s
  | .sextw d a => Sys2Proof.Machine.execSextw d a s
  | .zextb d a => Sys2Proof.Machine.execZextb d a s
  | .zexth d a => Sys2Proof.Machine.execZexth d a s
  | .zextw d a => Sys2Proof.Machine.execZextw d a s
  | .bswap d a => Sys2Proof.Machine.execBswap d a s
  | .ldb d a o => Sys2Proof.Machine.execLdb d a o s
  | .ldbu d a o => Sys2Proof.Machine.execLdbu d a o s
  | .ldh d a o => Sys2Proof.Machine.execLdh d a o s
  | .ldhu d a o => Sys2Proof.Machine.execLdhu d a o s
  | .ldw d a o => Sys2Proof.Machine.execLdw d a o s
  | .ldwu d a o => Sys2Proof.Machine.execLdwu d a o s
  | .ldd d a o => Sys2Proof.Machine.execLdd d a o s
  | .stb d a o => Sys2Proof.Machine.execStb d a o s
  | .sth d a o => Sys2Proof.Machine.execSth d a o s
  | .stw d a o => Sys2Proof.Machine.execStw d a o s
  | .std d a o => Sys2Proof.Machine.execStd d a o s
  | .ldxb d a b sf => Sys2Proof.Machine.execLdxb d a b sf s
  | .ldxbu d a b sf => Sys2Proof.Machine.execLdxbu d a b sf s
  | .ldxh d a b sf => Sys2Proof.Machine.execLdxh d a b sf s
  | .ldxhu d a b sf => Sys2Proof.Machine.execLdxhu d a b sf s
  | .ldxw d a b sf => Sys2Proof.Machine.execLdxw d a b sf s
  | .ldxwu d a b sf => Sys2Proof.Machine.execLdxwu d a b sf s
  | .ldxd d a b sf => Sys2Proof.Machine.execLdxd d a b sf s
  | .stxb d a b sf => Sys2Proof.Machine.execStxb d a b sf s
  | .stxh d a b sf => Sys2Proof.Machine.execStxh d a b sf s
  | .stxw d a b sf => Sys2Proof.Machine.execStxw d a b sf s
  | .stxd d a b sf => Sys2Proof.Machine.execStxd d a b sf s
  | .fadd d a b => Sys2Proof.Machine.execFadd d a b s
  | .fsub d a b => Sys2Proof.Machine.execFsub d a b s
  | .fmul d a b => Sys2Proof.Machine.execFmul d a b s
  | .fdiv d a b => Sys2Proof.Machine.execFdiv d a b s
  | .fsqrt d a => Sys2Proof.Machine.execFsqrt d a s
  | .fmin d a b => Sys2Proof.Machine.execFmin d a b s
  | .fmax d a b => Sys2Proof.Machine.execFmax d a b s
  | .feq d a b => Sys2Proof.Machine.execFeq d a b s
  | .flt d a b => Sys2Proof.Machine.execFlt d a b s
  | .fle d a b => Sys2Proof.Machine.execFle d a b s
  | .fclass d a => Sys2Proof.Machine.execFclass d a s
  | .fcvtsw d a => Sys2Proof.Machine.execFcvtsw d a s
  | .fcvtswu d a => Sys2Proof.Machine.execFcvtswu d a s
  | .fcvtws d a => Sys2Proof.Machine.execFcvtws d a s
  | .fcvtwus d a => Sys2Proof.Machine.execFcvtwus d a s
  | .fcvths d a => Sys2Proof.Machine.execFcvths d a s
  | .fcvtsh d a => Sys2Proof.Machine.execFcvtsh d a s
  | .fcvtbs d a => Sys2Proof.Machine.execFcvtbs d a s
  | .fcvtsb d a => Sys2Proof.Machine.execFcvtsb d a s
  | .fmadd d a b => Sys2Proof.Machine.execFmadd d a b s
  | .fmsub d a b => Sys2Proof.Machine.execFmsub d a b s
  | .fnmadd d a b => Sys2Proof.Machine.execFnmadd d a b s
  | .fnmsub d a b => Sys2Proof.Machine.execFnmsub d a b s
  | .mfs d n => Sys2Proof.Machine.execMfs d n s
  | .mts a n => Sys2Proof.Machine.execMts a n s
  | .vadd d a b m => Sys2Proof.Machine.execVadd d a b m s
  | .vsub d a b m => Sys2Proof.Machine.execVsub d a b m s
  | .vrsub d a b m => Sys2Proof.Machine.execVrsub d a b m s
  | .vmul d a b m => Sys2Proof.Machine.execVmul d a b m s
  | .vmulh d a b m => Sys2Proof.Machine.execVmulh d a b m s
  | .vmin d a b m => Sys2Proof.Machine.execVmin d a b m s
  | .vmax d a b m => Sys2Proof.Machine.execVmax d a b m s
  | .vminu d a b m => Sys2Proof.Machine.execVminu d a b m s
  | .vmaxu d a b m => Sys2Proof.Machine.execVmaxu d a b m s
  | .vand d a b m => Sys2Proof.Machine.execVand d a b m s
  | .vor d a b m => Sys2Proof.Machine.execVor d a b m s
  | .vxor d a b m => Sys2Proof.Machine.execVxor d a b m s
  | .vsll d a b m => Sys2Proof.Machine.execVsll d a b m s
  | .vsrl d a b m => Sys2Proof.Machine.execVsrl d a b m s
  | .vsra d a b m => Sys2Proof.Machine.execVsra d a b m s
  | .vadds d a b m => Sys2Proof.Machine.execVadds d a b m s
  | .vfadd d a b m => Sys2Proof.Machine.execVfadd d a b m s
  | .vfsub d a b m => Sys2Proof.Machine.execVfsub d a b m s
  | .vfmul d a b m => Sys2Proof.Machine.execVfmul d a b m s
  | .vfdiv d a b m => Sys2Proof.Machine.execVfdiv d a b m s
  | .vfmin d a b m => Sys2Proof.Machine.execVfmin d a b m s
  | .vfmax d a b m => Sys2Proof.Machine.execVfmax d a b m s
  | .vfsqrt d a m => Sys2Proof.Machine.execVfsqrt d a m s
  | .vexp2 d a m => Sys2Proof.Machine.execVexp2 d a m s
  | .vlog2 d a m => Sys2Proof.Machine.execVlog2 d a m s
  | .vrcp d a m => Sys2Proof.Machine.execVrcp d a m s
  | .vrsqrt d a m => Sys2Proof.Machine.execVrsqrt d a m s
  | .vfsgn d a b m => Sys2Proof.Machine.execVfsgn d a b m s
  | .vfma d a b m => Sys2Proof.Machine.execVfma d a b m s
  | .vfms d a b m => Sys2Proof.Machine.execVfms d a b m s
  | .vfnma d a b m => Sys2Proof.Machine.execVfnma d a b m s
  | .vfnms d a b m => Sys2Proof.Machine.execVfnms d a b m s
  | .vmadd d a b m => Sys2Proof.Machine.execVmadd d a b m s
  | .vmsub d a b m => Sys2Proof.Machine.execVmsub d a b m s
  | .vseq d a b m => Sys2Proof.Machine.execVseq d a b m s
  | .vsne d a b m => Sys2Proof.Machine.execVsne d a b m s
  | .vslt d a b m => Sys2Proof.Machine.execVslt d a b m s
  | .vsge d a b m => Sys2Proof.Machine.execVsge d a b m s
  | .vsltu d a b m => Sys2Proof.Machine.execVsltu d a b m s
  | .vsgeu d a b m => Sys2Proof.Machine.execVsgeu d a b m s
  | .vfeq d a b m => Sys2Proof.Machine.execVfeq d a b m s
  | .vflt d a b m => Sys2Proof.Machine.execVflt d a b m s
  | .vfle d a b m => Sys2Proof.Machine.execVfle d a b m s
  | .vfunord d a b m => Sys2Proof.Machine.execVfunord d a b m s
  | .vmv d a m => Sys2Proof.Machine.execVmv d a m s
  | .vsel d a b => Sys2Proof.Machine.execVsel d a b s
  | .viota d => Sys2Proof.Machine.execViota d s
  | .vslideup d a b m => Sys2Proof.Machine.execVslideup d a b m s
  | .vslidedn d a b m => Sys2Proof.Machine.execVslidedn d a b m s
  | .vrev d a m => Sys2Proof.Machine.execVrev d a m s
  | .vcompress d a => Sys2Proof.Machine.execVcompress d a s
  | .vexpand d a => Sys2Proof.Machine.execVexpand d a s
  | .vtos a b => Sys2Proof.Machine.execVtos a b s
  | .stov d b m => Sys2Proof.Machine.execStov d b m s
  | .vperm d a b m => Sys2Proof.Machine.execVperm d a b m s
  | .vzip d a b => Sys2Proof.Machine.execVzip d a b s
  | .vunzip d a => Sys2Proof.Machine.execVunzip d a s
  | .vredsum d a q m => Sys2Proof.Machine.execVredsum d a q m s
  | .vredmax d a q m => Sys2Proof.Machine.execVredmax d a q m s
  | .vredmin d a q m => Sys2Proof.Machine.execVredmin d a q m s
  | .vfredsum d a q m => Sys2Proof.Machine.execVfredsum d a q m s
  | .vfredmax d a q m => Sys2Proof.Machine.execVfredmax d a q m s
  | .vfredmin d a q m => Sys2Proof.Machine.execVfredmin d a q m s
  | .vscan d a m => Sys2Proof.Machine.execVscan d a m s
  | .vfscan d a m => Sys2Proof.Machine.execVfscan d a m s
  | .vsegsum d a b m => Sys2Proof.Machine.execVsegsum d a b m s
  | .vsegmax d a b m => Sys2Proof.Machine.execVsegmax d a b m s
  | .vcvt d a t sf m => Sys2Proof.Machine.execVcvt d a t sf m s
  | .vsmxe d a m => Sys2Proof.Machine.execVsmxe d a m s
  | .vquant d a b m => Sys2Proof.Machine.execVquant d a b m s
  | .vdeq d a b m => Sys2Proof.Machine.execVdeq d a b m s
  | .vpack d a m => Sys2Proof.Machine.execVpack d a m s
  | .vunpk d a sf m => Sys2Proof.Machine.execVunpk d a sf m s
  | .vtox d a => Sys2Proof.Machine.execVtox d a s
  | .xtov d a => Sys2Proof.Machine.execXtov d a s
  | .vcfg d a r t => Sys2Proof.Machine.execVcfg d a r t s
  | .vld d a m => Sys2Proof.Machine.execVld d a m s
  | .vlds d a b m => Sys2Proof.Machine.execVlds d a b m s
  | .vst d a m => Sys2Proof.Machine.execVst d a m s
  | .vsts d a b m => Sys2Proof.Machine.execVsts d a b m s
  | .vldx d a b m => Sys2Proof.Machine.execVldx d a b m s
  | .vstx d a b m => Sys2Proof.Machine.execVstx d a b m s
  | .vldp d a m => Sys2Proof.Machine.execVldp d a m s
  | .vstp d a m => Sys2Proof.Machine.execVstp d a m s
  | .vldpx d a b m => Sys2Proof.Machine.execVldpx d a b m s
  | .vstpx d a b m => Sys2Proof.Machine.execVstpx d a b m s
  | .vldt d a m => Sys2Proof.Machine.execVldt d a m s
  | .vstt d a m => Sys2Proof.Machine.execVstt d a m s
  | .pand d a b => Sys2Proof.Machine.execPand d a b s
  | .por d a b => Sys2Proof.Machine.execPor d a b s
  | .pxor d a b => Sys2Proof.Machine.execPxor d a b s
  | .pandn d a b => Sys2Proof.Machine.execPandn d a b s
  | .pnot d a => Sys2Proof.Machine.execPnot d a s
  | .pall d => Sys2Proof.Machine.execPall d s
  | .pnone d => Sys2Proof.Machine.execPnone d s
  | .ppop a => Sys2Proof.Machine.execPpop a s
  | .pfirst a => Sys2Proof.Machine.execPfirst a s
  | .pany a => Sys2Proof.Machine.execPany a s
  | .psel d a b => Sys2Proof.Machine.execPsel d a b s
  | .pfromv d a => Sys2Proof.Machine.execPfromv d a s
  | .ptov d a => Sys2Proof.Machine.execPtov d a s
  | .pld d a => Sys2Proof.Machine.execPld d a s
  | .pst d a => Sys2Proof.Machine.execPst d a s
  | .vsort d a p w y m => Sys2Proof.Machine.execVsort d a p w y m s
  | .vmerge d a b => Sys2Proof.Machine.execVmerge d a b s
  | .vmerges d a b => Sys2Proof.Machine.execVmerges d a b s
  | .vinter d a b => Sys2Proof.Machine.execVinter d a b s
  | .vuniq d a => Sys2Proof.Machine.execVuniq d a s
  | .vrank d a b m => Sys2Proof.Machine.execVrank d a b m s
  | .vranku d a b m => Sys2Proof.Machine.execVranku d a b m s
  | .vpart d a b m => Sys2Proof.Machine.execVpart d a b m s
  | .vchko a p y => Sys2Proof.Machine.execVchko a p y s
  | .vtopk d a b m => Sys2Proof.Machine.execVtopk d a b m s
  | .vdiff d a b => Sys2Proof.Machine.execVdiff d a b s
  | .vuniqc d a => Sys2Proof.Machine.execVuniqc d a s
  | .vmot a => Sys2Proof.Machine.execVmot a s
  | .vmto a b => Sys2Proof.Machine.execVmto a b s
  | .mshape a b => Sys2Proof.Machine.execMshape a b s
  | .mmode v => Sys2Proof.Machine.execMmode v s
  | .tmma t d a b m => Sys2Proof.Machine.execTmma t d a b m s
  | .tmmap d a b m => Sys2Proof.Machine.execTmmap d a b m s
  | .tzero d => Sys2Proof.Machine.execTzero d s
  | .tld d a b => Sys2Proof.Machine.execTld d a b s
  | .tst d a b => Sys2Proof.Machine.execTst d a b s
  | .tcvt d a sf x => Sys2Proof.Machine.execTcvt d a sf x s
  | .tldp d a b => Sys2Proof.Machine.execTldp d a b s
  | .tstp d a b => Sys2Proof.Machine.execTstp d a b s
  | .gtest d a => Sys2Proof.Machine.execGtest d a s
  | .gset d b => Sys2Proof.Machine.execGset d b s
  | .amask d a b => Sys2Proof.Machine.execAmask d a b s
  | .asoft d a b => Sys2Proof.Machine.execAsoft d a b s
  | .ascale d a v => Sys2Proof.Machine.execAscale d a v s
  | .sbind d a o => Sys2Proof.Machine.execSbind d a o s
  | .sunbind a => Sys2Proof.Machine.execSunbind a s
  | .sstat a => Sys2Proof.Machine.execSstat a s
  | .sadv a b => Sys2Proof.Machine.execSadv a b s
  | .sflush a => Sys2Proof.Machine.execSflush a s
  | .streamRefill slot => Sys2Proof.Machine.execStreamRefill slot s
  | .streamOutputWrite slot => Sys2Proof.Machine.execStreamOutputWrite slot s
  | .copy d a b => Sys2Proof.Machine.execCopy d a b s
  | .copyg d a b => Sys2Proof.Machine.execCopyg d a b s
  | .cresume a => Sys2Proof.Machine.execCresume a s
  | .cresumeAbort a => Sys2Proof.Machine.execCresumeAbort a s
  | .rinit a b => Sys2Proof.Machine.execRinit a b s
  | .rawait a => Sys2Proof.Machine.execRawait a s
  | .rrel a => Sys2Proof.Machine.execRrel a s
  | .waita p sf c a b => Sys2Proof.Machine.execWaita p sf c a b s
  | .cstat a => Sys2Proof.Machine.execCstat a s
  | .copyCompletion ch => Sys2Proof.Machine.execCopyCompletion ch s
  | .engf => Sys2Proof.Machine.execEngf s
  | .saadd w sf r c q a b => Sys2Proof.Machine.execSaadd w sf r c q a b s
  | .samin w sf r c q a b => Sys2Proof.Machine.execSamin w sf r c q a b s
  | .samax w sf r c q a b => Sys2Proof.Machine.execSamax w sf r c q a b s
  | .saxchg w sf r c q a b => Sys2Proof.Machine.execSaxchg w sf r c q a b s
  | .sacas w sf r c q a b => Sys2Proof.Machine.execSacas w sf r c q a b s
  | .saand w sf r c q a b => Sys2Proof.Machine.execSaand w sf r c q a b s
  | .saor w sf r c q a b => Sys2Proof.Machine.execSaor w sf r c q a b s
  | .safadd w sf r c q a b => Sys2Proof.Machine.execSafadd w sf r c q a b s
  | .gaadd w sf r c q a b => Sys2Proof.Machine.execGaadd w sf r c q a b s
  | .gamin w sf r c q a b => Sys2Proof.Machine.execGamin w sf r c q a b s
  | .gamax w sf r c q a b => Sys2Proof.Machine.execGamax w sf r c q a b s
  | .gaxchg w sf r c q a b => Sys2Proof.Machine.execGaxchg w sf r c q a b s
  | .gacas w sf r c q a b => Sys2Proof.Machine.execGacas w sf r c q a b s
  | .gaand w sf r c q a b => Sys2Proof.Machine.execGaand w sf r c q a b s
  | .gaor w sf r c q a b => Sys2Proof.Machine.execGaor w sf r c q a b s
  | .gafadd w sf r c q a b => Sys2Proof.Machine.execGafadd w sf r c q a b s
  | .kclaim a h => Sys2Proof.Machine.execKclaim a h s
  | .kfree h => Sys2Proof.Machine.execKfree h s
  | .kins d a h m => Sys2Proof.Machine.execKins d a h m s
  | .kprb d a h m => Sys2Proof.Machine.execKprb d a h m s
  | .kdel d a h m => Sys2Proof.Machine.execKdel d a h m s
  | .kacc d a o h m => Sys2Proof.Machine.execKacc d a o h m s
  | .kdrn d h => Sys2Proof.Machine.execKdrn d h s
  | .kstat h => Sys2Proof.Machine.execKstat h s
  | .kseal h => Sys2Proof.Machine.execKseal h s
  | .kclear h => Sys2Proof.Machine.execKclear h s
  | .semts n => Sys2Proof.Machine.execSemts n s
  | .semtry n => Sys2Proof.Machine.execSemtry n s
  | .semclr n => Sys2Proof.Machine.execSemclr n s
  | .crd c n => Sys2Proof.Machine.execCrd c n s
  | .cwr r a n => Sys2Proof.Machine.execCwr r a n s
  | .qatom d a r c o m => Sys2Proof.Machine.execQatom d a r c o m s
  | .barv a sf n => Sys2Proof.Machine.execBarv a sf n s
  | .barw sf n => Sys2Proof.Machine.execBarw sf n s
  | .bara a sf n => Sys2Proof.Machine.execBara a sf n s
  | .baraInit a sf n => Sys2Proof.Machine.execBaraInit a sf n s
  | .quadMessage core off wr data => Sys2Proof.Machine.execQuadMessage core off wr data s
  | .tspawn a => Sys2Proof.Machine.execTspawn a s
  | .twait a => Sys2Proof.Machine.execTwait a s
  | .texit a => Sys2Proof.Machine.execTexit a s
  | .texitAbort a => Sys2Proof.Machine.execTexitAbort a s
  | .tyield => Sys2Proof.Machine.execTyield s
  | .qpush d a e q => Sys2Proof.Machine.execQpush d a e q s
  | .qpop d a q => Sys2Proof.Machine.execQpop d a q s
  | .vrel => Sys2Proof.Machine.execVrel s
  | .tstat n => Sys2Proof.Machine.execTstat n s
  | .evdec q a b => Sys2Proof.Machine.execEvdec q a b s
  | .evinc q a b => Sys2Proof.Machine.execEvinc q a b s
  | .rgather d a b m => Sys2Proof.Machine.execRgather d a b m s
  | .rscat d a b m => Sys2Proof.Machine.execRscat d a b m s
  | .rscatadd d a b m => Sys2Proof.Machine.execRscatadd d a b m s
  | .rgstat => Sys2Proof.Machine.execRgstat s
  | .deferredMce => Sys2Proof.Machine.execDeferredMce s
  | .br a c n im => Sys2Proof.Machine.execBr a c n im s
  | .jmp im => Sys2Proof.Machine.execJmp im s
  | .call im => Sys2Proof.Machine.execCall im s
  | .jr a => Sys2Proof.Machine.execJr a s
  | .callr a => Sys2Proof.Machine.execCallr a s
  | .ret => Sys2Proof.Machine.execRet s
  | .gcall n => Sys2Proof.Machine.execGcall n s
  | .trap c => Sys2Proof.Machine.execTrap c s
  | .eret => Sys2Proof.Machine.execEret s
  | .gret => Sys2Proof.Machine.execGret s
  | .waiti => Sys2Proof.Machine.execWaiti s
  | .halt => Sys2Proof.Machine.execHalt s
  | .fence sf k => Sys2Proof.Machine.execFence sf k s
  | .win a b => Sys2Proof.Machine.execWin a b s
  | .tlbinv a b => Sys2Proof.Machine.execTlbinv a b s
  | .qsend d a => Sys2Proof.Machine.execQsend d a s
  | .qrecv d a => Sys2Proof.Machine.execQrecv d a s
  | .qstat d a => Sys2Proof.Machine.execQstat d a s
  | .vqrecv d a => Sys2Proof.Machine.execVqrecv d a s
  | .shlst d a b m => Sys2Proof.Machine.execShlst d a b m s
  | .kvxlt d a b m => Sys2Proof.Machine.execKvxlt d a b m s
  | .pageInComplete idx => Sys2Proof.Machine.execPageInComplete idx s
  | .kvcommit a b => Sys2Proof.Machine.execKvcommit a b s
  | .kvroll a b => Sys2Proof.Machine.execKvroll a b s
  | .kvfork a b => Sys2Proof.Machine.execKvfork a b s
  | .mcst d a b m => Sys2Proof.Machine.execMcst d a b m s
  | .coll d a => Sys2Proof.Machine.execColl d a s
  | .cwaitc a => Sys2Proof.Machine.execCwaitc a s
  | .collCompletion idx => Sys2Proof.Machine.execCollCompletion idx s
  | .skbld n c a b => Sys2Proof.Machine.execSkbld n c a b s
  | .sksub a b => Sys2Proof.Machine.execSksub a b s
  | .skpeel t a b => Sys2Proof.Machine.execSkpeel t a b s
  | .skrecon t a b => Sys2Proof.Machine.execSkrecon t a b s
  | .skstat a => Sys2Proof.Machine.execSkstat a s
  | .skiverPeerRequest cls cells => Sys2Proof.Machine.execSkiverPeerRequest cls cells s
  | .li d im => Sys2Proof.Machine.execLi d im s
  | .lf d im => Sys2Proof.Machine.execLf d im s
  | .annulledStep => Sys2Proof.Machine.execAnnulledStep s
  | .interrupt => Sys2Proof.Machine.execInterrupt s
  | .timer => Sys2Proof.Machine.execTimer s
  | .ipset val => Sys2Proof.Machine.execIpset val s
  | .budgetExhausted => Sys2Proof.Machine.execBudgetExhausted s
  | .budget => Sys2Proof.Machine.execBudget s
  | .taskDispatch => Sys2Proof.Machine.execTaskDispatch s
  | .queuePull level => Sys2Proof.Machine.execQueuePull level s
  | .aging => Sys2Proof.Machine.execAging s
  | .preemptTimeout => Sys2Proof.Machine.execPreemptTimeout s
  | .preemption => Sys2Proof.Machine.execPreemption s
  | .repartition => Sys2Proof.Machine.execRepartition s
  | .cinchSample => Sys2Proof.Machine.execCinchSample s
  | .cinchInterval => Sys2Proof.Machine.execCinchInterval s
  | .cinchMoveComplete => Sys2Proof.Machine.execCinchMoveComplete s
  | .remoteAccess addr wr data => Sys2Proof.Machine.execRemoteAccess addr wr data s
  | .podBarrierMessage arrive n count => Sys2Proof.Machine.execPodBarrierMessage arrive n count s
  | .flitReceive link flit good => Sys2Proof.Machine.execFlitReceive link flit good s
  | .linkReplay nak => Sys2Proof.Machine.execLinkReplay nak s
  | .linkRetrain link => Sys2Proof.Machine.execLinkRetrain link s
  | .linkDown link => Sys2Proof.Machine.execLinkDown link s
  | .remoteTimeout pkg => Sys2Proof.Machine.execRemoteTimeout pkg s
  | .admitPackage val => Sys2Proof.Machine.execAdmitPackage val s
  | .retentionEntry bank => Sys2Proof.Machine.execRetentionEntry bank s
  | .retentionExit exit => Sys2Proof.Machine.execRetentionExit exit s
  | .tscSync pkg => Sys2Proof.Machine.execTscSync pkg s
  | .throttle steps => Sys2Proof.Machine.execThrottle steps s
  | .packageReset bringUp => Sys2Proof.Machine.execPackageReset bringUp s
  | .hostWindowAccess span wr data => Sys2Proof.Machine.execHostWindowAccess span wr data s
  | .controlWindowWrite span val => Sys2Proof.Machine.execControlWindowWrite span val s
  | .hdoor val => Sys2Proof.Machine.execHdoor val s
  | .harnessReplay => Sys2Proof.Machine.execHarnessReplay s
  | .endReplay => Sys2Proof.Machine.execEndReplay s
  | .launch => Sys2Proof.Machine.execLaunch s
  | .waitev => Sys2Proof.Machine.execWaitev s
  | .evadd => Sys2Proof.Machine.execEvadd s
  | .kload => Sys2Proof.Machine.execKload s
  | .graph => Sys2Proof.Machine.execGraph s
  | .notify => Sys2Proof.Machine.execNotify s
  | .cancel val => Sys2Proof.Machine.execCancel val s
  | .hdbell val => Sys2Proof.Machine.execHdbell val s
  | .getVersion => Sys2Proof.Machine.execGetVersion s
  | .getCapabilities => Sys2Proof.Machine.execGetCapabilities s
  | .negotiateAlgorithms => Sys2Proof.Machine.execNegotiateAlgorithms s
  | .getDigests => Sys2Proof.Machine.execGetDigests s
  | .getCertificate => Sys2Proof.Machine.execGetCertificate s
  | .challenge => Sys2Proof.Machine.execChallenge s
  | .getMeasurements => Sys2Proof.Machine.execGetMeasurements s
  | .linkUp far => Sys2Proof.Machine.execLinkUp far s
  | .hostConfigRequest wr => Sys2Proof.Machine.execHostConfigRequest wr s

end Sys2Proof.Machine
end

