-- ==== Sys2Proof/Machine/VectorUnit.lean ====
section
/-! DEFINITION. The vector unit: the meaning of a queued entry, by its instruction, and the execution of the oldest entry of the
hart in focus. -/

namespace Sys2Proof.Machine

/-- What executes an entry of a vector-side instruction; scalar instructions and events enter no vector queue. -/
def performOf (i : Instr) : Option (Entry → M Unit) :=
  match i with
  | .add _ _ _ => none
  | .sub _ _ _ => none
  | .and _ _ _ => none
  | .or _ _ _ => none
  | .xor _ _ _ => none
  | .andn _ _ _ => none
  | .orn _ _ _ => none
  | .sll _ _ _ => none
  | .srl _ _ _ => none
  | .sra _ _ _ => none
  | .ror _ _ _ => none
  | .mul _ _ _ => none
  | .mulh _ _ _ => none
  | .mulhu _ _ _ => none
  | .div _ _ _ => none
  | .divu _ _ _ => none
  | .rem _ _ _ => none
  | .remu _ _ _ => none
  | .min _ _ _ => none
  | .max _ _ _ => none
  | .minu _ _ _ => none
  | .maxu _ _ _ => none
  | .addw _ _ _ => none
  | .subw _ _ _ => none
  | .seq _ _ _ => none
  | .sne _ _ _ => none
  | .slt _ _ _ => none
  | .sge _ _ _ => none
  | .sltu _ _ _ => none
  | .sgeu _ _ _ => none
  | .addi _ _ _ => none
  | .andi _ _ _ => none
  | .ori _ _ _ => none
  | .xori _ _ _ => none
  | .slli _ _ _ => none
  | .srli _ _ _ => none
  | .srai _ _ _ => none
  | .rori _ _ _ => none
  | .clz _ _ => none
  | .ctz _ _ => none
  | .popc _ _ => none
  | .sextb _ _ => none
  | .sexth _ _ => none
  | .sextw _ _ => none
  | .zextb _ _ => none
  | .zexth _ _ => none
  | .zextw _ _ => none
  | .bswap _ _ => none
  | .ldb _ _ _ => none
  | .ldbu _ _ _ => none
  | .ldh _ _ _ => none
  | .ldhu _ _ _ => none
  | .ldw _ _ _ => none
  | .ldwu _ _ _ => none
  | .ldd _ _ _ => none
  | .stb _ _ _ => none
  | .sth _ _ _ => none
  | .stw _ _ _ => none
  | .std _ _ _ => none
  | .ldxb _ _ _ _ => none
  | .ldxbu _ _ _ _ => none
  | .ldxh _ _ _ _ => none
  | .ldxhu _ _ _ _ => none
  | .ldxw _ _ _ _ => none
  | .ldxwu _ _ _ _ => none
  | .ldxd _ _ _ _ => none
  | .stxb _ _ _ _ => none
  | .stxh _ _ _ _ => none
  | .stxw _ _ _ _ => none
  | .stxd _ _ _ _ => none
  | .fadd _ _ _ => none
  | .fsub _ _ _ => none
  | .fmul _ _ _ => none
  | .fdiv _ _ _ => none
  | .fsqrt _ _ => none
  | .fmin _ _ _ => none
  | .fmax _ _ _ => none
  | .feq _ _ _ => none
  | .flt _ _ _ => none
  | .fle _ _ _ => none
  | .fclass _ _ => none
  | .fcvtsw _ _ => none
  | .fcvtswu _ _ => none
  | .fcvtws _ _ => none
  | .fcvtwus _ _ => none
  | .fcvths _ _ => none
  | .fcvtsh _ _ => none
  | .fcvtbs _ _ => none
  | .fcvtsb _ _ => none
  | .fmadd _ _ _ => none
  | .fmsub _ _ _ => none
  | .fnmadd _ _ _ => none
  | .fnmsub _ _ _ => none
  | .mfs _ _ => none
  | .mts _ _ => none
  | .vadd d a b m => some (performVadd d a b m)
  | .vsub d a b m => some (performVsub d a b m)
  | .vrsub d a b m => some (performVrsub d a b m)
  | .vmul d a b m => some (performVmul d a b m)
  | .vmulh d a b m => some (performVmulh d a b m)
  | .vmin d a b m => some (performVmin d a b m)
  | .vmax d a b m => some (performVmax d a b m)
  | .vminu d a b m => some (performVminu d a b m)
  | .vmaxu d a b m => some (performVmaxu d a b m)
  | .vand d a b m => some (performVand d a b m)
  | .vor d a b m => some (performVor d a b m)
  | .vxor d a b m => some (performVxor d a b m)
  | .vsll d a b m => some (performVsll d a b m)
  | .vsrl d a b m => some (performVsrl d a b m)
  | .vsra d a b m => some (performVsra d a b m)
  | .vadds d a b m => some (performVadds d a b m)
  | .vfadd d a b m => some (performVfadd d a b m)
  | .vfsub d a b m => some (performVfsub d a b m)
  | .vfmul d a b m => some (performVfmul d a b m)
  | .vfdiv d a b m => some (performVfdiv d a b m)
  | .vfmin d a b m => some (performVfmin d a b m)
  | .vfmax d a b m => some (performVfmax d a b m)
  | .vfsqrt d a m => some (performVfsqrt d a m)
  | .vexp2 d a m => some (performVexp2 d a m)
  | .vlog2 d a m => some (performVlog2 d a m)
  | .vrcp d a m => some (performVrcp d a m)
  | .vrsqrt d a m => some (performVrsqrt d a m)
  | .vfsgn d a b m => some (performVfsgn d a b m)
  | .vfma d a b m => some (performVfma d a b m)
  | .vfms d a b m => some (performVfms d a b m)
  | .vfnma d a b m => some (performVfnma d a b m)
  | .vfnms d a b m => some (performVfnms d a b m)
  | .vmadd d a b m => some (performVmadd d a b m)
  | .vmsub d a b m => some (performVmsub d a b m)
  | .vseq d a b m => some (performVseq d a b m)
  | .vsne d a b m => some (performVsne d a b m)
  | .vslt d a b m => some (performVslt d a b m)
  | .vsge d a b m => some (performVsge d a b m)
  | .vsltu d a b m => some (performVsltu d a b m)
  | .vsgeu d a b m => some (performVsgeu d a b m)
  | .vfeq d a b m => some (performVfeq d a b m)
  | .vflt d a b m => some (performVflt d a b m)
  | .vfle d a b m => some (performVfle d a b m)
  | .vfunord d a b m => some (performVfunord d a b m)
  | .vmv d a m => some (performVmv d a m)
  | .vsel d a b => some (performVsel d a b)
  | .viota d => some (performViota d)
  | .vslideup d a _ m => some (performVslideup d a m)
  | .vslidedn d a _ m => some (performVslidedn d a m)
  | .vrev d a m => some (performVrev d a m)
  | .vcompress d a => some (performVcompress d a)
  | .vexpand d a => some (performVexpand d a)
  | .vtos a _ => some (performVtos a)
  | .stov d _ m => some (performStov d m)
  | .vperm d a b m => some (performVperm d a b m)
  | .vzip d a b => some (performVzip d a b)
  | .vunzip d a => some (performVunzip d a)
  | .vredsum d a q m => some (performVredsum d a q m)
  | .vredmax d a q m => some (performVredmax d a q m)
  | .vredmin d a q m => some (performVredmin d a q m)
  | .vfredsum d a q m => some (performVfredsum d a q m)
  | .vfredmax d a q m => some (performVfredmax d a q m)
  | .vfredmin d a q m => some (performVfredmin d a q m)
  | .vscan d a m => some (performVscan d a m)
  | .vfscan d a m => some (performVfscan d a m)
  | .vsegsum d a b m => some (performVsegsum d a b m)
  | .vsegmax d a b m => some (performVsegmax d a b m)
  | .vcvt d a t sf m => some (performVcvt d a t sf m)
  | .vsmxe d a m => some (performVsmxe d a m)
  | .vquant d a b m => some (performVquant d a b m)
  | .vdeq d a b m => some (performVdeq d a b m)
  | .vpack d a m => some (performVpack d a m)
  | .vunpk d a sf m => some (performVunpk d a sf m)
  | .vtox d a => some (performVtox d a)
  | .xtov d a => some (performXtov d a)
  | .vcfg _ _ _ _ => some (performVcfg)
  | .vld d _ m => some (performVld d m)
  | .vlds d _ _ m => some (performVlds d m)
  | .vst d _ m => some (performVst d m)
  | .vsts d _ _ m => some (performVsts d m)
  | .vldx d _ b m => some (performVldx d b m)
  | .vstx d _ b m => some (performVstx d b m)
  | .vldp d _ m => some (performVldp d m)
  | .vstp d _ m => some (performVstp d m)
  | .vldpx d _ b m => some (performVldpx d b m)
  | .vstpx d _ b m => some (performVstpx d b m)
  | .vldt d a m => some (performVldt d a m)
  | .vstt d a m => some (performVstt d a m)
  | .pand d a b => some (performPand d a b)
  | .por d a b => some (performPor d a b)
  | .pxor d a b => some (performPxor d a b)
  | .pandn d a b => some (performPandn d a b)
  | .pnot d a => some (performPnot d a)
  | .pall d => some (performPall d)
  | .pnone d => some (performPnone d)
  | .ppop a => some (performPpop a)
  | .pfirst a => some (performPfirst a)
  | .pany a => some (performPany a)
  | .psel d a b => some (performPsel d a b)
  | .pfromv d a => some (performPfromv d a)
  | .ptov d a => some (performPtov d a)
  | .pld d _ => some (performPld d)
  | .pst d _ => some (performPst d)
  | .vsort d a p w y m => some (performVsort d a p w y m)
  | .vmerge d a b => some (performVmerge d a b)
  | .vmerges d a b => some (performVmerges d a b)
  | .vinter d a b => some (performVinter d a b)
  | .vuniq d a => some (performVuniq d a)
  | .vrank d a b m => some (performVrank d a b m)
  | .vranku d a b m => some (performVranku d a b m)
  | .vpart d a b m => some (performVpart d a b m)
  | .vchko a p y => some (performVchko a p y)
  | .vtopk d a _ m => some (performVtopk d a m)
  | .vdiff d a b => some (performVdiff d a b)
  | .vuniqc d a => some (performVuniqc d a)
  | .vmot a => some (performVmot a)
  | .vmto a _ => some (performVmto a)
  | .mshape _ _ => some (performMshape)
  | .mmode _ => some (performMmode)
  | .tmma t d a b m => some (performTmma t d a b m)
  | .tmmap d _ _ m => some (performTmmap d m)
  | .tzero d => some (performTzero d)
  | .tld d _ _ => some (performTld d)
  | .tst d _ _ => some (performTst d)
  | .tcvt d a sf x => some (performTcvt d a sf x)
  | .tldp d _ _ => some (performTldp d)
  | .tstp d _ _ => some (performTstp d)
  | .gtest d a => some (performGtest d a)
  | .gset d _ => some (performGset d)
  | .amask d _ _ => some (performAmask d)
  | .asoft d a _ => some (performAsoft d a)
  | .ascale d a v => some (performAscale d a v)
  | .sbind d a o => some (performSbind d a o)
  | .sunbind a => some (performSunbind a)
  | .sstat a => some (performSstat a)
  | .sadv a _ => some (performSadv a)
  | .sflush a => some (performSflush a)
  | .streamRefill _ => none
  | .streamOutputWrite _ => none
  | .copy d a b => some (performCopy d a b)
  | .copyg d a b => some (performCopyg d a b)
  | .cresume a => some (performCresume a)
  | .cresumeAbort a => some (performCresumeAbort a)
  | .rinit _ b => some (performRinit b)
  | .rawait a => some (performRawait a)
  | .rrel a => some (performRrel a)
  | .waita p _ c _ _ => some (performWaita p c)
  | .cstat a => some (performCstat a)
  | .copyCompletion _ => none
  | .engf => none
  | .saadd w _ r _ q _ _ => some (performSaadd w r q)
  | .samin w _ r _ q _ _ => some (performSamin w r q)
  | .samax w _ r _ q _ _ => some (performSamax w r q)
  | .saxchg w _ r _ q _ _ => some (performSaxchg w r q)
  | .sacas w _ r _ q _ _ => some (performSacas w r q)
  | .saand w _ r _ q _ _ => some (performSaand w r q)
  | .saor w _ r _ q _ _ => some (performSaor w r q)
  | .safadd w _ r _ q _ _ => some (performSafadd w r q)
  | .gaadd w _ r _ q _ _ => some (performGaadd w r q)
  | .gamin w _ r _ q _ _ => some (performGamin w r q)
  | .gamax w _ r _ q _ _ => some (performGamax w r q)
  | .gaxchg w _ r _ q _ _ => some (performGaxchg w r q)
  | .gacas w _ r _ q _ _ => some (performGacas w r q)
  | .gaand w _ r _ q _ _ => some (performGaand w r q)
  | .gaor w _ r _ q _ _ => some (performGaor w r q)
  | .gafadd w _ r _ q _ _ => some (performGafadd w r q)
  | .kclaim _ h => some (performKclaim h)
  | .kfree h => some (performKfree h)
  | .kins d a h m => some (performKins d a h m)
  | .kprb d a h m => some (performKprb d a h m)
  | .kdel d a h m => some (performKdel d a h m)
  | .kacc d a o h m => some (performKacc d a o h m)
  | .kdrn d h => some (performKdrn d h)
  | .kstat h => some (performKstat h)
  | .kseal h => some (performKseal h)
  | .kclear h => some (performKclear h)
  | .semts n => some (performSemts n)
  | .semtry n => some (performSemtry n)
  | .semclr n => some (performSemclr n)
  | .crd _ n => some (performCrd n)
  | .cwr r _ n => some (performCwr r n)
  | .qatom d a r c o m => some (performQatom d a r c o m)
  | .barv a sf n => some (performBarv a sf n)
  | .barw sf n => some (performBarw sf n)
  | .bara _ sf n => some (performBara sf n)
  | .baraInit _ sf n => some (performBaraInit sf n)
  | .quadMessage _ _ _ _ => none
  | .tspawn _ => some (performTspawn)
  | .twait _ => some (performTwait)
  | .texit _ => some (performTexit)
  | .texitAbort _ => some (performTexitAbort)
  | .tyield => some (performTyield)
  | .qpush d _ e q => some (performQpush d e q)
  | .qpop d _ q => some (performQpop d q)
  | .vrel => some (performVrel)
  | .tstat n => some (performTstat n)
  | .evdec q _ _ => some (performEvdec q)
  | .evinc q _ _ => some (performEvinc q)
  | .rgather d a _ m => some (performRgather d a m)
  | .rscat d a _ m => some (performRscat d a m)
  | .rscatadd d a _ m => some (performRscatadd d a m)
  | .rgstat => some (performRgstat)
  | .deferredMce => none
  | .br _ _ _ _ => none
  | .jmp _ => none
  | .call _ => none
  | .jr _ => none
  | .callr _ => none
  | .ret => none
  | .gcall _ => none
  | .trap _ => none
  | .eret => none
  | .gret => none
  | .waiti => none
  | .halt => none
  | .fence _ _ => none
  | .win _ _ => none
  | .tlbinv _ _ => none
  | .qsend _ _ => none
  | .qrecv _ _ => none
  | .qstat _ _ => none
  | .vqrecv d a => some (performVqrecv d a)
  | .shlst d a b m => some (performShlst d a b m)
  | .kvxlt d a b m => some (performKvxlt d a b m)
  | .pageInComplete _ => none
  | .kvcommit a _ => some (performKvcommit a)
  | .kvroll a _ => some (performKvroll a)
  | .kvfork a _ => some (performKvfork a)
  | .mcst d _ _ m => some (performMcst d m)
  | .coll d a => some (performColl d a)
  | .cwaitc _ => some (performCwaitc)
  | .collCompletion _ => none
  | .skbld n c a _ => some (performSkbld n c a)
  | .sksub a b => some (performSksub a b)
  | .skpeel t a _ => some (performSkpeel t a)
  | .skrecon t a _ => some (performSkrecon t a)
  | .skstat a => some (performSkstat a)
  | .skiverPeerRequest _ _ => none
  | .li _ _ => none
  | .lf _ _ => none
  | .annulledStep => none
  | .interrupt => none
  | .timer => none
  | .ipset _ => none
  | .budgetExhausted => none
  | .budget => none
  | .taskDispatch => none
  | .queuePull _ => none
  | .aging => none
  | .preemptTimeout => none
  | .preemption => none
  | .repartition => none
  | .cinchSample => none
  | .cinchInterval => none
  | .cinchMoveComplete => none
  | .remoteAccess _ _ _ => none
  | .podBarrierMessage _ _ _ => none
  | .flitReceive _ _ _ => none
  | .linkReplay _ => none
  | .linkRetrain _ => none
  | .linkDown _ => none
  | .remoteTimeout _ => none
  | .admitPackage _ => none
  | .retentionEntry _ => none
  | .retentionExit _ => none
  | .tscSync _ => none
  | .throttle _ => none
  | .packageReset _ => none
  | .hostWindowAccess _ _ _ => none
  | .controlWindowWrite _ _ => none
  | .hdoor _ => none
  | .harnessReplay => none
  | .endReplay => none
  | .launch => none
  | .waitev => none
  | .evadd => none
  | .kload => none
  | .graph => none
  | .notify => none
  | .cancel _ => none
  | .hdbell _ => none
  | .getVersion => none
  | .getCapabilities => none
  | .negotiateAlgorithms => none
  | .getDigests => none
  | .getCertificate => none
  | .challenge => none
  | .getMeasurements => none
  | .linkUp _ => none
  | .hostConfigRequest _ => none

/-- The instruction of an entry: its word and its literal (R47). -/
noncomputable def Entry.instr (e : Entry) : Option Instr :=
  match decode e.word e.lit with
  | .ok i => some i
  | .error _ => none

/-- The vector unit executes the oldest entry of the hart in focus. -/
noncomputable def executeOldest : M Unit := do
  match (← getHart).vq with
  | [] => pure ()
  | e :: _ => executeHead (((Entry.instr e).bind performOf).getD fun _ => pure ())

end Sys2Proof.Machine
end

