-- ==== Sys2Proof/Machine/Scheduler.lean ====
section
/-! DEFINITION. Which agent takes the next step, and what a step of each is: the boundary between two steps of a hart, the
next instruction, the vector unit, the background of a waiting hart, the turn of the focus, and the placing of an instruction. -/

namespace Sys2Proof.Machine

/-! ## The boundary of a hart (R123, R124, R294, R299) -/

/-- A cycle passes for the hart in focus: its counts, its timer, and queued addresses that are still to be formed. -/
def tick : M Unit := do
  modify fun s => { s with time := s.time + 1 }
  catchUp
  let _ ← attempt compareTimer
  let _ ← attempt formQueue
  pure ()

/-- A fetch fault met while NA or NB was formed is taken at the boundary (R52). -/
def fetchFault : M Unit := do
  match ← attempt formQueue with
  | .error (.trap c v) => trapEntry false c v
  | _ => block

/-- What a boundary may take before the next instruction, in order. -/
def boundaryEvents : List (M Unit) :=
  [endWaiti, fetchFault, engineFault, deferredMce, takeBudget, takeCancel, takePreempt, takeInterrupt]

/-- The state after the first of some meanings that takes effect. -/
def firstEffect (ms : List (M Unit)) (s : State) : Option State :=
  ms.findSome? fun m => match m.exec s with
    | (.ok _, s') => some s'
    | (.error _, _) => none

/-! ## The next instruction (R49, R52, R59) -/

/-- Fetch the word at PC and its literal, at the privilege, the translation and the contents in force now (log 85). A fault on the literal
comes before ILL of a word that does not decode (DEDUCED, log 113). -/
def fetchInstr : M (BitVec 32 × BitVec 32) := do
  let priv ← privNow
  let pc := (← getHart).fetch.pc
  let w ← fetchAt priv pc
  let lit ← if hasLiteral w then fetchAt priv (pc + 4) else pure 0
  pure (w, lit)

/-- Run the instruction at PC, or pass it annulled (R106). -/
noncomputable def runInstruction (s : State) : Host.Outcome State Fault Refusal :=
  if s.hart.fetch.apc then execAnnulledStep s
  else
    match fetchInstr.exec s with
    | (.ok (w, lit), s') =>
      match decode w lit with
      | .ok i => exec i s'
      | .error _ => .next (takeTrap false .ill (w.zeroExtend 64) s')
    | (.error (.trap c v), s') => .next (takeTrap false c v s')
    | (.error _, _) => .next s

/-! ## The vector unit's turn -/

/-- The oldest entry is one that the scalar unit waits for: TWAIT, TEXIT, TEXIT.ABORT or TYIELD (R290, R291). -/
def waitsForOldest (h : Hart) : Bool :=
  match h.vq with
  | e :: _ => e.word.extractLsb' 26 6 == 0x2E && 1 ≤ (e.word.extractLsb' 0 5).toNat && (e.word.extractLsb' 0 5).toNat ≤ 3
  | [] => false

/-- The state after the oldest entry was executed, where it is not simply still blocked. -/
noncomputable def vectorTurn (s : State) : Option State :=
  if s.hart.vq.isEmpty then none
  else
    let s' := (executeOldest.exec s).2
    if s'.id = s.id ∧ s'.hart.vq = s.hart.vq ∧ s'.hart.stalled = s.hart.stalled then none else some s'

/-! ## The background -/

/-- The state that an event leads to, where it changes anything. -/
def changed (f : State → Host.Outcome State Fault Refusal) (s : State) : Option State :=
  match f s with
  | .next s' => if s' = s then none else some s'
  | .fault _ => none
  | .refused _ => none

/-- A slot of the filter that waits for room in its ring writes its record (R360). -/
def execSlotRecord (n : Nat) (s : State) : Host.Outcome State Fault Refusal :=
  runEvent (do
    let s ← get
    match sparseGet none s.myDie.slots n with
    | some sl => if sl.ready then postSlot (postFor none) (dieOf s.id) n sl else block
    | none => block) s

/-- A decrement that waited for what an aborted task left in flight is made (R291, R300). -/
def execOwed (s : State) : Host.Outcome State Fault Refusal := runEvent (payOwed (dieOf s.id)) s

/-- A sample or an interval of the Cinch that is due; the sample at an interval's end belongs to it (R308, R309, R353). -/
def execCinchDue (s : State) : Host.Outcome State Fault Refusal :=
  let d := s.myDie
  let t := s.time - d.cinchTime
  let ivl := 2 ^ d.cinchIvl.toNat
  if d.stages.isEmpty then .next s
  else if d.squeues.any fun q => (q.samples + 1) * 1024 ≤ Nat.min t ivl then execCinchSample s
  else if ivl ≤ t then execCinchInterval s
  else .next s

/-- What goes on beside the harts, as seen from the hart in focus: the command processor, the engines, the distributor. -/
def background : List (State → Host.Outcome State Fault Refusal) :=
  [execHarnessReplay, execEndReplay, execLaunch, execWaitev, execEvadd, execKload, execGraph, execNotify] ++
  (List.range 4).map (fun i => execCopyCompletion (BitVec.ofNat 2 i)) ++
  (List.range 8).map (fun i => execStreamOutputWrite (BitVec.ofNat 3 i)) ++
  (List.range 16).map (fun i => execPageInComplete (BitVec.ofNat 4 i)) ++
  (List.range 16).map (fun i => execCollCompletion (BitVec.ofNat 4 i)) ++
  (List.range 16).map execSlotRecord ++ [execOwed] ++
  [execAging, execQueuePull 2, execQueuePull 1, execQueuePull 0, execRepartition, execTaskDispatch, execPreemptTimeout,
    execCinchDue, execCinchMoveComplete]

/-- The first event of the background that changes anything. -/
def backgroundEvent (s : State) : Option State := background.findSome? fun f => changed f s

/-! ## The turn of the focus -/

/-- A die holds queued work. -/
def dieHasWork (s : State) (d : Nat) : Bool :=
  (levelsOf d).any fun l => !(s.entries l).isEmpty

/-- The part has the die of a hart (R1). -/
def present (s : State) (n : Nat) : Bool := dieOf n % 4 < (s.pkg (pkgOf n)).part.dies

/-- The harts that may come into focus: every hart that is not in its reset state, and one of each core of a die with queued
work. -/
def focusable (s : State) : List Nat :=
  let live := s.id :: s.others.map Prod.fst
  let dies := (live.map dieOf ++ s.dies.map Prod.fst).eraseDups
  (live ++ (dies.filter (dieHasWork s)).flatMap fun d => (List.range 48).map fun c => d * hartsPerDie + 4 * c).filter (present s)

/-- The next hart in the order of numbers, round. -/
def nextFocus (s : State) : Nat :=
  let all := focusable s
  let above := all.filter (s.id < ·)
  match above with
  | x :: xs => xs.foldl Nat.min x
  | [] => all.foldl Nat.min s.id

/-- The focus goes round; a cycle passes. -/
def rotate (s : State) : State := { s.focusOn (nextFocus s) with time := s.time + 1, parked := false, rotor := 0 }

/-- The turn of a hart that waits, or has no task: an event of the background, or an entry of its vector queue that was left
behind; else another hart comes into focus. -/
noncomputable def waitStep (s : State) : State :=
  match (if s.hart.phase = .idle ∨ s.hart.phase = .halted then none else vectorTurn s) with
  | some s' => { s' with parked := false }
  | none =>
    match backgroundEvent s with
    | some s' => { s' with parked := false }
    | none => rotate s

/-! ## A step of a hart -/

/-- The hart in focus drains its queue before HALT stops it (R120). -/
noncomputable def haltStep (s : State) : State :=
  if s.hart.vq.isEmpty then { s with hart := { s.hart with phase := .halted } }
  else (vectorTurn s).getD { s with parked := true }

/-- The hart in focus drains its queue before its task is suspended: the oldest entry is tried again, and only one that is still blocked
ends the drain (R295). -/
noncomputable def suspendStep (s : State) : State :=
  match vectorTurn s with
  | some s' => s'
  | none =>
    match continueSuspend.exec s with
    | (.ok _, s') => s'
    | (.error _, _) => { s with parked := true }

/-- A step of a running hart: the boundary, then the oldest entry of the vector queue where the vector unit does not lag, then
the next instruction. -/
noncomputable def runStep (s : State) : Host.Outcome State Fault Refusal :=
  let s := (tick.exec s).2
  match firstEffect boundaryEvents s with
  | some s' => .next s'
  | none =>
    match (if s.lag && !waitsForOldest s.hart then none else vectorTurn s) with
    | some s' => .next s'
    | none => if waitsForOldest s.hart then .next { s with parked := true } else runInstruction s

/-- Both agents of the focused hart see every store (R344). -/
def State.seen (s : State) : State := { s with unseenV := [], unseenS := [] }

/-- A step of the hart in focus. -/
noncomputable def hartStep (s : State) : Host.Outcome State Fault Refusal :=
  match s.hart.phase with
  | .idle => .next (waitStep s)
  | .halted => .next (waitStep s)
  | .halting => .next (haltStep s)
  | .suspending => .next (suspendStep s)
  | .running => runStep s

/-- The vector unit's turn where the hart in focus holds a task, else the same state. -/
noncomputable def vectorShare (s : State) : State :=
  if s.hart.phase = .idle ∨ s.hart.phase = .halted then s else (vectorTurn s).getD s

/-- A step that no agenda names: after 64 steps of one hart its vector unit and the background have a turn and the focus goes round, so
that a lagging vector unit performs its stores within finite time (R345); while the hart waits the background acts. Every store is seen
in it. -/
noncomputable def freeStep (s : State) : Host.Outcome State Fault Refusal :=
  let s := s.seen
  if s.parked then .next (waitStep s)
  else if 64 ≤ s.rotor then
    let s := vectorShare s
    .next (rotate ((backgroundEvent s).getD s))
  else hartStep { s with rotor := s.rotor + 1 }

/-! ## Placing an instruction where a hart fetches it -/

/-- Where an instruction is placed: at PC where it lies inside the HBM of die 0 of the hart's package, else at the start of that
memory. -/
def State.placeAt (s : State) : Nat :=
  let base := pkgOf s.id * 2 ^ 46
  let pc := s.hart.fetch.pc.toNat
  if base ≤ pc && pc + 20 ≤ base + s.myPkg.memsz.toNat * 2 ^ 28 then pc else base

/-- The state with the eight bytes of `w` at the place where the hart in focus fetches its next instruction: the hart runs at
privilege 2 without translation, its queues are empty, and nothing is pending at its next boundary. -/
def State.placeWord (s : State) (w : Nat) : State :=
  let pc := s.placeAt
  let s := s.putBytes pc (leBytes 8 w)
  let s := s.setCore (coreOf s.id) { s.myCore with code := [] }
  let len := fun a => if hasLiteral (BitVec.ofNat 32 (s.memNat a 4)) then 8 else 4
  let na := pc + len pc
  let nb := na + len na
  let s := s.setDie (dieOf s.id) { s.myDie with ptEn := 0 }
  { s with
    hart := { s.hart with
      phase := .running
      fetch := ⟨BitVec.ofNat 64 pc, BitVec.ofNat 64 na, BitVec.ofNat 64 nb, false, false, false, false, false⟩
      vq := []
      trap := { s.hart.trap with priv := 2, ipend := 0, tcmpEn := 0 }
      task := { s.hart.task with budgetOff := true }
      pendEngf := []
      pendMce := []
      unanswered := none }
    agenda := []
    parked := false
    rotor := 0 }

end Sys2Proof.Machine
end

