-- ==== Sys2Proof/Machine/Relaxed.lean ====
section
/-! DEFINITION. The turns that an agenda gives, and among them the relaxed turns of the agents of one hart (R334–R345, log 98): an agent
that does not see some stores of the other runs on the memory that it sees. -/

namespace Sys2Proof.Machine

/-! ## Stores that an agent does not see -/

/-- The addresses of the bytes of a store that are not seen. -/
def Stale.addrs (x : Stale) : List Nat := x.cells.map Prod.fst

/-- Memory as an agent sees it that does not see some stores, given in coherence order: they are taken back, the newest first. -/
def unsee (xs : List Stale) (m : List Host.Cell) : List Host.Cell :=
  xs.foldr (fun x m => x.cells.foldl (fun m c => sparsePut memDefault m c.1 c.2.1) m) m

/-- Stores made again in coherence order: the memory after them, and the stores with the bytes that each now finds. -/
def redo (m : List Host.Cell) (xs : List Stale) : List Host.Cell × List Stale :=
  xs.foldl (fun acc x =>
    (x.cells.foldl (fun m c => sparsePut memDefault m c.1 c.2.2) acc.1,
      acc.2 ++ [{ x with cells := x.cells.map fun c => (c.1, sparseGet memDefault acc.1 c.1, c.2.2) }])) (m, [])

/-- An agent comes to see the newest value of some bytes. -/
def seeBytes (as : List Nat) (xs : List Stale) : List Stale :=
  (xs.map fun x => { x with cells := x.cells.filter fun c => !as.contains c.1 }).filter fun x => !x.cells.isEmpty

/-- An agent comes to see whole stores, and of those before them in coherence order what they overwrite. -/
def seeWhere (p : Stale → Bool) (xs : List Stale) : List Stale :=
  (xs.foldr (fun x acc => if p x then (acc.1, x.addrs ++ acc.2) else (seeBytes acc.2 [x] ++ acc.1, acc.2)) ([], [])).1

/-- An agent comes to see one store. -/
def seeNth (n : Nat) (xs : List Stale) : List Stale :=
  match xs[n]? with
  | some x => seeBytes x.addrs (xs.take n) ++ xs.drop (n + 1)
  | none => xs

/-- An agent comes to see the stores that come before an access that `hit` says reaches some of them: those, and the ones before one of them
that share a byte with it (R337). -/
def seeBefore (hit : Stale → Bool) (xs : List Stale) : List Stale :=
  (xs.foldr (fun x acc =>
    if hit x || acc.2.any (fun y => x.addr < y.addr + y.size && y.addr < x.addr + x.size) then (acc.1, x :: acc.2)
    else (x :: acc.1, acc.2)) ([], [])).1

/-- The bytes of stores, as addresses. -/
def bytesOf (ws : List (Nat × List Byte)) : List Nat := ws.flatMap fun w => (List.range w.2.length).map (w.1 + ·)

/-- Stores as another agent does not see them: each byte with its value before and after, but for the bytes `seen`. -/
def hideStores (atomic : Bool) (frees : List (Nat × Nat)) (seen : List Nat) (m : List Host.Cell) (ws : List (Nat × List Byte)) :
    List Stale :=
  (ws.foldl (fun acc w =>
    let cells := w.2.zipIdx.map fun b => (w.1 + b.2, sparseGet memDefault acc.1 (w.1 + b.2), b.1)
    (sparsePutList memDefault acc.1 w.1 w.2,
      acc.2 ++ seeBytes seen [⟨w.1, w.2.length, cells, atomic, none, [], frees⟩])) (m, [])).2

/-- An agent sees the newest value of every byte that something else than the stores of its list has changed. -/
def agree (m : List Host.Cell) (xs : List Stale) : List Stale :=
  let last (a : Nat) : Option Byte := xs.foldl (fun r x => ((x.cells.find? fun c => c.1 == a).map fun c => c.2.2).or r) none
  seeBytes ((xs.flatMap Stale.addrs).filter fun a => last a != some (sparseGet memDefault m a)) xs

/-! ## A turn of one agent -/

/-- What runs in a turn. -/
abbrev AgentRun := State → Host.Outcome State Fault Refusal

/-- The state in which an agent runs that does not see some stores; its own are collected. -/
def State.viewed (s : State) (mine : List Stale) : State := { s with mem := unsee mine s.mem, stores := some ⟨[], []⟩ }

/-- The stores that a turn collected. -/
def State.made (t : State) : Stores := t.stores.getD ⟨[], []⟩

/-- How a turn of one agent ended: the state it ran on and the one it led to, the state in which memory is the newest again, the stores that
the agent still does not see, and those of its own bytes that come before them in coherence order. -/
structure AgentTurn where
  ran : State
  raw : State
  after : State
  mine : List Stale
  under : List Nat

/-- A turn of one agent that does not see the stores `mine`. Its own stores come before these in coherence order where `under` holds and no
atomic of the other agent comes next; else the agent first sees the stores that they meet, and those that something else than the agent
meets. `none` where the hart's task does not go on in the turn. The fuel bounds the stores. -/
def agentTurn (run : AgentRun) (under : Bool) (s : State) : Nat → List Stale → Option AgentTurn
  | 0, _ => none
  | n + 1, mine =>
    let v := s.viewed mine
    match run v with
    | .next t =>
      let own := bytesOf t.made.agent
      let rest := bytesOf t.made.rest
      let next (x : Stale) (a : Nat) : Bool := (mine.find? fun y => y.addrs.contains a) == some x
      let meets (x : Stale) : Bool := x.addrs.any fun a =>
        rest.contains a || (own.contains a && (!under || (x.atomic && next x a))) || (!own.contains a && v.byteAt a != t.byteAt a)
      if t.id != s.id || t.hart.phase != .running then none
      else if mine.any meets then agentTurn run under s n (seeWhere meets mine)
      else
        let r := redo t.mem mine
        some ⟨v, t, { t with mem := r.1, stores := none }, r.2, own.filter ((mine.flatMap Stale.addrs).contains ·)⟩
    | _ => none

/-- The other agent's list after a turn: it does not see the stores where they stay hidden, or sees them; it sees what no agent stored. -/
def AgentTurn.theirs (r : AgentTurn) (hide atomic : Bool) (frees : List (Nat × Nat)) (s : State) (xs : List Stale) : List Stale :=
  let ws := r.raw.made.agent
  agree r.after.mem (seeBytes (bytesOf r.raw.made.rest)
    (if hide then xs ++ hideStores atomic frees r.under s.mem ws else seeBytes ((bytesOf ws).filter fun a => !r.under.contains a) xs))

/-- What the agent itself does not see after a turn in which it saw the stores that `p` does not hold of. -/
def AgentTurn.ours (r : AgentTurn) (p : Stale → Bool) (xs : List Stale) : List Stale :=
  seeBytes ((bytesOf r.raw.made.agent).filter fun a => !r.under.contains a) (xs.filter fun x => !p x) ++ r.mine

/-- Error marks on some bytes, which tell a turn that reads one of them from one that does not. -/
def State.markBytes (s : State) (as : List Nat) : State := { s with poison := as ++ s.poison }

/-- A turn that ran on `v` and led to `t` reads or writes some of the bytes. -/
def reaches (run : AgentRun) (v t : State) (as : List Nat) : Bool :=
  (bytesOf t.made.agent).any as.contains ||
  (match run (v.markBytes as) with
   | .next u => decide ({ u with poison := t.poison } ≠ t)
   | _ => true)

/-! ## What a turn does -/

/-- The instruction at PC. -/
noncomputable def nextInstr (s : State) : Option Instr :=
  match fetchInstr.exec s with
  | (.ok (w, lit), _) => (decode w lit).toOption
  | _ => none

/-- The oldest entry's instruction. -/
noncomputable def oldestInstr (s : State) : Option Instr := s.hart.vq.head?.bind Entry.instr

/-- The vector queue was saved in a trap: it is empty, and not because its only entry has retired. -/
def queueSaved (s t : State) : Bool :=
  !s.hart.vq.isEmpty && t.hart.vq.isEmpty && (s.hart.vq.length != 1 || s.hart.fetch != t.hart.fetch || s.hart.trap != t.hart.trap)

/-- An entry of the instruction releases once it has done its work (R340, R383, R390). -/
def isRelease (i : Instr) : Bool :=
  match i with
  | .saadd _ _ r _ _ _ _ | .samin _ _ r _ _ _ _ | .samax _ _ r _ _ _ _ | .saxchg _ _ r _ _ _ _ | .sacas _ _ r _ _ _ _
  | .saand _ _ r _ _ _ _ | .saor _ _ r _ _ _ _ | .safadd _ _ r _ _ _ _
  | .gaadd _ _ r _ _ _ _ | .gamin _ _ r _ _ _ _ | .gamax _ _ r _ _ _ _ | .gaxchg _ _ r _ _ _ _ | .gacas _ _ r _ _ _ _
  | .gaand _ _ r _ _ _ _ | .gaor _ _ r _ _ _ _ | .gafadd _ _ r _ _ _ _ => r == 1
  | .qatom _ _ r _ _ _ => r == 1
  | .cwr r _ _ => r == 1
  | .rrel _ | .semclr _ | .bara _ _ _ | .barv _ _ _ | .qpush _ _ _ _ | .evdec _ _ _ | .evinc _ _ _ | .coll _ _ => true
  | _ => false

/-- A compare-and-swap does not find the value that it compares with, and is no release (R340). -/
def casFails (i : Instr) (s t : State) : Bool :=
  match i, s.hart.vq.head? with
  | .gacas _ _ _ _ _ _ _, _ => t.made.agent.isEmpty
  | .sacas w _ _ _ _ _ _, some e =>
    let (c, off) := spTarget s e.a0.toNat
    s.spNat c off (atomSize w) != e.b0.toNat % 2 ^ (8 * atomSize w)
  | _, _ => false

/-- The entry made a release in a turn from `s` to `t`: it has retired, or it is a QPUSH that has made its first step; a record that it posted
to a ring is one too (R200, R340). -/
def released (i : Instr) (s t : State) : Bool :=
  let retired := !queueSaved s t && decide (t.hart.vq.length < s.hart.vq.length)
  match i with
  | .qpush _ _ _ _ => retired || t.dies != s.dies
  | .shlst _ _ _ _ | .kvxlt _ _ _ _ => retired && t.cores != s.cores
  | _ => isRelease i && retired && !casFails i s t

/-- The stores of an entry are atomics, or change half a byte, so that no store comes between them and what they found (R344). -/
def isAtomic (i : Instr) (s : State) : Bool :=
  match i with
  | .gaadd _ _ _ _ _ _ _ | .gamin _ _ _ _ _ _ _ | .gamax _ _ _ _ _ _ _ | .gaxchg _ _ _ _ _ _ _ | .gacas _ _ _ _ _ _ _
  | .gaand _ _ _ _ _ _ _ | .gaor _ _ _ _ _ _ _ | .gafadd _ _ _ _ _ _ _ | .rscatadd _ _ _ _
  | .kvxlt _ _ _ _ | .kvcommit _ _ | .kvroll _ _ | .kvfork _ _ => true
  | _ => s.hart.vq.head?.any fun e => e.cfg.width == 4

/-- Values that the queue registers q4–q7 hold. -/
def deliveries (h : Hart) : Nat := ([4, 5, 6, 7].map fun q => (sparseGet [] h.queues q).length).sum

/-! ## Engine units -/

/-- A channel of the core in focus. -/
def State.chan (s : State) (c : Nat) : Channel := sparseGet Channel.idle s.myCore.chans c

/-- The engine units that work for the vector agent of the hart in focus (R334, R394); with `all` a faulted transfer counts too, which CRESUME
may continue. -/
def unitsOf (s : State) (all : Bool) : List (Nat × Nat) :=
  ((List.range 4).filter fun c =>
    let k := s.chan c
    k.owner.toNat == s.id % 4 && k.st != .idle && (all || k.st != .faulted)).map (0, ·) ++
  (s.hart.vec.streams.filter fun p => p.2.isSome).map (fun p => (1, p.1)) ++
  (s.pkgs.flatMap fun p => p.2.pageIns.filter fun g => g.issuer == s.id).map (fun g => (2, g.block.toNat)) ++
  (s.pkgs.flatMap fun p => p.2.colls.filter fun x => x.hart == s.id).map (fun x => (3, x.id.toNat))

/-- The units that an entry started, or whose work it began anew. -/
def started (i : Option Instr) (s t : State) : List (Nat × Nat) :=
  (unitsOf t false).filter fun u => !(unitsOf s false).contains u || (match i with
    | some (.sbind k _ _) => u == (1, k.toNat)
    | some (.sflush k) => u == (1, k.toNat)
    | _ => false)

/-- How a unit says that it has completed (R200, R241); a page-in posts records to rings (R391). -/
def compOf (s : State) (u : Nat × Nat) : Completion :=
  match u.1 with
  | 0 => (s.chan u.2).comp
  | 2 => ⟨2, 0, 0, 0⟩
  | 3 => ((s.pkgs.flatMap fun p => p.2.colls).find? fun x => x.hart == s.id && x.id.toNat == u.2).elim ⟨0, 0, 0, 0⟩ Collective.comp
  | _ => ⟨0, 0, 0, 0⟩

/-- Records of a page-in that are still to be sent. -/
def missesOf (s : State) (block : Nat) : Nat :=
  (((s.pkgs.flatMap fun p => p.2.pageIns).filter fun g => g.block.toNat == block).map fun g => g.misses.length).sum

/-- A unit has said in a turn that it has completed: it is at rest, or a record of its page-in was sent. -/
def signalled (u : Nat × Nat) (s t : State) : Bool :=
  (compOf s u).kind != 0 &&
  (!(unitsOf t true).contains u || (u.1 == 2 && decide (missesOf t u.2 < missesOf s u.2)))

/-- The flag that a completed transfer wrote to memory: the last of its stores that has the form of one, since no element has eight bytes
(R200, R241). -/
def flagOf (k : Completion) (ws : List (Nat × List Byte)) : List (Nat × List Byte) :=
  if k.kind = 1 && !bitOf k.addr.toNat 63 then (ws.filter fun w => w.2.length == 8).getLast?.toList else []

/-- The engine unit in which an event makes accesses for the vector agent of the hart in focus. -/
def unitOf (s : State) (i : Instr) : Option (Nat × Nat) :=
  match i with
  | .copyCompletion ch => if (s.chan ch.toNat).owner.toNat == s.id % 4 then some (0, ch.toNat) else none
  | .streamRefill k => some (1, k.toNat)
  | .streamOutputWrite k => some (1, k.toNat)
  | .pageInComplete n => (s.myPkg.pageIns[n.toNat]?.filter fun p => p.issuer == s.id).map fun p => (2, p.block.toNat)
  | .collCompletion n => (s.myPkg.colls[n.toNat]?.filter fun x => x.hart == s.id).map fun x => (3, x.id.toNat)
  | _ => none

/-! ## Fences (R338) -/

/-- The oldest entry may not see the store. -/
def Stale.forEntry (x : Stale) : Bool :=
  match x.blind with
  | none => true
  | some (m :: _) => m.headD false
  | some [] => false

/-- Some entry may not see the store. -/
def Stale.forEntries (x : Stale) : Bool :=
  match x.blind with
  | none => true
  | some ms => ms.any fun m => m.any id

/-- A fence with SV: of the entries only those in the queue, and those that the last trap saved, may still not see the store. -/
def fenceStore (queued saved : Nat) (x : Stale) : Stale :=
  match x.blind with
  | none => { x with blind := some [List.replicate queued true, List.replicate saved true] }
  | some _ => x

/-- The oldest entry has retired. -/
def entryGone (x : Stale) : Stale :=
  { x with blind := x.blind.map fun ms => match ms with
    | m :: ms => m.tail :: ms
    | [] => [] }

/-- A trap has saved the queue. -/
def queueGone (x : Stale) : Stale := { x with blind := x.blind.map ([] :: ·) }

/-- ERET has dispatched `n` saved entries after the `len` that the queue held (R48). -/
def queueBack (len n : Nat) (x : Stale) : Stale :=
  { x with blind := x.blind.map fun ms => match ms with
    | m :: m' :: ms => (m.take len ++ List.replicate (len - m.length) false ++ m'.take n) :: ms
    | ms => ms }

/-- Units that began work: those that may not see a store are the ones that an entry started that may not. -/
def unitsBegin (us : List (Nat × Nat)) (x : Stale) : Stale :=
  { x with late := x.late.filter (fun u => !us.contains u) ++ (if x.forEntry then [] else us) }

/-- Stores that no access may miss any more are forgotten, and units that are at rest are no longer waited for. -/
def prune (s : State) : State :=
  let us := unitsOf s false
  { s with
    unseenV := s.unseenV.filter fun x => x.forEntries || us.any fun u => !x.late.contains u
    unseenS := s.unseenS.map fun x => { x with frees := x.frees.filter (unitsOf s true).contains } }

/-- What the agents see after the scalar agent has passed a FENCE of a kind (R117, R338). -/
def afterFence (k : BitVec 4) (s : State) : State :=
  let saved := bitsOf s.hart.trap.xvq.toNat 63 58
  let s := if (k &&& 9) != 0 then { s with unseenV := s.unseenV.map (fenceStore s.hart.vq.length saved) } else s
  if (k &&& 0xE) != 0 then { s with unseenS := [] } else s

/-! ## Relaxed turns -/

/-- A turn of the scalar agent. -/
noncomputable def scalarTurn (hide under : Bool) (s : State) : Host.Outcome State Fault Refusal :=
  match agentTurn hartStep under s (s.unseenS.length + 1) s.unseenS with
  | none => hartStep s.seen
  | some r =>
    let t := { r.after with unseenS := r.mine, unseenV := r.theirs hide false [] s s.unseenV }
    .next (prune (
      if queueSaved s t then { t with unseenV := t.unseenV.map queueGone }
      else match nextInstr r.ran with
        | some (.fence _ k) => if t.hart.fetch != s.hart.fetch && t.hart.trap == s.hart.trap then afterFence k t else t
        | some .eret => { t with unseenV := t.unseenV.map (queueBack s.hart.vq.length (t.hart.vq.length - s.hart.vq.length)) }
        | _ => t))

/-- The oldest entry executes. A release makes the stores before it seen (R339); an entry that delivers a value has performed its own accesses
for the scalar agent, and what is ordered before them (R341). A transfer whose ring record it will post frees the stores before it (R340). -/
noncomputable def entryTurn (hide under : Bool) (s : State) : Host.Outcome State Fault Refusal :=
  let run : AgentRun := fun s => .next (executeOldest.exec s).2
  let i := oldestInstr s
  match agentTurn run under s (s.unseenV.length + 1) (seeWhere (fun x => !x.forEntry) s.unseenV) with
  | none => run s.seen
  | some r =>
    let t := r.after
    let us := started i s t
    let before := if i.any fun i => released i s r.raw then [] else s.unseenS
    let gave := deliveries s.hart < deliveries t.hart
    let before :=
      if !gave then before
      else if s.hart.vq.head?.any Entry.begun then []
      else seeBefore (fun x => reaches run r.ran r.raw ((List.range x.size).map (x.addr + ·))) before
    let before := before.map fun x => { x with frees := x.frees ++ us.filter fun u => (compOf t u).kind == 2 }
    let mine := (r.ours Stale.forEntry (s.unseenV.map (unitsBegin us))).map (fun x => if x.forEntry then unitsBegin us x else x)
    let mine :=
      if queueSaved s t then mine.map queueGone
      else if t.hart.vq.length < s.hart.vq.length then mine.map entryGone
      else mine
    .next (prune { t with
      unseenV := mine, unseenS := r.theirs (hide && !gave) (i.any fun i => isAtomic i s) [] s before })

/-- An engine makes accesses for the vector agent in its unit `u`. Once it says that it has completed, every access of its transfer is seen,
and what its ring record frees (R340); its flag may stay hidden. -/
def engineTurn (i : Instr) (u : Nat × Nat) (hide under : Bool) (s : State) : Host.Outcome State Fault Refusal :=
  let late (x : Stale) : Bool := x.late.contains u
  match agentTurn (exec i) under s (s.unseenV.length + 1) (seeWhere late s.unseenV) with
  | none => exec i s.seen
  | some r =>
    let theirs :=
      if signalled u s r.after then
        let flag := flagOf (compOf s u) r.raw.made.agent
        let xs := r.theirs false false [] s (s.unseenS.filter fun x => !x.frees.contains u)
        if hide then xs ++ (hideStores false [] r.under s.mem r.raw.made.agent).filter fun x => flag.any fun w => w.1 == x.addr && w.2.length == x.size
        else xs
      else r.theirs hide (u.1 == 2) [u] s s.unseenS
    .next (prune { r.after with unseenV := r.ours (fun x => !late x) s.unseenV, unseenS := theirs })

/-- A relaxed turn of the hart in focus (R344): its vector unit lags, and the turn is of one agent. Where it is not, every store is seen. -/
noncomputable def relaxedStep (actor : Actor) (hide under : Bool) (s : State) : Host.Outcome State Fault Refusal :=
  let able := s.hart.phase == .running && s.lag && !waitsForOldest s.hart
  match actor with
  | .scalar => if able then scalarTurn hide under s else hartStep s.seen
  | .vector => if able && !s.hart.vq.isEmpty then entryTurn hide under s else .next (executeOldest.exec s.seen).2
  | .engine i =>
    match unitOf s i with
    | some u => if able then engineTurn i u hide under s else exec i s.seen
    | none => exec i s.seen

/-! ## A scalar read of what the vector agent stores later -/

/-- Put the bytes of a granule of eight bytes into memory as they are, with no effect of a store. -/
def State.overlay (s : State) (g : Nat) (bytes : List Byte) : State := { s with mem := sparsePutList memDefault s.mem (8 * g) bytes }

/-- The eight bytes of a granule, and their addresses. -/
def State.granule (s : State) (g : Nat) : List Byte := sparseGetList memDefault s.mem (8 * g) 8
def granuleBytes (g : Nat) : List Nat := (List.range 8).map (8 * g + ·)

/-- The instruction at PC is a FENCE that orders the scalar accesses before it (R338). -/
noncomputable def fencesScalar (s : State) : Bool :=
  match nextInstr s with
  | some (.fence _ k) => (k &&& 9) != 0
  | _ => false

/-- Turns of the hart in focus that are taken while a scalar access to a granule is still to perform: `none` where that access comes before
one of them, which a FENCE and a scalar access to the granule ask for (R337, R338). -/
noncomputable def turnsBefore (g : Nat) : List Actor → State → Option State
  | [], s => some s
  | a :: as, s =>
    if s.hart.phase != .running then none
    else match a with
      | .scalar =>
        if fencesScalar s then none
        else match hartStep (s.viewed []) with
          | .next t => if reaches hartStep (s.viewed []) t (granuleBytes g) then none else turnsBefore g as { t with stores := none }
          | _ => none
      | .vector => turnsBefore g as (executeOldest.exec s).2
      | .engine i =>
        if (unitOf s i).isNone then none
        else match exec i s with
          | .next t => turnsBefore g as t
          | _ => none

/-- A step of the hart in focus whose scalar agent reads a granule after the vector agent has stored to it in the turns `as`, where these
leave the granule with the bytes that it read (R344). Else the step is a plain one. -/
noncomputable def foresee (g : Nat) (bytes : List Byte) (as : List Actor) (s : State) : Host.Outcome State Fault Refusal :=
  let v := (s.overlay g bytes).viewed []
  let read : Option State :=
    if s.hart.phase != .running || !s.lag || waitsForOldest s.hart || fencesScalar s || nextInstr v != nextInstr s then none
    else match hartStep v with
      | .next u =>
        if (bytesOf u.made.agent).any (granuleBytes g).contains then none
        else turnsBefore g as { u.overlay g (s.granule g) with stores := none }
      | _ => none
  match read with
  | some t => if t.id == s.id && t.hart.phase == .running && t.granule g == bytes then .next t else hartStep s
  | none => hartStep s

/-! ## Turns -/

/-- The cache of a core comes to hold the word at an address, gives it up, or finds or does not find it at a fetch (R53, log 9). -/
def codeTurn (core addr : Nat) (hit : Option Bool) : M Unit := do
  let a := addr / 4 * 4
  let w := BitVec.ofNat 32 ((← get).memNat a 4)
  modCore core fun k => { k with code := sparsePut none k.code a (hit.map fun b => match sparseGet none k.code a with
    | some (old, _) => (old, b)
    | none => (w, b)) }

/-- A turn that the agenda gives; a hart on a die that the part lacks takes none (R1). -/
noncomputable def takeTurn (t : Turn) (s : State) : Host.Outcome State Fault Refusal :=
  match t with
  | .hart n => if present s n then hartStep { s.seen.focusOn n with parked := false } else .next s
  | .vector n => if present s n then .next ((executeOldest.exec (s.seen.focusOn n)).2) else .next s
  | .relaxed n actor hide under =>
    if s.id = n then relaxedStep actor hide under { s with parked := false }
    else if present s n then relaxedStep actor hide under { s.seen.focusOn n with parked := false }
    else .next s
  | .foresee n g bytes as => if present s n then foresee g bytes as { s.seen.focusOn n with parked := false } else .next s
  | .reveal vector n =>
    .next (if vector then { s with unseenV := seeNth n s.unseenV } else { s with unseenS := seeNth n s.unseenS })
  | .code core addr hit => runEvent (codeTurn core addr hit) s
  | .cycles n => .next { s.seen with time := s.time + n }
  | .event i => exec i s.seen
  | .upset cls spot => runEvent (upsetAt cls spot) s.seen
  | .flit p link vc dest kind payload => runEvent (sendFlit p link ⟨0, vc, dest, kind, payload⟩) s.seen
  | .hostRead p off size => runEvent (hostControlRead p off size) s.seen

end Sys2Proof.Machine
end

