-- ==== Sys2Proof/Machine/Step.lean ====
section
/-! DEFINITION. One step of the machine, and the placing of an instruction for it. -/

namespace Sys2Proof.Machine

/-- One step: the agenda's next turn, or, with an empty agenda, the step that the state itself calls for. -/
noncomputable def step (s : State) : Host.Outcome State Fault Refusal :=
  match s.agenda with
  | t :: ts => takeTurn t { s with agenda := ts }
  | [] => freeStep s

/-- The state with an instruction stored where `step` fetches the next one. -/
def State.withFetchWord (s : State) (_nbits w : Nat) : State := s.placeWord w

end Sys2Proof.Machine
end

