-- ==== Sys2Proof/Safety.lean ====
section
/-! DEFINITION. The terms that claims about the machine use: the state one instruction further, what fetching may change, when a
vector-side instruction dispatches and executes at once, and what an instruction leaves as it was. -/

namespace Sys2Proof.Machine

/-! ## Going on -/

/-- The state after the queued addresses have moved on as a flow says (R105, R107). -/
def State.after (s : State) (fl : Flow) : State := ((advance fl).exec s).2

/-- The state after the queued addresses have moved on to the next word. -/
def State.passed (s : State) : State := s.after .next

/-- Only an instruction word was fetched between two states: the queued addresses moved on, the die's TLB took the entry of the word at
the last of them, and that table entry, the one that the walk finds, took the bit A (R317, R320); nothing else changed, and with
translation off nothing but the queued addresses did. A fetch that its package does not answer uses up that mark (R395). -/
def OnlyFetched (s t : State) : Prop :=
  t = { s with
    hart := { s.hart with fetch := t.hart.fetch, unanswered := t.hart.unanswered }
    mem := t.mem
    dies := t.dies } ∧
  (s.hart.unanswered = none → t.hart.unanswered = none) ∧
  (∀ a, t.byteAt a ≠ s.byteAt a → t.byteAt a = s.byteAt a ||| 0x40 ∧
    ∃ e big, walk s (dieOf s.id) t.hart.fetch.na.toNat = .ok (e, a, big)) ∧
  (∀ d, t.die d = { s.die d with tlb := (t.die d).tlb }) ∧
  (s.myDie.ptEn = 0 → t.mem = s.mem ∧ t.dies = s.dies)

/-! ## Scalar operands -/

/-- The access translates to a physical address, and the tables need no update for it: translation is off at privilege 2, or
the leaf is cached with every bit the access needs (R316, R319–R321). -/
def Reaches (k : Access) (g : Agent) (s : State) (v : Word) (size pa : Nat) : Prop :=
  (translateAt s.hart.trap.priv.toNat k g v size).exec s = (.ok pa, s)

/-- No byte of a span is poisoned (R330). -/
def Clean (s : State) (pa n : Nat) : Prop := ∀ p ∈ s.poison, p < pa ∨ pa + n ≤ p

/-- The bytes from a to a+n-1 are plain memory in no fenced unit, which an access with translation off reaches (R212, R315, R316). -/
def PlainSpan (s : State) (a n : Nat) : Prop :=
  s.myDie.ptEn = 0 ∧ a + n ≤ 2 ^ 52 ∧
    ∀ x, a ≤ x → x < a + n → absent s (pkgOf s.id) x = false ∧ isControlWindow x = false ∧ fencedAt s x = false

/-! ## The vector-queue save area -/

/-- The address of the vector-queue save area, and the number of entries saved there (R47). -/
def saveArea (s : State) : Nat := bitsOf s.hart.trap.xvq.toNat 51 5 * 32
def savedCount (s : State) : Nat := bitsOf s.hart.trap.xvq.toNat 63 58

/-- The eight words of a saved entry, field by field (R47). -/
def slotWords (e : Entry) : List Nat :=
  let c := e.cfg
  [e.word.toNat + 2 ^ 32 * e.lit.toNat,
    e.b0.toNat,
    c.vl.toNat + 2 ^ 14 * (c.rc.toNat - 1) + 2 ^ 19 * c.etype.toNat + 2 ^ 23 * c.psel.toNat + 2 ^ 28 * c.gsel.toNat +
      2 ^ 32 * c.vwb.toNat + 2 ^ 39 * c.estart.toNat + 2 ^ 57 * c.maskmode.toNat + 2 ^ 58 * c.frm.toNat,
    c.mmode.toNat,
    e.b1.toNat,
    e.a0.toNat,
    e.a1.toNat,
    0]

/-- Memory at an address holds saved entries, one in every 64 bytes (R47). -/
def HoldsEntries (s : State) (base : Nat) (es : List Entry) : Prop :=
  ∀ i e, es[i]? = some e → ∀ k < 8, s.memNat (base + 64 * i + 8 * k) 8 = (slotWords e).getD k 0

/-- The area at XVQ takes n saved entries: translation is off, and their bytes are memory (R45, R316). -/
def SaveRoom (s : State) (n : Nat) : Prop := n ≤ 32 ∧ PlainSpan s (saveArea s) (64 * n)

/-! ## Vector-side instructions -/

/-- The vector queue of the hart in focus is empty, its vector unit does not lag, VREL has not been dispatched (R25, R35), no row and no
tile carries an uncorrectable error (R212), and every package answers (R395). -/
structure Ready (s : State) : Prop where
  empty : s.hart.vq = []
  prompt : s.lag = false
  live : s.hart.task.vrel = false
  soundRows : s.hart.vec.badRows = []
  soundTiles : s.hart.vec.badTiles = []
  answered : s.hart.unanswered = none

/-- The entry that dispatch appends (R25, R47); with `whole` its ESTART is 0 (R165, R399). -/
def entryOf (s : State) (w lit : BitVec 32) (a b : Cap) (whole : Bool := false) : Entry :=
  ⟨w, lit, (a.values s.hart).1, (a.values s.hart).2, (b.values s.hart).1, (b.values s.hart).2,
    if whole then s.hart.cfg.from0 else s.hart.cfg, s.hart.fetch.pc, false⟩

/-- The captured names of a field are inside their windows (R31). -/
def CapOk (h : Hart) : Cap → Prop
  | .none => True
  | .scalar n => scalarOk h n = true
  | .pair n => scalarOk h n = true ∧ scalarOk h (n + 1) = true

/-- The state in which the entry executes: it is alone in the queue, and the scalar unit has gone on. -/
def State.queued (s : State) (e : Entry) : State := State.passed { s with hart := { s.hart with vq := [e] } }

/-- The state after the oldest entry has retired: it has left the queue, and ESTART is 0 (R42). -/
def State.retired (s : State) : State :=
  { s with hart := { s.hart with
    vq := s.hart.vq.tail
    cfg := { s.hart.cfg with estart := 0 }
    vec := { s.hart.vec with strips := [], outs := [] } } }

/-- `count` rows from row n lie in the allotment (R23, R31). -/
def RowsIn (s : State) (n count : Nat) : Prop :=
  n + count - 1 ≤ 127 ∧ s.hart.cfg.vwb.toNat + n + count - 1 < s.hart.sys.rowsN.toNat

/-- A row name is bound to no stream (R194). -/
def Unbound (s : State) (n : Nat) : Prop := streamAt s.hart.vec (s.hart.cfg.vwb.toNat + n) = none

/-- `count` rows from row n lie in the allotment, and none of them is bound to a stream. -/
def PlainRows (s : State) (n count : Nat) : Prop := RowsIn s n count ∧ ∀ k, k < count → Unbound s (n + k)

/-- A plain tile operand: its RC rows are in the allotment and bound to no stream. -/
def PlainTile (s : State) (n : BitVec 7) : Prop := PlainRows s n.toNat s.hart.cfg.rcN

/-- The b operand of the V format is usable: a plain tile, or a scalar name inside its window (R56). -/
def VSrcOk (s : State) : VSrc → Prop
  | .vv n => PlainTile s n
  | .vs n => scalarOk s.hart n = true
  | .vi _ => True
  | .vl _ => True

/-- A predicate reaches every position of a row, where the instruction is masked (R129). -/
def MaskOk (s : State) (m : BitVec 1) : Prop := m = 1 → s.hart.cfg.vlN ≤ 1024

/-- What a vector entry that reads no memory and changes only vector-side registers leaves as it was: everything but those
registers, ESTART, the sticky flags `fl` that FFLAGS takes beside those it holds (R83; none unless they are given), and what going on to
the next word changes (`GoingOnFrame` says what that is: memory keeps every byte but for the bit A of one table entry). -/
def OnlyVec (s t : State) (fl : Flags := 0) : Prop :=
  t = { s.passed with
    hart := { s.passed.hart with
      cfg := { s.hart.cfg with estart := 0 }
      sys := { s.hart.sys with fflags := s.hart.sys.fflags ||| fl }
      vec := t.hart.vec } }

/-- Of the vector-side registers only the rows `dest` change, with their order words, dirty bits and high-water marks, and the
generator. -/
def OnlyRowsOf (dest : Nat → Prop) (s t : State) : Prop :=
  t.hart.vec = { s.hart.vec with
    rows := t.hart.vec.rows
    order := t.hart.vec.order
    dirty := t.hart.vec.dirty
    high := t.hart.vec.high
    gen := t.hart.vec.gen
    strips := []
    outs := [] } ∧
  (∀ row off, ¬dest row → off < 4096 →
    sparseGet 0 t.hart.vec.rows (rowKey row off) = sparseGet 0 s.hart.vec.rows (rowKey row off)) ∧
  (∀ row, ¬dest row → sparseGet 0 t.hart.vec.order row = sparseGet 0 s.hart.vec.order row ∧
    sparseGet false t.hart.vec.dirty row = sparseGet false s.hart.vec.dirty row ∧
    sparseGet 0 t.hart.vec.high row = sparseGet 0 s.hart.vec.high row)

/-- What a vector entry that writes rows and raises the flags `fl` leaves as it was. -/
def OnlyRows (dest : Nat → Prop) (s t : State) (fl : Flags := 0) : Prop := OnlyVec s t fl ∧ OnlyRowsOf dest s t

/-- The flags that the positions below n raise together, each that `act` names (R83). -/
def flagsOver (n : Nat) (act : Nat → Bool) (fl : Nat → Flags) : Flags :=
  ((List.range n).filter act).foldl (fun x j => x ||| fl j) 0

/-- The rows that a tile name covers. -/
def tileRows (s : State) (n : BitVec 7) (count : Nat) (row : Nat) : Prop :=
  s.hart.cfg.vwb.toNat + n.toNat ≤ row ∧ row < s.hart.cfg.vwb.toNat + n.toNat + count

/-- An instruction on plain tiles can dispatch, execute and retire in one step: the queue is empty, a mask reaches every position,
every tile is plain, b is usable, VL is one that the element type allows (R22), and RC is at least 1 (R42). -/
structure TilesOk (s : State) (m : BitVec 1) (tiles : List (BitVec 7)) (b : VSrc) : Prop where
  ready : Ready s
  mask : MaskOk s m
  plain : ∀ n ∈ tiles, PlainTile s n
  src : VSrcOk s b
  vl : s.hart.cfg.vlN ≤ vlmax s.hart.cfg.et
  rc : 1 ≤ s.hart.cfg.rcN

/-- Element j of a tile that is bound to no stream (R18). -/
def elemOf (s : State) (n : BitVec 7) (w j : Nat) : Nat := s.hart.vec.elW s.hart.cfg n w j

/-- `active(j)` (R18). -/
def activeAt (s : State) (m : BitVec 1) (j : Nat) : Bool :=
  activeIn s.hart.cfg m (predOf s.hart.vec s.hart.cfg.psel.toNat) j

/-- The tile at n in the state t, read with the configuration of s, holds what `f` gives; a position for which it gives nothing is
zero under MASKMODE 1 from ESTART on, and keeps its value otherwise (R18, R130). -/
def TileIs (s t : State) (n : BitVec 7) (w : Nat) (f : Nat → Option Nat) : Prop :=
  ∀ j, j < s.hart.cfg.count → t.hart.vec.elW s.hart.cfg n w j =
    match f j with
    | some x => x % 2 ^ w
    | none => if s.hart.cfg.maskmode = 1 ∧ s.hart.cfg.est ≤ j then 0 else elemOf s n w j

/-- A position is active with ESTART taken as 0 (R165). -/
def active0 (s : State) (m : BitVec 1) (j : Nat) : Bool :=
  activeFrom0 s.hart.cfg m (predOf s.hart.vec s.hart.cfg.psel.toNat) j

/-- The tile at row number n of t holds what `f` gives; a position for which it gives nothing is zero under MASKMODE 1 and keeps
its value otherwise, whatever ESTART is (R165). -/
def TileIs0 (s t : State) (n : Nat) (f : Nat → Option Nat) : Prop :=
  let c := s.hart.cfg
  ∀ j < c.count, tileElem t.hart.vec c.vwb.toNat n (j / c.vlN) (j % c.vlN) c.width =
    match f j with
    | some x => x % 2 ^ c.width
    | none => if c.maskmode = 1 then 0 else tileElem s.hart.vec c.vwb.toNat n (j / c.vlN) (j % c.vlN) c.width

/-- Bytes of a row up to the end of the `w`-bit element at position i; a 4-bit element counts its whole byte (R38, R74). -/
def endByte (w i : Nat) : Nat := (i * w + w + 7) / 8

/-- Position j of a tile is written: with a value, or with zero under MASKMODE 1 from position `est` on (R18, R130). -/
def writesAt (s : State) (est : Nat) (f : Nat → Option Nat) (j : Nat) : Bool :=
  (f j).isSome || (s.hart.cfg.maskmode == 1 && decide (est ≤ j))

/-- What `count` rows from row n on keep and take besides the values at positions below VL, when an instruction writes position j with
what `f` gives and passes the others over from position `est` on: positions at and beyond VL keep their values (R19); the order word is
cleared in a row that has a written or passed position (R18, R39); the dirty bit is set in a row with a written position, and its
high-water mark rises to the last byte written (R38). -/
def RowMarksOf (s t : State) (n count w est : Nat) (f : Nat → Option Nat) : Prop :=
  let c := s.hart.cfg
  ∀ r, r < count →
    let row := c.vwb.toNat + n + r
    let js := (List.range c.vlN).filter fun i => writesAt s est f (r * c.vlN + i)
    (∀ i, c.vlN ≤ i → i < 32768 / w →
      tileElem t.hart.vec c.vwb.toNat n r i w = tileElem s.hart.vec c.vwb.toNat n r i w) ∧
    sparseGet 0 t.hart.vec.order row =
      (if (List.range c.vlN).any fun i => (f (r * c.vlN + i)).isSome || decide (est ≤ r * c.vlN + i) then 0
       else sparseGet 0 s.hart.vec.order row) ∧
    sparseGet false t.hart.vec.dirty row = (sparseGet false s.hart.vec.dirty row || !js.isEmpty) ∧
    sparseGet 0 t.hart.vec.high row = (js.map (endByte w)).foldl Nat.max (sparseGet 0 s.hart.vec.high row)

/-- The same for the tile d, whose positions below ESTART are left alone. -/
def RowMarks (s t : State) (d : BitVec 7) (w : Nat) (f : Nat → Option Nat) : Prop :=
  RowMarksOf s t d.toNat s.hart.cfg.rcN w s.hart.cfg.est f

/-- The instruction retires in one step; it wrote the tile d with what `f` gives, at width w, raised the flags `fl`, and changed nothing
else. -/
def WroteTile (s : State) (d : BitVec 7) (w : Nat) (f : Nat → Option Nat) (r : Host.Outcome State Fault Refusal)
    (fl : Flags := 0) : Prop :=
  ∃ t, r = .next t ∧ OnlyRows (tileRows s d s.hart.cfg.rcN) s t fl ∧ TileIs s t d w f ∧ RowMarks s t d w f

/-- The instruction retires in one step, with a change of the hart's registers and no other effect but that of fetching. -/
def retiredWith (s : State) (w lit : BitVec 32) (a b : Cap) (f : Hart → Hart) : Host.Outcome State Fault Refusal :=
  let q := s.queued (entryOf s w lit a b)
  .next (State.retired { q with hart := f q.hart })

end Sys2Proof.Machine
end

