-- ==== Sys2Proof/Certificates/Slice0/Obligations.lean ====
section
/-! DEFINITION. The statements for the provers: what the manual's rules say of the machine, in the terms of Safety. -/

namespace Sys2Proof.Machine

/-- The next state of a scalar instruction that writes one scalar destination and goes on to the next word. -/
def wroteScalar (s : State) (d : BitVec 7) (v : Word) : Host.Outcome State Fault Refusal :=
  .next (State.passed { s with hart := setScalar s.hart d v })

/-- The same for an instruction that also sets sticky flags (R83). -/
def wroteFlagged (s : State) (d : BitVec 7) (v : Word) (fl : Flags) : Host.Outcome State Fault Refusal :=
  .next (State.passed { s with
    hart := setScalar { s.hart with sys := { s.hart.sys with fflags := s.hart.sys.fflags ||| fl } } d v })

/-- Scalar rounding: FRM mode 4 acts as mode 0 (R102). -/
def scalarFrm (s : State) : Nat := if s.hart.cfg.frm = 4 then 0 else s.hart.cfg.frm.toNat

/-- A rounded FP32 result and its flags together with those of the exact operation. -/
def roundedTo (f : Fmt) (mode : Nat) (r : Ex × Flags) : Word × Flags :=
  (BitVec.ofNat 64 (f.rnd mode 0 false r.1).1, r.2 ||| (f.rnd mode 0 false r.1).2)

end Sys2Proof.Machine

open Sys2Proof Sys2Proof.Machine

/-- R31: s0 reads 0 and discards writes, sN is the physical scalar SWB + N, and kN is the constant KBASE + N; a write reaches
the named scalar and no other one. -/
def Obligations.ScalarNames : Prop :=
  ∀ (h : Hart) (d n : BitVec 7) (v : Word), d.toNat < 64 →
    scalarVal h 0 = 0 ∧
    setScalar h 0 v = h ∧
    (n.toNat < 64 → n ≠ 0 → scalarVal h n = sparseGet 0 h.sregs (h.sys.swb.toNat + n.toNat)) ∧
    (64 ≤ n.toNat → scalarVal h n = sparseGet 0 h.kbank (h.sys.kbase.toNat + (n.toNat - 64))) ∧
    (d ≠ 0 → scalarVal (setScalar h d v) d = v) ∧
    (n ≠ d → scalarVal (setScalar h d v) n = scalarVal h n) ∧
    setScalar h d v = { h with sregs := (setScalar h d v).sregs } ∧
    (∀ k, k ≠ h.sys.swb.toNat + d.toNat → sparseGet 0 (setScalar h d v).sregs k = sparseGet 0 h.sregs k)

/-- R31: a scalar name outside its window or past the register file raises WINF with the operand field as XVAL, and nothing
is written: ADD stands for every instruction that reads two scalars and writes one. -/
def Sys2Proof.Claim.ScalarWindowTrap : Prop :=
  ∀ (d a b : BitVec 7) (s : State), d.toNat < 64 →
    (scalarOk s.hart d = false → exec (.add d a b) s = .next (takeTrap false .winf (d.zeroExtend 64) s)) ∧
    (scalarOk s.hart d = true → scalarOk s.hart a = false →
      exec (.add d a b) s = .next (takeTrap false .winf (a.zeroExtend 64) s)) ∧
    (scalarOk s.hart d = true → scalarOk s.hart a = true → scalarOk s.hart b = false →
      exec (.add d a b) s = .next (takeTrap false .winf (b.zeroExtend 64) s)) ∧
    (d ≠ 0 → (scalarOk s.hart d = true ↔ d.toNat < s.hart.sys.window.toNat ∧ s.hart.sys.swb.toNat + d.toNat ≤ 255)) ∧
    (64 ≤ a.toNat → (scalarOk s.hart a = true ↔ s.hart.sys.kbase.toNat + (a.toNat - 64) ≤ 511))

/-- R95, R87: each function of ALU and CMP writes its result to D, and nothing else changes but that the machine goes on to the
next word; division never traps. -/
def Obligations.AluResults : Prop :=
  ∀ (d a b : BitVec 7) (s : State),
    scalarOk s.hart d = true → scalarOk s.hart a = true → scalarOk s.hart b = true →
    let A := scalarVal s.hart a
    let B := scalarVal s.hart b
    let n := B.toNat % 64
    let is (p : Prop) [Decidable p] : Word := if p then 1 else 0
    exec (.add d a b) s = wroteScalar s d (A + B) ∧
    exec (.sub d a b) s = wroteScalar s d (A - B) ∧
    exec (.and d a b) s = wroteScalar s d (A &&& B) ∧
    exec (.or d a b) s = wroteScalar s d (A ||| B) ∧
    exec (.xor d a b) s = wroteScalar s d (A ^^^ B) ∧
    exec (.andn d a b) s = wroteScalar s d (A &&& ~~~B) ∧
    exec (.orn d a b) s = wroteScalar s d (A ||| ~~~B) ∧
    exec (.sll d a b) s = wroteScalar s d (BitVec.ofNat 64 (A.toNat * 2 ^ n)) ∧
    exec (.srl d a b) s = wroteScalar s d (BitVec.ofNat 64 (A.toNat / 2 ^ n)) ∧
    exec (.sra d a b) s = wroteScalar s d (BitVec.ofInt 64 (A.toInt / 2 ^ n)) ∧
    exec (.ror d a b) s = wroteScalar s d (BitVec.ofNat 64 (A.toNat / 2 ^ n ||| A.toNat * 2 ^ (64 - n))) ∧
    exec (.mul d a b) s = wroteScalar s d (BitVec.ofNat 64 (A.toNat * B.toNat)) ∧
    exec (.mulh d a b) s = wroteScalar s d (BitVec.ofInt 64 (A.toInt * B.toInt / 2 ^ 64)) ∧
    exec (.mulhu d a b) s = wroteScalar s d (BitVec.ofNat 64 (A.toNat * B.toNat / 2 ^ 64)) ∧
    exec (.div d a b) s = wroteScalar s d (if B = 0 then BitVec.ofInt 64 (-1) else BitVec.ofInt 64 (A.toInt.tdiv B.toInt)) ∧
    exec (.divu d a b) s = wroteScalar s d (if B = 0 then BitVec.ofInt 64 (-1) else BitVec.ofNat 64 (A.toNat / B.toNat)) ∧
    exec (.rem d a b) s = wroteScalar s d (if B = 0 then A else BitVec.ofInt 64 (A.toInt.tmod B.toInt)) ∧
    exec (.remu d a b) s = wroteScalar s d (if B = 0 then A else BitVec.ofNat 64 (A.toNat % B.toNat)) ∧
    exec (.min d a b) s = wroteScalar s d (if A.toInt ≤ B.toInt then A else B) ∧
    exec (.max d a b) s = wroteScalar s d (if A.toInt ≤ B.toInt then B else A) ∧
    exec (.minu d a b) s = wroteScalar s d (if A.toNat ≤ B.toNat then A else B) ∧
    exec (.maxu d a b) s = wroteScalar s d (if A.toNat ≤ B.toNat then B else A) ∧
    exec (.addw d a b) s = wroteScalar s d (((A + B).truncate 32).signExtend 64) ∧
    exec (.subw d a b) s = wroteScalar s d (((A - B).truncate 32).signExtend 64) ∧
    exec (.seq d a b) s = wroteScalar s d (is (A = B)) ∧
    exec (.sne d a b) s = wroteScalar s d (is (A ≠ B)) ∧
    exec (.slt d a b) s = wroteScalar s d (is (A.toInt < B.toInt)) ∧
    exec (.sge d a b) s = wroteScalar s d (is (B.toInt ≤ A.toInt)) ∧
    exec (.sltu d a b) s = wroteScalar s d (is (A.toNat < B.toNat)) ∧
    exec (.sgeu d a b) s = wroteScalar s d (is (B.toNat ≤ A.toNat))

/-- R96–R98: the immediate forms, the bit functions and the constant loads write their result to D, and nothing else changes
but that the machine goes on to the next word; LI and LF have majors 0x3E and 0x3F, a 6-bit destination and imm20. -/
def Obligations.ImmediateResults : Prop :=
  ∀ (d a : BitVec 7) (im : BitVec 12) (sf : BitVec 6) (e : BitVec 6) (k : BitVec 20) (s : State),
    scalarOk s.hart d = true → scalarOk s.hart a = true → scalarOk s.hart (e.zeroExtend 7) = true →
    let A := scalarVal s.hart a
    let sx := im.signExtend 64
    let n := sf.toNat
    let bits (p : Nat → Bool) : Nat := ((List.range 64).filter p).length
    exec (.addi d a im) s = wroteScalar s d (A + sx) ∧
    exec (.andi d a im) s = wroteScalar s d (A &&& sx) ∧
    exec (.ori d a im) s = wroteScalar s d (A ||| sx) ∧
    exec (.xori d a im) s = wroteScalar s d (A ^^^ sx) ∧
    exec (.slli d a sf) s = wroteScalar s d (BitVec.ofNat 64 (A.toNat * 2 ^ n)) ∧
    exec (.srli d a sf) s = wroteScalar s d (BitVec.ofNat 64 (A.toNat / 2 ^ n)) ∧
    exec (.srai d a sf) s = wroteScalar s d (BitVec.ofInt 64 (A.toInt / 2 ^ n)) ∧
    exec (.rori d a sf) s = wroteScalar s d (BitVec.ofNat 64 (A.toNat / 2 ^ n ||| A.toNat * 2 ^ (64 - n))) ∧
    exec (.clz d a) s = wroteScalar s d (BitVec.ofNat 64 (bits fun i => A.toNat < 2 ^ (63 - i))) ∧
    exec (.ctz d a) s = wroteScalar s d (BitVec.ofNat 64 (bits fun i => A.toNat % 2 ^ (i + 1) = 0)) ∧
    exec (.popc d a) s = wroteScalar s d (BitVec.ofNat 64 (bits fun i => A.getLsbD i)) ∧
    exec (.sextb d a) s = wroteScalar s d ((A.truncate 8).signExtend 64) ∧
    exec (.sexth d a) s = wroteScalar s d ((A.truncate 16).signExtend 64) ∧
    exec (.sextw d a) s = wroteScalar s d ((A.truncate 32).signExtend 64) ∧
    exec (.zextb d a) s = wroteScalar s d (BitVec.ofNat 64 (A.toNat % 2 ^ 8)) ∧
    exec (.zexth d a) s = wroteScalar s d (BitVec.ofNat 64 (A.toNat % 2 ^ 16)) ∧
    exec (.zextw d a) s = wroteScalar s d (BitVec.ofNat 64 (A.toNat % 2 ^ 32)) ∧
    exec (.bswap d a) s = wroteScalar s d
      (A.extractLsb' 0 8 ++ A.extractLsb' 8 8 ++ A.extractLsb' 16 8 ++ A.extractLsb' 24 8 ++ A.extractLsb' 32 8 ++
        A.extractLsb' 40 8 ++ A.extractLsb' 48 8 ++ A.extractLsb' 56 8) ∧
    exec (.li e k) s = wroteScalar s (e.zeroExtend 7) (k.signExtend 64) ∧
    exec (.lf e k) s = wroteScalar s (e.zeroExtend 7) (BitVec.ofNat 64 (k.toNat * 2 ^ 12)) ∧
    (Instr.li e k).word = (0x3E#6 ++ e) ++ k ∧ (Instr.lf e k).word = (0x3F#6 ++ e) ++ k

/-- R105, R52, R320: going on to the next word changes the queued addresses and what a fetch changes, whatever the flow: no other
register, no other unit, and no byte of memory but the one with the bit A of the table entry that the walk for the fetched word
finds. -/
def Obligations.GoingOnFrame : Prop :=
  ∀ (s : State) (fl : Flow), OnlyFetched s (s.after fl)

/-- The instructions of the scalar integer families that write one scalar named by d (R95–R98). -/
def Sys2Proof.Claim.scalarForms (d a b : BitVec 7) (im : BitVec 12) (sf : BitVec 6) : List Instr :=
  [.add d a b, .sub d a b, .and d a b, .or d a b, .xor d a b, .andn d a b, .orn d a b, .sll d a b, .srl d a b, .sra d a b,
    .ror d a b, .mul d a b, .mulh d a b, .mulhu d a b, .div d a b, .divu d a b, .rem d a b, .remu d a b, .min d a b,
    .max d a b, .minu d a b, .maxu d a b, .addw d a b, .subw d a b, .seq d a b, .sne d a b, .slt d a b, .sge d a b,
    .sltu d a b, .sgeu d a b, .addi d a im, .andi d a im, .ori d a im, .xori d a im, .slli d a sf, .srli d a sf,
    .srai d a sf, .rori d a sf, .clz d a, .ctz d a, .popc d a, .sextb d a, .sexth d a, .sextw d a, .zextb d a, .zexth d a,
    .zextw d a, .bswap d a]

/-- The frame of the scalar integer instructions (R95–R98): when one of them, LI and LF included, gives a next state and its names are
inside their windows, every scalar but its destination, every other register and every unit is as it was but for what fetching the next
word changes: of memory, at most the bit A of the table entry that the walk for that word finds (R320), and with translation off
nothing. -/
def Obligations.ScalarFrame : Prop :=
  ∀ (d a b : BitVec 7) (im : BitVec 12) (sf : BitVec 6) (e : BitVec 6) (k : BitVec 20) (s t : State),
    let frame (d : BitVec 7) : Prop :=
      OnlyFetched { s with hart := { s.hart with sregs := t.hart.sregs } } t ∧
      (∀ n, n ≠ s.hart.sys.swb.toNat + d.toNat → sparseGet 0 t.hart.sregs n = sparseGet 0 s.hart.sregs n) ∧
      (d = 0 → t.hart.sregs = s.hart.sregs)
    (scalarOk s.hart d = true → scalarOk s.hart a = true → scalarOk s.hart b = true →
      ∀ i ∈ Sys2Proof.Claim.scalarForms d a b im sf, exec i s = .next t → frame d) ∧
    (scalarOk s.hart (e.zeroExtend 7) = true → ∀ i ∈ [Instr.li e k, Instr.lf e k], exec i s = .next t → frame (e.zeroExtend 7))

/-- R102, R83–R86: each FPS function writes its result to D and its flags to FFLAGS, and nothing else changes but that the
machine goes on to the next word; FRM mode 4 acts as mode 0, and the generator does not move. -/
def Sys2Proof.Claim.FpsResults : Prop :=
  ∀ (d a b : BitVec 7) (s : State),
    scalarOk s.hart d = true → scalarOk s.hart a = true → scalarOk s.hart b = true →
    let m := scalarFrm s
    let A := (scalarVal s.hart a).toNat % 2 ^ 32
    let B := (scalarVal s.hart b).toNat % 2 ^ 32
    let half := (scalarVal s.hart a).toNat % 2 ^ 16
    let gives (r : Word × Flags) : Host.Outcome State Fault Refusal := wroteFlagged s d r.1 r.2
    let nat (r : Nat × Flags) : Word × Flags := (BitVec.ofNat 64 r.1, r.2)
    let int (r : Int × Flags) : Word × Flags := (BitVec.ofInt 64 r.1, r.2)
    let bool (r : Bool × Flags) : Word × Flags := (if r.1 then 1 else 0, r.2)
    exec (.fadd d a b) s = gives (roundedTo fp32 m ((v32 A).add m (v32 B))) ∧
    exec (.fsub d a b) s = gives (roundedTo fp32 m ((v32 A).add m (v32 B).negate)) ∧
    exec (.fmul d a b) s = gives (roundedTo fp32 m ((v32 A).mul (v32 B))) ∧
    exec (.fdiv d a b) s = gives (roundedTo fp32 m ((v32 A).div (v32 B))) ∧
    exec (.fsqrt d a) s = gives (roundedTo fp32 m (v32 A).sqrt) ∧
    exec (.fmin d a b) s = gives (nat (fp32.pick false A B)) ∧
    exec (.fmax d a b) s = gives (nat (fp32.pick true A B)) ∧
    exec (.feq d a b) s = gives (bool (fp32.eqVal A B)) ∧
    exec (.flt d a b) s = gives (bool (fp32.ltVal A B)) ∧
    exec (.fle d a b) s = gives (bool (fp32.leVal A B)) ∧
    exec (.fclass d a) s = gives (nat (classWord A, 0)) ∧
    exec (.fcvtsw d a) s = gives (roundedTo fp32 m (Ex.ofInt ((BitVec.ofNat 32 A).toInt), 0)) ∧
    exec (.fcvtswu d a) s = gives (roundedTo fp32 m (Ex.ofInt A, 0)) ∧
    exec (.fcvtws d a) s = gives (int (toIntClamped m 0 false (-(2 ^ 31)) (2 ^ 31 - 1) (v32 A))) ∧
    exec (.fcvtwus d a) s = gives (int (toIntClamped m 0 false 0 (2 ^ 32 - 1) (v32 A))) ∧
    exec (.fcvths d a) s = gives (roundedTo fp16 m (v32 A, 0)) ∧
    exec (.fcvtsh d a) s = gives (roundedTo fp32 m (fp16.value half, 0)) ∧
    exec (.fcvtbs d a) s = gives (roundedTo bf16 m (v32 A, 0)) ∧
    exec (.fcvtsb d a) s = gives (roundedTo fp32 m (bf16.value half, 0))

/-- R103: the fused functions round ±(A × B) ± C once, with C the old value of D; the flags go to FFLAGS, and nothing else
changes but that the machine goes on to the next word. -/
def Sys2Proof.Claim.FfmaResults : Prop :=
  ∀ (d a b : BitVec 7) (s : State),
    scalarOk s.hart d = true → scalarOk s.hart a = true → scalarOk s.hart b = true →
    let m := scalarFrm s
    let A := v32 ((scalarVal s.hart a).toNat % 2 ^ 32)
    let B := v32 ((scalarVal s.hart b).toNat % 2 ^ 32)
    let C := v32 ((scalarVal s.hart d).toNat % 2 ^ 32)
    let gives (r : Word × Flags) : Host.Outcome State Fault Refusal := wroteFlagged s d r.1 r.2
    exec (.fmadd d a b) s = gives (roundedTo fp32 m (Ex.fma m false false A B C)) ∧
    exec (.fmsub d a b) s = gives (roundedTo fp32 m (Ex.fma m false true A B C)) ∧
    exec (.fnmadd d a b) s = gives (roundedTo fp32 m (Ex.fma m true true A B C)) ∧
    exec (.fnmsub d a b) s = gives (roundedTo fp32 m (Ex.fma m true false A B C))

/-- R102–R104: the results and flags of every scalar floating-point instruction. -/
def Obligations.ScalarFloatResults : Prop :=
  Sys2Proof.Claim.FpsResults ∧ Sys2Proof.Claim.FfmaResults

/-- R99: the result of each scalar load: the bytes at the address, least significant first, extended by the instruction's
sign. The address is aligned and translates without an update of the tables, and no byte is poisoned; a load from the control
window has a statement of its own. -/
def Obligations.LoadResults : Prop :=
  ∀ (d a b : BitVec 7) (o : BitVec 9) (sf : BitVec 1) (s : State),
    scalarOk s.hart d = true → scalarOk s.hart a = true → scalarOk s.hart b = true →
    let A := scalarVal s.hart a
    let B := scalarVal s.hart b
    let off (z : Nat) : Word := A + o.signExtend 64 * BitVec.ofNat 64 z
    let idx (z : Nat) : Word := A + (if sf = 1 then B * BitVec.ofNat 64 z else B)
    let reads (z : Nat) (v : Word) (pa : Nat) : Prop :=
      v.toNat % z = 0 ∧ Reaches .load .scalar s v z pa ∧ isControlWindow pa = false ∧ Clean s pa z
    let signed (n : Nat) (x : Nat) : Word := (BitVec.ofNat n x).signExtend 64
    (∀ pa, reads 1 (off 1) pa → exec (.ldb d a o) s = wroteScalar s d (signed 8 (s.memNat pa 1)) ∧
      exec (.ldbu d a o) s = wroteScalar s d (BitVec.ofNat 64 (s.memNat pa 1))) ∧
    (∀ pa, reads 2 (off 2) pa → exec (.ldh d a o) s = wroteScalar s d (signed 16 (s.memNat pa 2)) ∧
      exec (.ldhu d a o) s = wroteScalar s d (BitVec.ofNat 64 (s.memNat pa 2))) ∧
    (∀ pa, reads 4 (off 4) pa → exec (.ldw d a o) s = wroteScalar s d (signed 32 (s.memNat pa 4)) ∧
      exec (.ldwu d a o) s = wroteScalar s d (BitVec.ofNat 64 (s.memNat pa 4))) ∧
    (∀ pa, reads 8 (off 8) pa → exec (.ldd d a o) s = wroteScalar s d (BitVec.ofNat 64 (s.memNat pa 8))) ∧
    (∀ pa, reads 1 (idx 1) pa → exec (.ldxb d a b sf) s = wroteScalar s d (signed 8 (s.memNat pa 1)) ∧
      exec (.ldxbu d a b sf) s = wroteScalar s d (BitVec.ofNat 64 (s.memNat pa 1))) ∧
    (∀ pa, reads 2 (idx 2) pa → exec (.ldxh d a b sf) s = wroteScalar s d (signed 16 (s.memNat pa 2)) ∧
      exec (.ldxhu d a b sf) s = wroteScalar s d (BitVec.ofNat 64 (s.memNat pa 2))) ∧
    (∀ pa, reads 4 (idx 4) pa → exec (.ldxw d a b sf) s = wroteScalar s d (signed 32 (s.memNat pa 4)) ∧
      exec (.ldxwu d a b sf) s = wroteScalar s d (BitVec.ofNat 64 (s.memNat pa 4))) ∧
    (∀ pa, reads 8 (idx 8) pa → exec (.ldxd d a b sf) s = wroteScalar s d (BitVec.ofNat 64 (s.memNat pa 8)))

/-- R99: a scalar store writes the low bytes of its source, least significant first, at the translated address, and every other
byte keeps its value until the next word is fetched; no register changes. -/
def Obligations.StoreResults : Prop :=
  ∀ (d a b : BitVec 7) (o : BitVec 9) (sf : BitVec 1) (s : State),
    scalarOk s.hart d = true → scalarOk s.hart a = true → scalarOk s.hart b = true → s.hart.unanswered = none →
    let A := scalarVal s.hart a
    let B := scalarVal s.hart b
    let v := (scalarVal s.hart d).toNat
    let off (z : Nat) : Word := A + o.signExtend 64 * BitVec.ofNat 64 z
    let idx (z : Nat) : Word := A + (if sf = 1 then B * BitVec.ofNat 64 z else B)
    let writes (z : Nat) (x : Word) (pa : Nat) : Prop :=
      x.toNat % z = 0 ∧ Reaches .store .scalar s x z pa ∧ isControlWindow pa = false
    let stored (z pa : Nat) (r : Host.Outcome State Fault Refusal) : Prop :=
      r = .next (s.putNat pa z v).passed ∧ (s.putNat pa z v).memNat pa z = v % 2 ^ (8 * z) ∧
      (∀ x, x < pa ∨ pa + z ≤ x → (s.putNat pa z v).byteAt x = s.byteAt x) ∧
      (s.putNat pa z v).hart = s.hart
    (∀ pa, writes 1 (off 1) pa → stored 1 pa (exec (.stb d a o) s)) ∧
    (∀ pa, writes 2 (off 2) pa → stored 2 pa (exec (.sth d a o) s)) ∧
    (∀ pa, writes 4 (off 4) pa → stored 4 pa (exec (.stw d a o) s)) ∧
    (∀ pa, writes 8 (off 8) pa → stored 8 pa (exec (.std d a o) s)) ∧
    (∀ pa, writes 1 (idx 1) pa → stored 1 pa (exec (.stxb d a b sf) s)) ∧
    (∀ pa, writes 2 (idx 2) pa → stored 2 pa (exec (.stxh d a b sf) s)) ∧
    (∀ pa, writes 4 (idx 4) pa → stored 4 pa (exec (.stxw d a b sf) s)) ∧
    (∀ pa, writes 8 (idx 8) pa → stored 8 pa (exec (.stxd d a b sf) s))

/-- R100: a scalar access whose address is no multiple of its size traps ALIGN with the address as XVAL, before translation, and
nothing is read or written. R316, R317: with translation off an aligned one traps PROT below privilege 2, and at privilege 2 XLATE at or
above 2^52. That below privilege 2 PROT stands for every address is the model's reading: log 44. -/
def Sys2Proof.Claim.ScalarAlignTrap : Prop :=
  ∀ (d a b : BitVec 7) (o : BitVec 9) (sf : BitVec 1) (s : State),
    scalarOk s.hart d = true → scalarOk s.hart a = true →
    let at' (z : Nat) : Word := scalarVal s.hart a + o.signExtend 64 * BitVec.ofNat 64 z
    let idx (z : Nat) : Word :=
      scalarVal s.hart a + (if sf = 1 then scalarVal s.hart b * BitVec.ofNat 64 z else scalarVal s.hart b)
    let traps (z : Nat) (i : Instr) : Prop :=
      (at' z).toNat % z ≠ 0 → exec i s = .next (takeTrap false .align (at' z) s)
    let trapsX (z : Nat) (i : Instr) : Prop := scalarOk s.hart b = true →
      (idx z).toNat % z ≠ 0 → exec i s = .next (takeTrap false .align (idx z) s)
    traps 2 (.ldh d a o) ∧ traps 2 (.ldhu d a o) ∧ traps 4 (.ldw d a o) ∧ traps 4 (.ldwu d a o) ∧ traps 8 (.ldd d a o) ∧
    traps 2 (.sth d a o) ∧ traps 4 (.stw d a o) ∧ traps 8 (.std d a o) ∧
    trapsX 2 (.ldxh d a b sf) ∧ trapsX 2 (.ldxhu d a b sf) ∧ trapsX 4 (.ldxw d a b sf) ∧ trapsX 4 (.ldxwu d a b sf) ∧
    trapsX 8 (.ldxd d a b sf) ∧ trapsX 2 (.stxh d a b sf) ∧ trapsX 4 (.stxw d a b sf) ∧ trapsX 8 (.stxd d a b sf) ∧
    ((at' 8).toNat % 8 = 0 → s.myDie.ptEn = 0 → s.hart.trap.priv ≠ 2 →
      exec (.ldd d a o) s = .next (takeTrap false .prot (at' 8) s) ∧
      exec (.std d a o) s = .next (takeTrap false .prot (at' 8) s)) ∧
    ((at' 8).toNat % 8 = 0 → s.myDie.ptEn = 0 → s.hart.trap.priv = 2 → 2 ^ 52 ≤ (at' 8).toNat →
      exec (.ldd d a o) s = .next (takeTrap false .xlate (at' 8) s) ∧
      exec (.std d a o) s = .next (takeTrap false .xlate (at' 8) s))

/-- R31, R100, R316, R317: a scalar operand outside its window raises WINF, a misaligned address ALIGN, and an address that does not
translate with translation off PROT or XLATE, each with its XVAL, and nothing else is done. Which of two bad names is reported, and PROT
before XLATE, are the model's readings: logs 26 and 44. -/
def Obligations.ScalarOperandTraps : Prop :=
  Sys2Proof.Claim.ScalarWindowTrap ∧ Sys2Proof.Claim.ScalarAlignTrap

/-- R107–R109: the transfers. A taken one runs the words at NA and NB first, then its target; a branch that is not taken goes
on, and with the annul bit it annuls the words at NA and NB; RET takes the newest entry of the return store. Nothing else
changes but what fetching changes. -/
def Sys2Proof.Claim.TransferResults : Prop :=
  ∀ (a : BitVec 7) (c : BitVec 3) (n : BitVec 1) (im : BitVec 15) (far : BitVec 26) (s : State),
    scalarOk s.hart a = true →
    let A := scalarVal s.hart a
    let holds : Prop := (c = 0 ∧ A = 0) ∨ (c = 1 ∧ A ≠ 0) ∨ (c = 2 ∧ A.toInt < 0) ∨ (c = 3 ∧ 0 ≤ A.toInt) ∨
      (c = 4 ∧ A.toInt ≤ 0) ∨ (c = 5 ∧ 0 < A.toInt)
    let f := s.hart.fetch
    let go (t : Word) (h : Hart) : Host.Outcome State Fault Refusal :=
      .next { s with hart := { h with fetch := ⟨f.na, f.nb, t, f.ana, false, false, false, false⟩ } }
    (holds → exec (.br a c n im) s = go (f.pc + 4 * im.signExtend 64) s.hart) ∧
    (¬holds → n = 0 → exec (.br a c n im) s = .next s.passed) ∧
    (¬holds → n = 1 → exec (.br a c n im) s = .next (s.after .annul)) ∧
    (s.after .annul).hart.fetch.apc = true ∧ (s.after .annul).hart.fetch.ana = true ∧
    exec (.jmp far) s = go (f.pc + 4 * far.signExtend 64) s.hart ∧
    (A.toNat % 4 = 0 → exec (.jr a) s = go A s.hart) ∧
    (A.toNat % 4 ≠ 0 → exec (.jr a) s = .next (takeTrap false .align A s)) ∧
    (∀ r rest, s.hart.ras = r :: rest → r.gate = false → r.ret.toNat % 4 = 0 →
      exec .ret s = go r.ret { s.hart with ras := rest }) ∧
    (∀ r rest, s.hart.ras = r :: rest → r.gate = true → exec .ret s = .next (takeTrap false .gate r.ret s)) ∧
    (∀ r k, s.hart.ras = [] → s.hart.sys.rascnt ≠ 0 → r.toNat % 4 = 0 → k.getLsbD 0 = false →
      (rdWords s.hart.trap.priv.toNat (frameAddr s.hart (s.hart.sys.rascnt - 1)) 2).exec s = (.ok [r, k], s) →
      exec .ret s = go r { s.hart with sys := { s.hart.sys with rascnt := s.hart.sys.rascnt - 1 } }) ∧
    (s.hart.ras = [] → s.hart.sys.rascnt = 0 → exec .ret s = .next (takeTrap false .rse 0 s))

/-- R108, R109, R36, R37: a call pushes a plain frame whose return address is the successor of NB, and jumps with two delay
slots; with the store full of frames whose oldest is a gate frame it traps GATE, and nothing changes. -/
def Sys2Proof.Claim.CallResults : Prop :=
  ∀ (a : BitVec 7) (far : BitVec 26) (r : Word) (s : State),
    scalarOk s.hart a = true → (succ s.hart.fetch.nb).exec s = (.ok r, s) →
    let A := scalarVal s.hart a
    let f := s.hart.fetch
    let go (t : Word) : Host.Outcome State Fault Refusal :=
      .next { s with hart := { s.hart with
        ras := ⟨r, false, 0, 0⟩ :: s.hart.ras, fetch := ⟨f.na, f.nb, t, f.ana, false, false, false, false⟩ } }
    (s.hart.ras.length < 16 → exec (.call far) s = go (f.pc + 4 * far.signExtend 64)) ∧
    (s.hart.ras.length < 16 → A.toNat % 4 = 0 → exec (.callr a) s = go A) ∧
    (∀ g fs u, s.hart.ras = fs ++ [g] → fs.length = 15 → g.gate = false →
      (wrWords s.hart.trap.priv.toNat (s.hart.sys.rasspill + 16 * s.hart.sys.rascnt.zeroExtend 64) [g.ret, 0]).exec s =
        (.ok (), u) →
      exec (.call far) s = .next { u with hart := { u.hart with
        ras := ⟨r, false, 0, 0⟩ :: fs
        sys := { u.hart.sys with rascnt := s.hart.sys.rascnt + 1 }
        fetch := ⟨f.na, f.nb, f.pc + 4 * far.signExtend 64, f.ana, false, false, false, false⟩ } }) ∧
    (∀ g fs, s.hart.ras = fs ++ [g] → fs.length = 15 → g.gate = true →
      exec (.call far) s = .next (takeTrap false .gate g.ret s))

/-- R107–R109: branches, jumps, calls and returns. -/
def Obligations.TransferResults : Prop :=
  Sys2Proof.Claim.TransferResults ∧ Sys2Proof.Claim.CallResults

/-- R111–R113: GCALL enters a gate: a gate frame with the privilege and MASKMODE of the caller is pushed, PC, NA and NB follow
the target, and the privilege and MASKMODE become the gate's; GRET undoes it. Neither has a delay slot. -/
def Obligations.GateResults : Prop :=
  ∀ (n : BitVec 10) (g : Gate) (na nb : Word) (s : State),
    let f := s.hart.fetch
    (n.toNat < s.hart.trap.gatecnt.toNat → (readGate n).exec s = (.ok g, s) → g.v = true → g.priv.toNat ≤ 2 →
      s.hart.trap.priv.toNat ≤ g.priv.toNat → g.target.toNat % 4 = 0 → s.hart.ras.length < 16 →
      (succAt g.priv.toNat g.target).exec s = (.ok na, s) → (succAt g.priv.toNat na).exec s = (.ok nb, s) →
      exec (.gcall n) s = .next { s with hart := { s.hart with
        ras := ⟨f.na, true, s.hart.trap.priv, s.hart.cfg.maskmode⟩ :: s.hart.ras
        trap := { s.hart.trap with priv := g.priv }
        cfg := { s.hart.cfg with maskmode := g.mm }
        fetch := ⟨g.target, na, nb, false, false, false, false, false⟩ } }) ∧
    (s.hart.trap.gatecnt.toNat ≤ n.toNat → exec (.gcall n) s = .next (takeTrap false .gate (n.zeroExtend 64) s)) ∧
    (∀ r p mm rest, s.hart.ras = ⟨r, true, p, mm⟩ :: rest → p.toNat ≤ s.hart.trap.priv.toNat →
      (succAt p.toNat r).exec s = (.ok na, s) → (succAt p.toNat na).exec s = (.ok nb, s) →
      exec .gret s = .next { s with hart := { s.hart with
        ras := rest
        trap := { s.hart.trap with priv := p }
        cfg := { s.hart.cfg with maskmode := mm }
        fetch := ⟨r, na, nb, false, false, false, false, false⟩ } }) ∧
    (∀ r p mm rest, s.hart.ras = ⟨r, false, p, mm⟩ :: rest → exec .gret s = .next (takeTrap false .gate r s))

/-- What taking a trap or an interrupt in s leaves in t besides the saved entries and the return to them (R45, R125). -/
def Sys2Proof.Machine.Entered (v : Bool) (c : Cause) (x : Word) (s t : State) : Prop :=
  let r := t.hart.trap
  let f := s.hart.fetch
  r.xpc = f.pc &&& ~~~3 ∧ r.xna = f.na &&& ~~~3 ∧ r.xnb = f.nb &&& ~~~3 ∧
  r.xflags.getLsbD 0 = f.apc ∧ r.xflags.getLsbD 1 = f.ana ∧ r.xflags.getLsbD 2 = (f.nbf || f.naf) ∧
  r.xflags.getLsbD 3 = f.naf ∧
  r.cause = (if v then 1#1 else 0#1) ++ c.code ∧ r.xval = x ∧
  r.ppriv = s.hart.trap.priv ∧ r.pie = s.hart.trap.ie ∧ r.priv = 2 ∧ r.ie = 0 ∧
  t.hart.fetch.pc = s.hart.trap.tvec ∧ t.hart.fetch.apc = false ∧ t.hart.fetch.ana = false ∧
  t.hart.ras = s.hart.ras ∧ t.hart.sys.rascnt = s.hart.sys.rascnt ∧
  t.hart.cfg.maskmode = s.hart.cfg.maskmode ∧ t.hart.sregs = s.hart.sregs ∧ t.hart.kbank = s.hart.kbank ∧
  t.hart.vec = s.hart.vec ∧ t.hart.vq = []

/-- R45, R122, R125, R414: what taking a trap leaves when the vector queue is empty: XPC, XNA, XNB and XFLAGS hold the interrupted
sequence, CAUSE the code with V, XVAL the value; PPRIV and PIE hold the old privilege and interrupt enable, the privilege is
2 with interrupts off, PC is TVEC with no annul bits, NA and NB are formed from it at privilege 2, and the return store, RASCNT, MASKMODE
and the scalars are unchanged.
What XNA and XNB hold where XFLAGS says that NA or NB is not formed is the model's choice: log 101. -/
def Sys2Proof.Claim.TrapRegisters : Prop :=
  ∀ (v : Bool) (c : Cause) (x : Word) (s : State), s.hart.vq = [] →
    let t := takeTrap v c x s
    let tvec := s.hart.trap.tvec
    let entering (na : Word) (naf : Bool) : State := { s with
      quads := t.quads
      hart := { s.hart with
        phase := .running
        trap := t.hart.trap
        fetch := ⟨tvec, na, 0, false, false, true, naf, false⟩ } }
    Entered v c x s t ∧ savedCount t = 0 ∧ saveArea t = saveArea s ∧
    (∀ na nb, (succAt 2 tvec).exec (entering 0 true) = (.ok na, entering 0 true) →
      (succAt 2 na).exec (entering na false) = (.ok nb, entering na false) →
      t.hart.fetch = ⟨tvec, na, nb, false, false, false, false, false⟩ ∧ t.hart.phase = .running)

/-- R45, R47: taking a trap with entries in the vector queue writes them, in queue order, to the area at XVQ, sets COUNT to their
number, leaves the queue empty and ESTART at the element that the oldest one has reached where it has begun; the handler is entered as
with an empty queue. Memory outside the area is unchanged (a hart that cannot enter its handler logs that, R52). -/
def Sys2Proof.Claim.TrapSavesEntries : Prop :=
  ∀ (v : Bool) (c : Cause) (x : Word) (e : Entry) (es : List Entry) (s : State), s.hart.vq = e :: es →
    s.hart.unanswered = none → SaveRoom s (es.length + 1) →
    let t := takeTrap v c x s
    Entered v c x s t ∧ savedCount t = es.length + 1 ∧ saveArea t = saveArea s ∧
    t.hart.cfg = { s.hart.cfg with estart := if e.begun then e.cfg.estart else s.hart.cfg.estart } ∧
    (t.hart.phase = .running → HoldsEntries t (saveArea s) (e :: es) ∧
      ∀ a, a < saveArea s ∨ saveArea s + 64 * (es.length + 1) ≤ a → t.byteAt a = s.byteAt a)

/-- R45, R47, R122, R125, R414: what taking a trap leaves. -/
def Obligations.TrapEntry : Prop :=
  Sys2Proof.Claim.TrapRegisters ∧ Sys2Proof.Claim.TrapSavesEntries

/-- R116: TRAP completes and then enters the handler: the trap is taken in the state after TRAP's own step, with cause 0x10 and XVAL
its code; XPC, XNA and XNB hold that state's queued addresses, and ERET resumes there.
What XNB holds where the new NB could not be formed is the model's choice: log 101. -/
def Obligations.TrapInstruction : Prop :=
  ∀ (c : BitVec 7) (s : State),
    let after := s.passed
    let t := takeTrap false .trap (c.zeroExtend 64) after
    let f := after.hart.fetch
    exec (.trap c) s = .next t ∧
    (s.hart.vq = [] →
      t.hart.trap.cause = 0x010 ∧ t.hart.trap.xval = c.zeroExtend 64 ∧ t.hart.fetch.pc = s.hart.trap.tvec ∧ t.hart.trap.priv = 2 ∧
      t.hart.trap.xpc = f.pc &&& ~~~3 ∧ t.hart.trap.xna = f.na &&& ~~~3 ∧ t.hart.trap.xnb = f.nb &&& ~~~3 ∧
      (f.pc.toNat % 4 = 0 → f.na.toNat % 4 = 0 → f.nb.toNat % 4 = 0 → f.nbf = false → f.naf = false →
        ∃ u, exec .eret t = .next u ∧ u.hart.fetch = f))

/-- R126, R48: ERET with no saved vector entry restores the privilege and the interrupt enable and resumes the saved sequence: PC,
NA and NB are XPC, XNA and XNB, with the annul bits of XFLAGS; below privilege 2 it traps PRIV with its own word as XVAL. -/
def Sys2Proof.Claim.EretResults : Prop :=
  ∀ s : State,
    (s.hart.trap.priv = 2 → s.hart.vq = [] → bitsOf s.hart.trap.xvq.toNat 63 58 = 0 →
      s.hart.trap.xflags.getLsbD 2 = false → s.hart.trap.xflags.getLsbD 3 = false →
      exec .eret s = .next { s with hart := { s.hart with
        trap := { s.hart.trap with
          priv := s.hart.trap.ppriv
          ie := s.hart.trap.pie
          xvq := BitVec.ofNat 64 (bitsOf s.hart.trap.xvq.toNat 51 5 * 32) }
        fetch := ⟨s.hart.trap.xpc, s.hart.trap.xna, s.hart.trap.xnb, s.hart.trap.xflags.getLsbD 0,
          s.hart.trap.xflags.getLsbD 1, false, false, false⟩ } }) ∧
    (s.hart.trap.priv ≠ 2 → exec .eret s = .next (takeTrap false .priv ((encEret).toWord.zeroExtend 64) s))

/-- R126: trap entry followed by ERET, with the saved registers untouched, resumes the interrupted sequence exactly: privilege,
interrupt enable, PC, NA, NB and the annul bits are those before the trap. -/
def Sys2Proof.Claim.TrapThenEret : Prop :=
  ∀ (v : Bool) (c : Cause) (x : Word) (s : State), s.hart.vq = [] →
    s.hart.fetch.pc.toNat % 4 = 0 → s.hart.fetch.na.toNat % 4 = 0 → s.hart.fetch.nb.toNat % 4 = 0 →
    s.hart.fetch.nbf = false → s.hart.fetch.naf = false → s.hart.fetch.waiting = false →
    ∃ u, exec .eret (takeTrap v c x s) = .next u ∧
    u.hart.fetch = s.hart.fetch ∧ u.hart.trap.priv = s.hart.trap.priv ∧ u.hart.trap.ie = s.hart.trap.ie ∧
    u.hart.vq = [] ∧ u.hart.sregs = s.hart.sregs ∧ u.hart.ras = s.hart.ras

/-- R48, R126: ERET with saved entries, each of them a legal vector-side word that the privilege to be restored may run, appends them
to the vector queue in order, with their captured values, sets COUNT to 0 and resumes the saved sequence; it changes nothing else.
The address that an entry's instruction has, which no slot holds, is a free value: log 12. -/
def Sys2Proof.Claim.EretRequeues : Prop :=
  ∀ (es : List Entry) (s : State), s.hart.trap.priv = 2 → s.hart.vq = [] → s.hart.unanswered = none →
    savedCount s = es.length → SaveRoom s es.length → Clean s (saveArea s) (64 * es.length) →
    HoldsEntries s (saveArea s) es →
    (∀ e ∈ es, isVectorWord e.word = true ∧ 1 ≤ e.cfg.rcN ∧ e.cfg.rcN ≤ 32 ∧
      (isPrivilegedVectorWord e.word = true → s.hart.trap.ppriv = 2)) →
    s.hart.trap.xflags.getLsbD 2 = false → s.hart.trap.xflags.getLsbD 3 = false →
    ∃ (pcs : List Word) (n : Nat), pcs.length = es.length ∧ exec .eret s = .next { s with
      freeCount := n
      hart := { s.hart with
        vq := List.zipWith (fun e pc => { e with pc := pc, begun := false }) es pcs
        trap := { s.hart.trap with
          priv := s.hart.trap.ppriv
          ie := s.hart.trap.pie
          xvq := BitVec.ofNat 64 (saveArea s) }
        fetch := ⟨s.hart.trap.xpc, s.hart.trap.xna, s.hart.trap.xnb, s.hart.trap.xflags.getLsbD 0,
          s.hart.trap.xflags.getLsbD 1, false, false, false⟩ } }

/-- R48, R126: what ERET restores, and that a trap followed by ERET comes back. -/
def Obligations.EretResults : Prop :=
  Sys2Proof.Claim.EretResults ∧ Sys2Proof.Claim.TrapThenEret ∧ Sys2Proof.Claim.EretRequeues

/-- R59, R60, R40: below privilege 2 the privileged encodings raise PRIV with the instruction word as XVAL and have no other
effect: ERET, WAITI, HALT, TLBINV, VMTO, and MFS and MTS of the registers from 0x100 on. -/
def Obligations.PrivilegeTraps : Prop :=
  ∀ (d a b : BitVec 7) (n : BitVec 12) (s : State), s.hart.trap.priv ≠ 2 →
    let traps (w : RWord) (i : Instr) : Prop := exec i s = .next (takeTrap false .priv (w.toWord.zeroExtend 64) s)
    traps encEret .eret ∧ traps encWaiti .waiti ∧ traps encHalt .halt ∧
    traps (encTlbinv a b) (.tlbinv a b) ∧ traps (encVmto a b) (.vmto a b) ∧
    (0x100 ≤ n.toNat → traps (encMfs d n) (.mfs d n) ∧ traps (encMts a n) (.mts a n))

/-- R104, R40–R43: MFS reads the register its number names and goes on; a number that no map defines raises ILL. The registers
whose read waits for the vector stream are read with the queue empty (R30). The words of the identity registers, the vector configuration
and STATUS are those of R41–R43, their reserved bits zero. -/
def Sys2Proof.Claim.MfsResults : Prop :=
  ∀ (d : BitVec 7) (n : BitVec 12) (s : State), scalarOk s.hart d = true →
    (n.toNat < 0x100 ∨ s.hart.trap.priv = 2) →
    (isRegister n.toNat = true → s.hart.vq = [] → exec (.mfs d n) s = wroteScalar s d (readReg s n.toNat)) ∧
    (isRegister n.toNat = false →
      exec (.mfs d n) s = .next (takeTrap false .ill ((encMfs d n).toWord.zeroExtend 64) s)) ∧
    readReg s 0x031 = s.hart.sys.fflags.zeroExtend 64 ∧ readReg s 0x101 = s.hart.trap.xpc ∧
    readReg s 0x106 = s.hart.trap.xval ∧ readReg s 0x112 = s.hart.trap.tcmpEn ++ s.hart.trap.tcmpTime ∧
    (let c := s.hart.cfg
     let y := s.hart.sys
     let t := s.hart.trap
     let held := ((List.range 8).filter fun i => y.laneMap.getLsbD i).length
     ∀ r ∈ [(0x000, s.id % 4), (0x001, s.id / 4 % 48), (0x002, s.id / 16 % 12), (0x003, s.id / 192 % 4), (0x004, s.id / 768),
        (0x008, 0x0100), (0x010, c.vl.toNat), (0x011, c.rc.toNat), (0x012, c.etype.toNat), (0x013, c.psel.toNat), (0x014, c.gsel.toNat),
        (0x015, c.vwb.toNat), (0x016, y.swb.toNat), (0x017, y.kbase.toNat), (0x018, c.estart.toNat), (0x019, c.mmode.toNat),
        (0x01A, y.laneMap.toNat + 2 ^ 8 * held + 2 ^ 12 * y.laneMin.toNat + 2 ^ 16 * y.lanePref.toNat),
        (0x01B, y.rowsN.toNat + 2 ^ 8 * y.window.toNat + 2 ^ 16 * y.tilesN.toNat), (0x01C, c.maskmode.toNat),
        (0x100, t.priv.toNat + 2 ^ 2 * t.ie.toNat + 2 ^ 3 * c.maskmode.toNat + 2 ^ 5 * t.ppriv.toNat + 2 ^ 7 * t.pie.toNat)],
      readReg s r.1 = BitVec.ofNat 64 r.2)

/-- R104, R40–R43, R46, R47, R78, R79, R110, R111, R122, R123, R316: MTS writes the register its number names, and goes on: a value in
range is taken, with the reserved bits as zero, one outside it raises ILL and changes nothing, a read-only register raises ILL. -/
def Sys2Proof.Claim.MtsResults : Prop :=
  ∀ (a : BitVec 7) (s : State), scalarOk s.hart a = true → s.hart.vq = [] → s.hart.trap.priv = 2 →
    let A := scalarVal s.hart a
    let wrote (n : BitVec 12) (h : Hart) : Prop := exec (.mts a n) s = .next (State.passed { s with hart := h })
    let ill (n : BitVec 12) : Prop := exec (.mts a n) s = .next (takeTrap false .ill ((encMts a n).toWord.zeroExtend 64) s)
    let cfg (c : VConf) : Hart := { s.hart with cfg := c }
    let trp (t : TrapRegs) : Hart := { s.hart with trap := t }
    let sys (y : SysRegs) : Hart := { s.hart with sys := y }
    let low (h l : Nat) : Word := BitVec.ofNat 64 (A.toNat % 2 ^ (h + 1) / 2 ^ l * 2 ^ l)
    let x := A.toNat
    (x < 12 → wrote 0x012 (cfg { s.hart.cfg with
      etype := BitVec.ofNat 4 x, vl := BitVec.ofNat 14 (Nat.min s.hart.cfg.vlN (vlmax x)) })) ∧
    (12 ≤ x → ill 0x012) ∧
    (x < 16 → wrote 0x014 (cfg { s.hart.cfg with gsel := BitVec.ofNat 4 x })) ∧ (16 ≤ x → ill 0x014) ∧
    (x ≤ 127 → wrote 0x015 (cfg { s.hart.cfg with vwb := BitVec.ofNat 7 (x / 8 * 8) })) ∧ (127 < x → ill 0x015) ∧
    (x ≤ 255 → wrote 0x016 (sys { s.hart.sys with swb := BitVec.ofNat 8 (x / 8 * 8) })) ∧ (255 < x → ill 0x016) ∧
    (x ≤ 511 → wrote 0x017 (sys { s.hart.sys with kbase := BitVec.ofNat 9 (x / 8 * 8) })) ∧ (511 < x → ill 0x017) ∧
    (x < 2 ^ 18 → wrote 0x018 (cfg { s.hart.cfg with estart := BitVec.ofNat 18 x })) ∧ (2 ^ 18 ≤ x → ill 0x018) ∧
    (x ≤ 3 → wrote 0x019 (cfg { s.hart.cfg with mmode := BitVec.ofNat 2 x })) ∧ (3 < x → ill 0x019) ∧
    (x ≤ 1 → wrote 0x01C (cfg { s.hart.cfg with maskmode := BitVec.ofNat 1 x })) ∧ (1 < x → ill 0x01C) ∧
    wrote 0x032 (sys { s.hart.sys with
      srseed := if A.extractLsb' 0 32 = 0 then 1 else A.extractLsb' 0 32, reseed := true }) ∧
    wrote 0x040 (sys { s.hart.sys with rascnt := A.extractLsb' 0 32 }) ∧
    wrote 0x041 (sys { s.hart.sys with rasspill := low 51 4 }) ∧
    (A.extractLsb' 0 2 ≠ 3 → A.extractLsb' 5 2 ≠ 3 → wrote 0x100 { s.hart with
      trap := { s.hart.trap with
        priv := A.extractLsb' 0 2, ie := A.extractLsb' 2 1, ppriv := A.extractLsb' 5 2, pie := A.extractLsb' 7 1 }
      cfg := { s.hart.cfg with maskmode := A.extractLsb' 3 1 } }) ∧
    (A.extractLsb' 0 2 = 3 ∨ A.extractLsb' 5 2 = 3 → ill 0x100) ∧
    wrote 0x102 (trp { s.hart.trap with xna := low 63 2 }) ∧
    wrote 0x103 (trp { s.hart.trap with xnb := low 63 2 }) ∧
    wrote 0x104 (trp { s.hart.trap with xflags := A.extractLsb' 0 4 }) ∧
    (∀ c : Cause, c.code = A.extractLsb' 0 8 → wrote 0x105 (trp { s.hart.trap with cause := A.extractLsb' 0 9 })) ∧
    ((∀ c : Cause, c.code ≠ A.extractLsb' 0 8) → ill 0x105) ∧
    (x / 2 ^ 58 ≤ 32 → wrote 0x107 (trp { s.hart.trap with xvq := BitVec.ofNat 64 (x / 2 ^ 58 * 2 ^ 58) ||| low 51 5 })) ∧
    (32 < x / 2 ^ 58 → ill 0x107) ∧
    wrote 0x109 (trp { s.hart.trap with gatebase := low 51 4 }) ∧
    (x % 2 ^ 11 ≤ 1024 → wrote 0x10A (trp { s.hart.trap with gatecnt := A.extractLsb' 0 11 })) ∧
    (1024 < x % 2 ^ 11 → ill 0x10A) ∧
    wrote 0x10B (trp { s.hart.trap with savearea := low 51 8 }) ∧
    wrote 0x112 (trp { s.hart.trap with tcmpTime := A.extractLsb' 0 63, tcmpEn := A.extractLsb' 63 1 }) ∧
    exec (.mts a 0x120) s = .next (State.passed (s.setDie (dieOf s.id)
      { s.myDie with ptEn := A.extractLsb' 0 1, ptRoot := A.extractLsb' 16 36 })) ∧
    wrote 0x010 (cfg { s.hart.cfg with vl := BitVec.ofNat 14 (Nat.min A.toNat (vlmax s.hart.cfg.et)) }) ∧
    (1 ≤ A.toNat → A.toNat ≤ 32 → wrote 0x011 (cfg { s.hart.cfg with rc := BitVec.ofNat 6 A.toNat })) ∧
    (A.toNat < 1 ∨ 32 < A.toNat → ill 0x011) ∧
    (A.toNat < 24 → wrote 0x013 (cfg { s.hart.cfg with psel := BitVec.ofNat 5 A.toNat })) ∧
    (24 ≤ A.toNat → ill 0x013) ∧
    (A.toNat % 8 < 5 → wrote 0x030 (cfg { s.hart.cfg with frm := BitVec.ofNat 3 A.toNat })) ∧
    (5 ≤ A.toNat % 8 → ill 0x030) ∧
    wrote 0x031 { s.hart with sys := { s.hart.sys with fflags := BitVec.ofNat 6 A.toNat } } ∧
    wrote 0x101 (trp { s.hart.trap with xpc := BitVec.ofNat 64 (A.toNat / 4 * 4) }) ∧
    wrote 0x106 (trp { s.hart.trap with xval := A }) ∧
    wrote 0x108 (trp { s.hart.trap with tvec := BitVec.ofNat 64 (A.toNat / 4 * 4) }) ∧
    wrote 0x110 (trp { s.hart.trap with ipend := s.hart.trap.ipend &&& ~~~(A.extractLsb' 0 4) }) ∧
    wrote 0x111 (trp { s.hart.trap with imask := A.extractLsb' 0 4 }) ∧
    ill 0x000 ∧ ill 0x01A ∧ ill 0x020 ∧ ill 0x050 ∧ ill 0x131 ∧ ill 0x138 ∧ ill 0x161

/-- R40–R43, R104, R122, R413: reads and writes of special registers. -/
def Obligations.SpecialRegisterResults : Prop :=
  Sys2Proof.Claim.MfsResults ∧ Sys2Proof.Claim.MtsResults

/-- R117–R121: WIN moves both window bases at once, FENCE goes on once nothing that it waits for is outstanding, TLBINV drops the
entries its control names, HALT stops the hart once its queue is empty, WAITI goes on when an enabled interrupt is pending and
waits while none is, and QSEND, QRECV and QSTAT work on the queue registers; a full or empty queue makes them wait. -/
def Obligations.SystemResults : Prop :=
  ∀ (d a b q : BitVec 7) (sf : BitVec 3) (k : BitVec 4) (s : State), scalarOk s.hart d = true → scalarOk s.hart a = true →
    scalarOk s.hart b = true →
    let A := scalarVal s.hart a
    let B := scalarVal s.hart b
    let Q := sparseGet [] s.hart.queues q.toNat
    let sent (xs : List Word) : Hart := { s.hart with queues := sparsePut [] s.hart.queues q.toNat xs }
    exec (.win a b) s = .next (State.passed { s with hart := { s.hart with
      sys := { s.hart.sys with swb := BitVec.ofNat 8 (A.toNat % 256 / 8 * 8) }
      cfg := { s.hart.cfg with vwb := BitVec.ofNat 7 (B.toNat % 128 / 8 * 8) } } }) ∧
    (s.hart.vq = [] → accessesPending s = false → exec (.fence sf k) s = .next s.passed) ∧
    (s.hart.vq ≠ [] ∨ accessesPending s = true → k &&& 0xE ≠ 0 → exec (.fence sf k) s = .next { s with parked := true }) ∧
    (s.hart.trap.priv = 2 → B.toNat < 3 → exec (.tlbinv a b) s = .next (State.passed (s.setDie (dieOf s.id)
      { s.myDie with tlb := s.myDie.tlb.filter fun t => !tlbDropped B.toNat A.toNat t }))) ∧
    (s.hart.trap.priv = 2 → s.hart.vq = [] →
      exec .halt s = .next (State.passed { s with hart := { s.hart with phase := .halted } })) ∧
    (s.hart.trap.priv = 2 → s.hart.trap.ipend &&& s.hart.trap.imask ≠ 0 → exec .waiti s = .next s.passed) ∧
    (s.hart.trap.priv = 2 → s.hart.trap.ipend &&& s.hart.trap.imask = 0 → exec .waiti s = .next { s with
      parked := true, hart := { s.hart with fetch := { s.hart.fetch with waiting := true } } }) ∧
    (Q.length < 8 → exec (.qsend q a) s = .next (State.passed { s with hart := sent (Q ++ [A]) })) ∧
    (8 ≤ Q.length → exec (.qsend q a) s = .next { s with parked := true }) ∧
    (∀ x xs, Q = x :: xs → exec (.qrecv d q) s = .next (State.passed { s with hart := setScalar (sent xs) d x })) ∧
    (Q = [] → exec (.qrecv d q) s = .next { s with parked := true }) ∧
    exec (.qstat d q) s = wroteScalar s d (BitVec.ofNat 64 Q.length)

namespace Sys2Proof.Machine

/-- An element as an integer, by the sign of the element type (R135). -/
def signedBy (et x : Nat) : Int :=
  if et = 0 ∨ et = 2 ∨ et = 3 then (BitVec.ofNat (widthOf et) x).toInt else (x : Int)

/-- An integer taken to w bits. -/
def takeBits (w : Nat) (x : Int) : Nat := (BitVec.ofInt w x).toNat

/-- `opb` at position j (R18): a tile element, or the captured scalar, the immediate or the literal converted to ETYPE. -/
def bElem (s : State) (b : VSrc) (j : Nat) : Nat :=
  let c := s.hart.cfg
  let conv (x : Nat) : Nat :=
    if c.et < 5 then x % 2 ^ c.width
    else if c.et = 5 then x % 2 ^ 32
    else ((fmtOf c.et).rnd c.frm.toNat 0 false (v32 (x % 2 ^ 32))).1
  match b with
  | .vv n => elemOf s n c.width j
  | .vs n => conv (scalarVal s.hart n).toNat
  | .vi i => immPattern c.et i
  | .vl lit => conv lit.toNat

/-- The flags of converting a captured scalar or a literal to FP16 or BF16, which is done once, where some position is active (R18). -/
def bFlags (s : State) (b : VSrc) (m : BitVec 1) : Flags :=
  let c := s.hart.cfg
  let conv (x : Nat) : Flags :=
    if (c.et = 6 ∨ c.et = 7) ∧ (List.range c.count).any (activeAt s m) then
      ((fmtOf c.et).rnd c.frm.toNat 0 false (v32 (x % 2 ^ 32))).2
    else 0
  match b with
  | .vv _ => 0
  | .vs n => conv (scalarVal s.hart n).toNat
  | .vi _ => 0
  | .vl lit => conv lit.toNat

/-- Every active element of the tile d is f of the elements of a, b and d; the instruction retires in one step, and its active positions
raise the flags that `g` gives for the elements of a and b. -/
def Elementwise (s : State) (d a : BitVec 7) (b : VSrc) (m : BitVec 1) (i : Instr) (f : Nat → Nat → Nat → Nat)
    (g : Nat → Nat → Flags := fun _ _ => 0) : Prop :=
  let w := s.hart.cfg.width
  WroteTile s d w (fun j => if activeAt s m j then some (f (elemOf s a w j) (bElem s b j) (elemOf s d w j)) else none)
    (exec i s) (flagsOver s.hart.cfg.count (activeAt s m) fun j => g (elemOf s a w j) (bElem s b j))

/-- The same for a floating-point instruction, whose f gives a result with its flags: under FRM 4 the results and the flags depend on the
generator, and only the frame is stated. -/
def FpElementwise (s : State) (d a : BitVec 7) (b : VSrc) (m : BitVec 1) (i : Instr) (f : Nat → Nat → Nat → Rounded) : Prop :=
  let w := s.hart.cfg.width
  let r (j : Nat) : Rounded := f (elemOf s a w j) (bElem s b j) (elemOf s d w j)
  let out := fun j => if activeAt s m j then some (r j).1 else none
  ∃ t fl, exec i s = .next t ∧ OnlyRows (tileRows s d s.hart.cfg.rcN) s t fl ∧ RowMarks s t d w out ∧
    (s.hart.cfg.frm ≠ 4 → TileIs s t d w out ∧
      fl = bFlags s b m ||| flagsOver s.hart.cfg.count (activeAt s m) fun j => (r j).2)

/-- The area at XVQ takes one saved entry: translation is off, and its 64 bytes are memory in no fenced unit (R45, R212, R316). -/
def SaveAreaOk (s : State) : Prop :=
  s.myDie.ptEn = 0 ∧ saveArea s + 64 ≤ 2 ^ 52 ∧
    ∀ k < 8, absent s (pkgOf s.id) (saveArea s + 8 * k) = false ∧ isControlWindow (saveArea s + 8 * k) = false ∧
      fencedAt s (saveArea s + 8 * k) = false

end Sys2Proof.Machine

/-- R134, R135, R137: the integer vector functions: each active element of d is the function of the elements of a and b taken to
ETYPE's width, and each inactive one is kept or zeroed as MASKMODE says; VADDS raises SAT where it clamps, no other function a flag, and
nothing else changes. -/
def Obligations.VectorIntegerResults : Prop :=
  ∀ (d a : BitVec 7) (b : VSrc) (m : BitVec 1) (s : State), TilesOk s m [a, d] b → s.hart.cfg.et < 5 →
    let et := s.hart.cfg.et
    let w := widthOf et
    let sg (x : Nat) : Int := (BitVec.ofNat w x).toInt
    let ev (i : Instr) (f : Nat → Nat → Nat → Nat) : Prop := Elementwise s d a b m i f
    ev (.vadd d a b m) (fun x y _ => (x + y) % 2 ^ w) ∧
    ev (.vsub d a b m) (fun x y _ => takeBits w (x - y)) ∧
    ev (.vrsub d a b m) (fun x y _ => takeBits w (y - x)) ∧
    ev (.vmul d a b m) (fun x y _ => x * y % 2 ^ w) ∧
    ev (.vmulh d a b m) (fun x y _ => takeBits w (signedBy et x * signedBy et y / 2 ^ w)) ∧
    ev (.vmin d a b m) (fun x y _ => if sg x ≤ sg y then x else y) ∧
    ev (.vmax d a b m) (fun x y _ => if sg x ≤ sg y then y else x) ∧
    ev (.vminu d a b m) (fun x y _ => Nat.min x y) ∧
    ev (.vmaxu d a b m) (fun x y _ => Nat.max x y) ∧
    ev (.vand d a b m) (fun x y _ => x &&& y) ∧
    ev (.vor d a b m) (fun x y _ => x ||| y) ∧
    ev (.vxor d a b m) (fun x y _ => x ^^^ y) ∧
    ev (.vsll d a b m) (fun x y _ => x * 2 ^ (y % w) % 2 ^ w) ∧
    ev (.vsrl d a b m) (fun x y _ => x / 2 ^ (y % w)) ∧
    ev (.vsra d a b m) (fun x y _ => takeBits w (sg x / 2 ^ (y % w))) ∧
    Elementwise s d a b m (.vadds d a b m)
      (fun x y _ => takeBits w (max (intMin et) (min (intMax et) (signedBy et x + signedBy et y))))
      (fun x y => if intMin et ≤ signedBy et x + signedBy et y ∧ signedBy et x + signedBy et y ≤ intMax et then 0 else flSAT) ∧
    ev (.vmadd d a b m) (fun x y z => (z * x + y) % 2 ^ w) ∧
    ev (.vmsub d a b m) (fun x y z => takeBits w (z * x - y))

/-- R134, R136, R137, R90, R91: the floating-point vector functions: each active element of d is the function rounded once to
ETYPE under FRM (selection and sign functions round nothing); they retire in one step, and write only d and, in FFLAGS, the flags of
their active positions with those of converting a captured scalar or a literal once; the sign function raises none. -/
def Obligations.VectorFloatResults : Prop :=
  ∀ (d a : BitVec 7) (b : VSrc) (m : BitVec 1) (s : State), TilesOk s m [a, d] b →
    5 ≤ s.hart.cfg.et → s.hart.cfg.et < 8 →
    let f := fmtOf s.hart.cfg.et
    let frm := s.hart.cfg.frm.toNat
    let v := f.value
    let one (r : Ex × Flags) : Rounded := ((f.rnd frm 0 false r.1).1, r.2 ||| (f.rnd frm 0 false r.1).2)
    let ev := FpElementwise s d a b m
    let un := FpElementwise s d a (.vv a) m
    let high (x : Nat) : Nat := x % 2 ^ (s.hart.cfg.width - 1)
    let signB (j : Nat) : Bool :=
      match b with
      | .vv n => elemOf s n s.hart.cfg.width j / 2 ^ (s.hart.cfg.width - 1) == 1
      | .vs n => (scalarVal s.hart n).getLsbD 31
      | .vi x => decide (x.toInt < 0)
      | .vl lit => lit.getLsbD 31
    ev (.vfadd d a b m) (fun x y _ => one ((v x).add frm (v y))) ∧
    ev (.vfsub d a b m) (fun x y _ => one ((v x).add frm (v y).negate)) ∧
    ev (.vfmul d a b m) (fun x y _ => one ((v x).mul (v y))) ∧
    ev (.vfdiv d a b m) (fun x y _ => one ((v x).div (v y))) ∧
    ev (.vfmin d a b m) (fun x y _ => f.pick false x y) ∧
    ev (.vfmax d a b m) (fun x y _ => f.pick true x y) ∧
    ev (.vfma d a b m) (fun x y z => one (Ex.fma frm false false (v z) (v x) (v y))) ∧
    ev (.vfms d a b m) (fun x y z => one (Ex.fma frm false true (v z) (v x) (v y))) ∧
    ev (.vfnma d a b m) (fun x y z => one (Ex.fma frm true true (v z) (v x) (v y))) ∧
    ev (.vfnms d a b m) (fun x y z => one (Ex.fma frm true false (v z) (v x) (v y))) ∧
    un (.vfsqrt d a m) (fun x _ _ => one (v x).sqrt) ∧
    un (.vrcp d a m) (fun x _ _ => one (v x).rcp) ∧
    un (.vrsqrt d a m) (fun x _ _ => one (v x).rsqrt) ∧
    (s.hart.cfg.et = 5 → un (.vexp2 d a m) (fun x _ _ => exp2Fp frm 0 x) ∧
      un (.vlog2 d a m) (fun x _ _ => log2Fp frm 0 x)) ∧
    WroteTile s d s.hart.cfg.width (fun j => if activeAt s m j then
        some (high (elemOf s a s.hart.cfg.width j) + if signB j then 2 ^ (s.hart.cfg.width - 1) else 0) else none)
      (exec (.vfsgn d a b m) s)

/-- R138: a comparison writes predicate d: each position below VL and from ESTART on holds the relation where it is active, and is
kept or cleared as MASKMODE says where it is not; every other position keeps its value. FFLAGS takes the flags of the active positions,
of which integer comparisons have none, and nothing else changes. -/
def Obligations.VectorCompareResults : Prop :=
  ∀ (d a : BitVec 7) (b : VSrc) (m : BitVec 1) (s : State), TilesOk s m [a] b → s.hart.cfg.vlN ≤ 1024 →
    s.hart.cfg.rcN = 1 →
    let c := s.hart.cfg
    let f := fmtOf c.et
    let sg (x : Nat) : Int := (BitVec.ofNat c.width x).toInt
    let quiet (g : Nat → Nat → Bool) (x y : Nat) : Bool × Flags := (g x y, 0)
    let cmp (i : Instr) (g : Nat → Nat → Bool × Flags) : Prop := ∃ t fl, exec i s = .next t ∧ OnlyVec s t fl ∧
      t.hart.vec = { s.hart.vec with preds := t.hart.vec.preds, gen := t.hart.vec.gen, strips := [], outs := [] } ∧
      (∀ p, p ≠ d.toNat → predOf t.hart.vec p = predOf s.hart.vec p) ∧
      (c.frm ≠ 4 ∨ c.et < 6 → (∀ i < 1024, (predOf t.hart.vec d.toNat).getLsbD i =
        if i < c.vlN ∧ c.est ≤ i then
          if activeAt s m i then (g (elemOf s a c.width i) (bElem s b i)).1
          else if c.maskmode = 1 then false else (predOf s.hart.vec d.toNat).getLsbD i
        else (predOf s.hart.vec d.toNat).getLsbD i) ∧
        fl = bFlags s b m ||| flagsOver c.vlN (activeAt s m) fun i => (g (elemOf s a c.width i) (bElem s b i)).2)
    (c.et < 5 →
      cmp (.vseq d a b m) (quiet fun x y => decide (x = y)) ∧ cmp (.vsne d a b m) (quiet fun x y => decide (x ≠ y)) ∧
      cmp (.vslt d a b m) (quiet fun x y => decide (sg x < sg y)) ∧
      cmp (.vsge d a b m) (quiet fun x y => decide (sg y ≤ sg x)) ∧
      cmp (.vsltu d a b m) (quiet fun x y => decide (x < y)) ∧ cmp (.vsgeu d a b m) (quiet fun x y => decide (y ≤ x))) ∧
    (5 ≤ c.et → c.et < 8 →
      cmp (.vfeq d a b m) f.eqVal ∧ cmp (.vflt d a b m) f.ltVal ∧ cmp (.vfle d a b m) f.leVal ∧
      cmp (.vfunord d a b m) (fun x y => (f.isNan x || f.isNan y, if f.isSig x || f.isSig y then flNV else 0)))

/-- R127, R129, R132: an element type that the function does not take is refused at dispatch with ILL and the instruction word; a
mask with VL above 1,024 raises MATF in the vector stream with XVAL = VL before anything is written; rows outside the
allotment raise WINF with the operand field (VADD and VFADD stand for their families). That MATF comes before the window checks, and that
rows of sources are checked before those of the destination, are the model's readings: logs 26 and 27. -/
def Sys2Proof.Claim.VectorTraps : Prop :=
  ∀ (d a : BitVec 7) (b : VSrc) (s : State), Ready s → VSrcOk s b → SaveAreaOk s →
    (5 ≤ s.hart.cfg.et →
      exec (.vadd d a b 0) s = .next (takeTrap false .ill ((encVadd d a b 0).toWord.zeroExtend 64) s)) ∧
    (s.hart.cfg.et < 5 →
      exec (.vfadd d a b 0) s = .next (takeTrap false .ill ((encVfadd d a b 0).toWord.zeroExtend 64) s)) ∧
    (s.hart.cfg.et < 5 → 1024 < s.hart.cfg.vlN → ∃ t, exec (.vadd d a b 1) s = .next t ∧
      t.hart.trap.cause = 1#1 ++ Cause.matf.code ∧ t.hart.trap.xval = BitVec.ofNat 64 s.hart.cfg.vlN ∧
      t.hart.vec.rows = s.hart.vec.rows ∧ t.hart.vq = []) ∧
    (s.hart.cfg.et < 5 → ¬RowsIn s a.toNat s.hart.cfg.rcN → ∃ t, exec (.vadd d a b 0) s = .next t ∧
      t.hart.trap.cause = 1#1 ++ Cause.winf.code ∧ t.hart.trap.xval = a.zeroExtend 64 ∧
      t.hart.vec.rows = s.hart.vec.rows ∧ t.hart.vq = [])

/-- R25, R26, R416: a vector-side instruction whose checks pass is appended to the vector queue with what it captured, and the
scalar unit goes on, while older entries wait or the vector unit lags; with 32 entries in the queue it waits and changes
nothing (VADD and VLD stand for the vector-side instructions).
That an entry executes in the step that dispatches it is the model's choice of R26's freedom: log 10. -/
def Sys2Proof.Claim.VectorDispatch : Prop :=
  ∀ (d a : BitVec 7) (b : VSrc) (m : BitVec 1) (s : State), s.hart.task.vrel = false → VSrcOk s b →
    scalarOk s.hart a = true → s.hart.cfg.et < 5 →
    let queues (e : Entry) : Host.Outcome State Fault Refusal :=
      .next (State.passed { s with hart := { s.hart with vq := s.hart.vq ++ [e] } })
    (s.hart.vq.length < 32 → s.hart.vq ≠ [] ∨ s.lag = true →
      exec (.vadd d a b m) s = queues (entryOf s (encVadd d a b m).toWord b.lit .none (capOf b)) ∧
      exec (.vld d a m) s = queues (entryOf s (encVld d a m).toWord 0 (.scalar a) .none)) ∧
    (32 ≤ s.hart.vq.length →
      exec (.vadd d a b m) s = .next { s with parked := true } ∧ exec (.vld d a m) s = .next { s with parked := true })

/-- R25, R35, R44, R45, R127, R416: dispatch into the vector queue, and traps in the vector stream. -/
def Obligations.VectorDispatch : Prop :=
  Sys2Proof.Claim.VectorDispatch ∧ Sys2Proof.Claim.VectorTraps

/-- R139: the movements write each position of d from the position of a (or b) that their entry names; they retire in one
step, and nothing else changes, STOV's flags apart, which are those of converting the scalar once; that VSEL, VEXPAND, VCOMPRESS and VIOTA
ignore ESTART (R130) is the model's reading: log 108. -/
def Sys2Proof.Claim.VectorMoveResults : Prop :=
  ∀ (d a b k : BitVec 7) (m : BitVec 1) (s : State), TilesOk s m [a, b, d] (.vs k) → s.hart.cfg.et < 12 →
    let c := s.hart.cfg
    let w := c.width
    let p := predOf s.hart.vec c.psel.toNat
    let K := (scalarVal s.hart k).toNat
    let A (j : Nat) := elemOf s a w j
    let row (j : Nat) := j / c.vlN * c.vlN
    let below (i : Nat) := ((List.range i).filter fun n => p.getLsbD n).length
    let mv (i : Instr) (f : Nat → Option Nat) : Prop :=
      WroteTile s d w (fun j => if activeAt s m j then f j else none) (exec i s)
    let whole (i : Instr) (f : Nat → Option Nat) : Prop := ∃ t, exec i s = .next t ∧
      OnlyRows (tileRows s d c.rcN) s t ∧ TileIs0 s t d.toNat f ∧ RowMarksOf s t d.toNat c.rcN w 0 f
    mv (.vmv d a m) (fun j => some (A j)) ∧
    mv (.vrev d a m) (fun j => some (A (row j + (c.vlN - 1 - j % c.vlN)))) ∧
    mv (.vslideup d a k m) (fun j => if j % c.vlN < K then none else some (A (j - K))) ∧
    mv (.vslidedn d a k m) (fun j => if j % c.vlN + K < c.vlN then some (A (j + K)) else some 0) ∧
    mv (.vperm d a b m) (fun j => if elemOf s b w j < c.vlN then some (A (row j + elemOf s b w j)) else some 0) ∧
    (c.vlN ≤ 1024 →
      whole (.vsel d a b) (fun j => some (elemOf s (if p.getLsbD (j % c.vlN) then a else b) w j)) ∧
      whole (.vexpand d a) (fun j => if p.getLsbD (j % c.vlN) then some (A (row j + below (j % c.vlN))) else none) ∧
      whole (.vcompress d a) (fun j =>
        (((List.range c.vlN).filter fun i => p.getLsbD i)[j % c.vlN]?).map fun i => A (row j + i)) ∧
      (c.et < 5 → whole (.viota d) (fun j => some (below (j % c.vlN))))) ∧
    (c.et < 5 → mv (.stov d k m) (fun _ => some K)) ∧
    (c.et < 8 → ∃ t fl, exec (.stov d k m) s = .next t ∧ OnlyRows (tileRows s d c.rcN) s t fl ∧
      (c.frm ≠ 4 → fl = bFlags s (.vs k) m ∧
        TileIs s t d w fun j => if activeAt s m j then some (bElem s (.vs k) j) else none) ∧
      RowMarks s t d w fun j => if activeAt s m j then some 0 else none)

/-- R139: VZIP interleaves two tiles into 2RC rows, and VUNZIP takes 2RC rows apart; both retire in one step and write only their
destination rows. -/
def Sys2Proof.Claim.VectorZipResults : Prop :=
  ∀ (d a b : BitVec 7) (s : State), TilesOk s 0 [a, b] (.vv b) → s.hart.cfg.et < 12 →
    PlainRows s d.toNat (2 * s.hart.cfg.rcN) →
    let c := s.hart.cfg
    let w := c.width
    let v (t : State) := t.hart.vec
    let wrote (i : Instr) (t : State) : Prop := exec i s = .next t ∧ OnlyRows (tileRows s d (2 * c.rcN)) s t ∧
      RowMarksOf s t d.toNat (2 * c.rcN) w 0 fun _ => some 0
    (∃ t, wrote (.vzip d a b) t ∧
      ∀ j < c.count, (v t).elW c d w (2 * j) = elemOf s a w j ∧ (v t).elW c d w (2 * j + 1) = elemOf s b w j) ∧
    (PlainRows s a.toNat (2 * c.rcN) →
      ∃ t, wrote (.vunzip d a) t ∧
        ∀ j < c.count, (v t).elW c d w j = elemOf s a w (2 * j) ∧
          (v t).elW c d w (c.count + j) = elemOf s a w (2 * j + 1))

/-- R121, R139, R155: moves, selections, slides and permutations of tiles. -/
def Obligations.VectorMoveResults : Prop :=
  Sys2Proof.Claim.VectorMoveResults ∧ Sys2Proof.Claim.VectorZipResults

/-- R139, R155, R28, R131: VTOS, PPOP, PFIRST and PANY deliver one value to q4 and change nothing else: the extended element (0 past
the tile), the number of set bits below VL, the lowest set position (all ones where there is none), whether one is set. -/
def Obligations.VectorDeliverResults : Prop :=
  ∀ (a b p : BitVec 7) (s : State), Ready s → s.hart.cfg.et < 12 → (sparseGet [] s.hart.queues 4).length < 8 →
    let c := s.hart.cfg
    let set' := (List.range c.vlN).filter fun i => (predOf s.hart.vec p.toNat).getLsbD i
    let k := (scalarVal s.hart b).toNat
    let x := elemOf s a c.width k
    let sent (w : RWord) (cap : Cap) (y : Word) : Host.Outcome State Fault Refusal :=
      retiredWith s w.toWord 0 .none cap fun h =>
        { h with queues := sparsePut [] h.queues 4 (sparseGet [] h.queues 4 ++ [y]) }
    (PlainTile s a → scalarOk s.hart b = true → exec (.vtos a b) s = sent (encVtos a b) (.scalar b)
      (if k < c.count then
        if c.et = 0 ∨ c.et = 2 ∨ c.et = 3 ∨ c.et = 11 then (BitVec.ofNat c.width x).signExtend 64 else BitVec.ofNat 64 x
      else 0)) ∧
    (c.vlN ≤ 1024 →
      exec (.ppop p) s = sent (encPpop p) .none (BitVec.ofNat 64 set'.length) ∧
      exec (.pfirst p) s = sent (encPfirst p) .none (match set' with | i :: _ => BitVec.ofNat 64 i | [] => BitVec.allOnes 64) ∧
      exec (.pany p) s = sent (encPany p) .none (if set' = [] then 0 else 1))

/-- R155, R156: the predicate functions work on all 1,024 bits whatever VL and ESTART are, and change one predicate only; PALL sets the
bits below VL and clears the rest. -/
def Sys2Proof.Claim.PredicateResults : Prop :=
  ∀ (d a b : BitVec 7) (s : State), Ready s → s.hart.cfg.et < 12 →
    let P := predOf s.hart.vec a.toNat
    let Q := predOf s.hart.vec b.toNat
    let D := predOf s.hart.vec d.toNat
    let set' (w : RWord) (x : BitVec 1024) : Host.Outcome State Fault Refusal :=
      retiredWith s w.toWord 0 .none .none fun h => { h with vec := { h.vec with preds := sparsePut 0 h.vec.preds d.toNat x } }
    exec (.pand d a b) s = set' (encPand d a b) (P &&& Q) ∧
    exec (.por d a b) s = set' (encPor d a b) (P ||| Q) ∧
    exec (.pxor d a b) s = set' (encPxor d a b) (P ^^^ Q) ∧
    exec (.pandn d a b) s = set' (encPandn d a b) (P &&& ~~~Q) ∧
    exec (.pnot d a) s = set' (encPnot d a) (~~~P) ∧
    exec (.pnone d) s = set' (encPnone d) 0 ∧
    exec (.psel d a b) s = set' (encPsel d a b) ((P &&& Q) ||| (D &&& ~~~Q)) ∧
    (s.hart.cfg.vlN ≤ 1024 → exec (.pall d) s = set' (encPall d) (BitVec.ofNat 1024 (2 ^ s.hart.cfg.vlN - 1)))

/-- R155: PFROMV sets the bits of the non-zero elements of row a below VL and clears the rest; PTOV writes 1 or 0, as a value of
ETYPE, from the bits of predicate a. -/
def Sys2Proof.Claim.PredicateRowResults : Prop :=
  ∀ (d a p : BitVec 7) (s : State), TilesOk s 0 [a, d] (.vv a) → s.hart.cfg.vlN ≤ 1024 →
    let c := s.hart.cfg
    let one : Nat := if c.et < 5 then 1 else ((fmtOf c.et).rnd 0 0 false (Ex.ofInt 1)).1
    (c.et < 12 → ∃ t, exec (.pfromv p a) s = .next t ∧ OnlyVec s t ∧
      t.hart.vec = { s.hart.vec with preds := t.hart.vec.preds, strips := [], outs := [] } ∧
      (∀ q, q ≠ p.toNat → predOf t.hart.vec q = predOf s.hart.vec q) ∧
      ∀ i < 1024, (predOf t.hart.vec p.toNat).getLsbD i = (decide (i < c.vlN) && elemOf s a c.width i != 0)) ∧
    (c.et < 8 → WroteTile s d c.width
      (fun j => some (if (predOf s.hart.vec p.toNat).getLsbD (j % c.vlN) then one else 0)) (exec (.ptov d p) s))

/-- R155, R156: predicates, and predicates from and to rows. -/
def Obligations.PredicateResults : Prop :=
  Sys2Proof.Claim.PredicateResults ∧ Sys2Proof.Claim.PredicateRowResults

namespace Sys2Proof.Machine

/-- The pairwise reduction of R92 with the flags that it raises: each level replaces the list by the values of neighbours in order, an odd
last value moving unchanged to the end, until one value is left; the result of an empty list is +0. That a list of one value gives it
unchanged, a NaN too, with no flag, is the model's reading: log 107. -/
inductive Reduces (f : Nat → Nat → Rounded) : List Nat → Nat → Flags → Prop
  | empty : Reduces f [] 0 0
  | one (x : Nat) : Reduces f [x] x 0
  | level (xs ys : List Nat) (r : Nat) (fl : Flags) (many : 2 ≤ xs.length) (half : ys.length = (xs.length + 1) / 2)
      (pair : ∀ k, 2 * k + 1 < xs.length → ys.getD k 0 = (f (xs.getD (2 * k) 0) (xs.getD (2 * k + 1) 0)).1)
      (last : xs.length % 2 = 1 → ys.getD (xs.length / 2) 0 = xs.getD (xs.length - 1) 0) (rest : Reduces f ys r fl) :
      Reduces f xs r
        (flagsOver (xs.length / 2) (fun _ => true) (fun k => (f (xs.getD (2 * k) 0) (xs.getD (2 * k + 1) 0)).2) ||| fl)

/-- Whether x, raising the flags fl, is the sum modulo 2^w, the largest or the smallest of values of an integer type, and the reduction with
rounded sums, with maxima or with minima of values of a floating-point type (R140). -/
def isSum (c : VConf) (xs : List Nat) (x : Nat) (fl : Flags) : Prop :=
  if c.et < 5 then x = xs.sum % 2 ^ c.width ∧ fl = 0 else Reduces ((fmtOf c.et).sum c.frm.toNat) xs x fl
def isMax (c : VConf) (xs : List Nat) (x : Nat) (fl : Flags) : Prop :=
  if c.et < 5 then x ∈ xs ∧ (∀ y ∈ xs, signedBy c.et y ≤ signedBy c.et x) ∧ fl = 0
  else Reduces ((fmtOf c.et).pick true) xs x fl
def isMin (c : VConf) (xs : List Nat) (x : Nat) (fl : Flags) : Prop :=
  if c.et < 5 then x ∈ xs ∧ (∀ y ∈ xs, signedBy c.et x ≤ signedBy c.et y) ∧ fl = 0
  else Reduces ((fmtOf c.et).pick false) xs x fl

/-- The values of positions lo … hi-1 of row t of the tile a, with +0 at every inactive position (R92). -/
def valuesOf (s : State) (a : BitVec 7) (act : Nat → Bool) (t lo hi : Nat) : List Nat :=
  (List.range' lo (hi - lo)).map fun i =>
    if act (t * s.hart.cfg.vlN + i) then elemOf s a s.hart.cfg.width (t * s.hart.cfg.vlN + i) else 0

/-- Positions lo … hi-1 of a row are a segment of the predicate p: position lo starts one, no later position does, and the
row ends or a further segment starts at hi (R141). -/
def Segment (s : State) (p : BitVec 1024) (lo hi : Nat) : Prop :=
  (lo = 0 ∨ p.getLsbD lo = true) ∧ lo < hi ∧ hi ≤ s.hart.cfg.vlN ∧
    (∀ i, lo < i → i < hi → p.getLsbD i = false) ∧ (hi = s.hart.cfg.vlN ∨ p.getLsbD hi = true)

end Sys2Proof.Machine

/-- R140, R92, R28: a reduction of every row over positions 0 … VL-1, an inactive one counting as +0. With Q = 0 the result of row t goes to
position t of row d and every other position of that row keeps its value; with Q = 1 the results go to q4 in row order, integers
extended by ETYPE's sign and patterns with zeros, from result ESTART on. All retire in one step, raise the flags of their sums or
selections, and change nothing else.
That with Q = 0 positions below ESTART count as +0 too is the model's reading: log 36. -/
def Sys2Proof.Claim.ReductionResults : Prop :=
  ∀ (d a : BitVec 7) (m : BitVec 1) (s : State), 0 < s.hart.cfg.vlN →
    let c := s.hart.cfg
    let w := c.width
    let all (fls : Nat → Flags) : Flags := flagsOver c.rcN (fun _ => true) fls
    let toRow (i : Instr) (is : VConf → List Nat → Nat → Flags → Prop) : Prop :=
      TilesOk s m [a] (.vv a) → PlainRows s d.toNat 1 → c.rcN ≤ c.vlN →
      ∃ t fls, exec i s = .next t ∧ OnlyRows (tileRows s d 1) s t (all fls) ∧
        (∀ r < c.rcN, is c (valuesOf s a (activeAt s m) r 0 c.vlN) (tileElem t.hart.vec c.vwb.toNat d.toNat 0 r w) (fls r)) ∧
        (∀ i, c.rcN ≤ i → i < c.vlN →
          tileElem t.hart.vec c.vwb.toNat d.toNat 0 i w = tileElem s.hart.vec c.vwb.toNat d.toNat 0 i w) ∧
        RowMarksOf s t d.toNat 1 w c.vlN fun i => if i < c.rcN then some 0 else none
    let toQueue (i : Instr) (is : VConf → List Nat → Nat → Flags → Prop) : Prop :=
      TilesOk s m [a] (.vv a) → (sparseGet [] s.hart.queues 4).length + (c.rcN - c.est) ≤ 8 →
      ∃ t fls, ∃ xs : List Nat, exec i s = .next t ∧ xs.length = c.rcN ∧
        (∀ r < c.rcN, is c (valuesOf s a (active0 s m) r 0 c.vlN) (xs.getD r 0) (fls r)) ∧
        sparseGet [] t.hart.queues 4 = sparseGet [] s.hart.queues 4 ++
          (xs.drop c.est).map (fun x => if c.et < 5 then BitVec.ofInt 64 (signedBy c.et x) else BitVec.ofNat 64 x) ∧
        (∀ n, n ≠ 4 → sparseGet [] t.hart.queues n = sparseGet [] s.hart.queues n) ∧
        OnlyRows (fun _ => False) s { t with hart := { t.hart with queues := s.hart.queues } } (all fls)
    (c.et < 5 →
      toRow (.vredsum d a 0 m) isSum ∧ toRow (.vredmax d a 0 m) isMax ∧ toRow (.vredmin d a 0 m) isMin ∧
      toQueue (.vredsum 0 a 1 m) isSum ∧ toQueue (.vredmax 0 a 1 m) isMax ∧ toQueue (.vredmin 0 a 1 m) isMin) ∧
    (5 ≤ c.et → c.et < 8 →
      toRow (.vfredsum d a 0 m) isSum ∧ toRow (.vfredmax d a 0 m) isMax ∧ toRow (.vfredmin d a 0 m) isMin ∧
      toQueue (.vfredsum 0 a 1 m) isSum ∧ toQueue (.vfredmax 0 a 1 m) isMax ∧ toQueue (.vfredmin 0 a 1 m) isMin)

/-- R141, R93, R92: a scan writes the running sums of each row, output 0 being input 0 rounded; a segment function writes the reduction of
each segment to every position of it. Inactive positions count as +0; they retire in one step, raise the flags of their sums or selections,
and change nothing else. That every position from ESTART on is written, a masked one too, and that the positions below it are kept and count
as +0, is the model's reading of R130 against R141, for scans and segments alike: log 36. -/
def Sys2Proof.Claim.ScanResults : Prop :=
  ∀ (d a b : BitVec 7) (m : BitVec 1) (s : State), TilesOk s m [a, d] (.vv a) → 0 < s.hart.cfg.vlN →
    let c := s.hart.cfg
    let w := c.width
    let f := fmtOf c.et
    let vals (r n : Nat) : List Nat := valuesOf s a (activeAt s m) r 0 n
    let frm : Nat := if c.frm = 4 then 0 else c.frm.toNat
    let tile (i : Instr) (is : (Nat → Rounded) → Prop) : Prop :=
      ∃ (t : State) (out : Nat → Rounded), exec i s = .next t ∧ is out ∧
        OnlyRows (tileRows s d c.rcN) s t (flagsOver c.count (fun _ => true) fun j => (out j).2) ∧
        RowMarks s t d w (fun j => if c.est ≤ j then some 0 else none) ∧
        (∀ j < c.est, j < c.count → t.hart.vec.elW c d w j = elemOf s d w j) ∧
        ∀ j, c.est ≤ j → j < c.count → t.hart.vec.elW c d w j = (out j).1
    let segments (i : Instr) (is : VConf → List Nat → Nat → Flags → Prop) : Prop :=
      tile i fun out => ∀ r < c.rcN, ∀ lo hi, Segment s (predOf s.hart.vec b.toNat) lo hi →
        ∀ k, lo ≤ k → k < hi → is c (valuesOf s a (activeAt s m) r lo hi) (out (r * c.vlN + k)).1 (out (r * c.vlN + k)).2
    (c.et < 5 → tile (.vscan d a m) fun out =>
      ∀ r < c.rcN, ∀ k < c.vlN, out (r * c.vlN + k) = ((vals r (k + 1)).sum % 2 ^ w, 0)) ∧
    (5 ≤ c.et → c.et < 8 → tile (.vfscan d a m) fun out => ∀ r < c.rcN,
      out (r * c.vlN) = f.rnd frm 0 false (f.value ((vals r 1).getD 0 0)) ∧
      ∀ k, k + 1 < c.vlN → out (r * c.vlN + k + 1) =
        f.sum frm (out (r * c.vlN + k)).1 ((vals r (k + 2)).getD (k + 1) 0)) ∧
    (c.vlN ≤ 1024 → c.et < 8 → segments (.vsegsum d a b m) isSum ∧ segments (.vsegmax d a b m) isMax)

/-- R140, R141, R92, R93: reductions, scans and segments. -/
def Obligations.VectorReduceResults : Prop :=
  Sys2Proof.Claim.ReductionResults ∧ Sys2Proof.Claim.ScanResults

/-- R142, R146: VCVT, VPACK and VUNPK read at ETYPE's width and write at the other width; integers convert to integers modulo 2^w or,
with SAT, clamped, and to floating point with one rounding under FRM; floating-point values convert with one rounding. They retire in one
step, write only d, and raise the flags of the conversions, SAT where an integer was clamped; VPACK and VUNPK raise none. -/
def Sys2Proof.Claim.VectorConvertResults : Prop :=
  ∀ (d a : BitVec 7) (t : BitVec 4) (sf m : BitVec 1) (s : State), TilesOk s m [a, d] (.vv a) →
    let c := s.hart.cfg
    let w := c.width
    let wt := widthOf t.toNat
    let A (j : Nat) := elemOf s a w j
    let to' (i : Instr) (w' : Nat) (f : Nat → Rounded) : Prop :=
      c.vlN ≤ 32768 / w' → WroteTile s d w' (fun j => if activeAt s m j then some (f (A j)).1 else none) (exec i s)
        (flagsOver c.count (activeAt s m) fun j => (f (A j)).2)
    let frame (i : Instr) (w' : Nat) : Prop :=
      c.vlN ≤ 32768 / w' → ∃ u fl, exec i s = .next u ∧ OnlyRows (tileRows s d c.rcN) s u fl ∧
        RowMarks s u d w' fun j => if activeAt s m j then some 0 else none
    (c.et < 5 → t.toNat < 5 → sf = 0 → to' (.vcvt d a t sf m) wt (fun x => (takeBits wt (signedBy c.et x), 0))) ∧
    (c.et < 5 → t.toNat < 5 → sf = 1 → to' (.vcvt d a t sf m) wt
      (fun x => (takeBits wt (max (intMin t.toNat) (min (intMax t.toNat) (signedBy c.et x))),
        if intMin t.toNat ≤ signedBy c.et x ∧ signedBy c.et x ≤ intMax t.toNat then 0 else flSAT))) ∧
    (c.et < 5 → 5 ≤ t.toNat → t.toNat < 10 → c.frm ≠ 4 → to' (.vcvt d a t sf m) wt
      (fun x => (fmtOf t.toNat).rnd c.frm.toNat 0 (sf == 1) (Ex.ofInt (signedBy c.et x)))) ∧
    (5 ≤ c.et → c.et < 10 → t.toNat < 5 → c.frm ≠ 4 → to' (.vcvt d a t sf m) wt (fun x =>
      let r := toIntClamped c.frm.toNat 0 (sf == 1) (intMin t.toNat) (intMax t.toNat) ((fmtOf c.et).value x)
      (takeBits wt r.1, r.2))) ∧
    (5 ≤ c.et → c.et < 10 → 5 ≤ t.toNat → t.toNat < 10 → c.frm ≠ 4 → to' (.vcvt d a t sf m) wt
      (fun x => (fmtOf t.toNat).rnd c.frm.toNat 0 (sf == 1) ((fmtOf c.et).value x))) ∧
    (c.et < 10 → t.toNat < 10 → frame (.vcvt d a t sf m) wt) ∧
    (c.et < 10 ∨ c.et = 11 → to' (.vpack d a m) (w / 2) (fun x => (x % 2 ^ (w / 2), 0))) ∧
    (c.et < 12 → w ≠ 32 → to' (.vunpk d a sf m) (2 * w)
      (fun x => (if sf = 1 then takeBits (2 * w) (BitVec.ofNat w x).toInt else x, 0)))

namespace Sys2Proof.Machine

/-- The largest magnitude of the FP32 patterns of a block, an infinity counting as the largest finite value and a NaN not at all, and the
exponent X that R88 takes from it. -/
def IsScale (emax : Int) (xs : List Nat) (X : Int) : Prop :=
  let amax := ((xs.filter fun x => !fp32.isNan x).map fun x => Nat.min (x % 2 ^ 31) 0x7F7FFFFF).foldl Nat.max 0
  (amax = 0 → X = 0) ∧
  ∀ neg n e st, amax ≠ 0 → v32 amax = .fin neg n e st → X = max (-127) (min 127 (e + (Nat.log2 n : Int) - emax))

/-- Element k of a block is the one of greatest magnitude that is no NaN, the lowest index among equals (R89). -/
def IsGreatest (xs : List Nat) (k : Nat) : Prop :=
  k < xs.length ∧ fp32.isNan (xs.getD k 0) = false ∧
    ∀ i < xs.length, fp32.isNan (xs.getD i 0) = false →
      xs.getD i 0 % 2 ^ 31 ≤ xs.getD k 0 % 2 ^ 31 ∧ (i < k → xs.getD i 0 % 2 ^ 31 < xs.getD k 0 % 2 ^ 31)

/-- A value lies beyond 6, the largest element of E2M1. -/
def Beyond6 : Ex → Prop
  | .nan _ => False
  | .inf _ => True
  | .fin _ n e _ => 6 * 2 ^ (-e).toNat < n * 2 ^ e.toNat

/-- The active FP32 elements of block k of row t of the tile a, in order (R88). -/
def blockOf (s : State) (a : BitVec 7) (m : BitVec 1) (t k : Nat) : List Nat :=
  let c := s.hart.cfg
  ((List.range' (32 * k) (Nat.min 32 (c.vlN - 32 * k))).filter fun i => activeAt s m (t * c.vlN + i)).map fun i =>
    elemOf s a 32 (t * c.vlN + i)

/-- y of R89: an FP32 pattern scaled down by 2^X. -/
def scaledDown (x : Nat) (X : Int) : Ex := (v32 x).scale (-X)

/-- The special byte of a block with the flags of its rounding; 0 where the block has no special element (R89). -/
def specialByte (c : VConf) (xs : List Nat) : Rounded :=
  match specialOf c.et xs with
  | some g => e4m3.rnd c.frm.toNat 0 true (scaledDown g (blockExp c.et xs))
  | none => (0, 0)

/-- The scale entry of a block: X + 127, and above it the special byte, which under FRM 4 depends on the generator (R88, R89). -/
def ScaleIs (c : VConf) (xs : List Nat) (e : BitVec 16) : Prop :=
  e.toNat % 256 = (blockExp c.et xs + 127).toNat ∧ (c.frm ≠ 4 ∨ c.et ≠ 10 → e.toNat / 256 = (specialByte c xs).1)

/-- The pattern and the flags of the FP32 element x of a block (R89): rounded from y and saturated, the special element as 0b1000, and a
result -0 of E2M1 as 0. -/
def quantised (c : VConf) (xs : List Nat) (x : Nat) : Rounded :=
  let y := scaledDown x (blockExp c.et xs)
  if c.et = 11 then (takeBits 8 (quantInt c.frm.toNat 0 y).1, (quantInt c.frm.toNat 0 y).2)
  else if specialOf c.et xs = some x then (8, 0)
  else
    let r := (fmtOf c.et).rnd c.frm.toNat 0 true y
    if c.et = 10 ∧ r.1 = 8 then (0, r.2) else r

end Sys2Proof.Machine

/-- R88, R89: the exponent of a block and its special element. A block has the exponent of its largest magnitude, and an E2M1X block a
special element when the scaled value of its greatest one lies beyond 6. -/
def Sys2Proof.Claim.BlockScales : Prop :=
  ∀ xs : List Nat, (∀ x ∈ xs, x < 2 ^ 32) →
    IsScale 8 xs (blockExp 8 xs) ∧ IsScale 15 xs (blockExp 9 xs) ∧ IsScale 2 xs (blockExp 10 xs) ∧ IsScale 0 xs (blockExp 11 xs) ∧
    (∀ et, et ≠ 10 → specialOf et xs = none) ∧
    (∀ g, specialOf 10 xs = some g ↔
      ∃ k, IsGreatest xs k ∧ xs.getD k 0 = g ∧ Beyond6 (scaledDown g (blockExp 10 xs)))

/-- R143–R145, R147: the block-scale instructions retire in one step: VSMXE writes the scale entries of its blocks, each with the scale
byte X + 127 and the special byte, 0 where there is none; VQUANT writes them too and then each active element of d, rounded from y =
x·2^(-X) and saturated, the special element as 0b1000 and a result -0 of E2M1 as 0; VDEQ writes tile d; VTOX and XTOV move 512 bytes between
a row and a scale register. FFLAGS takes the flags of the roundings, and nothing else changes. -/
def Sys2Proof.Claim.BlockScaleResults : Prop :=
  ∀ (d a x : BitVec 7) (m : BitVec 1) (s : State), TilesOk s m [a, d] (.vv a) → s.hart.cfg.vlN ≤ 1024 →
    s.hart.cfg.rcN * ((s.hart.cfg.vlN + 31) / 32) ≤ 256 →
    let c := s.hart.cfg
    let others (t : State) : Prop := ∀ y e, y ≠ x.toNat → e < 256 → scaleAt t.hart.vec y e = scaleAt s.hart.vec y e
    let bytes (t : State) (n : BitVec 7) (k : Nat) : Nat :=
      leNat (sparseGetList 0 t.hart.vec.rows (rowKey (c.vwb.toNat + n.toNat) (2 * k)) 2)
    let nb := (c.vlN + 31) / 32
    let block (n : Nat) : List Nat := blockOf s a m (n / nb) (n % nb)
    let scaled (t : State) : Prop := (∀ n < c.rcN * nb, ScaleIs c (block n) (scaleAt t.hart.vec x.toNat n)) ∧
      ∀ n, c.rcN * nb ≤ n → n < 256 → scaleAt t.hart.vec x.toNat n = scaleAt s.hart.vec x.toNat n
    let specialFlags : Flags := flagsOver (c.rcN * nb) (fun _ => true) fun n => (specialByte c (block n)).2
    let el (j : Nat) : Rounded := quantised c (blockOf s a m (j / c.vlN) (j % c.vlN / 32)) (elemOf s a 32 j)
    (8 ≤ c.et → c.et < 12 →
      (∃ t fl, exec (.vsmxe x a m) s = .next t ∧ OnlyVec s t fl ∧ others t ∧ scaled t ∧ (c.frm ≠ 4 ∨ c.et ≠ 10 → fl = specialFlags) ∧
        t.hart.vec = { s.hart.vec with scales := t.hart.vec.scales, gen := t.hart.vec.gen, strips := [], outs := [] }) ∧
      (∃ t fl, exec (.vquant d a x m) s = .next t ∧ OnlyVec s t fl ∧ others t ∧ scaled t ∧
        (c.frm ≠ 4 → fl = specialFlags ||| flagsOver c.count (activeAt s m) (fun j => (el j).2) ∧
          TileIs s t d c.width fun j => if activeAt s m j then some (el j).1 else none) ∧ t.hart.vec =
        { s.hart.vec with
          rows := t.hart.vec.rows, order := t.hart.vec.order, dirty := t.hart.vec.dirty, high := t.hart.vec.high,
          scales := t.hart.vec.scales, gen := t.hart.vec.gen, strips := [], outs := [] } ∧
        OnlyRowsOf (tileRows s d c.rcN) s
          { t with hart := { t.hart with vec := { t.hart.vec with scales := s.hart.vec.scales } } } ∧
        RowMarks s t d c.width fun j => if activeAt s m j then some 0 else none) ∧
      (∃ t fl, exec (.vdeq d a x m) s = .next t ∧ OnlyRows (tileRows s d c.rcN) s t fl ∧
        (let r (j : Nat) : Rounded := fp32.rnd c.frm.toNat 0 false (scaledValue c.et (elemOf s a c.width j)
            (scaleAt s.hart.vec x.toNat (j / c.vlN * nb + j % c.vlN / 32)))
         c.frm ≠ 4 → fl = flagsOver c.count (activeAt s m) (fun j => (r j).2) ∧
          TileIs s t d 32 fun j => if activeAt s m j then some (r j).1 else none) ∧
        RowMarks s t d 32 fun j => if activeAt s m j then some 0 else none)) ∧
    (∃ t, exec (.vtox x a) s = .next t ∧ OnlyVec s t ∧ others t ∧
      t.hart.vec = { s.hart.vec with scales := t.hart.vec.scales, strips := [], outs := [] } ∧
      ∀ k < 256, (scaleAt t.hart.vec x.toNat k).toNat = bytes s a k) ∧
    (∃ t, exec (.xtov d x) s = .next t ∧ OnlyRows (tileRows s d 1) s t ∧
      (∀ k < 256, bytes t d k = (scaleAt s.hart.vec x.toNat k).toNat) ∧
      (let row := c.vwb.toNat + d.toNat
       (∀ off, 512 ≤ off → off < 4096 →
        sparseGet 0 t.hart.vec.rows (rowKey row off) = sparseGet 0 s.hart.vec.rows (rowKey row off)) ∧
       sparseGet 0 t.hart.vec.order row = 0 ∧ sparseGet false t.hart.vec.dirty row = true ∧
       sparseGet 0 t.hart.vec.high row = Nat.max (sparseGet 0 s.hart.vec.high row) 512))

/-- R88, R89, R142–R147: conversions, and block-scaled conversions. -/
def Obligations.VectorConvertResults : Prop :=
  Sys2Proof.Claim.VectorConvertResults ∧ Sys2Proof.Claim.BlockScales ∧ Sys2Proof.Claim.BlockScaleResults

namespace Sys2Proof.Machine

/-- The bytes of one element: a 4-bit element is reached through its byte (R74). -/
def elemBytes (w : Nat) : Nat := if w = 4 then 1 else w / 8

/-- Element j of a tile, given the bytes read for it. -/
def elemPart (w j x : Nat) : Nat := if w = 4 then if j % 2 = 1 then x / 16 else x % 16 else x

/-- No outstanding transfer of the hart holds the interlock (R199). -/
def Unlocked (s : State) : Prop := ∀ k ∈ s.myCore.locks, k.hart ≠ s.id

/-- The access of the vector agent is aligned and reaches a physical address, and a read meets no poisoned byte. -/
def MemRead (q : State) (g : Agent) (v : Word) (z pa : Nat) : Prop :=
  v.toNat % z = 0 ∧ Reaches .load g q v z pa ∧ Clean q pa z
def MemWrite (q : State) (g : Agent) (v : Word) (z pa : Nat) : Prop := v.toNat % z = 0 ∧ Reaches .store g q v z pa

/-- The scratchpad access is aligned and allowed (R192, R210, R262): it names a core's scratchpad and an offset. -/
def SpWrite (q : State) (v : Word) (z : Nat) (p : Nat × Nat) : Prop :=
  v.toNat % z = 0 ∧ (spCheck v z true).exec q = (.ok p, q)
def SpRead (q : State) (v : Word) (z : Nat) (p : Nat × Nat) : Prop :=
  SpWrite q v z p ∧ ∀ x ∈ (q.core p.1).spPoison, x < p.2 ∨ p.2 + z ≤ x

/-- The state after the stores of the elements that `act` names, in rising order (R150). -/
def storedElems (n : Nat) (act : Nat → Bool) (put : Nat → State → State) (q : State) : State :=
  (List.range n).foldl (fun u j => if act j then put j u else u) q

/-- One element stored at a physical address, or in a scratchpad; the other half of the byte of a 4-bit element is kept. -/
def putMem (w j x pa : Nat) (u : State) : State :=
  if w = 4 then
    let old := (u.byteAt pa).toNat
    u.putNat pa 1 (if j % 2 = 1 then old % 16 + x % 16 * 16 else old / 16 * 16 + x % 16)
  else u.putNat pa (w / 8) x
def putPad (w j x : Nat) (p : Nat × Nat) (u : State) : State :=
  if w = 4 then
    let old := u.spNat p.1 p.2 1
    u.putSp p.1 p.2 1 (if j % 2 = 1 then old % 16 + x % 16 * 16 else old / 16 * 16 + x % 16)
  else u.putSp p.1 p.2 (w / 8) x

/-- The access of an element is not aligned, or is refused: the cause, and the element's address as XVAL (R149, R150). -/
def ElementFaults (k : Access) (g : Agent) (q : State) (v : Word) (z : Nat) (c : Cause) (x : Word) : Prop :=
  x = v ∧ ((v.toNat % z ≠ 0 ∧ c = .align) ∨
    (v.toNat % z = 0 ∧ (translateAt q.hart.trap.priv.toNat k g v z).exec q = (.error (.trap c v), q)))

/-- The same for an access of a scratchpad (R192). -/
def PadFaults (q : State) (v : Word) (z : Nat) (c : Cause) (x : Word) : Prop :=
  (v.toNat % z ≠ 0 ∧ c = .align ∧ x = v) ∨ (v.toNat % z = 0 ∧ (spCheck v z true).exec q = (.error (.trap c x), q))

/-- A vector access that faults at element k leaves t: CAUSE and XVAL are those of the element, ESTART is k, and the entry is saved at
XVQ with it (R45, R47, R150); scratchpads and memory outside the save area are those of u, where the elements below k are performed. -/
def FaultedAt (s t u : State) (e : Entry) (k : Nat) (c : Cause) (x : Word) : Prop :=
  let r := t.hart.trap
  r.cause = 1#1 ++ c.code ∧ r.xval = x ∧ r.xpc = u.hart.fetch.pc &&& ~~~3 ∧
  t.hart.cfg = { s.hart.cfg with estart := BitVec.ofNat 18 k } ∧ t.hart.vq = [] ∧ savedCount t = 1 ∧ saveArea t = saveArea s ∧
  t.hart.sregs = s.hart.sregs ∧ t.hart.sys = s.hart.sys ∧ t.cores = u.cores ∧
  (t.hart.phase = .running →
    HoldsEntries t (saveArea s) [{ e with cfg := { e.cfg with estart := BitVec.ofNat 18 k } }] ∧
    ∀ y, y < saveArea s ∨ saveArea s + 64 ≤ y → t.byteAt y = u.byteAt y)

/-- The record that elements 0–15 of a row hold (R153). -/
def rowRecordOf (s : State) (n : BitVec 7) : List (BitVec 32) :=
  (List.range 16).map fun i =>
    BitVec.ofNat 32 (leNat (sparseGetList 0 s.hart.vec.rows (rowKey (s.hart.cfg.vwb.toNat + n.toNat) (4 * i)) 4))

end Sys2Proof.Machine

/-- R149–R152: a vector load writes each active element of d with the element at its address, in global memory or in the
scratchpad; the others are kept or zeroed, and nothing else changes. The address of element j is A + z·j, A + B·j, or
A + z·index; for every way in which the active elements reach memory. -/
def Sys2Proof.Claim.VectorLoads : Prop :=
  ∀ (d a b : BitVec 7) (m : BitVec 1) (s : State), TilesOk s m [d] (.vs a) → s.hart.cfg.et < 12 →
    let c := s.hart.cfg
    let w := c.width
    let z := elemBytes w
    let A := scalarVal s.hart a
    let B := scalarVal s.hart b
    let unit (j : Nat) : Word := A + BitVec.ofNat 64 (if w = 4 then j / 2 else z * j)
    let stride (j : Nat) : Word := A + B * BitVec.ofNat 64 j
    let index (j : Nat) : Word := A + BitVec.ofNat 64 (z * elemOf s b w j)
    let act (j : Nat) : Prop := j < c.count ∧ activeAt s m j = true
    let q (i : RWord) (cb : Cap) : State := s.queued (entryOf s i.toWord 0 (.scalar a) cb)
    let mem (i : Instr) (q : State) (g : Agent) (at' : Nat → Word) : Prop :=
      ∀ P : Nat → Nat, Unlocked q → (∀ j, act j → MemRead q g (at' j) z (P j)) →
        WroteTile s d w (fun j => if activeAt s m j then some (elemPart w j (q.memNat (P j) z)) else none) (exec i s)
    let pad (i : Instr) (q : State) (at' : Nat → Word) : Prop :=
      ∀ P : Nat → Nat × Nat, Unlocked q → (∀ j, act j → SpRead q (at' j) z (P j)) →
        WroteTile s d w (fun j => if activeAt s m j then some (elemPart w j (q.spNat (P j).1 (P j).2 z)) else none)
          (exec i s)
    mem (.vld d a m) (q (encVld d a m) .none) .vmem unit ∧
    pad (.vldp d a m) (q (encVldp d a m) .none) unit ∧
    (c.et ≠ 10 → scalarOk s.hart b = true → mem (.vlds d a b m) (q (encVlds d a b m) (.scalar b)) .vmem stride) ∧
    (c.et ≠ 10 → PlainTile s b → d.toNat + c.rcN ≤ b.toNat ∨ b.toNat + c.rcN ≤ d.toNat →
      mem (.vldx d a b m) (q (encVldx d a b m) .none) .other index ∧
      pad (.vldpx d a b m) (q (encVldpx d a b m) .none) index) ∧
    (c.et ≠ 10 → PlainTile s b → d.toNat < b.toNat + c.rcN → b.toNat < d.toNat + c.rcN → SaveAreaOk s →
      ∃ t, exec (.vldx d a b m) s = .next t ∧ t.hart.trap.cause = 1#1 ++ Cause.matf.code ∧
        t.hart.trap.xval = d.zeroExtend 64 ∧ t.hart.vec.rows = s.hart.vec.rows)

/-- R149, R150, R45: a vector load that faults at element k traps in the vector stream with the element's address: the active elements
below k are loaded, those from k on keep their values, and the entry is saved at XVQ with ESTART k. -/
def Sys2Proof.Claim.VectorLoadFaults : Prop :=
  ∀ (d a b : BitVec 7) (m : BitVec 1) (k : Nat) (cz : Cause) (x : Word) (s : State), TilesOk s m [d] (.vs a) →
    s.hart.cfg.et < 12 → SaveAreaOk s → k < 2 ^ 18 → k < s.hart.cfg.count → activeAt s m k = true →
    let c := s.hart.cfg
    let w := c.width
    let z := elemBytes w
    let A := scalarVal s.hart a
    let B := scalarVal s.hart b
    let unit (j : Nat) : Word := A + BitVec.ofNat 64 (if w = 4 then j / 2 else z * j)
    let stride (j : Nat) : Word := A + B * BitVec.ofNat 64 j
    let index (j : Nat) : Word := A + BitVec.ofNat 64 (z * elemOf s b w j)
    let act (j : Nat) : Prop := j < k ∧ activeAt s m j = true
    let loaded (val : Nat → Nat) (t : State) : Prop := OnlyRowsOf (tileRows s d c.rcN) s t ∧
      ∀ j < c.count, t.hart.vec.elW c d w j =
        if k ≤ j then elemOf s d w j else if activeAt s m j then val j % 2 ^ w
        else if c.maskmode = 1 ∧ c.est ≤ j then 0 else elemOf s d w j
    let mem (i : Instr) (rw : RWord) (cb : Cap) (g : Agent) (at' : Nat → Word) : Prop :=
      let e := entryOf s rw.toWord 0 (.scalar a) cb
      let q := s.queued e
      ∀ P : Nat → Nat, Unlocked q → (∀ j, act j → MemRead q g (at' j) z (P j)) → ElementFaults .load g q (at' k) z cz x →
        ∃ t, exec i s = .next t ∧ FaultedAt s t q e k cz x ∧ loaded (fun j => elemPart w j (q.memNat (P j) z)) t
    let pad (i : Instr) (rw : RWord) (at' : Nat → Word) : Prop :=
      let e := entryOf s rw.toWord 0 (.scalar a) .none
      let q := s.queued e
      ∀ P : Nat → Nat × Nat, Unlocked q → (∀ j, act j → SpRead q (at' j) z (P j)) → PadFaults q (at' k) z cz x →
        ∃ t, exec i s = .next t ∧ FaultedAt s t q e k cz x ∧ loaded (fun j => elemPart w j (q.spNat (P j).1 (P j).2 z)) t
    mem (.vld d a m) (encVld d a m) .none .vmem unit ∧
    pad (.vldp d a m) (encVldp d a m) unit ∧
    (c.et ≠ 10 → scalarOk s.hart b = true → mem (.vlds d a b m) (encVlds d a b m) (.scalar b) .vmem stride) ∧
    (c.et ≠ 10 → PlainTile s b → d.toNat + c.rcN ≤ b.toNat ∨ b.toNat + c.rcN ≤ d.toNat →
      mem (.vldx d a b m) (encVldx d a b m) .none .other index ∧
      pad (.vldpx d a b m) (encVldpx d a b m) index)

/-- R45, R149–R152: what vector loads do, and what a fault at an element leaves. -/
def Obligations.VectorLoadResults : Prop :=
  Sys2Proof.Claim.VectorLoads ∧ Sys2Proof.Claim.VectorLoadFaults

/-- R149–R152: a vector store writes each active element of d at its address, in rising order of element, and retires; no other byte
of memory or of a scratchpad changes, and no register. -/
def Sys2Proof.Claim.VectorStores : Prop :=
  ∀ (d a b : BitVec 7) (m : BitVec 1) (s : State), TilesOk s m [d] (.vs a) → s.hart.cfg.et < 12 →
    let c := s.hart.cfg
    let w := c.width
    let z := elemBytes w
    let A := scalarVal s.hart a
    let B := scalarVal s.hart b
    let unit (j : Nat) : Word := A + BitVec.ofNat 64 (if w = 4 then j / 2 else z * j)
    let stride (j : Nat) : Word := A + B * BitVec.ofNat 64 j
    let index (j : Nat) : Word := A + BitVec.ofNat 64 (z * elemOf s b w j)
    let act (j : Nat) : Prop := j < c.count ∧ activeAt s m j = true
    let q (i : RWord) (cb : Cap) : State := s.queued (entryOf s i.toWord 0 (.scalar a) cb)
    let mem (i : Instr) (q : State) (g : Agent) (at' : Nat → Word) : Prop :=
      ∀ P : Nat → Nat, Unlocked q → (∀ j, act j → MemWrite q g (at' j) z (P j)) →
        exec i s = .next (State.retired
          (storedElems c.count (activeAt s m) (fun j => putMem w j (elemOf s d w j) (P j)) q))
    let pad (i : Instr) (q : State) (at' : Nat → Word) : Prop :=
      ∀ P : Nat → Nat × Nat, Unlocked q → (∀ j, act j → SpWrite q (at' j) z (P j)) →
        exec i s = .next (State.retired
          (storedElems c.count (activeAt s m) (fun j => putPad w j (elemOf s d w j) (P j)) q))
    mem (.vst d a m) (q (encVst d a m) .none) .vmem unit ∧
    pad (.vstp d a m) (q (encVstp d a m) .none) unit ∧
    (c.et ≠ 10 → scalarOk s.hart b = true → mem (.vsts d a b m) (q (encVsts d a b m) (.scalar b)) .vmem stride) ∧
    (c.et ≠ 10 → PlainTile s b →
      mem (.vstx d a b m) (q (encVstx d a b m) .none) .other index ∧
      pad (.vstpx d a b m) (q (encVstpx d a b m) .none) index) ∧
    (∀ (P : Nat → Nat) (u : State) (x : Nat), (∀ j, act j → x < P j ∨ P j + z ≤ x) →
      (storedElems c.count (activeAt s m) (fun j => putMem w j (elemOf s d w j) (P j)) u).byteAt x = u.byteAt x)

/-- R149, R150, R45: a vector store that faults at element k traps in the vector stream with the element's address: the active elements
below k are stored, no other, and the entry is saved at XVQ with ESTART k. -/
def Sys2Proof.Claim.VectorStoreFaults : Prop :=
  ∀ (d a b : BitVec 7) (m : BitVec 1) (k : Nat) (cz : Cause) (x : Word) (s : State), TilesOk s m [d] (.vs a) →
    s.hart.cfg.et < 12 → SaveAreaOk s → k < 2 ^ 18 → k < s.hart.cfg.count → activeAt s m k = true →
    let c := s.hart.cfg
    let w := c.width
    let z := elemBytes w
    let A := scalarVal s.hart a
    let B := scalarVal s.hart b
    let unit (j : Nat) : Word := A + BitVec.ofNat 64 (if w = 4 then j / 2 else z * j)
    let stride (j : Nat) : Word := A + B * BitVec.ofNat 64 j
    let index (j : Nat) : Word := A + BitVec.ofNat 64 (z * elemOf s b w j)
    let act (j : Nat) : Prop := j < k ∧ activeAt s m j = true
    let kept (t : State) : Prop := t.hart.vec = { s.hart.vec with strips := [], outs := [] }
    let mem (i : Instr) (rw : RWord) (cb : Cap) (g : Agent) (at' : Nat → Word) : Prop :=
      let e := entryOf s rw.toWord 0 (.scalar a) cb
      let q := s.queued e
      ∀ P : Nat → Nat, Unlocked q → (∀ j, act j → MemWrite q g (at' j) z (P j)) → ElementFaults .store g q (at' k) z cz x →
        ∃ t, exec i s = .next t ∧ kept t ∧
          FaultedAt s t (storedElems k (activeAt s m) (fun j => putMem w j (elemOf s d w j) (P j)) q) e k cz x
    let pad (i : Instr) (rw : RWord) (at' : Nat → Word) : Prop :=
      let e := entryOf s rw.toWord 0 (.scalar a) .none
      let q := s.queued e
      ∀ P : Nat → Nat × Nat, Unlocked q → (∀ j, act j → SpWrite q (at' j) z (P j)) → PadFaults q (at' k) z cz x →
        ∃ t, exec i s = .next t ∧ kept t ∧
          FaultedAt s t (storedElems k (activeAt s m) (fun j => putPad w j (elemOf s d w j) (P j)) q) e k cz x
    mem (.vst d a m) (encVst d a m) .none .vmem unit ∧
    pad (.vstp d a m) (encVstp d a m) unit ∧
    (c.et ≠ 10 → scalarOk s.hart b = true → mem (.vsts d a b m) (encVsts d a b m) (.scalar b) .vmem stride) ∧
    (c.et ≠ 10 → PlainTile s b →
      mem (.vstx d a b m) (encVstx d a b m) .none .other index ∧
      pad (.vstpx d a b m) (encVstpx d a b m) index)

/-- R45, R149–R152: what vector stores do, and what a fault at an element leaves. -/
def Obligations.VectorStoreResults : Prop :=
  Sys2Proof.Claim.VectorStores ∧ Sys2Proof.Claim.VectorStoreFaults

/-- R153, R156: VLDT and VSTT address the elements of d by the record in row a: element j below the record's length is read or
written at its address; a load pads past it or passes it through. PLD and PST move the 128 bytes of a predicate.
That PLD and PST do so where VL is 0 too (R131) is the model's reading: log 109. -/
def Obligations.TensorAccessResults : Prop :=
  ∀ (d a p : BitVec 7) (m : BitVec 1) (s : State), TilesOk s m [d] (.vv d) → s.hart.cfg.et < 12 →
    let c := s.hart.cfg
    let w := c.width
    let r := rowRecordOf s a
    let act (j : Nat) : Prop := j < c.count ∧ activeAt s m j = true ∧ j < recN r
    let q (i : RWord) : State := s.queued (entryOf s i.toWord 0 .none .none)
    let past : Option Nat := if recPad r then some (recW r 12) else none
    (c.et ≠ 10 → RowsIn s a.toNat 1 → Unbound s a.toNat → recBad (some c.et) r = none →
      ((d.toNat + c.rcN ≤ a.toNat ∨ a.toNat < d.toNat) → Unlocked (q (encVldt d a m)) →
        (∀ P : Nat → Nat, recScratch r = false →
          (∀ j, act j → MemRead (q (encVldt d a m)) .other (recAddr r j) (w / 8) (P j)) →
          WroteTile s d w (fun j => if activeAt s m j then
            if j < recN r then some ((q (encVldt d a m)).memNat (P j) (w / 8)) else past else none) (exec (.vldt d a m) s)) ∧
        (∀ P : Nat → Nat × Nat, recScratch r = true →
          (∀ j, act j → SpRead (q (encVldt d a m)) (recAddr r j) (w / 8) (P j)) →
          WroteTile s d w (fun j => if activeAt s m j then
            if j < recN r then some ((q (encVldt d a m)).spNat (P j).1 (P j).2 (w / 8)) else past else none)
            (exec (.vldt d a m) s))) ∧
      (Unlocked (q (encVstt d a m)) →
        (∀ P : Nat → Nat, recScratch r = false →
          (∀ j, act j → MemWrite (q (encVstt d a m)) .other (recAddr r j) (w / 8) (P j)) →
          exec (.vstt d a m) s = .next (State.retired (storedElems c.count
            (fun j => activeAt s m j && decide (j < recN r)) (fun j => putMem w j (elemOf s d w j) (P j))
            (q (encVstt d a m))))) ∧
        (∀ P : Nat → Nat × Nat, recScratch r = true →
          (∀ j, act j → SpWrite (q (encVstt d a m)) (recAddr r j) (w / 8) (P j)) →
          exec (.vstt d a m) s = .next (State.retired (storedElems c.count
            (fun j => activeAt s m j && decide (j < recN r)) (fun j => putPad w j (elemOf s d w j) (P j))
            (q (encVstt d a m))))))) ∧
    (scalarOk s.hart a = true →
      let ql := s.queued (entryOf s (encPld p a).toWord 0 (.scalar a) .none)
      let qs := s.queued (entryOf s (encPst p a).toWord 0 (.scalar a) .none)
      (∀ pa, Unlocked ql → MemRead ql .other (scalarVal s.hart a) 128 pa →
        exec (.pld p a) s = retiredWith s (encPld p a).toWord 0 (.scalar a) .none fun h =>
          { h with vec := { h.vec with preds := sparsePut 0 h.vec.preds p.toNat (BitVec.ofNat 1024 (ql.memNat pa 128)) } }) ∧
      (∀ pa, Unlocked qs → MemWrite qs .other (scalarVal s.hart a) 128 pa →
        exec (.pst p a) s = .next (State.retired (qs.putNat pa 128 (predOf s.hart.vec p.toNat).toNat))))

/-- R133, R121, R35, R79: VCFG sets VL (at most VLMAX), RC and ETYPE, writes VL to its destination and takes a pending seed;
VQRECV takes the oldest value of a queue and writes it, converted once, to every element of d, with no flag; VREL returns the lanes, drops
the bindings (none of them an output here) and ends vector work. -/
def Obligations.VectorControlResults : Prop :=
  ∀ (d a : BitVec 7) (r : BitVec 5) (t : BitVec 4) (s : State), Ready s →
    let vl := Nat.min (scalarVal s.hart a).toNat (vlmax t.toNat)
    (scalarOk s.hart d = true → scalarOk s.hart a = true → ∃ u, exec (.vcfg d a r t) s = .next u ∧
      u.hart.cfg = { s.hart.cfg with vl := BitVec.ofNat 14 vl, rc := r.zeroExtend 6 + 1, etype := t, estart := 0 } ∧
      u.hart.sregs = (setScalar s.hart d (BitVec.ofNat 64 vl)).sregs ∧ u.hart.vq = [] ∧
      u.hart.vec = { s.hart.vec with
        gen := if s.hart.sys.reseed = true ∧ s.hart.sys.srseed ≠ 0 then s.hart.sys.srseed else s.hart.vec.gen
        strips := []
        outs := [] } ∧
      u.hart.sys = { s.hart.sys with reseed := false, laneMap := u.hart.sys.laneMap } ∧
      (s.hart.sys.lanePref.toNat ≤ lanes s.hart.sys.laneMap → lanes s.hart.sys.laneMap ≤ s.hart.sys.laneMin.toNat →
        u.hart.sys.laneMap = s.hart.sys.laneMap)) ∧
    (∀ x xs, TilesOk s 0 [d] (.vv d) → s.hart.cfg.et < 8 → sparseGet [] s.hart.queues a.toNat = x :: xs →
      ∃ u, exec (.vqrecv d a) s = .next u ∧ sparseGet [] u.hart.queues a.toNat = xs ∧
        OnlyRows (tileRows s d s.hart.cfg.rcN) s { u with hart := { u.hart with queues := s.hart.queues } } ∧
        RowMarksOf s u d.toNat s.hart.cfg.rcN s.hart.cfg.width 0 (fun _ => some 0) ∧
        (s.hart.cfg.et < 6 ∨ s.hart.cfg.frm ≠ 4 → ∀ j < s.hart.cfg.count, u.hart.vec.elW s.hart.cfg d s.hart.cfg.width j =
          if s.hart.cfg.et < 6 then x.toNat % 2 ^ s.hart.cfg.width
          else ((fmtOf s.hart.cfg.et).rnd s.hart.cfg.frm.toNat 0 false (v32 (x.toNat % 2 ^ 32))).1)) ∧
    ((∀ n st, sparseGet none s.hart.vec.streams n = some st → st.out = false) →
      ∃ u, exec .vrel s = .next u ∧ u.hart.sys = { s.hart.sys with laneMap := 0 } ∧
        u.hart.task = { s.hart.task with vrel := true, released := true } ∧ (∀ n < 8, sparseGet none u.hart.vec.streams n = none) ∧
        u.hart.vec.rows = s.hart.vec.rows ∧ u.hart.vq = [] ∧
        exec .vrel u = .next (takeTrap false .ill 1 u))

namespace Sys2Proof.Machine

/-- A row of a sorted operand that R159 accepts, its key type the one of ETYPE (R163). -/
def SortedRow (s : State) (n : BitVec 7) (t : Nat) : Prop :=
  rowFault s.hart.vec (s.hart.cfg.vwb.toNat + n.toNat) t = none

/-- The order word of the first row of an operand (R157). -/
def firstWord (s : State) (n : BitVec 7) : BitVec 32 := orderOf s.hart.vec (s.hart.cfg.vwb.toNat + n.toNat)

/-- The rows of a valid sorted operand, its key type the one of ETYPE (R159, R164). -/
structure RunRows (s : State) (n : BitVec 7) (rows : Nat) : Prop where
  inside : RowsIn s n.toNat rows
  valid : ∀ t < rows, SortedRow s n t
  kt : owKt (firstWord s n) = ktOf s.hart.cfg.et

/-- A valid sorted operand of `rows` rows with its payload rows (R159, R160, R164). -/
structure SortedOk (s : State) (n : BitVec 7) (rows : Nat) : Prop extends RunRows s n rows where
  pays : owPk (firstWord s n) ≠ 0 → RowsIn s (n.toNat + rows) rows

/-- The places of a sorted operand in run order, and its keys and payload (R160). -/
def runPlaces (s : State) (n : BitVec 7) (rows : Nat) : List (Nat × Nat) :=
  (List.range rows).flatMap fun t =>
    (List.range (owLen (orderOf s.hart.vec (s.hart.cfg.vwb.toNat + n.toNat + t)))).map fun i => (t, i)
def runKeys (s : State) (n : BitVec 7) (rows : Nat) : List Nat :=
  (runPlaces s n rows).map fun p => rowElem s.hart.vec (s.hart.cfg.vwb.toNat + n.toNat + p.1) p.2 s.hart.cfg.width

/-- The payload of a sorted operand in run order: the elements at the places of its keys in the rows after them (R160). -/
def runPays (s : State) (n : BitVec 7) (rows : Nat) : List Nat :=
  (runPlaces s n rows).map fun p => tileElem s.hart.vec s.hart.cfg.vwb.toNat (n.toNat + rows) p.1 p.2 s.hart.cfg.width

/-- The merge of two runs of keys with payload (R169): while both have a head, the second's goes first only where its key stands before the
first's. -/
inductive Merges (before : Nat → Nat → Bool) : List (Nat × Nat) → List (Nat × Nat) → List (Nat × Nat) → Prop
  | first (xs : List (Nat × Nat)) : Merges before xs [] xs
  | second (ys : List (Nat × Nat)) : Merges before [] ys ys
  | takeA (x y : Nat × Nat) (xs ys zs : List (Nat × Nat)) (h : before y.1 x.1 = false) (rest : Merges before xs (y :: ys) zs) :
      Merges before (x :: xs) (y :: ys) (x :: zs)
  | takeB (x y : Nat × Nat) (xs ys zs : List (Nat × Nat)) (h : before y.1 x.1 = true) (rest : Merges before (x :: xs) ys zs) :
      Merges before (x :: xs) (y :: ys) (y :: zs)

/-- `rows` rows from number n on of the state t, read with the configuration of s, hold a list in flat order, and keep their values at
every other position. -/
def HoldsFlat (s t : State) (n rows : Nat) (xs : List Nat) : Prop :=
  let c := s.hart.cfg
  (∀ i < xs.length, tileElem t.hart.vec c.vwb.toNat n (i / c.vlN) (i % c.vlN) c.width = xs.getD i 0) ∧
  ∀ r < rows, ∀ i < 32768 / c.width, c.vlN ≤ i ∨ xs.length ≤ r * c.vlN + i →
    tileElem t.hart.vec c.vwb.toNat n r i c.width = tileElem s.hart.vec c.vwb.toNat n r i c.width

/-- The tile holds a run of keys, and its order words say so (R161). -/
def HoldsRun (s t : State) (n : BitVec 7) (rows : Nat) (keys : List Nat) (desc : Bool) (pk : Nat) : Prop :=
  HoldsFlat s t n.toNat rows keys ∧
  ∀ r < rows, orderOf t.hart.vec (s.hart.cfg.vwb.toNat + n.toNat + r) =
    orderWord desc (ktOf s.hart.cfg.et) pk (r != 0) (Nat.min (keys.length - r * s.hart.cfg.vlN) s.hart.cfg.vlN)

/-- The positions of a list are those from lo to hi-1 that are active, each once, ordered by key and then by position. -/
def StableOrder (s : State) (a : BitVec 7) (m : BitVec 1) (desc : Bool) (lo hi : Nat) (ps : List Nat) : Prop :=
  let key (j : Nat) : Nat := elemOf s a s.hart.cfg.width j
  let before := prec (ktOf s.hart.cfg.et) desc
  (∀ j, j ∈ ps ↔ lo ≤ j ∧ j < hi ∧ active0 s m j = true) ∧
  ps.Pairwise fun i j => before (key i) (key j) = true ∨ (before (key j) (key i) = false ∧ i < j)

end Sys2Proof.Machine

/-- R167, R174: VSORT sorts the active elements of a, stably, into a run in d (one run per row with `.row`), with its payload in the
rows after d; VTOPK keeps the first B of the descending order with their positions. They retire in one step and write only
those rows, their order words included. -/
def Sys2Proof.Claim.SortResults : Prop :=
  ∀ (d a b : BitVec 7) (p : BitVec 2) (w y m : BitVec 1) (s : State), TilesOk s m [a, d] (.vs b) →
    isKeyType s.hart.cfg.et = true → 0 < s.hart.cfg.vlN → p ≠ 3 →
    let c := s.hart.cfg
    let key (j : Nat) := elemOf s a c.width j
    let after (k : Nat) := tileElem s.hart.vec c.vwb.toNat (a.toNat + c.rcN) (k / c.vlN) (k % c.vlN) c.width
    let pay (lo k : Nat) : Nat := if p = 1 then after k else k - lo
    let rows := if p = 0 then c.rcN else 2 * c.rcN
    (p = 1 → PlainRows s (a.toNat + c.rcN) c.rcN) → (p ≠ 0 → PlainRows s (d.toNat + c.rcN) c.rcN) →
    (w = 0 → ∃ t ps, exec (.vsort d a p w y m) s = .next t ∧ OnlyRows (tileRows s d rows) s t ∧
      StableOrder s a m (y == 1) 0 c.count ps ∧ HoldsRun s t d c.rcN (ps.map key) (y == 1) p.toNat ∧
      (p ≠ 0 → HoldsFlat s t (d.toNat + c.rcN) c.rcN ((ps.map (pay 0)).map (· % 2 ^ c.width)))) ∧
    (w = 1 → ∃ t, exec (.vsort d a p w y m) s = .next t ∧ OnlyRows (tileRows s d rows) s t ∧
      ∀ r < c.rcN, ∃ ps, StableOrder s a m (y == 1) (r * c.vlN) ((r + 1) * c.vlN) ps ∧
        (∀ i < ps.length, tileElem t.hart.vec c.vwb.toNat d.toNat r i c.width = key (ps.getD i 0)) ∧
        (p ≠ 0 → ∀ i < ps.length, tileElem t.hart.vec c.vwb.toNat (d.toNat + c.rcN) r i c.width =
          pay (r * c.vlN) (ps.getD i 0) % 2 ^ c.width) ∧
        orderOf t.hart.vec (c.vwb.toNat + d.toNat + r) =
          orderWord (y == 1) (ktOf c.et) p.toNat false (Nat.min ps.length c.vlN)) ∧
    (PlainRows s (d.toNat + c.rcN) c.rcN → ∃ t ps, exec (.vtopk d a b m) s = .next t ∧
      OnlyRows (tileRows s d (2 * c.rcN)) s t ∧ StableOrder s a m true 0 c.count ps ∧
      HoldsRun s t d c.rcN ((ps.take (scalarVal s.hart b).toNat).map key) true 2 ∧
      HoldsFlat s t (d.toNat + c.rcN) c.rcN ((ps.take (scalarVal s.hart b).toNat).map (· % 2 ^ c.width)))

/-- R161, R169–R171: the results on valid runs that fit, by `setrun`: VMERGE holds the merge of the two runs, the first run's element first
among equal keys; VINTER and VDIFF those elements of a whose count among a's equal keys is at most, or above, the number of equal keys in b;
VUNIQ and VUNIQC the first element of each group of equal neighbours. Each writes the payload that goes with its keys, VUNIQC the sizes of
its groups, at most 2^w − 1, with SAT where a size is larger. They retire in one step and write only the result's rows. -/
def Obligations.RunResults : Prop :=
  ∀ (d a b : BitVec 7) (s : State), Ready s → isKeyType s.hart.cfg.et = true → 0 < s.hart.cfg.vlN → 1 ≤ s.hart.cfg.rcN →
    s.hart.cfg.vlN ≤ vlmax s.hart.cfg.et → RunRows s a s.hart.cfg.rcN → PlainRows s d.toNat s.hart.cfg.rcN →
    let c := s.hart.cfg
    let kt := ktOf c.et
    let A := runKeys s a c.rcN
    let B := runKeys s b c.rcN
    let PA := runPays s a c.rcN
    let PB := runPays s b c.rcN
    let desc := owDir (firstWord s a)
    let pk := owPk (firstWord s a)
    let same (x : Nat) : Nat → Bool := sameKey kt x
    let inOrder (xs : List Nat) : Prop := xs.Pairwise fun x y => prec kt desc y x = false
    let plain (n : BitVec 7) : Prop := pk ≠ 0 → PlainRows s (n.toNat + c.rcN) c.rcN
    let wrote (i : Instr) (n p : Nat) (keys pays : List Nat) (fl : Flags) : Prop := ∃ t, exec i s = .next t ∧
      OnlyRows (tileRows s d (if p = 0 then n else 2 * n)) s t fl ∧ HoldsRun s t d n keys desc p ∧
      (p ≠ 0 → HoldsFlat s t (d.toNat + n) n pays ∧ ∀ r < n, orderOf t.hart.vec (c.vwb.toNat + d.toNat + n + r) = 0)
    let picked (i : Instr) (is : List Nat) : Prop := is.length ≤ c.count →
      wrote i c.rcN pk (is.map fun i => A.getD i 0) (is.map fun i => PA.getD i 0) 0
    let rank (i : Nat) : Nat := (A.take (i + 1)).countP (same (A.getD i 0))
    let others (i : Nat) : Nat := B.countP (same (A.getD i 0))
    let heads : List Nat := (List.range A.length).filter fun i => i == 0 || !same (A.getD (i - 1) 0) (A.getD i 0)
    let size (i : Nat) : Nat := ((A.drop i).takeWhile (same (A.getD i 0))).length
    let top := 2 ^ c.width - 1
    (plain a → plain d →
      picked (.vuniq d a) heads ∧
      (RunRows s b c.rcN → owDir (firstWord s b) = desc → owPk (firstWord s b) = pk → (pk ≠ 0 → RowsIn s (b.toNat + c.rcN) c.rcN) →
        picked (.vinter d a b) ((List.range A.length).filter fun i => decide (rank i ≤ others i)) ∧
        picked (.vdiff d a b) ((List.range A.length).filter fun i => decide (others i < rank i)))) ∧
    (RunRows s b c.rcN → owDir (firstWord s b) = desc → owPk (firstWord s b) = pk → plain a → plain b →
      A.length + B.length ≤ 2 * c.count → PlainRows s d.toNat (2 * c.rcN) → (pk ≠ 0 → PlainRows s (d.toNat + 2 * c.rcN) (2 * c.rcN)) →
      ∃ zs, Merges (prec kt desc) (A.zip PA) (B.zip PB) zs ∧
        wrote (.vmerge d a b) (2 * c.rcN) pk (zs.map Prod.fst) (zs.map Prod.snd) 0 ∧
        zs.Perm (A.zip PA ++ B.zip PB) ∧ (inOrder A → inOrder B → inOrder (zs.map Prod.fst))) ∧
    (PlainRows s (d.toNat + c.rcN) c.rcN → heads.length ≤ c.count →
      wrote (.vuniqc d a) c.rcN 1 (heads.map fun i => A.getD i 0) (heads.map fun i => Nat.min (size i) top)
        (if heads.any fun i => decide (top < size i) then flSAT else 0))

/-- R172, R173: VRANK counts the keys of run a that precede each active probe, VRANKU those that do not follow it, saturated at the
width with SAT; VPART puts the active elements in order of bucket, with their buckets in the rows after d. -/
def Sys2Proof.Claim.RankResults : Prop :=
  ∀ (d a b : BitVec 7) (m : BitVec 1) (s : State), Ready s → isKeyType s.hart.cfg.et = true → MaskOk s m →
    PlainTile s d → 1 ≤ s.hart.cfg.rcN → s.hart.cfg.vlN ≤ vlmax s.hart.cfg.et →
    let c := s.hart.cfg
    let kt := ktOf c.et
    let ranks (i : Instr) (f : Nat → Nat → Bool) : Prop :=
      let count (j : Nat) : Nat := (runKeys s a c.rcN).countP fun k => f k (elemOf s b c.width j)
      let rank (j : Nat) : Option Nat := if active0 s m j then some (Nat.min (count j) (2 ^ c.width - 1)) else none
      ∃ t, exec i s = .next t ∧ OnlyRows (tileRows s d c.rcN) s t
          (flagsOver c.count (active0 s m) fun j => if 2 ^ c.width - 1 < count j then flSAT else 0) ∧ TileIs0 s t d.toNat rank ∧
        RowMarksOf s t d.toNat c.rcN c.width 0 rank
    (SortedOk s a c.rcN → PlainTile s b →
      ranks (.vrank d a b m) (fun k x => prec kt false k x) ∧ ranks (.vranku d a b m) (fun k x => !prec kt false x k)) ∧
    (PlainTile s a → SortedOk s b 1 → PlainRows s d.toNat (2 * c.rcN) →
      let bucket (j : Nat) : Nat := (runKeys s b 1).countP fun k => !prec kt false (elemOf s a c.width j) k
      ∃ (t : State) (ps : List Nat), exec (.vpart d a b m) s = .next t ∧ OnlyRows (tileRows s d (2 * c.rcN)) s t ∧
        (∀ j, j ∈ ps ↔ j < c.count ∧ active0 s m j = true) ∧
        ps.Pairwise (fun i j => bucket i < bucket j ∨ (bucket i = bucket j ∧ i < j)) ∧
        TileIs0 s t d.toNat (fun j => (ps[j]?).map fun i => elemOf s a c.width i) ∧
        TileIs0 s t (d.toNat + c.rcN) (fun j => (ps[j]?).map bucket) ∧
        RowMarksOf s t d.toNat c.rcN c.width 0 (fun j => ps[j]?) ∧
        RowMarksOf s t (d.toNat + c.rcN) c.rcN c.width 0 (fun j => ps[j]?))

/-- R167, R172–R174: sorting, the first keys, ranks and partition. -/
def Obligations.SortResults : Prop :=
  Sys2Proof.Claim.SortResults ∧ Sys2Proof.Claim.RankResults

/-- R168, R178, R179: VCHKO tags a tile that is in order as a run and delivers all ones, or clears its order words and delivers the
first position out of order; VMOT delivers order words from ESTART on; VMTO writes one legal order word. That it writes it at VL = 0 too is
the model's reading of R131 against R179: log 82. -/
def Sys2Proof.Claim.OrderWordResults : Prop :=
  ∀ (a b : BitVec 7) (p : BitVec 2) (y : BitVec 1) (s : State), Ready s →
    let c := s.hart.cfg
    let q4 := sparseGet [] s.hart.queues 4
    let row (t : Nat) : Nat := c.vwb.toNat + a.toNat + t
    let outOfOrder (j : Nat) : Prop :=
      1 ≤ j ∧ j < c.count ∧ prec (ktOf c.et) (y == 1) (elemOf s a c.width j) (elemOf s a c.width (j - 1)) = true
    let checked (x : Word) (word : Nat → BitVec 32) : Prop :=
      ∃ t, exec (.vchko a p y) s = .next t ∧ sparseGet [] t.hart.queues 4 = q4 ++ [x] ∧
        OnlyRows (tileRows s a c.rcN) s { t with hart := { t.hart with queues := s.hart.queues } } ∧
        t.hart.vec.rows = s.hart.vec.rows ∧ ∀ r < c.rcN, orderOf t.hart.vec (row r) = word r
    (PlainTile s a → (p ≠ 0 → RowsIn s (a.toNat + c.rcN) c.rcN) → isKeyType c.et = true → 0 < c.vlN → 1 ≤ c.rcN →
      q4.length < 8 →
      ((∀ j, ¬outOfOrder j) →
        checked (BitVec.allOnes 64) fun r => orderWord (y == 1) (ktOf c.et) p.toNat (r != 0) c.vlN) ∧
      (∀ j, outOfOrder j → (∀ i < j, ¬outOfOrder i) → checked (BitVec.ofNat 64 j) fun _ => 0)) ∧
    (RowsIn s a.toNat c.rcN → c.est < c.rcN → q4.length + c.rcN ≤ 8 + c.est →
      exec (.vmot a) s = retiredWith s (encVmot a).toWord 0 .none .none fun h => { h with
        queues := sparsePut [] h.queues 4
          (q4 ++ ((List.range c.rcN).drop c.est).map fun t => (orderOf s.hart.vec (row t)).zeroExtend 64) }) ∧
    (RowsIn s a.toNat 1 → Unbound s a.toNat → scalarOk s.hart b = true → s.hart.trap.priv = 2 →
      orderLegal (scalarVal s.hart b) = true →
      exec (.vmto a b) s = retiredWith s (encVmto a b).toWord 0 .none (.scalar b) fun h => { h with
        vec := { h.vec with order := sparsePut 0 h.vec.order (row 0) ((scalarVal s.hart b).truncate 32) } })

/-- R175–R177: VMERGES takes up to VL elements from two bound sorted inputs whose buffers hold them, in order, appends them to the
bound output, which has room for them, moves the three positions, and delivers the number taken. -/
def Sys2Proof.Claim.StreamMergeResults : Prop :=
  ∀ (d a b : BitVec 7) (ia ib io : Nat) (sa sb sd : Stream) (s : State), Ready s →
    let c := s.hart.cfg
    let desc := recDesc sa.record
    let before := prec (ktOf c.et) desc
    let left (st : Stream) : Nat := recN st.record - st.pos
    let k := Nat.min c.vlN (left sa + left sb)
    let input (n : BitVec 7) (i : Nat) (st : Stream) : Prop :=
      streamAt s.hart.vec (c.vwb.toNat + n.toNat) = some (i, st) ∧ RowsIn s n.toNat c.rcN ∧ st.out = false ∧ st.bad = false ∧ st.pos ≤ recN st.record ∧
      recSorted st.record = true ∧ recKt st.record = ktOf c.et ∧ recDesc st.record = desc ∧ recType st.record = c.et ∧
      Nat.min c.vlN (left st) ≤ st.buffer.length ∧
      ((st.lastKey.toList ++ st.buffer).map BitVec.toNat).Pairwise fun x y => before y x = false
    isKeyType c.et = true → 1 ≤ c.rcN → a ≠ b → ia ≠ ib → ia ≠ io → ib ≠ io → input a ia sa → input b ib sb →
    streamAt s.hart.vec (c.vwb.toNat + d.toNat) = some (io, sd) → RowsIn s d.toNat c.rcN → sd.out = true →
    recType sd.record = c.et → sd.fault = none → sd.bad = false → sd.pos + k ≤ recN sd.record →
    sd.buffer.length + k ≤ streamRoom s.myCore sd →
    (sparseGet [] s.hart.queues 4).length < 8 →
    ∃ t xs na nb, exec (.vmerges d a b) s = .next t ∧ na + nb = k ∧
      xs.Perm (sa.buffer.take na ++ sb.buffer.take nb) ∧ (xs.map BitVec.toNat).Pairwise (fun x y => before y x = false) ∧
      sparseGet none t.hart.vec.streams io = some { sd with pos := sd.pos + k, buffer := sd.buffer ++ xs } ∧
      (sparseGet none t.hart.vec.streams ia).map Stream.pos = some (sa.pos + na) ∧
      (sparseGet none t.hart.vec.streams ib).map Stream.pos = some (sb.pos + nb) ∧
      sparseGet [] t.hart.queues 4 = sparseGet [] s.hart.queues 4 ++ [BitVec.ofNat 64 k] ∧
      t.hart.vec.rows = s.hart.vec.rows ∧ t.hart.vq = [] ∧ t.hart.trap = s.hart.trap

/-- R168, R175–R179: order words, and the merge of two streams. VMTO at VL = 0 is the model's reading: log 82. -/
def Obligations.OrderWordResults : Prop :=
  Sys2Proof.Claim.OrderWordResults ∧ Sys2Proof.Claim.StreamMergeResults

namespace Sys2Proof.Machine

/-- A request that MSHAPE accepts (R217). -/
def ShapeLegal (a b : Nat) : Prop :=
  let fb := bitsOf b 3 0
  bitsOf a 63 26 = 0 ∧ bitsOf b 63 16 = 0 ∧ bitsOf b 11 8 = 0 ∧ 5 ≤ fb ∧ fb ≤ 11 ∧
    (10 ≤ fb → bitOf b 4 = true) ∧ (fb < 8 → bitOf b 4 = false)

/-- The largest K' that the scale registers from `base` on admit (R217). -/
def GrantIs (scaled : Bool) (base rows k k' : Nat) : Prop :=
  let fits (x : Nat) : Prop := x ≤ k ∧ (x = k ∨ x % 32 = 0) ∧ base + (rows * ((x + 31) / 32) + 255) / 256 ≤ 8
  if scaled then fits k' ∧ ∀ x, fits x → x ≤ k' else k' = k

/-- A shape that MSHAPE can have granted (R217). -/
def ShapeOk (w : Word) : Prop := w.getLsbD 31 = true ∧ bitsOf w.toNat 7 0 < 128 ∧ bitsOf w.toNat 15 8 < 128 ∧ bitsOf w.toNat 25 16 < 512

/-- The guard that the entry names is set, and a shape is granted (R215, R216). -/
def GuardOn (s : State) : Prop := guardOf s.hart.vec s.hart.cfg.gsel.toNat = true ∧ ShapeOk s.hart.sys.mshp

/-- A name of a tile is inside the allotment (R31). -/
def TileOk (s : State) (n : Nat) : Prop := n < s.hart.sys.tilesN.toNat

/-- What an entry that writes one tile leaves: of the vector-side registers only elements of tile d change, and of those
only the ones inside the granted shape (R221, R225). -/
def OnlyTile (s t : State) (d : Nat) (fl : Flags) : Prop :=
  OnlyVec s t fl ∧ t.hart.vec = { s.hart.vec with tiles := t.hart.vec.tiles, strips := [], outs := [] } ∧
    ∀ x m n, m < 128 → n < 128 → x ≠ d ∨ (shapeOf s.hart.sys).mg ≤ m ∨ (shapeOf s.hart.sys).ng ≤ n →
      tileAt t.hart.vec x m n = tileAt s.hart.vec x m n

/-- The instruction retires in one step, element (m, n) of tile d is `f m n` inside the granted shape, and FFLAGS takes the flags of these
elements. -/
def WroteShape (s : State) (d : Nat) (f : Nat → Nat → Rounded) (r : Host.Outcome State Fault Refusal) : Prop :=
  let sh := shapeOf s.hart.sys
  ∃ t, r = .next t ∧ OnlyTile s t d (flagsOver (sh.mg * sh.ng) (fun _ => true) fun k => (f (k / sh.ng) (k % sh.ng)).2) ∧
    ∀ m < sh.mg, ∀ n < sh.ng, tileAt t.hart.vec d m n = (f m n).1 % 2 ^ 32

/-- The element at a flat index of a matrix operand in rows (R219). -/
def flatAt (s : State) (n : BitVec 7) (fmt i : Nat) : Nat :=
  tileElem s.hart.vec s.hart.cfg.vwb.toNat n.toNat (i / vlmax fmt) (i % vlmax fmt) (widthOf fmt)

/-- The rows of a matrix operand of `count` elements are plain (R219). -/
def FlatOk (s : State) (n : BitVec 7) (fmt count : Nat) : Prop :=
  PlainRows s n.toNat (Nat.max 1 ((count + vlmax fmt - 1) / vlmax fmt))

/-- One output of a product with its flags: the accumulation of R94 over the K-groups, with the K-mask of R221; a group with no used
position raises none (R19). -/
def productAt (s : State) (d size : Nat) (m : BitVec 1) (A : Nat → Nat → Nat → Ex × Int) (B : Nat → Nat → Ex × Int)
    (i j : Nat) : Rounded :=
  let p := predOf s.hart.vec s.hart.cfg.psel.toNat
  accumulate (tileAt s.hart.vec d i j)
    ((kGroups (shapeOf s.hart.sys).kg size m p).map fun g => g.map fun x => (A i x.1 x.2, B x.1 j))

/-- A format of A that the scale bit and the K-mask allow (R220, R221). -/
def FormatAOk (fa : Nat) (sa : Bool) (m : BitVec 1) : Prop :=
  5 ≤ fa ∧ fa ≤ 11 ∧ (10 ≤ fa → sa = true) ∧ (fa < 8 → sa = false) ∧ ¬(m = 1 ∧ sa = true)

end Sys2Proof.Machine

/-- R217, R218, R227: MSHAPE grants the shape, latches it with the formats and delivers it, or raises MATF with XVAL = B; MMODE sets
the matrix vector length at dispatch; GTEST and GSET write one guard. -/
def Sys2Proof.Claim.MatrixShapeResults : Prop :=
  ∀ (a b : BitVec 7) (d g : BitVec 7) (v : BitVec 2) (s : State), Ready s →
    let A := (scalarVal s.hart a).toNat
    let B := (scalarVal s.hart b).toNat
    let sa := bitOf B 12
    let sb := bitOf B 4
    let mg := Nat.min (bitsOf A 7 0 + 1) 128
    let ng := Nat.min (bitsOf A 15 8 + 1) 128
    let regs (rows k : Nat) : Nat := (rows * ((k + 31) / 32) + 255) / 256
    (scalarOk s.hart a = true → scalarOk s.hart b = true →
      (∀ k1 kg, ShapeLegal A B → GrantIs sa (bitsOf B 15 13) mg (Nat.min (bitsOf A 25 16 + 1) 512) k1 →
        GrantIs sb (bitsOf B 7 5) ng k1 kg →
        (sa = true → sb = true → bitsOf B 15 13 + regs mg kg ≤ bitsOf B 7 5 ∨ bitsOf B 7 5 + regs ng kg ≤ bitsOf B 15 13) →
        (sparseGet [] s.hart.queues 4).length < 8 →
        let w := BitVec.ofNat 64 (mg - 1 + 2 ^ 8 * (ng - 1) + 2 ^ 16 * (kg - 1) + 2 ^ 31)
        ShapeOk w ∧ exec (.mshape a b) s = retiredWith s (encMshape a b).toWord 0 (.scalar a) (.scalar b) fun h => { h with
          sys := { h.sys with mshp := w, mfmt := BitVec.ofNat 64 (B % 2 ^ 16) }
          queues := sparsePut [] h.queues 4 (sparseGet [] h.queues 4 ++ [w]) }) ∧
      (¬ShapeLegal A B → SaveAreaOk s → ∃ t, exec (.mshape a b) s = .next t ∧
        t.hart.trap.cause = 1#1 ++ Cause.matf.code ∧ t.hart.trap.xval = scalarVal s.hart b ∧
        t.hart.sys.mshp = s.hart.sys.mshp ∧ t.hart.sys.mfmt = s.hart.sys.mfmt)) ∧
    exec (.mmode v) s = .next (State.retired (State.passed { s with hart := { s.hart with
      cfg := { s.hart.cfg with mmode := v }, vq := [entryOf s (encMmode v).toWord 0 .none .none] } })) ∧
    (s.hart.sys.mshp.getLsbD 31 = true →
      exec (.gtest g d) s = retiredWith s (encGtest g d).toWord 0 .none .none fun h => { h with vec := { h.vec with
        guards := sparsePut false h.vec.guards g.toNat ((List.range (shapeOf s.hart.sys).mg).any fun i =>
          (predOf s.hart.vec d.toNat).getLsbD i) } }) ∧
    (scalarOk s.hart b = true →
      exec (.gset g b) s = retiredWith s (encGset g b).toWord 0 .none (.scalar b) fun h => { h with vec := { h.vec with
        guards := sparsePut false h.vec.guards g.toNat ((scalarVal s.hart b).getLsbD 0) } })

/-- R215: under a false guard every guarded instruction whose names are inside the allotment retires with no effect at all. -/
def Sys2Proof.Claim.FalseGuard : Prop :=
  ∀ (d a b : BitVec 7) (d5 : BitVec 5) (sf v m : BitVec 1) (x : BitVec 3) (s : State), Ready s →
    guardOf s.hart.vec s.hart.cfg.gsel.toNat = false → TileOk s d.toNat → TileOk s d5.toNat → TileOk s a.toNat →
    RowsIn s a.toNat 1 → RowsIn s b.toNat 1 → RowsIn s d.toNat 1 → scalarOk s.hart a = true → scalarOk s.hart b = true →
    scalarOk s.hart (a + 1) = true → scalarOk s.hart (b + 1) = true →
    let nothing (w : RWord) (ca cb : Cap) (i : Instr) : Prop := exec i s = retiredWith s w.toWord 0 ca cb fun h => h
    nothing (encTmma 0 d5 a b m) .none .none (.tmma 0 d5 a b m) ∧
    nothing (encTmma 1 d5 a b m) .none .none (.tmma 1 d5 a b m) ∧
    nothing (encTmmap d a b m) (.pair a) (.pair b) (.tmmap d a b m) ∧ nothing (encTzero d) .none .none (.tzero d) ∧
    nothing (encTld d a b) (.scalar a) (.scalar b) (.tld d a b) ∧
    nothing (encTst d a b) (.scalar a) (.scalar b) (.tst d a b) ∧
    nothing (encTldp d a b) (.scalar a) (.scalar b) (.tldp d a b) ∧
    nothing (encTstp d a b) (.scalar a) (.scalar b) (.tstp d a b) ∧
    nothing (encTcvt d a sf x) .none .none (.tcvt d a sf x) ∧
    nothing (encAsoft d a b) .none (.scalar b) (.asoft d a b) ∧ nothing (encAscale d a v) .none .none (.ascale d a v)

/-- R215, R217, R218, R227: shapes, modes and guards, and instructions under a false guard. -/
def Obligations.MatrixShapeResults : Prop :=
  Sys2Proof.Claim.MatrixShapeResults ∧ Sys2Proof.Claim.FalseGuard

/-- R219, R221–R223, R94: TMMA and TMMAP accumulate A·B into tile d over the granted shape: each output is the accumulation of its
K-groups over the operand's elements, in rows, in a tile (rounded to BF16, with no flag), or in the scratchpad. FFLAGS takes the flags of
the accumulations.
What a stream operand consumes is the model's reading: log 38. -/
def Obligations.MatrixProductResults : Prop :=
  ∀ (d : BitVec 5) (d7 a b : BitVec 7) (m : BitVec 1) (s : State), Ready s → GuardOn s → MaskOk s m →
    let c := s.hart.cfg
    let sh := shapeOf s.hart.sys
    let mf := matFmt s.hart.sys
    let p := predOf s.hart.vec c.psel.toNat
    let ka := if m = 0 then sh.kg else ((List.range sh.kg).filter fun i => p.getLsbD i).length
    let l (need : Nat) : Nat := match c.mmode.toNat with | 0 => need | 1 => 128 | 2 => 256 | _ => 512
    let bAt (k n : Nat) : Ex × Int :=
      matValue s.hart.vec mf.fb (flatAt s b mf.fb (k * l sh.ng + n)) mf.sb mf.xb (k / 32 * sh.ng + n)
    let aScale (i k : Nat) : Nat := i * ((sh.kg + 31) / 32) + k / 32
    ka ≤ l ka → sh.ng ≤ l sh.ng →
    (FlatOk s b mf.fb ((sh.kg - 1) * l sh.ng + sh.ng) → TileOk s d.toNat →
      (FormatAOk c.et mf.sa m → FlatOk s a c.et (if ka = 0 then 0 else (sh.mg - 1) * l ka + ka) →
        WroteShape s d.toNat (productAt s d.toNat (Nat.min (groupSize c.et mf.sa) (groupSize mf.fb mf.sb)) m
          (fun i k col => matValue s.hart.vec c.et (flatAt s a c.et (i * l ka + col)) mf.sa mf.xa (aScale i k)) bAt)
          (exec (.tmma 0 d a b m) s)) ∧
      (TileOk s a.toNat → sh.kg ≤ 128 → a.toNat ≠ d.toNat →
        WroteShape s d.toNat (productAt s d.toNat (Nat.min 2 (groupSize mf.fb mf.sb)) m
          (fun i _ col => (bf16.value (bf16.rnd 0 0 false (v32 (tileAt s.hart.vec a.toNat i col))).1, 0)) bAt)
          (exec (.tmma 1 d a b m) s))) ∧
    (let q := s.queued (entryOf s (encTmmap d7 a b m).toWord 0 (.pair a) (.pair b) true)
      let x := (scalarVal s.hart a).toNat
      let y := (scalarVal s.hart (a + 1)).toNat
      let u := (scalarVal s.hart b).toNat
      let v := (scalarVal s.hart (b + 1)).toNat
      let addr (lo hi fmt i j : Nat) : Word := BitVec.ofNat 64 (bitsOf lo 23 0 + i / 128 * bitsOf hi 31 0 +
        i % 128 * bitsOf lo 39 24 + 256 * (i * bitsOf hi 33 32 % 8) + (if widthOf fmt = 4 then j / 2 else j * (widthOf fmt / 8)))
      let at' (fmt j : Nat) (r : Nat × Nat) : Nat :=
        elemPart (widthOf fmt) j (q.spNat r.1 r.2 (elemBytes (widthOf fmt)))
      ∀ P Q : Nat → Nat → Nat × Nat, CapOk s.hart (.pair a) → CapOk s.hart (.pair b) → TileOk s d7.toNat →
        FormatAOk c.et mf.sa m → Unlocked q →
        bitsOf x 63 40 = 0 → bitsOf x 27 24 = 0 → bitsOf y 63 34 = 0 → bitsOf y 7 0 = 0 →
        bitsOf u 63 40 = 0 → bitsOf u 27 24 = 0 → bitsOf v 63 34 = 0 → bitsOf v 7 0 = 0 →
        (∀ i < sh.mg, ∀ j < ka, SpRead q (addr x y c.et i j) (elemBytes (widthOf c.et)) (P i j)) →
        (∀ k < sh.kg, (m = 0 ∨ p.getLsbD k = true) → ∀ n < sh.ng,
          SpRead q (addr u v mf.fb k n) (elemBytes (widthOf mf.fb)) (Q k n)) →
        WroteShape s d7.toNat (productAt s d7.toNat (Nat.min (groupSize c.et mf.sa) (groupSize mf.fb mf.sb)) m
          (fun i k col => matValue s.hart.vec c.et (at' c.et col (P i col)) mf.sa mf.xa (aScale i k))
          (fun k n => matValue s.hart.vec mf.fb (at' mf.fb n (Q k n)) mf.sb mf.xb (k / 32 * sh.ng + n)))
          (exec (.tmmap d7 a b m) s))

/-- R225, R226: TZERO zeroes a whole tile; TLD and TLDP read, TST and TSTP write, element f from ESTART on at A + m·B + 4n; TCVT
writes the region to rows, unchanged for FP32, rounded once for FP16 and BF16, and block-quantised for types 8 to 11, with the scale entries of
its blocks from register x on. FFLAGS takes the flags of the roundings. -/
def Obligations.TileMoveResults : Prop :=
  ∀ (d a b : BitVec 7) (sf : BitVec 1) (x : BitVec 3) (s : State), Ready s → GuardOn s → scalarOk s.hart a = true →
    scalarOk s.hart b = true →
    let c := s.hart.cfg
    let sh := shapeOf s.hart.sys
    let count := sh.mg * sh.ng
    let at' (f : Nat) : Word := scalarVal s.hart a + scalarVal s.hart b * BitVec.ofNat 64 (f / sh.ng) +
      BitVec.ofNat 64 (4 * (f % sh.ng))
    let q (w : RWord) : State := s.queued (entryOf s w.toWord 0 (.scalar a) (.scalar b))
    let el (f : Nat) : Nat := tileAt s.hart.vec d.toNat (f / sh.ng) (f % sh.ng)
    let act (f : Nat) : Prop := f < count ∧ c.est ≤ f
    let others (t : State) : Prop :=
      ∀ i, count ≤ i → i < Nat.max 1 ((count + vlmax c.et - 1) / vlmax c.et) * vlmax c.et →
        flatAt { s with hart := { s.hart with vec := t.hart.vec } } d c.et i = flatAt s d c.et i
    let written (t : State) (f : Nat) : Nat := flatAt { s with hart := { s.hart with vec := t.hart.vec } } d c.et f
    let loads (w : RWord) (i : Instr) (x : Nat → Nat) : Prop := Unlocked (q w) → WroteShape s d.toNat
      (fun m n => (if c.est ≤ m * sh.ng + n then x (m * sh.ng + n) else tileAt s.hart.vec d.toNat m n, 0)) (exec i s)
    let stores (w : RWord) (i : Instr) (put : Nat → State → State) : Prop := Unlocked (q w) →
      exec i s = .next (State.retired (storedElems count (fun f => decide (c.est ≤ f)) put (q w)))
    (TileOk s d.toNat →
      (∃ t, exec (.tzero d) s = .next t ∧ OnlyVec s t ∧
        t.hart.vec = { s.hart.vec with tiles := t.hart.vec.tiles, strips := [], outs := [] } ∧
        ∀ y m n, m < 128 → n < 128 → tileAt t.hart.vec y m n = if y = d.toNat then 0 else tileAt s.hart.vec y m n) ∧
      (∀ P : Nat → Nat, (∀ f, act f → MemRead (q (encTld d a b)) .other (at' f) 4 (P f)) →
        loads (encTld d a b) (.tld d a b) fun f => (q (encTld d a b)).memNat (P f) 4) ∧
      (∀ P : Nat → Nat × Nat, (∀ f, act f → SpRead (q (encTldp d a b)) (at' f) 4 (P f)) →
        loads (encTldp d a b) (.tldp d a b) fun f => (q (encTldp d a b)).spNat (P f).1 (P f).2 4) ∧
      (∀ P : Nat → Nat, (∀ f, act f → MemWrite (q (encTst d a b)) .other (at' f) 4 (P f)) →
        stores (encTst d a b) (.tst d a b) fun f u => u.putNat (P f) 4 (el f)) ∧
      (∀ P : Nat → Nat × Nat, (∀ f, act f → SpWrite (q (encTstp d a b)) (at' f) 4 (P f)) →
        stores (encTstp d a b) (.tstp d a b) fun f u => u.putSp (P f).1 (P f).2 4 (el f))) ∧
    (TileOk s a.toNat → FlatOk s d c.et count → 5 ≤ c.et → c.et < 8 →
      ∃ t fl, exec (.tcvt d a sf x) s = .next t ∧
        OnlyRows (tileRows s d (Nat.max 1 ((count + vlmax c.et - 1) / vlmax c.et))) s t fl ∧
        (let y (f : Nat) : Nat := tileAt s.hart.vec a.toNat (f / sh.ng) (f % sh.ng)
         let r (f : Nat) : Rounded := if c.et = 5 then (y f, 0) else (fmtOf c.et).rnd c.frm.toNat 0 (sf == 1) (v32 (y f))
         c.frm ≠ 4 ∨ c.et = 5 → fl = flagsOver count (fun _ => true) (fun f => (r f).2) ∧ ∀ f < count, written t f = (r f).1) ∧
        others t) ∧
    (TileOk s a.toNat → FlatOk s d c.et count → 8 ≤ c.et → c.et < 12 →
      sh.mg * ((sh.ng + 31) / 32) ≤ (8 - x.toNat) * 256 →
      ∃ t fl, exec (.tcvt d a sf x) s = .next t ∧ OnlyVec s t fl ∧
        OnlyRowsOf (tileRows s d (Nat.max 1 ((count + vlmax c.et - 1) / vlmax c.et))) s
          { t with hart := { t.hart with vec := { t.hart.vec with scales := s.hart.vec.scales } } } ∧
        (let per := (sh.ng + 31) / 32
         let block (e : Nat) : List Nat := (List.range' (32 * (e % per)) (Nat.min 32 (sh.ng - 32 * (e % per)))).map fun n =>
          tileAt s.hart.vec a.toNat (e / per) n
         let r (f : Nat) : Rounded := quantised c (block (f / sh.ng * per + f % sh.ng / 32))
          (tileAt s.hart.vec a.toNat (f / sh.ng) (f % sh.ng))
         (∀ e < sh.mg * per, ScaleIs c (block e) (scaleAt t.hart.vec (x.toNat + e / 256) (e % 256))) ∧
         (∀ y e, y < 8 → e < 256 → y < x.toNat ∨ sh.mg * per ≤ (y - x.toNat) * 256 + e →
          scaleAt t.hart.vec y e = scaleAt s.hart.vec y e) ∧
         (c.frm ≠ 4 → (∀ f < count, written t f = (r f).1) ∧
          fl = flagsOver (sh.mg * per) (fun _ => true) (fun e => (specialByte c (block e)).2) |||
            flagsOver count (fun _ => true) (fun f => (r f).2))) ∧ others t)

/-- R228–R230: AMASK latches its words, writes the predicate of the query rows that see a key, and sets the guard; ASOFT writes the
probabilities into the score tile, +0 at masked positions, and the new maximum, sum and factor into three rows, a row that sees no key
keeping its maximum and sum with the factor 1.0; ASCALE multiplies by, or divides by, the row's factor, a row to be divided by zero taking
+0. FFLAGS takes the flags of the operations, of ASOFT's those of rows that see a key. Other tiles, elements, rows and positions keep their
contents. That the old and the new maximum are compared by value, so that −0 and +0 are one, is the model's reading of R229: log 39. -/
def Obligations.AttentionResults : Prop :=
  ∀ (d a b : BitVec 7) (v : BitVec 1) (s : State), Ready s → s.hart.sys.mshp.getLsbD 31 = true →
    let c := s.hart.cfg
    let sh := shapeOf s.hart.sys
    let A := scalarVal s.hart a
    let B := scalarVal s.hart b
    let cols (m : Nat) : List Nat :=
      (List.range sh.ng).filter fun n => visible s.hart.sys.mgen.toNat s.hart.sys.mgpos.toNat m n
    let at' (t : State) (n r m : Nat) : Nat := tileElem t.hart.vec c.vwb.toNat n r m 32
    let op (r : Ex × Flags) : Rounded := ((rne r.1).1, r.2 ||| (rne r.1).2)
    let scaled (m n : Nat) : Rounded := op ((v32 (B.toNat % 2 ^ 32)).mul (v32 (tileAt s.hart.vec a.toNat m n)))
    let less (x y : Nat) : Rounded :=
      let z := op ((v32 x).add 0 (v32 y).negate)
      ((ex2 z.1).1, z.2 ||| (ex2 z.1).2)
    let largest (m : Nat) : Rounded := (cols m).foldl (fun r n =>
      let y := fp32.pick true r.1 (scaled m n).1
      (y.1, r.2 ||| y.2)) (at' s d.toNat 0 m, 0)
    let newMax (m : Nat) : Nat := (largest m).1 % 2 ^ 32
    let prob (m n : Nat) : Rounded :=
      if n ∈ cols m then
        let y := less (scaled m n).1 (newMax m)
        ((bf16.rnd 0 0 false (v32 y.1)).1 * 65536, y.2 ||| (bf16.rnd 0 0 false (v32 y.1)).2)
      else (0, 0)
    let factor (m : Nat) : Rounded :=
      if (fp32.eqVal (at' s d.toNat 0 m) (newMax m)).1 = true then (0x3F800000, 0) else less (at' s d.toNat 0 m) (newMax m)
    (scalarOk s.hart a = true → scalarOk s.hart b = true → bitsOf B.toNat 63 60 = 0 →
      ∃ t p, exec (.amask d a b) s = .next t ∧
        (∀ i < 1024, p.getLsbD i = (decide (i < sh.mg) && (List.range sh.ng).any fun n => visible A.toNat B.toNat i n)) ∧
        t.hart.sys = { s.hart.sys with mgen := A, mgpos := B } ∧
        t.hart.vec = { s.hart.vec with
          preds := sparsePut 0 s.hart.vec.preds d.toNat p
          guards := sparsePut false s.hart.vec.guards c.gsel.toNat (p != 0)
          strips := []
          outs := [] } ∧
        t.hart.vq = [] ∧ t.hart.trap = s.hart.trap) ∧
    (GuardOn s → TileOk s a.toNat → scalarOk s.hart b = true → PlainRows s d.toNat 3 →
      ∃ (t : State) (sum : Nat → Rounded), exec (.asoft d a b) s = .next t ∧
        (let old (m : Nat) : Rounded := op ((v32 (factor m).1).mul (v32 (at' s d.toNat 1 m)))
         let new (m : Nat) : Rounded := op ((v32 (old m).1).add 0 (v32 (sum m).1))
         OnlyVec s t (flagsOver sh.mg (fun m => !(cols m).isEmpty) fun m =>
          flagsOver sh.ng (fun n => decide (n ∈ cols m)) (fun n => (scaled m n).2 ||| (prob m n).2) |||
            ((largest m).2 ||| (factor m).2 ||| (sum m).2 ||| (old m).2 ||| (new m).2)) ∧
          ∀ m < sh.mg, cols m ≠ [] → at' t d.toNat 2 m = (factor m).1 ∧
            Reduces (fp32.sum 0) ((List.range sh.ng).map fun n => (prob m n).1) (sum m).1 (sum m).2 ∧ at' t d.toNat 1 m = (new m).1) ∧
        OnlyRowsOf (tileRows s d 3) s { t with hart := { t.hart with vec := { t.hart.vec with tiles := s.hart.vec.tiles } } } ∧
        (∀ x m n, m < 128 → n < 128 → x ≠ a.toNat ∨ sh.mg ≤ m ∨ sh.ng ≤ n →
          tileAt t.hart.vec x m n = tileAt s.hart.vec x m n) ∧
        (∀ m < sh.mg,
          (∀ n < sh.ng, tileAt t.hart.vec a.toNat m n = (prob m n).1) ∧
          at' t d.toNat 0 m = newMax m ∧
          (cols m = [] → at' t d.toNat 1 m = at' s d.toNat 1 m ∧ at' t d.toNat 2 m = 0x3F800000)) ∧
        ∀ r < 3, (∀ m, sh.mg ≤ m → m < 1024 → at' t d.toNat r m = at' s d.toNat r m) ∧
          let row := c.vwb.toNat + d.toNat + r
          sparseGet 0 t.hart.vec.order row = 0 ∧ sparseGet false t.hart.vec.dirty row = true ∧
          sparseGet 0 t.hart.vec.high row = Nat.max (sparseGet 0 s.hart.vec.high row) (4 * sh.mg)) ∧
    (GuardOn s → TileOk s d.toNat → PlainRows s a.toNat 1 →
      WroteShape s d.toNat (fun m n =>
        let o := v32 (tileAt s.hart.vec d.toNat m n)
        let x := v32 (at' s a.toNat 0 m)
        if v = 1 then if x.isZero = true then (0, 0) else op (o.div x) else op (o.mul x)) (exec (.ascale d a v) s))

namespace Sys2Proof.Machine

/-- The vector registers with slot n of the bindings replaced. -/
def withSlot (h : Hart) (n : Nat) (st : Option Stream) : Hart :=
  { h with vec := { h.vec with streams := sparsePut none h.vec.streams n st } }

/-- The hart with one value appended to q4 (R28). -/
def sentQ4 (h : Hart) (x : Word) : Hart :=
  { h with queues := sparsePut [] h.queues 4 (sparseGet [] h.queues 4 ++ [x]) }

/-- The core of the hart in focus, replaced. -/
def State.withCore (s : State) (f : Core → Core) : State := s.setCore (coreOf s.id) (f s.myCore)

/-- The physical addresses of the elements of a transfer between two plain global records, read and written in order with
translation off (R242). -/
def movedElems (src dst : List (BitVec 32)) (z k n : Nat) (s : State) : State :=
  (List.range n).foldl (fun u i =>
    u.putNat (recAddr dst (k + i)).toNat z (u.memNat (recAddr src (k + i)).toNat z)) s

end Sys2Proof.Machine

/-- R232–R239: SBIND puts a binding at the first element into the lowest free slot; SUNBIND removes one; SSTAT delivers its word; SADV
moves an input on; SFLUSH discards an input's buffer; an unbound row raises STRF with reason 3. An output is flushed here with
nothing held; STREAM_OUTPUT_WRITE performs one held element and STREAM_REFILL fetches one ahead.
When buffers fetch and write is the model's choice: log 32; that raising a fault clears it, log 33. -/
def Sys2Proof.Claim.StreamResults : Prop :=
  ∀ (d a b : BitVec 7) (o : BitVec 1) (slot : BitVec 3) (s : State),
    let c := s.hart.cfg
    let v := s.hart.vec
    let row (n : BitVec 7) : Nat := c.vwb.toNat + n.toNat
    let is (i : Instr) (w : RWord) (cb : Cap) (f : Hart → Hart) : Prop := exec i s = retiredWith s w.toWord 0 .none cb f
    let quiet (st : Stream) : Prop := st.out = false ∨ (st.buffer = [] ∧ st.fault = none ∧ st.bad = false)
    (Ready s → PlainRows s d.toNat 1 → PlainRows s a.toNat 1 → bindBad (rowRecordOf s a) = none →
      ∀ i < 8, sparseGet none v.streams i = none → (∀ k < i, sparseGet none v.streams k ≠ none) →
      is (.sbind d a o) (encSbind d a o) .none fun h => withSlot { h with vec := { h.vec with
        order := sparsePut 0 h.vec.order (row d) 0 } } i
          (some ⟨BitVec.ofNat 7 (row d), rowRecordOf s a, o == 1, 0, none, [], none, false⟩)) ∧
    (Ready s → RowsIn s a.toNat 1 → (sparseGet [] s.hart.queues 4).length < 8 →
      (Unbound s a.toNat → is (.sstat a) (encSstat a) .none fun h => sentQ4 h 0) ∧
      ∀ i st, streamAt v (row a) = some (i, st) → is (.sstat a) (encSstat a) .none fun h =>
        sentQ4 h (BitVec.ofNat 64 (st.pos % 2 ^ 32 + 2 ^ 32 * i + 2 ^ 35 + 2 ^ 36 * st.out.toNat +
          2 ^ 37 * (!st.out && st.pos == recN st.record).toNat + 2 ^ 38 * st.fault.isSome.toNat))) ∧
    (∀ i st, Ready s → RowsIn s a.toNat 1 → streamAt v (row a) = some (i, st) →
      (quiet st → is (.sunbind a) (encSunbind a) .none fun h => withSlot h i none) ∧
      (st.out = false → is (.sflush a) (encSflush a) .none fun h =>
        withSlot h i (some { st with buffer := [], fault := none, bad := false })) ∧
      (st.out = true → quiet st → is (.sflush a) (encSflush a) .none fun h => h) ∧
      (st.out = false → scalarOk s.hart b = true →
        let p := Nat.min (st.pos + (scalarVal s.hart b).toNat) (recN st.record)
        is (.sadv a b) (encSadv a b) (.scalar b) fun h => withSlot h i (some { st with
          pos := p
          buffer := st.buffer.drop (p - st.pos)
          lastKey := none
          bad := st.bad && decide (p - st.pos < st.buffer.length)
          fault := match st.fault with | some f => if f.idx < p then none else some f | none => none }))) ∧
    (Ready s → RowsIn s a.toNat 1 → Unbound s a.toNat → SaveAreaOk s → ∃ t, exec (.sunbind a) s = .next t ∧
      t.hart.trap.cause = 1#1 ++ Cause.strf.code ∧ t.hart.trap.xval = BitVec.ofNat 64 (a.toNat + 768) ∧
      t.hart.vec.streams = v.streams) ∧
    (∀ st x, sparseGet none v.streams slot.toNat = some st → st.out = false → st.fault = none →
      st.pos + st.buffer.length < recN st.record → st.buffer.length < streamRoom s.myCore st →
      (recRead st.record (st.pos + st.buffer.length)).exec s = (.ok x, s) →
      exec (.streamRefill slot) s = .next { s with
        hart := withSlot s.hart slot.toNat (some { st with buffer := st.buffer ++ [BitVec.ofNat 32 x] }) }) ∧
    (∀ st x xs u, sparseGet none v.streams slot.toNat = some st → st.out = true → st.fault = none → st.bad = false → st.buffer = x :: xs →
      (recWrite st.record (st.pos - st.buffer.length) x.toNat).exec s = (.ok (), u) →
      exec (.streamOutputWrite slot) s = .next { u with
        hart := withSlot u.hart slot.toNat (some { st with buffer := xs }) })

/-- R195: an instruction that names a bound input row takes the next RC·VL elements as its operand, in flat order, and the
binding's position moves on by as many (VADD, with the elements in the buffer). -/
def Sys2Proof.Claim.StripConsumed : Prop :=
  ∀ (d a : BitVec 7) (k : BitVec 7) (slot : Nat) (st : Stream) (s : State), TilesOk s 0 [d] (.vi k) → s.hart.cfg.et < 5 →
    let c := s.hart.cfg
    RowsIn s a.toNat c.rcN → streamAt s.hart.vec (c.vwb.toNat + a.toNat) = some (slot, st) → st.out = false →
    st.fault = none → st.bad = false → recType st.record = c.et → c.count ≤ st.buffer.length → st.pos + c.count ≤ recN st.record → c.est = 0 →
    ∃ t, exec (.vadd d a (.vi k) 0) s = .next t ∧ t.hart.vq = [] ∧ t.hart.trap = s.hart.trap ∧
      sparseGet none t.hart.vec.streams slot =
        some { st with pos := st.pos + c.count, buffer := st.buffer.drop c.count } ∧
      ∀ j < c.count, t.hart.vec.elW c d c.width j = ((st.buffer.getD j 0).toNat + immPattern c.et k) % 2 ^ c.width

/-- R195, R232–R239: stream bindings and the strips that they give. -/
def Obligations.StreamResults : Prop :=
  Sys2Proof.Claim.StreamResults ∧ Sys2Proof.Claim.StripConsumed

/-- R242, R243, R198, R199: COPY and COPYG, their records, patch list and completion accepted, take the lowest idle channel, which
runs from element START on, and an interlock entry. -/
def Sys2Proof.Claim.CopyIssue : Prop :=
  ∀ (d a b : BitVec 7) (k : Completion) (ch : Nat) (s : State), Ready s → CapOk s.hart (.pair b) →
    PlainRows s d.toNat 1 → PlainRows s a.toNat 1 →
    let B := scalarVal s.hart b
    let src := rowRecordOf s a
    let dst := rowRecordOf s d
    let ws := (List.range 1024).map fun i =>
      BitVec.ofNat 32 (rowElem s.hart.vec (s.hart.cfg.vwb.toNat + (a.toNat + 1)) i 32)
    recBad none src = none → recBad none dst = none → recType src = recType dst →
    ch < 4 → (sparseGet Channel.idle s.myCore.chans ch).st = .idle →
    (∀ i < ch, (sparseGet Channel.idle s.myCore.chans i).st ≠ .idle) → s.myCore.locks.length < 16 →
    s.myCore.fenced = false →
    let issued (i : Instr) (w : RWord) (patches : Option (List (BitVec 32))) : Prop :=
      let q := s.queued (entryOf s w.toWord 0 .none (.pair b))
      Unlocked q → (needCompletion (B, scalarVal s.hart (b + 1)) b false).exec q = (.ok k, q) →
      (needCompletionRing b k).exec q = (.ok (), q) →
      exec i s = .next (State.retired (q.withCore fun x => { x with
        chans := sparsePut Channel.idle x.chans ch ⟨.running, BitVec.ofNat 2 (s.id % 4), src, dst, patches, k,
          bitsOf B.toNat 31 8, none, 0, s.hart.fetch.pc, s.hart.trap.priv, false⟩
        locks := x.locks ++ [⟨s.id, false, ch, recScratch src, (recGranules s src).1, (recGranules s src).2,
          recScratch dst, (recGranules s dst).1, (recGranules s dst).2⟩] }))
    (recN src = recN dst → issued (.copy d a b) (encCopy d a b) none) ∧
    (PlainRows s a.toNat 2 → recRank src = 3 → recRank dst = 1 →
      (checkPatches src dst ws).exec s = (.ok (), s) →
      issued (.copyg d a b) (encCopyg d a b) (some (ws.take (1 + 2 * patchCount ws))))

/-- R200, R201, R242: a transfer of the hart in focus between global records, with translation off, moves its elements in rising
order and frees its channel and its interlock entry; a misaligned element stops it with an ENGF pending for the hart. ENGF
takes the oldest pending one in the vector stream. -/
def Sys2Proof.Claim.CopyRuns : Prop :=
  ∀ (ch : BitVec 2) (s : State),
    let n := ch.toNat
    let x := sparseGet Channel.idle s.myCore.chans n
    let z := widthOf (recType x.src) / 8
    let ok (a : Word) : Prop := a.toNat % z = 0 ∧ a.toNat + z ≤ 2 ^ 52 ∧ absent s (pkgOf s.id) a.toNat = false ∧
      isControlWindow a.toNat = false ∧ fencedAt s a.toNat = false ∧ Clean s a.toNat z
    let channel (t : State) : Channel := sparseGet Channel.idle t.myCore.chans n
    (x.st = .running → x.held = 0 → x.orphan = false → x.owner.toNat = s.id % 4 → x.patches = none → x.priv = 2 → s.myDie.ptEn = 0 →
      s.hart.unanswered = none → recScratch x.src = false → recScratch x.dst = false → recType x.dst = recType x.src →
      recType x.src ≠ 10 → x.k ≤ recN x.src →
      (x.comp.kind = 0 → (∀ k, x.k ≤ k → k < recN x.src → ok (recAddr x.src k) ∧ ok (recAddr x.dst k)) →
        ∃ t, exec (.copyCompletion ch) s = .next t ∧
          t.mem = (movedElems x.src x.dst z x.k (recN x.src - x.k) s).mem ∧
          channel t = Channel.idle ∧ t.myCore.locks = s.myCore.locks.filter (fun l => l.coll || l.unit != n) ∧
          t.hart = s.hart ∧ t.id = s.id) ∧
      (x.comp.kind ≠ 2 → x.k < recN x.src → (recAddr x.src x.k).toNat % z ≠ 0 →
        ∃ t, exec (.copyCompletion ch) s = .next t ∧ t.mem = s.mem ∧
          channel t = { x with st := .faulted, fault := some ⟨x.k, .align, recAddr x.src x.k⟩ } ∧
          t.hart = { s.hart with pendEngf := s.hart.pendEngf ++ [BitVec.ofNat 64 n] } ∧
          t.myCore.locks = s.myCore.locks)) ∧
    (∀ v vs, s.hart.pendEngf = v :: vs →
      exec .engf s = .next (takeTrap true .engf v { s with hart := { s.hart with pendEngf := vs } }))

/-- R198–R201, R241–R244: issuing a transfer, and its completion.
That a transfer runs as a whole at COPY_COMPLETION is the model's choice: log 30, 42, 47. -/
def Obligations.CopyResults : Prop :=
  Sys2Proof.Claim.CopyIssue ∧ Sys2Proof.Claim.CopyRuns

/-- R245–R251: CRESUME restarts a faulted transfer of the hart and its abort form frees it; RINIT writes a ring header; RAWAIT
delivers the address of a filled read slot; RREL empties it and moves RD on; WAITA completes when the word at its address
meets the condition and waits otherwise; CSTAT delivers a channel's two status words. -/
def Obligations.RingAndChannelResults : Prop :=
  ∀ (a b : BitVec 7) (sf cc : BitVec 3) (s : State), Ready s → scalarOk s.hart a = true →
    scalarOk s.hart b = true →
    let A := scalarVal s.hart a
    let B := scalarVal s.hart b
    let x := sparseGet Channel.idle s.myCore.chans A.toNat
    let q (w : RWord) (cb : Cap) : State := s.queued (entryOf s w.toWord 0 (.scalar a) cb)
    let q4 := sparseGet [] s.hart.queues 4
    let mine : Prop := A.toNat < 4 ∧ x.st = .faulted ∧ x.owner.toNat = s.id % 4
    (mine → exec (.cresume a) s = .next (State.retired ((q (encCresume a) .none).withCore fun k => { k with
        chans := sparsePut Channel.idle k.chans A.toNat { x with st := .running, fault := none } })) ∧
      ∃ t, exec (.cresumeAbort a) s = .next t ∧ sparseGet Channel.idle t.myCore.chans A.toNat = Channel.idle ∧
        t.myCore.locks = s.myCore.locks.filter (fun l => l.coll || l.unit != A.toNat) ∧ t.mem = (q (encCresumeAbort a) .none).mem) ∧
    (A.toNat < 4 → q4.length + 2 ≤ 8 → s.hart.cfg.est = 0 →
      exec (.cstat a) s = retiredWith s (encCstat a).toWord 0 (.scalar a) .none fun h => sentQ4 (sentQ4 h
        (BitVec.ofNat 64 (x.st.code + 4 * x.owner.toNat + 2 ^ 8 * ((x.fault.map fun f => f.cause.code.toNat).getD 0) +
          2 ^ 32 * x.k))) ((x.fault.map ElemFault.addr).getD x.pc)) ∧
    (let cap := bitsOf B.toNat 15 0
      let slot := bitsOf B.toNat 31 16
      let u := q (encRinit a b) (.scalar b)
      ∀ c off, A.toNat % 16 = 0 → A.toNat < 2 ^ 24 → (bitOf A.toNat 23 = true ∨ bitsOf A.toNat 22 21 = coreOf s.id % 4) →
        bitsOf B.toNat 63 32 = 0 → ringSizes cap slot = true → Unlocked u →
        (spCheck A (ringBytes cap slot) true).exec u = (.ok (c, off), u) →
        exec (.rinit a b) s = .next (State.retired
          (u.putSp c off (16 + 16 * ((cap + 127) / 128)) (cap + 2 ^ 16 * slot)))) ∧
    (∀ c off r, A.toNat % 16 = 0 → (spCheck A 16 true).exec (q (encRawait a) .none) = (.ok (c, off), q (encRawait a) .none) →
      (spCheck A 16 true).exec (q (encRrel a) .none) = (.ok (c, off), q (encRrel a) .none) →
      ringHeader s c off = some r → ringFilled s c off (r.rd % r.cap) = true → Unlocked s →
      (∀ x ∈ (s.core c).spPoison, x < off ∨ off + ringBytes r.cap r.slot ≤ x) →
      (q4.length < 8 → exec (.rawait a) s = retiredWith s (encRawait a).toWord 0 (.scalar a) .none fun h =>
        sentQ4 h (A + BitVec.ofNat 64 (16 + 16 * ((r.cap + 127) / 128) + r.rd % r.cap * r.slot))) ∧
      (accessesPending s = false → exec (.rrel a) s = .next (State.retired
        ((ringMark c off (r.rd % r.cap) false (q (encRrel a) .none)).putSp c (off + 4) 4 ((r.rd + 1) % 2 ^ 32))))) ∧
    (∀ y pa, y = (q (encWaita 0 sf cc a b) (.scalar b)).memNat pa 8 → Unlocked (q (encWaita 0 sf cc a b) (.scalar b)) →
      MemRead (q (encWaita 0 sf cc a b) (.scalar b)) .other A 8 pa →
      (waitHolds cc (BitVec.ofNat 64 y) B = true → exec (.waita 0 sf cc a b) s =
        retiredWith s (encWaita 0 sf cc a b).toWord 0 (.scalar a) (.scalar b) fun h => h) ∧
      (waitHolds cc (BitVec.ofNat 64 y) B = false → ∃ t, exec (.waita 0 sf cc a b) s = .next t ∧ t.hart.vq.length = 1 ∧
        t.hart.trap = s.hart.trap ∧ t.mem = (q (encWaita 0 sf cc a b) (.scalar b)).mem)) ∧
    (∀ y r, y = (q (encWaita 1 sf cc a b) (.scalar b)).spNat r.1 r.2 8 → Unlocked (q (encWaita 1 sf cc a b) (.scalar b)) →
      SpRead (q (encWaita 1 sf cc a b) (.scalar b)) A 8 r → waitHolds cc (BitVec.ofNat 64 y) B = true →
      exec (.waita 1 sf cc a b) s = retiredWith s (encWaita 1 sf cc a b).toWord 0 (.scalar a) (.scalar b) fun h => h)

namespace Sys2Proof.Machine

/-- The quad of the hart in focus, replaced. -/
def State.withQuad (s : State) (f : Quad → Quad) : State := s.setQuad (quadOf s.id) (f s.myQuad)

/-- The slot of a bucket that holds a key, and the value that a search of R206 finds for a key. -/
def bucketFind (s : State) (r : Keyed) (i k : Nat) : Option Nat :=
  findFrom 4 0 fun n => bitOf (s.spNat (coreOf s.id) (bucketAt r i + 32) 1) n && slotKey s r i n == k
def overflowBit (s : State) (r : Keyed) (k bit : Nat) : Bool :=
  bitOf (s.spNat (coreOf s.id) (bucketAt r (hash1 r.bits k) + 32) 1) bit
def keyLookup (s : State) (r : Keyed) (k : Nat) : Option Nat :=
  match bucketFind s r (hash1 r.bits k) k with
  | some n => some (slotValue s r (hash1 r.bits k) n)
  | none =>
    if overflowBit s r k 4 then
      (bucketFind s r (2 ^ r.bits + hash2 r.bits k) k).map (slotValue s r (2 ^ r.bits + hash2 r.bits k))
    else none

/-- Handle h is claimed with region r, sound, and of the key type of ETYPE (R256); no error keeps its buckets from being reached (R212). -/
structure KeyOk (s : State) (h : BitVec 2) (r : Keyed) : Prop where
  whole : s.myCore.fenced = false
  claimed : sparseGet none s.myCore.keyed h.toNat = some r
  sound : r.failed = false
  kt : r.keyType.toNat = ktOf s.hart.cfg.et
  bits : 8 ≤ r.bits ∧ r.bits ≤ 14
  clean : ∀ p ∈ s.myCore.spPoison, p < r.base ∨ r.base + 33 * bucketCount r ≤ p

/-- A region's buckets hold no key twice (R207): a key that a search does not find is in neither of its buckets. -/
def NoStale (s : State) (r : Keyed) (k : Nat) : Prop :=
  keyLookup s r k = none → bucketFind s r (2 ^ r.bits + hash2 r.bits k) k = none

/-- Slot n of a bucket is occupied (R204). -/
def occupied (s : State) (r : Keyed) (i n : Nat) : Bool := bitOf (s.spNat (coreOf s.id) (bucketAt r i + 32) 1) n

/-- The slots of a key's two buckets that hold it are at most one (R207). -/
def HeldOnce (s : State) (r : Keyed) (k : Nat) : Prop :=
  ∀ i i' n n', i ∈ [hash1 r.bits k, 2 ^ r.bits + hash2 r.bits k] → i' ∈ [hash1 r.bits k, 2 ^ r.bits + hash2 r.bits k] →
    n < 4 → n' < 4 → occupied s r i n = true → slotKey s r i n = k → occupied s r i' n' = true → slotKey s r i' n' = k →
    i = i' ∧ n = n'

/-- Both buckets of a key are full. -/
def BothFull (s : State) (r : Keyed) (k : Nat) : Prop :=
  ∀ n < 4, occupied s r (hash1 r.bits k) n = true ∧ occupied s r (2 ^ r.bits + hash2 r.bits k) n = true

/-- The combination of two values by KACC's operation `o`, with its flags (R208): add.i32, add.f32, max.i32, min.i32, max.f32, min.f32,
count. -/
def accOf (o : BitVec 3) (x y : Nat) : Rounded :=
  let sg (z : Nat) : Int := (BitVec.ofNat 32 z).toInt
  if o = 1 then fp32.sum 0 x y
  else if o = 2 then (if sg x < sg y then y else x, 0)
  else if o = 3 then (if sg y < sg x then y else x, 0)
  else if o = 4 then fp32.pick true x y
  else if o = 5 then fp32.pick false x y
  else ((x + y) % 2 ^ 32, 0)

/-- What a keyed access that raises the flags `fl` leaves as it was: everything but tile rows `dest`, the region's bytes with their error
marks, the region of the handle, and memory. -/
def KeyedFrame (dest : Nat → Prop) (h : BitVec 2) (r : Keyed) (s t : State) (fl : Flags) : Prop :=
  OnlyRows dest s { t with cores := s.cores, mem := s.passed.mem, poison := s.poison, stores := s.stores } fl ∧
  (∀ n, n ≠ coreOf s.id → t.core n = s.core n) ∧
  t.myCore = { s.myCore with
    sp := t.myCore.sp
    spPoison := t.myCore.spPoison
    keyed := t.myCore.keyed } ∧
  (∀ n, n ≠ h.toNat → sparseGet none t.myCore.keyed n = sparseGet none s.myCore.keyed n) ∧
  ∀ x, x < r.base ∨ r.base + 33 * bucketCount r ≤ x → t.spNat (coreOf s.id) x 1 = s.spNat (coreOf s.id) x 1

/-- The state after the lanes of a QATOM below n (R270). -/
def qatomUpTo (s : State) (et : Nat) (o : BitVec 3) (act : Nat → Bool) (at' val : Nat → Nat) (n : Nat) (q : State) : State :=
  (List.range n).foldl (fun u j =>
    if act j then
      let p := spTarget s (at' j)
      u.putSp p.1 p.2 4 (qatomOp et o (u.spNat p.1 p.2 4) (val j)).1
    else u) q

end Sys2Proof.Machine

/-- R252–R254: an atomic replaces the word at its address by the new value and, with Q, delivers the old one; a compare that fails
writes nothing; FADD rounds to nearest even and sets its flags. In the scratchpad and in global memory alike. -/
def Obligations.AtomicResults : Prop :=
  ∀ (w r c qf : BitVec 1) (sf : BitVec 3) (a b : BitVec 7) (s : State), Ready s → scalarOk s.hart a = true →
    scalarOk s.hart b = true → (r = 1 → accessesPending s = false) →
    (qf = 1 → (sparseGet [] s.hart.queues 4).length < 8) →
    let z := if w = 1 then 4 else 8
    let A := scalarVal s.hart a
    let B := (scalarVal s.hart b).toNat
    let N := (scalarVal s.hart (b + 1)).toNat
    let sg (x : Nat) : Int := (BitVec.ofNat (8 * z) x).toInt
    let low (x : Nat) : Nat := x % 2 ^ (8 * z)
    let fadd (old : Nat) : Rounded := fp32.sum 0 old (B % 2 ^ 32)
    let sent (signed : Bool) (old : Nat) (h : Hart) : Hart :=
      if qf = 1 then sentQ4 h (if signed then (BitVec.ofNat (8 * z) old).signExtend 64 else BitVec.ofNat 64 old) else h
    let flags (fl : Flags) (h : Hart) : Hart := { h with sys := { h.sys with fflags := h.sys.fflags ||| fl } }
    let pool (i : Instr) (e : RWord) (cb : Cap) (signed : Bool) (new : Nat → Option Nat) (fl : Nat → Flags) : Prop :=
      let q := s.queued (entryOf s e.toWord 0 (.scalar a) cb)
      ∀ p, SpRead q A z p → Unlocked q →
        let old := q.spNat p.1 p.2 z
        let u := match new old with | some x => q.putSp p.1 p.2 z x | none => q
        exec i s = .next (State.retired { u with hart := sent signed old (flags (fl old) u.hart) })
    let glob (i : Instr) (e : RWord) (cb : Cap) (signed : Bool) (new : Nat → Option Nat) (fl : Nat → Flags) : Prop :=
      let q := s.queued (entryOf s e.toWord 0 (.scalar a) cb)
      ∀ pa, A.toNat % z = 0 → Reaches .atomic .other q A z pa → Clean q pa z → Unlocked q →
        let old := q.memNat pa z
        let u := match new old with | some x => q.putNat pa z x | none => q
        exec i s = .next (State.retired { u with hart := sent signed old (flags (fl old) u.hart) })
    let none' (_ : Nat) : Flags := 0
    let add (old : Nat) : Option Nat := some (low (old + B))
    let min' (old : Nat) : Option Nat := some (if sg B < sg old then low B else old)
    let max' (old : Nat) : Option Nat := some (if sg old < sg B then low B else old)
    let swap (old : Nat) : Option Nat := if old = low B then some (low N) else none
    pool (.saadd w sf r c qf a b) (encSaadd w sf r c qf a b) (.scalar b) true add none' ∧
    pool (.samin w sf r c qf a b) (encSamin w sf r c qf a b) (.scalar b) true min' none' ∧
    pool (.samax w sf r c qf a b) (encSamax w sf r c qf a b) (.scalar b) true max' none' ∧
    pool (.saxchg w sf r c qf a b) (encSaxchg w sf r c qf a b) (.scalar b) false (fun _ => some (low B)) none' ∧
    pool (.saand w sf r c qf a b) (encSaand w sf r c qf a b) (.scalar b) false (fun old => some (old &&& B)) none' ∧
    pool (.saor w sf r c qf a b) (encSaor w sf r c qf a b) (.scalar b) false (fun old => some (old ||| low B)) none' ∧
    pool (.safadd w sf r c qf a b) (encSafadd w sf r c qf a b) (.scalar b) false (fun o => some (fadd o).1)
      (fun o => (fadd o).2) ∧
    glob (.gaadd w sf r c qf a b) (encGaadd w sf r c qf a b) (.scalar b) true add none' ∧
    glob (.gamin w sf r c qf a b) (encGamin w sf r c qf a b) (.scalar b) true min' none' ∧
    glob (.gamax w sf r c qf a b) (encGamax w sf r c qf a b) (.scalar b) true max' none' ∧
    glob (.gaxchg w sf r c qf a b) (encGaxchg w sf r c qf a b) (.scalar b) false (fun _ => some (low B)) none' ∧
    glob (.gaand w sf r c qf a b) (encGaand w sf r c qf a b) (.scalar b) false (fun old => some (old &&& B)) none' ∧
    glob (.gaor w sf r c qf a b) (encGaor w sf r c qf a b) (.scalar b) false (fun old => some (old ||| low B)) none' ∧
    glob (.gafadd w sf r c qf a b) (encGafadd w sf r c qf a b) (.scalar b) false (fun o => some (fadd o).1)
      (fun o => (fadd o).2) ∧
    (scalarOk s.hart (b + 1) = true →
      pool (.sacas w sf r c qf a b) (encSacas w sf r c qf a b) (.pair b) false swap none' ∧
      glob (.gacas w sf r c qf a b) (encGacas w sf r c qf a b) (.pair b) false swap none')

/-- R257, R258, R260, R261: KCLAIM takes the highest free range, empties the region and delivers 0 with its offset, or 1 or 2 where it
takes nothing; KFREE, KSEAL and KCLEAR; KSTAT delivers its two words; KDRN puts the lowest remaining keys with their values into two rows,
advances the cursor and delivers their number. That a failed handle reads as unclaimed for KCLAIM while KSTAT shows it not claimed but failed,
with its type, size and counts, is the model's choice between R256 and R261: log 87; so is that KSTAT counts buckets whatever their error
marks: log 118. -/
def Sys2Proof.Claim.KeyedRegionResults : Prop :=
  ∀ (a d : BitVec 7) (h : BitVec 2) (s : State), Ready s →
    let A := (scalarVal s.hart a).toNat
    let base' := scalarVal s.hart (a + 1)
    let q4 := sparseGet [] s.hart.queues 4
    let held := sparseGet none s.myCore.keyed h.toNat
    let unclaimed : Prop := ∀ r, held = some r → r.failed = true
    let free (size : Nat) : Option Nat :=
      freeRange { s.myCore with keyed := sparsePut none s.myCore.keyed h.toNat none } size
    let put (w : RWord) (r : Option Keyed) : Host.Outcome State Fault Refusal :=
      .next (State.retired ((s.queued (entryOf s w.toWord 0 .none .none)).withCore fun k =>
        { k with keyed := sparsePut none k.keyed h.toNat r }))
    (CapOk s.hart (.pair a) → claimBad A base'.toNat = false → q4.length < 8 →
      (∀ r, held = some r → r.failed = false → exec (.kclaim a h) s =
        retiredWith s (encKclaim a h).toWord 0 (.pair a) .none fun h => sentQ4 h 1) ∧
      (unclaimed → free (keyedSize (A % 16)) = none → exec (.kclaim a h) s =
        retiredWith s (encKclaim a h).toWord 0 (.pair a) .none fun h => sentQ4 h 2) ∧
      (∀ base, unclaimed → free (keyedSize (A % 16)) = some base → Unlocked s → s.myCore.fenced = false →
        let r : Keyed := ⟨A % 16, BitVec.ofNat 2 (A / 16), base, base', 0, BitVec.ofNat 32 (A / 2 ^ 32), false, false, none⟩
        ∃ t, exec (.kclaim a h) s = .next t ∧ sparseGet none t.myCore.keyed h.toNat = some r ∧
          sparseGet [] t.hart.queues 4 = q4 ++ [BitVec.ofNat 64 (base * 2 ^ 32)] ∧
          (∀ i < bucketCount r, t.spNat (coreOf s.id) (bucketAt r i + 32) 1 = 0) ∧ t.hart.vq = [])) ∧
    (∀ r, held = some r → r.failed = false →
      exec (.kfree h) s = put (encKfree h) none ∧
      exec (.kseal h) s = put (encKseal h) (some { r with sealed := true }) ∧
      (r.bits ≤ 14 → Unlocked s → s.myCore.fenced = false → ∃ t, exec (.kclear h) s = .next t ∧ t.hart.vq = [] ∧
        sparseGet none t.myCore.keyed h.toNat = some { r with spillCount := 0, cursor := none, sealed := false } ∧
        ∀ i < bucketCount r, t.spNat (coreOf s.id) (bucketAt r i + 32) 1 = 0)) ∧
    (q4.length + 2 ≤ 8 → s.hart.cfg.est = 0 →
      (held = none → exec (.kstat h) s = retiredWith s (encKstat h).toWord 0 .none .none fun h => sentQ4 (sentQ4 h 0) 0) ∧
      (∀ r, held = some r → s.myCore.fenced = false → exec (.kstat h) s = retiredWith s (encKstat h).toWord 0 .none .none fun h =>
        sentQ4 (sentQ4 h (BitVec.ofNat 64 ((!r.failed).toNat + 2 * r.sealed.toNat + 4 * r.failed.toNat + 16 * r.keyType.toNat +
          2 ^ 8 * r.bits + 2 ^ 12 * (r.sealed && (remaining s r).isEmpty).toNat)))
          (BitVec.ofNat 64 ((onChip s r).length + 2 ^ 32 * r.spillCount.toNat)))) ∧
    (∀ r, KeyOk s h r → r.sealed = true → 3 ≤ s.hart.cfg.et → s.hart.cfg.et < 6 → s.hart.cfg.rcN = 1 → 0 < s.hart.cfg.vlN →
      s.hart.cfg.vlN ≤ 1024 → PlainRows s d.toNat 2 → Unlocked s → q4.length < 8 →
      let xs := (remaining s r).take s.hart.cfg.vlN
      ∃ t, exec (.kdrn d h) s = .next t ∧ sparseGet [] t.hart.queues 4 = q4 ++ [BitVec.ofNat 64 xs.length] ∧
        (xs ≠ [] → HoldsRun s t d 1 (xs.map Prod.fst) false 1 ∧ HoldsFlat s t (d.toNat + 1) 1 (xs.map Prod.snd)) ∧
        (∀ x, xs.getLast? = some x → sparseGet none t.myCore.keyed h.toNat =
          some { r with cursor := some (BitVec.ofNat 32 x.1) }) ∧
        (xs = [] → t.cores = s.cores ∧ t.hart.vec.rows = s.hart.vec.rows))

/-- R206–R209, R259: the statuses and effects of the keyed accesses. KPRB finds values; KDEL takes out every key of the tile; KINS stores the
value of the first lane of each absent key and leaves a present one; KACC combines the values of a key's lanes in rising order and
applies them to a present key, or stores them. What does not fit is appended to the spill records in the order of the groups (status 2)
while there is room for it (status 3: nothing is stored), with both buckets of the key full. A region's other keys keep their values, FFLAGS
takes the flags of KACC's combinations, none where nothing is stored, and nothing else changes. -/
def Sys2Proof.Claim.KeyedAccessResults : Prop :=
  ∀ (d a : BitVec 7) (h : BitVec 2) (o : BitVec 3) (m : BitVec 1) (r : Keyed) (P : Nat → Nat) (s : State),
    TilesOk s m [a, d] (.vv a) → 3 ≤ s.hart.cfg.et → s.hart.cfg.et < 6 → KeyOk s h r → Unlocked s →
    let c := s.hart.cfg
    let key (j : Nat) : Nat := canonKey r.keyType (elemOf s a 32 j)
    let act (j : Nat) : Prop := j < c.count ∧ active0 s m j = true
    let lanes (j : Nat) : List Nat := (List.range c.count).filter fun i => active0 s m i && key i == key j
    let first (j : Nat) : Prop := ∀ i < j, active0 s m i = true → key i ≠ key j
    let value (j : Nat) : Nat := tileElem s.hart.vec c.vwb.toNat (a.toNat + c.rcN) (j / c.vlN) (j % c.vlN) 32
    let combined (j : Nat) : Rounded := match (lanes j).map fun i => if o = 6 then 1 else value i with
      | [] => (0, 0)
      | x :: xs => xs.foldl (fun y z => ((accOf o y.1 z).1, y.2 ||| (accOf o y.1 z).2)) (x, 0)
    let accFlags (j : Nat) : Flags := (combined j).2 ||| match keyLookup s r (key j) with
      | some x => (accOf o x (combined j).1).2
      | none => 0
    let spillOk (i : RWord) : Prop :=
      let q := s.queued (entryOf s i.toWord 0 .none .none true)
      r.spillCount.toNat ≤ r.spillCap.toNat ∧ ∀ k, r.spillCount.toNat + k < r.spillCap.toNat →
        MemWrite q .other (r.spillBase + BitVec.ofNat 64 (8 * (r.spillCount.toNat + k))) 8 (P k)
    let others (t : State) : Prop := ∀ k, (∀ j, act j → key j ≠ k) → keyLookup s r k ≠ none → keyLookup t r k = keyLookup s r k
    let wrote (t : State) (f : Nat → Nat) (fl : Nat → Flags) : Prop :=
      KeyedFrame (tileRows s d c.rcN) h r s t
        (flagsOver c.count (fun j => (lanes j).head? == some j && f j != 3) fl) ∧
      TileIs0 s t d.toNat (fun j => if active0 s m j then some (f j) else none) ∧
      RowMarksOf s t d.toNat c.rcN 32 0 (fun j => if active0 s m j then some 0 else none)
    let stores (i : Instr) (w : RWord) (new : Nat → Nat) (present : Nat → Nat → Nat) (shared : Bool) (fl : Nat → Flags) : Prop :=
      spillOk w → ∃ t f, ∃ spilled : List Nat, exec i s = .next t ∧ wrote t f fl ∧ others t ∧
        spilled.Pairwise (· < ·) ∧ (∀ j, j ∈ spilled ↔ act j ∧ first j ∧ f j = 2) ∧
        t.mem = ((List.range spilled.length).foldl (fun u n => u.putNat (P n) 8
          (key (spilled.getD n 0) + 2 ^ 32 * new (spilled.getD n 0))) s.passed).mem ∧
        sparseGet none t.myCore.keyed h.toNat = some { r with spillCount := r.spillCount + BitVec.ofNat 32 spilled.length } ∧
        (∀ j, act j → ∀ x, keyLookup s r (key j) = some x → f j = 1 ∧ keyLookup t r (key j) = some (present j x)) ∧
        (∀ i j, act i → act j → key i = key j → ¬first j → f j = if shared then f i else 1) ∧
        ∀ j, act j → first j → keyLookup s r (key j) = none →
          (f j = 0 ∧ keyLookup t r (key j) = some (new j)) ∨
          (f j = 2 ∧ keyLookup t r (key j) = none ∧ BothFull t r (key j) ∧ overflowBit t r (key j) 5 = true ∧
            r.spillCount.toNat + (spilled.filter fun i => decide (i < j)).length < r.spillCap.toNat) ∨
          (f j = 3 ∧ keyLookup t r (key j) = none ∧ BothFull t r (key j) ∧
            r.spillCount.toNat + (spilled.filter fun i => decide (i < j)).length = r.spillCap.toNat)
    (PlainRows s (d.toNat + c.rcN) c.rcN →
      ∃ t, exec (.kprb d a h m) s = .next t ∧ OnlyRows (tileRows s d (2 * c.rcN)) s t ∧
        TileIs0 s t d.toNat (fun j => if active0 s m j then some (match keyLookup s r (key j) with
          | some _ => 0 | none => if overflowBit s r (key j) 5 then 2 else 1) else none) ∧
        TileIs0 s t (d.toNat + c.rcN) (fun j => if active0 s m j then some ((keyLookup s r (key j)).getD 0) else none)) ∧
    (r.sealed = false →
      ∃ t f, exec (.kdel d a h m) s = .next t ∧ wrote t f (fun _ => 0) ∧ sparseGet none t.myCore.keyed h.toNat = some r ∧
        t.mem = s.passed.mem ∧
        (∀ k, (∀ j, act j → key j ≠ k) → keyLookup t r k = keyLookup s r k) ∧
        ∀ j, act j → (first j → keyLookup s r (key j) ≠ none → f j = 0) ∧
          (¬first j ∨ keyLookup s r (key j) = none → f j = 1) ∧
          (HeldOnce s r (key j) → keyLookup t r (key j) = none)) ∧
    (r.sealed = false → (∀ j, act j → NoStale s r (key j)) →
      (PlainRows s (a.toNat + c.rcN) c.rcN →
        stores (.kins d a h m) (encKins d a h m) value (fun _ x => x) false (fun _ => 0)) ∧
      (o ≠ 7 → (o ≠ 6 → PlainRows s (a.toNat + c.rcN) c.rcN) →
        stores (.kacc d a o h m) (encKacc d a o h m) (fun j => (combined j).1) (fun j x => (accOf o x (combined j).1).1) true
          accFlags))

/-- R203–R209, R257–R261: keyed regions and the accesses to them.
KSTAT's exhausted bit is the model's reading: log 40; what KCLAIM and KSTAT make of a failed handle is its choice: log 87. -/
def Obligations.KeyedResults : Prop :=
  Sys2Proof.Claim.KeyedRegionResults ∧ Sys2Proof.Claim.KeyedAccessResults

/-- R265–R270: SEMTS and SEMTRY take a free semaphore, SEMCLR hands it to the oldest waiter or frees it; CRD and CWR read and write a
word of the communication file; QATOM works its lanes in order and returns the old words; a quad message stores its bytes.
Messages perform at once, and an arrival completes one phase, by the model's choice: log 29, 52. -/
def Sys2Proof.Claim.QuadResults : Prop :=
  ∀ (n : BitVec 5) (a d : BitVec 7) (r cf m wr : BitVec 1) (o : BitVec 3) (core : BitVec 2) (off : BitVec 21)
    (data : BitVec 64) (s : State),
    let x := sparseGet Sem.free s.myQuad.sems n.toNat
    let q (w : RWord) (ca : Cap) : State := s.queued (entryOf s w.toWord 0 ca .none)
    let q4 := sparseGet [] s.hart.queues 4
    let sem (y : Sem) (k : Quad) : Quad := { k with sems := sparsePut Sem.free k.sems n.toNat y }
    (Ready s → s.myQuad.semFenced = false →
      (x.bit = false → x.waiters = [] →
        exec (.semts n) s = .next (State.retired ((q (encSemts n) .none).withQuad (sem { x with bit := true }))) ∧
        (q4.length < 8 → ∃ t, exec (.semtry n) s = .next t ∧ t.quads = (s.withQuad (sem { x with bit := true })).quads ∧
          sparseGet [] t.hart.queues 4 = q4 ++ [1] ∧ t.hart.vq = [])) ∧
      (x.bit = true → q4.length < 8 →
        exec (.semtry n) s = retiredWith s (encSemtry n).toWord 0 .none .none fun h => sentQ4 h 0) ∧
      (x.bit = true → s.id ∉ x.waiters → ∃ t, exec (.semts n) s = .next t ∧ t.hart.vq.length = 1 ∧
        t.quads = (s.withQuad (sem { x with waiters := x.waiters ++ [s.id] })).quads) ∧
      (accessesPending s = false →
        (x.waiters = [] → exec (.semclr n) s =
          .next (State.retired ((q (encSemclr n) .none).withQuad (sem { x with bit := false })))) ∧
        (∀ w ws, x.waiters = w :: ws → w ≠ s.id → ∃ t, exec (.semclr n) s = .next t ∧
          t.quads = (s.withQuad (sem { x with bit := true, waiters := ws })).quads ∧
          (t.hartAt w).vq = (s.hartAt w).vq.tail ∧ t.hart.vq = []))) ∧
    (Ready s → n.toNat ∉ s.myQuad.badWords → n.toNat ∉ s.myQuad.deadWords → q4.length < 8 →
      exec (.crd cf n) s = retiredWith s (encCrd cf n).toWord 0 .none .none fun h =>
        sentQ4 h (sparseGet 0 s.myQuad.words n.toNat)) ∧
    (Ready s → scalarOk s.hart a = true → (r = 1 → accessesPending s = false) →
      exec (.cwr r a n) s = .next (State.retired ((q (encCwr r a n) (.scalar a)).withQuad fun k => { k with
        words := sparsePut 0 k.words n.toNat (scalarVal s.hart a)
        badWords := k.badWords.filter fun w => w != n.toNat }))) ∧
    (TilesOk s m [a, d] (.vv a) → qatomTypes o s.hart.cfg.et = true → PlainRows s (a.toNat + s.hart.cfg.rcN) s.hart.cfg.rcN →
      (r = 1 → accessesPending s = false) →
      let c := s.hart.cfg
      let at' (j : Nat) : Nat := elemOf s a 32 j
      let val (j : Nat) : Nat := tileElem s.hart.vec c.vwb.toNat (a.toNat + c.rcN) (j / c.vlN) (j % c.vlN) 32
      let u := q (encQatom d a r cf o m) .none
      let upTo (k : Nat) : State := qatomUpTo s c.et o (active0 s m) at' val k u
      (∀ j < c.count, active0 s m j = true → (qatomCheck (BitVec.ofNat 64 (at' j))).exec u = (.ok (), u)) →
      ∃ t, exec (.qatom d a r cf o m) s = .next t ∧ t.cores = (upTo c.count).cores ∧ t.hart.vq = [] ∧
        TileIs0 s t d.toNat fun j =>
          if active0 s m j then some ((upTo j).spNat (spTarget s (at' j)).1 (spTarget s (at' j)).2 4) else none) ∧
    (let c := quadOf s.id * 4 + core.toNat;
      (s.core c).fenced = false → (s.core c).moving = none → off.toNat % 8 = 0 → off.toNat + 8 ≤ spSize (s.core c) →
      claimedAt (s.core c) off.toNat 8 = none →
      exec (.quadMessage core off wr data) s = .next (if wr = 1 then s.putSp c off.toNat 8 data.toNat else s))

/-- R271–R273, R377: BARA and BARV release, count their arrival and record the token; the phase completes when COUNT reaches TARGET;
BARW completes once the generation has changed and waits before; BARA_INIT sets TARGET of a barrier with COUNT 0; a pod message
counts at package 0. -/
def Sys2Proof.Claim.BarrierResults : Prop :=
  ∀ (a : BitVec 7) (sf : BitVec 3) (n : BitVec 4) (arrive : BitVec 1) (count : BitVec 32) (s : State),
    let inst := instanceOf s sf
    let b := barrierAt s sf inst n.toNat
    let arrived (b : Barrier) (k : Nat) : Barrier :=
      if b.target.toNat ≤ b.count.toNat + k then
        { b with count := BitVec.ofNat 32 (b.count.toNat + k - b.target.toNat), gen := b.gen + 1 }
      else { b with count := BitVec.ofNat 32 (b.count.toNat + k) }
    let mine (t : Token) : Bool := t.scope == sf && t.number == n && t.inst == inst
    let rest := s.hart.task.tokens.filter fun t => !mine t
    let q (w : RWord) (ca : Cap) : State := s.queued (entryOf s w.toWord 0 ca .none)
    let tokens (u : State) (ts : List Token) : State := { u with hart := { u.hart with task := { u.hart.task with tokens := ts } } }
    (Ready s → (sf.toNat ≤ 2 → n.toNat < 8) → (sf = 5 → pkgOf s.id = 0 ∨ s.myPkg.podmap.getLsbD 0 = true) →
      (b.target ≠ 0 → rest.length < 31 → accessesPending s = false →
        let after (w : RWord) (ca : Cap) (k : Nat) : State :=
          State.retired (putBarrier sf inst n.toNat (arrived b k) (tokens (q w ca) (rest ++ [⟨sf, n, inst, b.gen⟩])))
        (scalarOk s.hart a = true → exec (.bara a sf n) s =
          .next (after (encBara a sf n) (.scalar a) ((scalarVal s.hart a).toNat % 2 ^ 32))) ∧
        (s.hart.cfg.vlN ≤ 1024 → exec (.barv a sf n) s = .next (after (encBarv a sf n) .none
          ((List.range s.hart.cfg.vlN).countP fun i => (predOf s.hart.vec a.toNat).getLsbD i)))) ∧
      (∀ t, s.hart.task.tokens.find? mine = some t →
        (b.gen ≠ t.gen → exec (.barw sf n) s = .next (State.retired (tokens (q (encBarw sf n) .none) rest))) ∧
        (b.gen = t.gen → ∃ u, exec (.barw sf n) s = .next u ∧ u.hart.vq.length = 1 ∧ u.hart.task = s.hart.task)) ∧
      (b.count = 0 → scalarOk s.hart a = true → exec (.baraInit a sf n) s = .next (State.retired
        (putBarrier sf inst n.toNat { b with target := (scalarVal s.hart a).truncate 32, count := 0 }
          (q (encBaraInit a sf n) (.scalar a)))))) ∧
    (let p := barrierAt s 5 0 n.toNat;
      (arrive = 1 → p.target ≠ 0 → exec (.podBarrierMessage arrive n count) s =
        .next (putBarrier 5 0 n.toNat (arrived p count.toNat) s)) ∧
      (arrive = 0 → exec (.podBarrierMessage arrive n count) s = .next s))

/-- R263–R273: semaphores, quad words, atomics on a quad, and barriers. -/
def Obligations.QuadResults : Prop :=
  Sys2Proof.Claim.QuadResults ∧ Sys2Proof.Claim.BarrierResults

namespace Sys2Proof.Machine

/-- No stream is bound and no earlier access of the hart is unfinished (R35, R343). -/
def Settled (s : State) : Prop :=
  (∀ n, sparseGet none s.hart.vec.streams n = none) ∧ accessesPending s = false ∧
    ∀ c < 4, (sparseGet Channel.idle s.myCore.chans c).owner.toNat = s.id % 4 →
      (sparseGet Channel.idle s.myCore.chans c).st = .idle

end Sys2Proof.Machine

/-- R286, R288–R293, R298, R300: TSPAWN queues the task of a good descriptor on its core and delivers its id, or delivers a refusal;
TWAIT goes on at a satisfied counter and TYIELD where no rival waits; TEXIT and its abort form free the hart, write the status
record and decrement the counter; TSTAT delivers its word; EVDEC and EVINC change a counter and deliver its old value.
The status of TEXIT.ABORT and the first id are the model's readings: log 77, 78. -/
def Obligations.TaskResults : Prop :=
  ∀ (a b : BitVec 7) (n : BitVec 3) (qf : BitVec 1) (P : Nat → Nat) (s : State), Ready s → scalarOk s.hart a = true →
    scalarOk s.hart b = true →
    let A := scalarVal s.hart a
    let B := scalarVal s.hart b
    let d := dieOf s.id
    let c := coreOf s.id
    let q4 := sparseGet [] s.hart.queues 4
    let k := s.hart.task
    let same (t : State) : Prop := t.hart.trap = s.hart.trap ∧ t.hart.vq = [] ∧ t.hart.vec.rows = s.hart.vec.rows
    let works : Prop := 61 ∉ s.myDie.fenced
    (let q := s.queued (entryOf s (encTspawn a).toWord 0 (.scalar a) .none true)
      let ws := (List.range 8).map fun i => BitVec.ofNat 64 (q.memNat (P i) 8)
      let seq := nextSeq (s.die d);
      A.toNat % 64 = 0 → (∀ i < 8, MemRead q .other (A + BitVec.ofNat 64 (8 * i)) 8 (P i)) → Unlocked q → q4.length < 8 → works →
        (parseDescriptor ws = none → exec (.tspawn a) s =
          retiredWith s (encTspawn a).toWord 0 (.scalar a) .none fun h => sentQ4 h (BitVec.ofNat 64 (2 ^ 63 + 2))) ∧
        (∀ t, parseDescriptor ws = some t → stageOk s d t = true → t.req = 0 → t.waitV = false → eligible s t c = true →
          (s.core c).queue.length < 16 → ∃ u, exec (.tspawn a) s = .next u ∧ same u ∧
            (u.core c).queue = (s.core c).queue ++ [newTask (taskId d seq) t false s.time] ∧
            (u.die d).seq = seq ∧ sparseGet [] u.hart.queues 4 = q4 ++ [(taskId d seq).zeroExtend 64])) ∧
    (A.toNat < 4096 → works → satisfied (s.event d A.toNat) = true →
      exec (.twait a) s = retiredWith s (encTwait a).toWord 0 (.scalar a) .none fun h => h) ∧
    (4096 ≤ A.toNat → exec (.twait a) s = .next (takeTrap false .ill A s)) ∧
    (rival s = false → exec .tyield s = retiredWith s (encTyield).toWord 0 .none .none fun h => h) ∧
    (Settled s → k.desc.stat ≠ 0 → k.desc.stat.toNat % 8 = 0 → PlainSpan s k.desc.stat.toNat 16 → k.desc.req = 0 →
      let ended (i : Instr) (kind : Nat) : Prop := ∃ t, exec i s = .next t ∧ t.hart.phase = .idle ∧ t.hart.vq = [] ∧
        t.memNat k.desc.stat.toNat 8 = A.toNat % 2 ^ 32 + 2 ^ 32 * kind ∧
        (k.desc.doneV = true → t.event d k.desc.doneEv.toNat = s.event d k.desc.doneEv.toNat - 1)
      ended (.texit a) 0 ∧
      (s.hart.trap.priv = 2 → ended (.texitAbort a) (if s.hart.trap.ipend.getLsbD 3 then 3 else 2))) ∧
    (q4.length < 8 → s.hart.phase ≠ .idle → ∃ t x, exec (.tstat n) s = .next t ∧ same t ∧
      sparseGet [] t.hart.queues 4 = q4 ++ [x] ∧
      (n = 0 → x = k.id.zeroExtend 64) ∧ (n = 1 → x = k.desc.arg) ∧ (n = 4 → x = k.desc.req.zeroExtend 64) ∧
      (n = 3 → x = BitVec.ofNat 64 (k.cls.toNat + 4 * k.desc.stv.toNat + 8 * k.desc.stg.toNat)) ∧
      (n = 2 → x = if k.budgetOff = true then BitVec.allOnes 64 else if k.budgetOut = true then k.budgetRem.zeroExtend 64
        else BitVec.ofNat 64 ((k.budgetRem.toNat - (s.time - k.seen)) % 2 ^ 48))) ∧
    (A.toNat < 4096 → works → accessesPending s = false → (qf = 1 → q4.length < 8) →
      let changed (i : Instr) (v : BitVec 32) : Prop := ∃ t, exec i s = .next t ∧ same t ∧ t.event d A.toNat = v ∧
        sparseGet [] t.hart.queues 4 = (if qf = 1 then q4 ++ [(s.event d A.toNat).signExtend 64] else q4) ∧
        (satisfied v = true → ∀ x ∈ (t.die d).waiting, x.desc.waitEv.toNat ≠ A.toNat)
      changed (.evdec qf a b) (s.event d A.toNat - B.truncate 32) ∧ changed (.evinc qf a b) (s.event d A.toNat + B.truncate 32))

/-- R304–R306: QPUSH appends its records to the stage queue while there is room for them, and with EOS counts an end of stream; QPOP
takes up to n of the oldest records into rows and delivers their number; a task of another stage raises STRF with reason 7. -/
def Sys2Proof.Claim.StageQueueResults : Prop :=
  ∀ (d a : BitVec 7) (eos : BitVec 1) (qn : BitVec 5) (x : StageQueue) (s : State), Ready s → scalarOk s.hart a = true →
    let c := s.hart.cfg
    let n := (scalarVal s.hart a).toNat
    let t := s.hart.task.desc
    let q4 := sparseGet [] s.hart.queues 4
    s.myDie.squeues[qn.toNat]? = some x → 61 ∉ s.myDie.fenced → qn.toNat ∉ s.myDie.fencedQueues → n ≤ 4096 →
    n * x.rsize ≤ c.rcN * 4096 → PlainTile s d → t.stv = true →
    1 ≤ c.rcN →
    (t.stg = x.src → x.eosLeft ≠ 0 → (n ≠ 0 ∨ eos = 1) → c.est = 0 → accessesPending s = false →
      x.records.length + n ≤ 2 ^ x.ldepth →
      ∃ u, exec (.qpush d a eos qn) s = .next u ∧ u.hart.vq = [] ∧ u.hart.vec.rows = s.hart.vec.rows ∧
        u.myDie.squeues = s.myDie.squeues.set qn.toNat { x with
          records := x.records ++ (List.range n).map fun r => recordAt s.hart.vec c d x.rsize r
          marks := x.marks.filter fun i => decide (i < x.records.length)
          eosLeft := if eos = 1 then x.eosLeft - 1 else x.eosLeft }) ∧
    (t.stg = x.dst → 1 ≤ n → (x.records ≠ [] ∨ x.eosLeft = 0) → x.marks = [] → q4.length < 8 → (∀ r ∈ x.records, r.length = x.rsize) →
      let f := Nat.min x.records.length n
      let bytes := (x.records.take f).flatten
      ∃ u, exec (.qpop d a qn) s = .next u ∧ u.myDie.squeues = s.myDie.squeues.set qn.toNat { x with records := x.records.drop f } ∧
        sparseGet [] u.hart.queues 4 = q4 ++ [BitVec.ofNat 64 f] ∧
        OnlyRowsOf (tileRows s d c.rcN) s u ∧
        ∀ i < bytes.length, sparseGet 0 u.hart.vec.rows (rowKey (c.vwb.toNat + d.toNat + i / 4096) (i % 4096)) = bytes.getD i 0) ∧
    (t.stg ≠ x.src → SaveAreaOk s → ∃ u, exec (.qpush d a eos qn) s = .next u ∧
      u.hart.trap.cause = 1#1 ++ Cause.strf.code ∧ u.hart.trap.xval = BitVec.ofNat 64 (qn.toNat + 256 * 7))

/-- R284, R285, R190, R291, R294, R295, R298, R299: the events of the distributor. Dispatch puts the selected task on the first free
hart of the core, at its entry and at privilege 0; a pull moves eligible entries down; aging moves an old entry to the tail of
the next class; a pre-emption saves the task, frees the hart and requeues it, but for a task whose request has ended, which retires; a
budget runs down and ends the task.
Ties, and what a full queue does, are the model's readings: log 21, 50, 76. -/
def Obligations.DistributorEvents : Prop :=
  ∀ (s : State),
    let c := coreOf s.id
    let d := dieOf s.id
    let old (t : Queued) : Bool := t.cls != 3 && decide (2 ^ 20 ≤ s.time - t.since)
    let h := s.hart
    (∀ t n, select s c = some (t, .yes) → t.resumed = false → t.desc.kcnt = 0 →
      (hartsOf c).find? (fun n => !busy s n) = some n → ∃ u, exec .taskDispatch s = .next u ∧ u.id = s.id ∧
        (u.hartAt n).phase = .running ∧ (u.hartAt n).fetch.pc = t.desc.entry ∧ (u.hartAt n).trap.priv = 0 ∧
        (u.hartAt n).task.id = t.id ∧ (u.hartAt n).sregs = [] ∧ (u.hartAt n).cfg = VConf.reset ∧
        (u.core c).queue = (s.core c).queue.filter (fun x => x.id != t.id)) ∧
    (let up := (s.quad (c / 4)).queue.filter (Level.serves (.core c) s)
      let take := ([3, 2, 1, 0].flatMap fun k => ofClass k up).take 8;
      (s.core c).queue.length < 4 → take ≠ [] → (∀ t ∈ (s.core c).queue, eligible s t.desc c = true) →
      ∃ u, exec (.queuePull 0) s = .next u ∧ (u.core c).queue = (s.core c).queue ++ take ∧
        (u.quad (c / 4)).queue = (s.quad (c / 4)).queue.filter (fun t => !take.any fun x => x.id == t.id)) ∧
    (∃ u, exec .aging s = .next u ∧ ∀ l ∈ levelsOf d, u.entries l = (s.entries l).filter (fun t => !old t) ++
      ((s.entries l).filter old).map fun t => { t with cls := t.cls + 1, since := s.time }) ∧
    (∀ n ns, victims s d = n :: ns → ∃ u, exec .preemptTimeout s = .next u ∧
      (u.hartAt n).trap.ipend = (s.hartAt n).trap.ipend ||| 4) ∧
    (h.phase = .running → h.trap.priv ≠ 2 → h.trap.ipend.getLsbD 2 = true →
      (∀ e es, h.vq = e :: es → e.begun = false → exec .preemption s = .next { s with hart := { h with
        phase := .suspending, trap := { h.trap with ipend := h.trap.ipend &&& ~~~4 } } }) ∧
      (let area := h.trap.savearea
        let size := 0x3600 + 4096 * h.sys.rowsN.toNat + 65536 * h.sys.tilesN.toNat
        let req := h.task.desc.req
        let word := requestAddr s (pkgOf s.id) req
        let ended : Prop := (word + 8 ≤ area.toNat ∨ area.toNat + size ≤ word) ∧ requestState s (pkgOf s.id) req ∈ [3, 4]
        let goes : Prop := (word + 8 ≤ area.toNat ∨ area.toNat + size ≤ word) ∧ requestState s (pkgOf s.id) req ∉ [3, 4]
        h.vq = [] → Settled s → PlainSpan s area.toNat size →
        h.sys.rowsN.toNat ≤ 128 → (∀ r, sparseGet 0 h.vec.high r ≤ 4096) →
        (req ≠ 0 → h.task.check = false → h.task.desc.doneV = false → ended → ∃ u, exec .preemption s = .next u ∧ u.hart.phase = .idle ∧
          (u.core c).queue = (s.core c).queue) ∧
        (eligible s h.task.desc c = true → (s.core c).queue.length < 16 → req = 0 ∨ h.task.check = true ∨ goes →
        ∃ u x, exec .preemption s = .next u ∧ u.hart.phase = .idle ∧ (u.core c).queue = (s.core c).queue ++ [x] ∧
          x.id = h.task.id ∧ x.resumed = true ∧ x.area = area ∧ u.memNat area.toNat 8 = h.fetch.pc.toNat))) ∧
    (∀ w, s.myCore.moving = some w → (∀ n ∈ hartsOf c, (s.hartAt n).phase = .idle) → exec .repartition s =
      .next (s.withCore fun k => { k with part := w.zeroExtend 64, sp := [], spPoison := [], keyed := [], moving := none })) ∧
    (h.phase ≠ .idle → ∃ u, exec .budgetExhausted s = .next u ∧ u.hart.task.seen = s.time ∧
      u.hart.task.held = h.task.held + BitVec.ofNat 64 (s.time - h.task.seen) ∧
      (h.task.budgetOff = false → h.task.budgetOut = false →
        u.hart.task.budgetRem = BitVec.ofNat 48 (h.task.budgetRem.toNat - (s.time - h.task.seen)))) ∧
    (h.phase = .running → h.task.budgetOff = false → h.task.budgetOut = false → h.task.budgetRem = 0 →
      (h.task.desc.btrap = true → exec .budget s = .next (takeTrap false .budget (h.task.budgetFrom.zeroExtend 64)
        { s with hart := { h with task := { h.task with budgetOut := true } } })) ∧
      (h.task.desc.btrap = false → h.task.desc.req = 0 → ∃ u, exec .budget s = .next u ∧ u.hart.phase = .idle))

/-- R308–R310: a sample adds each queue's occupancy; the end of an interval clears the sums and, where a donor and a recipient are
found, begins the move of the donor's highest core; the move ends once no task runs on that core. -/
def Sys2Proof.Claim.CinchEvents : Prop :=
  ∀ (s : State),
    let d := dieOf s.id
    let x := s.myDie
    let last := x.cinchLast.toNat
    (∃ u, exec .cinchSample s = .next u ∧ u.myDie.squeues = x.squeues.map fun q => { q with
      samples := q.samples + 1, sum := q.sum + 65536 * q.records.length / 2 ^ q.ldepth }) ∧
    (x.stages ≠ [] → x.cinchTime + 2 ^ x.cinchIvl.toNat ≤ s.time → ∃ u, exec .cinchInterval s = .next u ∧
      u.myDie.cinchTime = x.cinchTime + 2 ^ x.cinchIvl.toNat ∧
      u.myDie.squeues = x.squeues.map (fun q => { q with samples := 0, sum := 0 }) ∧
      (x.cinchEn = 0 → bitsOf u.myDie.cinchLast.toNat 8 8 = 0 ∧ u.myDie.stageOf = x.stageOf) ∧
      (∀ a b, x.cinchEn = 1 → bitOf last 9 = false → donor x = some a → recipient x = some b → a < 16 → b < 16 →
        bitsOf u.myDie.cinchLast.toNat 3 0 = a ∧ bitsOf u.myDie.cinchLast.toNat 7 4 = b ∧
        bitOf u.myDie.cinchLast.toNat 9 = true ∧
        bitsOf u.myDie.cinchLast.toNat 15 10 = (coresOfStage x a).foldl Nat.max 0)) ∧
    (bitOf last 9 = true → (∀ n ∈ hartsOf (48 * d + bitsOf last 15 10), (s.hartAt n).phase = .idle) →
      ∃ u, exec .cinchMoveComplete s = .next u ∧ bitOf u.myDie.cinchLast.toNat 9 = false ∧
        sparseGet none u.myDie.stageOf (bitsOf last 15 10) = some (BitVec.ofNat 4 (last / 2 ^ 4)))

/-- R304–R310: stage queues, and the moves of the Cinch.
What a graph load and a move leave in the queues is the model's reading: log 22, 67. -/
def Obligations.StageResults : Prop :=
  Sys2Proof.Claim.StageQueueResults ∧ Sys2Proof.Claim.CinchEvents

namespace Sys2Proof.Machine

/-- The hart in focus with the word that RGSTAT delivers (R328): how many records, and how many distinct rows. -/
def State.withGathered (s : State) (xs : List Nat) : State := { s with hart := { s.hart with
  gathered := BitVec.ofNat 64 (xs.length + 2 ^ 32 * xs.eraseDups.length) } }

/-- Byte ranges, each an address and a length, none of which meets another. -/
def Apart (xs : List (Nat × Nat)) : Prop := xs.Pairwise fun p q => p.1 + p.2 ≤ q.1 ∨ q.1 + q.2 ≤ p.1

/-- The words of a row descriptor and an index tile that RGATHER and the scatters accept (R324, R325): R a multiple of 4 up to 4096,
the indices inside the table, the records inside the register file, the gather engine not fenced (R212). -/
structure GatherOk (s : State) (a b : BitVec 7) (r add n : Nat) : Prop where
  tiles : TilesOk s 0 [a] (.vi 0)
  index : s.hart.cfg.et = 3 ∨ s.hart.cfg.et = 4
  names : CapOk s.hart (.pair b)
  desc : scalarVal s.hart (b + 1) = BitVec.ofNat 64 (r + 2 ^ 13 * add + 2 ^ 16 * n)
  size : r % 4 = 0 ∧ 4 ≤ r ∧ r ≤ 4096 ∧ add < 2 ∧ n < 2 ^ 32
  base : (scalarVal s.hart b).toNat % 4 = 0
  fits : s.hart.cfg.count * r ≤ 131072
  engine : 65 ∉ s.myDie.fenced

end Sys2Proof.Machine

/-- R324–R328: RGATHER writes word k of record j with word k of the table row that index j names; RSCAT stores the last record of each
row, RSCATADD adds the records of each row, combined in rising position, into it, as INT32 or as FP32 with its flags; each leaves the count
of records and of distinct rows, which RGSTAT delivers; DEFERRED_MCE takes the oldest pending error in the vector stream.
That records perform at once in element order is the model's choice: log 31, 57. -/
def Obligations.GatherResults : Prop :=
  ∀ (d a b : BitVec 7) (m : BitVec 1) (r add n : Nat) (P : Nat → Nat → Nat) (s : State),
    let c := s.hart.cfg
    let span := (c.count * r + 4095) / 4096
    let A := scalarVal s.hart b
    let at' (i k : Nat) : Word := A + BitVec.ofNat 64 (i * r + 4 * k)
    let idx (j : Nat) : Nat := elemOf s a 32 j
    let acts := (List.range c.count).filter (activeAt s m)
    let word (u : State) (j k : Nat) : Nat :=
      rowElem u.hart.vec (c.vwb.toNat + d.toNat + (j * r + 4 * k) / 4096) ((j * r + 4 * k) % 4096 / 4) 32
    let q (w : RWord) : State := s.queued (entryOf s w.toWord 0 .none (.pair b))
    let rows := acts.map idx
    let lone (k i : Nat) : Prop := ∀ i' ∈ rows, ∀ k' < r / 4, (i', k') ≠ (i, k) → P i' k' + 4 ≤ P i k ∨ P i k + 4 ≤ P i' k'
    let summed (o : BitVec 3) (xs : List Nat) : Rounded := match xs with
      | [] => (0, 0)
      | x :: xs => xs.foldl (fun y z => ((accOf o y.1 z).1, y.2 ||| (accOf o y.1 z).2)) (x, 0)
    let scattered (i : Instr) (w : RWord) (k : Access) (new : State → Nat → Nat → Rounded) : Prop :=
      Unlocked (q w) → (∀ x ∈ rows, ∀ y < r / 4, Reaches k .other (q w) (at' x y) 4 (P x y) ∧ Clean (q w) (P x y) 4) →
      ∃ t, exec i s = .next t ∧ t.hart.vq = [] ∧ t.hart.trap = s.hart.trap ∧ t.hart.vec.rows = s.hart.vec.rows ∧
        t.hart.task = s.hart.task ∧ t.hart.gathered = (s.withGathered rows).hart.gathered ∧
        t.hart.sys = { s.hart.sys with fflags := t.hart.sys.fflags } ∧
        ((∀ x ∈ rows, ∀ y < r / 4, lone y x) → t.hart.sys.fflags = s.hart.sys.fflags ||| flagsOver rows.length (fun _ => true) fun n =>
          flagsOver (r / 4) (fun _ => true) fun y => (new (q w) (rows.getD n 0) y).2) ∧
        (∀ x ∈ rows, ∀ y < r / 4, lone y x → t.memNat (P x y) 4 = (new (q w) x y).1) ∧
        (∀ p, (∀ x ∈ rows, ∀ y < r / 4, p < P x y ∨ P x y + 4 ≤ p) → t.byteAt p = (q w).byteAt p)
    (GatherOk s a b r add n → 1 ≤ n → MaskOk s m → PlainRows s d.toNat span → (∀ j ∈ acts, idx j < n) →
      (span = 0 ∨ d.toNat + span ≤ a.toNat ∨ a.toNat + c.rcN ≤ d.toNat →
        let w := encRgather d a b m
        Unlocked (q w) → (∀ x ∈ rows, ∀ y < r / 4, MemRead (q w) .other (at' x y) 4 (P x y)) →
        ∃ t, exec (.rgather d a b m) s = .next t ∧ OnlyRows (tileRows s d span) (s.withGathered rows) t ∧
          ∀ j < c.count, ∀ k < r / 4, word t j k =
            if activeAt s m j then (q w).memNat (P (idx j) k) 4
            else if c.maskmode = 1 ∧ c.est ≤ j then 0 else word s j k) ∧
      scattered (.rscat d a b m) (encRscat d a b m) .store (fun _ x y =>
        (word s ((acts.filter fun j => idx j == x).getLastD 0) y, 0)) ∧
      scattered (.rscatadd d a b m) (encRscatadd d a b m) .atomic (fun u x y =>
        let z := summed (BitVec.ofNat 3 add) ((acts.filter fun j => idx j == x).map fun j => word s j y)
        let new := accOf (BitVec.ofNat 3 add) (u.memNat (P x y) 4) z.1
        (new.1, z.2 ||| new.2))) ∧
    (Ready s → (sparseGet [] s.hart.queues 4).length < 8 →
      exec .rgstat s = retiredWith s (encRgstat).toWord 0 .none .none fun h => sentQ4 h h.gathered) ∧
    (∀ v vs, s.hart.pendMce = v :: vs →
      exec .deferredMce s = .next (takeTrap true .mce v { s with hart := { s.hart with pendMce := vs } }))

/-- R385–R393, R359, R360: SHLST stores a strip and passes it through its filter slot; KVXLT turns page numbers into frames, and
posts an event for a page that has none, a page whose block is being paged in joining that page-in; KVCOMMIT, KVROLL and KVFORK trim and
share tables; the copy of a page-in ends, which leaves its records to be sent, and one with no record to send leaves.
Slots and page-ins follow the model's readings: log 58, 72. -/
def Obligations.NearResults : Prop :=
  ∀ (d a b : BitVec 7) (m : BitVec 1) (idx : BitVec 4) (P : Nat → Nat) (s : State),
    let c := s.hart.cfg
    let A := scalarVal s.hart a
    let A' := scalarVal s.hart (a + 1)
    let B := scalarVal s.hart b
    let B' := scalarVal s.hart (b + 1)
    let q4 := sparseGet [] s.hart.queues 4
    let settled (t : State) : Prop := t.hart.vq = [] ∧ t.hart.trap = s.hart.trap
    (TilesOk s m [d] (.vi 0) → c.et = 5 → CapOk s.hart (.pair a) → CapOk s.hart (.pair b) →
      let e := entryOf s (encShlst d a b m).toWord 0 (.pair a) (.pair b)
      let q := s.queued e
      let n := shSlot A'.toNat
      let fresh : Slot := ⟨s.hart.task.id, ringOf B', coreOf s.id, 0xFF800000, 0, [], false, false⟩
      let xs := ((List.range c.count).filter (activeFrom0 c m (predOf s.hart.vec c.psel.toNat))).map fun j =>
        (j, elemOf s d 32 j)
      let old := if shFirst A'.toNat then fresh else (sparseGet none s.myDie.slots n).getD fresh
      let slot := passStrip old (bitsOf A'.toNat 63 32) (shK A'.toNat) A.toNat B.toNat xs
      let u := storedElems c.count (activeAt s m) (fun j => putMem 32 j (elemOf s d 32 j) (P j)) q
      Unlocked q → (shCheck a b e).exec q = (.ok (), q) →
      (∀ j < c.count, activeAt s m j = true → MemWrite q .other (A + BitVec.ofNat 64 (4 * j)) 4 (P j)) →
      ∃ t, exec (.shlst d a b m) s = .next t ∧ settled t ∧ t.hart.vec.rows = s.hart.vec.rows ∧
        (shLast A'.toNat = false → t.mem = u.mem ∧ sparseGet none t.myDie.slots n = some slot) ∧
        (∀ f v, shLast A'.toNat = true → (postRecord slot.ringCore slot.ring (slotRecord slot)).exec u = (.ok f, v) →
          t.mem = v.mem ∧ t.cores = v.cores ∧
          sparseGet none t.myDie.slots n = if f then none else some { slot with ready := true })) ∧
    (TilesOk s m [a, d, d + 1] (.vi 0) → c.et = 4 → c.rcN = 1 → c.vlN ≤ 1024 → d.toNat < 127 → CapOk s.hart (.pair b) →
      c.est = 0 →
      let q := s.queued (entryOf s (encKvxlt d a b m).toWord 0 .none (.pair b))
      let npg := bitsOf B'.toNat 47 32
      let page (i : Nat) : Nat := elemOf s a 32 i
      let on (i : Nat) : Bool := activeAt s m i
      let second (x : Nat) : Nat := if kvMapped x then stage2 q (kvOwner x) (kvBlock x) else 0
      ∀ (rg : Nat × Nat × Ring) (E : Nat → Nat), ringAddrBad q (B'.toNat - 2 ^ 32 * npg) = false → npg ≠ 0 → B.toNat % 8 = 0 →
        (needRing (ringOf B') b).exec q = (.ok rg, q) → c.vlN ≤ rg.2.2.free → q4.length < 8 →
        (∀ i < c.vlN, on i = true → page i < npg ∧
          (readLocal (localAt B (page i)) .load).exec q = (.ok (P i, E i), q)) →
        let done (f : Nat → Nat) (n : Nat) (t : State) : Prop := settled t ∧
          sparseGet [] t.hart.queues 4 = q4 ++ [BitVec.ofNat 64 n] ∧
          TileIs s t d 32 (fun i => if on i then some (f i % 2 ^ 32) else none) ∧
          TileIs s t (d + 1) 32 (fun i => if on i then some (f i / 2 ^ 32) else none) ∧
          (∀ i < c.vlN, on i = true → (predOf t.hart.vec c.psel.toNat).getLsbD i = decide (f i ≠ 0)) ∧
          ∀ i < c.vlN, on i = false → (predOf t.hart.vec c.psel.toNat).getLsbD i =
            (c.maskmode == 0 && (predOf s.hart.vec c.psel.toNat).getLsbD i)
        ((∀ i < c.vlN, on i = true → allocated (second (E i)) = true ∧ stage2Cxl (second (E i)) = false ∧
            stage2Frame (second (E i)) ≠ 0) →
          ∃ t, exec (.kvxlt d a b m) s = .next t ∧ done (fun i => stage2Frame (second (E i))) 0 t ∧ t.mem = q.mem) ∧
        (∀ i < c.vlN, (∀ k < c.vlN, on k = decide (k = i)) → Unlocked q →
          let o := kvOwner (E i)
          let asks : Miss := ⟨BitVec.ofNat 32 (page i), ringOf B', coreOf s.id, BitVec.ofNat 64 (P i), pkgOf s.id⟩
          let posts (kind : Nat) (u t : State) : Prop := ∀ f v,
            (postRecord (coreOf s.id) (ringOf B') (eventBytes (page i) kind (BitVec.ofNat 64 (kvBlock (E i))))).exec u = (.ok f, v) →
            t.mem = v.mem ∧ t.cores = v.cores
          (allocated (second (E i)) = false → ∃ t, exec (.kvxlt d a b m) s = .next t ∧ done (fun _ => 0) 1 t ∧ posts 2 q t) ∧
          (allocated (second (E i)) = true → stage2Cxl (second (E i)) = true → kvSpec (second (E i)) = false →
            ∃ t, exec (.kvxlt d a b m) s = .next t ∧ done (fun _ => 0) 1 t ∧
              (let begun := q.putNat ((stage2At q o (kvBlock (E i))).getD 0) 8 (second (E i) + 8)
               let popped := popStack (s.pkg o).kvhstk.toNat begun
               posts 0 ((popped.map Prod.snd).getD begun) t ∧
               (t.pkg o).pageIns = (s.pkg o).pageIns ++ [⟨BitVec.ofNat 64 (kvBlock (E i)), popped.map fun x => BitVec.ofNat 64 x.1, s.id,
                 [asks], 0, none⟩])) ∧
          (allocated (second (E i)) = true → stage2Cxl (second (E i)) = true → kvSpec (second (E i)) = true →
            ∃ t, exec (.kvxlt d a b m) s = .next t ∧ done (fun _ => 0) 1 t ∧ posts 1 q t ∧
              (t.pkg o).pageIns = (s.pkg o).pageIns.map fun p =>
                if p.block.toNat = kvBlock (E i) ∧ p.ended = none then { p with misses := p.misses ++ [asks] } else p))) ∧
    (Ready s → CapOk s.hart (.pair a) → scalarOk s.hart b = true → q4.length < 8 → A.toNat % 8 = 0 →
      let trims (i : Instr) (w : RWord) (roll : Bool) : Prop :=
        let q := s.queued (entryOf s w.toWord 0 (.pair a) (.scalar b))
        Unlocked q →
        ((∀ p < A'.toNat, MemRead q .other (A + BitVec.ofNat 64 (8 * p)) 8 (P p) ∧
            (kvMapped (q.memNat (P p) 8) && kvSpec (q.memNat (P p) 8)) = false) → 1 ≤ A'.toNat → A'.toNat < 2 ^ 16 →
          exec i s = retiredWith s w.toWord 0 (.pair a) (.scalar b) fun h => sentQ4 h 0) ∧
        (∀ E, A' = 1 → MemRead q .other A 8 (P 0) → MemWrite q .other A 8 (P 0) → q.memNat (P 0) 8 = E → kvMapped E = true →
          kvSpec E = true → (needResolved A E).exec q = (.ok (), q) →
          (kvCnt E ≤ B.toNat → 0 < B.toNat → exec i s = .next (State.retired
            (let u := if roll then q else q.putNat (P 0) 8 (E - 8)
             { u with hart := sentQ4 u.hart 0 }))) ∧
          (B.toNat < kvCnt E → 0 < B.toNat → exec i s = .next (State.retired
            (let u := q.putNat (P 0) 8 (E - 32 * kvCnt E + 32 * B.toNat - (if roll then 0 else 8))
             { u with hart := sentQ4 u.hart (BitVec.ofNat 64 (2 ^ 32)) }))) ∧
          (B = 0 → allocated (stage2 q (kvOwner E) (kvBlock E)) = true → stage2Shared (stage2 q (kvOwner E) (kvBlock E)) ≠ 0 →
            ∀ x, stage2At q (kvOwner E) (kvBlock E) = some x → Apart [(P 0, 8), (x, 8)] → exec i s = .next (State.retired
              (let u := (q.putNat (P 0) 8 0).putNat x 8 (stage2 q (kvOwner E) (kvBlock E) - 16)
               { u with hart := sentQ4 u.hart 1 }))))
      trims (.kvcommit a b) (encKvcommit a b) false ∧ trims (.kvroll a b) (encKvroll a b) true ∧
      (let q := s.queued (entryOf s (encKvfork a b).toWord 0 (.pair a) (.scalar b));
        A'.toNat % 8 = 0 →
        (B = 0 → exec (.kvfork a b) s = retiredWith s (encKvfork a b).toWord 0 (.pair a) (.scalar b) fun h => sentQ4 h 0) ∧
        (∀ E src dst, B = 1 → (forkCheck a A A' 0).exec q = (.ok (src, dst, E), q) →
          (kvMapped E = false → exec (.kvfork a b) s = .next (State.retired
            (let u := q.putNat dst 8 E
             { u with hart := sentQ4 u.hart 1 }))) ∧
          (kvMapped E = true → allocated (stage2 q (kvOwner E) (kvBlock E)) = true →
            stage2Shared (stage2 q (kvOwner E) (kvBlock E)) < 255 → ∀ x, stage2At q (kvOwner E) (kvBlock E) = some x →
            Apart [(src, 8), (dst, 8), (x, 8)] → ∃ t, exec (.kvfork a b) s = .next t ∧ settled t ∧
              t.memNat src 8 = (if bitOf E 4 then E else E + 16) ∧ t.memNat dst 8 = (if bitOf E 4 then E else E + 16) ∧
              t.memNat x 8 = stage2 q (kvOwner E) (kvBlock E) + 16 ∧ sparseGet [] t.hart.queues 4 = q4 ++ [1])))) ∧
    (∀ p, s.myPkg.pageIns[idx.toNat]? = some p → p.misses = [] →
      let left := s.myPkg.pageIns.eraseIdx idx.toNat
      let e := stage2 s (pkgOf s.id) p.block.toNat
      let x := s.myPkg
      (p.ended ≠ none → exec (.pageInComplete idx) s = .next (s.setPkg (pkgOf s.id) { x with pageIns := left })) ∧
      (∀ at', p.ended = none → (∀ y ∈ left, y.block ≠ p.block) → p.releases = 0 → stage2At s (pkgOf s.id) p.block.toNat = some at' →
        p.frame = none → exec (.pageInComplete idx) s = .next
          ((s.putNat at' 8 (if bitOf e 3 then e - 8 else e)).setPkg (pkgOf s.id) { x with pageIns := left })) ∧
      (∀ at' (f : Nat), p.ended = none → (∀ y ∈ left, y.block ≠ p.block) → p.releases = 0 →
        stage2At s (pkgOf s.id) p.block.toNat = some at' → p.frame = some (BitVec.ofNat 64 f) →
        x.kvcstk.toNat ≠ 0 → s.memNat x.kvcstk.toNat 8 < s.memNat (x.kvcstk.toNat + 8) 8 →
        let z := x.kv2bs.toNat * 4096
        Apart [(at', 8), (x.kvcstk.toNat, 24 + 8 * s.memNat x.kvcstk.toNat 8), (f, z), (stage2Frame e, z)] → 0 < z →
        (∀ y ∈ [f, f + z - 1, stage2Frame e, stage2Frame e + z - 1], absent s (pkgOf s.id) y = false) →
        isControlWindow f = false → isControlWindow (stage2Frame e) = false → Clean s (stage2Frame e) z →
        fencedSpan s f z = false → fencedSpan s (stage2Frame e) z = false → f % 4096 = 0 → f < 2 ^ 52 →
        ∃ t, exec (.pageInComplete idx) s = .next t ∧ t.hart = s.hart ∧ t.myPkg.pageIns = left ∧
          (∀ i < z, t.byteAt (f + i) = s.byteAt (stage2Frame e + i)) ∧
          t.memNat at' 8 = 1 + 16 * stage2Shared e + f ∧
          t.memNat x.kvcstk.toNat 8 = s.memNat x.kvcstk.toNat 8 + 1 ∧
          t.memNat (x.kvcstk.toNat + 16 + 8 * s.memNat x.kvcstk.toNat 8) 8 = stage2Frame e)) ∧
    (∀ p y ys, s.myPkg.pageIns[idx.toNat]? = some p → p.misses = y :: ys →
      let x := s.myPkg
      let e := stage2 s (pkgOf s.id) p.block.toNat
      let stays (p' : PageIn) (t : State) : Prop := t.myPkg.pageIns = x.pageIns.set idx.toNat p'
      (∀ at', p.ended = none → (∀ z ∈ x.pageIns.eraseIdx idx.toNat, z.block ≠ p.block) → p.releases = 0 →
        stage2At s (pkgOf s.id) p.block.toNat = some at' →
        (p.frame = none → ∃ t, exec (.pageInComplete idx) s = .next t ∧ t.hart = s.hart ∧ t.cores = s.cores ∧
          t.mem = (s.putNat at' 8 (if bitOf e 3 then e - 8 else e)).mem ∧ stays { p with ended := some (4, p.block) } t) ∧
        (∀ f : Nat, p.frame = some (BitVec.ofNat 64 f) → x.kvcstk.toNat ≠ 0 →
          s.memNat x.kvcstk.toNat 8 < s.memNat (x.kvcstk.toNat + 8) 8 →
          let z := x.kv2bs.toNat * 4096
          Apart ([(at', 8), (x.kvcstk.toNat, 24 + 8 * s.memNat x.kvcstk.toNat 8), (f, z), (stage2Frame e, z)] ++
            p.misses.map fun m => (m.local'.toNat, 8)) → 0 < z →
          (∀ y ∈ [f, f + z - 1, stage2Frame e, stage2Frame e + z - 1], absent s (pkgOf s.id) y = false) →
          isControlWindow f = false → isControlWindow (stage2Frame e) = false → Clean s (stage2Frame e) z →
          fencedSpan s f z = false → fencedSpan s (stage2Frame e) z = false → f % 4096 = 0 → f < 2 ^ 52 →
          ∃ t, exec (.pageInComplete idx) s = .next t ∧ t.hart = s.hart ∧ t.cores = s.cores ∧
            stays { p with ended := some (3, BitVec.ofNat 64 f) } t ∧
            (∀ i < z, t.byteAt (f + i) = s.byteAt (stage2Frame e + i)) ∧ t.memNat at' 8 = 1 + 16 * stage2Shared e + f ∧
            ∀ m ∈ p.misses,
              let old := s.memNat m.local'.toNat 8
              t.memNat m.local'.toNat 8 = old - 2 * bitsOf old 2 1 + (if m.asker = pkgOf s.id then 0 else 2))) ∧
      (∀ kind v f u, p.ended = some (kind, v) →
        (postRecord y.ringCore y.ring (eventBytes y.page.toNat kind v)).exec s = (.ok f, u) →
        (f = false → ∃ t, exec (.pageInComplete idx) s = .next t ∧ t.hart = s.hart ∧ t.mem = u.mem ∧ t.cores = u.cores ∧ stays p t) ∧
        (f = true → ys = [] → ∃ t, exec (.pageInComplete idx) s = .next t ∧ t.hart = s.hart ∧ t.mem = u.mem ∧ t.cores = u.cores ∧
          t.myPkg.pageIns = x.pageIns.eraseIdx idx.toNat)))

namespace Sys2Proof.Machine

/-- One element stored at every replica of a physical address (R379). -/
def putReplicas (w j x pa : Nat) (ps : List Nat) (u : State) : State :=
  ps.foldl (fun u p => putMem w j x (pa % 2 ^ 46 + p * 2 ^ 46) u) u

/-- An engine that acts for a hart at privilege 2, and whose package every other one answers, reaches n plain bytes with translation off
(R212, R315, R316, R330, R395). -/
def EngineSpan (s : State) (hart : Nat) (priv : BitVec 2) (a : Word) (n : Nat) : Prop :=
  (s.die (dieOf hart)).ptEn = 0 ∧ (s.hartAt hart).unanswered = none ∧ priv = 2 ∧ a.toNat + n ≤ 2 ^ 52 ∧ Clean s a.toNat n ∧
    ∀ x, a.toNat ≤ x → x < a.toNat + n →
      absent s (pkgOf hart) x = false ∧ isControlWindow x = false ∧ fencedAt s x = false

/-- The bytes of n units of a collective (R381). -/
def unitBytes (r : List (BitVec 32)) (n : Nat) : Nat := n * (collWords r * collBytes r)

/-- Unit u at a base, as memory holds it. -/
def unitAt (s : State) (r : List (BitVec 32)) (base : Word) (u : Nat) : List Nat := (List.range (collWords r)).map fun k =>
  s.memNat (base.toNat + (u * collWords r + k) * collBytes r) (collBytes r)

/-- Send unit u of a member: the identity of the OP where its send base is 0 (R381). -/
def sentUnit (s : State) (r : List (BitVec 32)) (u : Nat) : List Nat :=
  if collSend r = 0 then identityUnit r else unitAt s r (collSend r) u

/-- A unit that combines two others in the one order or in the other, and the flags that this sets (R382). -/
def Combines (r : List (BitVec 32)) (x y z : List Nat) (fl : Flags) : Prop :=
  (z, fl) = reduceUnit r x y ∨ (z, fl) = reduceUnit r y x

/-- What the two members of a collective receive, and the flags that combining their units sets (R381): k is the rank of a member, r and
r' are the records of ranks 0 and 1, p and p' their packages. -/
def Received (s : State) (p p' : Nat) (r r' : List (BitVec 32)) (got : Nat → Nat → List Nat) (fl : Flags) : Prop :=
  let n := collN r
  let sum (m : Nat) (z : Nat → List Nat) : Prop := ∃ fls : Nat → Flags,
    (∀ u < m, Combines r (sentUnit s r u) (sentUnit s r' u) (z u) (fls u)) ∧ fl = (List.range m).foldl (fun f u => f ||| fls u) 0
  if collKind r = 0 then (∀ u < n, got 1 u = got 0 u) ∧ sum n (got 0)
  else if collKind r = 1 then fl = 0 ∧ ∀ k < 2, ∀ u < 2 * n,
    got k u = if u < n then sentUnit s r u else sentUnit s r' (u - n)
  else if collKind r = 2 then sum (2 * n) fun u => if u < n then got 0 u else got 1 (u - n)
  else fl = 0 ∧ ∀ k < 2, ∀ u < n, (collRoot r = p → got k u = sentUnit s r u) ∧ (collRoot r = p' → got k u = sentUnit s r' u)

/-- The status that a hart keeps of a collective (R384). -/
def collStatus (s : State) (hart : Nat) (id : BitVec 16) : Option (BitVec 8) :=
  (((s.hartAt hart).colls.reverse.find? fun p => p.1 == id).bind Prod.snd)

end Sys2Proof.Machine

/-- R379–R384: MCST stores each element at every replica; COLL puts a good record into the engine and delivers its id; CWAITC delivers
a known status, or 255 for an unknown id, and waits for one to come; the engine waits for every member, ends a collective
whose members disagree with status 3 and one that a member can no longer reach with status 4, and for two members writes what every
KIND, OP and TYPE gives into their buffers, with the flags to their issuing harts.
The engine follows the model's readings: log 59. -/
def Obligations.FabricResults : Prop :=
  ∀ (d a b : BitVec 7) (m : BitVec 1) (idx : BitVec 4) (s : State),
    let c := s.hart.cfg
    let w := c.width
    let z := elemBytes w
    let A := scalarVal s.hart a
    let B := scalarVal s.hart b
    let me := pkgOf s.id
    let q4 := sparseGet [] s.hart.queues 4
    (TilesOk s m [d] (.vi 0) → c.et < 12 → scalarOk s.hart a = true → scalarOk s.hart b = true →
      let ps := (List.range 64).filter fun p => B.getLsbD p
      let q := s.queued (entryOf s (encMcst d a b m).toWord 0 (.scalar a) (.scalar b))
      ((∀ p ∈ ps, reachable s me p = true) →
        ∀ P : Nat → Nat, Unlocked q → (∀ j < c.count, activeAt s m j = true →
          MemWrite q .other (A + BitVec.ofNat 64 (if w = 4 then j / 2 else z * j)) z (P j) ∧
          ∀ p ∈ ps, absent s me (P j % 2 ^ 46 + p * 2 ^ 46) = false ∧ fencedAt s (P j % 2 ^ 46 + p * 2 ^ 46) = false) →
        exec (.mcst d a b m) s = .next (State.retired
          (storedElems c.count (activeAt s m) (fun j => putReplicas w j (elemOf s d w j) (P j) ps) q))) ∧
      (∀ p ∈ ps, reachable s me p = false → SaveAreaOk s → ∃ t, exec (.mcst d a b m) s = .next t ∧
        t.hart.trap.cause = 1#1 ++ Cause.prot.code ∧ t.hart.trap.xval = B)) ∧
    (Ready s → CapOk s.hart (.pair a) → RowsIn s d.toNat 1 → Unbound s d.toNat → q4.length < 8 →
      accessesPending s = false → s.myPkg.colls.length < 16 → s.myCore.locks.length < 16 →
      let q := s.queued (entryOf s (encColl d a).toWord 0 (.pair a) .none)
      let r := rowRecordOf s d
      let id := s.myPkg.collSeq
      let send := unitGranules r (collSend r) (if collSend r = 0 then 0 else sendUnits r me)
      let recv := unitGranules r (collRecv r) (recvUnits r)
      ∀ k, Unlocked q → collBad me r = none → (collSend r).toNat % 4 = 0 → (collRecv r).toNat % 4 = 0 →
        (needCompletion (A, scalarVal s.hart (a + 1)) a true).exec q = (.ok k, q) →
        (needCompletionRing a k).exec q = (.ok (), q) → collOf s me (collTag r) = none →
        ∃ t, exec (.coll d a) s = .next t ∧ t.hart.vq = [] ∧ t.hart.trap = s.hart.trap ∧ t.mem = q.mem ∧
          t.myPkg = { s.myPkg with
            colls := s.myPkg.colls ++ [⟨id, s.id, r, k, s.hart.fetch.pc, s.hart.trap.priv, none⟩]
            collSeq := id + 1 } ∧
          t.myCore.locks = s.myCore.locks ++ [⟨s.id, true, id.toNat, false, send.1, send.2, false, recv.1, recv.2⟩] ∧
          t.hart.colls = (s.hart.colls ++ [(id, none)]).drop (s.hart.colls.length - 15) ∧
          sparseGet [] t.hart.queues 4 = q4 ++ [id.zeroExtend 64]) ∧
    (Ready s → scalarOk s.hart a = true → q4.length < 8 →
      let id := A.truncate 16
      ((∀ p ∈ s.hart.colls, p.1 ≠ id) →
        exec (.cwaitc a) s = retiredWith s (encCwaitc a).toWord 0 (.scalar a) .none fun h => sentQ4 h 0xFF) ∧
      (∀ st, collStatus s s.id id = some st →
        exec (.cwaitc a) s = retiredWith s (encCwaitc a).toWord 0 (.scalar a) .none fun h => sentQ4 h (st.zeroExtend 64)) ∧
      ((∃ p ∈ s.hart.colls, p.1 = id) → collStatus s s.id id = none → ∃ t, exec (.cwaitc a) s = .next t ∧
        t.hart.vq.length = 1 ∧ t.hart.trap = s.hart.trap ∧ sparseGet [] t.hart.queues 4 = q4)) ∧
    (∀ x, s.myPkg.colls[idx.toNat]? = some x → x.held = none →
      let tag := collTag x.record
      ((∀ p ∈ collMembers x.record, reachable s me p = true) → (∃ p ∈ collMembers x.record, collOf s p tag = none) →
        (∀ p ∈ collMembers x.record, ∀ y, collOf s p tag = some y → (s.hartAt y.hart).unanswered = none) →
        exec (.collCompletion idx) s = .next s) ∧
      (∀ p p' y y', collMembers x.record = [p, p'] → (∀ n ∈ [p, p'], reachable s me n = true) → p ≠ p' →
        collOf s p tag = some y → collOf s p' tag = some y' → y.hart ≠ y'.hart →
        (s.hartAt y.hart).unanswered = none → (s.hartAt y'.hart).unanswered = none → y.comp.kind = 0 → y'.comp.kind = 0 →
        (y.id, none) ∈ (s.hartAt y.hart).colls → (y'.id, none) ∈ (s.hartAt y'.hart).colls →
        let gone (t : State) : Prop :=
          (t.pkg p).colls = (s.pkg p).colls.filter (fun c => c.id != y.id) ∧
          (t.pkg p').colls = (s.pkg p').colls.filter (fun c => c.id != y'.id)
        let status (t : State) (st : BitVec 8) : Prop := (y.id, some st) ∈ (t.hartAt y.hart).colls ∧
          (y'.id, some st) ∈ (t.hartAt y'.hart).colls
        (collDiffers x.record y.record = true ∨ collDiffers x.record y'.record = true →
          ∃ t, exec (.collCompletion idx) s = .next t ∧ t.mem = s.mem ∧ gone t ∧ status t 3) ∧
        (collDiffers x.record y.record = false → collDiffers x.record y'.record = false →
          let r := x.record
          collMask y.record = collMask r → collMask y'.record = collMask r → collKind r ≤ 3 → collOp r ≤ 3 → p < p' →
          collType r ∈ [3, 4, 5, 7] → (collOp r = 3 → collType r = 5 ∧ 3 ≤ collWords r) → (collKind r = 3 → collRoot r ∈ [p, p']) →
          let sends (p : Nat) (y : Collective) : Prop := collSend y.record ≠ 0 →
            EngineSpan s y.hart y.priv (collSend y.record) (unitBytes r (sendUnits r p))
          let into := unitBytes r (recvUnits r)
          sends p y → sends p' y' → EngineSpan s y.hart y.priv (collRecv y.record) into →
          EngineSpan s y'.hart y'.priv (collRecv y'.record) into →
          Apart [((collRecv y.record).toNat, into), ((collRecv y'.record).toNat, into)] →
          ∃ t fl, exec (.collCompletion idx) s = .next t ∧ gone t ∧ status t 0 ∧
            (t.hartAt y.hart).sys.fflags = (s.hartAt y.hart).sys.fflags ||| fl ∧
            (t.hartAt y'.hart).sys.fflags = (s.hartAt y'.hart).sys.fflags ||| fl ∧
            Received s p p' y.record y'.record (fun k u => unitAt t r (collRecv (if k = 0 then y else y').record) u) fl)) ∧
      (∀ p p' y, collMembers x.record = [p, p'] → p ≠ p' → collOf s p tag = some y → collOf s p' tag = none →
        reachable s me p' = false → y.comp.kind = 0 → (y.id, none) ∈ (s.hartAt y.hart).colls →
        ∃ t, exec (.collCompletion idx) s = .next t ∧ t.mem = s.mem ∧ (y.id, some 4) ∈ (t.hartAt y.hart).colls ∧
          (t.pkg p).colls = (s.pkg p).colls.filter (fun c => c.id != y.id)))

namespace Sys2Proof.Machine

/-- A sketch of m cells that can be read at v (R397): P gives the physical address of each of its words, which do not meet. -/
structure SketchAt (q : State) (v : Word) (P : Nat → Nat) (m : Nat) : Prop where
  size : skSize m = true
  aligned : v.toNat % 8 = 0
  mapped : (translateSpan .load v (16 + 24 * m)).exec q = (.ok (), q)
  reads : ∀ i < 2 + 3 * m, MemRead q .other (v + BitVec.ofNat 64 (8 * i)) 8 (P i)
  lone : ∀ i < 2 + 3 * m, ∀ k < 2 + 3 * m, i ≠ k → P i + 8 ≤ P k ∨ P k + 8 ≤ P i

/-- The same words can be written. -/
def SketchRw (q : State) (v : Word) (P : Nat → Nat) (m : Nat) : Prop :=
  (translateSpan .store v (16 + 24 * m)).exec q = (.ok (), q) ∧
    ∀ i < 2 + 3 * m, Reaches .store .other q (v + BitVec.ofNat 64 (8 * i)) 8 (P i)

/-- The cells that memory holds at a sketch's words. -/
def cellsIn (u : State) (P : Nat → Nat) (m : Nat) : List Cell := (List.range m).map fun i =>
  let w (k : Nat) : Nat := u.memNat (P (2 + 3 * i + k)) 8
  ⟨BitVec.ofNat 32 (w 0), BitVec.ofNat 32 (w 0 / 2 ^ 32), BitVec.ofNat 64 (w 1), BitVec.ofNat 64 (w 2)⟩

/-- The header of a sketch that memory holds: m, and zeros (R397). -/
def headerIn (u : State) (P : Nat → Nat) (m : Nat) : Prop := u.memNat (P 0) 8 = m ∧ u.memNat (P 1) 8 = 0

end Sys2Proof.Machine

/-- R396: taking an entry out of a sketch undoes putting it in, whatever the sketch. -/
def Sys2Proof.Claim.SketchInverse : Prop :=
  ∀ (sg : BitVec 32) (key dig : Word) (cells : List Cell), skApply (-sg) key dig (skApply sg key dig cells) = cells

/-- R400–R406: SKBLD applies entries to a sketch of SKM cells; SKSUB subtracts cell by cell; SKPEEL emits the entries that peel, keeps
the rest, and goes on or raises PEEL at the last round; SKSTAT counts nonzero and pure cells; SKRECON delivers status 3
without a valid class, and after the rounds its word and the remote winners that it stages, with the peer's records, status 2 where
they do not all fit; the peer's Skiver builds the sketch of a valid class.
Classes, peers and rounds follow the model's readings: log 60. -/
def Sys2Proof.Claim.SkiverResults : Prop :=
  ∀ (a b : BitVec 7) (n t' : BitVec 1) (cls : BitVec 8) (k : BitVec 20) (P Q : Nat → Nat) (s : State),
    let A := scalarVal s.hart a
    let A' := scalarVal s.hart (a + 1)
    let B := scalarVal s.hart b
    let q4 := sparseGet [] s.hart.queues 4
    let settled (t : State) : Prop := t.hart.vq = [] ∧ t.hart.trap = s.hart.trap ∧ t.hart.vec.rows = s.hart.vec.rows
    (Ready s → CapOk s.hart (.pair a) → scalarOk s.hart b = true → s.hart.cfg.est = 0 →
      let m := skM s.hart.sys.skm
      let q (c : BitVec 1) : State := s.queued (entryOf s (encSkbld n c a b).toWord 0 (.pair a) (.scalar b))
      let entry (u : State) (i : Nat) : Word × Word := (BitVec.ofNat 64 (u.memNat (Q (2 * i)) 8), BitVec.ofNat 64 (u.memNat (Q (2 * i + 1)) 8))
      let sign : BitVec 32 := if n = 1 then BitVec.allOnes 32 else 1
      ∀ (c : BitVec 1) (old : List Cell), old.length = m → SketchAt (q c) A P m → SketchRw (q c) A P m → Unlocked (q c) → A'.toNat % 8 = 0 →
        (c = 1 → headerIn (q c) P m ∧ old = cellsIn (q c) P m) → (c = 0 → old = List.replicate m Cell.zero) →
        (∀ i < 2 * B.toNat, MemRead (q c) .other (A' + BitVec.ofNat 64 (8 * i)) 8 (Q i) ∧
          ∀ k < 2 + 3 * m, Q i + 8 ≤ P k ∨ P k + 8 ≤ Q i) → B.toNat < 2 ^ 18 →
        ∃ t, exec (.skbld n c a b) s = .next t ∧ settled t ∧ headerIn t P m ∧
          cellsIn t P m = (List.range B.toNat).foldl (fun cs i => skApply sign (entry (q c) i).1 (entry (q c) i).2 cs) old) ∧
    (Ready s → scalarOk s.hart a = true → scalarOk s.hart b = true →
      let q := s.queued (entryOf s (encSksub a b).toWord 0 (.scalar a) (.scalar b) true)
      ∀ xs ys : List Cell, SketchAt q A P xs.length → SketchRw q A P xs.length → SketchAt q B Q ys.length → xs.length = ys.length → Unlocked q →
        headerIn q P xs.length → headerIn q Q ys.length → xs = cellsIn q P xs.length → ys = cellsIn q Q ys.length →
        ∃ t, exec (.sksub a b) s = .next t ∧ settled t ∧ cellsIn t P xs.length = (List.zip xs ys).map (fun p =>
          ⟨p.1.count - p.2.count, p.1.check ^^^ p.2.check, p.1.key ^^^ p.2.key, p.1.dig ^^^ p.2.dig⟩)) ∧
    (Ready s → CapOk s.hart (.pair a) → scalarOk s.hart b = true → q4.length < 8 →
      let q := s.queued (entryOf s (encSkpeel t' a b).toWord 0 (.pair a) (.scalar b) true)
      ∀ cells rest out status, SketchAt q A P cells.length → SketchRw q A P cells.length → Unlocked q → headerIn q P cells.length → cells = cellsIn q P cells.length →
        A'.toNat % 8 = 0 → (translateSpan .store A' (24 * B.toNat)).exec q = (.ok (), q) →
        peel B.toNat cells = (rest, out, status) →
        (∀ i < 3 * out.length, MemWrite q .other (A' + BitVec.ofNat 64 (8 * i)) 8 (Q i) ∧
          (∀ k < 2 + 3 * cells.length, Q i + 8 ≤ P k ∨ P k + 8 ≤ Q i) ∧
          ∀ k < 3 * out.length, i ≠ k → Q i + 8 ≤ Q k ∨ Q k + 8 ≤ Q i) →
        let next := endRound s.hart.sys status s.hart.sys.skm
        ∃ t, exec (.skpeel t' a b) s = .next t ∧ t.hart.vq = [] ∧ t.hart.sys.skm = next.1 ∧
          ((next.2 && t' == 0) = false → cellsIn t P cells.length = rest ∧
            (∀ i x, out[i]? = some x → t.memNat (Q (3 * i)) 8 = x.1.toNat ∧ t.memNat (Q (3 * i + 1)) 8 = x.2.1.toNat ∧
              t.memNat (Q (3 * i + 2)) 8 = if x.2.2 then 1 else 2 ^ 64 - 1) ∧ sparseGet [] t.hart.queues 4 = q4 ++
            [BitVec.ofNat 64 (out.length % 2 ^ 32 + 2 ^ 32 * status + 2 ^ 40 * skRnd next.1)] ∧ t.hart.trap = s.hart.trap) ∧
          ((next.2 && t' == 0) = true → t.hart.trap.cause = 1#1 ++ Cause.peel.code ∧
            t.hart.trap.xval = BitVec.ofNat 64 (out.length % 2 ^ 32 + 2 ^ 32 * cells.length))) ∧
    (Ready s → scalarOk s.hart a = true → q4.length < 8 →
      let q := s.queued (entryOf s (encSkstat a).toWord 0 (.scalar a) .none true)
      ∀ cells : List Cell, SketchAt q A P cells.length → Unlocked q → headerIn q P cells.length → cells = cellsIn q P cells.length →
        exec (.skstat a) s = retiredWith s (encSkstat a).toWord 0 (.scalar a) .none fun h => sentQ4 h
          (BitVec.ofNat 64 ((cells.filter (· != Cell.zero)).length + 2 ^ 32 * ((List.range cells.length).filter (skPure cells)).length))) ∧
    (Ready s → CapOk s.hart (.pair a) → scalarOk s.hart b = true → q4.length < 8 → A.toNat % 256 < 64 → A.toNat < 2 ^ 16 →
      A'.toNat % 8 = 0 →
      let q := s.queued (entryOf s (encSkrecon t' a b).toWord 0 (.pair a) (.scalar b) true)
      let p := A.toNat % 64
      let c := A.toNat / 256
      (s.myPkg.skctab = 0 → reachable s (pkgOf s.id) p = false ∨ (s.pkg p).skctab = 0 → exec (.skrecon t' a b) s =
        retiredWith s (encSkrecon t' a b).toWord 0 (.pair a) (.scalar b) fun h => sentQ4 h (BitVec.ofNat 64 (3 * 2 ^ 32))) ∧
      (∀ x y out status skm rounds m u, (readClass (pkgOf s.id) c).exec q = (.ok (some x), q) →
        (readClass p c).exec q = (.ok (some y), q) → reachable s (pkgOf s.id) p = true → x.r = y.r →
        (reconRounds s.hart.sys x y 16 0 s.hart.sys.skm).exec q = (.ok (out, status, skm, rounds, m), u) → u.hart = q.hart →
        (status = 0 → remoteWinners out = [] → ∃ t, exec (.skrecon t' a b) s = .next t ∧ settled t ∧ t.mem = u.mem ∧
          t.hart.sys.skm = skm ∧ sparseGet [] t.hart.queues 4 = q4 ++ [BitVec.ofNat 64 (2 ^ 40 * rounds +
            2 ^ 48 * Nat.min (localWinners out) 0xFFFF)]) ∧
        (∀ E R W : Nat → Nat, status = 0 → Unlocked u →
          let win := remoteWinners out
          let staged := Nat.min win.length B.toNat
          let words := 2 + y.r / 8
          let key (j : Nat) : Nat := u.memNat (E (2 * j)) 8
          (∀ i < 2 * y.n, MemRead u .other (y.entries + BitVec.ofNat 64 (8 * i)) 8 (E i)) →
          (∀ j, j + 1 < y.n → key j < key (j + 1)) →
          (∀ i < y.n * (y.r / 8), MemRead u .other (y.records + BitVec.ofNat 64 (8 * i)) 8 (R i)) →
          (∀ i < staged * words, MemWrite u .other (A' + BitVec.ofNat 64 (8 * i)) 8 (W i) ∧
            (∀ k < 2 * y.n, W i + 8 ≤ E k ∨ E k + 8 ≤ W i) ∧ (∀ k < y.n * (y.r / 8), W i + 8 ≤ R k ∨ R k + 8 ≤ W i) ∧
            ∀ k < staged * words, i ≠ k → W i + 8 ≤ W k ∨ W k + 8 ≤ W i) →
          ∃ t, exec (.skrecon t' a b) s = .next t ∧ settled t ∧ t.hart.sys.skm = skm ∧
            sparseGet [] t.hart.queues 4 = q4 ++ [BitVec.ofNat 64 (staged + 2 ^ 32 * (if B.toNat < win.length then 2 else 0) +
              2 ^ 40 * rounds + 2 ^ 48 * Nat.min (localWinners out) 0xFFFF)] ∧
            ∀ i x, i < staged → win[i]? = some x →
              let word (w : Nat) : Nat := t.memNat (W (i * words + w)) 8
              word 0 = x.1.toNat ∧ word 1 = x.2.toNat ∧ ∀ w < y.r / 8,
                (∀ j < y.n, key j = x.1.toNat → word (2 + w) = u.memNat (R (j * (y.r / 8) + w)) 8) ∧
                ((∀ j < y.n, key j ≠ x.1.toNat) → word (2 + w) = 0)) ∧
        (status = 1 → t' = 1 → ∃ t, exec (.skrecon t' a b) s = .next t ∧ settled t ∧ t.mem = u.mem ∧ t.hart.sys.skm = skm ∧
          sparseGet [] t.hart.queues 4 = q4 ++ [BitVec.ofNat 64 (2 ^ 32 + 2 ^ 40 * rounds)]) ∧
        (status = 1 → t' = 0 → ∃ t, exec (.skrecon t' a b) s = .next t ∧ t.hart.vq = [] ∧
          t.hart.trap.cause = 1#1 ++ Cause.peel.code ∧ t.hart.trap.xval = BitVec.ofNat 64 (2 ^ 32 * m)))) ∧
    ((readClass (pkgOf s.id) cls.toNat).exec s = (.ok none, s) → exec (.skiverPeerRequest cls k) s = .next s) ∧
    (∀ x cells u, (readClass (pkgOf s.id) cls.toNat).exec s = (.ok (some x), s) → skSize k.toNat = true →
      (classSketch x k.toNat).exec s = (.ok cells, s) → (writeSketch x.work cells).exec s = (.ok (), u) →
      exec (.skiverPeerRequest cls k) s = .next u)

/-- R396–R406: sketches and their reconciliation. -/
def Obligations.SkiverResults : Prop :=
  Sys2Proof.Claim.SketchInverse ∧ Sys2Proof.Claim.SkiverResults

namespace Sys2Proof.Machine

/-- A replay stands at a node that it has not begun and does not skip (R362–R366). -/
structure Standing (s : State) (r : Replay) (ws : List Word) (kind : Nat) : Prop where
  runs : s.myPkg.replay = some r
  fresh : r.inHand = []
  start : r.done = 0
  node : readNode s r = some ws
  isKind : nodeKind ws = kind
  kept : skipped r ws = false

/-- The node names a request that no earlier node of the replay named, and that is not cancelled (R365, R366; log 91). -/
def namesFirst (r : Replay) (ws : List Word) : Bool :=
  nodeReq ws != 0 && !r.named.contains (nodeReq ws) && !r.skip.contains (nodeReq ws)
def nodeNamed (r : Replay) (ws : List Word) : List (BitVec 16) :=
  if namesFirst r ws then nodeReq ws :: r.named else r.named

/-- The state once the node has begun, but for the replay: its request is active (R365). -/
def nodeBase (s : State) (r : Replay) (ws : List Word) : State :=
  if namesFirst r ws then setRequest (pkgOf s.id) (nodeReq ws) 1 s else s

/-- The replay behind the node. -/
def pastNode (r : Replay) (ws : List Word) : Replay :=
  { r with node := r.node + 32, inHand := [], done := 0, named := nodeNamed r ws }

end Sys2Proof.Machine

/-- R362–R366: the command processor starts a queued replay or rejects a bad entry, goes past a skipped node, and ends a replay at a
malformed one; each node has its effect and the replay goes on to the next: LAUNCH queues a task, WAITEV waits for its
counter, EVADD adds, KLOAD copies, GRAPH loads, NOTIFY writes and raises its vector, END ends the replay's requests.
That a LAUNCH whose mask names only dies that the part lacks passes, and that END with the number of a cancelled request still ends the
replay and leaves that request as it is, are the model's readings: log 91, 100. -/
def Sys2Proof.Claim.HarnessResults : Prop :=
  ∀ (s : State),
    let me := pkgOf s.id
    let x := s.myPkg
    let is (f : Pkg) (i : Instr) : Prop := exec i s = .next (s.setPkg me f)
    (∀ i skip rest, x.replay = none → x.ready = true → x.replays = (i, skip) :: rest →
      (readHarness s me i = none → is { x with replays := rest, err := true } .harnessReplay) ∧
      (∀ node param n, readHarness s me i = some (node, param, n) →
        is { x with replays := rest, replay := some ⟨i, node, param, n, [], skip, [], 0⟩ } .harnessReplay)) ∧
    (∀ r, x.replay = some r → r.inHand = [] →
      (readNode s r = none → ∃ u, exec .harnessReplay s = .next u ∧ u.hart = s.hart ∧ u.mem = s.mem ∧
        u.myPkg = { x with replay := none, err := true, msi := x.msi ++ [0] }) ∧
      (∀ ws, readNode s r = some ws → skipped r ws = true → exec .harnessReplay s = .next (s.setPkg me
        { x with replay := some { r with node := r.node + 32, inHand := [], done := 0 } }))) ∧
    (∀ r ws kind, Standing s r ws kind →
      let b := nodeBase s r ws
      let p0 := nodeP0 ws
      let ev := bitsOf p0 23 12
      let evDie := 4 * me + bitsOf p0 1 0
      let past (i : Instr) (f : State → Prop) : Prop := ∃ u, exec i s = .next u ∧ u.hart = s.hart ∧ u.id = s.id ∧
        u.myPkg.replay = some (pastNode r ws) ∧ f u
      (kind = 0 → ∃ u, exec .endReplay s = .next u ∧ u.hart = s.hart ∧ u.myPkg = { x with replay := none } ∧
        ∀ q ∈ nodeNamed r ws, requestState u me q = if requestState b me q = 1 then 2 else requestState b me q) ∧
      (kind = 1 →
        let words := (List.range 8).map fun i => BitVec.ofNat 64 (b.memNat (nodeP ws 1 + 8 * i) 8)
        (nodeDies s me ws = [] → past .launch fun u => u.mem = b.mem) ∧
        (nodeDies s me ws ≠ [] → parseDescriptor words = none → ∃ u, exec .launch s = .next u ∧ u.hart = s.hart ∧
          u.myPkg = { x with replay := none, err := true, msi := x.msi ++ [0] }) ∧
        (∀ t i, parseDescriptor words = some t → i < x.part.dies → (∀ k < 4, bitOf p0 k = (k == i)) → nodeP ws 2 = 1 →
          stageOk s (4 * me + i) t = true → t.waitV = false →
          (s.die (4 * me + i)).queue.length < Level.cap s (.die (4 * me + i)) →
          let seq := nextSeq (s.die (4 * me + i))
          past .launch fun u => (u.die (4 * me + i)).seq = seq ∧ (u.die (4 * me + i)).queue = (s.die (4 * me + i)).queue ++
            [newTask (taskId (4 * me + i) seq) { t with req := if nodeReq ws = 0 then t.req else nodeReq ws }
              (bitOf (nodeFlags ws) 0) s.time])) ∧
      (kind = 2 → (satisfied (s.event evDie ev) = true → past .waitev fun u => u.mem = b.mem) ∧
        (satisfied (s.event evDie ev) = false → ∃ u, exec .waitev s = .next u ∧ u.hart = s.hart ∧ u.mem = b.mem ∧
          u.myPkg.replay = some { r with inHand := ws, named := nodeNamed r ws })) ∧
      (kind = 3 → past .evadd fun u => u.event evDie ev = s.event evDie ev + BitVec.ofNat 32 (nodeP ws 1) ∧ u.mem = b.mem) ∧
      (kind = 4 → past .kload fun u => (∀ i < nodeP ws 3, u.byteAt (nodeP ws 2 + i) = b.byteAt (nodeP ws 1 + i)) ∧
        ∀ y, y < nodeP ws 2 ∨ nodeP ws 2 + nodeP ws 3 ≤ y → u.byteAt y = b.byteAt y) ∧
      (kind = 5 → ∀ i < x.part.dies, (∀ k < 4, bitOf p0 k = (k == i)) → holdsStaged s (4 * me + i) = false →
        past .graph fun u => (u.die (4 * me + i)).stages = graphStages (Config.graphImage (BitVec.ofNat 64 (nodeP ws 1)) s.freeCount) ∧
          u.mem = b.mem) ∧
      (kind = 6 → past .notify fun u => u.myPkg.msi = x.msi ++ [BitVec.ofNat 11 p0] ∧
        u.mem = (if absent s me (nodeP ws 1) || isControlWindow (nodeP ws 1) then b else b.putNat (nodeP ws 1) 8 (nodeP ws 2)).mem))

/-- R361, R364, R366, R368, R370, R123: a write to a register of the control window has its effect and a write elsewhere in it none;
HDOOR queues a replay, CANCEL ends an active request, HDBELL sets IPEND.HOST; a host access through BAR2 reaches the selected
quarter of an HBM; configuration requests are answered from READY on; a scalar load reads the window, a store writes it.
A write that is not an aligned 8-byte one and an access beyond MEMSZ complete with Unsupported Request.
That the command processor's addresses are physical, the graph image, the pages that CANCEL rolls back, and a request that lies in no
register or window are the model's: log 17, 23, 62, 66, 97. -/
def Sys2Proof.Claim.HostResults : Prop :=
  ∀ (d a : BitVec 7) (o : BitVec 9) (off : BitVec 40) (size : BitVec 13) (data : BitVec 32768) (val : Word)
    (wr one : BitVec 1) (s : State),
    let me := pkgOf s.id
    let x := s.myPkg
    let is (i : Instr) (f : Pkg) : Prop := exec i s = .next (s.setPkg me f)
    let doors : Pkg := { x with replays := x.replays ++ [(val.truncate 8, [])] }
    let answer (bs : List Byte) (bad : Bool) (k : Pkg) : Pkg := { k with reply := some ⟨bs, bad⟩ }
    let done : Pkg → Pkg := answer [] false
    let write : Instr := .controlWindowWrite ⟨off, 8⟩ val
    let then' (i : Instr) : Prop := ∃ u, exec i s = .next u ∧ exec write s = .next (u.setPkg me (done u.myPkg))
    (off = 0x08 → is write (done doors)) ∧
    (off = 0x10 → is write (done { x with htbase := val &&& 0x000FFFFFFFFFFFF0 })) ∧
    (off = 0x20 → is write (done { x with rqbase := val &&& 0x000FFFFFFFFFFFF8 })) ∧
    (off = 0x38 → is write (done { x with
      h2die := if bitsOf val.toNat 1 0 < x.part.dies then val.extractLsb' 0 2 else 0
      h2qtr := val.extractLsb' 2 2 })) ∧
    (off = 0x28 → then' (.cancel val)) ∧ (off = 0x30 → then' (.hdbell val)) ∧
    (off ∉ [0x08, 0x10, 0x20, 0x28, 0x30, 0x38] → off.toNat % 8 = 0 → is write (done x)) ∧
    (size ≠ 8 ∨ off.toNat % 8 ≠ 0 → is (.controlWindowWrite ⟨off, size⟩ val) (answer [] true x)) ∧
    (∀ at' n ts, 1 ≤ n → at' % 8 + n ≤ 8 → step { s with agenda := .hostRead me at' n :: ts } = .next
      ({ s.seen with agenda := ts }.setPkg me
        (answer (leBytes n (controlRead s me (at' / 8 * 8) / 2 ^ (at' % 8 * 8))) false x))) ∧
    is (.hdoor val) doors ∧
    (let n := me * 768 + bitsOf val.toNat 1 0 * 192 + bitsOf val.toNat 7 2 * 4 + bitsOf val.toNat 9 8
      let h := s.hartAt n;
      (bitsOf val.toNat 7 2 < 48 → bitsOf val.toNat 1 0 < x.part.dies → exec (.hdbell val) s =
        .next (s.setHartAt n { h with trap := { h.trap with ipend := h.trap.ipend ||| 2 } })) ∧
      (48 ≤ bitsOf val.toNat 7 2 ∨ x.part.dies ≤ bitsOf val.toNat 1 0 → exec (.hdbell val) s = .next s)) ∧
    (let r : BitVec 16 := val.truncate 16;
      (r = 0 ∨ requestState s me r ≠ 1 → exec (.cancel val) s = .next s) ∧
      (r ≠ 0 → requestState s me r = 1 → ∃ u, exec (.cancel val) s = .next u ∧
        ((∀ i < 4, (takeRequest r (4 * me + i) s).1 = []) →
          ∃ v, requestState v me r = 4 ∧ u = ((rollBackRequest me r).exec v).2) ∧
        (∀ y, x.replay = some y → u.myPkg.replay = some { y with skip := r :: y.skip }) ∧
        ∀ n, pkgOf n = me → (s.hartAt n).phase ≠ .idle → (s.hartAt n).task.desc.req = r → (s.hartAt n).task.check = false →
          (u.hartAt n).trap.ipend.getLsbD 3 = true)) ∧
    (let z := x.h2qtr.toNat * 2 ^ 36 + off.toNat
     let at' := me * 2 ^ 46 + x.h2die.toNat * 2 ^ 38 + z
     let access : Instr := .hostWindowAccess ⟨off, size⟩ wr data
     let n := size.toNat
     (1 ≤ n → off.toNat + n ≤ 2 ^ 36 →
      (z + n ≤ x.memsz.toNat * 2 ^ 28 →
        (wr = 1 → exec access s = .next ((s.putBytes at' (leBytes n data.toNat)).setPkg me (done x))) ∧
        (wr = 0 → is access (answer (sparseGetList memDefault s.mem at' n) false x))) ∧
      (x.memsz.toNat * 2 ^ 28 < z + n → is access (answer (if wr = 1 then [] else List.replicate n 0xFF) true x))) ∧
     (n = 0 ∨ 2 ^ 36 < off.toNat + n → exec access s = .next s)) ∧
    (x.ready = true → exec (.hostConfigRequest one) s = .next s) ∧
    (x.ready = false → is (.hostConfigRequest one) { x with configRetries := x.configRetries + 1 }) ∧
    (∀ pa u, scalarOk s.hart d = true → scalarOk s.hart a = true →
      let v := scalarVal s.hart a + o.signExtend 64 * 8
      v.toNat % 8 = 0 → isControlWindow pa = true →
      (Reaches .load .scalar s v 8 pa → exec (.ldd d a o) s = wroteScalar s d (BitVec.ofNat 64
        (controlRead s (physPkg pa) (pa % 2 ^ 40)))) ∧
      (Reaches .store .scalar s v 8 pa → (controlWrite (physPkg pa) (pa % 2 ^ 40) (scalarVal s.hart d).toNat).exec s = (.ok (), u) →
        exec (.std d a o) s = .next u.passed))

/-- R361–R366, R368, R370: the command processor and what the host does. The model's readings are those of log 17, 23, 62, 66, 91, 97
and 100. -/
def Obligations.HostResults : Prop :=
  Sys2Proof.Claim.HarnessResults ∧ Sys2Proof.Claim.HostResults

namespace Sys2Proof.Machine

/-- A link of the package in focus, and the package with that link replaced. -/
def linkOf (s : State) (n : BitVec 6) : Link := sparseGet Link.reset s.myPkg.links n.toNat
def withLink (s : State) (n : BitVec 6) (l : Link) : Host.Outcome State Fault Refusal :=
  .next (s.setPkg (pkgOf s.id) { s.myPkg with links := sparsePut Link.reset s.myPkg.links n.toNat l })

end Sys2Proof.Machine

/-- R372–R376, R395, R356: a sent flit takes the next number and stays in the replay buffer; a flit that is good and next is accepted and
any other is not, a bad one with a NAK; a NAK replays the flits from the named one on, drops those before it and counts
the replayed, the eighth replay of a flit makes
the link retrain, a failed retrain takes it down and moves its traffic, and a package that loses its last link leaves every PODMAP until
it is readmitted; an access to a package that does not answer raises MCE and its store is lost; an access from another package performs
at its home; the time master slews a clock by one count.
Which link takes the traffic, and the maps of lost and readmitted packages, are the model's: log 92. -/
def Sys2Proof.Claim.LinkResults : Prop :=
  ∀ (n : BitVec 6) (seq : BitVec 12) (vc kind : BitVec 8) (dest : BitVec 6) (load : BitVec 1824) (good wr : BitVec 1) (addr : BitVec 52)
    (val : Word) (p peer : BitVec 6) (a d : BitVec 7) (o : BitVec 9) (s : State),
    let me := pkgOf s.id
    let l := linkOf s n
    let flit : Flit := ⟨seq, vc, dest, kind, load⟩
    let come : Instr := .flitReceive n flit good
    let up (i : Nat) : Prop := (sparseGet Link.reset s.myPkg.links i).st = 2
    let spare (i : Nat) : Prop := i < 36 ∧ i ≠ n.toNat ∧ up i ∧ (sparseGet Link.reset s.myPkg.links i).switch = l.switch
    (n.toNat < 36 →
      (l.st = 2 → good = 1 → seq = l.seq → l.naked = false →
        exec come s = withLink s n { l with seq := l.seq + 1, inbox := l.inbox ++ [flit] }) ∧
      (l.st = 2 → good = 1 → seq = l.seq → l.naked = true → ∃ u, exec come s = .next u ∧
        linkOf u n = { l with seq := l.seq + 1, naked := false, inbox := l.inbox ++ [flit] } ∧ u.hart = s.hart) ∧
      (l.st = 2 → good = 0 → exec come s = withLink s n { l with naked := true }) ∧
      (l.st ≠ 2 ∨ (good = 1 ∧ seq ≠ l.seq) → exec come s = .next s) ∧
      (∀ ts, l.st = 2 → step { s with agenda := .flit me n vc dest kind load :: ts } = withLink { s.seen with agenda := ts } n
        { l with sendSeq := l.sendSeq + 1, sent := (l.sent ++ [{ flit with seq := l.sendSeq }]).drop (l.sent.length - 255) }) ∧
      (let again := l.sent.dropWhile fun f => f.seq != seq
       let tries := if l.named = seq then l.tries else 0
       (l.st = 2 → again ≠ [] → tries.toNat < 8 → exec (.linkReplay ⟨n, seq⟩) s = withLink s n
         { l with sent := again, replays := l.replays + BitVec.ofNat 32 again.length, named := seq, tries := tries + 1 }) ∧
       (l.st ≠ 2 ∨ again = [] ∨ 8 ≤ tries.toNat → exec (.linkReplay ⟨n, seq⟩) s = .next s)) ∧
      (l.st = 2 → 8 ≤ l.tries.toNat → exec (.linkRetrain n) s = withLink s n { l with st := 1, tries := 0 }) ∧
      (l.st ≠ 2 ∨ l.tries.toNat < 8 → exec (.linkRetrain n) s = .next s) ∧
      (l.st = 1 → ∃ u, exec (.linkDown n) s = .next u ∧ (linkOf u n).st = 0 ∧ u.hart = s.hart ∧
        ((∀ i, ¬spare i) → linkOf u n = { l with st := 0 }) ∧
        (∀ i, spare i → (∀ k < i, ¬spare k) → linkOf u n = { l with st := 0, sent := [] } ∧
          linkOf u (BitVec.ofNat 6 i) = l.sent.foldl Link.send (linkOf s (BitVec.ofNat 6 i))) ∧
        ((∀ i < 36, i ≠ n.toNat → ¬up i) → ∀ q < 64, (u.pkg q).podmap =
          if q = me then BitVec.ofNat 64 (2 ^ me) else (s.pkg q).podmap &&& ~~~(BitVec.ofNat 64 (2 ^ me)))) ∧
      (l.st = 0 → exec (.linkUp ⟨n, peer⟩) s = withLink s n { l with st := 2, peer := peer, tries := 0 }) ∧
      (l.st = 1 → ∃ u, exec (.linkUp ⟨n, peer⟩) s = .next u ∧ linkOf u n = { l with st := 2, peer := peer, tries := 0 } ∧
        u.hart = s.hart) ∧
      (l.st = 2 ∨ l.st = 3 → exec (.linkUp ⟨n, peer⟩) s = .next s)) ∧
    (36 ≤ n.toNat → exec come s = .next s ∧ exec (.linkReplay ⟨n, seq⟩) s = .next s ∧
      exec (.linkDown n) s = .next s ∧ exec (.linkUp ⟨n, peer⟩) s = .next s) ∧
    (me = 0 → val.getLsbD 8 = true → linkUp (s.pkg (val.toNat % 64)) = true → ∃ u, exec (.admitPackage val) s = .next u ∧
      let g := val.toNat % 64
      (u.pkg g).podmap = (s.pkg g).podmap ||| (s.pkg 0).podmap ||| BitVec.ofNat 64 (2 ^ g) ∧
      ∀ q < 64, q ≠ g → u.pkg q = { s.pkg q with podmap := (s.pkg q).podmap ||| BitVec.ofNat 64 (2 ^ g) }) ∧
    (me ≠ 0 ∨ val.getLsbD 8 = false ∨ linkUp (s.pkg (val.toNat % 64)) = false → exec (.admitPackage val) s = .next s) ∧
    (p.toNat = me → exec (.remoteTimeout p) s = .next s) ∧
    (p.toNat ≠ me → (s.die (4 * me)).elbase = 0 → ∃ u, exec (.remoteTimeout p) s = .next u ∧
      u.hart = { s.hart with unanswered := some p } ∧ u.mem = s.mem ∧ u.pkgs = s.pkgs) ∧
    (let v := scalarVal s.hart a + o.signExtend 64 * 8
     let h := s.hart
     scalarOk h d = true → scalarOk h a = true → h.trap.priv = 2 → s.myDie.ptEn = 0 → v.toNat % 8 = 0 → v.toNat < 2 ^ 52 →
      physPkg v.toNat ≠ me → h.unanswered = some (BitVec.ofNat 6 (physPkg v.toNat)) →
      exec (.ldd d a o) s = .next (takeTrap false .mce v { s with hart := { h with unanswered := none } }) ∧
      exec (.std d a o) s = .next (State.passed { s with hart := { h with unanswered := none, pendMce := h.pendMce ++ [v] } })) ∧
    (wr = 1 → absent s me addr.toNat = false → isControlWindow addr.toNat = false →
      exec (.remoteAccess addr wr val) s = .next (s.putNat addr.toNat 8 val.toNat)) ∧
    (wr = 0 ∨ absent s me addr.toNat = true → exec (.remoteAccess addr wr val) s = .next s) ∧
    (let k := s.pkg p.toNat;
      (p = 0 ∨ k.tscSkew = 0 → exec (.tscSync p) s = .next s) ∧
      (p ≠ 0 → k.tscSkew ≠ 0 → ∃ u, exec (.tscSync p) s = .next u ∧ (u.pkg p.toNat).tscSkew.natAbs + 1 = k.tscSkew.natAbs ∧
        u.time = s.time + 2 ∧ u.hart = s.hart ∧ u.mem = s.mem))

/-- R106, R123–R125, R329, R356, R369–R371: an annulled word passes; at a boundary the highest pending enabled interrupt is taken,
CANCEL below privilege 2 always; the timer pends once and disarms; IPSET sets bits of a hart of its die; an idle bank enters
retention and leaves it, each error corrected on the way logged; throttling lowers the clock; a package reset leaves memory and the other packages, and is
READY only with an image whose signatures verify and whose version is not below the fused counter; the SPDM session
advances in its order and answers nothing out of it. -/
def Sys2Proof.Claim.SystemEvents : Prop :=
  ∀ (val : Word) (bank : BitVec 6) (errors : BitVec 16) (steps : BitVec 8) (fs : BitVec 3) (ed ml : BitVec 1) (ver : BitVec 32)
    (s : State),
    let h := s.hart
    let t := h.trap
    let me := pkgOf s.id
    let x := s.myPkg
    let runs : Prop := h.phase ≠ .idle ∧ h.phase ≠ .halted
    let bits := t.ipend &&& t.imask
    (h.fetch.apc = true → exec .annulledStep s = .next s.passed) ∧
    (runs → t.priv ≠ 2 → t.ipend.getLsbD 3 = true → exec .interrupt s = .next (takeTrap false .cancel 0 s)) ∧
    (runs → t.ie = 1 → t.priv = 2 ∨ t.ipend.getLsbD 3 = false →
      (bits.getLsbD 3 = true → exec .interrupt s = .next (takeTrap false .cancel 0 s)) ∧
      (bits.getLsbD 3 = false → bits.getLsbD 1 = true → exec .interrupt s = .next (takeTrap false .host 0 s)) ∧
      (bits.getLsbD 3 = false → bits.getLsbD 1 = false → bits.getLsbD 0 = true →
        exec .interrupt s = .next (takeTrap false .timer 0 s))) ∧
    (t.ie = 0 → t.priv = 2 ∨ t.ipend.getLsbD 3 = false → exec .interrupt s = .next s) ∧
    (t.tcmpEn = 1 → t.tcmpTime.toNat ≤ s.tsc me → exec .timer s =
      .next { s with hart := { h with trap := { t with ipend := t.ipend ||| 1, tcmpEn := 0 } } }) ∧
    (t.tcmpEn = 0 ∨ s.tsc me < t.tcmpTime.toNat → exec .timer s = .next s) ∧
    (let n := dieOf s.id * 192 + val.toNat % 256
      let g := s.hartAt n;
      (val.toNat % 256 < 192 → exec (.ipset val) s =
        .next (s.setHartAt n { g with trap := { g.trap with ipend := g.trap.ipend ||| val.extractLsb' 8 4 } })) ∧
      (192 ≤ val.toNat % 256 → exec (.ipset val) s = .next s)) ∧
    (s.myDie.retEn = 1 → coreEmpty s (coreOf s.id) = true → bank.toNat ∉ s.myCore.retained →
      exec (.retentionEntry bank) s = .next (s.withCore fun k => { k with retained := bank.toNat :: k.retained })) ∧
    (s.myDie.retEn = 0 → exec (.retentionEntry bank) s = .next s) ∧
    (bank.toNat ∈ s.myCore.retained → ∃ u, exec (.retentionExit ⟨bank, errors⟩) s = .next u ∧ bank.toNat ∉ u.myCore.retained ∧
      u.hart = h ∧ (s.myDie.elbase = 0 → u.mem = s.mem ∧ u.myDie.elcnt.toNat / 2 ^ 32 =
        (s.myDie.elcnt.toNat / 2 ^ 32 + errors.toNat) % 2 ^ 32)) ∧
    (bank.toNat ∉ s.myCore.retained → ∃ u, exec (.retentionExit ⟨bank, errors⟩) s = .next u ∧ bank.toNat ∉ u.myDie.retained ∧
      u.hart = h ∧ (s.myDie.elbase = 0 → u.mem = s.mem)) ∧
    (∃ u, exec (.throttle steps) s = .next u ∧ u.myPkg.mhz = Nat.max 100 (x.mhz - 100 * steps.toNat) ∧
      u.cycles me = s.cycles me ∧ u.hart = h ∧ u.mem = s.mem) ∧
    (∃ u, exec (.packageReset ⟨fs, ed, ml, ver⟩) s = .next u ∧ u.hart = Hart.reset ∧ u.mem = s.mem ∧ u.id = s.id ∧
      (u.myPkg.ready = true ↔ (ed = 1 ∧ ml = 1 ∧ x.fuse.toNat ≤ ver.toNat) ∧ ¬(1 ≤ fs.toNat ∧ fs.toNat ≤ 5)) ∧
      u.myPkg.fuse = x.fuse ∧ u.myPkg.part = x.part ∧ u.myPkg.replays = [] ∧ u.myPkg.replay = none ∧
      (∀ c, c / 192 ≠ me → u.core c = s.core c) ∧ (∀ n, pkgOf n ≠ me → u.hartAt n = s.hartAt n) ∧
      ∀ c, c / 192 = me → u.core c = Core.reset) ∧
    (let answers (i : Instr) (may : Prop) (to' : Spdm) : Prop :=
      (may → ∃ u, exec i s = .next u ∧ u.myPkg = { x with spdm := to', spdmOut := Config.spdmResponse s.freeCount } ∧
        u.hart = h ∧ u.mem = s.mem) ∧ (¬may → exec i s = .next s);
      answers .getVersion True .version ∧ answers .getCapabilities (x.spdm = .version) .capabilities ∧
      answers .negotiateAlgorithms (x.spdm = .capabilities) .algorithms ∧
      answers .getDigests (x.spdm = .algorithms) .algorithms ∧ answers .getCertificate (x.spdm = .algorithms) .algorithms ∧
      answers .challenge (x.spdm = .algorithms) .algorithms ∧ answers .getMeasurements (x.spdm = .algorithms) .algorithms)

/-- R106, R123–R125, R329, R356, R369–R376, R395: links, interrupts, retention, throttling, package reset, sessions.
Link logs, resets, retention and the order of a session are the model's: log 16, 61, 63, 64, 69, 92, 95, 99. -/
def Obligations.PodEvents : Prop :=
  Sys2Proof.Claim.LinkResults ∧ Sys2Proof.Claim.SystemEvents

namespace Sys2Proof.Machine

/-- Harts, cores, quads, dies and packages are listed in rising order, none in its reset state, and the hart in focus is not listed. -/
def State.UnitsWf (s : State) : Prop :=
  sparseWf Hart.reset s.others = true ∧ (∀ x ∈ s.others, x.1 ≠ s.id) ∧ sparseWf Core.reset s.cores = true ∧
    sparseWf Quad.reset s.quads = true ∧ sparseWf Die.reset s.dies = true ∧ sparseWf Pkg.reset s.pkgs = true

end Sys2Proof.Machine

/-- R370, R41, R43, R44, R111, R122, R286: the machine after reset: every hart idle at privilege 2 with interrupts off and nothing
pending, every register file, pool, counter and queue zero, the package ready.
The model's choice: memory lists nothing and a byte reads 0 (log 2); an idle hart's PC is 0 (log 1), its scalar and vector registers
hold zeros (log 93), and it is idle with time 0 in a machine that is ready (log 4). -/
def Sys2Proof.Claim.ResetState : Prop :=
  let s := State.reset
  (∀ n, (s.hartAt n).phase = .idle ∧ (s.hartAt n).trap.priv = 2 ∧ (s.hartAt n).trap.ie = 0 ∧ (s.hartAt n).trap.ipend = 0 ∧
    (s.hartAt n).trap.imask = 0 ∧ (s.hartAt n).trap.tvec = 0 ∧ (s.hartAt n).vq = [] ∧ (s.hartAt n).sys.fflags = 0 ∧
    (∀ r, sparseGet 0 (s.hartAt n).sregs r = 0) ∧ (∀ r, sparseGet 0 (s.hartAt n).vec.rows r = 0) ∧
    ∀ q, sparseGet [] (s.hartAt n).queues q = []) ∧
  (∀ c, (∀ a, sparseGet 0 (s.core c).sp a = 0) ∧ (s.core c).queue = [] ∧ ∀ i, (sparseGet Channel.idle (s.core c).chans i).st = .idle) ∧
  (∀ d n, s.event d n = 0 ∧ (s.die d).ptEn = 0 ∧ (s.die d).queue = [] ∧ (s.die d).waiting = []) ∧
  (∀ p, (s.pkg p).ready = true ∧ (s.pkg p).replay = none ∧ (s.pkg p).replays = [] ∧ (s.pkg p).msi = []) ∧
  (∀ a, s.byteAt a = 0) ∧ s.time = 0 ∧ s.hart.fetch.pc = 0 ∧ s.poison = [] ∧ s.agenda = []

/-- Reset satisfies the invariants that every step keeps. -/
def Sys2Proof.Claim.ResetKeepsForm : Prop :=
  Memory.wf State.reset.mem = true ∧ State.UnitsWf State.reset

/-- R370: the machine after reset, and that it has the form that every step keeps. -/
def Obligations.ResetState : Prop :=
  Sys2Proof.Claim.ResetState ∧ Sys2Proof.Claim.ResetKeepsForm

/-- R54–R59: words that the manual writes out decode to the instructions that it names. -/
def Obligations.DecodeWords : Prop :=
  decode 0x20284016 0 = .ok (.ldd 5 4 2) ∧
  decode 0xD40000A0 0 = .ok (.trap 5) ∧
  decode 0xD4000001 0 = .ok .eret ∧
  decode 0x38002013 0 = .ok (.mts 2 0x013) ∧
  decode 0x94001007 0 = .ok (.ppop 1) ∧
  decode 0x98301065 0 = .ok (.vrank 6 1 3 0) ∧
  decode 0x8821E006 0 = .ok (.vtox 4 30) ∧
  decode 0x90284124 0 = .ok (.vldx 5 4 9 0) ∧
  decode 0x48284FA0 0 = .ok (.vadd 5 4 (.vi 0x7D) 0) ∧
  decode 0xDD4040C0 0 = .ok (.shlst 40 4 6 0) ∧
  decode 0xD8404001 0 = .ok (.qrecv 8 4) ∧
  decode 0x0000001A 0 = .error .reservedFunction ∧
  decode 0x3C000000 0 = .error .reservedMajor

/-- R59, R106, R44, R52: a step of a running hart at a quiet boundary whose vector unit has nothing to do executes the instruction that
the word at PC decodes to; a word that is none raises ILL with the word; a fetch fault is taken; an annulled word passes.
Which agent a step lets act is the model's choice: log 7; placing stands for a load: log 5. -/
def Sys2Proof.Claim.StepRunsInstruction : Prop :=
  ∀ (s : State), s.agenda = [] → s.parked = false → s.rotor < 64 → s.hart.phase = .running →
    let b := (tick.exec { s.seen with rotor := s.rotor + 1 }).2
    firstEffect boundaryEvents b = none → b.hart.vq = [] ∨ (b.lag = true ∧ waitsForOldest b.hart = false) →
    (b.hart.fetch.apc = true → step s = .next b.passed) ∧
    (b.hart.fetch.apc = false →
      (∀ w lit u i, fetchInstr.exec b = (.ok (w, lit), u) → decode w lit = .ok i → step s = exec i u) ∧
      (∀ w lit u e, fetchInstr.exec b = (.ok (w, lit), u) → decode w lit = .error e →
        step s = .next (takeTrap false .ill (w.zeroExtend 64) u)) ∧
      (∀ c v u, fetchInstr.exec b = (.error (.trap c v), u) → step s = .next (takeTrap false c v u)))

/-- R49, R52, R59: the instruction placed where a hart fetches next is the one that the next step executes. -/
def Sys2Proof.Claim.PlacedWordRuns : Prop :=
  ∀ (s : State) (nbits w : Nat) (i : Instr), pkgOf s.id < 64 → s.myPkg.memsz ≠ 0 → decodeTableWord nbits w = some i →
    ∃ u, step (s.withFetchWord nbits w) = exec i u ∧ u.id = s.id ∧ u.hart.fetch.pc.toNat = s.placeAt ∧ u.hart.trap.priv = 2 ∧
      u.hart.sregs = s.hart.sregs ∧ u.hart.vec = s.hart.vec ∧ u.hart.cfg = s.hart.cfg ∧ u.hart.sys = s.hart.sys ∧
      u.mem = (s.withFetchWord nbits w).mem

/-- R49, R52, R59, R106: a step executes the decoded instruction, a placed one among them. -/
def Obligations.StepRunsInstruction : Prop :=
  Sys2Proof.Claim.StepRunsInstruction ∧ Sys2Proof.Claim.PlacedWordRuns

/-- R54–R58: decoding gives back every well-formed instruction that was encoded, whatever its operands; the literal of a form that has
none is not read. -/
def Obligations.DecodeEncode : Prop :=
  ∀ (i : Instr) (lit : BitVec 32), i.isEncoded = true → i.wf = true → hasLiteral i.word = false ∨ lit = i.lit →
    decode i.word lit = .ok i

/-- R55, R58, R59: a word that decodes is the encoding of the instruction it decodes to, with its literal, and that instruction is
well-formed: no two instructions share a word, and a reserved bit or an operand outside its class is refused. -/
def Obligations.DecodeSound : Prop :=
  ∀ (w lit : BitVec 32) (i : Instr), decode w lit = .ok i →
    i.isEncoded = true ∧ i.wf = true ∧ i.word = w ∧ (hasLiteral w = true → i.lit = lit)

/-- No step of the machine stops it: every state has a next one, whatever its words, its memory and its agenda.
It holds because no error stops the machine: log 25. -/
def Obligations.StepAlwaysGoesOn : Prop :=
  ∀ (s : State), ∃ t, step s = .next t

/-- Memory keeps its canonical form: addresses strictly rising and no entry equal to what an unlisted byte reads as. -/
def Sys2Proof.Claim.MemoryInvariant : Prop :=
  ∀ (s t : State), Memory.wf s.mem = true → step s = .next t → Memory.wf t.mem = true

/-- Every unit has one home: the hart in focus is not also listed among the others, and harts, cores, quads, dies and packages keep
their canonical form, so that equal machines are equal states. -/
def Sys2Proof.Claim.UnitsInvariant : Prop :=
  ∀ (s t : State), State.UnitsWf s → step s = .next t → State.UnitsWf t

/-- Every step keeps the canonical form of memory and of the units of the pod. -/
def Obligations.CanonicalForm : Prop :=
  Sys2Proof.Claim.MemoryInvariant ∧ Sys2Proof.Claim.UnitsInvariant

/-- R43, R60, R122: no instruction below privilege 2 changes the four registers TVEC, IMASK, GATEBASE and GATECNT, whether it
completes, traps or waits. -/
def Obligations.TvecImaskGateRegistersKept : Prop :=
  ∀ (i : Instr) (s t : State), i.isEncoded = true → s.hart.trap.priv ≠ 2 → exec i s = .next t →
    t.hart.trap.tvec = s.hart.trap.tvec ∧ t.hart.trap.imask = s.hart.trap.imask ∧
    t.hart.trap.gatebase = s.hart.trap.gatebase ∧ t.hart.trap.gatecnt = s.hart.trap.gatecnt ∧ t.id = s.id
end

