-- ==== Sys2Proof/Laws/Memory.lean ====
section
/-! SUPPORT. The laws of sparse maps and of memory: reading after writing, and that every write keeps the canonical form. -/

namespace Sys2Proof.Machine

section Sparse

variable {α : Type}

theorem sparseGet_erase_same (d : α) (m : Sparse α) (n : Nat) : sparseGet d (sparseErase n m) n = d := by
  induction m with
  | nil => rfl
  | cons p m ih =>
    obtain ⟨k, v⟩ := p
    by_cases h : k = n <;> simp [sparseErase, sparseGet, h, ih]

theorem sparseGet_erase_other (d : α) (m : Sparse α) {n k : Nat} (h : k ≠ n) :
    sparseGet d (sparseErase n m) k = sparseGet d m k := by
  induction m with
  | nil => rfl
  | cons p m ih =>
    obtain ⟨j, v⟩ := p
    by_cases hj : j = n
    · subst hj
      simp [sparseErase, sparseGet, ih, Ne.symm h]
    · simp [sparseErase, sparseGet, hj, ih]

theorem sparseGet_insert_other (d : α) (m : Sparse α) {n k : Nat} (v : α) (h : k ≠ n) :
    sparseGet d (sparseInsert n v m) k = sparseGet d m k := by
  induction m with
  | nil => simp [sparseInsert, sparseGet, Ne.symm h]
  | cons p m ih =>
    obtain ⟨j, x⟩ := p
    by_cases hj : n < j
    · simp [sparseInsert, sparseGet, hj, Ne.symm h]
    · simp [sparseInsert, sparseGet, hj, ih]

theorem sparseGet_insert_erased (d : α) (m : Sparse α) (n : Nat) (v : α) :
    sparseGet d (sparseInsert n v (sparseErase n m)) n = v := by
  induction m with
  | nil => simp [sparseErase, sparseInsert, sparseGet]
  | cons p m ih =>
    obtain ⟨j, x⟩ := p
    by_cases hj : j = n
    · simp [sparseErase, hj, ih]
    · by_cases hl : n < j <;> simp [sparseErase, sparseInsert, sparseGet, hj, hl, ih]

theorem mem_sparseErase {n : Nat} {m : Sparse α} {p : Nat × α} (h : p ∈ sparseErase n m) : p ∈ m ∧ p.1 ≠ n := by
  induction m with
  | nil => cases h
  | cons q m ih =>
    obtain ⟨k, x⟩ := q
    by_cases hk : k = n
    · simp only [sparseErase, hk, if_true] at h
      exact ⟨List.mem_cons_of_mem _ (ih h).1, (ih h).2⟩
    · simp only [sparseErase, hk, if_false, List.mem_cons] at h
      rcases h with rfl | h
      · exact ⟨List.mem_cons_self, hk⟩
      · exact ⟨List.mem_cons_of_mem _ (ih h).1, (ih h).2⟩

theorem mem_sparseInsert {n : Nat} {v : α} {m : Sparse α} {p : Nat × α} (h : p ∈ sparseInsert n v m) :
    p = (n, v) ∨ p ∈ m := by
  induction m with
  | nil => simpa [sparseInsert] using h
  | cons q m ih =>
    obtain ⟨k, x⟩ := q
    by_cases hk : n < k
    · simpa [sparseInsert, hk] using h
    · simp only [sparseInsert, hk, if_false, List.mem_cons] at h
      rcases h with rfl | h
      · exact .inr List.mem_cons_self
      · exact (ih h).imp_right (List.mem_cons_of_mem _)

theorem length_sparseGetList (d : α) (m : Sparse α) (n c : Nat) : (sparseGetList d m n c).length = c := by
  induction c generalizing n with
  | zero => rfl
  | succ c ih => simp [sparseGetList, ih]

theorem getElem_sparseGetList (d : α) (m : Sparse α) (n c i : Nat) (h : i < (sparseGetList d m n c).length) :
    (sparseGetList d m n c)[i] = sparseGet d m (n + i) := by
  induction c generalizing n i with
  | zero => simp [sparseGetList] at h
  | succ c ih =>
    cases i with
    | zero => rfl
    | succ i =>
      simp only [sparseGetList, List.getElem_cons_succ]
      rw [ih]
      congr 1
      omega

variable [DecidableEq α]

/-- A read after a write to the same key gives the value written. -/
theorem sparseGet_put_same (d : α) (m : Sparse α) (n : Nat) (v : α) : sparseGet d (sparsePut d m n v) n = v := by
  by_cases h : v = d
  · subst h
    simp [sparsePut, sparseGet_erase_same]
  · simp [sparsePut, h, sparseGet_insert_erased]

/-- A write leaves every other key alone. -/
theorem sparseGet_put_other (d : α) (m : Sparse α) {n k : Nat} (v : α) (h : k ≠ n) :
    sparseGet d (sparsePut d m n v) k = sparseGet d m k := by
  by_cases hv : v = d
  · simp [sparsePut, hv, sparseGet_erase_other d m h]
  · simp [sparsePut, hv, sparseGet_insert_other d _ v h, sparseGet_erase_other d m h]

theorem sparseGet_put (d : α) (m : Sparse α) (n k : Nat) (v : α) :
    sparseGet d (sparsePut d m n v) k = if k = n then v else sparseGet d m k := by
  by_cases h : k = n
  · subst h
    simp [sparseGet_put_same]
  · simp [h, sparseGet_put_other d m v h]

/-- What the canonical form says. -/
theorem sparseWf_cons (d : α) (k : Nat) (v : α) (m : Sparse α) :
    sparseWf d ((k, v) :: m) = true ↔ v ≠ d ∧ (∀ p ∈ m, k < p.1) ∧ sparseWf d m = true := by
  simp [sparseWf, List.all_eq_true, and_assoc]

theorem sparseWf_erase (d : α) (n : Nat) {m : Sparse α} (h : sparseWf d m = true) : sparseWf d (sparseErase n m) = true := by
  induction m with
  | nil => rfl
  | cons p m ih =>
    obtain ⟨k, x⟩ := p
    rw [sparseWf_cons] at h
    by_cases hk : k = n
    · simpa [sparseErase, hk] using ih h.2.2
    · simp only [sparseErase, hk, if_false, sparseWf_cons]
      exact ⟨h.1, fun p hp => h.2.1 p (mem_sparseErase hp).1, ih h.2.2⟩

theorem sparseWf_insert (d : α) {n : Nat} {v : α} (hv : v ≠ d) {m : Sparse α} (hn : ∀ p ∈ m, p.1 ≠ n)
    (h : sparseWf d m = true) : sparseWf d (sparseInsert n v m) = true := by
  induction m with
  | nil => simp [sparseInsert, sparseWf, hv]
  | cons p m ih =>
    obtain ⟨k, x⟩ := p
    have hk := hn (k, x) List.mem_cons_self
    rw [sparseWf_cons] at h
    by_cases hl : n < k
    · simp only [sparseInsert, hl, if_true, sparseWf_cons]
      refine ⟨hv, fun p hp => ?_, h⟩
      rcases List.mem_cons.1 hp with rfl | hp
      · exact hl
      · exact Nat.lt_trans hl (h.2.1 p hp)
    · simp only [sparseInsert, hl, if_false, sparseWf_cons]
      refine ⟨h.1, fun p hp => ?_, ih (fun p hp => hn p (List.mem_cons_of_mem _ hp)) h.2.2⟩
      rcases mem_sparseInsert hp with rfl | hp
      · simp only at hk ⊢
        omega
      · exact h.2.1 p hp

/-- Writing one key keeps the canonical form. -/
theorem sparseWf_put (d : α) (n : Nat) (v : α) {m : Sparse α} (h : sparseWf d m = true) :
    sparseWf d (sparsePut d m n v) = true := by
  by_cases hv : v = d
  · simpa [sparsePut, hv] using sparseWf_erase d n h
  · simpa [sparsePut, hv] using sparseWf_insert d hv (fun p hp => (mem_sparseErase hp).2) (sparseWf_erase d n h)

/-- Writing a list of values keeps the canonical form. -/
theorem sparseWf_putList (d : α) (vs : List α) (n : Nat) {m : Sparse α} (h : sparseWf d m = true) :
    sparseWf d (sparsePutList d m n vs) = true := by
  induction vs generalizing m n with
  | nil => exact h
  | cons v vs ih => exact ih (n + 1) (sparseWf_put d n v h)

/-- A read after the writing of a list: the list's value inside its span, the old value outside. -/
theorem sparseGet_putList (d : α) (vs : List α) (m : Sparse α) (n k : Nat) :
    sparseGet d (sparsePutList d m n vs) k =
      if h : n ≤ k ∧ k < n + vs.length then vs[k - n]'(by omega) else sparseGet d m k := by
  induction vs generalizing m n with
  | nil => simp [sparsePutList]
  | cons v vs ih =>
    rw [sparsePutList, ih, sparseGet_put]
    by_cases hk : k = n
    · subst hk
      simp
    · by_cases h : n ≤ k ∧ k < n + (v :: vs).length
      · have h' : n + 1 ≤ k ∧ k < n + 1 + vs.length := by
          simp only [List.length_cons] at h
          omega
        rw [dif_pos h, dif_pos h', List.getElem_cons, dif_neg (by omega)]
        congr 1
      · have h' : ¬(n + 1 ≤ k ∧ k < n + 1 + vs.length) := by
          simp only [List.length_cons] at h
          omega
        rw [dif_neg h, dif_neg h', if_neg hk]

/-- Reading the span that was written gives the list. -/
theorem sparseGetList_putList_same (d : α) (vs : List α) (m : Sparse α) (n : Nat) :
    sparseGetList d (sparsePutList d m n vs) n vs.length = vs := by
  apply List.ext_getElem (length_sparseGetList ..)
  intro i h1 h2
  rw [getElem_sparseGetList, sparseGet_putList, dif_pos ⟨by omega, by omega⟩]
  congr 1
  omega

/-- Reading a span that the writing does not touch gives what was there. -/
theorem sparseGetList_putList_other (d : α) (vs : List α) (m : Sparse α) (n k c : Nat)
    (h : k + c ≤ n ∨ n + vs.length ≤ k) :
    sparseGetList d (sparsePutList d m n vs) k c = sparseGetList d m k c := by
  apply List.ext_getElem (by simp only [length_sparseGetList])
  intro i h1 h2
  rw [length_sparseGetList] at h1
  rw [getElem_sparseGetList, getElem_sparseGetList, sparseGet_putList, dif_neg (by omega)]

end Sparse

/-! ## Bytes -/

theorem length_leBytes (n x : Nat) : (leBytes n x).length = n := by
  induction n generalizing x with
  | zero => rfl
  | succ n ih => simp [leBytes, ih]

/-- A number in n bytes is read back modulo 2^(8n). -/
theorem leNat_leBytes (n x : Nat) : leNat (leBytes n x) = x % 2 ^ (8 * n) := by
  induction n generalizing x with
  | zero => simp [leBytes, leNat, Nat.mod_one]
  | succ n ih =>
    have h : 2 ^ (8 * (n + 1)) = 256 * 2 ^ (8 * n) := by rw [Nat.mul_succ, Nat.pow_add]; omega
    rw [leBytes, leNat, ih, h, Nat.mod_mul, BitVec.toNat_ofNat]

theorem leNat_lt (bs : List Byte) : leNat bs < 2 ^ (8 * bs.length) := by
  induction bs with
  | nil => simp [leNat]
  | cons b bs ih =>
    have h : 2 ^ (8 * (bs.length + 1)) = 256 * 2 ^ (8 * bs.length) := by rw [Nat.mul_succ, Nat.pow_add]; omega
    have := b.isLt
    rw [leNat, List.length_cons, h]
    omega

/-! ## Physical memory -/

/-- What a byte reads as after bytes were written. -/
theorem byteAt_putBytes (s : State) (a : Nat) (bs : List Byte) (k : Nat) :
    (s.putBytes a bs).byteAt k = if h : a ≤ k ∧ k < a + bs.length then bs[k - a]'(by omega) else s.byteAt k :=
  sparseGet_putList ..

theorem byteAt_putBytes_other (s : State) (a : Nat) (bs : List Byte) {k : Nat} (h : k < a ∨ a + bs.length ≤ k) :
    (s.putBytes a bs).byteAt k = s.byteAt k := by
  rw [byteAt_putBytes, dif_neg (by omega)]

/-- A number read back from where it was written. -/
theorem memNat_putNat_same (s : State) (a n x : Nat) : (s.putNat a n x).memNat a n = x % 2 ^ (8 * n) := by
  have h := sparseGetList_putList_same memDefault (leBytes n x) s.mem a
  rw [length_leBytes] at h
  show leNat (sparseGetList memDefault (sparsePutList memDefault s.mem a (leBytes n x)) a n) = _
  rw [h, leNat_leBytes]

theorem memNat_putNat_other (s : State) (a n x k c : Nat) (h : k + c ≤ a ∨ a + n ≤ k) :
    (s.putNat a n x).memNat k c = s.memNat k c := by
  unfold State.putNat State.putBytes State.memNat
  rw [sparseGetList_putList_other _ _ _ _ _ _ (by rwa [length_leBytes])]

/-- Every write of bytes keeps the canonical form of memory. -/
theorem memWf_putBytes {s : State} (a : Nat) (bs : List Byte) (h : Memory.wf s.mem = true) :
    Memory.wf (s.putBytes a bs).mem = true :=
  sparseWf_putList memDefault bs a h

theorem memWf_putNat {s : State} (a n x : Nat) (h : Memory.wf s.mem = true) : Memory.wf (s.putNat a n x).mem = true :=
  memWf_putBytes a _ h

/-- Setting a bit of a table entry keeps it (R320). -/
theorem memWf_markLeaf {s : State} (at' bit : Nat) (h : Memory.wf s.mem = true) :
    Memory.wf (markLeaf at' bit s).mem = true := by
  unfold markLeaf
  dsimp only
  split
  · exact h
  · exact memWf_putNat _ _ _ h

/-- Memory after reset lists nothing. -/
theorem memWf_reset : Memory.wf State.reset.mem = true := rfl

end Sys2Proof.Machine
end

