-- ==== Sys2Proof/Laws/Monad.lean ====
section
/-! SUPPORT. How a meaning runs: one equation for each constructor of the monad and for each named change of the state, so
that a meaning is evaluated by rewriting `M.exec` and never by unfolding the monad. -/

namespace Sys2Proof.Machine

theorem exec_pure {α : Type} (x : α) (s : State) : (pure x : M α).exec s = (.ok x, s) := rfl
theorem exec_throw {α : Type} (e : Stop) (s : State) : (throw e : M α).exec s = (.error e, s) := rfl
theorem exec_trap {α : Type} (c : Cause) (v : Word) (s : State) :
    (trap c v : M α).exec s = (.error (.trap c v), s) := rfl
theorem exec_trapWord {α : Type} (c : Cause) (s : State) : (trapWord c : M α).exec s = (.error (.trapWord c), s) := rfl
theorem exec_block {α : Type} (s : State) : (block : M α).exec s = (.error .block, s) := rfl
theorem exec_get (s : State) : (get : M State).exec s = (.ok s, s) := rfl
theorem exec_set (t s : State) : (set t : M PUnit).exec s = (.ok ⟨⟩, t) := rfl
theorem exec_modify (f : State → State) (s : State) : (modify f : M PUnit).exec s = (.ok ⟨⟩, f s) := rfl

/-- What follows a meaning runs in the state it leaves, with its result; a meaning that ends early ends the whole. -/
theorem exec_bind {α β : Type} (m : M α) (f : α → M β) (s : State) :
    (m >>= f).exec s = match m.exec s with
      | (.ok x, t) => (f x).exec t
      | (.error e, t) => (.error e, t) := by
  simp only [M.exec, bind, ExceptT.bind, ExceptT.mk, StateT.bind]
  rcases m s with ⟨_ | _, t⟩ <;> rfl

theorem exec_bind_ok {α β : Type} {m : M α} {f : α → M β} {s t : State} {x : α} (h : m.exec s = (.ok x, t)) :
    (m >>= f).exec s = (f x).exec t := by rw [exec_bind, h]

theorem exec_bind_error {α β : Type} {m : M α} {f : α → M β} {s t : State} {e : Stop} (h : m.exec s = (.error e, t)) :
    (m >>= f).exec s = (.error e, t) := by rw [exec_bind, h]

theorem exec_map {α β : Type} (f : α → β) (m : M α) (s : State) :
    (f <$> m).exec s = match m.exec s with
      | (.ok x, t) => (.ok (f x), t)
      | (.error e, t) => (.error e, t) := by
  rw [map_eq_pure_bind, exec_bind]
  rfl

theorem exec_seqRight {α β : Type} (m : M α) (n : M β) (s : State) :
    (m *> n).exec s = match m.exec s with
      | (.ok _, t) => n.exec t
      | (.error e, t) => (.error e, t) := by
  rw [seqRight_eq_bind, exec_bind]

theorem exec_ite {α : Type} (p : Prop) [Decidable p] (m n : M α) (s : State) :
    (if p then m else n).exec s = if p then m.exec s else n.exec s := by split <;> rfl

theorem exec_trapIf (p : Bool) (c : Cause) (v : Word) (s : State) :
    (trapIf p c v).exec s = if p then (.error (.trap c v), s) else (.ok (), s) := by cases p <;> rfl

/-- An attempt never ends early: it hands on how the meaning ended, in the state it left. -/
theorem exec_attempt {α : Type} (m : M α) (s : State) : (attempt m).exec s = (.ok (m.exec s).1, (m.exec s).2) := rfl

theorem exec_getHart (s : State) : getHart.exec s = (.ok s.hart, s) := rfl
theorem exec_privNow (s : State) : privNow.exec s = (.ok s.hart.trap.priv.toNat, s) := rfl
theorem exec_modHart (f : Hart → Hart) (s : State) : (modHart f).exec s = (.ok (), { s with hart := f s.hart }) := rfl
theorem exec_modFetch (f : Fetch → Fetch) (s : State) :
    (modFetch f).exec s = (.ok (), { s with hart := { s.hart with fetch := f s.hart.fetch } }) := rfl
theorem exec_modCfg (f : VConf → VConf) (s : State) :
    (modCfg f).exec s = (.ok (), { s with hart := { s.hart with cfg := f s.hart.cfg } }) := rfl
theorem exec_modVec (f : VecRegs → VecRegs) (s : State) :
    (modVec f).exec s = (.ok (), { s with hart := { s.hart with vec := f s.hart.vec } }) := rfl
theorem exec_modSys (f : SysRegs → SysRegs) (s : State) :
    (modSys f).exec s = (.ok (), { s with hart := { s.hart with sys := f s.hart.sys } }) := rfl
theorem exec_modTrapRegs (f : TrapRegs → TrapRegs) (s : State) :
    (modTrapRegs f).exec s = (.ok (), { s with hart := { s.hart with trap := f s.hart.trap } }) := rfl
theorem exec_modTask (f : Task → Task) (s : State) :
    (modTask f).exec s = (.ok (), { s with hart := { s.hart with task := f s.hart.task } }) := rfl
theorem exec_modCore (c : Nat) (f : Core → Core) (s : State) :
    (modCore c f).exec s = (.ok (), s.setCore c (f (s.core c))) := rfl
theorem exec_modQuad (q : Nat) (f : Quad → Quad) (s : State) :
    (modQuad q f).exec s = (.ok (), s.setQuad q (f (s.quad q))) := rfl
theorem exec_modDie (d : Nat) (f : Die → Die) (s : State) :
    (modDie d f).exec s = (.ok (), s.setDie d (f (s.die d))) := rfl
theorem exec_modPkg (p : Nat) (f : Pkg → Pkg) (s : State) :
    (modPkg p f).exec s = (.ok (), s.setPkg p (f (s.pkg p))) := rfl

/-- A free value is the next choice, and the count of choices goes up. -/
theorem exec_freeWord (s : State) :
    freeWord.exec s = (.ok (Config.freeWord s.freeCount), { s with freeCount := s.freeCount + 1 }) := rfl

/-! ## Scalar names (R31) -/

theorem exec_checkScalar (n : BitVec 7) (s : State) :
    (checkScalar n).exec s = if scalarOk s.hart n then (.ok (), s) else (.error (.trap .winf (n.zeroExtend 64)), s) := by
  by_cases h : scalarOk s.hart n = true <;> simp [checkScalar, exec_bind, exec_getHart, h, exec_pure, exec_trap]

theorem exec_readScalar (n : BitVec 7) (s : State) :
    (readScalar n).exec s =
      if scalarOk s.hart n then (.ok (scalarVal s.hart n), s) else (.error (.trap .winf (n.zeroExtend 64)), s) := by
  by_cases h : scalarOk s.hart n = true <;>
    simp [readScalar, exec_bind, exec_map, exec_checkScalar, exec_getHart, h]

theorem exec_writeScalar (n : BitVec 7) (v : Word) (s : State) :
    (writeScalar n v).exec s =
      if scalarOk s.hart n then (.ok (), { s with hart := setScalar s.hart n v })
      else (.error (.trap .winf (n.zeroExtend 64)), s) := by
  by_cases h : scalarOk s.hart n = true <;> simp [writeScalar, exec_bind, exec_checkScalar, h, exec_modHart]

theorem exec_checkPair (n : BitVec 7) (s : State) :
    (checkPair n).exec s =
      if scalarOk s.hart n && scalarOk s.hart (n + 1) then (.ok (), s)
      else (.error (.trap .winf (n.zeroExtend 64)), s) := by
  by_cases h : (scalarOk s.hart n && scalarOk s.hart (n + 1)) = true <;>
    simp only [checkPair, exec_bind, exec_getHart, h, if_true, if_false, exec_pure, exec_trap, Bool.false_eq_true]

theorem exec_needSupervisor (s : State) :
    needSupervisor.exec s = if s.hart.trap.priv = 2 then (.ok (), s) else (.error (.trapWord .priv), s) := by
  simp only [needSupervisor, exec_bind, exec_getHart, exec_ite, exec_pure, exec_trapWord]

end Sys2Proof.Machine
end

