-- ==== Sys2Proof/Laws/Keeps.lean ====
section
/-! SUPPORT. Meanings that keep a relation between the state before and the state after, however they end.  A relation that is
reflexive and transitive passes through every construction of the monad, so that a whole meaning keeps it when its named
operations do; an invariant is the case `fun s t => Inv s → Inv t`. -/

namespace Sys2Proof.Machine

/-- Whatever a meaning does and however it ends, the state it leaves is related to the state it started in. -/
def Keeps (R : State → State → Prop) {α : Type} (m : M α) : Prop := ∀ s, R s (m.exec s).2

/-- A relation that passes through sequences. -/
structure Chain (R : State → State → Prop) : Prop where
  refl : ∀ s, R s s
  trans : ∀ s t u, R s t → R t u → R s u

variable {R : State → State → Prop} {α β : Type}

theorem chain_of_inv (Inv : State → Prop) : Chain fun s t => Inv s → Inv t :=
  ⟨fun _ h => h, fun _ _ _ f g h => g (f h)⟩

theorem keeps_pure (hR : Chain R) (x : α) : Keeps R (pure x : M α) := fun s => hR.refl s
theorem keeps_throw (hR : Chain R) (e : Stop) : Keeps R (throw e : M α) := fun s => hR.refl s
theorem keeps_trap (hR : Chain R) (c : Cause) (v : Word) : Keeps R (trap c v : M α) := fun s => hR.refl s
theorem keeps_trapWord (hR : Chain R) (c : Cause) : Keeps R (trapWord c : M α) := fun s => hR.refl s
theorem keeps_block (hR : Chain R) : Keeps R (block : M α) := fun s => hR.refl s
theorem keeps_stall (hR : Chain R) : Keeps R (stall : M α) := fun s => hR.refl s
theorem keeps_get (hR : Chain R) : Keeps R (get : M State) := fun s => hR.refl s
theorem keeps_getHart (hR : Chain R) : Keeps R getHart := fun s => hR.refl s
theorem keeps_privNow (hR : Chain R) : Keeps R privNow := fun s => hR.refl s

theorem keeps_trapIf (hR : Chain R) (p : Bool) (c : Cause) (v : Word) : Keeps R (trapIf p c v) := fun s => by
  rw [exec_trapIf]
  cases p <;> exact hR.refl s

theorem keeps_bind (hR : Chain R) {m : M α} {f : α → M β} (hm : Keeps R m) (hf : ∀ x, Keeps R (f x)) :
    Keeps R (m >>= f) := fun s => by
  have h := hm s
  rw [exec_bind]
  rcases hs : m.exec s with ⟨_ | x, t⟩
  · rw [hs] at h
    exact h
  · rw [hs] at h
    exact hR.trans s t _ h (hf x t)

theorem keeps_map (hR : Chain R) {m : M α} (f : α → β) (hm : Keeps R m) : Keeps R (f <$> m) := by
  rw [map_eq_pure_bind]
  exact keeps_bind hR hm fun _ => keeps_pure hR _

theorem keeps_ite (p : Prop) [Decidable p] {m n : M α} (hm : Keeps R m) (hn : Keeps R n) :
    Keeps R (if p then m else n) := by split <;> assumption

theorem keeps_modify {f : State → State} (h : ∀ s, R s (f s)) : Keeps R (modify f : M PUnit) := fun s => h s

theorem keeps_attempt {m : M α} (hm : Keeps R m) : Keeps R (attempt m) := fun s => hm s

theorem keeps_forFrom (hR : Chain R) {f : Nat → M Unit} (hf : ∀ i, Keeps R (f i)) (n i : Nat) :
    Keeps R (forFrom n i f) := by
  induction n generalizing i with
  | zero => exact keeps_pure hR ()
  | succ n ih => exact keeps_bind hR (hf i) fun _ => ih (i + 1)

theorem keeps_forN (hR : Chain R) {f : Nat → M Unit} (hf : ∀ i, Keeps R (f i)) (n : Nat) : Keeps R (forN n f) :=
  keeps_forFrom hR hf n 0

theorem keeps_mapFrom (hR : Chain R) {f : Nat → M α} (hf : ∀ i, Keeps R (f i)) (n i : Nat) :
    Keeps R (mapFrom n i f) := by
  induction n generalizing i with
  | zero => exact keeps_pure hR []
  | succ n ih => exact keeps_bind hR (hf i) fun x => keeps_bind hR (ih (i + 1)) fun xs => keeps_pure hR _

/-- A meaning that ends in a trap enters the handler; one that waits leaves the state as it was but for `parked`. -/
theorem keeps_runScalar (hR : Chain R) {w : BitVec 32} {m : M Flow} (hm : Keeps R m)
    (hadv : ∀ fl, Keeps R (advance fl)) (htrap : ∀ v c x, Keeps R (trapEntry v c x))
    (hpark : ∀ s, R s { s with parked := true }) {s t : State} (h : runScalar w m s = .next t) : R s t := by
  have h0 := hm s
  unfold runScalar at h
  rcases hs : m.exec s with ⟨_ | fl, u⟩
  · rw [hs] at h h0
    rename_i e
    cases e with
    | trap c v => cases h; exact hR.trans _ _ _ h0 (htrap false c v u)
    | trapWord c => cases h; exact hR.trans _ _ _ h0 (htrap false c _ u)
    | block => cases h; exact hpark s
    | stall => cases h; exact hpark s
  · rw [hs] at h h0
    cases h
    exact hR.trans _ _ _ h0 (hadv fl u)

theorem keeps_runEvent (hR : Chain R) {m : M Unit} (hm : Keeps R m) {s t : State} (h : runEvent m s = .next t) : R s t := by
  have h0 := hm s
  unfold runEvent at h
  rcases hs : m.exec s with ⟨_ | _, u⟩
  · rw [hs] at h
    cases h
    exact hR.refl s
  · rw [hs] at h h0
    cases h
    exact h0

end Sys2Proof.Machine
end

