-- ==== Sys2Proof/Laws/Fetch.lean ====
section
/-! SUPPORT. What fetching does: the step to the next word changes the queued addresses, the TLB, and the A bits of table
entries, and nothing else. -/

namespace Sys2Proof.Machine

/-- What any number of fetches may change: the queued addresses, the mark of a package that does not answer, the TLB, and the bits A of
table entries. -/
def Fetched (s t : State) : Prop :=
  t = { s with
    hart := { s.hart with fetch := t.hart.fetch, unanswered := t.hart.unanswered }
    mem := t.mem
    dies := t.dies } ∧
  (s.hart.unanswered = none → t.hart.unanswered = none) ∧
  (∀ a, t.byteAt a = s.byteAt a ∨ t.byteAt a = s.byteAt a ||| 0x40) ∧
  (∀ d, t.die d = { s.die d with tlb := (t.die d).tlb }) ∧
  (s.myDie.ptEn = 0 → t.mem = s.mem ∧ t.dies = s.dies)

theorem fetched_refl (s : State) : Fetched s s :=
  ⟨rfl, id, fun _ => .inl rfl, fun _ => rfl, fun _ => ⟨rfl, rfl⟩⟩

theorem byte_or_idem (x : Byte) : x ||| 0x40 ||| 0x40 = x ||| 0x40 := by
  rw [BitVec.or_assoc, BitVec.or_self]

theorem fetched_trans (s t u : State) (h : Fetched s t) (h' : Fetched t u) : Fetched s u := by
  obtain ⟨e, p, b, d, z⟩ := h
  obtain ⟨e', p', b', d', z'⟩ := h'
  refine ⟨?_, fun h => p' (p h), fun a => ?_, fun n => ?_, fun h => ?_⟩
  · rw [e] at e'
    exact e'
  · rcases b a with hb | hb <;> rcases b' a with hb' | hb'
    · exact .inl (hb'.trans hb)
    · exact .inr (by rw [hb', hb])
    · exact .inr (by rw [hb', hb])
    · exact .inr (by rw [hb', hb, byte_or_idem])
  · rw [d' n, d n]
  · obtain ⟨m1, d1⟩ := z h
    have hid : t.id = s.id := by rw [e]
    have h2 : t.myDie.ptEn = 0 := by
      unfold State.myDie
      rw [d (dieOf t.id), hid]
      exact h
    obtain ⟨m2, d2⟩ := z' h2
    exact ⟨m2.trans m1, d2.trans d1⟩

theorem chain_fetched : Chain Fetched := ⟨fetched_refl, fetched_trans⟩

/-- A change of the queued addresses alone. -/
theorem fetched_modFetch (f : Fetch → Fetch) : Keeps Fetched (modFetch f) := fun _ =>
  ⟨rfl, id, fun _ => .inl rfl, fun _ => rfl, fun _ => ⟨rfl, rfl⟩⟩

/-- The mark of a package that does not answer is used up. -/
theorem fetched_answer : Keeps Fetched (modHart fun h => { h with unanswered := none }) := fun _ =>
  ⟨rfl, fun _ => rfl, fun _ => .inl rfl, fun _ => rfl, fun _ => ⟨rfl, rfl⟩⟩

theorem leBytes_leNat (bs : List Byte) : leBytes bs.length (leNat bs) = bs := by
  induction bs with
  | nil => rfl
  | cons b bs ih =>
    have hb := b.isLt
    rw [List.length_cons, leBytes, leNat]
    have h1 : (b.toNat + 256 * leNat bs) / 256 = leNat bs := by omega
    rw [h1, ih]
    congr 1
    apply BitVec.eq_of_toNat_eq
    rw [BitVec.toNat_ofNat]
    omega

/-- Setting bit 6 of a byte that has it clear adds 64. -/
theorem byte_set6 (b : Byte) (h : b.toNat / 64 % 2 = 0) : BitVec.ofNat 8 (b.toNat + 64) = b ||| 0x40 ∧ b.toNat + 64 < 256 := by
  revert b
  decide

theorem bytes_set6 (b : Byte) (bs : List Byte) (h : bitOf (leNat (b :: bs)) 6 = false) :
    leBytes (bs.length + 1) (leNat (b :: bs) + 2 ^ 6) = (b ||| 0x40) :: bs := by
  have hb := b.isLt
  have h6 : b.toNat / 64 % 2 = 0 := by
    simp only [bitOf, leNat, beq_eq_false_iff_ne, ne_eq] at h
    omega
  obtain ⟨h1, h2⟩ := byte_set6 b h6
  rw [leBytes, leNat]
  have h3 : (b.toNat + 256 * leNat bs + 2 ^ 6) / 256 = leNat bs := by omega
  rw [h3, leBytes_leNat, ← h1]
  congr 1
  apply BitVec.eq_of_toNat_eq
  simp only [BitVec.toNat_ofNat]
  omega

theorem byteAt_markLeaf6 (s : State) (at' a : Nat) :
    (markLeaf at' 6 s).byteAt a = s.byteAt a ∨ (markLeaf at' 6 s).byteAt a = s.byteAt a ||| 0x40 := by
  unfold markLeaf
  dsimp only
  split
  · exact .inl rfl
  · rename_i hb
    have hb' : bitOf (s.memNat at' 8) 6 = false := by simpa using hb
    show (s.putBytes _ _).byteAt a = _ ∨ (s.putBytes _ _).byteAt a = _
    rw [byteAt_putBytes]
    split
    · rename_i h
      have hl : s.memNat at' 8 = leNat (s.byteAt at' :: sparseGetList memDefault s.mem (at' + 1) 7) := rfl
      rw [hl] at hb'
      have e := bytes_set6 _ _ hb'
      rw [length_sparseGetList] at e
      simp only [hl, e]
      rw [length_leBytes] at h
      rw [List.getElem_cons]
      split
      · rename_i h0
        have : a = at' := by omega
        subst this
        exact .inr rfl
      · rename_i h0
        left
        rw [getElem_sparseGetList]
        show sparseGet memDefault s.mem _ = sparseGet memDefault s.mem _
        congr 1
        omega
    · exact .inl rfl


/-- What a walk of the tables may change: the TLB, the A bits of table entries, and the mark of a package that does not answer (R395). -/
def Walked (s t : State) : Prop :=
  t = { s with hart := { s.hart with unanswered := t.hart.unanswered }, mem := t.mem, dies := t.dies } ∧
  (s.hart.unanswered = none → t.hart.unanswered = none) ∧
  (∀ a, t.byteAt a = s.byteAt a ∨ t.byteAt a = s.byteAt a ||| 0x40) ∧
  (∀ d, t.die d = { s.die d with tlb := (t.die d).tlb })

theorem chain_walked : Chain Walked where
  refl _ := ⟨rfl, id, fun _ => .inl rfl, fun _ => rfl⟩
  trans s t u h h' := by
    obtain ⟨e, u, b, d⟩ := h
    obtain ⟨e', u', b', d'⟩ := h'
    refine ⟨?_, fun hu => u' (u hu), fun a => ?_, fun n => ?_⟩
    · rw [e] at e'
      exact e'
    · rcases b a with hb | hb <;> rcases b' a with hb' | hb'
      · exact .inl (hb'.trans hb)
      · exact .inr (by rw [hb', hb])
      · exact .inr (by rw [hb', hb])
      · exact .inr (by rw [hb', hb, byte_or_idem])
    · rw [d' n, d n]

/-- The entry that a walk finds carries no error mark (R330). -/
theorem walkFrom_unmarked {s : State} {p fuel level table va e at' : Nat} {big : Bool}
    (h : walkFrom s p fuel level table va = .ok (e, at', big)) : s.marked at' 8 = false := by
  induction fuel generalizing level table with
  | zero => simp [walkFrom] at h
  | succ n ih =>
    unfold walkFrom at h
    dsimp only at h
    repeat' split at h
    all_goals first
      | contradiction
      | exact ih h
      | (cases h; simp_all)

theorem poison_putBytes_unmarked {s : State} {a : Nat} {bs : List Byte} (h : s.marked a bs.length = false) :
    (s.putBytes a bs).poison = s.poison := by
  show s.poison.filter _ = s.poison
  rw [List.filter_eq_self]
  intro p hp
  have := List.any_eq_false.1 h p hp
  simp only [Bool.and_eq_true, decide_eq_true_eq, not_and] at this
  simp only [Bool.or_eq_true, decide_eq_true_eq]
  omega

theorem walked_markLeaf {s : State} (at' : Nat) (h : s.marked at' 8 = false) : Walked s (markLeaf at' 6 s) := by
  refine ⟨?_, ?_, byteAt_markLeaf6 s at', fun d => ?_⟩
  · unfold markLeaf
    dsimp only
    split
    · rfl
    · have hp : (s.putBytes at' (leBytes 8 (s.memNat at' 8 + 2 ^ 6))).poison = s.poison :=
        poison_putBytes_unmarked (by rw [length_leBytes]; exact h)
      show { s.putBytes _ _ with stores := s.stores } = { s with mem := _, dies := _ }
      conv_rhs => rw [← hp]
      rfl
  · unfold markLeaf
    dsimp only
    split <;> exact id
  · unfold markLeaf
    dsimp only
    split <;> rfl

theorem die_setDie (s : State) (d n : Nat) (x : Die) : (s.setDie d x).die n = if n = d then x else s.die n :=
  sparseGet_put ..

theorem walked_tlb (d : Nat) (f : Die → List Tlb) : Keeps Walked (modDie d fun x => { x with tlb := f x }) := fun s => by
  rw [exec_modDie]
  refine ⟨rfl, id, fun _ => .inl rfl, fun n => ?_⟩
  dsimp only
  rw [die_setDie]
  by_cases h : n = d
  · subst h
    simp
  · simp [h]

/-- A walk changes the TLB and A bits only (R320, R321). -/
theorem walked_walkAndCache (d va : Nat) (v : Word) : Keeps Walked (walkAndCache d va v) := fun s => by
  unfold walkAndCache
  rw [exec_bind_ok (exec_get s)]
  split
  · dsimp only
    split
    · exact ⟨rfl, fun _ => rfl, fun _ => .inl rfl, fun _ => rfl⟩
    · exact chain_walked.refl s
  · rename_i e at' big hw
    refine chain_walked.trans _ (markLeaf at' 6 s) _ (walked_markLeaf _ (walkFrom_unmarked hw)) ?_
    rw [exec_bind_ok (exec_modify (markLeaf at' 6) s)]
    exact keeps_bind chain_walked (walked_tlb d _) (fun _ => keeps_pure chain_walked _) _

theorem Walked.fetched {s t : State} (h : Walked s t) (hp : s.myDie.ptEn ≠ 0) : Fetched s t :=
  ⟨by rw [h.1], h.2.1, h.2.2.1, h.2.2.2, fun h' => absurd h' hp⟩

/-- The checks on a physical address change what fetching changes. -/
theorem fetched_reach (g : Agent) (mt : Nat) (v : Word) (pa n : Nat) : Keeps Fetched (reach .fetch g mt v pa n) := by
  have hc := chain_fetched
  unfold reach
  refine keeps_bind hc (keeps_get hc) fun s => ?_
  split
  · rw [if_neg (by decide)]
    exact keeps_bind hc fetched_answer fun _ => keeps_trap hc _ _
  · split
    · exact keeps_trap hc _ _
    · split
      · exact keeps_trap hc _ _
      · exact keeps_pure hc _

/-- A sequence whose first part is known at one state. -/
theorem fetched_bind_at {α β : Type} {m : M α} {f : α → M β} {s : State} (hm : Fetched s (m.exec s).2)
    (hf : ∀ x, Keeps Fetched (f x)) : Fetched s ((m >>= f).exec s).2 := by
  rw [exec_bind]
  rcases hs : m.exec s with ⟨_ | x, t⟩ <;> rw [hs] at hm
  · exact hm
  · exact fetched_trans s t _ hm (hf x t)

/-- Translating a fetch changes what fetching changes. -/
theorem fetched_translate (priv : Nat) (g : Agent) (v : Word) (n : Nat) :
    Keeps Fetched (translateAt priv .fetch g v n) := fun s => by
  unfold translateAt
  rw [exec_bind, exec_get]
  dsimp only
  by_cases hp : (s.die (dieOf s.id)).ptEn = 0
  · simp only [hp, if_true]
    split
    · exact fetched_refl s
    · split
      · exact fetched_refl s
      · exact fetched_reach _ _ _ _ _ s
  · simp only [hp, if_false]
    split
    · exact fetched_refl s
    · rw [exec_bind, exec_trapIf]
      cases (s.die (dieOf s.id)).fenced.contains 66
      swap
      · exact fetched_refl s
      have hw : Keeps Walked (match tlbFind (s.die (dieOf s.id)).tlb v.toNat with
          | some t => do
            trapIf t.bad .mce v
            pure (t.leaf.toNat, t.big)
          | none => do let (e, _, big) ← walkAndCache (dieOf s.id) v.toNat v; pure (e, big)) := by
        split
        · exact keeps_bind chain_walked (keeps_trapIf chain_walked _ _ _) fun _ => keeps_pure chain_walked _
        · exact keeps_bind chain_walked (walked_walkAndCache _ _ _) fun _ => keeps_pure chain_walked _
      refine fetched_bind_at (Walked.fetched (hw s) hp) (fun x => ?_)
      simp only [show (Access.fetch == Access.store || Access.fetch == Access.atomic) = false from rfl,
        Bool.false_and, Bool.false_eq_true, if_false]
      have hc := chain_fetched
      repeat' first
        | exact keeps_trap hc _ _
        | exact keeps_pure hc _
        | exact fetched_reach _ _ _ _ _
        | refine keeps_bind hc ?_ fun _ => ?_
        | split

theorem fetched_fetchAt (priv : Nat) (v : Word) : Keeps Fetched (fetchAt priv v) := by
  unfold fetchAt checkPoison
  have hc := chain_fetched
  refine keeps_bind hc (fetched_translate _ _ _ _) fun pa => keeps_bind hc (keeps_get hc) fun s => ?_
  split
  · exact keeps_pure hc _
  · refine keeps_bind hc (keeps_bind hc (keeps_get hc) fun s => ?_) fun _ => keeps_bind hc (keeps_get hc) fun _ => keeps_pure hc _
    split
    · exact keeps_trap hc _ _
    · exact keeps_pure hc _

theorem fetched_formQueue : Keeps Fetched formQueue := by
  have hc := chain_fetched
  have hs (v : Word) : Keeps Fetched (succ v) := by
    unfold succ succAt
    exact keeps_bind hc (keeps_privNow hc) fun _ => keeps_bind hc (fetched_fetchAt _ _) fun _ => keeps_pure hc _
  unfold formQueue
  dsimp only
  repeat' first
    | exact keeps_pure hc _
    | exact keeps_getHart hc
    | exact hs _
    | exact fetched_modFetch _
    | refine keeps_bind hc ?_ fun _ => ?_
    | split

/-- The second half of a step changes what fetching changes, whatever the flow (R105, R107). -/
theorem fetched_advance (fl : Flow) : Keeps Fetched (advance fl) := by
  have hc := chain_fetched
  have h1 : Keeps Fetched (do let _ ← attempt formQueue; pure () : M Unit) :=
    keeps_bind hc (keeps_attempt fetched_formQueue) fun _ => keeps_pure hc _
  cases fl with
  | next => exact keeps_bind hc (fetched_modFetch _) fun _ => h1
  | taken t => exact fetched_modFetch _
  | annul => exact keeps_bind hc (fetched_modFetch _) fun _ => h1
  | placed => exact keeps_pure hc _

theorem after_fetched (s : State) (fl : Flow) : Fetched s (s.after fl) := fetched_advance fl s
theorem passed_fetched (s : State) : Fetched s s.passed := after_fetched s .next

end Sys2Proof.Machine
end

