-- ==== Sys2Proof/Laws/State.lean ====
section
/-! SUPPORT. One law for each field and each named update of the state, so that no proof unfolds a record update. -/

namespace Sys2Proof.Machine

@[simp] theorem setCore_id (s : State) (c : Nat) (x : Core) : (s.setCore c x).id = s.id := rfl
@[simp] theorem setCore_hart (s : State) (c : Nat) (x : Core) : (s.setCore c x).hart = s.hart := rfl
@[simp] theorem setCore_others (s : State) (c : Nat) (x : Core) : (s.setCore c x).others = s.others := rfl
@[simp] theorem setCore_quads (s : State) (c : Nat) (x : Core) : (s.setCore c x).quads = s.quads := rfl
@[simp] theorem setCore_dies (s : State) (c : Nat) (x : Core) : (s.setCore c x).dies = s.dies := rfl
@[simp] theorem setCore_pkgs (s : State) (c : Nat) (x : Core) : (s.setCore c x).pkgs = s.pkgs := rfl
@[simp] theorem setCore_podBarriers (s : State) (c : Nat) (x : Core) : (s.setCore c x).podBarriers = s.podBarriers := rfl
@[simp] theorem setCore_mem (s : State) (c : Nat) (x : Core) : (s.setCore c x).mem = s.mem := rfl
@[simp] theorem setCore_poison (s : State) (c : Nat) (x : Core) : (s.setCore c x).poison = s.poison := rfl
@[simp] theorem setCore_time (s : State) (c : Nat) (x : Core) : (s.setCore c x).time = s.time := rfl
@[simp] theorem setCore_freeCount (s : State) (c : Nat) (x : Core) : (s.setCore c x).freeCount = s.freeCount := rfl
@[simp] theorem setCore_agenda (s : State) (c : Nat) (x : Core) : (s.setCore c x).agenda = s.agenda := rfl
@[simp] theorem setCore_lag (s : State) (c : Nat) (x : Core) : (s.setCore c x).lag = s.lag := rfl
@[simp] theorem setCore_parked (s : State) (c : Nat) (x : Core) : (s.setCore c x).parked = s.parked := rfl
@[simp] theorem setCore_rotor (s : State) (c : Nat) (x : Core) : (s.setCore c x).rotor = s.rotor := rfl
@[simp] theorem setCore_unseenV (s : State) (c : Nat) (x : Core) : (s.setCore c x).unseenV = s.unseenV := rfl
@[simp] theorem setCore_dead (s : State) (c : Nat) (x : Core) : (s.setCore c x).dead = s.dead := rfl
@[simp] theorem setCore_unseenS (s : State) (c : Nat) (x : Core) : (s.setCore c x).unseenS = s.unseenS := rfl
@[simp] theorem setCore_stores (s : State) (c : Nat) (x : Core) : (s.setCore c x).stores = s.stores := rfl

@[simp] theorem setQuad_id (s : State) (q : Nat) (x : Quad) : (s.setQuad q x).id = s.id := rfl
@[simp] theorem setQuad_hart (s : State) (q : Nat) (x : Quad) : (s.setQuad q x).hart = s.hart := rfl
@[simp] theorem setQuad_others (s : State) (q : Nat) (x : Quad) : (s.setQuad q x).others = s.others := rfl
@[simp] theorem setQuad_cores (s : State) (q : Nat) (x : Quad) : (s.setQuad q x).cores = s.cores := rfl
@[simp] theorem setQuad_dies (s : State) (q : Nat) (x : Quad) : (s.setQuad q x).dies = s.dies := rfl
@[simp] theorem setQuad_pkgs (s : State) (q : Nat) (x : Quad) : (s.setQuad q x).pkgs = s.pkgs := rfl
@[simp] theorem setQuad_podBarriers (s : State) (q : Nat) (x : Quad) : (s.setQuad q x).podBarriers = s.podBarriers := rfl
@[simp] theorem setQuad_mem (s : State) (q : Nat) (x : Quad) : (s.setQuad q x).mem = s.mem := rfl
@[simp] theorem setQuad_poison (s : State) (q : Nat) (x : Quad) : (s.setQuad q x).poison = s.poison := rfl
@[simp] theorem setQuad_time (s : State) (q : Nat) (x : Quad) : (s.setQuad q x).time = s.time := rfl
@[simp] theorem setQuad_freeCount (s : State) (q : Nat) (x : Quad) : (s.setQuad q x).freeCount = s.freeCount := rfl
@[simp] theorem setQuad_agenda (s : State) (q : Nat) (x : Quad) : (s.setQuad q x).agenda = s.agenda := rfl
@[simp] theorem setQuad_lag (s : State) (q : Nat) (x : Quad) : (s.setQuad q x).lag = s.lag := rfl
@[simp] theorem setQuad_parked (s : State) (q : Nat) (x : Quad) : (s.setQuad q x).parked = s.parked := rfl
@[simp] theorem setQuad_rotor (s : State) (q : Nat) (x : Quad) : (s.setQuad q x).rotor = s.rotor := rfl
@[simp] theorem setQuad_unseenV (s : State) (q : Nat) (x : Quad) : (s.setQuad q x).unseenV = s.unseenV := rfl
@[simp] theorem setQuad_dead (s : State) (q : Nat) (x : Quad) : (s.setQuad q x).dead = s.dead := rfl
@[simp] theorem setQuad_unseenS (s : State) (q : Nat) (x : Quad) : (s.setQuad q x).unseenS = s.unseenS := rfl
@[simp] theorem setQuad_stores (s : State) (q : Nat) (x : Quad) : (s.setQuad q x).stores = s.stores := rfl

@[simp] theorem setDie_id (s : State) (d : Nat) (x : Die) : (s.setDie d x).id = s.id := rfl
@[simp] theorem setDie_hart (s : State) (d : Nat) (x : Die) : (s.setDie d x).hart = s.hart := rfl
@[simp] theorem setDie_others (s : State) (d : Nat) (x : Die) : (s.setDie d x).others = s.others := rfl
@[simp] theorem setDie_cores (s : State) (d : Nat) (x : Die) : (s.setDie d x).cores = s.cores := rfl
@[simp] theorem setDie_quads (s : State) (d : Nat) (x : Die) : (s.setDie d x).quads = s.quads := rfl
@[simp] theorem setDie_pkgs (s : State) (d : Nat) (x : Die) : (s.setDie d x).pkgs = s.pkgs := rfl
@[simp] theorem setDie_podBarriers (s : State) (d : Nat) (x : Die) : (s.setDie d x).podBarriers = s.podBarriers := rfl
@[simp] theorem setDie_mem (s : State) (d : Nat) (x : Die) : (s.setDie d x).mem = s.mem := rfl
@[simp] theorem setDie_poison (s : State) (d : Nat) (x : Die) : (s.setDie d x).poison = s.poison := rfl
@[simp] theorem setDie_time (s : State) (d : Nat) (x : Die) : (s.setDie d x).time = s.time := rfl
@[simp] theorem setDie_freeCount (s : State) (d : Nat) (x : Die) : (s.setDie d x).freeCount = s.freeCount := rfl
@[simp] theorem setDie_agenda (s : State) (d : Nat) (x : Die) : (s.setDie d x).agenda = s.agenda := rfl
@[simp] theorem setDie_lag (s : State) (d : Nat) (x : Die) : (s.setDie d x).lag = s.lag := rfl
@[simp] theorem setDie_parked (s : State) (d : Nat) (x : Die) : (s.setDie d x).parked = s.parked := rfl
@[simp] theorem setDie_rotor (s : State) (d : Nat) (x : Die) : (s.setDie d x).rotor = s.rotor := rfl
@[simp] theorem setDie_unseenV (s : State) (d : Nat) (x : Die) : (s.setDie d x).unseenV = s.unseenV := rfl
@[simp] theorem setDie_dead (s : State) (d : Nat) (x : Die) : (s.setDie d x).dead = s.dead := rfl
@[simp] theorem setDie_unseenS (s : State) (d : Nat) (x : Die) : (s.setDie d x).unseenS = s.unseenS := rfl
@[simp] theorem setDie_stores (s : State) (d : Nat) (x : Die) : (s.setDie d x).stores = s.stores := rfl

@[simp] theorem setPkg_id (s : State) (p : Nat) (x : Pkg) : (s.setPkg p x).id = s.id := rfl
@[simp] theorem setPkg_hart (s : State) (p : Nat) (x : Pkg) : (s.setPkg p x).hart = s.hart := rfl
@[simp] theorem setPkg_others (s : State) (p : Nat) (x : Pkg) : (s.setPkg p x).others = s.others := rfl
@[simp] theorem setPkg_cores (s : State) (p : Nat) (x : Pkg) : (s.setPkg p x).cores = s.cores := rfl
@[simp] theorem setPkg_quads (s : State) (p : Nat) (x : Pkg) : (s.setPkg p x).quads = s.quads := rfl
@[simp] theorem setPkg_dies (s : State) (p : Nat) (x : Pkg) : (s.setPkg p x).dies = s.dies := rfl
@[simp] theorem setPkg_podBarriers (s : State) (p : Nat) (x : Pkg) : (s.setPkg p x).podBarriers = s.podBarriers := rfl
@[simp] theorem setPkg_mem (s : State) (p : Nat) (x : Pkg) : (s.setPkg p x).mem = s.mem := rfl
@[simp] theorem setPkg_poison (s : State) (p : Nat) (x : Pkg) : (s.setPkg p x).poison = s.poison := rfl
@[simp] theorem setPkg_time (s : State) (p : Nat) (x : Pkg) : (s.setPkg p x).time = s.time := rfl
@[simp] theorem setPkg_freeCount (s : State) (p : Nat) (x : Pkg) : (s.setPkg p x).freeCount = s.freeCount := rfl
@[simp] theorem setPkg_agenda (s : State) (p : Nat) (x : Pkg) : (s.setPkg p x).agenda = s.agenda := rfl
@[simp] theorem setPkg_lag (s : State) (p : Nat) (x : Pkg) : (s.setPkg p x).lag = s.lag := rfl
@[simp] theorem setPkg_parked (s : State) (p : Nat) (x : Pkg) : (s.setPkg p x).parked = s.parked := rfl
@[simp] theorem setPkg_rotor (s : State) (p : Nat) (x : Pkg) : (s.setPkg p x).rotor = s.rotor := rfl
@[simp] theorem setPkg_unseenV (s : State) (p : Nat) (x : Pkg) : (s.setPkg p x).unseenV = s.unseenV := rfl
@[simp] theorem setPkg_dead (s : State) (p : Nat) (x : Pkg) : (s.setPkg p x).dead = s.dead := rfl
@[simp] theorem setPkg_unseenS (s : State) (p : Nat) (x : Pkg) : (s.setPkg p x).unseenS = s.unseenS := rfl
@[simp] theorem setPkg_stores (s : State) (p : Nat) (x : Pkg) : (s.setPkg p x).stores = s.stores := rfl

@[simp] theorem putBytes_id (s : State) (a : Nat) (bs : List Byte) : (s.putBytes a bs).id = s.id := rfl
@[simp] theorem putBytes_hart (s : State) (a : Nat) (bs : List Byte) : (s.putBytes a bs).hart = s.hart := rfl
@[simp] theorem putBytes_others (s : State) (a : Nat) (bs : List Byte) : (s.putBytes a bs).others = s.others := rfl
@[simp] theorem putBytes_cores (s : State) (a : Nat) (bs : List Byte) : (s.putBytes a bs).cores = s.cores := rfl
@[simp] theorem putBytes_quads (s : State) (a : Nat) (bs : List Byte) : (s.putBytes a bs).quads = s.quads := rfl
@[simp] theorem putBytes_dies (s : State) (a : Nat) (bs : List Byte) : (s.putBytes a bs).dies = s.dies := rfl
@[simp] theorem putBytes_pkgs (s : State) (a : Nat) (bs : List Byte) : (s.putBytes a bs).pkgs = s.pkgs := rfl
@[simp] theorem putBytes_podBarriers (s : State) (a : Nat) (bs : List Byte) : (s.putBytes a bs).podBarriers = s.podBarriers := rfl
@[simp] theorem putBytes_time (s : State) (a : Nat) (bs : List Byte) : (s.putBytes a bs).time = s.time := rfl
@[simp] theorem putBytes_freeCount (s : State) (a : Nat) (bs : List Byte) : (s.putBytes a bs).freeCount = s.freeCount := rfl
@[simp] theorem putBytes_agenda (s : State) (a : Nat) (bs : List Byte) : (s.putBytes a bs).agenda = s.agenda := rfl
@[simp] theorem putBytes_lag (s : State) (a : Nat) (bs : List Byte) : (s.putBytes a bs).lag = s.lag := rfl
@[simp] theorem putBytes_parked (s : State) (a : Nat) (bs : List Byte) : (s.putBytes a bs).parked = s.parked := rfl
@[simp] theorem putBytes_rotor (s : State) (a : Nat) (bs : List Byte) : (s.putBytes a bs).rotor = s.rotor := rfl
@[simp] theorem putBytes_unseenV (s : State) (a : Nat) (bs : List Byte) : (s.putBytes a bs).unseenV = s.unseenV := rfl
@[simp] theorem putBytes_dead (s : State) (a : Nat) (bs : List Byte) : (s.putBytes a bs).dead = s.dead := rfl
@[simp] theorem putBytes_unseenS (s : State) (a : Nat) (bs : List Byte) : (s.putBytes a bs).unseenS = s.unseenS := rfl
@[simp] theorem putBytes_stores (s : State) (a : Nat) (bs : List Byte) : (s.putBytes a bs).stores = s.stores.map fun w => { w with agent := w.agent ++ [(a, bs)] } := rfl

@[simp] theorem putNat_id (s : State) (a n x : Nat) : (s.putNat a n x).id = s.id := rfl
@[simp] theorem putNat_hart (s : State) (a n x : Nat) : (s.putNat a n x).hart = s.hart := rfl
@[simp] theorem putNat_others (s : State) (a n x : Nat) : (s.putNat a n x).others = s.others := rfl
@[simp] theorem putNat_cores (s : State) (a n x : Nat) : (s.putNat a n x).cores = s.cores := rfl
@[simp] theorem putNat_quads (s : State) (a n x : Nat) : (s.putNat a n x).quads = s.quads := rfl
@[simp] theorem putNat_dies (s : State) (a n x : Nat) : (s.putNat a n x).dies = s.dies := rfl
@[simp] theorem putNat_pkgs (s : State) (a n x : Nat) : (s.putNat a n x).pkgs = s.pkgs := rfl
@[simp] theorem putNat_podBarriers (s : State) (a n x : Nat) : (s.putNat a n x).podBarriers = s.podBarriers := rfl
@[simp] theorem putNat_time (s : State) (a n x : Nat) : (s.putNat a n x).time = s.time := rfl
@[simp] theorem putNat_freeCount (s : State) (a n x : Nat) : (s.putNat a n x).freeCount = s.freeCount := rfl
@[simp] theorem putNat_agenda (s : State) (a n x : Nat) : (s.putNat a n x).agenda = s.agenda := rfl
@[simp] theorem putNat_lag (s : State) (a n x : Nat) : (s.putNat a n x).lag = s.lag := rfl
@[simp] theorem putNat_parked (s : State) (a n x : Nat) : (s.putNat a n x).parked = s.parked := rfl
@[simp] theorem putNat_rotor (s : State) (a n x : Nat) : (s.putNat a n x).rotor = s.rotor := rfl
@[simp] theorem putNat_unseenV (s : State) (a n x : Nat) : (s.putNat a n x).unseenV = s.unseenV := rfl
@[simp] theorem putNat_dead (s : State) (a n x : Nat) : (s.putNat a n x).dead = s.dead := rfl
@[simp] theorem putNat_unseenS (s : State) (a n x : Nat) : (s.putNat a n x).unseenS = s.unseenS := rfl
@[simp] theorem putNat_stores (s : State) (a n x : Nat) : (s.putNat a n x).stores = s.stores.map fun w => { w with agent := w.agent ++ [(a, leBytes n x)] } := rfl

@[simp] theorem putSp_id (s : State) (c off n x : Nat) : (s.putSp c off n x).id = s.id := rfl
@[simp] theorem putSp_hart (s : State) (c off n x : Nat) : (s.putSp c off n x).hart = s.hart := rfl
@[simp] theorem putSp_others (s : State) (c off n x : Nat) : (s.putSp c off n x).others = s.others := rfl
@[simp] theorem putSp_quads (s : State) (c off n x : Nat) : (s.putSp c off n x).quads = s.quads := rfl
@[simp] theorem putSp_dies (s : State) (c off n x : Nat) : (s.putSp c off n x).dies = s.dies := rfl
@[simp] theorem putSp_pkgs (s : State) (c off n x : Nat) : (s.putSp c off n x).pkgs = s.pkgs := rfl
@[simp] theorem putSp_podBarriers (s : State) (c off n x : Nat) : (s.putSp c off n x).podBarriers = s.podBarriers := rfl
@[simp] theorem putSp_mem (s : State) (c off n x : Nat) : (s.putSp c off n x).mem = s.mem := rfl
@[simp] theorem putSp_poison (s : State) (c off n x : Nat) : (s.putSp c off n x).poison = s.poison := rfl
@[simp] theorem putSp_time (s : State) (c off n x : Nat) : (s.putSp c off n x).time = s.time := rfl
@[simp] theorem putSp_freeCount (s : State) (c off n x : Nat) : (s.putSp c off n x).freeCount = s.freeCount := rfl
@[simp] theorem putSp_agenda (s : State) (c off n x : Nat) : (s.putSp c off n x).agenda = s.agenda := rfl
@[simp] theorem putSp_lag (s : State) (c off n x : Nat) : (s.putSp c off n x).lag = s.lag := rfl
@[simp] theorem putSp_parked (s : State) (c off n x : Nat) : (s.putSp c off n x).parked = s.parked := rfl
@[simp] theorem putSp_rotor (s : State) (c off n x : Nat) : (s.putSp c off n x).rotor = s.rotor := rfl
@[simp] theorem putSp_unseenV (s : State) (c off n x : Nat) : (s.putSp c off n x).unseenV = s.unseenV := rfl
@[simp] theorem putSp_dead (s : State) (c off n x : Nat) : (s.putSp c off n x).dead = s.dead := rfl
@[simp] theorem putSp_unseenS (s : State) (c off n x : Nat) : (s.putSp c off n x).unseenS = s.unseenS := rfl
@[simp] theorem putSp_stores (s : State) (c off n x : Nat) : (s.putSp c off n x).stores = s.stores := rfl

@[simp] theorem unowned_hart (s t : State) : (s.unowned t).hart = t.hart := rfl
@[simp] theorem unowned_mem (s t : State) : (s.unowned t).mem = t.mem := rfl
@[simp] theorem unowned_poison (s t : State) : (s.unowned t).poison = t.poison := rfl
@[simp] theorem unowned_cores (s t : State) : (s.unowned t).cores = t.cores := rfl
@[simp] theorem unowned_dies (s t : State) : (s.unowned t).dies = t.dies := rfl
/-- Between turns nothing is collected. -/
theorem unowned_none {s t : State} (h : t.stores = none) : s.unowned t = t := by
  unfold State.unowned
  rw [h]
  split
  · contradiction
  · rw [← h]

@[simp] theorem setHartAt_id (s : State) (n : Nat) (h : Hart) : (s.setHartAt n h).id = s.id := by unfold State.setHartAt; split <;> rfl
@[simp] theorem setHartAt_cores (s : State) (n : Nat) (h : Hart) : (s.setHartAt n h).cores = s.cores := by unfold State.setHartAt; split <;> rfl
@[simp] theorem setHartAt_quads (s : State) (n : Nat) (h : Hart) : (s.setHartAt n h).quads = s.quads := by unfold State.setHartAt; split <;> rfl
@[simp] theorem setHartAt_dies (s : State) (n : Nat) (h : Hart) : (s.setHartAt n h).dies = s.dies := by unfold State.setHartAt; split <;> rfl
@[simp] theorem setHartAt_pkgs (s : State) (n : Nat) (h : Hart) : (s.setHartAt n h).pkgs = s.pkgs := by unfold State.setHartAt; split <;> rfl
@[simp] theorem setHartAt_podBarriers (s : State) (n : Nat) (h : Hart) : (s.setHartAt n h).podBarriers = s.podBarriers := by unfold State.setHartAt; split <;> rfl
@[simp] theorem setHartAt_mem (s : State) (n : Nat) (h : Hart) : (s.setHartAt n h).mem = s.mem := by unfold State.setHartAt; split <;> rfl
@[simp] theorem setHartAt_poison (s : State) (n : Nat) (h : Hart) : (s.setHartAt n h).poison = s.poison := by unfold State.setHartAt; split <;> rfl
@[simp] theorem setHartAt_time (s : State) (n : Nat) (h : Hart) : (s.setHartAt n h).time = s.time := by unfold State.setHartAt; split <;> rfl
@[simp] theorem setHartAt_freeCount (s : State) (n : Nat) (h : Hart) : (s.setHartAt n h).freeCount = s.freeCount := by unfold State.setHartAt; split <;> rfl
@[simp] theorem setHartAt_agenda (s : State) (n : Nat) (h : Hart) : (s.setHartAt n h).agenda = s.agenda := by unfold State.setHartAt; split <;> rfl
@[simp] theorem setHartAt_lag (s : State) (n : Nat) (h : Hart) : (s.setHartAt n h).lag = s.lag := by unfold State.setHartAt; split <;> rfl
@[simp] theorem setHartAt_parked (s : State) (n : Nat) (h : Hart) : (s.setHartAt n h).parked = s.parked := by unfold State.setHartAt; split <;> rfl
@[simp] theorem setHartAt_rotor (s : State) (n : Nat) (h : Hart) : (s.setHartAt n h).rotor = s.rotor := by unfold State.setHartAt; split <;> rfl
@[simp] theorem setHartAt_unseenV (s : State) (n : Nat) (h : Hart) : (s.setHartAt n h).unseenV = s.unseenV := by unfold State.setHartAt; split <;> rfl
@[simp] theorem setHartAt_dead (s : State) (n : Nat) (h : Hart) : (s.setHartAt n h).dead = s.dead := by unfold State.setHartAt; split <;> rfl
@[simp] theorem setHartAt_unseenS (s : State) (n : Nat) (h : Hart) : (s.setHartAt n h).unseenS = s.unseenS := by unfold State.setHartAt; split <;> rfl
@[simp] theorem setHartAt_stores (s : State) (n : Nat) (h : Hart) : (s.setHartAt n h).stores = s.stores := by unfold State.setHartAt; split <;> rfl

@[simp] theorem focusOn_cores (s : State) (n : Nat) : (s.focusOn n).cores = s.cores := by unfold State.focusOn; split <;> rfl
@[simp] theorem focusOn_quads (s : State) (n : Nat) : (s.focusOn n).quads = s.quads := by unfold State.focusOn; split <;> rfl
@[simp] theorem focusOn_dies (s : State) (n : Nat) : (s.focusOn n).dies = s.dies := by unfold State.focusOn; split <;> rfl
@[simp] theorem focusOn_pkgs (s : State) (n : Nat) : (s.focusOn n).pkgs = s.pkgs := by unfold State.focusOn; split <;> rfl
@[simp] theorem focusOn_podBarriers (s : State) (n : Nat) : (s.focusOn n).podBarriers = s.podBarriers := by unfold State.focusOn; split <;> rfl
@[simp] theorem focusOn_mem (s : State) (n : Nat) : (s.focusOn n).mem = s.mem := by unfold State.focusOn; split <;> rfl
@[simp] theorem focusOn_poison (s : State) (n : Nat) : (s.focusOn n).poison = s.poison := by unfold State.focusOn; split <;> rfl
@[simp] theorem focusOn_time (s : State) (n : Nat) : (s.focusOn n).time = s.time := by unfold State.focusOn; split <;> rfl
@[simp] theorem focusOn_freeCount (s : State) (n : Nat) : (s.focusOn n).freeCount = s.freeCount := by unfold State.focusOn; split <;> rfl
@[simp] theorem focusOn_agenda (s : State) (n : Nat) : (s.focusOn n).agenda = s.agenda := by unfold State.focusOn; split <;> rfl
@[simp] theorem focusOn_lag (s : State) (n : Nat) : (s.focusOn n).lag = s.lag := by unfold State.focusOn; split <;> rfl
@[simp] theorem focusOn_rotor (s : State) (n : Nat) : (s.focusOn n).rotor = s.rotor := by unfold State.focusOn; split <;> rfl
@[simp] theorem focusOn_unseenV (s : State) (n : Nat) : (s.focusOn n).unseenV = s.unseenV := by unfold State.focusOn; split <;> rfl
@[simp] theorem focusOn_dead (s : State) (n : Nat) : (s.focusOn n).dead = s.dead := by unfold State.focusOn; split <;> rfl
@[simp] theorem focusOn_unseenS (s : State) (n : Nat) : (s.focusOn n).unseenS = s.unseenS := by unfold State.focusOn; split <;> rfl
@[simp] theorem focusOn_stores (s : State) (n : Nat) : (s.focusOn n).stores = s.stores := by unfold State.focusOn; split <;> rfl

@[simp] theorem setScalar_phase (h : Hart) (n : BitVec 7) (v : Word) : (setScalar h n v).phase = h.phase := by unfold setScalar; split <;> rfl
@[simp] theorem setScalar_fetch (h : Hart) (n : BitVec 7) (v : Word) : (setScalar h n v).fetch = h.fetch := by unfold setScalar; split <;> rfl
@[simp] theorem setScalar_kbank (h : Hart) (n : BitVec 7) (v : Word) : (setScalar h n v).kbank = h.kbank := by unfold setScalar; split <;> rfl
@[simp] theorem setScalar_cfg (h : Hart) (n : BitVec 7) (v : Word) : (setScalar h n v).cfg = h.cfg := by unfold setScalar; split <;> rfl
@[simp] theorem setScalar_vec (h : Hart) (n : BitVec 7) (v : Word) : (setScalar h n v).vec = h.vec := by unfold setScalar; split <;> rfl
@[simp] theorem setScalar_queues (h : Hart) (n : BitVec 7) (v : Word) : (setScalar h n v).queues = h.queues := by unfold setScalar; split <;> rfl
@[simp] theorem setScalar_vq (h : Hart) (n : BitVec 7) (v : Word) : (setScalar h n v).vq = h.vq := by unfold setScalar; split <;> rfl
@[simp] theorem setScalar_ras (h : Hart) (n : BitVec 7) (v : Word) : (setScalar h n v).ras = h.ras := by unfold setScalar; split <;> rfl
@[simp] theorem setScalar_sys (h : Hart) (n : BitVec 7) (v : Word) : (setScalar h n v).sys = h.sys := by unfold setScalar; split <;> rfl
@[simp] theorem setScalar_trap (h : Hart) (n : BitVec 7) (v : Word) : (setScalar h n v).trap = h.trap := by unfold setScalar; split <;> rfl
@[simp] theorem setScalar_task (h : Hart) (n : BitVec 7) (v : Word) : (setScalar h n v).task = h.task := by unfold setScalar; split <;> rfl
@[simp] theorem setScalar_pendEngf (h : Hart) (n : BitVec 7) (v : Word) : (setScalar h n v).pendEngf = h.pendEngf := by unfold setScalar; split <;> rfl
@[simp] theorem setScalar_pendMce (h : Hart) (n : BitVec 7) (v : Word) : (setScalar h n v).pendMce = h.pendMce := by unfold setScalar; split <;> rfl

/-! ## Units read back -/

@[simp] theorem core_setCore_same (s : State) (c : Nat) (x : Core) : (s.setCore c x).core c = x := sparseGet_put_same ..
theorem core_setCore_other (s : State) {c k : Nat} (x : Core) (h : k ≠ c) : (s.setCore c x).core k = s.core k :=
  sparseGet_put_other _ _ _ h
@[simp] theorem quad_setQuad_same (s : State) (q : Nat) (x : Quad) : (s.setQuad q x).quad q = x := sparseGet_put_same ..
theorem quad_setQuad_other (s : State) {q k : Nat} (x : Quad) (h : k ≠ q) : (s.setQuad q x).quad k = s.quad k :=
  sparseGet_put_other _ _ _ h
@[simp] theorem die_setDie_same (s : State) (d : Nat) (x : Die) : (s.setDie d x).die d = x := sparseGet_put_same ..
theorem die_setDie_other (s : State) {d k : Nat} (x : Die) (h : k ≠ d) : (s.setDie d x).die k = s.die k :=
  sparseGet_put_other _ _ _ h
@[simp] theorem pkg_setPkg_same (s : State) (p : Nat) (x : Pkg) : (s.setPkg p x).pkg p = x := sparseGet_put_same ..
theorem pkg_setPkg_other (s : State) {p k : Nat} (x : Pkg) (h : k ≠ p) : (s.setPkg p x).pkg k = s.pkg k :=
  sparseGet_put_other _ _ _ h

theorem hartAt_setHartAt_same (s : State) (n : Nat) (h : Hart) : (s.setHartAt n h).hartAt n = h := by
  unfold State.setHartAt State.hartAt
  by_cases e : n = s.id
  · simp [e]
  · simp [e, sparseGet_put_same]

theorem hartAt_setHartAt_other (s : State) {n k : Nat} (h : Hart) (e : k ≠ n) :
    (s.setHartAt n h).hartAt k = s.hartAt k := by
  unfold State.setHartAt State.hartAt
  by_cases d : n = s.id
  · subst d
    simp [e]
  · simp [d, sparseGet_put_other _ _ _ e]

/-- Bringing a hart into focus changes no hart. -/
theorem hartAt_focusOn (s : State) (n k : Nat) : (s.focusOn n).hartAt k = s.hartAt k := by
  unfold State.focusOn State.hartAt
  by_cases d : n = s.id
  · simp [d]
  · by_cases e : k = n
    · subst e
      simp [d]
    · by_cases f : k = s.id
      · subst f
        simp [d, Ne.symm d, sparseGet_put_same]
      · simp [d, e, f, sparseGet_put_other _ _ _ f, sparseGet_erase_other _ _ e]

@[simp] theorem focusOn_id (s : State) (n : Nat) : (s.focusOn n).id = n := by
  unfold State.focusOn
  split
  · exact Eq.symm ‹_›
  · rfl

theorem focusOn_hart (s : State) (n : Nat) : (s.focusOn n).hart = s.hartAt n := by
  unfold State.focusOn State.hartAt
  split <;> rfl

/-- A scalar written is read back, s0 apart; other names keep their values. -/
theorem scalarVal_setScalar_same (h : Hart) (n : BitVec 7) (v : Word) (lt : n.toNat < 64) (ne : n.toNat ≠ 0) :
    scalarVal (setScalar h n v) n = v := by
  simp [scalarVal, setScalar, lt, ne, sparseGet_put_same]

end Sys2Proof.Machine
end

