-- ==== Sys2Proof/Laws/Ops.lean ====
section
/-! SUPPORT. What the shared operations do, said once: how a meaning runs, when a vector-agent access completes, what a delivery
and a write of an element leave. -/

namespace Sys2Proof.Machine

/-! ## Running -/

/-- A scalar instruction always has a next state. -/
theorem runScalar_next (w : BitVec 32) (m : M Flow) (s : State) : ∃ t, runScalar w m s = .next t := by
  unfold runScalar
  split <;> exact ⟨_, rfl⟩

/-- An event always has a next state. -/
theorem runEvent_next (m : M Unit) (s : State) : ∃ t, runEvent m s = .next t := by
  unfold runEvent
  split <;> exact ⟨_, rfl⟩

/-- A vector-side instruction always has a next state. -/
theorem dispatchV_next (w lit : BitVec 32) (op : VOp) (perform : Entry → M Unit) (s : State) :
    ∃ t, dispatchV w lit op perform s = .next t := by
  unfold dispatchV
  split
  · dsimp only
    split <;> exact ⟨_, rfl⟩
  all_goals exact ⟨_, rfl⟩

/-- A scalar meaning that ends well goes on as its flow says. -/
theorem runScalar_ok {w : BitVec 32} {m : M Flow} {s t : State} {fl : Flow} (h : m.exec s = (.ok fl, t)) :
    runScalar w m s = .next ((advance fl).exec t).2 := by
  unfold runScalar
  rw [h]

/-- A scalar meaning that traps enters the handler. -/
theorem runScalar_trap {w : BitVec 32} {m : M Flow} {s t : State} {c : Cause} {v : Word}
    (h : m.exec s = (.error (.trap c v), t)) : runScalar w m s = .next (takeTrap false c v t) := by
  unfold runScalar
  rw [h]

/-- An event that ends well leaves its state. -/
theorem runEvent_ok {m : M Unit} {s t : State} (h : m.exec s = (.ok (), t)) : runEvent m s = .next t := by
  unfold runEvent
  rw [h]

/-- An event whose condition does not hold changes nothing. -/
theorem runEvent_error {m : M Unit} {s t : State} {e : Stop} (h : m.exec s = (.error e, t)) : runEvent m s = .next s := by
  unfold runEvent
  rw [h]

/-! ## Accesses -/

/-- Every package answers: no access meets the mark (R395). -/
theorem unanswered_none {s : State} (h : s.hart.unanswered = none) (pa : Nat) : unanswered s pa = false := by
  simp [unanswered, h]

/-- An address that names a target, in a package that answers and a unit that is not fenced, passes (R212, R315, R319, R395). -/
theorem exec_reach (k : Access) (g : Agent) (mt : Nat) (v : Word) (pa n : Nat) (s : State) (ans : s.hart.unanswered = none)
    (here : absent s (pkgOf s.id) pa = false) (dev : deviceOk k g mt pa n = true) (sound : fencedAt s pa = false) :
    (reach k g mt v pa n).exec s = (.ok pa, s) := by
  unfold reach
  rw [exec_bind_ok (exec_get s), unanswered_none ans]
  simp [here, dev, sound, exec_pure]

/-- With translation off at privilege 2 an address below 2^52 that names a target is its own physical address (R316). -/
theorem exec_translateAt_off (k : Access) (g : Agent) (v : Word) (n : Nat) (s : State) (off : (s.die (dieOf s.id)).ptEn = 0)
    (lt : v.toNat < 2 ^ 52) (ans : s.hart.unanswered = none) (here : absent s (pkgOf s.id) v.toNat = false) (dev : deviceOk k g 0 v.toNat n = true)
    (sound : fencedAt s v.toNat = false) :
    (translateAt 2 k g v n).exec s = (.ok v.toNat, s) := by
  unfold translateAt
  rw [exec_bind_ok (exec_get s)]
  simp only [off, if_true, bne_self_eq_false, Bool.false_eq_true, if_false]
  rw [if_neg (by omega)]
  exact exec_reach k g 0 v v.toNat n s ans here dev sound

/-- Nothing that the hart has outstanding holds the interlock: the access goes on (R199). -/
theorem exec_stallOn_free (sp : Bool) (lo n : Nat) (wr : Bool) (s : State) (h : ∀ k ∈ s.myCore.locks, k.hart ≠ s.id) :
    (stallOn sp lo n wr).exec s = (.ok (), s) := by
  unfold stallOn
  rw [exec_bind_ok (exec_get s)]
  have : lockHit s.myCore.locks s.id sp lo n wr = false := by
    unfold lockHit
    rw [List.any_eq_false]
    intro k hk
    simp [h k hk]
  simp only [this, Bool.false_eq_true, if_false]
  rfl

/-- No poisoned byte in the span: nothing happens (R330). -/
theorem exec_checkPoison_clean (pa n : Nat) (v : Word) (s : State) (h : ∀ p ∈ s.poison, p < pa ∨ pa + n ≤ p) :
    (checkPoison pa n v).exec s = (.ok (), s) := by
  unfold checkPoison State.marked
  rw [exec_bind_ok (exec_get s)]
  have : (s.poison.any fun p => pa ≤ p && p < pa + n) = false := by
    rw [List.any_eq_false]
    intro p hp
    have := h p hp
    simp only [Bool.and_eq_true, decide_eq_true_eq, not_and]
    omega
  simp only [this, Bool.false_eq_true, if_false]
  rfl

theorem exec_trapIf_false {p : Bool} (h : p = false) (c : Cause) (v : Word) (s : State) :
    (trapIf p c v).exec s = (.ok (), s) := by
  rw [h]
  rfl

/-- A vector-agent read of a clean, reachable, aligned span gives the number in memory and changes nothing (R149). -/
theorem exec_vread (g : Agent) (v : Word) (z pa : Nat) (s : State) (al : v.toNat % z = 0)
    (free : ∀ k ∈ s.myCore.locks, k.hart ≠ s.id)
    (tr : (translateAt s.hart.trap.priv.toNat .load g v z).exec s = (.ok pa, s))
    (cl : ∀ p ∈ s.poison, p < pa ∨ pa + z ≤ p) : (vread g v z).exec s = (.ok (s.memNat pa z), s) := by
  unfold vread
  rw [exec_bind_ok (exec_trapIf_false (by simp [al]) .align v s), exec_bind_ok (exec_stallOn_free false v.toNat z false s free)]
  unfold rdmem rdmemAt
  rw [exec_bind_ok (exec_privNow s), exec_bind_ok tr, exec_bind_ok (exec_checkPoison_clean pa z v s cl)]
  rfl

/-- A vector-agent write of a reachable, aligned span puts the number there and changes nothing else (R149). -/
theorem exec_vwrite (g : Agent) (v : Word) (z x pa : Nat) (s : State) (al : v.toNat % z = 0)
    (free : ∀ k ∈ s.myCore.locks, k.hart ≠ s.id) (ans : s.hart.unanswered = none)
    (tr : (translateAt s.hart.trap.priv.toNat .store g v z).exec s = (.ok pa, s)) :
    (vwrite g v z x).exec s = (.ok (), s.putNat pa z x) := by
  unfold vwrite
  rw [exec_bind_ok (exec_trapIf_false (by simp [al]) .align v s), exec_bind_ok (exec_stallOn_free false v.toNat z true s free)]
  unfold wrmem wrmemAt storeAt
  rw [exec_bind_ok (exec_privNow s), exec_bind_ok tr, exec_bind_ok (exec_get s), unanswered_none ans]
  rfl

/-! ## Deliveries and elements -/

/-- A delivery to q4 with room appends the value and changes nothing else (R28). -/
theorem exec_deliver (x : Word) (s : State) (room : (sparseGet [] s.hart.queues 4).length < 8) :
    (deliver x).exec s = (.ok (), { s with hart := { s.hart with
      queues := sparsePut [] s.hart.queues 4 (sparseGet [] s.hart.queues 4 ++ [x]) } }) := by
  unfold deliver
  rw [exec_bind_ok (exec_getHart s)]
  dsimp only
  rw [if_neg (by omega), exec_modHart]

/-- A full q4 makes a delivery wait (R28). -/
theorem exec_deliver_full (x : Word) (s : State) (full : 8 ≤ (sparseGet [] s.hart.queues 4).length) :
    (deliver x).exec s = (.error .block, s) := by
  unfold deliver
  rw [exec_bind_ok (exec_getHart s)]
  dsimp only
  rw [if_pos full]
  rfl

theorem exec_needRoom (s : State) (room : (sparseGet [] s.hart.queues 4).length < 8) : needRoom.exec s = (.ok (), s) := by
  unfold needRoom
  rw [exec_bind_ok (exec_getHart s), if_neg (by omega)]
  rfl

/-- An element of at least a byte that was written is read back from its place in the row. -/
theorem putElem_rows (v : VecRegs) (row i w x : Nat) (h4 : w ≠ 4) :
    (putElem v row i w x).rows = sparsePutList 0 v.rows (rowKey row (i * (w / 8))) (leBytes (w / 8) x) := by
  simp [putElem, h4]

theorem putElem_read (v : VecRegs) (row i w x : Nat) (h4 : w ≠ 4) :
    leNat (sparseGetList 0 (putElem v row i w x).rows (rowKey row (i * (w / 8))) (w / 8)) = x % 2 ^ (8 * (w / 8)) := by
  rw [putElem_rows v row i w x h4]
  have h := sparseGetList_putList_same (0 : Byte) (leBytes (w / 8) x) v.rows (rowKey row (i * (w / 8)))
  rw [length_leBytes] at h
  rw [h, leNat_leBytes]

/-- Writing an element leaves every byte outside it. -/
theorem putElem_other (v : VecRegs) (row i w x k : Nat) (h4 : w ≠ 4)
    (h : k < rowKey row (i * (w / 8)) ∨ rowKey row (i * (w / 8)) + w / 8 ≤ k) :
    sparseGet 0 (putElem v row i w x).rows k = sparseGet 0 v.rows k := by
  rw [putElem_rows v row i w x h4, sparseGet_putList, dif_neg]
  rw [length_leBytes]
  omega

end Sys2Proof.Machine
end

