-- ==== Sys2Proof/Laws/Queue.lean ====
section
/-! SUPPORT. Dispatching a vector-side instruction and retiring it: an entry whose checks pass and whose work succeeds leaves the
state that the work leaves, retired. -/

namespace Sys2Proof.Machine

/-- What going on to the next word leaves alone. -/
theorem passed_eq (s : State) : s.passed = { s with
    hart := { s.hart with fetch := s.passed.hart.fetch, unanswered := s.passed.hart.unanswered }
    mem := s.passed.mem
    dies := s.passed.dies } := (passed_fetched s).1

@[simp] theorem passed_id (s : State) : s.passed.id = s.id := by rw [passed_eq]
@[simp] theorem passed_others (s : State) : s.passed.others = s.others := by rw [passed_eq]
@[simp] theorem passed_cores (s : State) : s.passed.cores = s.cores := by rw [passed_eq]
@[simp] theorem passed_quads (s : State) : s.passed.quads = s.quads := by rw [passed_eq]
@[simp] theorem passed_pkgs (s : State) : s.passed.pkgs = s.pkgs := by rw [passed_eq]
@[simp] theorem passed_podBarriers (s : State) : s.passed.podBarriers = s.podBarriers := by rw [passed_eq]
@[simp] theorem passed_time (s : State) : s.passed.time = s.time := by rw [passed_eq]
@[simp] theorem passed_freeCount (s : State) : s.passed.freeCount = s.freeCount := by rw [passed_eq]
@[simp] theorem passed_agenda (s : State) : s.passed.agenda = s.agenda := by rw [passed_eq]
@[simp] theorem passed_lag (s : State) : s.passed.lag = s.lag := by rw [passed_eq]
@[simp] theorem passed_parked (s : State) : s.passed.parked = s.parked := by rw [passed_eq]
@[simp] theorem passed_rotor (s : State) : s.passed.rotor = s.rotor := by rw [passed_eq]
@[simp] theorem passed_phase (s : State) : s.passed.hart.phase = s.hart.phase := by rw [passed_eq]
@[simp] theorem passed_sregs (s : State) : s.passed.hart.sregs = s.hart.sregs := by rw [passed_eq]
@[simp] theorem passed_kbank (s : State) : s.passed.hart.kbank = s.hart.kbank := by rw [passed_eq]
@[simp] theorem passed_cfg (s : State) : s.passed.hart.cfg = s.hart.cfg := by rw [passed_eq]
@[simp] theorem passed_vec (s : State) : s.passed.hart.vec = s.hart.vec := by rw [passed_eq]
@[simp] theorem passed_queues (s : State) : s.passed.hart.queues = s.hart.queues := by rw [passed_eq]
@[simp] theorem passed_vq (s : State) : s.passed.hart.vq = s.hart.vq := by rw [passed_eq]
@[simp] theorem passed_ras (s : State) : s.passed.hart.ras = s.hart.ras := by rw [passed_eq]
@[simp] theorem passed_sys (s : State) : s.passed.hart.sys = s.hart.sys := by rw [passed_eq]
@[simp] theorem passed_trap (s : State) : s.passed.hart.trap = s.hart.trap := by rw [passed_eq]
@[simp] theorem passed_task (s : State) : s.passed.hart.task = s.hart.task := by rw [passed_eq]
@[simp] theorem passed_pendEngf (s : State) : s.passed.hart.pendEngf = s.hart.pendEngf := by rw [passed_eq]
@[simp] theorem passed_gathered (s : State) : s.passed.hart.gathered = s.hart.gathered := by rw [passed_eq]
@[simp] theorem passed_colls (s : State) : s.passed.hart.colls = s.hart.colls := by rw [passed_eq]
@[simp] theorem passed_stalled (s : State) : s.passed.hart.stalled = s.hart.stalled := by rw [passed_eq]
@[simp] theorem passed_poison (s : State) : s.passed.poison = s.poison := by rw [passed_eq]
@[simp] theorem passed_unseenV (s : State) : s.passed.unseenV = s.unseenV := by rw [passed_eq]
@[simp] theorem passed_dead (s : State) : s.passed.dead = s.dead := by rw [passed_eq]
@[simp] theorem passed_unseenS (s : State) : s.passed.unseenS = s.unseenS := by rw [passed_eq]
@[simp] theorem passed_stores (s : State) : s.passed.stores = s.stores := by rw [passed_eq]

/-- Every package still answers after the step to the next word (R395). -/
theorem passed_answered {s : State} (h : s.hart.unanswered = none) : s.passed.hart.unanswered = none := (passed_fetched s).2.1 h

@[simp] theorem passed_pendMce (s : State) : s.passed.hart.pendMce = s.hart.pendMce := by rw [passed_eq]

theorem exec_capCheck (c : Cap) (s : State) (h : CapOk s.hart c) : c.check.exec s = (.ok (), s) := by
  cases c with
  | none => rfl
  | scalar n => exact (exec_checkScalar n s).trans (if_pos h)
  | pair n => exact (exec_checkPair n s).trans (if_pos (by rw [Bool.and_eq_true]; exact h))

/-- The checks of R416 pass. -/
structure Dispatches (op : VOp) (s : State) : Prop where
  priv : op.privileged = true → s.hart.trap.priv = 2
  live : s.hart.task.vrel = false ∨ op.afterVrel = true
  etype : op.etypes s.hart.cfg.et = true
  capA : CapOk s.hart op.a
  capB : CapOk s.hart op.b

/-- Dispatch of an instruction whose entry has no check of its own and whose scalar side does nothing. -/
theorem exec_dispatchEntry (w lit : BitVec 32) (op : VOp) (s : State) (hd : Dispatches op s)
    (hc : op.check = fun _ => pure ()) (ha : op.atDispatch = fun e => pure e) (hq : s.hart.vq = []) :
    (dispatchEntry w lit op).exec s =
      (.ok (entryOf s w lit op.a op.b op.whole), { s with hart := { s.hart with vq := [entryOf s w lit op.a op.b op.whole] } }) := by
  have hl : (s.hart.task.vrel && !op.afterVrel) = false := by
    rcases hd.live with h | h <;> simp [h]
  have hf : (32 ≤ s.hart.vq.length || (op.serial && !s.hart.vq.isEmpty)) = false := by simp [hq]
  unfold dispatchEntry
  simp only [hc, ha]
  rw [exec_bind, exec_getHart]
  dsimp only
  split
  · rw [exec_bind, exec_needSupervisor, if_pos (hd.priv ‹_›)]
    simp only [exec_bind, exec_trapIf, hl, hd.etype, exec_capCheck _ _ hd.capA, exec_capCheck _ _ hd.capB, exec_pure, hf,
      exec_modHart, Bool.not_true, Bool.false_eq_true, if_false]
    simp only [hq, List.nil_append]
    rfl
  · simp only [exec_bind, exec_trapIf, hl, hd.etype, exec_capCheck _ _ hd.capA, exec_capCheck _ _ hd.capB, exec_pure, hf,
      exec_modHart, Bool.not_true, Bool.false_eq_true, if_false]
    simp only [hq, List.nil_append]
    rfl

/-- An instruction that dispatches into an empty queue and whose work succeeds: it retires in the same step. -/
theorem dispatchV_done (w lit : BitVec 32) (op : VOp) (perform : Entry → M Unit) {s u : State} (hr : Ready s)
    (hd : Dispatches op s) (hc : op.check = fun _ => pure ()) (ha : op.atDispatch = fun e => pure e)
    (hp : (perform (entryOf s w lit op.a op.b op.whole)).exec (s.queued (entryOf s w lit op.a op.b op.whole)) = (.ok (), u)) :
    dispatchV w lit op perform s = .next u.retired := by
  unfold dispatchV
  rw [exec_dispatchEntry w lit op s hd hc ha hr.empty]
  have hlen : (s.queued (entryOf s w lit op.a op.b op.whole)).hart.vq = [entryOf s w lit op.a op.b op.whole] := passed_vq _
  have hlag : (s.queued (entryOf s w lit op.a op.b op.whole)).lag = false := (passed_lag _).trans hr.prompt
  show (if _ then _ else _) = _
  rw [if_pos]
  · show Host.Outcome.next ((executeHead perform).exec (s.queued (entryOf s w lit op.a op.b op.whole))).2 = _
    unfold executeHead
    rw [exec_bind, exec_getHart]
    simp only [hlen]
    rw [exec_bind, exec_attempt, hp]
    rfl
  · show (decide ((s.queued _).hart.vq.length = 1) && (op.serial || !(s.queued _).lag)) = true
    rw [hlen, hlag]
    simp

end Sys2Proof.Machine
end

