-- ==== Sys2Proof/Tests/Slice0.lean ====
section
/-! SUPPORT. Tests: words written out from the encodings of the manual, an ill-formed term for each operand class, one step of small
states against values reckoned by hand from the rules, and for every claim with hypotheses a state that meets them. -/

namespace Sys2Proof.Tests

open Sys2Proof Sys2Proof.Machine

set_option Elab.async false

/-! ## Helpers -/

/-- The next state of an outcome; the state after reset where there is none (no outcome of this machine is such). -/
def after (r : Host.Outcome State Fault Refusal) : State :=
  match r with
  | .next t => t
  | .fault _ => State.reset
  | .refused _ => State.reset

/-- The two outcomes are the same next state. -/
def same (r q : Host.Outcome State Fault Refusal) : Bool :=
  match r, q with
  | .next t, .next u => decide (t = u)
  | _, _ => false

/-- The outcome is the next state t. -/
def goes (r : Host.Outcome State Fault Refusal) (t : State) : Bool := same r (.next t)

/-- A running hart at privilege 2: s1 = −7, s2 = 2, s3 = 0x2000, s4 = 0x2001; VL is 4, RC 1, ETYPE INT32; its vector entries are saved at
0x8000. -/
def hartW : Hart := { Hart.reset with
  phase := .running
  fetch := ⟨0x1000, 0x1004, 0x1008, false, false, false, false, false⟩
  sregs := [(1, -7), (2, 2), (3, 0x2000), (4, 0x2001)]
  cfg := { VConf.reset with vl := 4, etype := 3 }
  trap := { TrapRegs.reset with xvq := 0x8000, tvec := 0x4000 } }

def w : State := { State.reset with hart := hartW }

/-- The same state with another hart. -/
def withHart (f : Hart → Hart) : State := { w with hart := f w.hart }

/-- Scalar n after an instruction. -/
def res (n : BitVec 7) (i : Instr) : Word := scalarVal (after (exec i w)).hart n

/-- The cause and the value of the trap that an instruction takes. -/
def trapped (i : Instr) (s : State) : BitVec 9 × Word :=
  let r := (after (exec i s)).hart.trap
  (r.cause, r.xval)

/-! ## Decoding: words written out field by field -/

/-- R54–R56, formats R, I, LI and J: major, D, A, B and function. -/
theorem test_decode_scalar :
    decodeTableWord 32 (0x00#6 ++ 5#7 ++ 4#7 ++ 3#7 ++ 0#5 : BitVec 32).toNat = some (.add 5 4 3) ∧
    decodeTableWord 32 (0x00#6 ++ 5#7 ++ 4#7 ++ 3#7 ++ 1#5 : BitVec 32).toNat = some (.sub 5 4 3) ∧
    decodeTableWord 32 (0x3E#6 ++ 7#6 ++ 0x80000#20 : BitVec 32).toNat = some (.li 7 0x80000) ∧
    decodeTableWord 32 0xD40000A0 = some (.trap 5) ∧ decodeTableWord 32 0xD4000001 = some .eret ∧
    decodeTableWord 32 0x20284016 = some (.ldd 5 4 2) ∧ decodeTableWord 32 0x24284016 = some (.std 5 4 2) ∧
    decodeTableWord 32 0x38002013 = some (.mts 2 0x013) ∧ decodeTableWord 32 0xD8404001 = some (.qrecv 8 4) := by
  decide +kernel

/-- The manual's own examples of vector-side words (R56, R131, R147, R151, R172). -/
theorem test_decode_vector :
    decodeTableWord 32 0x48284FA0 = some (.vadd 5 4 (.vi 0x7D) 0) ∧ decodeTableWord 32 0x94001007 = some (.ppop 1) ∧
    decodeTableWord 32 0x98301065 = some (.vrank 6 1 3 0) ∧ decodeTableWord 32 0x8821E006 = some (.vtox 4 30) ∧
    decodeTableWord 32 0x88F84007 = some (.xtov 31 4) ∧ decodeTableWord 32 0x90284124 = some (.vldx 5 4 9 0) ∧
    decodeTableWord 32 0x90084000 = some (.vld 1 4 0) ∧ decodeTableWord 32 0x901040E3 = some (.vsts 2 4 7 0) ∧
    decodeTableWord 32 0xD8282003 = some (.vqrecv 5 2) ∧ decodeTableWord 32 0x8C102003 = some (.vcfg 2 2 0 3) ∧
    decodeTableWord 32 0x88406022 = some (.vquant 8 6 1 0) ∧ decodeTableWord 32 0x9C0040A0 = some (.mshape 4 5) ∧
    decodeTableWord 32 0xDD4040C0 = some (.shlst 40 4 6 0) := by
  decide +kernel

/-! ## Well-formed terms: one ill-formed term for each operand class (R55, R63, R214, R231, R266) -/

theorem test_wf_refuses :
    (Instr.add 64 1 2).wf = false ∧ (Instr.ppop 24).wf = false ∧ (Instr.tzero 32).wf = false ∧
    (Instr.gset 16 1).wf = false ∧ (Instr.vtox 8 1).wf = false ∧ (Instr.qrecv 1 8).wf = false ∧
    (Instr.vcvt 1 2 12 0 0).wf = false ∧ (Instr.fence 6 0).wf = false ∧ (Instr.bara 1 0 0).wf = false ∧
    (Instr.kclaim 3 0).wf = false ∧ (Instr.br 1 6 0 0).wf = false := by decide +kernel

/-- The values at the edges of each class are accepted. -/
theorem test_wf_accepts :
    (Instr.add 63 127 127).wf = true ∧ (Instr.ppop 23).wf = true ∧ (Instr.tzero 31).wf = true ∧
    (Instr.gset 15 1).wf = true ∧ (Instr.vtox 7 1).wf = true ∧ (Instr.qrecv 1 7).wf = true ∧
    (Instr.vcvt 1 2 11 0 0).wf = true ∧ (Instr.fence 5 1).wf = true ∧ (Instr.bara 1 5 0).wf = true ∧
    (Instr.kclaim 62 0).wf = true ∧ (Instr.br 1 5 0 0).wf = true := by decide +kernel

/-! ## Scalar instructions: s1 = −7, s2 = 2 -/

/-- R95: ALU, by hand. -/
theorem test_alu :
    [res 5 (.add 5 1 2), res 5 (.sub 5 1 2), res 5 (.and 5 1 2), res 5 (.or 5 1 2), res 5 (.xor 5 1 2),
      res 5 (.andn 5 1 2), res 5 (.orn 5 1 2), res 5 (.sll 5 1 2), res 5 (.srl 5 1 2), res 5 (.sra 5 1 2),
      res 5 (.ror 5 1 2), res 5 (.mul 5 1 2)] =
    [-5, -9, 0, -5, -5, -7, -3, -28, 0x3FFFFFFFFFFFFFFE, -2, 0x7FFFFFFFFFFFFFFE, -14] := by decide +kernel

theorem test_alu_wide :
    [res 5 (.mulh 5 1 2), res 5 (.mulhu 5 1 2), res 5 (.div 5 1 2), res 5 (.divu 5 1 2), res 5 (.rem 5 1 2),
      res 5 (.remu 5 1 2), res 5 (.min 5 1 2), res 5 (.max 5 1 2), res 5 (.minu 5 1 2), res 5 (.maxu 5 1 2),
      res 5 (.addw 5 1 2), res 5 (.subw 5 1 2)] =
    [-1, 1, -3, 0x7FFFFFFFFFFFFFFC, -1, 1, -7, 2, 2, -7, -5, -9] := by decide +kernel

/-- R95: division by zero gives all ones, and a remainder by zero the dividend; s0 as destination discards. -/
theorem test_div_zero :
    [res 5 (.div 5 1 0), res 5 (.divu 5 1 0), res 5 (.rem 5 1 0), res 5 (.remu 5 1 0), res 0 (.add 0 1 2)] =
    [-1, -1, -7, -7, 0] := by decide +kernel

theorem test_compare :
    [res 5 (.seq 5 1 2), res 5 (.sne 5 1 2), res 5 (.slt 5 1 2), res 5 (.sge 5 1 2), res 5 (.sltu 5 1 2),
      res 5 (.sgeu 5 1 2)] = [0, 1, 1, 0, 0, 1] := by decide +kernel

/-- R96–R98. -/
theorem test_immediates :
    [res 5 (.addi 5 1 0x800), res 5 (.andi 5 1 0xFF0), res 5 (.ori 5 2 1), res 5 (.xori 5 2 0xFFF), res 5 (.slli 5 2 62),
      res 5 (.srli 5 1 60), res 5 (.srai 5 1 1), res 5 (.rori 5 2 1), res 5 (.li 5 0x80000), res 5 (.lf 5 0x3F800)] =
    [-2055, -16, 3, -3, 0x8000000000000000, 15, -4, 1, -0x80000, 0x3F800000] := by decide +kernel

theorem test_bits :
    [res 5 (.clz 5 2), res 5 (.ctz 5 2), res 5 (.popc 5 1), res 5 (.sextb 5 1), res 5 (.sexth 5 3), res 5 (.sextw 5 1),
      res 5 (.zextb 5 1), res 5 (.zexth 5 1), res 5 (.zextw 5 1), res 5 (.bswap 5 2), res 5 (.clz 5 0), res 5 (.ctz 5 0)] =
    [62, 1, 62, -7, 0x2000, -7, 0xF9, 0xFFF9, 0xFFFFFFF9, 0x0200000000000000, 64, 64] := by decide +kernel

/-- R102, R103, on FP32 patterns: s1 = 1.5, s2 = −2, s5 = 0.25. -/
def fpW : State := withHart fun h => { h with sregs := [(1, 0x3FC00000), (2, 0xC0000000), (5, 0x3E800000)] }
def fres (i : Instr) : Word := scalarVal (after (exec i fpW)).hart 5

theorem test_fps :
    [fres (.fadd 5 1 2), fres (.fsub 5 1 2), fres (.fmul 5 1 2), fres (.fdiv 5 1 2), fres (.fsqrt 5 2), fres (.fmin 5 1 2),
      fres (.fmax 5 1 2), fres (.feq 5 1 2), fres (.flt 5 2 1), fres (.fle 5 1 2), fres (.fclass 5 2)] =
    [0xBF000000, 0x40600000, 0xC0400000, 0xBF400000, 0x7FC00000, 0xC0000000, 0x3FC00000, 0, 1, 0, 0x80A] := by decide +kernel

theorem test_fps_convert :
    [fres (.fcvtsw 5 0), fres (.fcvtswu 5 2), fres (.fcvtws 5 2), fres (.fcvtwus 5 2), fres (.fcvths 5 1), fres (.fcvtsh 5 1),
      fres (.fcvtbs 5 1), fres (.fcvtsb 5 1)] =
    [0, 0x4F400000, -2, 0, 0x3E00, 0, 0x3FC0, 0] := by decide +kernel

theorem test_fused :
    [fres (.fmadd 5 1 2), fres (.fmsub 5 1 2), fres (.fnmadd 5 1 2), fres (.fnmsub 5 1 2)] =
    [0xC0300000, 0xC0500000, 0x40300000, 0x40500000] := by decide +kernel

/-- ScalarNames: the destination is a scalar; s0, a scalar and a constant are read. -/
theorem witness_ScalarNames : (5 : BitVec 7).toNat < 64 ∧ scalarVal (setScalar w.hart 5 9) 5 = 9 ∧
    scalarVal (setScalar w.hart 5 9) 1 = -7 ∧ scalarVal w.hart 64 = 0 := by decide +kernel

/-- AluResults, ImmediateResults, ScalarFloatResults, ScalarFrame, LoadResults, StoreResults, SystemResults: names inside their
windows, the last scalar of the window among them. -/
theorem witness_names : scalarOk w.hart 63 = true ∧ scalarOk w.hart 0 = true ∧ scalarOk w.hart 1 = true ∧
    scalarOk w.hart 127 = true ∧ scalarOk w.hart ((5 : BitVec 6).zeroExtend 7) = true := by decide +kernel

theorem witness_AluResults : same (exec (.add 63 1 127) w) (wroteScalar w 63 (-7)) = true ∧
    same (exec (.remu 5 1 0) w) (wroteScalar w 5 (-7)) = true := by decide +kernel

/-- The names 5, 1 and 63 are inside their windows: ADDI, LI and the last scalar that LI can name. -/
theorem witness_ImmediateResults : scalarOk w.hart 5 = true ∧ scalarOk w.hart 1 = true ∧ scalarOk w.hart ((63 : BitVec 6).zeroExtend 7) = true ∧
    same (exec (.addi 5 1 0xFFF) w) (wroteScalar w 5 (-8)) = true ∧ same (exec (.li 63 0xFFFFF) w) (wroteScalar w 63 (-1)) = true := by
  decide +kernel

theorem witness_ScalarFrame : same (exec (.add 5 1 2) w) (.next (after (exec (.add 5 1 2) w))) = true ∧
    same (exec (.popc 0 1) w) (.next (after (exec (.popc 0 1) w))) = true := by decide +kernel

theorem witness_ScalarFloatResults :
    same (exec (.fadd 5 1 2) fpW) (wroteFlagged fpW 5 0xBF000000 0) = true ∧
    same (exec (.fmadd 5 1 2) fpW) (wroteFlagged fpW 5 0xC0300000 0) = true := by decide +kernel

/-- A hart whose scalar window is eight names wide, at s248: name 8 and, from SWB + 8 on, no register is reached. -/
def narrowW : State := withHart fun h => { h with sys := { h.sys with window := 8, swb := 248, kbase := 511 } }

theorem witness_ScalarWindowTrap :
    scalarOk narrowW.hart 8 = false ∧ scalarOk narrowW.hart 7 = true ∧ scalarOk narrowW.hart 65 = false ∧
    scalarOk narrowW.hart 64 = true ∧ trapped (.add 8 1 2) narrowW = (0x003, 8) ∧ trapped (.add 7 65 2) narrowW = (0x003, 65) ∧
    trapped (.add 7 1 65) narrowW = (0x003, 65) := by decide +kernel

/-! ## Memory: bytes 0x81, 0x82, … from 0x2000 on -/

def memW : State := { w with mem := [(0x2000, 0x81), (0x2001, 0x82), (0x2002, 0x83), (0x2003, 0x84), (0x2004, 0x85),
  (0x2005, 0x86), (0x2006, 0x87), (0x2007, 0x88)] }
def lres (i : Instr) : Word := scalarVal (after (exec i memW)).hart 5

theorem test_loads :
    [lres (.ldb 5 3 1), lres (.ldbu 5 3 1), lres (.ldh 5 3 1), lres (.ldhu 5 3 1), lres (.ldw 5 3 1), lres (.ldwu 5 3 1),
      lres (.ldd 5 3 0)] =
    [-0x7E, 0x82, -0x7B7D, 0x8483, -0x7778797B, 0x88878685, 0x8887868584838281] := by decide +kernel

theorem test_indexed_loads :
    [lres (.ldxb 5 3 2 1), lres (.ldxbu 5 3 2 0), lres (.ldxh 5 3 2 1), lres (.ldxhu 5 3 2 0), lres (.ldxw 5 3 0 1),
      lres (.ldxwu 5 3 0 1), lres (.ldxd 5 3 0 1)] =
    [-0x7D, 0x83, -0x797B, 0x8483, -0x7B7C7D7F, 0x84838281, 0x8887868584838281] := by decide +kernel

/-- R99: s1 = −7 is stored low byte first. -/
def bytesAfter (i : Instr) : List Nat := [0, 1, 2, 3, 4, 5, 6, 7].map fun k => ((after (exec i w)).byteAt (0x2000 + k)).toNat

theorem test_stores :
    [bytesAfter (.stb 1 3 1), bytesAfter (.sth 1 3 1), bytesAfter (.stw 1 3 1), bytesAfter (.std 1 3 0)] =
    [[0, 0xF9, 0, 0, 0, 0, 0, 0], [0, 0, 0xF9, 0xFF, 0, 0, 0, 0], [0, 0, 0, 0, 0xF9, 0xFF, 0xFF, 0xFF],
      [0xF9, 0xFF, 0xFF, 0xFF, 0xFF, 0xFF, 0xFF, 0xFF]] := by decide +kernel

theorem test_indexed_stores :
    [bytesAfter (.stxb 1 3 2 1), bytesAfter (.stxh 1 3 2 1), bytesAfter (.stxw 1 3 0 0), bytesAfter (.stxd 1 3 0 0)] =
    [[0, 0, 0xF9, 0, 0, 0, 0, 0], [0, 0, 0, 0, 0xF9, 0xFF, 0, 0], [0xF9, 0xFF, 0xFF, 0xFF, 0, 0, 0, 0],
      [0xF9, 0xFF, 0xFF, 0xFF, 0xFF, 0xFF, 0xFF, 0xFF]] := by decide +kernel

/-- The access reaches a physical address as it stands. -/
def reaches (k : Access) (g : Agent) (s : State) (v : Word) (size pa : Nat) : Bool :=
  match (translateAt s.hart.trap.priv.toNat k g v size).exec s with
  | (.ok p, t) => decide (p = pa ∧ t = s)
  | (.error _, _) => false

theorem reaches_eq {k : Access} {g : Agent} {s : State} {v : Word} {size pa : Nat} (h : reaches k g s v size pa = true) :
    Reaches k g s v size pa := by
  unfold reaches at h
  unfold Reaches
  split at h
  · rename_i h'; rw [h']; obtain ⟨rfl, rfl⟩ := of_decide_eq_true h; rfl
  · cases h

theorem witness_LoadResults :
    Reaches .load .scalar memW 0x2000 8 0x2000 ∧ Reaches .load .scalar memW 0x2002 2 0x2002 ∧
    isControlWindow 0x2000 = false ∧ Clean memW 0x2000 8 ∧ Clean { memW with poison := [0x1FFF, 0x2008] } 0x2000 8 ∧
    same (exec (.ldd 5 3 0) memW) (wroteScalar memW 5 0x8887868584838281) = true :=
  ⟨reaches_eq (by decide +kernel), reaches_eq (by decide +kernel), by decide +kernel, by unfold Clean; decide +kernel,
    by unfold Clean; decide +kernel, by decide +kernel⟩

theorem witness_StoreResults :
    Reaches .store .scalar memW 0x2000 8 0x2000 ∧ Reaches .store .scalar memW 0x2001 1 0x2001 ∧
    goes (exec (.std 1 3 0) memW) (memW.putNat 0x2000 8 (2 ^ 64 - 7)).passed = true :=
  ⟨reaches_eq (by decide +kernel), reaches_eq (by decide +kernel), by decide +kernel⟩

/-- R100: addresses 0x2001 and past the address space; privilege 0 with translation off. -/
theorem witness_ScalarAlignTrap :
    trapped (.ldd 5 4 0) w = (0x004, 0x2001) ∧ trapped (.sth 5 4 0) w = (0x004, 0x2001) ∧
    trapped (.ldd 5 3 0) (withHart fun h => { h with trap := { h.trap with priv := 1 } }) = (0x006, 0x2000) ∧
    trapped (.std 5 3 0) (withHart fun h => { h with sregs := [(3, 0x10000000000000)] }) = (0x005, 0x10000000000000) := by
  decide +kernel

/-! ## Control flow -/

/-- The queued addresses after an instruction. -/
def fetchAfter (i : Instr) (s : State) : Fetch := (after (exec i s)).hart.fetch
def at' (pc na nb : Word) (apc ana : Bool) : Fetch := ⟨pc, na, nb, apc, ana, false, false, false⟩

/-- R107, R108: s1 = −7 is below zero; a branch not taken with the annul bit annuls two words; two delay slots. -/
theorem test_transfers :
    fetchAfter (.br 1 2 0 0x7FF0) w = at' 0x1004 0x1008 0xFC0 false false ∧
    fetchAfter (.br 1 3 0 4) w = at' 0x1004 0x1008 0x100C false false ∧
    fetchAfter (.br 1 3 1 4) w = at' 0x1004 0x1008 0x100C true true ∧
    fetchAfter (.jmp 0x10) w = at' 0x1004 0x1008 0x1040 false false ∧
    fetchAfter (.jr 3) w = at' 0x1004 0x1008 0x2000 false false := by decide +kernel

/-- R109: a call returns to the word after its two delay slots. -/
theorem test_calls :
    (after (exec (.call 0x10) w)).hart.ras = [⟨0x100C, false, 0, 0⟩] ∧
    fetchAfter (.call 0x10) w = at' 0x1004 0x1008 0x1040 false false ∧
    (after (exec (.callr 3) w)).hart.ras = [⟨0x100C, false, 0, 0⟩] ∧
    fetchAfter .ret (withHart fun h => { h with ras := [⟨0x3000, false, 0, 0⟩] }) = at' 0x1004 0x1008 0x3000 false false := by
  decide +kernel

/-- A hart with a frame in the return store. -/
def withRas (r : List Frame) : State := withHart fun h => { h with ras := r }

/-- Spilled frames at 0x5000: the newest is the second, which returns to 0x1234. -/
def spilledW : State := { withHart fun h => { h with sys := { h.sys with rasspill := 0x5000, rascnt := 2 } } with
  mem := [(0x5010, 0x34), (0x5011, 0x12)] }

/-- The read or write of words gives a value and leaves the state as it was. -/
def answers {α : Type} [DecidableEq α] (m : M α) (s : State) (x : α) : Bool :=
  match m.exec s with
  | (.ok y, t) => decide (y = x ∧ t = s)
  | (.error _, _) => false

theorem answers_eq {α : Type} [DecidableEq α] {m : M α} {s : State} {x : α} (h : answers m s x = true) :
    m.exec s = (.ok x, s) := by
  unfold answers at h
  split at h
  · rename_i h'; rw [h']; obtain ⟨rfl, rfl⟩ := of_decide_eq_true h; rfl
  · cases h

/-- The access traps, and leaves the state as it was. -/
def traps {α : Type} (m : M α) (s : State) (c : Cause) (x : Word) : Bool :=
  match m.exec s with
  | (.error e, t) => decide (e = .trap c x ∧ t = s)
  | (.ok _, _) => false

theorem traps_eq {α : Type} {m : M α} {s : State} {c : Cause} {x : Word} (h : traps m s c x = true) :
    m.exec s = (.error (.trap c x), s) := by
  unfold traps at h
  split at h
  · rename_i h'; rw [h']; obtain ⟨rfl, rfl⟩ := of_decide_eq_true h; rfl
  · cases h

/-- Each clause: a condition that holds and one that does not; a plain frame, a gate frame, a spilled frame, no frame. -/
theorem witness_TransferResults :
    scalarOk w.hart 1 = true ∧ (scalarVal w.hart 1).toInt < 0 ∧ (scalarVal w.hart 3).toNat % 4 = 0 ∧
    (scalarVal w.hart 4).toNat % 4 ≠ 0 ∧ trapped (.jr 4) w = (0x004, 0x2001) ∧
    trapped .ret (withRas [⟨0x3000, true, 0, 0⟩]) = (0x00A, 0x3000) ∧ trapped .ret w = (0x009, 0) ∧
    (rdWords spilledW.hart.trap.priv.toNat (frameAddr spilledW.hart (spilledW.hart.sys.rascnt - 1)) 2).exec spilledW =
      (.ok [0x1234, 0], spilledW) ∧
    fetchAfter .ret spilledW = at' 0x1004 0x1008 0x1234 false false ∧
    (after (exec .ret spilledW)).hart.sys.rascnt = 1 := by decide +kernel

/-- A full return store, with a plain and with a gate frame oldest. -/
def full (g : Bool) : List Frame := (List.range 15).map (fun i => ⟨BitVec.ofNat 64 (4 * i), false, 0, 0⟩) ++ [⟨0x7000, g, 0, 0⟩]
def fullW (g : Bool) : State := withHart fun h => { h with ras := full g, sys := { h.sys with rasspill := 0x5000 } }

theorem witness_CallResults :
    (succ w.hart.fetch.nb).exec w = (.ok 0x100C, w) ∧ w.hart.ras.length < 16 ∧ (full false).length = 16 ∧
    (after (exec (.call 4) (fullW false))).hart.ras.length = 16 ∧
    (after (exec (.call 4) (fullW false))).hart.sys.rascnt = 1 ∧
    (after (exec (.call 4) (fullW false))).memNat 0x5000 8 = 0x7000 ∧
    trapped (.call 4) (fullW true) = (0x00A, 0x7000) := by decide +kernel

/-- R112: gate 1 of a table at 0x6000 leads to 0x3000 at privilege 2 with MASKMODE 1. -/
def gateW : State := State.putNat (withHart fun h => { h with
  ras := [⟨0x2000, true, 1, 1⟩], trap := { h.trap with gatebase := 0x6000, gatecnt := 2 } }) 0x6010 16 0xD0000000000003000

/-- The table's own words: target, V, privilege and MASKMODE; the gate after the last one; a gate frame and a plain one. -/
theorem witness_GateResults :
    (readGate 1).exec gateW = (.ok ⟨0x3000, true, 2, 1⟩, gateW) ∧ (succAt 2 0x3000).exec gateW = (.ok 0x3004, gateW) ∧
    (after (exec (.gcall 1) gateW)).hart.ras.head? = some ⟨0x1004, true, 2, 0⟩ ∧
    fetchAfter (.gcall 1) gateW = at' 0x3000 0x3004 0x3008 false false ∧
    (after (exec (.gcall 1) gateW)).hart.cfg.maskmode = 1 ∧
    trapped (.gcall 2) gateW = (0x00A, 2) ∧
    (succAt 1 0x2000).exec { gateW with dies := gateW.dies } = (succAt 1 0x2000).exec gateW ∧
    trapped .gret (withRas [⟨0x3000, false, 0, 0⟩]) = (0x00A, 0x3000) :=
  ⟨answers_eq (by decide +kernel), answers_eq (by decide +kernel), by decide +kernel, by decide +kernel, by decide +kernel,
    by decide +kernel, rfl, by decide +kernel⟩

/-- A gate frame that came from privilege 2: GRET goes back there. -/
def gretW : State := withRas [⟨0x2000, true, 2, 1⟩]

theorem test_gret :
    (succAt 2 0x2000).exec gretW = (.ok 0x2004, gretW) ∧ (succAt 2 0x2004).exec gretW = (.ok 0x2008, gretW) ∧
    fetchAfter .gret gretW = at' 0x2000 0x2004 0x2008 false false ∧
    (after (exec .gret gretW)).hart.cfg.maskmode = 1 ∧ (after (exec .gret gretW)).hart.ras = [] :=
  ⟨answers_eq (by decide +kernel), answers_eq (by decide +kernel), by decide +kernel, by decide +kernel, by decide +kernel⟩

/-! ## Traps and privilege -/

/-- Low addresses of package 0 are plain memory, in no fenced unit where the package's first die has none. -/
theorem low_plain {s : State} {x : Nat} (hp : pkgOf s.id = 0) (h1 : x < 2 ^ 38) (h2 : x < (s.pkg 0).memsz.toNat * 2 ^ 28)
    (h3 : (s.die 0).fenced = []) :
    absent s (pkgOf s.id) x = false ∧ isControlWindow x = false ∧ fencedAt s x = false := by
  have b (hi lo : Nat) (h : 2 ^ 38 ≤ 2 ^ lo) : bitsOf x hi lo = 0 := by
    unfold bitsOf; rw [Nat.div_eq_of_lt (by omega)]; exact Nat.zero_mod _
  have b45 : bitOf x 45 = false := by unfold bitOf; rw [Nat.div_eq_of_lt (by omega)]; rfl
  have b37 : bitsOf x 37 0 = x := by simp [bitsOf]; omega
  have dies : ¬(s.pkg 0).part.dies = 0 := by cases (s.pkg 0).part <;> decide
  simp only [absent, isControlWindow, fencedAt, homeDie, physPkg, hp, b 51 46 (by decide), b 45 45 (by decide), b 44 40 (by decide),
    b 39 38 (by decide), b45, b37]
  simp [dies, h3]; omega

theorem span_of {s : State} {a n : Nat} (hp : pkgOf s.id = 0) (ht : s.myDie.ptEn = 0)
    (h : a + n ≤ 2 ^ 38 ∧ a + n ≤ (s.pkg 0).memsz.toNat * 2 ^ 28 ∧ (s.die 0).fenced = []) : PlainSpan s a n :=
  ⟨ht, by omega, fun x _ hx => low_plain hp (by omega) (by omega) h.2.2⟩

theorem witness_TrapEntry : w.hart.vq = [] ∧ (takeTrap true .matf 5 w).hart.trap.cause = 0x10F ∧
    (takeTrap true .matf 5 w).hart.fetch.pc = 0x4000 := by decide +kernel

/-- What TrapRegisters calls `entering`, for a trap of w. -/
def enteringW (na : Word) (naf : Bool) : State := { w with
  quads := (takeTrap true .matf 5 w).quads
  hart := { w.hart with
    phase := .running, trap := (takeTrap true .matf 5 w).hart.trap, fetch := ⟨0x4000, na, 0, false, false, true, naf, false⟩ } }

theorem witness_TrapRegisters : w.hart.trap.tvec = 0x4000 ∧ (succAt 2 0x4000).exec (enteringW 0 true) = (.ok 0x4004, enteringW 0 true) ∧
    (succAt 2 0x4004).exec (enteringW 0x4004 false) = (.ok 0x4008, enteringW 0x4004 false) ∧
    (takeTrap true .matf 5 w).hart.fetch = at' 0x4000 0x4004 0x4008 false false :=
  ⟨rfl, answers_eq (by decide +kernel), answers_eq (by decide +kernel), by decide +kernel⟩

/-- Two vector entries: VADD, which has reached element 3, and VLD with 0x2000 captured. -/
def begunE : Entry :=
  { entryOf w (encVadd 1 2 (.vv 3) 0).toWord 0 .none .none with cfg := { w.hart.cfg with estart := 3 }, begun := true }
def loadE : Entry := entryOf w (encVld 5 3 1).toWord 0 (.scalar 3) .none
def heldW : State := withHart fun h => { h with vq := [begunE, loadE] }
def savedW : State := takeTrap true .strf 7 heldW

theorem holds_of {s : State} {base : Nat} {es : List Entry} (h : (es.zipIdx.all fun p => (List.range 8).all fun k =>
    decide (s.memNat (base + 64 * p.2 + 8 * k) 8 = (slotWords p.1).getD k 0)) = true) : HoldsEntries s base es := by
  intro i e he k hk
  have := List.all_eq_true.mp (List.all_eq_true.mp h (e, i) (List.mem_zipIdx_iff_getElem?.mpr he)) k (List.mem_range.mpr hk)
  exact of_decide_eq_true this

/-- The trap of heldW finds room for its entries; afterwards ERET finds them. -/
theorem witness_SavedEntries : heldW.hart.vq = [begunE, loadE] ∧ heldW.hart.unanswered = none ∧ SaveRoom heldW 2 ∧
    savedW.hart.trap.priv = 2 ∧ savedW.hart.vq = [] ∧ savedW.hart.unanswered = none ∧ savedCount savedW = 2 ∧ SaveRoom savedW 2 ∧
    Clean savedW (saveArea savedW) 128 ∧ HoldsEntries savedW (saveArea savedW) [begunE, loadE] ∧
    (∀ e ∈ [begunE, loadE], isVectorWord e.word = true ∧ 1 ≤ e.cfg.rcN ∧ e.cfg.rcN ≤ 32 ∧
      (isPrivilegedVectorWord e.word = true → savedW.hart.trap.ppriv = 2)) ∧
    savedW.hart.trap.xflags.getLsbD 2 = false ∧ savedW.hart.trap.xflags.getLsbD 3 = false :=
  ⟨rfl, rfl, ⟨by decide, span_of (by decide +kernel) (by decide +kernel) (by decide +kernel)⟩, by decide +kernel, by decide +kernel,
    by decide +kernel, by decide +kernel, ⟨by decide, span_of (by decide +kernel) (by decide +kernel) (by decide +kernel)⟩,
    by unfold Clean; decide +kernel, holds_of (by decide +kernel), by decide +kernel, by decide +kernel, by decide +kernel⟩

/-- R45, R47, R48, by hand: the second entry's slot holds its word, VL 4 with ETYPE 3, and the captured 0x2000; ERET requeues both. -/
theorem test_saved_entries :
    (List.range 8).map (fun k => savedW.memNat (0x8040 + 8 * k) 8) =
      [(encVld 5 3 1).toWord.toNat, 0, 4 + 3 * 2 ^ 19, 0, 0, 0x2000, 0, 0] ∧
    savedW.hart.cfg.estart = 3 ∧ (after (exec .eret savedW)).hart.vq.map (fun e => (e.word, e.a0, e.cfg.est, e.begun)) =
      [(begunE.word, 0, 3, false), (loadE.word, 0x2000, 0, false)] := by decide +kernel

theorem witness_TrapInstruction :
    w.hart.vq = [] ∧ w.passed.hart.fetch = at' 0x1004 0x1008 0x100C false false ∧ trapped (.trap 5) w = (0x010, 5) ∧
    (after (exec .eret (after (exec (.trap 5) w)))).hart.fetch = w.passed.hart.fetch := by decide +kernel

/-- Saved registers of an interrupted sequence with an annulled word. -/
def eretW : State := withHart fun h => { h with
  trap := { h.trap with xpc := 0x1000, xna := 0x2000, xnb := 0x3000, xflags := 2, ppriv := 1, pie := 1 } }

theorem witness_EretResults :
    eretW.hart.trap.priv = 2 ∧ eretW.hart.vq = [] ∧ bitsOf eretW.hart.trap.xvq.toNat 63 58 = 0 ∧
    eretW.hart.trap.xflags.getLsbD 2 = false ∧ eretW.hart.trap.xflags.getLsbD 3 = false ∧
    fetchAfter .eret eretW = at' 0x1000 0x2000 0x3000 false true ∧ (after (exec .eret eretW)).hart.trap.priv = 1 ∧
    (after (exec .eret eretW)).hart.trap.ie = 1 ∧ trapped .eret (withHart fun h => { h with trap := { h.trap with priv := 0 } }) =
      (0x002, 0xD4000001) := by decide +kernel

theorem witness_TrapThenEret :
    w.hart.vq = [] ∧ w.hart.fetch.pc.toNat % 4 = 0 ∧ w.hart.fetch.waiting = false ∧
    (after (exec .eret (takeTrap true .strf 7 w))).hart.fetch = w.hart.fetch ∧
    (after (exec .eret (takeTrap true .strf 7 w))).hart.trap.priv = 2 := by decide +kernel

def userW : State := withHart fun h => { h with trap := { h.trap with priv := 0 } }

theorem witness_PrivilegeTraps :
    userW.hart.trap.priv ≠ 2 ∧ trapped .waiti userW = (0x002, 0xD4000003) ∧ trapped .halt userW = (0x002, 0xD4000004) ∧
    trapped (.mfs 5 0x101) userW = (0x002, ((encMfs 5 0x101).toWord.zeroExtend 64)) ∧
    trapped (.tlbinv 1 2) userW = (0x002, ((encTlbinv 1 2).toWord.zeroExtend 64)) ∧
    trapped (.vmto 1 2) userW = (0x002, ((encVmto 1 2).toWord.zeroExtend 64)) := by decide +kernel

/-- R40–R43: a register below 0x100, a privileged one, and a number that names none. -/
theorem witness_MfsResults :
    isRegister 0x010 = true ∧ isRegister 0x101 = true ∧ isRegister 0x0FF = false ∧ res 5 (.mfs 5 0x010) = 4 ∧
    res 5 (.mfs 5 0x108) = 0x4000 ∧ trapped (.mfs 5 0x0FF) w = (0x001, ((encMfs 5 0x0FF).toWord.zeroExtend 64)) := by
  decide +kernel

/-- R104: s1 = −7 is out of range for RC and PSEL, s2 = 2 is in range; VL is clamped to VLMAX. -/
theorem witness_MtsResults :
    w.hart.vq = [] ∧ w.hart.trap.priv = 2 ∧ (after (exec (.mts 2 0x010) w)).hart.cfg.vl = 2 ∧
    (after (exec (.mts 1 0x010) w)).hart.cfg.vl = 1024 ∧ (after (exec (.mts 2 0x011) w)).hart.cfg.rc = 2 ∧
    (trapped (.mts 1 0x011) w).1 = 0x001 ∧ (trapped (.mts 0 0x011) w).1 = 0x001 ∧ (trapped (.mts 1 0x013) w).1 = 0x001 ∧
    (after (exec (.mts 2 0x030) w)).hart.cfg.frm = 2 ∧ (after (exec (.mts 1 0x031) w)).hart.sys.fflags = 0x39 ∧
    (after (exec (.mts 4 0x101) w)).hart.trap.xpc = 0x2000 ∧ (trapped (.mts 2 0x000) w).1 = 0x001 := by decide +kernel

/-! ## System instructions -/

/-- q4 holds 9 values less one; q1 is full. -/
def queueW : State := withHart fun h => { h with queues := [(1, [1, 2, 3, 4, 5, 6, 7, 8]), (4, [11, 12])] }

theorem test_queues :
    sparseGet [] (after (exec (.qsend 0 1) queueW)).hart.queues 0 = [-7] ∧
    (after (exec (.qsend 1 1) queueW)).parked = true ∧ scalarVal (after (exec (.qrecv 5 4) queueW)).hart 5 = 11 ∧
    sparseGet [] (after (exec (.qrecv 5 4) queueW)).hart.queues 4 = [12] ∧ (after (exec (.qrecv 5 5) queueW)).parked = true ∧
    scalarVal (after (exec (.qstat 5 1) queueW)).hart 5 = 8 := by decide +kernel

/-- WIN takes A<7:3> and B<6:3> times 8; TLBINV by B; HALT; WAITI with and without a pending enabled interrupt. -/
theorem witness_SystemResults :
    (after (exec (.win 1 3) w)).hart.sys.swb = 0xF8 ∧ (after (exec (.win 1 1) w)).hart.cfg.vwb = 0x78 ∧
    accessesPending w = false ∧ goes (exec (.fence 3 0xF) w) w.passed = true ∧ (scalarVal w.hart 2).toNat < 3 ∧
    (after (exec .halt w)).hart.phase = .halted ∧ (after (exec .waiti w)).parked = true ∧
    goes (exec .waiti (withHart fun h => { h with trap := { h.trap with ipend := 8, imask := 0xC } }))
      (State.passed (withHart fun h => { h with trap := { h.trap with ipend := 8, imask := 0xC } })) = true ∧
    (after (exec (.tlbinv 1 2) w)).hart.fetch = w.passed.hart.fetch := by decide +kernel

theorem witness_fence_waits :
    (let s := withHart fun h => { h with vq := [entryOf w (encVadd 1 2 (.vv 3) 0).toWord 0 .none .none] };
      s.hart.vq ≠ [] ∧ goes (exec (.fence 3 0xF) s) { s with parked := true } = true) := by decide +kernel

/-! ## Vector state -/

/-- The bytes of a row that holds elements of `wd` bits. -/
def rowOf (row wd : Nat) (xs : List Nat) : Sparse Byte :=
  (xs.zipIdx.flatMap fun x => (List.range (wd / 8)).map fun b =>
    (row * 4096 + x.2 * (wd / 8) + b, BitVec.ofNat 8 (x.1 / 256 ^ b))).filter fun p => p.2 != 0

/-- v1, v3 and v5 are tiles of two rows of three INT32 elements; p0 is 101 in its low bits; s1 = −7, s2 = 2. -/
def vecW : State := withHart fun h => { h with
  cfg := { h.cfg with vl := 3, rc := 2 }
  vec := { h.vec with
    preds := [(0, 5)]
    rows := rowOf 1 32 [1, 0xFFFFFFFE, 7] ++ rowOf 2 32 [0x80000000, 5, 9] ++ rowOf 3 32 [3, 5, 0xFFFFFFFF] ++
      rowOf 4 32 [2, 33, 0] ++ rowOf 5 32 [10, 20, 30] ++ rowOf 6 32 [40, 50, 60] } }

/-- The elements of the tile v5 after an instruction. -/
def tileAfter (i : Instr) (s : State) : List Nat :=
  let t := after (exec i s)
  (List.range s.hart.cfg.count).map fun j => t.hart.vec.elW s.hart.cfg 5 s.hart.cfg.width j

/-- INT8 with ESTART 1 and MASKMODE 1: v1 = 1, 0x80, 0xFF, 5; v3 = 2, 0x7F, 9, 1. -/
def byteW : State := withHart fun h => { h with
  cfg := { h.cfg with vl := 4, etype := 0, estart := 1, maskmode := 1 }
  vec := { h.vec with
    preds := [(0, 0xA), (1, 6)]
    rows := rowOf 1 8 [1, 0x80, 0xFF, 5] ++ rowOf 3 8 [2, 0x7F, 9, 1] ++ rowOf 5 8 [10, 20, 30, 40] } }

/-- FP32: v1 = 1.5, −2, +0, quiet NaN; v3 = 0.25, 4, −0, 1. -/
def floatW : State := withHart fun h => { h with
  cfg := { h.cfg with vl := 4, etype := 5 }
  vec := { h.vec with
    preds := [(0, 7)]
    rows := rowOf 1 32 [0x3FC00000, 0xC0000000, 0, 0x7FC00000] ++ rowOf 3 32 [0x3E800000, 0x40800000, 0x80000000, 0x3F800000] ++
      rowOf 5 32 [0x3F800000, 0x40000000, 0x40400000, 0x40800000] } }

/-- FP16, rounding toward zero. -/
def halfW : State := withHart fun h => { h with
  cfg := { h.cfg with vl := 4, etype := 6, frm := 1 }
  vec := { h.vec with
    preds := [(0, 7)]
    rows := rowOf 1 16 [0x3E00, 0xC000, 0x0001, 0x7C00] ++ rowOf 3 16 [0x3555, 0x4400, 0x8000, 0x3C00] ++
      rowOf 5 16 [0x3C00, 0x4000, 0x4200, 0x4400] } }

/-- FP8: v1 holds FP32 elements for the block-scale conversions (1.5, −2, 0, NaN), v3 the FP8 codes 0x38, 0x40. -/
def blockW : State := withHart fun h => { h with
  cfg := { h.cfg with vl := 4, etype := 8 }
  vec := { h.vec with
    scales := [(256, 127), (257, 3)]
    rows := rowOf 1 32 [0x3FC00000, 0xC0000000, 0, 0x7FC00000] ++ rowOf 3 8 [0x38, 0x40] ++ rowOf 5 8 [1, 2, 3, 4] } }

/-! ## Checks that a state meets the hypotheses of the vector claims -/

/-- `count` rows from row n on are in the allotment and bound to no stream. -/
def plainRowsB (s : State) (n count : Nat) : Bool :=
  decide (n + count - 1 ≤ 127 ∧ s.hart.cfg.vwb.toNat + n + count - 1 < s.hart.sys.rowsN.toNat) &&
    (List.range count).all fun k => (streamAt s.hart.vec (s.hart.cfg.vwb.toNat + (n + k))).isNone

theorem plainRows_of {s : State} {n count : Nat} (h : plainRowsB s n count = true) : PlainRows s n count := by
  simp only [plainRowsB, Bool.and_eq_true, decide_eq_true_eq, List.all_eq_true, List.mem_range, Option.isNone_iff_eq_none] at h
  exact h

def plainB (s : State) (n : BitVec 7) : Bool := plainRowsB s n.toNat s.hart.cfg.rcN

theorem plain_of {s : State} {n : BitVec 7} (h : plainB s n = true) : PlainTile s n := plainRows_of h

def srcB (s : State) : VSrc → Bool
  | .vv n => plainB s n
  | .vs n => scalarOk s.hart n
  | .vi _ => true
  | .vl _ => true

theorem src_of {s : State} {b : VSrc} (h : srcB s b = true) : VSrcOk s b := by
  cases b with
  | vv n => exact plain_of h
  | vs n => exact h
  | vi i => trivial
  | vl l => trivial

def readyB (s : State) : Bool := decide (s.hart.vq = [] ∧ s.lag = false ∧ s.hart.task.vrel = false ∧ s.hart.vec.badRows = [] ∧
  s.hart.vec.badTiles = [] ∧ s.hart.unanswered = none)

theorem ready_of {s : State} (h : readyB s = true) : Ready s := by
  obtain ⟨h1, h2, h3, h4, h5, h6⟩ := of_decide_eq_true h
  exact ⟨h1, h2, h3, h4, h5, h6⟩

/-- The state meets TilesOk for the tiles and the second operand. -/
def tilesB (s : State) (m : BitVec 1) (l : List (BitVec 7)) (b : VSrc) : Bool :=
  readyB s && (m != 1 || decide (s.hart.cfg.vlN ≤ 1024)) && l.all (plainB s) && srcB s b &&
    decide (s.hart.cfg.vlN ≤ vlmax s.hart.cfg.et) && decide (1 ≤ s.hart.cfg.rcN)

theorem tiles_of {s : State} {m : BitVec 1} {l : List (BitVec 7)} {b : VSrc} (h : tilesB s m l b = true) : TilesOk s m l b := by
  simp only [tilesB, Bool.and_eq_true, Bool.or_eq_true, decide_eq_true_eq, List.all_eq_true, bne_iff_ne] at h
  obtain ⟨⟨⟨⟨⟨h1, h2⟩, h3⟩, h4⟩, h5⟩, h6⟩ := h
  exact ⟨ready_of h1, fun e => h2.elim (fun n => absurd e n) id, fun n hn => plain_of (h3 n hn), src_of h4, h5, h6⟩

/-! ## Vector arithmetic (R134–R141) -/

/-- Unmasked and masked, with a tile, a scalar, an immediate and a literal as b, with VL odd and RC 2; INT8 with ESTART 1 and
MASKMODE 1. -/
theorem witness_VectorIntegerResults :
    (∀ m : BitVec 1, TilesOk vecW m [1, 5] (.vv 3)) ∧ TilesOk vecW 1 [1, 5] (.vs 1) ∧ TilesOk vecW 0 [126, 5] (.vi 0x7F) ∧
    TilesOk byteW 1 [1, 5] (.vl 0x80000001) ∧ vecW.hart.cfg.et = 3 ∧ byteW.hart.cfg.et = 0 := by
  refine ⟨fun m => ?_, tiles_of (by decide +kernel), ?_, tiles_of (by decide +kernel), by decide +kernel, by decide +kernel⟩
  · rcases (show m = 0 ∨ m = 1 by bv_omega) with rfl | rfl <;> exact tiles_of (by decide +kernel)
  · exact tiles_of (by decide +kernel)

/-- Wraps, signs and shift counts taken modulo the width, row by row. -/
theorem test_vector_arith :
    [tileAfter (.vadd 5 1 (.vv 3) 0) vecW, tileAfter (.vsub 5 1 (.vv 3) 0) vecW, tileAfter (.vrsub 5 1 (.vv 3) 0) vecW,
      tileAfter (.vmul 5 1 (.vv 3) 0) vecW, tileAfter (.vmulh 5 1 (.vv 3) 0) vecW, tileAfter (.vadds 5 1 (.vv 3) 0) vecW] =
    [[4, 3, 6, 0x80000002, 0x26, 9], [0xFFFFFFFE, 0xFFFFFFF9, 8, 0x7FFFFFFE, 0xFFFFFFE4, 9],
      [2, 7, 0xFFFFFFF8, 0x80000002, 0x1C, 0xFFFFFFF7], [3, 0xFFFFFFF6, 0xFFFFFFF9, 0, 0xA5, 0],
      [0, 0xFFFFFFFF, 0xFFFFFFFF, 0xFFFFFFFF, 0, 0], [4, 3, 6, 0x80000002, 0x26, 9]] := by decide +kernel

theorem test_vector_select :
    [tileAfter (.vmin 5 1 (.vv 3) 0) vecW, tileAfter (.vmax 5 1 (.vv 3) 0) vecW, tileAfter (.vminu 5 1 (.vv 3) 0) vecW,
      tileAfter (.vmaxu 5 1 (.vv 3) 0) vecW, tileAfter (.vand 5 1 (.vv 3) 0) vecW, tileAfter (.vor 5 1 (.vv 3) 0) vecW,
      tileAfter (.vxor 5 1 (.vv 3) 0) vecW] =
    [[1, 0xFFFFFFFE, 0xFFFFFFFF, 0x80000000, 5, 0], [3, 5, 7, 2, 33, 9], [1, 5, 7, 2, 5, 0],
      [3, 0xFFFFFFFE, 0xFFFFFFFF, 0x80000000, 33, 9], [1, 4, 7, 0, 1, 0], [3, 0xFFFFFFFF, 0xFFFFFFFF, 0x80000002, 37, 9],
      [2, 0xFFFFFFFB, 0xFFFFFFF8, 0x80000002, 36, 9]] := by decide +kernel

/-- VMADD and VMSUB take d·a ± b. -/
theorem test_vector_shift :
    [tileAfter (.vsll 5 1 (.vv 3) 0) vecW, tileAfter (.vsrl 5 1 (.vv 3) 0) vecW, tileAfter (.vsra 5 1 (.vv 3) 0) vecW,
      tileAfter (.vmadd 5 1 (.vv 3) 0) vecW, tileAfter (.vmsub 5 1 (.vv 3) 0) vecW] =
    [[8, 0xFFFFFFC0, 0x80000000, 0, 10, 9], [0, 0x07FFFFFF, 0, 0x20000000, 2, 9], [0, 0xFFFFFFFF, 0, 0xE0000000, 2, 9],
      [13, 0xFFFFFFDD, 0xD1, 2, 0x11B, 0x21C], [7, 0xFFFFFFD3, 0xD3, 0xFFFFFFFE, 0xD9, 0x21C]] := by decide +kernel

/-- R130: p0 = 101 masks position 1 of each row; INT8 from ESTART 1 on with MASKMODE 1, PSEL 0 = 1010. -/
theorem test_vector_mask :
    tileAfter (.vadd 5 1 (.vi 1) 1) vecW = [2, 20, 8, 0x80000001, 50, 10] ∧
    tileAfter (.vadd 5 1 (.vv 3) 1) byteW = [10, 0xFF, 0, 6] ∧
    tileAfter (.vadds 5 1 (.vv 1) 0) byteW = [10, 0x80, 0xFE, 10] := by decide +kernel

theorem witness_VectorFloatResults :
    TilesOk floatW 0 [1, 5] (.vv 3) ∧ TilesOk floatW 1 [1, 5] (.vl 0x3F800000) ∧ TilesOk halfW 1 [1, 5] (.vs 2) ∧
    floatW.hart.cfg.et = 5 ∧ halfW.hart.cfg.et = 6 ∧ floatW.hart.cfg.frm ≠ 4 ∧ halfW.hart.cfg.frm ≠ 4 :=
  ⟨tiles_of (by decide +kernel), tiles_of (by decide +kernel), tiles_of (by decide +kernel), by decide +kernel, by decide +kernel,
    by decide +kernel, by decide +kernel⟩

/-- FP32: 1.5, −2, +0 and NaN against 0.25, 4, −0 and 1; d holds 1, 2, 3, 4. -/
theorem test_vector_float :
    [tileAfter (.vfadd 5 1 (.vv 3) 0) floatW, tileAfter (.vfsub 5 1 (.vv 3) 0) floatW, tileAfter (.vfmul 5 1 (.vv 3) 0) floatW,
      tileAfter (.vfdiv 5 1 (.vv 3) 0) floatW, tileAfter (.vfmin 5 1 (.vv 3) 0) floatW, tileAfter (.vfmax 5 1 (.vv 3) 0) floatW,
      tileAfter (.vfsgn 5 1 (.vv 3) 0) floatW] =
    [[0x3FE00000, 0x40000000, 0, 0x7FC00000], [0x3FA00000, 0xC0C00000, 0, 0x7FC00000],
      [0x3EC00000, 0xC1000000, 0x80000000, 0x7FC00000], [0x40C00000, 0xBF000000, 0x7FC00000, 0x7FC00000],
      [0x3E800000, 0xC0000000, 0x80000000, 0x3F800000], [0x3FC00000, 0x40800000, 0, 0x3F800000],
      [0x3FC00000, 0x40000000, 0x80000000, 0x7FC00000]] := by decide +kernel

/-- d·a + b with its signs; square root, reciprocals, exponential and logarithm of 0.25, 4, −0, 1. -/
theorem test_vector_fused :
    [tileAfter (.vfma 5 1 (.vv 3) 0) floatW, tileAfter (.vfms 5 1 (.vv 3) 0) floatW, tileAfter (.vfnma 5 1 (.vv 3) 0) floatW,
      tileAfter (.vfnms 5 1 (.vv 3) 0) floatW].map (fun l => l.take 2) =
    [[0x3FE00000, 0], [0x3FA00000, 0xC1000000], [0xBFE00000, 0], [0xBFA00000, 0x41000000]] ∧
    [tileAfter (.vfsqrt 5 3 0) floatW, tileAfter (.vrcp 5 3 0) floatW, tileAfter (.vrsqrt 5 3 0) floatW,
      tileAfter (.vexp2 5 3 0) floatW, tileAfter (.vlog2 5 3 0) floatW] =
    [[0x3F000000, 0x40000000, 0x80000000, 0x3F800000], [0x40800000, 0x3E800000, 0xFF800000, 0x3F800000],
      [0x40000000, 0x3F000000, 0xFF800000, 0x3F800000], [0x3F9837F0, 0x41800000, 0x3F800000, 0x40000000],
      [0xC0000000, 0x40000000, 0xFF800000, 0]] := by decide +kernel

/-- VL 4, RC 1, one predicate; ESTART 1 with MASKMODE 1. -/
theorem witness_VectorCompareResults :
    TilesOk byteW 1 [1] (.vv 3) ∧ byteW.hart.cfg.rcN = 1 ∧ byteW.hart.cfg.vlN ≤ 1024 ∧ TilesOk floatW 1 [1] (.vv 3) ∧
    floatW.hart.cfg.rcN = 1 :=
  ⟨tiles_of (by decide +kernel), by decide +kernel, by decide +kernel, tiles_of (by decide +kernel), by decide +kernel⟩

/-- Predicate 2 after a comparison. -/
def predAfter (i : Instr) (s : State) : BitVec 1024 := predOf (after (exec i s)).hart.vec 2

/-- R138: on a row of INT32 4, 5, 6, 7 with b the immediate 5 or −1; FP32 1.5, −2, 0, NaN against 0.25, 4, −0, 1
(R84: −0 ranks below +0). -/
def rampW : State := withHart fun h => { h with vec := { h.vec with rows := rowOf 1 32 [4, 5, 6, 0xFFFFFFFF] } }

theorem test_vector_compare :
    [predAfter (.vseq 2 1 (.vi 5) 0) rampW, predAfter (.vsne 2 1 (.vi 5) 0) rampW, predAfter (.vslt 2 1 (.vi 5) 0) rampW,
      predAfter (.vsge 2 1 (.vi 5) 0) rampW, predAfter (.vsltu 2 1 (.vi 5) 0) rampW, predAfter (.vsgeu 2 1 (.vi 5) 0) rampW] =
    [2, 13, 9, 6, 1, 14] ∧
    [predAfter (.vfeq 2 1 (.vv 3) 0) floatW, predAfter (.vflt 2 1 (.vv 3) 0) floatW, predAfter (.vfle 2 1 (.vv 3) 0) floatW,
      predAfter (.vfunord 2 1 (.vv 3) 0) floatW] = [4, 2, 2, 8] := by decide +kernel

/-- An idle vector unit; then one that lags, an older entry, and 32 entries. -/
theorem witness_VectorDispatch :
    VSrcOk vecW (.vv 3) ∧ scalarOk vecW.hart 1 = true ∧ vecW.hart.task.vrel = false ∧
    (let s := { vecW with lag := true }; s.hart.vq.length < 32 ∧ (after (exec (.vadd 5 1 (.vv 3) 0) s)).hart.vq.length = 1 ∧
      (after (exec (.vld 5 1 0) (after (exec (.vadd 5 1 (.vs 1) 0) s)))).hart.vq.map Entry.a0 = [0, -7] ∧
      (after (exec (.vadd 5 1 (.vs 1) 0) s)).hart.vq.map Entry.b0 = [-7]) ∧
    (let s := { vecW with hart := { vecW.hart with vq := List.replicate 32 (entryOf vecW 0 0 .none .none) } };
      goes (exec (.vadd 5 1 (.vv 3) 0) s) { s with parked := true } = true) :=
  ⟨src_of (by decide +kernel), by decide +kernel, by decide +kernel, by decide +kernel, by decide +kernel⟩

/-- The area at 0x8000 is plain memory; rows past the allotment; VL 1,025 with a mask; an element type of the wrong kind. -/
theorem witness_VectorTraps :
    Ready vecW ∧ VSrcOk vecW (.vv 3) ∧ SaveAreaOk vecW ∧ floatW.hart.cfg.et = 5 ∧
    (trapped (.vadd 5 1 (.vv 3) 0) floatW).1 = 0x001 ∧ (trapped (.vfadd 5 1 (.vv 3) 0) vecW).1 = 0x001 ∧
    trapped (.vadd 5 1 (.vv 3) 1) (withHart fun h => { h with cfg := { h.cfg with vl := 1025, etype := 0 } }) = (0x10F, 1025) ∧
    ¬RowsIn vecW 127 vecW.hart.cfg.rcN ∧ trapped (.vadd 5 127 (.vv 3) 0) vecW = (0x103, 127) := by
  refine ⟨ready_of (by decide +kernel), src_of (by decide +kernel), ?_, by decide +kernel, by decide +kernel, by decide +kernel,
    by decide +kernel, ?_, by decide +kernel⟩
  · unfold SaveAreaOk; decide +kernel
  · unfold RowsIn; decide +kernel

/-! ## Moves, predicates, reductions, conversions -/

theorem witness_VectorMoveResults :
    TilesOk vecW 1 [1, 3, 5] (.vs 2) ∧ TilesOk byteW 1 [1, 3, 5] (.vs 2) ∧ TilesOk floatW 0 [1, 3, 5] (.vs 2) ∧
    vecW.hart.cfg.et = 3 ∧ TilesOk vecW 0 [1, 3] (.vv 3) ∧ PlainRows vecW 7 (2 * vecW.hart.cfg.rcN) ∧
    PlainRows vecW 1 (2 * vecW.hart.cfg.rcN) := by
  refine ⟨tiles_of ?_, tiles_of ?_, tiles_of ?_, ?_, tiles_of ?_, plainRows_of ?_, plainRows_of ?_⟩ <;> decide +kernel

/-- R139: p0 = 101, s2 = 2; each row of three on its own. -/
theorem test_vector_moves :
    [tileAfter (.vmv 5 1 0) vecW, tileAfter (.vrev 5 1 0) vecW, tileAfter (.vslideup 5 1 2 0) vecW,
      tileAfter (.vslidedn 5 1 2 0) vecW, tileAfter (.vperm 5 1 3 0) vecW, tileAfter (.stov 5 2 1) vecW] =
    [[1, 0xFFFFFFFE, 7, 0x80000000, 5, 9], [7, 0xFFFFFFFE, 1, 9, 5, 0x80000000], [10, 20, 1, 40, 50, 0x80000000],
      [7, 0, 0, 9, 0, 0], [0, 0, 0, 9, 0, 0x80000000], [2, 20, 2, 2, 50, 2]] := by decide +kernel

theorem test_vector_pack :
    [tileAfter (.vsel 5 1 3) vecW, tileAfter (.vcompress 5 1) vecW, tileAfter (.vexpand 5 1) vecW, tileAfter (.viota 5) vecW,
      tileAfter (.vzip 5 1 3) vecW, tileAfter (.vunzip 5 1) vecW] =
    [[1, 5, 7, 0x80000000, 33, 9], [1, 7, 30, 0x80000000, 9, 60], [1, 20, 0xFFFFFFFE, 0x80000000, 50, 5], [0, 1, 1, 0, 1, 1],
      [1, 3, 0xFFFFFFFE, 5, 7, 0xFFFFFFFF], [1, 7, 5, 3, 0xFFFFFFFF, 33]] := by decide +kernel

/-- The values of q4 after an instruction. -/
def q4After (i : Instr) (s : State) : List Word := sparseGet [] (after (exec i s)).hart.queues 4

/-- Elements inside and past the tile; a predicate with and without a set bit below VL. -/
theorem witness_VectorDeliverResults :
    Ready vecW ∧ vecW.hart.cfg.et = 3 ∧ PlainTile vecW 1 ∧ scalarOk vecW.hart 2 = true ∧ vecW.hart.cfg.vlN ≤ 1024 ∧
    q4After (.vtos 1 2) vecW = [7] ∧ q4After (.vtos 1 1) vecW = [0] ∧
    q4After (.vtos 3 2) vecW = [0xFFFFFFFFFFFFFFFF] ∧
    [q4After (.ppop 0) vecW, q4After (.pfirst 0) vecW, q4After (.pany 0) vecW] = [[2], [0], [1]] ∧
    [q4After (.ppop 1) vecW, q4After (.pfirst 1) vecW, q4After (.pany 1) vecW] = [[0], [0xFFFFFFFFFFFFFFFF], [0]] := by
  refine ⟨ready_of ?_, ?_, plain_of ?_, ?_⟩ <;> decide +kernel

/-- p0 = 1010 and p1 = 0110, whatever VL and ESTART are; a row of non-zero bytes; VL 4. -/
theorem witness_PredicateResults :
    Ready byteW ∧ byteW.hart.cfg.et = 0 ∧ byteW.hart.cfg.vlN ≤ 1024 ∧ TilesOk byteW 0 [1, 5] (.vv 1) ∧
    [predAfter (.pand 2 0 1) byteW, predAfter (.por 2 0 1) byteW, predAfter (.pxor 2 0 1) byteW, predAfter (.pandn 2 0 1) byteW,
      predAfter (.pnot 2 0) byteW, predAfter (.pnone 2) byteW, predAfter (.psel 2 0 1) byteW, predAfter (.pall 2) byteW,
      predAfter (.pfromv 2 1) byteW] = [2, 14, 12, 8, ~~~10, 0, 2, 15, 15] ∧
    tileAfter (.ptov 5 1) byteW = [0, 1, 1, 0] :=
  ⟨ready_of (by decide +kernel), by decide +kernel, by decide +kernel, tiles_of (by decide +kernel), by decide +kernel,
    by decide +kernel⟩

/-- FP32: 1.5, −2, 0, 4 in v1. -/
def sumW : State := { floatW with hart := { floatW.hart with vec := { floatW.hart.vec with
  rows := rowOf 1 32 [0x3FC00000, 0xC0000000, 0, 0x40800000] } } }

/-- With the mask 101, positions 0 and 1 are one segment and position 2 another. -/
theorem witness_VectorReduceResults :
    TilesOk vecW 1 [1] (.vv 1) ∧ PlainRows vecW 5 1 ∧ TilesOk vecW 1 [1, 5] (.vv 1) ∧ Segment vecW (predOf vecW.hart.vec 0) 0 2 ∧
    Segment vecW (predOf vecW.hart.vec 0) 2 3 ∧ PlainRows sumW 5 1 ∧ 0 < vecW.hart.cfg.vlN ∧ vecW.hart.cfg.rcN ≤ vecW.hart.cfg.vlN ∧ vecW.hart.cfg.est = 0 ∧
    vecW.hart.cfg.et = 3 ∧ (sparseGet [] vecW.hart.queues 4).length + vecW.hart.cfg.rcN ≤ 8 ∧ TilesOk sumW 0 [1, 5] (.vv 1) ∧
    sumW.hart.cfg.et = 5 ∧ sumW.hart.cfg.est = 0 ∧ sumW.hart.cfg.frm ≠ 4 ∧ sumW.hart.cfg.vlN ≤ 1024 := by
  refine ⟨tiles_of ?_, plainRows_of ?_, tiles_of ?_, ⟨?_, ?_, ?_, ?_, ?_⟩, ⟨?_, ?_, ?_, ?_, ?_⟩, plainRows_of ?_, ?_, ?_, ?_, ?_, ?_,
    tiles_of ?_, ?_, ?_, ?_, ?_⟩
  all_goals first | decide +kernel | (intro i h0 h2; interval_cases i <;> first | omega | decide +kernel)

/-- R140, R141: rows of three; with the mask 101 the middle element counts as the identity. -/
theorem test_vector_reduce :
    [(tileAfter (.vredsum 5 1 0 0) vecW).take 3, (tileAfter (.vredmax 5 1 0 0) vecW).take 3,
      (tileAfter (.vredmin 5 1 0 0) vecW).take 3, (tileAfter (.vredsum 5 1 0 1) vecW).take 3] =
    [[6, 0x8000000E, 30], [7, 9, 30], [0xFFFFFFFE, 0x80000000, 30], [8, 0x80000009, 30]] ∧
    [q4After (.vredsum 0 1 1 0) vecW, q4After (.vredmax 0 1 1 0) vecW, q4After (.vredmin 0 1 1 0) vecW] =
    [[6, 0xFFFFFFFF8000000E], [7, 9], [0xFFFFFFFFFFFFFFFE, 0xFFFFFFFF80000000]] ∧
    tileAfter (.vscan 5 1 0) vecW = [1, 0xFFFFFFFF, 6, 0x80000000, 0x80000005, 0x8000000E] ∧
    tileAfter (.vsegsum 5 1 0 0) vecW = [0xFFFFFFFF, 0xFFFFFFFF, 7, 0x80000005, 0x80000005, 9] ∧
    tileAfter (.vsegmax 5 1 0 0) vecW = [1, 1, 7, 5, 5, 9] := by decide +kernel

theorem test_vector_reduce_float :
    [(tileAfter (.vfredsum 5 1 0 0) sumW).take 1, (tileAfter (.vfredmax 5 1 0 0) sumW).take 1,
      (tileAfter (.vfredmin 5 1 0 0) sumW).take 1, tileAfter (.vfscan 5 1 0) sumW] =
    [[0x40600000], [0x40800000], [0xC0000000], [0x3FC00000, 0xBF000000, 0xBF000000, 0x40600000]] := by decide +kernel

/-- The elements of v5 read at another width. -/
def tileWide (wd : Nat) (i : Instr) (s : State) : List Nat :=
  (List.range s.hart.cfg.count).map fun j => (after (exec i s)).hart.vec.elW s.hart.cfg 5 wd j

theorem witness_BlockScales : ∀ x ∈ [0x3F800000, 0], x < 2 ^ 32 := by decide

theorem witness_VectorConvertResults :
    TilesOk vecW 1 [1, 5] (.vv 1) ∧ vecW.hart.cfg.et = 3 ∧ vecW.hart.cfg.vlN ≤ 32768 / widthOf 0 ∧ vecW.hart.cfg.frm ≠ 4 ∧
    TilesOk byteW 0 [1, 5] (.vv 1) ∧ byteW.hart.cfg.width ≠ 32 ∧
    TilesOk blockW 0 [1, 5] (.vv 1) ∧ blockW.hart.cfg.et = 8 ∧ blockW.hart.cfg.vlN ≤ 1024 ∧
    blockW.hart.cfg.rcN * ((blockW.hart.cfg.vlN + 31) / 32) ≤ 256 :=
  ⟨tiles_of (by decide +kernel), by decide +kernel, by decide +kernel, by decide +kernel, tiles_of (by decide +kernel),
    by decide +kernel, tiles_of (by decide +kernel), by decide +kernel, by decide +kernel, by decide +kernel⟩

/-- R142, R146: INT32 to INT8 modulo 2^8 and clamped, to FP32; packing; sign extension from ESTART on. -/
theorem test_vector_convert :
    tileWide 8 (.vcvt 5 1 0 0 0) vecW = [1, 0xFE, 7, 0, 5, 9] ∧ tileWide 8 (.vcvt 5 1 0 1 0) vecW = [1, 0xFE, 7, 0x80, 5, 9] ∧
    tileWide 32 (.vcvt 5 1 5 0 0) vecW = [0x3F800000, 0xC0000000, 0x40E00000, 0xCF000000, 0x40A00000, 0x41100000] ∧
    tileWide 16 (.vpack 5 1 0) vecW = [1, 0xFFFE, 7, 0, 5, 9] ∧
    tileWide 16 (.vunpk 5 1 1 0) byteW = [0x140A, 0xFF80, 0xFFFF, 5] := by decide +kernel

/-- R147: 16-bit entries of scale register 1; entry 0 is 127, entry 1 is 3. -/
theorem test_scale_moves :
    (tileWide 16 (.xtov 5 1) blockW).take 3 = [127, 3, 0] ∧
    ((List.range 4).map fun k => (scaleAt (after (exec (.vtox 2 1) blockW)).hart.vec 2 k).toNat) = [0, 0x3FC0, 0, 0xC000] := by
  decide +kernel

/-! ## Vector loads and stores -/

/-- A scratchpad access is allowed, and names a core and an offset. -/
def padOk (q : State) (v : Word) (z : Nat) (p : Nat × Nat) : Bool := decide (v.toNat % z = 0) && answers (spCheck v z true) q p

theorem pad_of {q : State} {v : Word} {z : Nat} {p : Nat × Nat} (h : padOk q v z p = true) : SpWrite q v z p := by
  simp only [padOk, Bool.and_eq_true, decide_eq_true_eq] at h
  exact ⟨h.1, answers_eq h.2⟩

/-- The access of an agent is aligned and reaches the address that it names. -/
def memOk (k : Access) (g : Agent) (q : State) (v : Word) (z : Nat) : Bool :=
  decide (v.toNat % z = 0) && reaches k g q v z v.toNat

/-- Elements 0, …, n−1 that are active. -/
def actives (n : Nat) (act : Nat → Bool) (ok : Nat → Bool) : Bool := (List.range n).all fun j => !act j || ok j

theorem actives_of {n : Nat} {act ok : Nat → Bool} (h : actives n act ok = true) (j : Nat) (hj : j < n) (ha : act j = true) :
    ok j = true := by
  have := List.all_eq_true.mp h j (List.mem_range.mpr hj)
  simpa [ha] using this

theorem memRead_of {g : Agent} {q : State} {v : Word} {z : Nat} (hq : q.poison = []) (h : memOk .load g q v z = true) :
    MemRead q g v z v.toNat := by
  simp only [memOk, Bool.and_eq_true, decide_eq_true_eq] at h
  exact ⟨h.1, reaches_eq h.2, by simp [Clean, hq]⟩

theorem memWrite_of {g : Agent} {q : State} {v : Word} {z : Nat} (h : memOk .store g q v z = true) :
    MemWrite q g v z v.toNat := by
  simp only [memOk, Bool.and_eq_true, decide_eq_true_eq] at h
  exact ⟨h.1, reaches_eq h.2⟩

theorem unlocked_of {q : State} (h : q.myCore.locks = []) : Unlocked q := by simp [Unlocked, h]

/-- v1 holds indexes 1, 0, 3, v5 the stored elements; memory at 0x2000 and the own scratchpad from offset 0x10 hold bytes 1, 2, …;
s3 = 0x2000, s6 = 8, s7 = the own scratchpad's offset 0x10; the mask is 101. -/
def loadW : State :=
  let s := withHart fun h => { h with
    sregs := [(3, 0x2000), (6, 8), (7, 0x800010)]
    cfg := { h.cfg with vl := 3 }
    vec := { h.vec with preds := [(0, 5)], rows := rowOf 1 32 [1, 0, 3] ++ rowOf 5 32 [0xA0A1A2A3, 0xB0, 0xC0C1] } };
  (s.putNat 0x2000 24 0x18171615141312111009080706050403020100).putSp 0 0x10 16 0x1F1E1D1C1B1A19181716151413121110

def loadAt (z : Nat) (j : Nat) : Word := 0x2000 + BitVec.ofNat 64 (z * j)
def loadQ (i : RWord) (cb : Cap) : State := loadW.queued (entryOf loadW i.toWord 0 (.scalar 3) cb)

/-- Each clause: consecutive, strided and indexed elements, in memory and in the scratchpad, under a mask; an index tile that
overlaps the destination. -/
theorem witness_VectorLoadResults :
    TilesOk loadW 1 [5] (.vs 3) ∧ scalarOk loadW.hart 6 = true ∧ PlainTile loadW 1 ∧ loadW.hart.cfg.et = 3 ∧
    Unlocked (loadQ (encVld 5 3 1) .none) ∧
    (∀ j, j < 3 → activeAt loadW 1 j = true → MemRead (loadQ (encVld 5 3 1) .none) .vmem (loadAt 4 j) 4 (loadAt 4 j).toNat) ∧
    (∀ j, j < 3 → activeAt loadW 1 j = true →
      MemRead (loadQ (encVlds 5 3 6 1) (.scalar 6)) .vmem (loadAt 8 j) 4 (loadAt 8 j).toNat) ∧
    (∀ j, j < 3 → activeAt loadW 1 j = true → MemRead (loadQ (encVldx 5 3 1 1) .none) .other
      (0x2000 + BitVec.ofNat 64 (4 * elemOf loadW 1 32 j)) 4 (0x2000 + BitVec.ofNat 64 (4 * elemOf loadW 1 32 j)).toNat) ∧
    (∀ j, j < 3 → activeAt loadW 1 j = true → SpWrite (loadQ (encVldp 5 7 1) .none)
      (0x800010 + BitVec.ofNat 64 (4 * j)) 4 (0, 0x10 + 4 * j)) ∧
    SaveAreaOk loadW ∧ trapped (.vldx 5 3 5 1) loadW = (0x10F, 5) := by
  refine ⟨tiles_of (by decide +kernel), by decide +kernel, plain_of (by decide +kernel), by decide +kernel,
    unlocked_of (by decide +kernel), fun j hj ha => memRead_of (by decide +kernel) ?_,
    fun j hj ha => memRead_of (by decide +kernel) ?_, fun j hj ha => memRead_of (by decide +kernel) ?_,
    fun j hj ha => pad_of ?_, by unfold SaveAreaOk; decide +kernel, by decide +kernel⟩
  · exact actives_of (ok := fun j => memOk .load .vmem (loadQ (encVld 5 3 1) .none) (loadAt 4 j) 4) (by decide +kernel) j hj ha
  · exact actives_of (ok := fun j => memOk .load .vmem (loadQ (encVlds 5 3 6 1) (.scalar 6)) (loadAt 8 j) 4)
      (by decide +kernel) j hj ha
  · exact actives_of (ok := fun j => memOk .load .other (loadQ (encVldx 5 3 1 1) .none)
      (0x2000 + BitVec.ofNat 64 (4 * elemOf loadW 1 32 j)) 4) (by decide +kernel) j hj ha
  · exact actives_of (ok := fun j => padOk (loadQ (encVldp 5 7 1) .none) (0x800010 + BitVec.ofNat 64 (4 * j)) 4 (0, 0x10 + 4 * j))
      (by decide +kernel) j hj ha

/-- R149–R152, by hand: elements at 0, 4, 8; at 0, 8, 16; at indexes 1, 0, 3; in the scratchpad; under the mask. -/
theorem test_vector_loads :
    [tileAfter (.vld 5 3 0) loadW, tileAfter (.vlds 5 3 6 0) loadW, tileAfter (.vldx 5 3 1 0) loadW, tileAfter (.vldp 5 7 0) loadW,
      tileAfter (.vldpx 5 7 1 0) loadW, tileAfter (.vld 5 3 1) loadW] =
    [[0x03020100, 0x07060504, 0x11100908], [0x03020100, 0x11100908, 0x00181716], [0x07060504, 0x03020100, 0x15141312],
      [0x13121110, 0x17161514, 0x1B1A1918], [0x17161514, 0x13121110, 0x1F1E1D1C], [0x03020100, 0xB0, 0x11100908]] := by decide +kernel

theorem witness_VectorStoreResults :
    TilesOk loadW 1 [5] (.vs 3) ∧ scalarOk loadW.hart 6 = true ∧ PlainTile loadW 1 ∧
    Unlocked (loadQ (encVst 5 3 1) .none) ∧
    (∀ j, j < 3 → activeAt loadW 1 j = true → MemWrite (loadQ (encVst 5 3 1) .none) .vmem (loadAt 4 j) 4 (loadAt 4 j).toNat) ∧
    (∀ j, j < 3 → activeAt loadW 1 j = true → MemWrite (loadQ (encVstx 5 3 1 1) .none) .other
      (0x2000 + BitVec.ofNat 64 (4 * elemOf loadW 1 32 j)) 4 (0x2000 + BitVec.ofNat 64 (4 * elemOf loadW 1 32 j)).toNat) ∧
    (∀ j, j < 3 → activeAt loadW 1 j = true → SpWrite (loadQ (encVstp 5 7 1) .none)
      (0x800010 + BitVec.ofNat 64 (4 * j)) 4 (0, 0x10 + 4 * j)) := by
  refine ⟨tiles_of (by decide +kernel), by decide +kernel, plain_of (by decide +kernel),
    unlocked_of (by decide +kernel), fun j hj ha => memWrite_of ?_, fun j hj ha => memWrite_of ?_, fun j hj ha => pad_of ?_⟩
  · exact actives_of (ok := fun j => memOk .store .vmem (loadQ (encVst 5 3 1) .none) (loadAt 4 j) 4) (by decide +kernel) j hj ha
  · exact actives_of (ok := fun j => memOk .store .other (loadQ (encVstx 5 3 1 1) .none)
      (0x2000 + BitVec.ofNat 64 (4 * elemOf loadW 1 32 j)) 4) (by decide +kernel) j hj ha
  · exact actives_of (ok := fun j => padOk (loadQ (encVstp 5 7 1) .none) (0x800010 + BitVec.ofNat 64 (4 * j)) 4 (0, 0x10 + 4 * j))
      (by decide +kernel) j hj ha

/-- loadW with another stride: 6 takes element 1 off its alignment, 2^52 out of the physical addresses; s8 names no scratchpad. -/
def strideW (b : Nat) : State :=
  { loadW with hart := { loadW.hart with sregs := [(3, 0x2000), (6, BitVec.ofNat 64 b), (7, 0x800012), (8, 0xFFFFFC)] } }
def strideQ (b : Nat) (i : RWord) : State := (strideW b).queued (entryOf (strideW b) i.toWord 0 (.scalar 3) (.scalar 6))
def padQ (n : Nat) (i : RWord) : State := (strideW 0).queued (entryOf (strideW 0) i.toWord 0 (.scalar n) .none)

theorem witness_VectorFaults :
    TilesOk (strideW 6) 0 [5] (.vs 3) ∧ TilesOk (strideW (2 ^ 52)) 0 [5] (.vs 3) ∧ TilesOk (strideW 0) 0 [5] (.vs 7) ∧
    SaveAreaOk (strideW 6) ∧ SaveAreaOk (strideW (2 ^ 52)) ∧ activeAt (strideW 6) 0 1 = true ∧ (strideW 6).hart.cfg.count = 3 ∧
    Unlocked (strideQ 6 (encVlds 5 3 6 0)) ∧ MemRead (strideQ 6 (encVlds 5 3 6 0)) .vmem 0x2000 4 (0x2000 : Word).toNat ∧
    MemWrite (strideQ 6 (encVsts 5 3 6 0)) .vmem 0x2000 4 (0x2000 : Word).toNat ∧
    ElementFaults .load .vmem (strideQ 6 (encVlds 5 3 6 0)) 0x2006 4 .align 0x2006 ∧
    ElementFaults .load .vmem (strideQ (2 ^ 52) (encVlds 5 3 6 0)) (0x2000 + 2 ^ 52) 4 .xlate (0x2000 + 2 ^ 52) ∧
    ElementFaults .store .vmem (strideQ (2 ^ 52) (encVsts 5 3 6 0)) (0x2000 + 2 ^ 52) 4 .xlate (0x2000 + 2 ^ 52) ∧
    PadFaults (padQ 7 (encVldp 5 7 0)) 0x800012 4 .align 0x800012 ∧ PadFaults (padQ 8 (encVstp 5 8 0)) 0xFFFFFC 4 .prot 0xFFFFFC := by
  refine ⟨tiles_of (by decide +kernel), tiles_of (by decide +kernel), tiles_of (by decide +kernel), by unfold SaveAreaOk; decide +kernel,
    by unfold SaveAreaOk; decide +kernel, by decide +kernel, by decide +kernel, unlocked_of (by decide +kernel),
    memRead_of (by decide +kernel) (by decide +kernel), memWrite_of (by decide +kernel), ⟨rfl, .inl ⟨by decide, rfl⟩⟩,
    ⟨rfl, .inr ⟨by decide, traps_eq ?_⟩⟩, ⟨rfl, .inr ⟨by decide, traps_eq ?_⟩⟩, .inl ⟨by decide, rfl, rfl⟩,
    .inr ⟨by decide, traps_eq ?_⟩⟩ <;> decide +kernel

/-- R149, R150, by hand: element 0 is loaded or stored, element 1 faults; the saved entry has ESTART 1. -/
theorem test_vector_faults :
    tileAfter (.vlds 5 3 6 0) (strideW 6) = [0x03020100, 0xB0, 0xC0C1] ∧ trapped (.vlds 5 3 6 0) (strideW 6) = (0x104, 0x2006) ∧
    (after (exec (.vlds 5 3 6 0) (strideW 6))).hart.cfg.estart = 1 ∧
    (let t := after (exec (.vsts 5 3 6 0) (strideW (2 ^ 52)))
     (t.memNat 0x2000 4, t.memNat 0x2004 4, t.memNat 0x8010 8, savedCount t) = (0xA0A1A2A3, 0x07060504, 3 + 3 * 2 ^ 19 + 2 ^ 39, 1)) ∧
    trapped (.vsts 5 3 6 0) (strideW (2 ^ 52)) = (0x105, 0x2000 + 2 ^ 52) := by decide +kernel

/-- Words 0 to 4 of memory at 0x2000, and of the scratchpad at 0x10, after an instruction. -/
def wordsAfter (i : Instr) (s : State) : List Nat := (List.range 5).map fun k => (after (exec i s)).memNat (0x2000 + 4 * k) 4
def padAfter (i : Instr) (s : State) : List Nat := (List.range 4).map fun k => (after (exec i s)).spNat 0 (0x10 + 4 * k) 4

theorem test_vector_stores :
    [wordsAfter (.vst 5 3 1) loadW, wordsAfter (.vsts 5 3 6 0) loadW, wordsAfter (.vstx 5 3 1 0) loadW] =
    [[0xA0A1A2A3, 0x07060504, 0xC0C1, 0x15141312, 0x181716], [0xA0A1A2A3, 0x07060504, 0xB0, 0x15141312, 0xC0C1],
      [0xB0, 0xA0A1A2A3, 0x11100908, 0xC0C1, 0x181716]] ∧
    [padAfter (.vstp 5 7 0) loadW, padAfter (.vstpx 5 7 1 0) loadW] =
    [[0xA0A1A2A3, 0xB0, 0xC0C1, 0x1F1E1D1C], [0xB0, 0xA0A1A2A3, 0x1B1A1918, 0xC0C1]] := by decide +kernel

/-- A rank-1 record in row 9: base, type INT32, two elements eight bytes apart, padded with 77. -/
def recordW (base : Nat) : State := { loadW with hart := { loadW.hart with vec := { loadW.hart.vec with
  rows := loadW.hart.vec.rows ++ rowOf 9 32 [base, 0, 0x13, 2, 1, 1, 1, 2, 0, 0, 0, 0x100, 77] } } }

def recordQ (base : Nat) (i : RWord) : State := (recordW base).queued (entryOf (recordW base) i.toWord 0 .none .none)
def recordAt (base j : Nat) : Word := recAddr (rowRecordOf (recordW base) 9) j

/-- The record names memory, then the scratchpad; PLD and PST move 128 bytes at 0x2000. -/
theorem witness_TensorAccessResults :
    TilesOk (recordW 0x2000) 1 [5] (.vv 5) ∧ (recordW 0x2000).hart.cfg.et = 3 ∧ RowsIn (recordW 0x2000) 9 1 ∧
    Unbound (recordW 0x2000) 9 ∧ recBad (some 3) (rowRecordOf (recordW 0x2000) 9) = none ∧
    recScratch (rowRecordOf (recordW 0x2000) 9) = false ∧ recScratch (rowRecordOf (recordW 0x800010) 9) = false ∧
    Unlocked (recordQ 0x2000 (encVldt 5 9 0)) ∧ Unlocked (recordQ 0x2000 (encVstt 5 9 0)) ∧
    (∀ j, j < 2 → true = true → MemRead (recordQ 0x2000 (encVldt 5 9 0)) .other (recordAt 0x2000 j) 4 (recordAt 0x2000 j).toNat) ∧
    (∀ j, j < 2 → true = true → MemWrite (recordQ 0x2000 (encVstt 5 9 0)) .other (recordAt 0x2000 j) 4 (recordAt 0x2000 j).toNat) ∧
    MemRead (loadW.queued (entryOf loadW (encPld 2 3).toWord 0 (.scalar 3) .none)) .other 0x2000 128 0x2000 ∧
    MemWrite (loadW.queued (entryOf loadW (encPst 0 3).toWord 0 (.scalar 3) .none)) .other 0x2000 128 0x2000 := by
  refine ⟨tiles_of (by decide +kernel), by decide +kernel, by unfold RowsIn; decide +kernel, by unfold Unbound; decide +kernel,
    by decide +kernel, by decide +kernel, by decide +kernel, unlocked_of (by decide +kernel), unlocked_of (by decide +kernel),
    fun j hj ha => memRead_of (by decide +kernel) ?_, fun j hj ha => memWrite_of ?_,
    memRead_of (by decide +kernel) (by decide +kernel), memWrite_of (by decide +kernel)⟩
  · exact actives_of (act := fun _ => true)
      (ok := fun j => memOk .load .other (recordQ 0x2000 (encVldt 5 9 0)) (recordAt 0x2000 j) 4) (by decide +kernel) j hj ha
  · exact actives_of (act := fun _ => true)
      (ok := fun j => memOk .store .other (recordQ 0x2000 (encVstt 5 9 0)) (recordAt 0x2000 j) 4) (by decide +kernel) j hj ha

/-- R153: elements at 0x2000 and 0x2008, the third is the pad. -/
theorem test_tensor_access :
    tileAfter (.vldt 5 9 0) (recordW 0x2000) = [0x03020100, 0x11100908, 77] ∧
    wordsAfter (.vstt 5 9 0) (recordW 0x2000) = [0xA0A1A2A3, 0x07060504, 0xB0, 0x15141312, 0x181716] ∧
    (predAfter (.pld 2 3) loadW).toNat % 2 ^ 32 = 0x03020100 ∧
    wordsAfter (.pst 0 3) loadW = [5, 0, 0, 0, 0] := by decide +kernel

/-- R133, R121, R35: VL is min(s2, VLMAX); q3 holds 6 and 7; a binding is dropped. -/
def controlW : State := withHart fun h => { h with queues := [(3, [6, 7])], sys := { h.sys with lanePref := 8, laneMin := 8 } }

theorem witness_VectorControlResults :
    Ready controlW ∧ scalarOk controlW.hart 2 = true ∧ TilesOk controlW 0 [5] (.vv 5) ∧ controlW.hart.cfg.et = 3 ∧
    sparseGet [] controlW.hart.queues 3 = [6, 7] ∧ controlW.hart.vec.streams = [] ∧ controlW.hart.sys.lanePref.toNat ≤ lanes controlW.hart.sys.laneMap ∧
    lanes controlW.hart.sys.laneMap ≤ controlW.hart.sys.laneMin.toNat ∧
    (let c := (after (exec (.vcfg 63 2 1 0) controlW)).hart; (c.cfg.vl, c.cfg.rc, c.cfg.etype, scalarVal c 63) = (2, 2, 0, 2)) ∧
    tileAfter (.vqrecv 5 3) controlW = [6, 6, 6, 6] ∧ sparseGet [] (after (exec (.vqrecv 5 3) controlW)).hart.queues 3 = [7] := by
  and_intros
  all_goals first | decide +kernel | exact ready_of (by decide +kernel) | exact tiles_of (by decide +kernel)

/-! ## Ordered data (R157–R179) -/

def rowsB (s : State) (n count : Nat) : Bool :=
  decide (n + count - 1 ≤ 127 ∧ s.hart.cfg.vwb.toNat + n + count - 1 < s.hart.sys.rowsN.toNat)
theorem rows_of {s : State} {n count : Nat} (h : rowsB s n count = true) : RowsIn s n count := by
  unfold RowsIn; exact of_decide_eq_true h

def freeB (s : State) (n : Nat) : Bool := (streamAt s.hart.vec (s.hart.cfg.vwb.toNat + n)).isNone
theorem free_of {s : State} {n : Nat} (h : freeB s n = true) : Unbound s n := Option.isNone_iff_eq_none.mp h

/-- A valid sorted operand: its rows, their order words, the key type, the payload rows. -/
def sortedB (s : State) (n : BitVec 7) (rows : Nat) : Bool :=
  rowsB s n.toNat rows && (List.range rows).all (fun t => (rowFault s.hart.vec (s.hart.cfg.vwb.toNat + n.toNat) t).isNone) &&
    owKt (firstWord s n) == ktOf s.hart.cfg.et && (owPk (firstWord s n) == 0 || rowsB s (n.toNat + rows) rows)

theorem sorted_of {s : State} {n : BitVec 7} {rows : Nat} (h : sortedB s n rows = true) : SortedOk s n rows := by
  simp only [sortedB, Bool.and_eq_true, List.all_eq_true, List.mem_range, Bool.or_eq_true, beq_iff_eq,
    Option.isNone_iff_eq_none] at h
  exact ⟨⟨rows_of h.1.1.1, fun t ht => h.1.1.2 t ht, h.1.2⟩, fun hp => h.2.elim (fun e => absurd e hp) rows_of⟩

/-- Rows of two INT32 elements. v1–v2 are 7, −2, 7, 1 with payload 100–103 after them; v11–v12 the run 1, 3, 3, 7 and v21–v22 the
run 3, 5, 7, 7; `pk` says whether their payload rows count. p0 is 01. -/
def orderW (pk : Nat) : State := withHart fun h => { h with
  cfg := { h.cfg with vl := 2, rc := 2 }
  vec := { h.vec with
    preds := [(0, 1)]
    order := [(11, orderWord false (ktOf 3) pk false 2), (12, orderWord false (ktOf 3) pk true 2),
      (21, orderWord false (ktOf 3) pk false 2), (22, orderWord false (ktOf 3) pk true 2)]
    rows := rowOf 1 32 [7, 0xFFFFFFFE] ++ rowOf 2 32 [7, 1] ++ rowOf 3 32 [100, 101] ++ rowOf 4 32 [102, 103] ++
      rowOf 11 32 [1, 3] ++ rowOf 12 32 [3, 7] ++ rowOf 13 32 [50, 51] ++ rowOf 14 32 [52, 53] ++
      rowOf 21 32 [3, 5] ++ rowOf 22 32 [7, 7] ++ rowOf 23 32 [60, 61] ++ rowOf 24 32 [62, 63] } }

/-- Elements of `count` rows from row n on after an instruction. -/
def flatAfter (n count : Nat) (i : Instr) (s : State) : List Nat :=
  let t := after (exec i s)
  (List.range (count * s.hart.cfg.vlN)).map fun j =>
    tileElem t.hart.vec s.hart.cfg.vwb.toNat n (j / s.hart.cfg.vlN) (j % s.hart.cfg.vlN) s.hart.cfg.width

/-- Without payload and with the rows after each run as payload. -/
theorem witness_RunResults :
    Ready (orderW 0) ∧ isKeyType (orderW 0).hart.cfg.et = true ∧ 0 < (orderW 0).hart.cfg.vlN ∧ 1 ≤ (orderW 0).hart.cfg.rcN ∧
    (orderW 0).hart.cfg.vlN ≤ vlmax (orderW 0).hart.cfg.et ∧ SortedOk (orderW 0) 11 2 ∧ SortedOk (orderW 0) 21 2 ∧
    PlainRows (orderW 0) 31 2 ∧ PlainRows (orderW 0) 31 4 ∧ PlainRows (orderW 0) 33 2 ∧ (orderW 0).hart.cfg.count = 4 ∧
    runKeys (orderW 0) 11 2 = [1, 3, 3, 7] ∧ runKeys (orderW 0) 21 2 = [3, 5, 7, 7] ∧
    owDir (firstWord (orderW 0) 11) = owDir (firstWord (orderW 0) 21) ∧
    SortedOk (orderW 1) 11 2 ∧ SortedOk (orderW 1) 21 2 ∧ owPk (firstWord (orderW 1) 11) = owPk (firstWord (orderW 1) 21) ∧
    owPk (firstWord (orderW 1) 11) = 1 ∧ PlainRows (orderW 1) 13 2 ∧ PlainRows (orderW 1) 23 2 ∧ PlainRows (orderW 1) 33 2 ∧
    PlainRows (orderW 1) 35 4 := by
  refine ⟨ready_of ?_, ?_, ?_, ?_, ?_, sorted_of ?_, sorted_of ?_, plainRows_of ?_, plainRows_of ?_, plainRows_of ?_, ?_, ?_, ?_,
    ?_, sorted_of ?_, sorted_of ?_, ?_, ?_, plainRows_of ?_, plainRows_of ?_, plainRows_of ?_, plainRows_of ?_⟩ <;> decide +kernel

/-- R169–R171, R161: the merge, the common keys, the difference; one key of each group, and the sizes of the groups. -/
theorem test_runs :
    flatAfter 31 4 (.vmerge 31 11 21) (orderW 0) = [1, 3, 3, 3, 5, 7, 7, 7] ∧
    (flatAfter 31 2 (.vinter 31 11 21) (orderW 0)).take 2 = [3, 7] ∧ (flatAfter 31 2 (.vdiff 31 11 21) (orderW 0)).take 2 = [1, 3] ∧
    (flatAfter 31 2 (.vuniq 31 11) (orderW 0)).take 3 = [1, 3, 7] ∧
    (flatAfter 33 2 (.vuniqc 31 11) (orderW 0)).take 3 = [1, 2, 1] ∧
    flatAfter 35 4 (.vmerge 31 11 21) (orderW 1) = [50, 51, 52, 60, 61, 53, 62, 63] := by decide +kernel

/-- No payload, the rows after a as payload, the positions; one run, and one run per row; ranks of probes and a partition. -/
theorem witness_SortResults :
    TilesOk (orderW 0) 1 [1, 41] (.vs 2) ∧ PlainRows (orderW 0) 3 2 ∧ PlainRows (orderW 0) 43 2 ∧
    MaskOk (orderW 0) 1 ∧ PlainTile (orderW 0) 41 ∧ PlainTile (orderW 0) 1 ∧ SortedOk (orderW 0) 11 2 ∧ SortedOk (orderW 0) 11 1 ∧
    PlainRows (orderW 0) 41 4 := by
  refine ⟨tiles_of ?_, plainRows_of ?_, plainRows_of ?_, fun _ => ?_, plain_of ?_, plain_of ?_, sorted_of ?_, sorted_of ?_,
    plainRows_of ?_⟩ <;> decide +kernel

/-- R167, R174: 7, −2, 7, 1 ascending and descending, stably; row by row; the first two keys and their positions. -/
theorem test_sorts :
    flatAfter 41 4 (.vsort 41 1 1 0 0 0) (orderW 0) = [0xFFFFFFFE, 1, 7, 7, 101, 103, 100, 102] ∧
    flatAfter 41 4 (.vsort 41 1 2 0 1 0) (orderW 0) = [7, 7, 1, 0xFFFFFFFE, 0, 2, 3, 1] ∧
    flatAfter 41 2 (.vsort 41 1 0 1 0 0) (orderW 0) = [0xFFFFFFFE, 7, 1, 7] ∧
    (flatAfter 41 4 (.vtopk 41 1 2 0) (orderW 0)).take 2 = [7, 7] ∧ ((flatAfter 43 4 (.vtopk 41 1 2 0) (orderW 0)).take 2) = [0, 2] :=
  by decide +kernel

/-- R172, R173: 7, −2, 7, 1 against 1, 3, 3, 7; buckets by the splitters 1, 3. -/
theorem test_ranks :
    flatAfter 41 2 (.vrank 41 11 1 0) (orderW 0) = [3, 0, 3, 0] ∧ flatAfter 41 2 (.vranku 41 11 1 0) (orderW 0) = [4, 0, 4, 1] ∧
    flatAfter 41 4 (.vpart 41 1 11 0) (orderW 0) = [0xFFFFFFFE, 1, 7, 7, 0, 1, 2, 2] := by decide +kernel

/-- A tile in order (1, 3, 3, 7) and one that is not (7, −2, 7, 1); an order word to write. -/
def tagW : State := { orderW 0 with hart := { (orderW 0).hart with sregs := [(1, (orderWord false (ktOf 3) 0 false 2).zeroExtend 64)] } }

theorem witness_OrderWordResults :
    Ready tagW ∧ PlainTile tagW 11 ∧ PlainTile tagW 1 ∧ RowsIn tagW 13 2 ∧
    isKeyType tagW.hart.cfg.et = true ∧ RowsIn tagW 11 2 ∧ tagW.hart.cfg.est < tagW.hart.cfg.rcN ∧ RowsIn tagW 1 1 ∧
    Unbound tagW 1 ∧ scalarOk tagW.hart 1 = true ∧ orderLegal (scalarVal tagW.hart 1) = true ∧
    q4After (.vchko 11 0 0) tagW = [0xFFFFFFFFFFFFFFFF] ∧ q4After (.vchko 1 0 0) tagW = [1] ∧
    orderOf (after (exec (.vchko 1 0 0) { tagW with hart := { tagW.hart with vec := { tagW.hart.vec with order := [(1, 5)] } } })).hart.vec 1 = 0 ∧
    q4After (.vmot 11) tagW = [(orderWord false (ktOf 3) 0 false 2).zeroExtend 64, (orderWord false (ktOf 3) 0 true 2).zeroExtend 64] ∧
    orderOf (after (exec (.vmto 1 1) tagW)).hart.vec 1 = orderWord false (ktOf 3) 0 false 2 :=
  ⟨ready_of (by decide +kernel), plain_of (by decide +kernel), plain_of (by decide +kernel), rows_of (by decide +kernel),
    by decide +kernel, rows_of (by decide +kernel), by decide +kernel, rows_of (by decide +kernel), free_of (by decide +kernel),
    by and_intros <;> decide +kernel⟩

/-- Two sorted inputs of six and three elements, at positions 1 and 0, and an output that has two. -/
def recordOf (base n : Nat) : List (BitVec 32) := [base, 0, 0x13, n, 1, 1, 1, 1, 0, 0, 0, 1, 0, 0, 0, 0].map (BitVec.ofNat 32)
def inA : Stream := ⟨1, recordOf 0x2000 6, false, 1, some 1, [2, 5, 5, 9], none, false⟩
def inB : Stream := ⟨3, recordOf 0x3000 3, false, 0, none, [3, 5, 6], none, false⟩
def outD : Stream := ⟨7, recordOf 0x4000 20, true, 2, some 1, [0, 1], none, false⟩
def mergeW : State := withHart fun h => { h with
  cfg := { h.cfg with vl := 4, rc := 2 }, vec := { h.vec with streams := [(0, some inA), (1, some inB), (2, some outD)] } }

theorem witness_StreamMergeResults :
    Ready mergeW ∧ streamAt mergeW.hart.vec 1 = some (0, inA) ∧ streamAt mergeW.hart.vec 3 = some (1, inB) ∧
    streamAt mergeW.hart.vec 7 = some (2, outD) ∧ recSorted inA.record = true ∧ recSorted inB.record = true ∧
    recKt inA.record = ktOf mergeW.hart.cfg.et ∧ recDesc inA.record = recDesc inB.record ∧ recType inA.record = mergeW.hart.cfg.et ∧
    RowsIn mergeW 1 2 ∧ RowsIn mergeW 3 2 ∧ RowsIn mergeW 7 2 ∧ recType outD.record = mergeW.hart.cfg.et ∧
    outD.pos + 4 ≤ recN outD.record ∧ outD.buffer.length + 4 ≤ streamRoom mergeW.myCore outD ∧ Nat.min mergeW.hart.cfg.vlN (recN inA.record - inA.pos) ≤ inA.buffer.length ∧
    Nat.min mergeW.hart.cfg.vlN (recN inB.record - inB.pos) ≤ inB.buffer.length ∧
    ((inA.lastKey.toList ++ inA.buffer).map BitVec.toNat).Pairwise (fun x y => prec (ktOf 3) false y x = false) ∧
    ((inB.lastKey.toList ++ inB.buffer).map BitVec.toNat).Pairwise (fun x y => prec (ktOf 3) false y x = false) ∧
    (((sparseGet none (after (exec (.vmerges 7 1 3) mergeW)).hart.vec.streams 2).map Stream.buffer) = some [0, 1, 2, 3, 5, 5]) ∧
    q4After (.vmerges 7 1 3) mergeW = [4] :=
  by
    refine ⟨ready_of ?_, ?_, ?_, ?_, ?_, ?_, ?_, ?_, ?_, rows_of ?_, rows_of ?_, rows_of ?_, ?_⟩ <;> and_intros <;> decide +kernel

/-! ## Matrices (R214–R230) -/

/-- A granted shape of 2 by 3 by 4 in FP32: v1 holds A = (1, 2, 3, −2; 0.5, 1, 1, 8), v3 holds B = (0.5, 2, 1; 1, −1, 1.5; 1, 1, 1;
7, 1, 1); tile 2 holds 1, 2 and 3 at (0, 0), (0, 2) and (1, 1); guard 0 is set; s3 = 0x2000, s4 = 12, s5 = 0x800100. -/
def matW : State := withHart fun h => { h with
  cfg := { h.cfg with vl := 4, rc := 1, etype := 5 }
  sregs := [(1, 0x0003000000 + 0x0201), (2, 0x05), (3, 0x2000), (4, 12), (5, 0x800100)]
  sys := { h.sys with mshp := BitVec.ofNat 64 (1 + 2 * 256 + 3 * 65536 + 2 ^ 31), mfmt := 5, tilesN := 8 }
  vec := { h.vec with
    guards := [(0, true)]
    preds := [(0, 5)]
    tiles := [(2 * 16384, 0x3F800000), (2 * 16384 + 2, 0x40000000), (2 * 16384 + 128 + 1, 0x40400000)]
    rows := rowOf 1 32 [0x3F800000, 0x40000000, 0x40400000, 0xC0000000, 0x3F000000, 0x3F800000, 0x3F800000, 0x41000000] ++
      rowOf 3 32 [0x3F000000, 0x40000000, 0x3F800000, 0x3F800000, 0xBF800000, 0x3FC00000, 0x3F800000, 0x3F800000,
        0x3F800000, 0x40E00000, 0x3F800000, 0x3F800000] } }

theorem guard_of {s : State} (h : guardOf s.hart.vec s.hart.cfg.gsel.toNat = true)
    (h2 : s.hart.sys.mshp.getLsbD 31 = true ∧ bitsOf s.hart.sys.mshp.toNat 7 0 < 128 ∧ bitsOf s.hart.sys.mshp.toNat 15 8 < 128 ∧
      bitsOf s.hart.sys.mshp.toNat 25 16 < 512) : GuardOn s := ⟨h, h2⟩

/-- A = 2 × 3 × 4 and B = FP32, unscaled; a K' that the scale registers limit; a format below 5. -/
theorem witness_MatrixShapeResults :
    Ready matW ∧ scalarOk matW.hart 1 = true ∧ ShapeLegal (1 + 256 * 2 + 65536 * 3) 5 ∧ ¬ShapeLegal 0 4 ∧ SaveAreaOk matW ∧
    ShapeLegal (127 + 256 * 127 + 65536 * 511) (0x1000 + 0x18 + 0x80) ∧ GrantIs true 0 2 4 4 ∧ GrantIs false 0 128 512 512 ∧
    matW.hart.sys.mshp.getLsbD 31 = true := by
  refine ⟨ready_of (by decide +kernel), by decide +kernel, by unfold ShapeLegal; decide +kernel, by unfold ShapeLegal; decide +kernel,
    by unfold SaveAreaOk; decide +kernel, by unfold ShapeLegal; decide +kernel, ?_, rfl, by decide +kernel⟩
  exact ⟨⟨le_refl 4, Or.inl rfl, by decide⟩, fun x hx => hx.1⟩

/-- R217: the shape, and 256 of 512 steps of K where four scale registers are left; a rejected format raises MATF. -/
def shapeW (a b : Nat) : State := { matW with hart := { matW.hart with sregs := [(1, BitVec.ofNat 64 a), (2, BitVec.ofNat 64 b)] } }
theorem test_shapes :
    q4After (.mshape 1 2) (shapeW (1 + 256 * 2 + 65536 * 3) 5) = [0x80030201] ∧
    q4After (.mshape 1 2) (shapeW (127 + 256 * 127 + 65536 * 511) (0x1000 + 0x18 + 0x80)) = [0x80FF7F7F] ∧
    trapped (.mshape 1 2) (shapeW 0 4) = (0x10F, 4) ∧ (after (exec (.mmode 2) matW)).hart.cfg.mmode = 2 ∧
    guardOf (after (exec (.gtest 3 0) matW)).hart.vec 3 = true ∧ guardOf (after (exec (.gset 0 4) matW)).hart.vec 0 = false := by
  decide +kernel

def offW : State := { matW with hart := { matW.hart with vec := { matW.hart.vec with guards := [] } } }

theorem witness_FalseGuard :
    Ready offW ∧ guardOf offW.hart.vec offW.hart.cfg.gsel.toNat = false ∧ TileOk offW (2 : BitVec 7).toNat ∧
    TileOk offW (7 : BitVec 5).toNat ∧ RowsIn offW 2 1 ∧ RowsIn offW 4 1 ∧ scalarOk offW.hart 5 = true ∧
    (after (exec (.tmma 0 4 1 3 0) offW)).hart.vec.tiles = offW.hart.vec.tiles ∧
    (after (exec (.asoft 2 2 2) offW)).hart.vec.rows = offW.hart.vec.rows :=
  ⟨ready_of (by decide +kernel), by decide +kernel, by unfold TileOk; decide +kernel, by unfold TileOk; decide +kernel,
    rows_of (by decide +kernel), rows_of (by decide +kernel), by decide +kernel, by decide +kernel, by decide +kernel⟩

/-- The two pairs of TMMAP name A at 0x800000 with rows of 16 bytes and B at 0x800100 with rows of 32. -/
def mapW : State := State.putSp ({ matW with hart := { matW.hart with
    sregs := [(4, 0x800000 + 2 ^ 24 * 16), (5, 0), (6, 0x800100 + 2 ^ 24 * 32), (7, 0)] } }) 0 0 16
  0xC000000040400000400000003F800000

def mapQ : State := mapW.queued (entryOf mapW (encTmmap 3 4 6 0).toWord 0 (.pair 4) (.pair 6))

theorem witness_MatrixProductResults :
    Ready matW ∧ GuardOn matW ∧ MaskOk matW 1 ∧ FlatOk matW 3 5 12 ∧ FlatOk matW 1 5 8 ∧ TileOk matW 4 ∧ TileOk matW 2 ∧
    FormatAOk matW.hart.cfg.et (matFmt matW.hart.sys).sa 1 ∧ (shapeOf matW.hart.sys).kg = 4 ∧ (shapeOf matW.hart.sys).ng = 3 ∧
    matW.hart.cfg.mmode = 0 ∧ GuardOn mapW ∧ CapOk mapW.hart (.pair 4) ∧ CapOk mapW.hart (.pair 6) ∧ TileOk mapW 3 ∧ Unlocked mapQ ∧
    (∀ i < 2, ∀ j < 4, SpRead mapQ (BitVec.ofNat 64 (0x800000 + 16 * i + 4 * j)) 4 (0, 16 * i + 4 * j)) ∧
    (∀ k < 4, ∀ n < 3, SpRead mapQ (BitVec.ofNat 64 (0x800100 + 32 * k + 4 * n)) 4 (0, 0x100 + 32 * k + 4 * n)) := by
  refine ⟨ready_of (by decide +kernel), guard_of (by decide +kernel) (by decide +kernel), fun _ => by decide +kernel,
    plainRows_of (by decide +kernel),
    plainRows_of (by decide +kernel), by unfold TileOk; decide +kernel,
    by unfold TileOk; decide +kernel, by unfold FormatAOk; decide +kernel, by decide +kernel, by decide +kernel, by decide +kernel,
    guard_of (by decide +kernel) (by decide +kernel), ⟨by decide +kernel, by decide +kernel⟩, ⟨by decide +kernel, by decide +kernel⟩,
    by unfold TileOk; decide +kernel, unlocked_of (by decide +kernel), fun i hi j hj => ⟨pad_of ?_, ?_⟩, fun k hk n hn => ⟨pad_of ?_, ?_⟩⟩
  · revert i j; decide +kernel
  · rw [show (mapQ.core 0).spPoison = [] by decide +kernel]; simp
  · revert k n; decide +kernel
  · rw [show (mapQ.core 0).spPoison = [] by decide +kernel]; simp

/-- The elements of a tile inside the shape after an instruction. -/
def tileOut (x : Nat) (i : Instr) (s : State) : List Nat :=
  (List.range 6).map fun f => tileAt (after (exec i s)).hart.vec x (f / 3) (f % 3)

/-- R221–R223, by hand: A·B = (−8.5, 1, 5; 58.25, 9, 11); with tile 2 as A (its fourth column is 0), (0.5 + 2, 2 + 2, 1 + 2; 3, −3,
4.5); TMMAP with only the first row of A and no B. -/
theorem test_products :
    tileOut 4 (.tmma 0 4 1 3 0) matW = [0xC1080000, 0x3F800000, 0x40A00000, 0x42690000, 0x41100000, 0x41300000] ∧
    tileOut 4 (.tmma 1 4 2 3 0) matW = [0x40200000, 0x40800000, 0x40400000, 0x40400000, 0xC0400000, 0x40900000] ∧
    tileOut 3 (.tmmap 3 4 6 0) mapW = [0, 0, 0, 0, 0, 0] := by decide +kernel

/-- Rows of 12 bytes at 0x2000, and at offset 0x100 of the own scratchpad; ESTART 2. -/
def moveW : State := { matW with hart := { matW.hart with cfg := { matW.hart.cfg with estart := 2 } } }
def moveQ (w : RWord) (a : BitVec 7) : State := moveW.queued (entryOf moveW w.toWord 0 (.scalar a) (.scalar 4))
def cellAt (base : Word) (f : Nat) : Word := base + 12 * BitVec.ofNat 64 (f / 3) + BitVec.ofNat 64 (4 * (f % 3))

theorem witness_TileMoveResults :
    Ready moveW ∧ GuardOn moveW ∧ scalarOk moveW.hart 3 = true ∧ scalarOk moveW.hart 4 = true ∧ TileOk moveW 2 ∧
    Unlocked (moveQ (encTld 2 3 4) 3) ∧
    (∀ f, f < 6 → decide (2 ≤ f) = true → MemRead (moveQ (encTld 2 3 4) 3) .other (cellAt 0x2000 f) 4 (cellAt 0x2000 f).toNat) ∧
    (∀ f, f < 6 → decide (2 ≤ f) = true → MemWrite (moveQ (encTst 2 3 4) 3) .other (cellAt 0x2000 f) 4 (cellAt 0x2000 f).toNat) ∧
    (∀ f, f < 6 → decide (2 ≤ f) = true → SpWrite (moveQ (encTstp 2 5 4) 5) (cellAt 0x800100 f) 4 (0, 0x100 + 4 * f)) ∧
    FlatOk matW 5 5 6 ∧ FlatOk matW 5 8 6 := by
  refine ⟨ready_of (by decide +kernel), guard_of (by decide +kernel) (by decide +kernel), by decide +kernel, by decide +kernel,
    by unfold TileOk; decide +kernel, unlocked_of (by decide +kernel), fun f hf ha => memRead_of (by decide +kernel) ?_,
    fun f hf ha => memWrite_of ?_, fun f hf ha => pad_of ?_,
    plainRows_of (by decide +kernel),
    plainRows_of (by decide +kernel)⟩
  · exact actives_of (act := fun f => decide (2 ≤ f)) (ok := fun f => memOk .load .other (moveQ (encTld 2 3 4) 3) (cellAt 0x2000 f) 4) (by decide +kernel) f hf ha
  · exact actives_of (act := fun f => decide (2 ≤ f)) (ok := fun f => memOk .store .other (moveQ (encTst 2 3 4) 3) (cellAt 0x2000 f) 4) (by decide +kernel) f hf ha
  · exact actives_of (act := fun f => decide (2 ≤ f)) (ok := fun f => padOk (moveQ (encTstp 2 5 4) 5) (cellAt 0x800100 f) 4 (0, 0x100 + 4 * f))
      (by decide +kernel) f hf ha

theorem test_tile_moves :
    wordsAfter (.tst 2 3 4) matW = [0x3F800000, 0, 0x40000000, 0, 0x40400000] ∧ wordsAfter (.tst 2 3 4) moveW = [0, 0, 0x40000000, 0, 0x40400000] ∧
    tileOut 2 (.tld 2 3 4) { moveW with mem := loadW.mem } = [0x3F800000, 0, 0x11100908, 0x15141312, 0x00181716, 0] ∧
    (List.range 3).map (fun k => (after (exec (.tstp 2 5 4) matW)).spNat 0 (0x100 + 4 * k) 4) = [0x3F800000, 0, 0x40000000] ∧
    tileOut 2 (.tldp 2 5 4) matW = [0, 0, 0, 0, 0, 0] ∧
    (List.range 6).map (fun f => tileElem (after (exec (.tcvt 5 2 0 0) matW)).hart.vec 0 5 0 f 32) =
      [0x3F800000, 0, 0x40000000, 0, 0x40400000, 0] := by decide +kernel

/-- The causal mask word 1 with query position 5, where every key of the tile is seen; the scale 0.5 in s2. -/
def attW : State := { matW with hart := { matW.hart with
  sregs := [(1, 1), (2, 0x3F000000), (6, 5)], sys := { matW.hart.sys with mgen := 1, mgpos := 5 } } }

theorem witness_AttentionResults :
    Ready attW ∧ attW.hart.sys.mshp.getLsbD 31 = true ∧ scalarOk attW.hart 1 = true ∧ bitsOf (scalarVal attW.hart 6).toNat 63 60 = 0 ∧
    GuardOn attW ∧ TileOk attW 2 ∧ PlainRows attW 7 3 ∧ PlainRows attW 1 1 ∧
    ((List.range 3).filter fun n => visible 1 5 0 n) = [0, 1, 2] ∧ ((List.range 3).filter fun n => visible 1 0 0 n) = [0] :=
  ⟨ready_of (by decide +kernel), by decide +kernel, by decide +kernel, by decide +kernel,
    guard_of (by decide +kernel) (by decide +kernel), by unfold TileOk; decide +kernel, plainRows_of (by decide +kernel),
    plainRows_of (by decide +kernel), by and_intros <;> decide +kernel⟩

/-- R228–R230: both query rows see a key; row maxima of 0.5·S from 0 are 1 and 1.5; tile 2 scaled by v1's 1 and 2. -/
theorem test_attention :
    predOf (after (exec (.amask 3 1 6) attW)).hart.vec 3 = 3 ∧ (after (exec (.amask 3 1 6) attW)).hart.sys.mgpos = 5 ∧
    (List.range 2).map (fun m => tileElem (after (exec (.asoft 7 2 2) attW)).hart.vec 0 7 0 m 32) = [0x3F800000, 0x3FC00000] ∧
    tileOut 2 (.ascale 2 1 0) attW = [0x3F800000, 0, 0x40000000, 0, 0x40C00000, 0] := by decide +kernel

/-! ## Streams, copies, rings and channels (R193–R202, R232–R251) -/

/-- Slots 0, 2, 3 and 5 hold an input with four elements in hand, an empty output, an output with two, and an input that has fetched
one; row 9 holds a record. -/
def inI : Stream := ⟨1, recordOf 0x2000 9, false, 1, some 1, [2, 5, 5, 9], none, false⟩
def outO : Stream := ⟨7, recordOf 0x2010 20, true, 2, some 1, [], none, false⟩
def outP : Stream := ⟨8, recordOf 0x2010 20, true, 2, some 1, [77, 1], none, false⟩
def inQ : Stream := ⟨11, recordOf 0x2000 6, false, 2, some 1, [77], none, false⟩
def streamW : State := { recordW 0x2000 with hart := { (recordW 0x2000).hart with
  sregs := [(2, 2), (6, 8)]
  cfg := { (recordW 0x2000).hart.cfg with vl := 2, rc := 2 }
  vec := { (recordW 0x2000).hart.vec with
    order := [(5, 0x101)], streams := [(0, some inI), (2, some outO), (3, some outP), (5, some inQ)] } } }

/-- Slot 1 is the lowest free one; an unbound row, an input, an empty output, an output with elements; a strip of four elements. -/
theorem witness_StreamResults :
    Ready streamW ∧ PlainRows streamW 5 1 ∧ PlainRows streamW 9 1 ∧ RowsIn streamW 9 1 ∧
    bindBad (rowRecordOf streamW 9) = none ∧ Unbound streamW 9 ∧ (sparseGet none streamW.hart.vec.streams 1).isNone = true ∧
    (sparseGet none streamW.hart.vec.streams 0).isSome = true ∧ streamAt streamW.hart.vec 1 = some (0, inI) ∧
    streamAt streamW.hart.vec 7 = some (2, outO) ∧ SaveAreaOk streamW ∧ inQ.pos + inQ.buffer.length < recN inQ.record ∧
    inQ.buffer.length < streamRoom streamW.myCore inQ ∧ (recRead inQ.record 3).exec streamW = (.ok 0x15141312, streamW) ∧
    TilesOk streamW 0 [5] (.vi 1) ∧ streamW.hart.cfg.et = 3 ∧ RowsIn streamW 1 streamW.hart.cfg.rcN ∧
    streamW.hart.cfg.count ≤ inI.buffer.length ∧ inI.pos + streamW.hart.cfg.count ≤ recN inI.record ∧
    recType inI.record = streamW.hart.cfg.et ∧ streamW.hart.cfg.est = 0 := by
  refine ⟨ready_of ?_, plainRows_of ?_, plainRows_of ?_, rows_of ?_, ?_, free_of ?_, ?_, ?_, ?_, ?_, ?_, ?_, ?_, answers_eq ?_,
    tiles_of ?_, ?_, rows_of ?_, ?_⟩ <;>
    first | decide +kernel | (unfold SaveAreaOk; decide +kernel)

/-- A slot of the bindings after an instruction. -/
def slotAfter (n : Nat) (i : Instr) : Option Stream := sparseGet none (after (exec i streamW)).hart.vec.streams n

/-- R232–R239, R195: by hand. -/
theorem test_streams :
    (slotAfter 1 (.sbind 5 9 0)).map (fun x => (x.row, x.out, x.pos, x.buffer)) = some (5, false, 0, []) ∧
    orderOf (after (exec (.sbind 5 9 0) streamW)).hart.vec 5 = 0 ∧
    q4After (.sstat 9) streamW = [0] ∧ q4After (.sstat 1) streamW = [1 + 2 ^ 35] ∧
    q4After (.sstat 7) streamW = [2 + 2 ^ 33 + 2 ^ 35 + 2 ^ 36] ∧ slotAfter 0 (.sunbind 1) = none ∧ slotAfter 2 (.sunbind 7) = none ∧
    slotAfter 0 (.sflush 1) = some { inI with buffer := [] } ∧
    slotAfter 0 (.sadv 1 2) = some { inI with pos := 3, buffer := [5, 9], lastKey := none } ∧
    trapped (.sunbind 9) streamW = (0x10E, 9 + 768) ∧ slotAfter 5 (.streamRefill 5) = some { inQ with buffer := [77, 0x15141312] } ∧
    slotAfter 3 (.streamOutputWrite 3) = some { outP with buffer := [1] } ∧
    (after (exec (.streamOutputWrite 3) streamW)).memNat 0x2010 4 = 77 ∧
    tileAfter (.vadd 5 1 (.vi 1) 0) streamW = [3, 6, 6, 10] ∧ (slotAfter 0 (.vadd 5 1 (.vi 1) 0)).map Stream.pos = some 5 := by
  decide +kernel

/-- A copy of two elements from 0x2000 to 0x3000, four bytes apart; channel 0 is taken, channel 1 idle; row 10 is a patch list of one
block of a rank-3 record. -/
def copyW : State := { loadW with
  hart := { loadW.hart with
    sregs := [(4, 0), (5, 0)]
    vec := { loadW.hart.vec with
      rows := rowOf 9 32 [0x2000, 0, 0x13, 2, 1, 1, 1, 2] ++ rowOf 12 32 [0x3000, 0, 0x13, 2, 1, 1, 1, 1] ++
        rowOf 20 32 [0x2000, 0, 0x33, 2, 3, 2, 1, 1, 2, 6] ++ rowOf 21 32 [1, 0, 0x00020002] ++
        rowOf 22 32 [0x3000, 0, 0x13, 20, 1, 1, 1, 1] } }
  cores := [(0, { Core.reset with chans := [(0, { Channel.idle with st := .running })] })] }

def copyQ (i : RWord) : State := copyW.queued (entryOf copyW i.toWord 0 .none (.pair 4))

theorem witness_CopyIssue :
    Ready copyW ∧ CapOk copyW.hart (.pair 4) ∧ PlainRows copyW 12 1 ∧ PlainRows copyW 20 2 ∧ PlainRows copyW 9 1 ∧
    PlainRows copyW 22 1 ∧
    recBad none (rowRecordOf copyW 9) = none ∧ recBad none (rowRecordOf copyW 12) = none ∧
    recType (rowRecordOf copyW 9) = recType (rowRecordOf copyW 12) ∧ recN (rowRecordOf copyW 9) = recN (rowRecordOf copyW 12) ∧
    (sparseGet Channel.idle copyW.myCore.chans 1).st = .idle ∧ (sparseGet Channel.idle copyW.myCore.chans 0).st ≠ .idle ∧
    copyW.myCore.locks.length < 16 ∧ copyW.myCore.fenced = false ∧ Unlocked (copyQ (encCopy 12 9 4)) ∧
    (needCompletion (0, 0) 4 false).exec (copyQ (encCopy 12 9 4)) = (.ok ⟨0, 0, 0, 0⟩, copyQ (encCopy 12 9 4)) ∧
    (needCompletionRing 4 ⟨0, 0, 0, 0⟩).exec (copyQ (encCopy 12 9 4)) = (.ok (), copyQ (encCopy 12 9 4)) ∧
    recRank (rowRecordOf copyW 20) = 3 ∧ recRank (rowRecordOf copyW 22) = 1 ∧
    (checkPatches (rowRecordOf copyW 20) (rowRecordOf copyW 22) [1, 0, 0x00020002]).exec copyW = (.ok (), copyW) := by
  refine ⟨ready_of ?_, ⟨?_, ?_⟩, plainRows_of ?_, plainRows_of ?_, plainRows_of ?_, plainRows_of ?_, ?_, ?_, ?_, ?_, ?_, ?_, ?_, ?_,
    unlocked_of ?_, answers_eq ?_, rfl, ?_, ?_, answers_eq ?_⟩ <;> decide +kernel

/-- The copy runs on channel 1; one whose second element is misaligned; a pending ENGF. -/
def runningW : State := after (exec (.copy 12 9 4) copyW)
def badChannel : Channel :=
  { sparseGet Channel.idle runningW.myCore.chans 1 with k := 1, src := (rowRecordOf copyW 9).set 0 0x2002 }
def stoppedW : State := runningW.withCore fun k => { k with chans := sparsePut Channel.idle k.chans 1 badChannel }

theorem witness_CopyRuns :
    (let x := sparseGet Channel.idle runningW.myCore.chans 1;
      x.st = .running ∧ x.held = 0 ∧ x.orphan = false ∧ x.owner = 0 ∧ x.patches = none ∧ x.priv = 2 ∧ x.comp.kind = 0 ∧ x.k ≤ recN x.src ∧
      recScratch x.src = false ∧ recScratch x.dst = false ∧ recType x.src = 3 ∧ recType x.dst = 3) ∧ runningW.myDie.ptEn = 0 ∧
    (∀ k < 2, ∀ a ∈ [0x2000 + 8 * k, 0x3000 + 4 * k], absent runningW 0 a = false ∧ isControlWindow a = false ∧ fencedAt runningW a = false) ∧
    runningW.hart.unanswered = none ∧ runningW.poison = [] ∧ (after (exec (.copyCompletion 1) runningW)).memNat 0x3000 8 = 0x1110090803020100 ∧
    (sparseGet Channel.idle (after (exec (.copyCompletion 1) runningW)).myCore.chans 1) = Channel.idle ∧
    (after (exec (.copyCompletion 1) runningW)).myCore.locks = [] ∧
    (let x := sparseGet Channel.idle stoppedW.myCore.chans 1; x.k < recN x.src ∧ (recAddr x.src 1).toNat % 4 = 2) ∧
    (after (exec (.copyCompletion 1) stoppedW)).hart.pendEngf = [1] ∧
    (sparseGet Channel.idle (after (exec (.copyCompletion 1) stoppedW)).myCore.chans 1).fault = some ⟨1, .align, 0x200A⟩ ∧
    trapped .engf (withHart fun h => { h with pendEngf := [3, 4] }) = (0x10C, 3) := by decide +kernel

/-- R117, R153, R242: a FENCE waits for a record that a full ring keeps back; a source record of type 10 has a bad element 2. R344, R340: once
a copy has written its flag at 0x4000 and the flag is hidden, its elements at 0x3000 are seen, and the flag is not. -/
def flagW : State := { runningW.withCore fun k => { k with
  chans := sparsePut Channel.idle k.chans 1
    { sparseGet Channel.idle runningW.myCore.chans 1 with comp := ⟨1, 0, 9, 0x4000⟩ } } with
  lag := true }
theorem test_copy_ends :
    (let s := runningW.withCore fun k => { k with
      chans := sparsePut Channel.idle k.chans 1 { sparseGet Channel.idle k.chans 1 with st := .holding, held := 1 } }
     goes (exec (.fence 3 2) s) { s with parked := true } = true) ∧
    trapped (.copy 12 9 4) { copyW with hart := { copyW.hart with vec := { copyW.hart.vec with
      rows := sparsePut 0 copyW.hart.vec.rows (9 * 4096 + 8) 0x1A } } } = (0x10F, 2) ∧
    (let t := after (relaxedStep (.engine (.copyCompletion 1)) true false flagW)
     (t.unseenS.map Stale.addr, t.memNat 0x3000 4, t.memNat 0x4000 8) = ([0x4000], 0x03020100, 9)) := by decide +kernel

/-- A ring at offset 0x1000 of the own scratchpad: four slots of 16 bytes, the first filled; s1 names it. -/
def ringW : State := State.putSp (State.putSp (withHart fun h => { h with sregs := [(1, 0x801000), (2, 4 + 2 ^ 16 * 16), (3, 1), (4, 0x2000)] })
  0 0x1000 16 (4 + 2 ^ 16 * 16)) 0 0x1010 1 1
def ringQ (i : RWord) (cb : Cap) : State := ringW.queued (entryOf ringW i.toWord 0 (.scalar 1) cb)
def faultedW : State := { ringW with cores := [(0, { Core.reset with
  chans := [(1, { Channel.idle with st := .faulted, k := 3, fault := some ⟨3, .align, 0x2001⟩, pc := 0x1000 })]
  locks := [⟨0, false, 1, false, 9, 9, false, 9, 9⟩, ⟨0, true, 1, false, 9, 9, false, 9, 9⟩] })] }

theorem witness_RingAndChannelResults :
    Ready ringW ∧ scalarOk ringW.hart 1 = true ∧ scalarOk ringW.hart 2 = true ∧ ringSizes 4 16 = true ∧
    Unlocked (ringQ (encRinit 1 2) (.scalar 2)) ∧
    (spCheck 0x801000 (ringBytes 4 16) true).exec (ringQ (encRinit 1 2) (.scalar 2)) = (.ok (0, 0x1000), ringQ (encRinit 1 2) (.scalar 2)) ∧
    (spCheck 0x801000 16 true).exec (ringQ (encRawait 1) .none) = (.ok (0, 0x1000), ringQ (encRawait 1) .none) ∧
    (spCheck 0x801000 16 true).exec (ringQ (encRrel 1) .none) = (.ok (0, 0x1000), ringQ (encRrel 1) .none) ∧
    (ringHeader ringW 0 0x1000).map Ring.cap = some 4 ∧ ringFilled ringW 0 0x1000 0 = true ∧ accessesPending ringW = false ∧
    (let x := sparseGet Channel.idle faultedW.myCore.chans 1; x.st = .faulted ∧ x.owner = 0) ∧ faultedW.hart.cfg.est = 0 ∧
    MemRead (ringW.queued (entryOf ringW (encWaita 0 0 0 4 2).toWord 0 (.scalar 4) (.scalar 2))) .other 0x2000 8 0x2000 ∧
    SpWrite (ringQ (encWaita 1 0 0 1 2) (.scalar 2)) 0x801000 8 (0, 0x1000) ∧ Unlocked ringW ∧ (ringW.core 0).spPoison = [] :=
  ⟨ready_of (by decide +kernel), by decide +kernel, by decide +kernel, by decide +kernel, unlocked_of (by decide +kernel),
    answers_eq (by decide +kernel), answers_eq (by decide +kernel), answers_eq (by decide +kernel), by decide +kernel,
    by decide +kernel, by decide +kernel, by decide +kernel, by decide +kernel,
    memRead_of (by decide +kernel) (by decide +kernel), pad_of (by decide +kernel), unlocked_of (by decide +kernel),
    by decide +kernel⟩

/-- R245–R251: by hand. CSTAT: faulted is 2, element 3, ALIGN is cause 4. -/
theorem test_rings :
    (after (exec (.rinit 1 2) { ringW with cores := [] })).spNat 0 0x1000 16 = 4 + 2 ^ 16 * 16 ∧
    q4After (.rawait 1) ringW = [0x801000 + 32] ∧
    (let t := after (exec (.rrel 1) ringW); (t.spNat 0 0x1004 4, t.spNat 0 0x1010 1) = (1, 0)) ∧
    (sparseGet Channel.idle (after (exec (.cresume 3) faultedW)).myCore.chans 1).st = .running ∧
    (after (exec (.cresumeAbort 3) faultedW)).myCore.locks = [⟨0, true, 1, false, 9, 9, false, 9, 9⟩] ∧
    q4After (.cstat 3) faultedW = [BitVec.ofNat 64 (ChanState.faulted.code + 4 * 2 ^ 8 + 3 * 2 ^ 32), 0x2001] ∧
    (after (exec (.waita 0 0 0 4 0) ringW)).hart.vq = [] ∧ (after (exec (.waita 0 0 0 4 2) ringW)).hart.vq.length = 1 := by
  decide +kernel

/-! ## Atomics (R252–R254) -/

/-- 0xF0F0F0F13F800000 at 0x2008 and in the own scratchpad at 0x108; s4 = 3. -/
def atomW (b : Word) : State := State.putSp (State.putNat
  (withHart fun h => { h with sregs := [(2, 0x2008), (3, 0x800108), (4, b), (5, 4)] }) 0x2008 8 0xF0F0F0F13F800000) 0 0x108 8 0xF0F0F0F13F800000
def poolAfter (i : Instr) (b : Word) : Nat := (after (exec i (atomW b))).spNat 0 0x108 8
def globAfter (i : Instr) (b : Word) : Nat := (after (exec i (atomW b))).memNat 0x2008 8
def atomQ (i : RWord) (a : BitVec 7) : State := (atomW 3).queued (entryOf (atomW 3) i.toWord 0 (.scalar a) (.scalar 4))

theorem witness_AtomicResults :
    Ready (atomW 3) ∧ (∀ n ∈ [2, 3, 4, 5], scalarOk (atomW 3).hart n = true) ∧ accessesPending (atomW 3) = false ∧
    SpWrite (atomQ (encSaadd 0 0 1 0 1 3 4) 3) 0x800108 8 (0, 0x108) ∧ SpWrite (atomQ (encSaadd 1 0 1 0 1 3 4) 3) 0x800108 4 (0, 0x108) ∧
    ((atomQ (encSaadd 0 0 1 0 1 3 4) 3).core 0).spPoison = [] ∧ Unlocked (atomQ (encSaadd 0 0 1 0 1 3 4) 3) ∧
    Reaches .atomic .other (atomQ (encGaadd 0 0 1 0 1 2 4) 2) 0x2008 8 0x2008 ∧ Clean (atomQ (encGaadd 0 0 1 0 1 2 4) 2) 0x2008 8 :=
  ⟨ready_of (by decide +kernel), by decide +kernel, by decide +kernel, pad_of (by decide +kernel), pad_of (by decide +kernel),
    by decide +kernel, unlocked_of (by decide +kernel), reaches_eq (by decide +kernel), by unfold Clean; decide +kernel⟩

theorem test_atomics :
    [poolAfter (.saadd 0 0 0 0 0 3 4) 3, poolAfter (.samin 0 0 0 0 0 3 4) 3, poolAfter (.samax 0 0 0 0 0 3 4) 3,
      poolAfter (.saxchg 0 0 0 0 0 3 4) 3, poolAfter (.saand 0 0 0 0 0 3 4) (-16), poolAfter (.saor 0 0 0 0 0 3 4) 3,
      poolAfter (.safadd 1 0 0 0 0 3 4) 0x40000000, poolAfter (.sacas 0 0 0 0 0 3 4) 3,
      poolAfter (.sacas 1 0 0 0 0 3 4) 0x3F800000] =
    [0xF0F0F0F13F800003, 0xF0F0F0F13F800000, 3, 3, 0xF0F0F0F13F800000, 0xF0F0F0F13F800003, 0xF0F0F0F140400000,
      0xF0F0F0F13F800000, 0xF0F0F0F100000004] ∧
    q4After (.saadd 1 0 0 0 1 3 4) (atomW 3) = [0x3F800000] ∧ q4After (.saadd 0 0 0 0 1 3 4) (atomW 3) = [0xF0F0F0F13F800000] := by
  decide +kernel

theorem test_global_atomics :
    [globAfter (.gaadd 1 0 0 0 0 2 4) (-0x3F800001), globAfter (.gamin 1 0 0 0 0 2 4) 3, globAfter (.gamax 1 0 0 0 0 2 4) 3,
      globAfter (.gaxchg 1 0 0 0 0 2 4) 3, globAfter (.gaand 0 0 0 0 0 2 4) 0xFF, globAfter (.gaor 1 0 0 0 0 2 4) 3,
      globAfter (.gafadd 1 0 0 0 0 2 4) 0x40000000, globAfter (.gacas 0 0 0 0 0 2 4) 0xF0F0F0F13F800000] =
    [0xF0F0F0F1FFFFFFFF, 0xF0F0F0F100000003, 0xF0F0F0F13F800000, 0xF0F0F0F100000003, 0, 0xF0F0F0F13F800003, 0xF0F0F0F140400000, 4] := by
  decide +kernel

/-! ## Keyed regions (R203–R209, R255–R261) -/

/-- Handle 1 holds an empty region of 8-bit hashes at offset 0, its spill area of 100 entries at 0x9000; v1 and v2 hold the keys 11, 12,
11, 700 and their values 1, 2, 3, 4; s4 and s5 claim such a region. -/
def region (sealed' : Bool) : Keyed := ⟨8, 0, 0, 0x9000, 0, 100, sealed', false, none⟩
def keyedW (sealed' : Bool) : State := { withHart fun h => { h with
    sregs := [(4, BitVec.ofNat 64 (8 + 2 ^ 32 * 100)), (5, 0x9000)]
    cfg := { h.cfg with vl := 4, rc := 1 }
    vec := { h.vec with preds := [(0, 0xB)], rows := rowOf 1 32 [11, 12, 11, 700] ++ rowOf 2 32 [1, 2, 3, 4] } } with
  cores := [(0, { Core.reset with keyed := [(1, some (region sealed'))] })] }

/-- The keys 11, 12 and 700 stored. -/
def filledW : State := { after (execKins 5 1 1 0 (keyedW false)) with hart := (keyedW false).hart }

theorem keyOk_of {s : State} {h : BitVec 2} {r : Keyed} (h1 : sparseGet none s.myCore.keyed h.toNat = some r)
    (h2 : s.myCore.fenced = false ∧ r.failed = false ∧ r.keyType.toNat = ktOf s.hart.cfg.et ∧ 8 ≤ r.bits ∧ r.bits ≤ 14) (h3 : s.myCore.spPoison = []) :
    KeyOk s h r := ⟨h2.1, h1, h2.2.1, h2.2.2.1, h2.2.2.2, by simp [h3]⟩

/-- A key stands in at most one slot of its buckets. -/
def heldOnceB (s : State) (r : Keyed) (k : Nat) : Bool :=
  let at' : List (Nat × Nat) := [hash1 r.bits k, 2 ^ r.bits + hash2 r.bits k].flatMap fun i =>
    ((List.range 4).filter fun n => occupied s r i n && slotKey s r i n == k).map fun n => (i, n)
  at'.all fun p => at'.all fun q => p == q

theorem heldOnce_of {s : State} {r : Keyed} {k : Nat} (h : heldOnceB s r k = true) : HeldOnce s r k := by
  intro i i' n n' hi hi' hn hn' o e o' e'
  have mem {j m : Nat} (hj : j ∈ [hash1 r.bits k, 2 ^ r.bits + hash2 r.bits k]) (hm : m < 4) (oj : occupied s r j m = true)
      (ej : slotKey s r j m = k) : (j, m) ∈ [hash1 r.bits k, 2 ^ r.bits + hash2 r.bits k].flatMap fun i =>
        ((List.range 4).filter fun n => occupied s r i n && slotKey s r i n == k).map fun n => (i, n) :=
    List.mem_flatMap.mpr ⟨j, hj, List.mem_map.mpr ⟨m, List.mem_filter.mpr ⟨List.mem_range.mpr hm, by simp [oj, ej]⟩, rfl⟩⟩
  have := List.all_eq_true.mp (List.all_eq_true.mp h _ (mem hi hn o e)) _ (mem hi' hn' o' e')
  simpa using this

theorem witness_KeyedResults :
    Ready (keyedW false) ∧ CapOk (keyedW false).hart (.pair 4) ∧ claimBad (8 + 2 ^ 32 * 100) 0x9000 = false ∧
    (sparseGet none (keyedW false).myCore.keyed 0).isNone = true ∧ (freeRange (keyedW false).myCore (keyedSize 8)).isSome = true ∧
    KeyOk (keyedW false) 1 (region false) ∧ KeyOk (keyedW true) 1 (region true) ∧ PlainRows (keyedW true) 5 2 ∧
    Unlocked (keyedW true) ∧ TilesOk (keyedW false) 1 [1, 5] (.vv 1) ∧ Unlocked (keyedW false) ∧ PlainRows (keyedW false) 6 1 ∧
    PlainRows (keyedW false) 2 1 ∧ (∀ k ∈ [11, 12, 700], keyLookup (keyedW false) (region false) k = none) ∧
    NoStale (keyedW false) (region false) 11 ∧
    (∀ k < 100, MemWrite ((keyedW false).queued (entryOf (keyedW false) (encKins 5 1 1 0).toWord 0 .none .none true)) .other
      (0x9000 + BitVec.ofNat 64 (8 * k)) 8 ((0x9000 : Word) + BitVec.ofNat 64 (8 * k)).toNat) ∧
    keyLookup filledW (region false) 12 = some 2 ∧ (∀ k ∈ [11, 12, 700], HeldOnce filledW (region false) k) := by
  refine ⟨ready_of (by decide +kernel), ⟨by decide +kernel, by decide +kernel⟩, by decide +kernel, by decide +kernel, by decide +kernel,
    keyOk_of (by decide +kernel) (by decide +kernel) (by decide +kernel), keyOk_of (by decide +kernel) (by decide +kernel) (by decide +kernel),
    plainRows_of (by decide +kernel), unlocked_of (by decide +kernel), tiles_of (by decide +kernel),
    unlocked_of (by decide +kernel), plainRows_of (by decide +kernel), plainRows_of (by decide +kernel), by decide +kernel, ?_,
    fun k hk => memWrite_of ?_, by decide +kernel, fun k hk => heldOnce_of ?_⟩
  · unfold NoStale; decide +kernel
  · revert k; decide +kernel
  · revert k; decide +kernel

/-- The statuses in v5 and the values in v6. -/
theorem test_keyed_access :
    flatAfter 5 1 (.kins 5 1 1 0) (keyedW false) = [0, 0, 1, 0] ∧ flatAfter 5 2 (.kprb 5 1 1 0) filledW = [0, 0, 0, 0, 1, 2, 1, 4] ∧
    flatAfter 5 2 (.kprb 5 1 1 0) (keyedW false) = [1, 1, 1, 1, 0, 0, 0, 0] ∧ flatAfter 5 1 (.kdel 5 1 1 0) filledW = [0, 0, 1, 0] ∧
    flatAfter 5 1 (.kacc 5 1 0 1 0) filledW = [1, 1, 1, 1] ∧
    keyLookup (after (exec (.kacc 5 1 0 1 0) filledW)) (region false) 11 = some 5 := by decide +kernel

theorem test_keyed_regions :
    sparseGet none (after (exec (.kseal 1) (keyedW false))).myCore.keyed 1 = some (region true) ∧
    sparseGet none (after (exec (.kfree 1) (keyedW false))).myCore.keyed 1 = none ∧
    q4After (.kclaim 4 1) (keyedW false) = [1] ∧ q4After (.kstat 0) (keyedW false) = [0, 0] := by decide +kernel

/-! ## The quad, barriers (R263–R273, R377) -/

/-- Semaphore 3 is taken, harts 2 and 1 wait for it; word 4 holds 77 and word 5 is poisoned; hart 2 has two entries. -/
def waitEntry : Entry := ⟨0, 0, 0, 0, 0, 0, VConf.reset, 0, true⟩
def quadW : State := { vecW with
  quads := [(0, { Quad.reset with sems := [(3, ⟨true, [2, 1]⟩)], badWords := [5], words := [(4, 77)] })]
  others := [(2, { Hart.reset with phase := .running, vq := [waitEntry, waitEntry] })] }

/-- Addresses of the own and of the next core's scratchpad in v1, operands in v2. -/
def laneW : State := { vecW with
  hart := { vecW.hart with
    cfg := { vecW.hart.cfg with rc := 1, vl := 4 }
    vec := { vecW.hart.vec with rows := rowOf 1 32 [0x10, 0x14, 0x10, 0x200020] ++ rowOf 2 32 [3, 0xFFFFFFF0, 4, 7] } }
  cores := [(0, { Core.reset with sp := [(0x10, 5), (0x14, 7)] }), (1, { Core.reset with sp := [(0x20, 9)] })] }

theorem witness_QuadResults :
    Ready quadW ∧ quadW.myQuad.semFenced = false ∧ (sparseGet Sem.free quadW.myQuad.sems 3).bit = true ∧
    (sparseGet Sem.free quadW.myQuad.sems 3).waiters = [2, 1] ∧ sparseGet Sem.free quadW.myQuad.sems 2 = ⟨false, []⟩ ∧
    accessesPending quadW = false ∧ 4 ∉ quadW.myQuad.badWords ∧ TilesOk laneW 1 [1, 5] (.vv 1) ∧
    qatomTypes 0 laneW.hart.cfg.et = true ∧ PlainRows laneW 2 1 ∧
    (∀ a ∈ [0x10, 0x14, 0x200020], answers (qatomCheck (BitVec.ofNat 64 a)) (laneW.queued (entryOf laneW (encQatom 5 1 0 0 0 1).toWord 0 .none .none))
      () = true) ∧ (laneW.core 1).fenced = false ∧ (laneW.core 1).moving = none ∧ 0x30 + 8 ≤ spSize (laneW.core 1) ∧
    claimedAt (laneW.core 1) 0x30 8 = none := by
  refine ⟨ready_of ?_, ?_, ?_, ?_, ?_, ?_, ?_, tiles_of ?_, ?_, plainRows_of ?_, ?_⟩ <;> decide +kernel

theorem test_quad :
    q4After (.semtry 2) quadW = [1] ∧ q4After (.semtry 3) quadW = [0] ∧
    (sparseGet Sem.free (after (exec (.semts 2) quadW)).myQuad.sems 2).bit = true ∧
    (sparseGet Sem.free (after (exec (.semts 3) quadW)).myQuad.sems 3).waiters = [2, 1, 0] ∧
    (let t := after (exec (.semclr 3) quadW); (sparseGet Sem.free t.myQuad.sems 3, (t.hartAt 2).vq.length) = (⟨true, [1]⟩, 1)) ∧
    q4After (.crd 0 4) quadW = [77] ∧ sparseGet 0 (after (exec (.cwr 0 1 5) quadW)).myQuad.words 5 = -7 ∧
    (after (exec (.cwr 0 1 5) quadW)).myQuad.badWords = [] ∧
    flatAfter 5 1 (.qatom 5 1 0 0 0 0) laneW = [5, 7, 8, 9] ∧
    (let t := after (exec (.qatom 5 1 0 0 0 0) laneW); (t.spNat 0 0x10 4, t.spNat 0 0x14 4, t.spNat 1 0x20 4) = (12, 0xFFFFFFF7, 16)) ∧
    (after (exec (.quadMessage 1 0x30 1 0x1122) laneW)).spNat 1 0x30 8 = 0x1122 := by decide +kernel

/-- Barrier 7 of scope 1: TARGET 3, COUNT 1, generation 9; the hart holds a token of that generation, or of the one before. -/
def barrierW (c : BitVec 32) (g : BitVec 32) : State := putBarrier 1 (instanceOf vecW 1) 7 ⟨3, c, g⟩
  { vecW with hart := { vecW.hart with task := { vecW.hart.task with tokens := [⟨1, 7, instanceOf vecW 1, 9⟩] } } }

theorem witness_Barriers :
    Ready (barrierW 1 9) ∧ (barrierAt (barrierW 1 9) 1 (instanceOf vecW 1) 7) = ⟨3, 1, 9⟩ ∧ accessesPending (barrierW 1 9) = false ∧
    scalarOk (barrierW 1 9).hart 2 = true ∧ (barrierW 1 9).hart.cfg.vlN ≤ 1024 ∧
    (barrierAt (after (exec (.bara 2 1 7) (barrierW 1 9))) 1 (instanceOf vecW 1) 7) = ⟨3, 0, 10⟩ ∧
    (after (exec (.bara 2 1 7) (barrierW 1 9))).hart.task.tokens = [⟨1, 7, instanceOf vecW 1, 9⟩] ∧
    (barrierAt (after (exec (.bara 3 1 7) (barrierW 0 9))) 1 (instanceOf vecW 1) 7) = ⟨3, 0x2000 - 3, 10⟩ ∧
    (barrierAt (after (exec (.barv 0 1 7) (barrierW 0 9))) 1 (instanceOf vecW 1) 7) = ⟨3, 2, 9⟩ ∧
    (after (exec (.barw 1 7) (barrierW 1 9))).hart.vq.length = 1 ∧ (after (exec (.barw 1 7) (barrierW 0 10))).hart.task.tokens = [] ∧
    (barrierAt (after (exec (.baraInit 2 1 7) (barrierW 0 9))) 1 (instanceOf vecW 1) 7) = ⟨2, 0, 9⟩ ∧
    (let s := putBarrier 5 0 7 ⟨3, 1, 9⟩ vecW; barrierAt (after (exec (.podBarrierMessage 1 7 7) s)) 5 0 7 = ⟨3, 5, 10⟩ ∧
      goes (exec (.podBarrierMessage 0 7 7) s) s = true) := by
  and_intros
  all_goals first | decide +kernel | exact ready_of (by decide +kernel)

/-! ## Tasks and the distributor (R284–R301) -/

theorem settled_of {s : State} (h1 : s.hart.vec.streams = []) (h2 : accessesPending s = false) (h3 : s.myCore.chans = []) :
    Settled s :=
  ⟨fun n => by rw [h1]; rfl, h2, fun c _ _ => by rw [h3]; rfl⟩

/-- The words of a descriptor: entry 0x4000, argument 11, context 0x5000, status 0x6000, no budget, LMIN 8, LPREF 16, 128 rows, …; done at
event 9, no request. -/
def goodTask : List Nat := [0x4000, 11, 0x5000, 0x6000, 0, 8 + 8 * 16 + 128 * 256 + 64 * 65536, 0x08200C0C, 0]
def putWords (a : Nat) (l : List Nat) (s : State) : State :=
  l.zipIdx.foldl (fun (u : State) x => u.putNat (a + 8 * x.2) 8 x.1) s
def spawnW (ws : List Nat) : State := putWords 0x2000 ws (withHart fun h => { h with sregs := [(1, 0x2000), (2, 5), (3, 0x30)] })
def spawnQ : State := (spawnW goodTask).queued (entryOf (spawnW goodTask) (encTspawn 1).toWord 0 (.scalar 1) .none)

/-- A task that is 77, of class 2, with 100 cycles left, whose status record is at 0x6008 and whose end decrements event 9. -/
def taskW : State := { spawnW goodTask with
  hart := { (spawnW goodTask).hart with task := { Task.none with
    desc := { Descriptor.none with stat := 0x6008, doneV := true, doneEv := 9, arg := 11, stv := 1, stg := 3 }, id := 77, cls := 2
    budgetRem := 100, budgetOff := false } }
  time := 30
  dies := [(0, { Die.reset with events := [(9, 3), (5, 1)] })] }

def taskOf (ws : List Nat) : Descriptor := (parseDescriptor (ws.map (BitVec.ofNat 64))).getD Descriptor.none

theorem witness_TaskResults :
    Ready (spawnW goodTask) ∧ Ready taskW ∧ (∀ n ∈ [1, 2], scalarOk taskW.hart n = true) ∧
    (∀ i < 8, MemRead spawnQ .other (0x2000 + BitVec.ofNat 64 (8 * i)) 8 (0x2000 + 8 * i)) ∧ Unlocked spawnQ ∧
    parseDescriptor (goodTask.map (BitVec.ofNat 64)) = some (taskOf goodTask) ∧
    parseDescriptor ((goodTask.set 0 3).map (BitVec.ofNat 64)) = none ∧
    (List.range 8).map (fun i => BitVec.ofNat 64 (spawnQ.memNat (0x2000 + 8 * i) 8)) = goodTask.map (BitVec.ofNat 64) ∧
    stageOk (spawnW goodTask) 0 (taskOf goodTask) = true ∧ (taskOf goodTask).req = 0 ∧ (taskOf goodTask).waitV = false ∧
    eligible (spawnW goodTask) (taskOf goodTask) 0 = true ∧ satisfied ((spawnW goodTask).event 0 5) = true ∧
    satisfied (taskW.event 0 5) = false ∧ 4096 ≤ (scalarVal taskW.hart 1).toNat ∧ rival taskW = false ∧ Settled taskW ∧
    taskW.hart.task.desc.stat.toNat % 8 = 0 ∧ PlainSpan taskW 0x6008 16 ∧ taskW.hart.trap.priv = 2 ∧ taskW.hart.phase ≠ .idle ∧
    accessesPending taskW = false ∧ 61 ∉ (spawnW goodTask).myDie.fenced ∧ 61 ∉ taskW.myDie.fenced := by
  refine ⟨ready_of ?_, ready_of ?_, ?_, ?_, unlocked_of ?_, ?_, ?_, ?_, ?_, ?_, ?_, ?_, ?_, ?_, ?_, ?_, settled_of ?_ ?_ ?_, ?_,
    span_of ?_ ?_ ?_, ?_⟩
  all_goals try decide +kernel
  intro i hi
  have e : 0x2000 + 8 * i = ((0x2000 : Word) + BitVec.ofNat 64 (8 * i)).toNat := by revert i; decide +kernel
  rw [e]
  exact memRead_of (by decide +kernel) (by revert i; decide +kernel)

/-- R286–R300, by hand: ids count up from 1 on die 0; the kind of a status record is 0 for TEXIT and 2 for an abort. -/
theorem test_tasks :
    (let t := after (exec (.tspawn 1) (spawnW goodTask)); ((t.core 0).queue.map fun x => (x.desc.entry, x.cls), q4After (.tspawn 1) (spawnW goodTask)) =
      ([(0x4000, (taskOf goodTask).prio)], [1])) ∧
    q4After (.tspawn 1) (spawnW (goodTask.set 0 3)) = [0x8000000000000002] ∧
    trapped (.twait 1) taskW = (0x001, 0x2000) ∧
    (let t := after (exec (.texit 1) taskW); (t.hart.phase, t.memNat 0x6008 8, t.event 0 9) = (.idle, 0x2000, 2)) ∧
    (after (exec (.texitAbort 1) taskW)).memNat 0x6008 8 = 0x200002000 ∧
    (List.range 5).map (fun n => q4After (.tstat (BitVec.ofNat 3 n)) taskW) = [[77], [11], [70], [30], [0]] ∧
    (let t := after (exec (.evinc 1 2 3) taskW); (t.event 0 5, sparseGet [] t.hart.queues 4) = (0x31, [1])) := by decide +kernel

/-- Two tasks of classes 0 and 2 wait on core 0; the quad holds ten; harts run a task that is to yield. -/
def waiting (id pr : Nat) : Queued := newTask (BitVec.ofNat 32 id)
  { Descriptor.none with entry := 0x4000, ctx := 0x5000, lmin := 1, lpref := 8, prio := BitVec.ofNat 2 pr, rowsN := 64, window := 32 } false 0
def coreQW : State := { State.reset with cores := [(0, { Core.reset with queue := [waiting 7 0, waiting 8 2] })], time := 5 }
def quadQW : State := { State.reset with
  cores := [(0, { Core.reset with queue := [waiting 7 0] })]
  quads := [(0, { Quad.reset with queue := (List.range 10).map fun i => waiting (20 + i) (i % 3) })]
  time := 5 }
def yieldW : State := { State.reset with
  hart := { hartW with
    trap := { hartW.trap with priv := 0, ipend := 4, savearea := 0x100000 }
    sys := { hartW.sys with rowsN := 0, window := 32 }
    task := { Task.none with
      id := 55, cls := 1, budgetOff := false, budgetRem := 1000, budgetFrom := 1000
      desc := { Descriptor.none with entry := 0x4000, ctx := 0x100000, lmin := 1, window := 32 } } }
  time := 400 }
def busyW : State := { yieldW with hart := { yieldW.hart with vq := [waitEntry, waitEntry] } }
def rivalW : State := { yieldW with
  hart := { yieldW.hart with trap := { yieldW.hart.trap with ipend := 0 } }
  time := 2 ^ 24
  cores := [(0, { Core.reset with queue := [waiting 7 3] })] }
def spentW (trap : Bool) : State := { yieldW with
  hart := { yieldW.hart with task := { yieldW.hart.task with
    budgetRem := 0, desc := { yieldW.hart.task.desc with btrap := trap } } }
  time := 0 }
def movingW : State := { State.reset with cores := [(0, { Core.reset with moving := some 0x04100608, sp := [(1, 2)] })] }

theorem witness_DistributorEvents :
    (select coreQW 0).map (fun x => (x.1.id, x.1.resumed, x.1.desc.kcnt)) = some (8, false, 0) ∧
    (match select coreQW 0 with | some (_, .yes) => true | _ => false) = true ∧ (hartsOf 0).find? (fun n => !busy coreQW n) = some 0 ∧
    (quadQW.core 0).queue.length < 4 ∧ (∀ t ∈ (quadQW.core 0).queue, eligible quadQW t.desc 0 = true) ∧
    (quadQW.quad 0).queue.filter (Level.serves (.core 0) quadQW) ≠ [] ∧ victims rivalW 0 = [0] ∧
    yieldW.hart.phase = .running ∧ yieldW.hart.trap.priv ≠ 2 ∧ yieldW.hart.trap.ipend.getLsbD 2 = true ∧ yieldW.hart.vq = [] ∧
    busyW.hart.vq = [waitEntry, waitEntry] ∧ waitEntry.begun = true ∧ loadE.begun = false ∧ Settled yieldW ∧ PlainSpan yieldW 0x100000 0x3600 ∧
    yieldW.hart.sys.rowsN = 0 ∧ yieldW.hart.sys.tilesN = 0 ∧ (∀ r, sparseGet 0 yieldW.hart.vec.high r ≤ 4096) ∧ eligible yieldW yieldW.hart.task.desc 0 = true ∧
    movingW.myCore.moving = some 0x04100608 ∧ (∀ n ∈ hartsOf 0, (movingW.hartAt n).phase = .idle) ∧
    (∀ b, (spentW b).hart.phase = .running ∧ (spentW b).hart.task.budgetOff = false ∧ (spentW b).hart.task.budgetOut = false ∧
      (spentW b).hart.task.budgetRem = 0 ∧ (spentW b).hart.task.desc.btrap = b ∧ (spentW b).hart.task.desc.req = 0) := by
  refine ⟨?_, ?_, ?_, ?_, ?_, ?_, ?_, ?_, ?_, ?_, ?_, ?_, ?_, ?_, settled_of ?_ ?_ ?_, span_of ?_ ?_ ?_, ?_, ?_, fun r => ?_, ?_⟩
  rotate_right 2
  · rw [show yieldW.hart.vec.high = [] from rfl]; exact Nat.zero_le _
  all_goals decide +kernel

/-- The task belongs to request 5, whose word lies outside the area; the request runs, or has failed. -/
def requestW (st : Nat) : State := putWords 0x40028 [st] { yieldW with
  hart := { yieldW.hart with task := { yieldW.hart.task with desc := { yieldW.hart.task.desc with req := 5 } } }
  pkgs := [(0, { Pkg.reset with rqbase := 0x40000 })] }

theorem witness_EndedRequest :
    (∀ st ∈ [1, 3], requestAddr (requestW st) 0 5 + 8 ≤ 0x100000 ∧ requestState (requestW st) 0 5 = st ∧
      (requestW st).hart.task.desc.req = 5 ∧ (requestW st).hart.task.check = false ∧ (requestW st).hart.task.desc.doneV = false) ∧
    Settled (requestW 3) ∧ PlainSpan (requestW 3) 0x100000 0x3600 :=
  ⟨by decide +kernel, settled_of (by decide +kernel) (by decide +kernel) (by decide +kernel),
    span_of (by decide +kernel) (by decide +kernel) (by decide +kernel)⟩

theorem test_distributor :
    (let t := after (exec .taskDispatch coreQW); ((t.hartAt 0).task.id, (t.hartAt 0).fetch.pc, (t.core 0).queue.map Queued.id) = (8, 0x4000, [7])) ∧
    ((after (exec (.queuePull 0) quadQW)).core 0).queue.map Queued.id = [7, 22, 25, 28, 21, 24, 27, 20, 23] ∧
    ((after (exec .aging { coreQW with time := 2 ^ 20 })).core 0).queue.map (fun x => (x.id, x.cls)) = [(7, 1), (8, 3)] ∧
    ((after (exec .preemptTimeout rivalW)).hartAt 0).trap.ipend = 4 ∧
    (after (exec .budgetExhausted yieldW)).hart.task.budgetRem = 600 ∧
    (after (exec .budget (spentW true))).hart.trap.cause = 0x00B ∧ (after (exec .budget (spentW false))).hart.phase = .idle := by
  decide +kernel

/-! ## Stage queues (R304–R310) -/

/-- A queue from stage 1 to stage 2: up to four records of four bytes, three ends of stream to come. -/
def stageQ (recs : List (List Byte)) : StageQueue := ⟨1, 2, 2, 4, 3, recs, 0, 0, []⟩
def stageW (stage : Nat) (x : StageQueue) : State := { withHart fun h => { h with
    sregs := [(1, 2)]
    cfg := { h.cfg with rc := 1, vl := 4 }
    vec := { h.vec with rows := rowOf 5 32 [0x01020304, 0x05060708, 0x090A0B0C] }
    task := { h.task with desc := { h.task.desc with stv := true, stg := BitVec.ofNat 4 stage } } } with
  dies := [(0, { Die.reset with squeues := [x, x], stages := [⟨Descriptor.none, 1⟩, ⟨Descriptor.none, 1⟩, ⟨Descriptor.none, 1⟩] })] }

theorem witness_StageQueueResults : Ready (stageW 1 (stageQ [])) ∧ scalarOk (stageW 1 (stageQ [])).hart 1 = true ∧
    (stageW 1 (stageQ [])).myDie.squeues[1]? = some (stageQ []) ∧ PlainTile (stageW 1 (stageQ [])) 5 ∧
    accessesPending (stageW 1 (stageQ [])) = false ∧ Ready (stageW 2 (stageQ [[1, 2, 3, 4]])) ∧ PlainTile (stageW 2 (stageQ [])) 5 ∧
    SaveAreaOk (stageW 2 (stageQ [])) ∧ (stageQ []).marks = [] ∧ (∀ n ∈ [1, 2], 61 ∉ (stageW n (stageQ [])).myDie.fenced ∧
      1 ∉ (stageW n (stageQ [])).myDie.fencedQueues) :=
  ⟨ready_of (by decide +kernel), by decide +kernel, by decide +kernel, plain_of (by decide +kernel), by decide +kernel,
    ready_of (by decide +kernel), plain_of (by decide +kernel), by unfold SaveAreaOk; decide +kernel, rfl, by decide +kernel⟩

theorem test_stage_queues :
    ((after (exec (.qpush 5 1 1 1) (stageW 1 (stageQ [[9, 9, 9, 9]])))).myDie.squeues[1]?.map fun x => (x.records, x.eosLeft)) =
      some ([[9, 9, 9, 9], [4, 3, 2, 1], [8, 7, 6, 5]], 2) ∧
    (let t := after (exec (.qpop 5 1 1) (stageW 2 (stageQ [[1, 2, 3, 4], [5, 6, 7, 8], [9, 9, 9, 9]]))); (t.myDie.squeues[1]?.map StageQueue.records,
      sparseGet [] t.hart.queues 4, rowElem t.hart.vec 5 0 32, rowElem t.hart.vec 5 1 32) =
        (some [[9, 9, 9, 9]], [2], 0x04030201, 0x08070605)) ∧
    trapped (.qpush 5 1 0 1) (stageW 2 (stageQ [])) = (0x10E, 1 + 256 * 7) := by decide +kernel

/-- R352, R212: with a lagging vector unit the end of stream is counted in a turn after the last records stand in the queue; a fenced
queue, and a fenced L2, raise MCE. -/
theorem test_stage_turns :
    (let s := { stageW 1 (stageQ []) with lag := true }
     let t := (executeOldest.exec (after (exec (.qpush 5 1 1 1) s))).2
     let u := (executeOldest.exec t).2
     ([t, u].map fun s => (s.myDie.squeues[1]?.map fun x => (x.records.length, x.eosLeft), s.hart.vq.length)) =
       [(some (2, 3), 1), (some (2, 2), 0)]) ∧
    (let s := stageW 1 (stageQ [])
     let d := s.myDie
     trapped (.qpush 5 1 1 1) { s with dies := [(0, { d with fencedQueues := [1] })] } = (0x11F, 1) ∧
     trapped (.ldd 5 3 0) { s with hart := hartW, dies := [(0, { d with fenced := [60] })] } = (0x01F, 0x2000)) := by decide +kernel

/-- Queue 0 from stage 0 to 1 is full, queue 1 from stage 1 to 0 empty; cores 0 to 2 serve stage 0, core 3 stage 1. -/
def cinchW (en : BitVec 1) (last : Nat) : State := { State.reset with
  dies := [(0, { Die.reset with
    cinchEn := en, stages := [⟨Descriptor.none, 1⟩, ⟨Descriptor.none, 1⟩], cinchLast := BitVec.ofNat 64 last
    stageOf := [(0, some 0), (1, some 0), (2, some 0), (3, some 1)]
    squeues := [⟨0, 1, 2, 4, 3, List.replicate 4 [1, 2, 3, 4], 4, 229376, []⟩, ⟨1, 0, 2, 4, 3, [], 4, 0, []⟩] })]
  time := 2 ^ 17 + 77 }

theorem witness_CinchEvents : donor (cinchW 1 0).myDie = some 0 ∧ recipient (cinchW 1 0).myDie = some 1 ∧
    bitOf (cinchW 1 0).myDie.cinchLast.toNat 9 = false ∧ (cinchW 1 0).myDie.stages ≠ [] ∧
    (cinchW 1 0).myDie.cinchTime + 2 ^ (cinchW 1 0).myDie.cinchIvl.toNat ≤ (cinchW 1 0).time ∧
    bitOf (cinchW 1 (2 ^ 9 + 2 ^ 10 * 2 + 16)).myDie.cinchLast.toNat 9 = true ∧
    (∀ n ∈ hartsOf 2, ((cinchW 1 (2 ^ 9 + 2 ^ 10 * 2 + 16)).hartAt n).phase = .idle) := by decide +kernel

theorem test_cinch :
    (after (exec .cinchSample (cinchW 1 0))).myDie.squeues.map (fun q => (q.samples, q.sum)) = [(5, 229376 + 65536), (5, 0)] ∧
    bitsOf (after (exec .cinchInterval (cinchW 1 0))).myDie.cinchLast.toNat 15 10 = 2 ∧
    sparseGet none (after (exec .cinchMoveComplete (cinchW 1 (2 ^ 9 + 2 ^ 10 * 2 + 16)))).myDie.stageOf 2 = some 1 := by
  decide +kernel

/-! ## Row gathers (R324–R328) -/

/-- A table of six rows of R bytes at 0x3000, the row numbers in v1; the mask is 1011. -/
def gatherW (r : Nat) (idx : List Nat) : State := putWords 0x3000 [0x5556575851525354, 0x4546474841424344, 0x3536373831323334,
    0x2526272821222324, 0x1516171811121314, 0x0506070801020304]
  (withHart fun h => { h with
    sregs := [(4, 0x3000), (5, BitVec.ofNat 64 (r + 2 ^ 16 * 6))]
    cfg := { h.cfg with rc := 1, vl := 4 }
    vec := { h.vec with preds := [(0, 0xB)], rows := rowOf 1 32 idx ++ rowOf 5 32 [1, 2, 3, 4, 5, 6, 7, 8] } })
def gatherQ (w' : RWord) : State := (gatherW 8 [1, 3, 1, 5]).queued (entryOf (gatherW 8 [1, 3, 1, 5]) w'.toWord 0 .none (.pair 4))
def gatherAt (i k : Nat) : Word := 0x3000 + BitVec.ofNat 64 (i * 8 + 4 * k)

/-- Rows 1, 3 and 5 are named by active elements; row 1 once (element 2 is masked). -/
theorem witness_GatherResults :
    GatherOk (gatherW 8 [1, 3, 1, 5]) 1 4 8 0 6 ∧ MaskOk (gatherW 8 [1, 3, 1, 5]) 1 ∧
    PlainRows (gatherW 8 [1, 3, 1, 5]) 5 1 ∧
    (List.range 4).filter (activeAt (gatherW 8 [1, 3, 1, 5]) 1) = [0, 1, 3] ∧
    Unlocked (gatherQ (encRgather 5 1 4 1)) ∧
    (∀ x ∈ [1, 3, 5], ∀ y < 2, MemRead (gatherQ (encRgather 5 1 4 1)) .other (gatherAt x y) 4 (gatherAt x y).toNat ∧
      Reaches .store .other (gatherQ (encRscat 5 1 4 1)) (gatherAt x y) 4 (gatherAt x y).toNat ∧
      Reaches .atomic .other (gatherQ (encRscatadd 5 1 4 1)) (gatherAt x y) 4 (gatherAt x y).toNat) ∧
    (withHart fun h => { h with pendMce := [7, 8] }).hart.pendMce = [7, 8] := by
  refine ⟨⟨tiles_of ?_, ?_, ⟨?_, ?_⟩, ?_, ?_, ?_, ?_, ?_⟩, fun _ => ?_, plainRows_of ?_, ?_, unlocked_of ?_, ?_, rfl⟩
  rotate_right
  all_goals try decide +kernel
  intro x hx y hy
  refine ⟨memRead_of (by decide +kernel) ?_, reaches_eq ?_, reaches_eq ?_⟩ <;> revert y <;> revert x <;> decide +kernel

theorem test_gathers :
    (let t := after (exec (.rgather 5 1 4 1) (gatherW 8 [1, 3, 1, 5])); (List.range 8).map (fun k => rowElem t.hart.vec 5 k 32) =
      [0x41424344, 0x45464748, 0x21222324, 0x25262728, 5, 6, 0x01020304, 0x05060708]) ∧
    (let t := after (exec (.rscat 5 1 4 0) (gatherW 8 [1, 3, 1, 5])); ((List.range 6).map fun k => t.memNat (0x3000 + 8 * k) 8,
      t.hart.gathered) = ([0x5556575851525354, 0x600000005, 0x3536373831323334, 0x400000003, 0x1516171811121314, 0x800000007],
        0x300000004)) ∧
    (after (exec (.rscatadd 5 1 4 0) (gatherW 8 [1, 3, 1, 5]))).memNat 0x3008 8 = 0x454647504142434A ∧
    trapped .deferredMce (withHart fun h => { h with pendMce := [7, 8] }) = (0x11F, 7) := by decide +kernel

/-! ## Near-data work (R359–R360, R385–R393) -/

/-- A ring of slots at offset 0x1000 of the own scratchpad. -/
def ringCore (cap slot : Nat) : Core :=
  { Core.reset with sp := ((State.putSp State.reset 0 0x1000 16 (cap + 2 ^ 16 * slot)).core 0).sp }

/-- SHLST with the strip 1, 2, −2, 2 in v1; the control word; a ring at 0x801000. -/
def shortW (ctl : Nat) (slots : Sparse (Option Slot)) : State := { withHart fun h => { h with
    sregs := [(4, 0x4000), (5, BitVec.ofNat 64 ctl), (6, 32), (7, BitVec.ofNat 64 (2 ^ 63 + 0x801000))]
    cfg := { h.cfg with rc := 1, vl := 4, etype := 5 }
    vec := { h.vec with preds := [(0, 0xB)], rows := rowOf 1 32 [0x3F800000, 0x40000000, 0xC0000000, 0x40000000] }
    task := { h.task with id := 55 } } with
  cores := [(0, ringCore 4 64)], dies := [(0, { Die.reset with slots := slots })] }
def shortQ (ctl : Nat) : State :=
  (shortW ctl []).queued (entryOf (shortW ctl []) (encShlst 1 4 6 1).toWord 0 (.pair 4) (.pair 6))

/-- A table of three pages at 0x2000 and a stage-2 table at 0x9000; v1 names pages 0, 2, 1. -/
def pageW (es s2 : List Nat) (m : Nat) : State :=
  putWords 0x9000 s2 (putWords 0x2000 es { withHart fun h => { h with
    sregs := [(4, 0x2000), (5, 1), (6, 0x2000), (7, BitVec.ofNat 64 (2 ^ 63 + 0x801000 + 2 ^ 32 * 3))]
    cfg := { h.cfg with rc := 1, vl := 3, etype := 4 }
    vec := { h.vec with preds := [(0, BitVec.ofNat 1024 m)], rows := rowOf 1 32 [0, 2, 1] ++ rowOf 5 32 [9, 9, 9] } } with
  cores := [(0, ringCore 4 64)]
  pkgs := [(0, { Pkg.reset with kv2base := 0x9000, kv2count := 16, kv2bs := 1, kvhstk := 0xA000, kvcstk := 0xB000 })] })
def mappedW : State := pageW [1 + 2 ^ 16 * 3, 1 + 2 ^ 16 * 5, 1] [0x7001, 0, 0, 0x8001, 0, 0x1001] 7
def pageQ (s : State) : State := s.queued (entryOf s (encKvxlt 5 1 6 1).toWord 0 .none (.pair 6))

/-- A speculative entry with a count. -/
def specEntry (spec cnt g : Nat) : Nat := 1 + 8 * spec + 32 * cnt + 2 ^ 16 * g
def trimW (es s2 : List Nat) (n b : Nat) : State := { pageW es s2 7 with hart := { (pageW es s2 7).hart with
  sregs := [(4, 0x2000), (5, BitVec.ofNat 64 n), (6, BitVec.ofNat 64 b)] } }
def trimQ (s : State) (w' : RWord) : State := s.queued (entryOf s w'.toWord 0 (.pair 4) (.scalar 6))

/-- A page-in of block 3, whose frame lies at 0x8000, into the frame that was popped when it began, if one was. -/
def pageInW (frame : Option Word) : State :=
  let s := pageW [] [0, 0, 0, 0x8000 + 1 + 4 + 8 + 32] 7;
  putWords 0x8000 [0x1122334455] (putWords 0xB000 [1, 10]
    { s with pkgs := [(0, { s.pkg 0 with pageIns := [⟨3, frame, 0, [], 0, none⟩] })] })

theorem witness_NearResults :
    TilesOk (shortW 0x213 []) 1 [1] (.vi 0) ∧ (shortW 0x213 []).hart.cfg.et = 5 ∧ CapOk (shortW 0x213 []).hart (.pair 4) ∧
    CapOk (shortW 0x213 []).hart (.pair 6) ∧ Unlocked (shortQ 0x213) ∧
    (shCheck 4 6 (entryOf (shortW 0x213 []) (encShlst 1 4 6 1).toWord 0 (.pair 4) (.pair 6))).exec (shortQ 0x213) = (.ok (), shortQ 0x213) ∧
    (∀ j < 4, activeAt (shortW 0x213 []) 1 j = true →
      memOk .store .other (shortQ 0x213) (0x4000 + BitVec.ofNat 64 (4 * j)) 4 = true) ∧
    shLast 0x213 = false ∧ shLast 0x233 = true ∧
    TilesOk mappedW 1 [1, 5, 6] (.vi 0) ∧ CapOk mappedW.hart (.pair 6) ∧ ringAddrBad (pageQ mappedW) (2 ^ 63 + 0x801000) = false ∧
    (match (needRing (ringOf (BitVec.ofNat 64 (2 ^ 63 + 0x801000 + 2 ^ 32 * 3))) 6).exec (pageQ mappedW) with
      | (.ok x, u) => decide (u = pageQ mappedW ∧ 3 ≤ x.2.2.free)
      | _ => false) = true ∧
    (∀ x ∈ [(0, 1 + 2 ^ 16 * 3), (1, 1 + 2 ^ 16 * 5), (2, 1)], answers (readLocal (localAt 0x2000 x.1) .load) (pageQ mappedW) (0x2000 + 8 * x.1, x.2) = true) ∧
    Ready (trimW [specEntry 1 4 3] [] 1 7) ∧ CapOk (trimW [specEntry 1 4 3] [] 1 7).hart (.pair 4) ∧
    MemRead (trimQ (trimW [specEntry 1 4 3] [] 1 7) (encKvcommit 4 6)) .other 0x2000 8 0x2000 ∧
    MemWrite (trimQ (trimW [specEntry 1 4 3] [] 1 7) (encKvcommit 4 6)) .other 0x2000 8 0x2000 ∧
    kvMapped (specEntry 1 4 3) = true ∧ kvSpec (specEntry 1 4 3) = true ∧ kvCnt (specEntry 1 4 3) = 4 ∧
    (let q := trimQ (trimW [specEntry 1 9 3] [0, 0, 0, 0x8021] 1 0) (encKvcommit 4 6);
      allocated (stage2 q 0 3) = true ∧ stage2Shared (stage2 q 0 3) = 2 ∧ stage2At q 0 3 = some 0x9018) ∧
    (let q := trimQ (trimW [specEntry 0 0 3] [0, 0, 0, 0x8021] 0x3000 1) (encKvfork 4 6);
      answers (forkCheck 4 0x2000 0x3000 0) q (0x2000, 0x3000, specEntry 0 0 3) = true) ∧
    ((pageInW none).myPkg.pageIns[0]? = some ⟨3, none, 0, [], 0, none⟩ ∧ stage2At (pageInW none) 0 3 = some 0x9018) ∧
    ((pageInW (some 0x20000)).myPkg.pageIns[0]? = some ⟨3, some 0x20000, 0, [], 0, none⟩ ∧
      stage2At (pageInW (some 0x20000)) 0 3 = some 0x9018 ∧
      ∀ y ∈ [0x20000, 0x20FFF, 0x8000, 0x8FFF], absent (pageInW (some 0x20000)) 0 y = false ∧
      fencedSpan (pageInW (some 0x20000)) (y / 4096 * 4096) 4096 = false) ∧
    (pageInW none).memNat 0xB000 8 = 1 ∧ (pageInW none).memNat 0xB008 8 = 10 ∧
    Apart [(0x9018, 8), (0xB000, 24 + 8), (0x20000, 4096), (0x8000, 4096)] ∧
    (needResolved 0x2000 (specEntry 1 4 3)).exec (trimQ (trimW [specEntry 1 4 3] [] 1 7) (encKvcommit 4 6)) =
      (.ok (), trimQ (trimW [specEntry 1 4 3] [] 1 7) (encKvcommit 4 6)) :=
  by
  refine ⟨tiles_of ?_, ?_, ⟨?_, ?_⟩, ⟨?_, ?_⟩, unlocked_of ?_, answers_eq ?_, ?_, ?_, ?_, tiles_of ?_, ⟨?_, ?_⟩, ?_, ?_, ?_,
    ready_of ?_, ⟨?_, ?_⟩, memRead_of ?_ ?_, memWrite_of ?_, ?_, ?_, ?_, ?_, ?_, ?_, ?_, ?_, ?_, ?_, answers_eq ?_⟩
  all_goals try unfold Apart
  all_goals decide +kernel

/-- The same page-in with a miss of page 1 waiting; where its copy has ended, the record is still to be sent. -/
def missW (frame : Option Word) (ended : Option (Nat × Word)) : State :=
  let s := pageInW frame
  { s with pkgs := [(0, { s.pkg 0 with pageIns := [⟨3, frame, 0, [⟨1, 0x801000, 0, 0x2008, 0⟩], 0, ended⟩] })] }

theorem witness_PageInMisses :
    (missW none none).myPkg.pageIns[0]? = some ⟨3, none, 0, [⟨1, 0x801000, 0, 0x2008, 0⟩], 0, none⟩ ∧
    (missW (some 0x20000) none).myPkg.pageIns[0]? = some ⟨3, some 0x20000, 0, [⟨1, 0x801000, 0, 0x2008, 0⟩], 0, none⟩ ∧
    (missW none (some (3, 0x20000))).myPkg.pageIns[0]? = some ⟨3, none, 0, [⟨1, 0x801000, 0, 0x2008, 0⟩], 0, some (3, 0x20000)⟩ ∧
    stage2At (missW none none) 0 3 = some 0x9018 ∧ stage2At (missW (some 0x20000) none) 0 3 = some 0x9018 ∧
    Apart ([(0x9018, 8), (0xB000, 24 + 8), (0x20000, 4096), (0x8000, 4096)] ++ [(0x2008, 8)]) ∧
    (missW (some 0x20000) none).memNat 0xB000 8 = 1 ∧ (missW (some 0x20000) none).memNat 0xB008 8 = 10 ∧
    (∀ y ∈ [0x20000, 0x20FFF, 0x8000, 0x8FFF], absent (missW (some 0x20000) none) 0 y = false ∧
      fencedSpan (missW (some 0x20000) none) (y / 4096 * 4096) 4096 = false) ∧
    ((postRecord 0 0x801000 (eventBytes 1 3 0x20000)).exec (missW none (some (3, 0x20000)))).1.toOption = some true ∧
    (∀ k < 3, activeAt (pageW [1, 1, 1] [] 2) 1 k = decide (k = 1)) ∧ Unlocked (pageQ (pageW [1, 1, 1] [] 2)) := by
  refine ⟨?_, ?_, ?_, ?_, ?_, ?_, ?_, ?_, ?_, ?_, ?_, unlocked_of ?_⟩
  all_goals try unfold Apart
  all_goals decide +kernel

/-- R391: the record that waited is in the ring, and the page-in leaves. -/
theorem test_page_in_record :
    (let t := after (exec (.pageInComplete 0) (missW none (some (3, 0x20000)))); (t.myPkg.pageIns, t.spNat 0 0x1020 4)) = ([], 1) := by
  decide +kernel

/-- By hand: frames of the pages 0, 2, 1; entry words after a commit and a roll back to 7 of 9 tokens; a fork; a page moved in. -/
theorem test_near :
    (let t := after (exec (.kvxlt 5 1 6 1) mappedW); ((List.range 3).map (fun j => rowElem t.hart.vec 5 j 32), sparseGet [] t.hart.queues 4) =
      ([0x8000, 0x7000, 0x1000], [0])) ∧
    (let f (i : Instr) (n b : Nat) := (let t := after (exec i (trimW [specEntry 1 9 3] [0, 0, 0, 0x8021] n b));
      (t.memNat 0x2000 8, t.memNat 0x9018 8, sparseGet [] t.hart.queues 4));
      f (.kvcommit 4 6) 1 9 = (specEntry 0 9 3, 0x8021, [0]) ∧ f (.kvcommit 4 6) 1 7 = (specEntry 0 7 3, 0x8021, [2 ^ 32]) ∧
      f (.kvroll 4 6) 1 7 = (specEntry 1 7 3, 0x8021, [2 ^ 32]) ∧ f (.kvroll 4 6) 1 0 = (0, 0x8011, [1])) ∧
    (let t := after (exec (.kvfork 4 6) (trimW [specEntry 0 0 3] [0, 0, 0, 0x8021] 0x3000 1)); (t.memNat 0x2000 8, t.memNat 0x3000 8, t.memNat 0x9018 8) =
      (specEntry 0 0 3 + 16, specEntry 0 0 3 + 16, 0x8031)) := by decide +kernel

/-- R386, by hand: elements 0, 1 and 3 are stored; of the values 1, 2, 2 the greatest K = 2 stay, with their indexes from 32 on. -/
theorem test_shortlist :
    (let t := after (exec (.shlst 1 4 6 1) (shortW (3 + 16 + 2 * 256) [])); ((List.range 4).map fun j => t.memNat (0x4000 + 4 * j) 4) =
      [0x3F800000, 0x40000000, 0, 0x40000000] ∧
      (sparseGet none t.myDie.slots 3).map Slot.list = some [(0x40000000, 33), (0x40000000, 35)] ∧ t.hart.vq = []) := by decide +kernel

/-! ## Multicast and collectives (R379–R384) -/

/-- Packages 0, 1 and 2 are in the pod; the replicas s5 names. -/
def castW (b : Nat) : State := { vecW with
  hart := { vecW.hart with cfg := { vecW.hart.cfg with rc := 1 }, sregs := [(4, 0x2000), (5, BitVec.ofNat 64 b)] }
  pkgs := [(0, { Pkg.reset with podmap := 7 })] }
def castQ : State := (castW 5).queued (entryOf (castW 5) (encMcst 1 4 5 1).toWord 0 (.scalar 4) (.scalar 5))

/-- A record of members 0 and 1: the sum of N INT32 from a send buffer into a receive buffer, tag 77. -/
def collWords (send recv n : Nat) : List Nat := [send, 0, recv, 0, n, 3 * 256, 3, 0, 77, 0, 0, 0]
def collW : State := { vecW with hart := { vecW.hart with
  cfg := { vecW.hart.cfg with rc := 1, vl := 4 }
  sregs := [(4, 0), (5, 0)]
  vec := { vecW.hart.vec with rows := rowOf 9 32 (collWords 0x2000 0x3000 2) } } }
def collQ : State := collW.queued (entryOf collW (encColl 9 4).toWord 0 (.pair 4) .none)
def waitcW (l : List (BitVec 16 × Option (BitVec 8))) : State :=
  { collW with hart := { collW.hart with colls := l, sregs := [(4, 5)] } }

/-- Collective 5 of hart 0 on package 0, and collectives of hart 770 on package 1. -/
def joinedRecord (send recv n : Nat) : List (BitVec 32) := (collWords send recv n ++ [0, 0, 0, 0]).map (BitVec.ofNat 32)
def joined (id : BitVec 16) (hart : Nat) (r : List (BitVec 32)) : Collective := ⟨id, hart, r, ⟨0, 0, 0, 0⟩, 0x1000, 2, none⟩
def joinW (ys : List Collective) : State :=
  putWords 0x4000 [8 + 2 ^ 32 * 3] (putWords 0x2000 [7 + 2 ^ 32 * 0xFFFFFFFF] { State.reset with
    hart := { hartW with colls := [(5, none)] }
    others := [(770, { hartW with colls := [(9, none)] })]
    pkgs := [(0, { Pkg.reset with podmap := BitVec.allOnes 64, colls := [joined 5 0 (joinedRecord 0x2000 0x3000 2)] }),
      (1, { Pkg.reset with podmap := BitVec.allOnes 64, colls := ys })] })
def bothW (n : Nat) : State := joinW [joined 9 770 (joinedRecord 0x4000 0x5000 n), joined 10 770 []]

theorem engineSpan_of {s : State} {hart : Nat} {a : Word} {n : Nat} (h1 : (s.die (dieOf hart)).ptEn = 0 ∧ (s.hartAt hart).unanswered = none)
    (h2 : s.poison = [])
    (h3 : a.toNat + n ≤ 2 ^ 52 ∧ ∀ k < n, absent s (pkgOf hart) (a.toNat + k) = false ∧ isControlWindow (a.toNat + k) = false ∧
      fencedAt s (a.toNat + k) = false) :
    EngineSpan s hart 2 a n :=
  ⟨h1.1, h1.2, rfl, h3.1, by simp [Clean, h2], fun x hx hy => by
    have := h3.2 (x - a.toNat) (by omega); rwa [Nat.add_sub_of_le hx] at this⟩

theorem witness_FabricResults :
    TilesOk (castW 5) 1 [1] (.vi 0) ∧ (∀ n ∈ [4, 5], scalarOk (castW 5).hart n = true) ∧
    (List.range 64).filter (fun p => (5 : Word).getLsbD p) = [0, 2] ∧ (∀ p ∈ [0, 2], reachable (castW 5) 0 p = true) ∧ Unlocked castQ ∧
    (∀ j < 3, memOk .store .other castQ (0x2000 + BitVec.ofNat 64 (4 * j)) 4 = true ∧
      ∀ p ∈ [0, 2], absent (castW 5) 0 (0x2000 + 4 * j + p * 2 ^ 46) = false ∧
        fencedAt (castW 5) (0x2000 + 4 * j + p * 2 ^ 46) = false) ∧
    reachable (castW 13) 0 3 = false ∧ SaveAreaOk (castW 13) ∧
    Ready collW ∧ CapOk collW.hart (.pair 4) ∧ RowsIn collW 9 1 ∧ Unbound collW 9 ∧ accessesPending collW = false ∧
    collBad 0 (rowRecordOf collW 9) = none ∧ (needCompletion (0, 0) 4 true).exec collQ = (.ok ⟨0, 0, 0, 0⟩, collQ) ∧
    (needCompletionRing 4 ⟨0, 0, 0, 0⟩).exec collQ = (.ok (), collQ) ∧ collOf collW 0 (collTag (rowRecordOf collW 9)) = none ∧
    Ready (waitcW []) ∧ collStatus (waitcW [(5, some 0), (5, some 3)]) 0 5 = some 3 ∧
    collStatus (waitcW [(5, some 0), (5, none)]) 0 5 = none ∧
    collMembers (joinedRecord 0x2000 0x3000 2) = [0, 1] ∧ (∀ p ∈ [0, 1], reachable (bothW 2) 0 p = true) ∧
    collOf (joinW []) 1 (collTag (joinedRecord 0x2000 0x3000 2)) = none ∧
    (collOf (bothW 2) 1 (collTag (joinedRecord 0x2000 0x3000 2))).map (fun y => (y.id, y.hart, y.comp.kind)) = some (9, 770, 0) ∧
    (∀ n ∈ [0, 770], ((bothW 2).hartAt n).unanswered = none) ∧
    collDiffers (joinedRecord 0x2000 0x3000 2) (joinedRecord 0x4000 0x5000 2) = false ∧
    collDiffers (joinedRecord 0x2000 0x3000 2) (joinedRecord 0x4000 0x5000 3) = true ∧
    EngineSpan (bothW 2) 0 2 0x2000 8 ∧ EngineSpan (bothW 2) 0 2 0x3000 8 ∧ EngineSpan (bothW 2) 770 2 0x4000 8 ∧
    EngineSpan (bothW 2) 770 2 0x5000 8 ∧ Apart [(0x3000, 8), (0x5000, 8)] :=
  by
  refine ⟨tiles_of ?_, ?_, ?_, ?_, unlocked_of ?_, ?_, ?_, ?_, ready_of ?_, ⟨?_, ?_⟩, rows_of ?_, free_of ?_, ?_, ?_, answers_eq ?_,
    answers_eq ?_, ?_, ready_of ?_, ?_, ?_, ?_, ?_, ?_, ?_, ?_, ?_, ?_, engineSpan_of ?_ ?_ ?_, engineSpan_of ?_ ?_ ?_,
    engineSpan_of ?_ ?_ ?_, engineSpan_of ?_ ?_ ?_, ?_⟩
  all_goals try unfold Apart
  all_goals try unfold SaveAreaOk
  all_goals decide +kernel

/-- Package 1 has not issued the collective and is lost. -/
def lostW : State := { joinW [] with pkgs := [(0, { (joinW []).pkg 0 with podmap := 1 }), (1, (joinW []).pkg 1)] }

theorem witness_Engine :
    (let r := joinedRecord 0x2000 0x3000 2;
      collMask (joinedRecord 0x4000 0x5000 2) = collMask r ∧ unitBytes r (sendUnits r 0) = 8 ∧ unitBytes r (recvUnits r) = 8 ∧
      collOp r = 0 ∧ collKind r = 0 ∧ collType r = 3 ∧ collSend r ≠ 0) ∧
    collMembers (joinedRecord 0x2000 0x3000 2) = [0, 1] ∧ reachable lostW 0 1 = false ∧
    (collOf lostW 0 77).map (fun y => (y.id, y.hart, y.comp.kind)) = some (5, 0, 0) ∧ collOf lostW 1 77 = none := by decide +kernel

/-- By hand: an element at every replica; a bad replica; the delivered statuses; members that disagree. -/
theorem test_multicast :
    (let t := after (exec (.mcst 1 4 5 1) (castW 5)); (t.memNat 0x2000 4, t.memNat (0x2000 + 2 * 2 ^ 46) 4, t.memNat 0x2004 4) = (1, 1, 0)) ∧
    trapped (.mcst 1 4 5 1) (castW 13) = (0x106, 13) := by decide +kernel
theorem test_coll : q4After (.coll 9 4) collW = [collW.myPkg.collSeq.zeroExtend 64] ∧
    q4After (.cwaitc 4) (waitcW []) = [255] ∧ q4After (.cwaitc 4) (waitcW [(5, some 0), (5, some 3)]) = [3] := by decide +kernel
theorem test_engine :
    (after (exec (.collCompletion 0) (bothW 3))).hart.colls = [(5, some 3)] ∧
    (after (exec (.collCompletion 0) (joinW []))).hart.colls = [(5, none)] ∧
    (after (exec (.collCompletion 0) lostW)).hart.colls = [(5, some 4)] := by decide +kernel

/-! ## The Skiver (R396–R406) -/

/-- Entries at 0x3000; s4 names the sketch, s5 the entries, s6 how many. -/
def sketchW (b skm a1 : Nat) (ents : List Nat) : State := putWords 0x3000 ents (withHart fun h => { h with
  sregs := [(4, 0x2000), (5, BitVec.ofNat 64 a1), (6, BitVec.ofNat 64 b)]
  sys := { h.sys with skm := BitVec.ofNat 64 skm, skrmax := 2, skmmax := 12 } })
def freshW : State := sketchW 2 6 0x3000 [11, 12, 21, 22]
/-- Two entries in a sketch of six cells at 0x2000; the same with s5 naming 0x9000; a sketch of one of them at 0x4000. -/
def builtW : State := after (execSkbld 0 0 4 6 freshW)
def peelW : State := { builtW with hart := { builtW.hart with sregs := [(4, 0x2000), (5, 0x9000), (6, 5)] } }
def twoW : State :=
  let t := after (execSkbld 0 0 4 6 { builtW with hart := { builtW.hart with sregs := [(4, 0x4000), (5, 0x3010), (6, 1)] } });
  { t with hart := { t.hart with sregs := [(4, 0x2000), (5, 0x9000), (6, 0x4000)] } }

/-- Class 1 of packages 0 and 1: entries, records of 8 bytes, a work area; class 2 is in no table. -/
def className (ents n r recs work : Nat) : List Nat := [ents, n + 2 ^ 32 * r, recs, work, 1, 0, 0, 0]
def reconW (e1 e2 : List (Nat × Nat)) : State :=
  putWords 0x50040 (className 0x51000 e2.length 8 0x52000 0x53000) (putWords 0x40040 (className 0x41000 e1.length 8 0x42000 0x43000)
    (putWords 0x41000 (e1.flatMap fun x => [x.1, x.2]) (putWords 0x51000 (e2.flatMap fun x => [x.1, x.2])
      { withHart fun h => { h with
        sregs := [(4, 0x101), (5, 0x90000), (6, 4)]
        sys := { h.sys with skm := 6, skrmax := 2, skmmax := 12 } } with
      pkgs := [(0, { Pkg.reset with podmap := 3, skctab := 0x40000 }), (1, { Pkg.reset with skctab := 0x50000 })] })))

theorem sketch_of {q : State} {a m : Nat} (h1 : skSize m = true ∧ a % 8 = 0 ∧ a < 2 ^ 32 ∧ m ≤ 100) (h2 : q.poison = [])
    (h3 : answers (translateSpan .load (BitVec.ofNat 64 a) (16 + 24 * m)) q () = true)
    (h4 : ∀ i < 2 + 3 * m, memOk .load .other q (BitVec.ofNat 64 a + BitVec.ofNat 64 (8 * i)) 8 = true) :
    SketchAt q (BitVec.ofNat 64 a) (fun i => a + 8 * i) m where
  size := h1.1
  aligned := by simp; omega
  mapped := answers_eq h3
  reads := fun i hi => by
    have e : a + 8 * i = (BitVec.ofNat 64 a + BitVec.ofNat 64 (8 * i)).toNat := by simp; omega
    simp only [e]; exact memRead_of h2 (h4 i hi)
  lone := by intros; omega

theorem witness_SkiverResults :
    Ready freshW ∧ CapOk freshW.hart (.pair 4) ∧ scalarOk freshW.hart 6 = true ∧
    SketchAt (freshW.queued (entryOf freshW (encSkbld 0 0 4 6).toWord 0 (.pair 4) (.scalar 6))) (BitVec.ofNat 64 0x2000) (fun i => 0x2000 + 8 * i) 6 ∧
    SketchAt (peelW.queued (entryOf peelW (encSkpeel 0 4 6).toWord 0 (.pair 4) (.scalar 6))) (BitVec.ofNat 64 0x2000) (fun i => 0x2000 + 8 * i) 6 ∧
    headerIn peelW (fun i => 0x2000 + 8 * i) 6 ∧ headerIn twoW (fun i => 0x2000 + 8 * i) 6 ∧ headerIn twoW (fun i => 0x4000 + 8 * i) 6 ∧
    answers (translateSpan .store 0x9000 (24 * 5)) peelW () = true ∧
    (peel 5 (cellsIn peelW (fun i => 0x2000 + 8 * i) 6)).2.2 = 0 ∧
    Ready (reconW [] []) ∧ CapOk (reconW [] []).hart (.pair 4) ∧ reachable (reconW [] []) 0 1 = true ∧
    (readClass 0 2).exec (reconW [] []) = (.ok none, reconW [] []) :=
  ⟨ready_of (by decide +kernel), ⟨by decide +kernel, by decide +kernel⟩, by decide +kernel,
    sketch_of (by decide +kernel) (by decide +kernel) (by decide +kernel) (by decide +kernel),
    sketch_of (by decide +kernel) (by decide +kernel) (by decide +kernel) (by decide +kernel), by unfold headerIn; decide +kernel,
    by unfold headerIn; decide +kernel, by unfold headerIn; decide +kernel, by decide +kernel, by decide +kernel,
    ready_of (by decide +kernel), ⟨by decide +kernel, by decide +kernel⟩, by decide +kernel, answers_eq (by decide +kernel)⟩

/-- The peer holds the key 11 and this package does not. -/
def peerW : State := putWords 0x52000 [0x77] (reconW [] [(11, 12)])
def peerQ : State := peerW.queued (entryOf peerW (encSkrecon 0 4 6).toWord 0 (.pair 4) (.scalar 6) true)

def stagedQ : State :=
  ((reconRounds peerW.hart.sys ⟨0x41000, 0, 8, 0x42000, 0x43000⟩ ⟨0x51000, 1, 8, 0x52000, 0x53000⟩ 16 0 6).exec peerQ).2

/-- With translation off at privilege 2 an access reaches the address that it names, whatever memory holds. -/
theorem reaches_off {k : Access} {g : Agent} {s : State} {v : Word} {n : Nat} (h1 : (s.die (dieOf s.id)).ptEn = 0)
    (h2 : s.hart.trap.priv = 2) (h3 : s.hart.unanswered = none) (h4 : v.toNat < 2 ^ 52 ∧ absent s (pkgOf s.id) v.toNat = false ∧ fencedAt s v.toNat = false)
    (h5 : deviceOk k g 0 v.toNat n = true) : Reaches k g s v n v.toNat := by
  unfold Reaches; rw [h2]; exact exec_translateAt_off k g v n s h1 h4.1 h3 h4.2.1 h5 h4.2.2

theorem witness_Staging :
    ((readClass 0 1).exec peerQ).1.toOption = some (some ⟨0x41000, 0, 8, 0x42000, 0x43000⟩) ∧
    ((readClass 1 1).exec peerQ).1.toOption = some (some ⟨0x51000, 1, 8, 0x52000, 0x53000⟩) ∧
    (((reconRounds peerW.hart.sys ⟨0x41000, 0, 8, 0x42000, 0x43000⟩ ⟨0x51000, 1, 8, 0x52000, 0x53000⟩ 16 0 6).exec peerQ).1.toOption.map
      fun x => (x.1, x.2.1)) = some ([(11, 12, false)], 0) ∧
    stagedQ.hart = peerQ.hart ∧ Unlocked stagedQ ∧ stagedQ.poison = [] ∧
    (∀ a ∈ [0x51000, 0x51008, 0x52000], Reaches .load .other stagedQ (BitVec.ofNat 64 a) 8 (BitVec.ofNat 64 a).toNat) ∧
    ∀ a ∈ [0x90000, 0x90008, 0x90010], Reaches .store .other stagedQ (BitVec.ofNat 64 a) 8 (BitVec.ofNat 64 a).toNat := by
  refine ⟨by decide +kernel, by decide +kernel, by decide +kernel, by decide +kernel, unlocked_of (by decide +kernel), by decide +kernel,
    fun a h => reaches_off (by decide +kernel) (by decide +kernel) (by decide +kernel) ?_ ?_,
    fun a h => reaches_off (by decide +kernel) (by decide +kernel) (by decide +kernel) ?_ ?_⟩ <;> revert a <;> decide +kernel

/-- R406, by hand: with no room for the remote record, status 2. -/
theorem test_staging_full :
    q4After (.skrecon 0 4 6) { peerW with hart := { peerW.hart with sregs := [(4, 0x101), (5, 0x90000), (6, 0)] } } =
      [2 * 2 ^ 32 + 2 ^ 40] := by decide +kernel

/-- By hand: what was put in comes out, and what two sketches share cancels; a class that no table holds. -/
theorem test_skiver :
    (let t := after (exec (.skpeel 0 4 6) peelW); ((List.range 2).map fun i => (t.memNat (0x9000 + 24 * i) 8, t.memNat (0x9008 + 24 * i) 8,
        t.memNat (0x9010 + 24 * i) 8)) = [(11, 12, 1), (21, 22, 1)] ∧ sparseGet [] t.hart.queues 4 = [2]) := by decide +kernel
theorem test_skiver_words :
    q4After (.skrecon 0 4 6) { reconW [] [] with pkgs := [] } = [3 * 2 ^ 32] ∧
    (let t := after (exec (.sksub 4 6) twoW); ((List.range 6).map fun i => t.memNat (0x2010 + 24 * i + 8) 8).filter (· != 0) = [11, 11, 11]) := by
  decide +kernel

/-! ## The host (R361–R370) -/

/-- A replay of harness 2 stands at a node at 0x20000 with parameters at 0x30000; des lies at 0x50000, request records at 0x40000. -/
def nodeW (node : List Nat) (named skip : List (BitVec 16)) (des : List Nat) (f : State → State) : State :=
  f (putWords 0x30000 [0x5000, 0x77, 0x88, 0x99] (putWords 0x50000 des (putWords 0x20000 node { w with pkgs := [(0, { Pkg.reset with
    htbase := 0x10000, rqbase := 0x40000, replay := some ⟨2, 0x20000, 0x30000, 4, named, skip, [], 0⟩ })] })))
def headWord (kind flags req p0 : Nat) : Nat := kind + 256 * flags + 65536 * req + 2 ^ 32 * p0
def replayOf (s : State) : Replay := s.myPkg.replay.getD ⟨0, 0, 0, 0, [], [], [], 0⟩
def nodeOf (s : State) : List Word := (readNode s (replayOf s)).getD []

def endW : State := nodeW [headWord 0 0 9 0, 0, 0, 0] [3, 5] [] [] fun s => putWords 0x40018 [1, 0, 3] s
def launchW (des : List Nat) : State := nodeW [headWord 1 1 9 2, 0x50000, 1, 0] [3] [] des id
def noDieW : State := nodeW [headWord 1 1 9 0, 0x50000, 1, 0] [3] [] [] id
def waitevW (v : Nat) : State := nodeW [headWord 2 0 9 (1 + 7 * 4096), 0, 0, 0] [3] [] [] fun s =>
  s.setDie 1 { s.die 1 with events := [(7, BitVec.ofNat _ v)] }
def evaddW : State := nodeW [headWord 3 2 0 (1 + 7 * 4096), 1, 0, 0] [3] [] [] fun s => s.setDie 1 { s.die 1 with events := [(7, 5)] }
def kloadW : State := nodeW [headWord 4 0 1 0, 0x50000, 0x60000, 24] [3] [] goodTask id
def graphW : State := nodeW [headWord 5 0 1 4, 0x70000, 0, 0] [] [] [] id
def notifyW : State := nodeW [headWord 6 2 1 77, 0, 0x1234, 24] [3] [] [] id
def badW (flags : Nat) : State := nodeW [headWord 1 flags 9 2, 0x50000, 1, 0] [3] [9] [] id
def startW (entry : List Nat) : State := putWords 0x10020 entry { w with pkgs := [(0, { Pkg.reset with
  htbase := 0x10000, replays := [(2, [7]), (3, [])] })] }

/-- It stands at the node. -/
def standsB (s : State) (kind : Nat) : Bool :=
  decide (s.myPkg.replay = some (replayOf s) ∧ (replayOf s).inHand = [] ∧ (replayOf s).done = 0 ∧ (readNode s (replayOf s)).isSome = true ∧
    nodeKind (nodeOf s) = kind ∧ skipped (replayOf s) (nodeOf s) = false)

theorem standing_of {s : State} {kind : Nat} (h : standsB s kind = true) : Standing s (replayOf s) (nodeOf s) kind := by
  obtain ⟨h1, h2, h3, h4, h5, h6⟩ := of_decide_eq_true h
  refine ⟨h1, h2, h3, ?_, h5, h6⟩
  obtain ⟨ws, hw⟩ := Option.isSome_iff_exists.mp h4
  rw [nodeOf, hw]; rfl

def launchTask : Descriptor := taskOf goodTask

theorem witness_HarnessResults :
    readHarness (startW [0, 0]) 0 2 = none ∧ readHarness (startW [0x20001, 0x30000]) 0 2 = some (0x20000, 0x30000, 0) ∧
    readNode (badW 17) (replayOf (badW 17)) = none ∧ skipped (replayOf (badW 1)) (nodeOf (badW 1)) = true ∧
    Standing endW (replayOf endW) (nodeOf endW) 0 ∧ Standing (launchW goodTask) (replayOf (launchW goodTask)) (nodeOf (launchW goodTask)) 1 ∧
    Standing (launchW []) (replayOf (launchW [])) (nodeOf (launchW [])) 1 ∧ Standing noDieW (replayOf noDieW) (nodeOf noDieW) 1 ∧
    Standing (waitevW 0) (replayOf (waitevW 0)) (nodeOf (waitevW 0)) 2 ∧ Standing (waitevW 1) (replayOf (waitevW 1)) (nodeOf (waitevW 1)) 2 ∧
    Standing evaddW (replayOf evaddW) (nodeOf evaddW) 3 ∧ Standing kloadW (replayOf kloadW) (nodeOf kloadW) 4 ∧
    Standing graphW (replayOf graphW) (nodeOf graphW) 5 ∧ Standing notifyW (replayOf notifyW) (nodeOf notifyW) 6 ∧
    (let s := launchW goodTask; let b := nodeBase s (replayOf s) (nodeOf s);
      parseDescriptor ((List.range 8).map fun i => BitVec.ofNat 64 (b.memNat (nodeP (nodeOf s) 1 + 8 * i) 8)) = some launchTask ∧
      nodeDies s 0 (nodeOf s) = [1] ∧ nodeDies noDieW 0 (nodeOf noDieW) = [] ∧ 1 < s.myPkg.part.dies ∧
      (s.die 1).queue.length < Level.cap s (.die 1) ∧ (∀ k < 4, bitOf (nodeP0 (nodeOf s)) k = (k == 1)) ∧ nodeP (nodeOf s) 2 = 1 ∧ stageOk s 1 launchTask = true ∧ launchTask.waitV = false) ∧
    (∀ k < 4, bitOf (nodeP0 (nodeOf graphW)) k = (k == 2)) ∧ holdsStaged graphW 2 = false ∧ satisfied ((waitevW 0).event 1 7) = true ∧
    satisfied ((waitevW 1).event 1 7) = false :=
  by
  and_intros
  all_goals first | exact standing_of (by decide +kernel) | decide +kernel

/-- By hand: requests 3, 5 and 9 are 1, 3 and active; a task on die 1; a skipped node; 5 and the parameter 0x77; eight bytes copied; a raised vector. -/
theorem test_harness :
    (let t := after (exec .endReplay endW); ([3, 5, 9].map (requestState t 0), t.myPkg.replay.isSome) = ([2, 3, 2], false)) ∧
    (let t := after (exec .launch (launchW goodTask)); (t.die 1).queue.map (fun x => (x.desc.entry, x.desc.req)) = [(0x4000, 9)] ∧
      (replayOf t).node = 0x20020) ∧
    (after (exec .launch (launchW []))).myPkg.err = true ∧ (replayOf (after (exec .launch noDieW))).node = 0x20020 ∧ (after (exec .harnessReplay (badW 17))).myPkg.msi = [0] ∧
    (replayOf (after (exec .harnessReplay (badW 1)))).node = 0x20020 ∧ (after (exec .evadd evaddW)).event 1 7 = 124 ∧
    (after (exec .kload kloadW)).memNat 0x60000 8 = 0x4000 ∧ (after (exec .notify notifyW)).myPkg.msi = [77] ∧
    (after (exec .harnessReplay (startW [0x20001, 0x30000]))).myPkg.replay = some ⟨2, 0x20000, 0x30000, 0, [], [7], [], 0⟩ := by
  decide +kernel

/-- The control window at 0x1F0000000000; request 3 is active; hart 5 runs its task. -/
def hostW (off : Nat) : State := putWords 0x40018 [1] { w with
  hart := { hartW with sregs := [(4, BitVec.ofNat 64 (0x1F0000000000 + off)), (5, 0x345)] }
  others := [(5, { hartW with task := { Task.none with desc := { Descriptor.none with req := 3 } } })]
  pkgs := [(0, { Pkg.reset with memsz := 1, rqbase := 0x40000, h2die := 1, replay := some ⟨2, 0x20000, 0x30000, 4, [3], [], [], 0⟩ })] }

/-- The bytes and the error that the host is given. -/
def replyAfter (i : Instr) (s : State) : Option (List Nat × Bool) := (after (exec i s)).myPkg.reply.map fun r => (r.data.map BitVec.toNat, r.unsupported)

/-- H2WIN selects die 1 with one HBM of 2^28 bytes a quarter. -/
theorem witness_HostResults :
    requestState (hostW 0) 0 3 = 1 ∧ requestState (hostW 0) 0 4 = 0 ∧ (∀ i < 4, (takeRequest 3 i (hostW 0)).1 = []) ∧
    ((hostW 0).hartAt 5).phase ≠ .idle ∧ ((hostW 0).hartAt 5).task.desc.req = 3 ∧ ((hostW 0).hartAt 5).task.check = false ∧
    (hostW 0).myPkg.ready = true ∧ isControlWindow 0x1F0000000028 = true ∧ (∀ n ∈ [4, 5], scalarOk (hostW 0x28).hart n = true) ∧
    (∀ off ∈ [0x08, 0x10, 0x18, 0x20, 0x28, 0x30, 0x38],
      reaches .load .scalar (hostW off) (BitVec.ofNat 64 (0x1F0000000000 + off)) 8 (0x1F0000000000 + off) = true ∧
      reaches .store .scalar (hostW off) (BitVec.ofNat 64 (0x1F0000000000 + off)) 8 (0x1F0000000000 + off) = true ∧
      (match (controlWrite 0 off 0x345).exec (hostW off) with | (.ok _, _) => true | _ => false) = true) ∧
    ((hostW 0).myPkg.h2qtr = 0 ∧ (hostW 0).myPkg.memsz.toNat * 2 ^ 28 = 0x10000000) := by decide +kernel

theorem test_host :
    goes (exec (.cancel 4) (hostW 0)) (hostW 0) = true ∧
    ((after (exec (.hdbell 4) (hostW 0))).hartAt 4).trap.ipend = 2 ∧ (after (exec (.hdoor 0x102) (hostW 0))).myPkg.replays = [(2, [])] ∧
    (after (exec (.std 5 4 0) (hostW 0x38))).myPkg.h2qtr = 1 ∧
    (after (exec (.hostWindowAccess ⟨0x1000, 8⟩ 1 0x77) (hostW 0))).memNat (2 ^ 38 + 0x1000) 8 = 0x77 ∧
    (after (exec (.hostConfigRequest 0) { hostW 0 with pkgs := [(0, { Pkg.reset with ready := false })] })).myPkg.configRetries = 1 := by
  decide +kernel

/-- By hand: RQBASE is written; 4 bytes at a register, a read that ends beyond MEMSZ, and a read of memory with nothing in it. -/
theorem test_host_replies :
    (after (exec (.controlWindowWrite ⟨0x20, 8⟩ 0x12345678) (hostW 0))).myPkg.rqbase = 0x12345678 ∧
    replyAfter (.controlWindowWrite ⟨0x20, 8⟩ 0x12345678) (hostW 0) = some ([], false) ∧
    replyAfter (.controlWindowWrite ⟨0x20, 4⟩ 0x12345678) (hostW 0) = some ([], true) ∧
    replyAfter (.hostWindowAccess ⟨0x0FFFFFFE, 4⟩ 0 0) (hostW 0) = some ([255, 255, 255, 255], true) ∧
    replyAfter (.hostWindowAccess ⟨0x1000, 2⟩ 0 0) (hostW 0) = some ([0, 0], false) := by decide +kernel

/-! ## Links, interrupts, sessions (R106, R123–R125, R329, R356, R369–R376, R395) -/

/-- A link to package 1 in a given state, nothing sent or replayed; the flits 5 and 6 of a replay buffer; a link that expects flit 7,
has sent two flits, and has replayed flit 5 a number of times. -/
def downL (st : BitVec 2) : Link := ⟨st, 1, 0, 0, false, [], 0, [], 0, 0, 0⟩
def flitN (n : BitVec 12) : Flit := ⟨n, 1, 2, 3, 4⟩
def upL (st : BitVec 2) (naked : Bool) (tries : BitVec 4) : Link := ⟨st, 1, 0, 7, naked, [], 7, [flitN 5, flitN 6], 5, tries, 2⟩

/-- Link 3 of package 0; every other link is down; the clock of package 2 is three counts behind. -/
def linkW (l : Link) : State := { w with
  pkgs := [(0, { Pkg.reset with links := (List.range 36).map fun i => (i, if i = 3 then l else downL 0) }),
    (2, { Pkg.reset with tscSkew := -3 })] }

/-- The same with link 4 to the same switch up. -/
def twoLinksW : State := { linkW (upL 1 false 0) with pkgs := [(0, { Pkg.reset with
  links := (List.range 36).map fun i => (i, if i = 3 then upL 1 false 0 else if i = 4 then { downL 2 with switch := 2 } else downL 0) })] }
/-- An access to package 1, which did not answer. -/
def awayW : State := withHart fun h => { h with sregs := [(4, 0x400000000000), (5, 9)], unanswered := some 1 }

theorem witness_LinkResults :
    (∀ n ∈ [true, false], ∀ tries ∈ [0, 7, 8], linkOf (linkW (upL 2 n tries)) 3 = upL 2 n tries) ∧
    (upL 2 false 7).sent.dropWhile (fun f => f.seq != 6) = [flitN 6] ∧ (upL 2 false 7).sent.dropWhile (fun f => f.seq != 9) = [] ∧
    (∀ st ∈ [0, 1, 3], (linkOf (linkW (upL st false 0)) 3).st = st) ∧
    (∀ i < 36, i ≠ 3 → (sparseGet Link.reset (linkW (upL 1 false 8)).myPkg.links i).st ≠ 2) ∧
    (∀ k < 5, ((sparseGet Link.reset twoLinksW.myPkg.links k).st = 2 ∧ k ≠ 3 ∧
      (sparseGet Link.reset twoLinksW.myPkg.links k).switch = (linkOf twoLinksW 3).switch) ↔ k = 4) ∧ (linkOf twoLinksW 3).st = 1 ∧
    linkUp ((linkW (upL 2 false 0)).pkg 2) = true ∧ ((linkW (upL 2 false 0)).die 0).elbase = 0 ∧
    (scalarOk awayW.hart 4 = true ∧ scalarOk awayW.hart 5 = true ∧ awayW.hart.trap.priv = 2 ∧ awayW.myDie.ptEn = 0 ∧
      physPkg 0x400000000000 = 1) ∧
    absent (linkW (upL 2 false 0)) 0 0x2000 = false ∧ absent (linkW (upL 2 false 0)) 0 0x10000000000 = true ∧
    isControlWindow 0x2000 = false ∧ ((linkW (upL 2 false 0)).pkg 2).tscSkew = -3 := by decide +kernel

theorem test_links :
    linkOf (after (exec (.flitReceive 3 (flitN 7) 1) (linkW (upL 2 true 3)))) 3 =
      { upL 2 false 3 with seq := 8, inbox := [flitN 7] } ∧
    linkOf (after (exec (.flitReceive 3 (flitN 7) 0) (linkW (upL 2 false 3)))) 3 = upL 2 true 3 ∧
    linkOf (after (exec (.linkReplay ⟨3, 5⟩) (linkW (upL 2 false 3)))) 3 = { upL 2 false 4 with replays := 2 } ∧
    linkOf (after (exec (.linkReplay ⟨3, 6⟩) (linkW (upL 2 false 3)))) 3 = 
      { upL 2 false 1 with sent := [flitN 6], replays := 1, named := 6 } := by
  decide +kernel

/-- By hand: a retrain; package 0 leaves the maps with its last link; the two flits move to link 4; a link comes up to package 6; a load
and a store that no package answers. -/
theorem test_links_down :
    (linkOf (after (exec (.linkRetrain 3) (linkW (upL 2 false 8)))) 3).st = 1 ∧
    (let t := after (exec (.linkDown 3) (linkW (upL 1 false 0)));
      ((t.pkg 2).podmap.getLsbD 0, (t.pkg 0).podmap) = (false, 1)) ∧
    (linkOf (after (exec (.linkDown 3) twoLinksW)) 4).sent = [{ flitN 5 with seq := 0 }, { flitN 6 with seq := 1 }] ∧
    linkOf (after (exec (.linkUp ⟨3, 6⟩) (linkW (downL 0)))) 3 = { downL 2 with peer := 6 } ∧
    trapped (.ldd 5 4 0) awayW = (Cause.mce.code.zeroExtend 9, 0x400000000000) ∧
    (after (exec (.std 5 4 0) awayW)).hart.pendMce = [0x400000000000] ∧
    ((after (exec (.tscSync 2) (linkW (upL 2 false 0)))).pkg 2).tscSkew = -2 ∧
    (after (exec (.remoteAccess 0x2000 1 0x77) (linkW (upL 2 false 0)))).memNat 0x2000 8 = 0x77 := by decide +kernel

/-- Hart 0 at time 100; bank 5 of core 0 is retained; die 0 lets banks retain. -/
def pendW (f : TrapRegs → TrapRegs) : State := { withHart fun h => { h with trap := f h.trap } with
  time := 100, dies := [(0, { Die.reset with retEn := 1 })], cores := [(0, { Core.reset with retained := [5] })] }
def cancelW : State := pendW fun t => { t with priv := 1, ipend := 9, ie := 0 }
def threeW (m : BitVec 4) : State := pendW fun t => { t with ipend := 11, imask := m, ie := 1 }
def dueW : State := pendW fun t => { t with tcmpEn := 1, tcmpTime := 50 }
def quietW : State := { pendW id with hart := Hart.reset }

theorem witness_SystemEvents :
    (withHart fun h => { h with fetch := { h.fetch with apc := true } }).hart.fetch.apc = true ∧
    (cancelW.hart.phase = .running ∧ cancelW.hart.trap.priv ≠ 2 ∧ cancelW.hart.trap.ipend.getLsbD 3 = true) ∧
    (∀ m ∈ [0, 1, 3, 11], (threeW m).hart.phase = .running ∧ (threeW m).hart.trap.ie = 1 ∧ (threeW m).hart.trap.priv = 2) ∧
    (dueW.hart.trap.tcmpEn = 1 ∧ dueW.hart.trap.tcmpTime.toNat ≤ dueW.tsc 0) ∧
    (quietW.myDie.retEn = 1 ∧ coreEmpty quietW 0 = true ∧ 6 ∉ quietW.myCore.retained ∧ 5 ∈ quietW.myCore.retained) ∧
    { w with dies := [(0, { Die.reset with retEn := 0 })] }.myDie.retEn = 0 ∧ Pkg.reset.spdm ≠ .version := by decide +kernel

theorem test_system_events :
    trapped .interrupt cancelW = (Cause.cancel.code.zeroExtend 9, 0) ∧ trapped .interrupt (threeW 3) = (Cause.host.code.zeroExtend 9, 0) ∧
    trapped .interrupt (threeW 1) = (Cause.timer.code.zeroExtend 9, 0) ∧ goes (exec .interrupt (threeW 0)) (threeW 0) = true ∧
    (after (exec .timer dueW)).hart.trap.ipend = 1 ∧ (after (exec (.ipset 0x200) w)).hart.trap.ipend = 2 ∧
    (after (exec (.retentionEntry 6) quietW)).myCore.retained = [6, 5] ∧ (after (exec (.retentionExit ⟨5, 0⟩) quietW)).myCore.retained = [] ∧
    (after (exec (.packageReset ⟨0, 1, 1, 0⟩) w)).hart = Hart.reset ∧ (after (exec (.packageReset ⟨0, 1, 1, 0⟩) w)).myPkg.ready = true ∧
    (∀ x ∈ [(2, 1, 1), (0, 0, 1), (0, 1, 0)], (after (exec (.packageReset ⟨x.1, x.2.1, x.2.2, 0⟩) w)).myPkg.ready = false) ∧
    (after (exec (.throttle 3) w)).myPkg.mhz + 300 = w.myPkg.mhz := by decide +kernel

/-! ## The step, decoding, invariants -/

/-- R54, R59: the word of LI s7, 0x12345 (major 0x3E, D 7), placed where the reset machine fetches next, is what the next step executes;
a word of a reserved major raises ILL. -/
theorem test_step_runs_placed_word :
    (after (step (State.reset.withFetchWord 32 (0x3E#6 ++ 7#6 ++ 0x12345#20 : BitVec 32).toNat))).hart.sregs = [(7, 0x12345)] ∧
    (after (step (State.reset.withFetchWord 32 0x3C000000))).hart.trap.cause = 0x001 := by decide +kernel

/-- R344, R335: a hidden store of 5 at 0x2001 is not seen there by the other agent, whose own 7 at 0x2000 leaves it hidden. A hidden
doubleword 1, and the agent's own 0x100 there, come in one order or the other: no byte of one is mixed with bytes of the other. -/
def hidden (bs : List Byte) : List Stale := hideStores false [] [] w.mem [(0x2000, bs)]
def meets (under : Bool) : Option (Nat × Bool) :=
  (agentTurn (fun s => .next (s.putNat 0x2000 8 0x100)) under (w.putNat 0x2000 8 1) 2 (hidden (leBytes 8 1))).map fun r =>
    (r.after.memNat 0x2000 8, r.mine.isEmpty)
theorem test_unseen :
    (let t := w.putBytes 0x2001 [5]
     let xs := hideStores false [] [] w.mem [(0x2001, [5])];
     xs = [⟨0x2001, 1, [(0x2001, 0, 5)], false, none, [], []⟩] ∧ sparseGet memDefault (unsee xs t.mem) 0x2001 = 0 ∧ seeNth 0 xs = [] ∧
     ((agentTurn (fun s => .next (s.putBytes 0x2000 [7])) true t 2 xs).map fun r =>
      (r.after.byteAt 0x2000, r.after.byteAt 0x2001, r.mine.map Stale.addrs)) = some (7, 5, [[0x2001]])) ∧
    meets true = some (1, false) ∧ meets false = some (0x100, true) := by decide +kernel

/-- A hart whose next word is LDD s5, [s4], and the oldest entry of its lagging vector unit, which stores 7 there; what the load reads
where the agenda names a byte and lets the entry act. -/
def laterW : State :=
  let s := State.reset.withFetchWord 32 (encLdd 5 4 0).toWord.toNat
  let s := { s with lag := true, hart := { s.hart with sregs := [(4, 0x2000), (6, 7)] } }
  { s with hart := { s.hart with vq := [entryOf s (encGaxchg 0 0 0 0 0 4 6).toWord 0 (.scalar 4) (.scalar 6)] } }
noncomputable def readBy (x : Byte) : Word :=
  match foresee 0x400 [x, 0, 0, 0, 0, 0, 0, 0] [.vector] laterW with
  | .next t => sparseGet 0 t.hart.sregs 5
  | _ => 1

/-- R344: the load may read what the entry stores after it, and no other byte. -/
theorem test_foresee : readBy 7 = 7 ∧ readBy 8 = 0 := by decide +kernel

/-- Quiet states: a running hart whose next word is an instruction, is none, is annulled. -/
theorem witness_StepRunsInstruction :
    (let s := State.reset.withFetchWord 32 0x00284060; let b := (tick.exec { s.seen with rotor := s.rotor + 1 }).2;
      s.agenda = [] ∧ s.parked = false ∧ s.rotor < 64 ∧ s.hart.phase = .running ∧ (firstEffect boundaryEvents b).isNone = true ∧ b.hart.vq = [] ∧
      b.hart.fetch.apc = false ∧ (match fetchInstr.exec b with | (.ok (x, _), _) => decide (x = 0x00284060) | _ => false) = true) ∧
    decode 0x00284060 0 = .ok (.add 5 4 3) ∧ decode 0x3C000000 0 = .error .reservedMajor ∧ pkgOf State.reset.id < 64 ∧
    State.reset.myPkg.memsz ≠ 0 ∧ decodeTableWord 32 0x00284060 = some (.add 5 4 3) := by decide +kernel

theorem witness_DecodeEncode : (Instr.add 5 4 3).isEncoded = true ∧ (Instr.add 5 4 3).wf = true ∧ hasLiteral (Instr.add 5 4 3).word = false ∧
    (Instr.ldd 5 4 2).isEncoded = true ∧ (Instr.ldd 5 4 2).wf = true ∧ (Instr.shlst 40 4 6 0).isEncoded = true ∧
    (Instr.shlst 40 4 6 0).wf = true := by decide +kernel

theorem witness_DecodeSound : decode 0x00284060 0 = .ok (.add 5 4 3) ∧ decode 0xDD4040C0 0 = .ok (.shlst 40 4 6 0) := by decide +kernel

/-- Reset is of the form that every step keeps, and has a next state; a hart below privilege 2 completes an encoded instruction. -/
theorem witness_CanonicalForm : Memory.wf State.reset.mem = true ∧ State.UnitsWf State.reset ∧
    (match step (State.reset.withFetchWord 32 0x00284060) with | .next _ => true | _ => false) = true := by
  refine ⟨rfl, ⟨rfl, fun x hx => (nomatch hx), rfl, rfl, rfl, rfl⟩, by decide +kernel⟩

theorem witness_TvecImaskGateRegistersKept : (Instr.add 5 4 3).isEncoded = true ∧ userW.hart.trap.priv ≠ 2 ∧
    (match exec (.add 5 4 3) userW with | .next _ => true | _ => false) = true := by decide +kernel

end Sys2Proof.Tests
end

section
/-! The canonical form of memory and of the units (O59) is kept by the model's meanings (`Kept`), by its steps (`KeptStep`) and
so by `step`. This part holds the forms, the rules for the operations of the state and for the constructors of meanings, and the
walk through a meaning by those rules; the parts after it go through the model in its own order. -/

namespace Sys2Proof.Machine

/-- The two canonical forms that O59 speaks of: that of memory and that of the units. -/
inductive Form where
  | memory
  | units

/-- A canonical form says something only about these components of a state: for `Form.units` it is `State.UnitsWf`. -/
def CanonicalParts (form : Form) (id : Nat) (others : Sparse Hart) (cores : Sparse Core) (quads : Sparse Quad) (dies : Sparse Die)
    (pkgs : Sparse Pkg) (mem : List Host.Cell) : Prop :=
  match form with
  | .memory => Memory.wf mem = true
  | .units => sparseWf Hart.reset others = true ∧ (∀ x ∈ others, x.1 ≠ id) ∧ sparseWf Core.reset cores = true ∧
      sparseWf Quad.reset quads = true ∧ sparseWf Die.reset dies = true ∧ sparseWf Pkg.reset pkgs = true

/-- The state is in canonical form. A structure, so that no unifier looks into it. -/
structure State.Canonical (form : Form) (s : State) : Prop where
  parts : CanonicalParts form s.id s.others s.cores s.quads s.dies s.pkgs s.mem

/-- A meaning keeps the canonical form, however it ends. -/
structure Kept (form : Form) {α : Type} (m : M α) : Prop where
  keeps : Keeps (fun s t => s.Canonical form → t.Canonical form) m

variable {form : Form} {α β : Type} {s : State}

theorem canonical_memory_iff : s.Canonical .memory ↔ Memory.wf s.mem = true := ⟨fun h => h.parts, fun h => ⟨h⟩⟩

theorem canonical_units_iff : s.Canonical .units ↔ State.UnitsWf s := ⟨fun h => h.parts, fun h => ⟨h⟩⟩

/-! ## The operations of the state -/

/-- The form of an updated state, written field by field, is that of the components it speaks of. -/
theorem canonical_mk (id : Nat) (hart : Hart) (others : Sparse Hart) (cores : Sparse Core) (quads : Sparse Quad)
    (dies : Sparse Die) (pkgs : Sparse Pkg) (pb : Sparse Barrier) (mem : List Host.Cell) (po de : List Nat) (uv us : List Stale)
    (st : Option Stores) (ti fc : Nat) (ag : List Turn) (la pa : Bool) (ro : Nat) :
    State.Canonical form ⟨id, hart, others, cores, quads, dies, pkgs, pb, mem, po, de, uv, us, st, ti, fc, ag, la, pa, ro⟩ ↔
      CanonicalParts form id others cores quads dies pkgs mem := ⟨fun h => h.parts, fun h => ⟨h⟩⟩

/-- The state differs where the canonical form does not look. -/
theorem canonical_same {s t : State} (h : s.Canonical form)
    (e : CanonicalParts form t.id t.others t.cores t.quads t.dies t.pkgs t.mem =
      CanonicalParts form s.id s.others s.cores s.quads s.dies s.pkgs s.mem := by rfl) : t.Canonical form := ⟨e ▸ h.parts⟩

theorem canonical_setCore (h : s.Canonical form) (c : Nat) (x : Core) : (s.setCore c x).Canonical form := by
  obtain ⟨h⟩ := h
  cases form with
  | memory => exact ⟨h⟩
  | units =>
    obtain ⟨ho, hn, hc, hq, hd, hp⟩ := h
    exact ⟨ho, hn, sparseWf_put _ c x hc, hq, hd, hp⟩

theorem canonical_setQuad (h : s.Canonical form) (q : Nat) (x : Quad) : (s.setQuad q x).Canonical form := by
  obtain ⟨h⟩ := h
  cases form with
  | memory => exact ⟨h⟩
  | units =>
    obtain ⟨ho, hn, hc, hq, hd, hp⟩ := h
    exact ⟨ho, hn, hc, sparseWf_put _ q x hq, hd, hp⟩

theorem canonical_setDie (h : s.Canonical form) (d : Nat) (x : Die) : (s.setDie d x).Canonical form := by
  obtain ⟨h⟩ := h
  cases form with
  | memory => exact ⟨h⟩
  | units =>
    obtain ⟨ho, hn, hc, hq, hd, hp⟩ := h
    exact ⟨ho, hn, hc, hq, sparseWf_put _ d x hd, hp⟩

theorem canonical_setPkg (h : s.Canonical form) (n : Nat) (x : Pkg) : (s.setPkg n x).Canonical form := by
  obtain ⟨h⟩ := h
  cases form with
  | memory => exact ⟨h⟩
  | units =>
    obtain ⟨ho, hn, hc, hq, hd, hp⟩ := h
    exact ⟨ho, hn, hc, hq, hd, sparseWf_put _ n x hp⟩

theorem canonical_putBytes (h : s.Canonical form) (a : Nat) (bs : List Byte) : (s.putBytes a bs).Canonical form := by
  obtain ⟨h⟩ := h
  cases form with
  | memory => exact ⟨memWf_putBytes a bs h⟩
  | units => exact ⟨h⟩

theorem canonical_putNat (h : s.Canonical form) (a n x : Nat) : (s.putNat a n x).Canonical form := canonical_putBytes h a _

theorem mem_sparsePut {α : Type} [DecidableEq α] {d : α} {m : Sparse α} {n : Nat} {v : α} {x : Nat × α}
    (h : x ∈ sparsePut d m n v) : x.1 = n ∨ x ∈ m := by
  unfold sparsePut at h
  split at h
  · exact .inr (mem_sparseErase h).1
  · rcases mem_sparseInsert h with rfl | h
    · exact .inl rfl
    · exact .inr (mem_sparseErase h).1

theorem canonical_setHartAt (h : s.Canonical form) (n : Nat) (x : Hart) : (s.setHartAt n x).Canonical form := by
  unfold State.setHartAt
  split
  · exact canonical_same h
  next hne =>
    obtain ⟨h⟩ := h
    cases form with
    | memory => exact ⟨h⟩
    | units =>
      obtain ⟨ho, hn, hc, hq, hd, hp⟩ := h
      refine ⟨sparseWf_put _ n x ho, fun y hy => ?_, hc, hq, hd, hp⟩
      rcases mem_sparsePut hy with e | hy
      · exact e ▸ hne
      · exact hn y hy

theorem canonical_focusOn (h : s.Canonical form) (n : Nat) : (s.focusOn n).Canonical form := by
  unfold State.focusOn
  split
  · exact h
  next hne =>
    obtain ⟨h⟩ := h
    cases form with
    | memory => exact ⟨h⟩
    | units =>
      obtain ⟨ho, hn, hc, hq, hd, hp⟩ := h
      refine ⟨sparseWf_put _ _ _ (sparseWf_erase _ n ho), fun y hy => ?_, hc, hq, hd, hp⟩
      rcases mem_sparsePut hy with e | hy
      · exact fun e' => hne (e'.symm.trans e)
      · exact (mem_sparseErase hy).2

theorem canonical_unowned {t : State} (h : t.Canonical form) (s : State) : (s.unowned t).Canonical form := canonical_same h

theorem canonical_ite (c : Prop) {_ : Decidable c} {s t : State} (hs : s.Canonical form) (ht : t.Canonical form) :
    State.Canonical form (if c then s else t) := by split <;> assumption

theorem canonical_foldl {γ : Type} {f : State → γ → State} (hf : ∀ s x, s.Canonical form → (f s x).Canonical form)
    (xs : List γ) {s : State} (h : s.Canonical form) : (xs.foldl f s).Canonical form :=
  List.foldlRecOn (motive := fun s => State.Canonical form s) xs f h fun s h x _ => hf s x h

/-! ## The constructors of meanings -/

theorem chain_canonical (form : Form) : Chain fun s t => s.Canonical form → t.Canonical form :=
  chain_of_inv (State.Canonical form)

theorem kept_pure (x : α) : Kept form (pure x : M α) := ⟨keeps_pure (chain_canonical form) x⟩

theorem kept_throw (e : Stop) : Kept form (throw e : M α) := ⟨keeps_throw (chain_canonical form) e⟩

theorem kept_bind {m : M α} {f : α → M β} (hm : Kept form m) (hf : ∀ x, Kept form (f x)) : Kept form (m >>= f) :=
  ⟨keeps_bind (chain_canonical form) hm.keeps fun x => (hf x).keeps⟩

theorem kept_map {m : M α} (f : α → β) (hm : Kept form m) : Kept form (f <$> m) :=
  ⟨keeps_map (chain_canonical form) f hm.keeps⟩

theorem kept_ite (c : Prop) {_ : Decidable c} {m n : M α} (hm : Kept form m) (hn : Kept form n) :
    Kept form (if c then m else n) := by
  split <;> assumption

/-- A join point is used once per branch: prove once that it keeps the form. -/
theorem kept_join {γ : Type} {m : M γ} (jp : β → M α) (hjp : ∀ x, Kept form (jp x))
    (h : (∀ x, Kept form (jp x)) → Kept form m) : Kept form m := h hjp

/-- A state named in a meaning: only that it is canonical matters further on. -/
theorem kept_given_state {γ : Type} {m : M γ} (t : State) (ht : t.Canonical form) (h : t.Canonical form → Kept form m) :
    Kept form m := h ht

/-- A value named in a meaning: what it is does not matter further on. -/
theorem kept_given {γ : Type} {m : M γ} (_ : β) (h : Kept form m) : Kept form m := h

theorem kept_get_bind {f : State → M α} (hf : ∀ s, s.Canonical form → Kept form (f s)) : Kept form (get >>= f) :=
  ⟨fun s h => (hf s h).keeps s h⟩

theorem kept_set (h : s.Canonical form) : Kept form (set s : M PUnit) := ⟨fun _ _ => h⟩

theorem kept_modify {f : State → State} (h : ∀ s, s.Canonical form → (f s).Canonical form) : Kept form (modify f : M PUnit) :=
  ⟨h⟩

theorem kept_attempt {m : M α} (hm : Kept form m) : Kept form (attempt m) := ⟨keeps_attempt hm.keeps⟩

theorem kept_forN {f : Nat → M Unit} (hf : ∀ i, Kept form (f i)) (n : Nat) : Kept form (forN n f) :=
  ⟨keeps_forN (chain_canonical form) (fun i => (hf i).keeps) n⟩

theorem kept_forFrom {f : Nat → M Unit} (hf : ∀ i, Kept form (f i)) (n i : Nat) : Kept form (forFrom n i f) :=
  ⟨keeps_forFrom (chain_canonical form) (fun i => (hf i).keeps) n i⟩

theorem kept_mapFrom {f : Nat → M α} (hf : ∀ i, Kept form (f i)) (n i : Nat) : Kept form (mapFrom n i f) :=
  ⟨keeps_mapFrom (chain_canonical form) (fun i => (hf i).keeps) n i⟩

theorem kept_foldlM {γ : Type} {f : β → γ → M β} (hf : ∀ b x, Kept form (f b x)) (xs : List γ) (b : β) :
    Kept form (xs.foldlM f b) := by
  induction xs generalizing b with
  | nil => exact kept_pure b
  | cons x xs ih =>
    rw [List.foldlM_cons]
    exact kept_bind (hf b x) ih

theorem canonical_exec {m : M α} (hm : Kept form m) (h : s.Canonical form) : (m.exec s).2.Canonical form := hm.keeps s h

/-! ## The leaves of meanings -/

@[simp] theorem kept_get : Kept form (get : M State) := ⟨keeps_get (chain_canonical form)⟩

@[simp] theorem kept_getHart : Kept form getHart := ⟨keeps_getHart (chain_canonical form)⟩

@[simp] theorem kept_privNow : Kept form privNow := ⟨keeps_privNow (chain_canonical form)⟩

@[simp] theorem kept_trap (c : Cause) (v : Word) : Kept form (trap c v : M α) := kept_throw _

@[simp] theorem kept_trapWord (c : Cause) : Kept form (trapWord c : M α) := kept_throw _

@[simp] theorem kept_block : Kept form (block : M α) := kept_throw _

@[simp] theorem kept_stall : Kept form (stall : M α) := kept_throw _

@[simp] theorem kept_trapIf (b : Bool) (c : Cause) (v : Word) : Kept form (trapIf b c v) :=
  ⟨keeps_trapIf (chain_canonical form) b c v⟩

@[simp] theorem kept_modHart (f : Hart → Hart) : Kept form (modHart f) := ⟨fun _ h => canonical_same h⟩

@[simp] theorem kept_modFetch (f : Fetch → Fetch) : Kept form (modFetch f) := kept_modHart _

@[simp] theorem kept_modCfg (f : VConf → VConf) : Kept form (modCfg f) := kept_modHart _

@[simp] theorem kept_modVec (f : VecRegs → VecRegs) : Kept form (modVec f) := kept_modHart _

@[simp] theorem kept_modSys (f : SysRegs → SysRegs) : Kept form (modSys f) := kept_modHart _

@[simp] theorem kept_modTrapRegs (f : TrapRegs → TrapRegs) : Kept form (modTrapRegs f) := kept_modHart _

@[simp] theorem kept_modTask (f : Task → Task) : Kept form (modTask f) := kept_modHart _

@[simp] theorem kept_modCore (c : Nat) (f : Core → Core) : Kept form (modCore c f) := ⟨fun _ h => canonical_setCore h ..⟩

@[simp] theorem kept_modQuad (q : Nat) (f : Quad → Quad) : Kept form (modQuad q f) := ⟨fun _ h => canonical_setQuad h ..⟩

@[simp] theorem kept_modDie (d : Nat) (f : Die → Die) : Kept form (modDie d f) := ⟨fun _ h => canonical_setDie h ..⟩

@[simp] theorem kept_modPkg (n : Nat) (f : Pkg → Pkg) : Kept form (modPkg n f) := ⟨fun _ h => canonical_setPkg h ..⟩

@[simp] theorem kept_freeWord : Kept form freeWord := ⟨fun _ h => canonical_same h⟩

theorem canonical_markLeaf (h : s.Canonical form) (a b : Nat) : (markLeaf a b s).Canonical form := by
  unfold markLeaf
  dsimp only
  split
  · exact h
  · exact canonical_same (canonical_putNat h a 8 _)

theorem canonical_putSp (h : s.Canonical form) (c off n x : Nat) : (s.putSp c off n x).Canonical form := canonical_setCore h ..

/-! ## The walk -/

/-- A claim that the rules above derive by the shape of the term it speaks of: a meaning is taken apart at its constructors,
named values and join points are generalised, a changed state is taken apart at the operations of the state, and what is left is
a fact of the `simp` set or of the context. The combinators of vector entries (`kept_vrun`, `kept_atElem` and so on) are rules
from where they are proved. The walk is looked up anew at each use, which waits for every proof begun before it; so the parts
that use it elaborate in order. -/
theorem of_kept_rules {P : Prop}
    (h : P := by
      repeat' with_reducible first
        | assumption
        | intro _
        | ((fail_if_no_progress extract_lets +onlyGivenNames jp)
           first
           | (guard_hyp jp : _ → M _ := _
              apply kept_join jp
              on_goal 1 => (intro _; unfold jp)
              on_goal 2 => clear_value jp)
           | (guard_hyp jp : State := _
              apply kept_given_state jp
              on_goal 1 => unfold jp
              on_goal 2 => clear_value jp)
           | (apply kept_given jp; clear_value jp))
        | apply kept_pure
        | apply kept_throw
        | apply kept_get_bind
        | apply kept_bind
        | apply kept_ite
        | apply kept_attempt
        | apply kept_forN
        | apply kept_forFrom
        | apply kept_mapFrom
        | apply kept_foldlM
        | apply kept_modify
        | apply kept_map
        | apply kept_set
        | apply kept_vrun
        | apply kept_vrunN
        | apply kept_atElem
        | apply kept_putTileW
        | apply kept_quietly
        | apply kept_loadWhole
        | apply kept_wholly
        | apply canonical_ite
        | apply canonical_setCore
        | apply canonical_setQuad
        | apply canonical_setDie
        | apply canonical_setPkg
        | apply canonical_setHartAt
        | apply canonical_putBytes
        | apply canonical_putNat
        | apply canonical_markLeaf
        | apply canonical_putSp
        | apply canonical_focusOn
        | apply canonical_unowned
        | split
        | (simp only [canonical_mk]; refine State.Canonical.parts ?_)
        | (simp; done)
        | apply_assumption -exfalso
        | dsimp only) : P := h

end Sys2Proof.Machine
end

section
/-! The canonical form: the operations that scalar instructions and vector operands are made of. -/

namespace Sys2Proof.Machine

set_option Elab.async false
variable {form : Form} {α β : Type} {s : State}

@[simp] theorem kept_checkScalar (n : BitVec 7) : Kept form (checkScalar n) := by unfold checkScalar; exact of_kept_rules

@[simp] theorem kept_readScalar (n : BitVec 7) : Kept form (readScalar n) := by unfold readScalar; exact of_kept_rules

@[simp] theorem kept_writeScalar (n : BitVec 7) (v : Word) : Kept form (writeScalar n v) := by
  unfold writeScalar
  exact of_kept_rules

@[simp] theorem kept_checkPair (n : BitVec 7) : Kept form (checkPair n) := by unfold checkPair; exact of_kept_rules

@[simp] theorem kept_walkAndCache (d va : Nat) (v : Word) : Kept form (walkAndCache d va v) := by
  unfold walkAndCache
  exact of_kept_rules

@[simp] theorem kept_needUnit (n : Nat) : Kept form (needUnit n) := by unfold needUnit; exact of_kept_rules

@[simp] theorem kept_needAnswer (p : Nat) (v : Word) : Kept form (needAnswer p v) := by unfold needAnswer; exact of_kept_rules

@[simp] theorem kept_reach (k : Access) (g : Agent) (mt : Nat) (v : Word) (pa size : Nat) : Kept form (reach k g mt v pa size) := by
  unfold reach
  exact of_kept_rules

@[simp] theorem kept_translateAt (priv : Nat) (k : Access) (g : Agent) (v : Word) (size : Nat) :
    Kept form (translateAt priv k g v size) := by
  unfold translateAt
  exact of_kept_rules

@[simp] theorem kept_checkPoison (pa n : Nat) (v : Word) : Kept form (checkPoison pa n v) := by
  unfold checkPoison
  exact of_kept_rules

@[simp] theorem kept_storeAt (v : Word) (pa n x : Nat) : Kept form (storeAt v pa n x) := by unfold storeAt; exact of_kept_rules

@[simp] theorem kept_rdmemAt (priv : Nat) (g : Agent) (v : Word) (size : Nat) : Kept form (rdmemAt priv g v size) := by
  unfold rdmemAt
  exact of_kept_rules

@[simp] theorem kept_wrmemAt (priv : Nat) (g : Agent) (v : Word) (size x : Nat) : Kept form (wrmemAt priv g v size x) := by
  unfold wrmemAt
  exact of_kept_rules

@[simp] theorem kept_rdmem (g : Agent) (v : Word) (size : Nat) : Kept form (rdmem g v size) := by
  unfold rdmem
  exact of_kept_rules

@[simp] theorem kept_wrmem (g : Agent) (v : Word) (size x : Nat) : Kept form (wrmem g v size x) := by
  unfold wrmem
  exact of_kept_rules

@[simp] theorem kept_rdWords (priv : Nat) (v : Word) (n : Nat) : Kept form (rdWords priv v n) := by
  unfold rdWords
  exact of_kept_rules

@[simp] theorem kept_wrWords (priv : Nat) (v : Word) (xs : List Word) : Kept form (wrWords priv v xs) := by
  induction xs generalizing v with
  | nil => exact kept_pure _
  | cons x xs ih => unfold wrWords; exact of_kept_rules

@[simp] theorem kept_fetchAt (priv : Nat) (v : Word) : Kept form (fetchAt priv v) := by unfold fetchAt; exact of_kept_rules

@[simp] theorem kept_succAt (priv : Nat) (v : Word) : Kept form (succAt priv v) := by unfold succAt; exact of_kept_rules

@[simp] theorem kept_succ (v : Word) : Kept form (succ v) := by unfold succ; exact of_kept_rules

@[simp] theorem kept_formQueue : Kept form formQueue := by unfold formQueue; exact of_kept_rules

@[simp] theorem kept_startAt (v : Word) : Kept form (startAt v) := by unfold startAt; exact of_kept_rules

@[simp] theorem kept_advance (fl : Flow) : Kept form (advance fl) := by unfold advance; exact of_kept_rules

theorem canonical_putRecords (base cap wr : Nat) (rs : List (List Byte)) {s : State} (h : s.Canonical form) :
    (putRecords base cap wr rs s).Canonical form := by
  induction rs generalizing wr s with
  | nil => exact h
  | cons r rs ih => exact ih (wr + 1) (canonical_unowned (canonical_putBytes h _ r) s)

@[simp] theorem kept_logEvent (d source cls addr : Nat) : Kept form (logEvent d source cls addr) := by
  have hrec := @canonical_putRecords form
  unfold logEvent
  exact of_kept_rules

@[simp] theorem kept_saveEntries (v : Word) (es : List Entry) (n : Nat) : Kept form (saveEntries v es n) := by
  induction es generalizing v n with
  | nil => exact kept_pure _
  | cons e es ih => unfold saveEntries; exact of_kept_rules

@[simp] theorem kept_leaveWaits : Kept form leaveWaits := by unfold leaveWaits; exact of_kept_rules

@[simp] theorem kept_saveQueue : Kept form saveQueue := by unfold saveQueue; exact of_kept_rules

@[simp] theorem kept_enterHandler : Kept form enterHandler := by unfold enterHandler; exact of_kept_rules

@[simp] theorem kept_trapEntry (v : Bool) (c : Cause) (x : Word) : Kept form (trapEntry v c x) := by
  unfold trapEntry
  exact of_kept_rules

theorem canonical_takeTrap (v : Bool) (c : Cause) (x : Word) (h : s.Canonical form) : (takeTrap v c x s).Canonical form :=
  canonical_exec (kept_trapEntry v c x) h

@[simp] theorem kept_release : Kept form release := by unfold release; exact of_kept_rules

@[simp] theorem kept_needSupervisor : Kept form needSupervisor := by unfold needSupervisor; exact of_kept_rules

@[simp] theorem kept_setFlags (fl : Flags) : Kept form (setFlags fl) := by unfold setFlags; exact of_kept_rules

@[simp] theorem kept_stepGen (frm : BitVec 3) : Kept form (stepGen frm) := by unfold stepGen; exact of_kept_rules

@[simp] theorem kept_vrnd (frm : BitVec 3) (f : Fmt) (sat : Bool) (x : Ex) : Kept form (vrnd frm f sat x) := by
  unfold vrnd
  exact of_kept_rules

@[simp] theorem kept_vrne (x : Ex) : Kept form (vrne x) := by unfold vrne; exact of_kept_rules

@[simp] theorem kept_flagged (r : Rounded) : Kept form (flagged r) := by unfold flagged; exact of_kept_rules

@[simp] theorem kept_checkRowsNat (c : VConf) (first count : Nat) (field : BitVec 7) :
    Kept form (checkRowsNat c first count field) := by
  unfold checkRowsNat
  exact of_kept_rules

@[simp] theorem kept_checkTile (n : Nat) : Kept form (checkTile n) := by unfold checkTile; exact of_kept_rules

@[simp] theorem kept_clearOrder (row : Nat) : Kept form (clearOrder row) := by unfold clearOrder; exact of_kept_rules

@[simp] theorem kept_wrAt (c : VConf) (n t i w x : Nat) : Kept form (wrAt c n t i w x) := by unfold wrAt; exact of_kept_rules

@[simp] theorem kept_wrW (c : VConf) (n w j x : Nat) : Kept form (wrW c n w j x) := by unfold wrW; exact of_kept_rules

@[simp] theorem kept_wr (c : VConf) (n j x : Nat) : Kept form (wr c n j x) := by unfold wr; exact of_kept_rules

@[simp] theorem kept_clearAt (c : VConf) (n t : Nat) : Kept form (clearAt c n t) := by unfold clearAt; exact of_kept_rules

@[simp] theorem kept_maskedW (c : VConf) (n w j : Nat) : Kept form (maskedW c n w j) := by unfold maskedW; exact of_kept_rules

@[simp] theorem kept_masked (c : VConf) (n j : Nat) : Kept form (masked c n j) := by unfold masked; exact of_kept_rules

@[simp] theorem kept_readPred (p : Nat) : Kept form (readPred p) := by unfold readPred; exact of_kept_rules

@[simp] theorem kept_writePred (p : Nat) (x : BitVec 1024) : Kept form (writePred p x) := by
  unfold writePred
  exact of_kept_rules

@[simp] theorem kept_pselPred (c : VConf) : Kept form (pselPred c) := by unfold pselPred; exact of_kept_rules

@[simp] theorem kept_needPredVl (c : VConf) : Kept form (needPredVl c) := by unfold needPredVl; exact of_kept_rules

@[simp] theorem kept_maskVl (c : VConf) (m : BitVec 1) : Kept form (maskVl c m) := by unfold maskVl; exact of_kept_rules

@[simp] theorem kept_putScale (x e : Nat) (s : BitVec 16) : Kept form (putScale x e s) := by
  unfold putScale
  exact of_kept_rules

@[simp] theorem kept_putTile (a m n x : Nat) : Kept form (putTile a m n x) := by unfold putTile; exact of_kept_rules

@[simp] theorem kept_tileErrors (a rows cols : Nat) : Kept form (tileErrors a rows cols) := by
  unfold tileErrors
  exact of_kept_rules

@[simp] theorem kept_setProgress (k : Nat) : Kept form (setProgress k) := by unfold setProgress; exact of_kept_rules

theorem kept_atElem (k : Nat) (m : M Unit) (hm : Kept form m) : Kept form (atElem k m) := by unfold atElem; exact of_kept_rules

@[simp] theorem kept_deliver (x : Word) : Kept form (deliver x) := by unfold deliver; exact of_kept_rules

@[simp] theorem kept_needRoom : Kept form needRoom := by unfold needRoom; exact of_kept_rules

@[simp] theorem kept_deliverAll (from' : Nat) (xs : List Word) : Kept form (deliverAll from' xs) := by
  unfold deliverAll
  exact of_kept_rules

@[simp] theorem kept_stallOn (sp : Bool) (lo size : Nat) (write : Bool) : Kept form (stallOn sp lo size write) := by
  unfold stallOn
  exact of_kept_rules

@[simp] theorem kept_vread (g : Agent) (a : Word) (z : Nat) : Kept form (vread g a z) := by unfold vread; exact of_kept_rules

@[simp] theorem kept_vwrite (g : Agent) (a : Word) (z x : Nat) : Kept form (vwrite g a z x) := by
  unfold vwrite
  exact of_kept_rules

@[simp] theorem kept_spCheck (a : Word) (size : Nat) (plain : Bool) : Kept form (spCheck a size plain) := by
  unfold spCheck
  exact of_kept_rules

@[simp] theorem kept_spPoisonCheck (c off n : Nat) (a : Word) : Kept form (spPoisonCheck c off n a) := by
  unfold spPoisonCheck
  exact of_kept_rules

@[simp] theorem kept_spRead (a : Word) (z : Nat) : Kept form (spRead a z) := by unfold spRead; exact of_kept_rules

@[simp] theorem kept_spWrite (a : Word) (z x : Nat) : Kept form (spWrite a z x) := by unfold spWrite; exact of_kept_rules

@[simp] theorem kept_nibbleWrite (g : Agent) (a : Word) (high : Bool) (x : Nat) : Kept form (nibbleWrite g a high x) := by
  unfold nibbleWrite
  exact of_kept_rules

@[simp] theorem kept_spNibbleWrite (a : Word) (high : Bool) (x : Nat) : Kept form (spNibbleWrite a high x) := by
  unfold spNibbleWrite
  exact of_kept_rules

@[simp] theorem kept_spaceRead (sp : Bool) (a : Word) (z : Nat) : Kept form (spaceRead sp a z) := by
  unfold spaceRead
  exact of_kept_rules

@[simp] theorem kept_spaceWrite (sp : Bool) (a : Word) (z x : Nat) : Kept form (spaceWrite sp a z x) := by
  unfold spaceWrite
  exact of_kept_rules

@[simp] theorem kept_recRead (r : List (BitVec 32)) (j : Nat) : Kept form (recRead r j) := by
  unfold recRead
  exact of_kept_rules

@[simp] theorem kept_recWrite (r : List (BitVec 32)) (j x : Nat) : Kept form (recWrite r j x) := by
  unfold recWrite
  exact of_kept_rules

@[simp] theorem kept_rowRecord (c : VConf) (n : BitVec 7) : Kept form (rowRecord c n) := by
  unfold rowRecord
  exact of_kept_rules

@[simp] theorem kept_strf {α : Type} (field reason : Nat) : Kept form (strf field reason : M α) := by
  unfold strf
  exact of_kept_rules

@[simp] theorem kept_putStream (slot : Nat) (st : Option Stream) : Kept form (putStream slot st) := by
  unfold putStream
  exact of_kept_rules

@[simp] theorem kept_raiseStream {α : Type} (slot : Nat) (st : Stream) (f : ElemFault) :
    Kept form (raiseStream slot st f : M α) := by
  unfold raiseStream
  exact of_kept_rules

@[simp] theorem kept_fetchStrip (st : Stream) (n j : Nat) : Kept form (fetchStrip st n j) := by
  induction n generalizing j with
  | zero => exact kept_pure _
  | succ n ih => unfold fetchStrip; exact of_kept_rules

@[simp] theorem kept_fillStrip (slot vl w : Nat) (xs : List Nat) : Kept form (fillStrip slot vl w xs) := by
  unfold fillStrip
  exact of_kept_rules

@[simp] theorem kept_writeNext (slot : Nat) (st : Stream) : Kept form (writeNext slot st) := by
  unfold writeNext
  exact of_kept_rules

@[simp] theorem kept_drainTo (slot room n : Nat) (st : Stream) : Kept form (drainTo slot room n st) := by
  induction n generalizing st with
  | zero => exact kept_pure _
  | succ n ih => unfold drainTo; exact of_kept_rules

@[simp] theorem kept_streamRoomFor (slot : Nat) (st : Stream) (n : Nat) : Kept form (streamRoomFor slot st n) := by
  unfold streamRoomFor
  exact of_kept_rules

@[simp] theorem kept_checkUse (c : VConf) (et : Nat) (n : Nat) (o : Opnd) : Kept form (checkUse c et n o) := by
  unfold checkUse
  exact of_kept_rules

@[simp] theorem kept_spoilBuffer (slot : Nat) (st : Stream) : Kept form (spoilBuffer slot st) := by
  unfold spoilBuffer
  exact of_kept_rules

@[simp] theorem kept_loseBuffer {α : Type} (slot : Nat) (st : Stream) : Kept form (loseBuffer slot st : M α) := by
  unfold loseBuffer
  exact of_kept_rules

@[simp] theorem kept_checkErrors (c : VConf) (o : Opnd) : Kept form (checkErrors c o) := by
  unfold checkErrors
  exact of_kept_rules

@[simp] theorem kept_needStreamRoom (c : VConf) (n : Nat) (o : Opnd) : Kept form (needStreamRoom c n o) := by
  unfold needStreamRoom
  exact of_kept_rules

@[simp] theorem kept_loadStrip (c : VConf) (w n : Nat) (o : Opnd) : Kept form (loadStrip c w n o) := by
  unfold loadStrip
  exact of_kept_rules

@[simp] theorem kept_appendStrip (c : VConf) (lo hi : Nat) (o : Opnd) : Kept form (appendStrip c lo hi o) := by
  unfold appendStrip
  exact of_kept_rules

@[simp] theorem kept_retireStreams (c : VConf) (n : Nat) (o : Opnd) : Kept form (retireStreams c n o) := by
  unfold retireStreams
  exact of_kept_rules

@[simp] theorem kept_dropStrips : Kept form dropStrips := by unfold dropStrips; exact of_kept_rules

@[simp] theorem kept_prepareOpnds (c : VConf) (n et : Nat) (os : List Opnd) : Kept form (prepareOpnds c n et os) := by
  unfold prepareOpnds
  exact of_kept_rules

theorem kept_orAgain (hs : s.Canonical form) {m : M Unit} (hm : Kept form m) : Kept form (orAgain s m) := by
  unfold orAgain
  exact of_kept_rules

theorem kept_vrunN (c : VConf) (n et : Nat) (os : List Opnd) {body : M Unit} (hbody : Kept form body) :
    Kept form (vrunN c n et os body) := by
  have hagain := @kept_orAgain form
  unfold vrunN
  exact of_kept_rules

theorem kept_vrun (c : VConf) (os : List Opnd) {body : M Unit} (hbody : Kept form body) : Kept form (vrun c os body) :=
  kept_vrunN c _ _ os hbody

@[simp] theorem kept_convertScalar (c : VConf) (x : Nat) : Kept form (convertScalar c x) := by
  unfold convertScalar
  exact of_kept_rules

@[simp] theorem kept_prepB (c : VConf) (e : Entry) (v : VecRegs) (b : VSrc) (anyActive : Bool) :
    Kept form (prepB c e v b anyActive) := by
  unfold prepB
  exact of_kept_rules

theorem kept_loadWhole (m : M Unit) (hm : Kept form m) : Kept form (loadWhole m) := by unfold loadWhole; exact of_kept_rules

theorem kept_quietly {α : Type} (c : VConf) (quiet : Bool) (m : M α) (hm : Kept form m) :
    Kept form (quietly c quiet m : M α) := by
  unfold quietly
  exact of_kept_rules

@[simp] theorem kept_sources (c : VConf) (m : BitVec 1) (srcs : List (BitVec 7)) : Kept form (sources c m srcs) := by
  unfold sources
  exact of_kept_rules

@[simp] theorem kept_prepActive (c : VConf) (e : Entry) (v : VecRegs) (b : VSrc) (srcs : List (BitVec 7)) (act : Nat → Bool) :
    Kept form (prepActive c e v b srcs act) := kept_quietly _ _ _ (kept_prepB ..)

theorem kept_wholly {α : Type} (m : M α) (hm : Kept form m) : Kept form (wholly m : M α) := by
  unfold wholly
  exact of_kept_rules

theorem kept_putTileW (c : VConf) (n : Nat) (w : Nat) (f : Nat → M (Option Nat)) (hf : ∀ x, Kept form (f x)) :
    Kept form (putTileW c n w f) := by
  unfold putTileW
  exact of_kept_rules

end Sys2Proof.Machine
end

section
/-! The canonical form: the vector queue, and the arithmetic, movement and memory of tiles. -/

namespace Sys2Proof.Machine

set_option Elab.async false
variable {form : Form} {α β : Type} {s : State}

@[simp] theorem kept_cap_check (i : Cap) : Kept form (Cap.check i) := by unfold Cap.check; exact of_kept_rules

theorem kept_dispatchEntry (w lit : BitVec 32) {op : VOp} (hcheck : ∀ e, Kept form (op.check e))
    (hat : ∀ e, Kept form (op.atDispatch e)) : Kept form (dispatchEntry w lit op) := by
  unfold dispatchEntry
  exact of_kept_rules

@[simp] theorem kept_retireHead : Kept form retireHead := by unfold retireHead; exact of_kept_rules

@[simp] theorem kept_markBegun : Kept form markBegun := by unfold markBegun; exact of_kept_rules

theorem kept_executeHead (perform : Entry → M Unit) (hperform : ∀ x, Kept form (perform x)) :
    Kept form (executeHead perform) := by
  unfold executeHead
  exact of_kept_rules

theorem kept_eltwise (d a : BitVec 7) (b : VSrc) (m : BitVec 1) (readsD : Bool) (f : VConf → Nat → Nat → Nat → M Nat)
    (e : Entry) (hf : ∀ x y z u, Kept form (f x y z u)) : Kept form (eltwise d a b m readsD f e) := by
  unfold eltwise
  exact of_kept_rules

@[simp] theorem kept_intwise (d a : BitVec 7) (b : VSrc) (m : BitVec 1) (f : Nat → Nat → Nat → Int) (e : Entry) :
    Kept form (intwise d a b m f e) := kept_eltwise _ _ _ _ _ _ _ fun _ _ _ _ => kept_pure _

@[simp] theorem kept_fpwise (d a : BitVec 7) (b : VSrc) (m : BitVec 1) (f : Nat → Ex → Ex → Ex × Flags) (e : Entry) :
    Kept form (fpwise d a b m f e) := kept_eltwise _ _ _ _ _ _ _ fun _ _ _ _ => of_kept_rules

theorem kept_unwise (d a : BitVec 7) (m : BitVec 1) (f : VConf → Nat → M Nat) (e : Entry) (hf : ∀ x y, Kept form (f x y)) :
    Kept form (unwise d a m f e) := by
  unfold unwise
  exact of_kept_rules

@[simp] theorem kept_fpUnary (d a : BitVec 7) (m : BitVec 1) (f : Ex → Ex × Flags) (e : Entry) :
    Kept form (fpUnary d a m f e) := kept_unwise _ _ _ _ _ fun _ _ => of_kept_rules

@[simp] theorem kept_fmawise (d a : BitVec 7) (b : VSrc) (m : BitVec 1) (negP negB : Bool) (e : Entry) :
    Kept form (fmawise d a b m negP negB e) := kept_eltwise _ _ _ _ _ _ _ fun _ _ _ _ => of_kept_rules

@[simp] theorem kept_compare (d a : BitVec 7) (b : VSrc) (m : BitVec 1) (f : VConf → Nat → Nat → Bool × Flags) (e : Entry) :
    Kept form (compare d a b m f e) := by
  unfold compare
  exact of_kept_rules

@[simp] theorem kept_performVfsgn (d : BitVec 7) (a : BitVec 7) (b : VSrc) (m : BitVec 1) (e : Entry) :
    Kept form (performVfsgn d a b m e) := by
  unfold performVfsgn
  exact of_kept_rules

@[simp] theorem kept_readElem (p : Space) (a : Word) (high : Bool) (w : Nat) : Kept form (readElem p a high w) := by
  unfold readElem
  exact of_kept_rules

@[simp] theorem kept_writeElem (p : Space) (a : Word) (high : Bool) (w x : Nat) : Kept form (writeElem p a high w x) := by
  unfold writeElem
  exact of_kept_rules

@[simp] theorem kept_loadTile (d : BitVec 7) (m : BitVec 1) (p : Space) (md : Addressing) (e : Entry) :
    Kept form (loadTile d m p md e) := by
  unfold loadTile
  exact of_kept_rules

@[simp] theorem kept_storeTile (d : BitVec 7) (m : BitVec 1) (p : Space) (md : Addressing) (e : Entry) :
    Kept form (storeTile d m p md e) := by
  unfold storeTile
  exact of_kept_rules

@[simp] theorem kept_recordFault (bad : Option Nat) : Kept form (recordFault bad) := by unfold recordFault; exact of_kept_rules

@[simp] theorem kept_checkRecord (type : Option Nat) (r : List (BitVec 32)) : Kept form (checkRecord type r) := by
  unfold checkRecord
  exact of_kept_rules

@[simp] theorem kept_performVldt (d : BitVec 7) (a : BitVec 7) (m : BitVec 1) (e : Entry) :
    Kept form (performVldt d a m e) := by
  unfold performVldt
  exact of_kept_rules

@[simp] theorem kept_performVstt (d : BitVec 7) (a : BitVec 7) (m : BitVec 1) (e : Entry) :
    Kept form (performVstt d a m e) := by
  unfold performVstt
  exact of_kept_rules

@[simp] theorem kept_moveTile (c : VConf) (d : BitVec 7) (m : BitVec 1) (srcs : List (BitVec 7))
    (f : VecRegs → BitVec 1024 → Nat → Option Nat) : Kept form (moveTile c d m srcs f) := by
  unfold moveTile
  exact of_kept_rules

@[simp] theorem kept_zipTile (c : VConf) (d a b : BitVec 7) : Kept form (zipTile c d a b) := by
  unfold zipTile
  exact of_kept_rules

@[simp] theorem kept_unzipTile (c : VConf) (d a : BitVec 7) : Kept form (unzipTile c d a) := by
  unfold unzipTile
  exact of_kept_rules

@[simp] theorem kept_performVmv (d : BitVec 7) (a : BitVec 7) (m : BitVec 1) (e : Entry) : Kept form (performVmv d a m e) := by
  unfold performVmv
  exact of_kept_rules

@[simp] theorem kept_performVsel (d : BitVec 7) (a : BitVec 7) (b : BitVec 7) (e : Entry) :
    Kept form (performVsel d a b e) := by
  unfold performVsel
  exact of_kept_rules

@[simp] theorem kept_performViota (d : BitVec 7) (e : Entry) : Kept form (performViota d e) := by
  unfold performViota
  exact of_kept_rules

@[simp] theorem kept_performVslideup (d : BitVec 7) (a : BitVec 7) (m : BitVec 1) (e : Entry) :
    Kept form (performVslideup d a m e) := by
  unfold performVslideup
  exact of_kept_rules

@[simp] theorem kept_performVslidedn (d : BitVec 7) (a : BitVec 7) (m : BitVec 1) (e : Entry) :
    Kept form (performVslidedn d a m e) := by
  unfold performVslidedn
  exact of_kept_rules

@[simp] theorem kept_performVrev (d : BitVec 7) (a : BitVec 7) (m : BitVec 1) (e : Entry) :
    Kept form (performVrev d a m e) := by
  unfold performVrev
  exact of_kept_rules

@[simp] theorem kept_performVcompress (d : BitVec 7) (a : BitVec 7) (e : Entry) : Kept form (performVcompress d a e) := by
  unfold performVcompress
  exact of_kept_rules

@[simp] theorem kept_performVexpand (d : BitVec 7) (a : BitVec 7) (e : Entry) : Kept form (performVexpand d a e) := by
  unfold performVexpand
  exact of_kept_rules

@[simp] theorem kept_performVtos (a : BitVec 7) (e : Entry) : Kept form (performVtos a e) := by
  unfold performVtos
  exact of_kept_rules

@[simp] theorem kept_performStov (d : BitVec 7) (m : BitVec 1) (e : Entry) : Kept form (performStov d m e) := by
  unfold performStov
  exact of_kept_rules

@[simp] theorem kept_performVperm (d : BitVec 7) (a : BitVec 7) (b : BitVec 7) (m : BitVec 1) (e : Entry) :
    Kept form (performVperm d a b m e) := by
  unfold performVperm
  exact of_kept_rules

@[simp] theorem kept_performVzip (d : BitVec 7) (a : BitVec 7) (b : BitVec 7) (e : Entry) :
    Kept form (performVzip d a b e) := by
  unfold performVzip
  exact of_kept_rules

@[simp] theorem kept_performVunzip (d : BitVec 7) (a : BitVec 7) (e : Entry) : Kept form (performVunzip d a e) := by
  unfold performVunzip
  exact of_kept_rules

@[simp] theorem kept_performVqrecv (d : BitVec 7) (a : BitVec 7) (e : Entry) : Kept form (performVqrecv d a e) := by
  unfold performVqrecv
  exact of_kept_rules

end Sys2Proof.Machine
end

section
/-! The canonical form: ordered operations, streams, the copy engine and atomics. -/

namespace Sys2Proof.Machine

set_option Elab.async false
variable {form : Form} {α β : Type} {s : State}

@[simp] theorem kept_setOrder (row : Nat) (w : BitVec 32) : Kept form (setOrder row w) := by
  unfold setOrder
  exact of_kept_rules

@[simp] theorem kept_checkSpan (c : VConf) (n : BitVec 7) (first count : Nat) : Kept form (checkSpan c n first count) := by
  unfold checkSpan
  exact of_kept_rules

@[simp] theorem kept_checkRun (c : VConf) (n : BitVec 7) (rows : Nat) (pay : Bool) : Kept form (checkRun c n rows pay) := by
  unfold checkRun
  exact of_kept_rules

@[simp] theorem kept_needSorted (c : VConf) (n : BitVec 7) (rows opnd : Nat) : Kept form (needSorted c n rows opnd) := by
  unfold needSorted
  exact of_kept_rules

@[simp] theorem kept_readRun (c : VConf) (n : BitVec 7) (rows : Nat) : Kept form (readRun c n rows) := by
  unfold readRun
  exact of_kept_rules

@[simp] theorem kept_needKt (c : VConf) (r : Run) (opnd : Nat) : Kept form (needKt c r opnd) := by
  unfold needKt
  exact of_kept_rules

@[simp] theorem kept_setRun (c : VConf) (n off rows pay : Nat) (keys pays : List Nat) (desc : Bool) (pk : Nat) :
    Kept form (setRun c n off rows pay keys pays desc pk) := by
  unfold setRun
  exact of_kept_rules

theorem kept_ordEntry (e : Entry) (m : BitVec 1) (body : VConf → M Unit) (hbody : ∀ x, Kept form (body x)) :
    Kept form (ordEntry e m body) := by
  unfold ordEntry
  exact of_kept_rules

@[simp] theorem kept_sortTile (d a : BitVec 7) (pk : Nat) (byRow desc : Bool) (c : VConf) (m : BitVec 1) :
    Kept form (sortTile d a pk byRow desc c m) := by
  unfold sortTile
  exact of_kept_rules

@[simp] theorem kept_twoRuns (c : VConf) (d a b : BitVec 7) (rows : Nat) : Kept form (twoRuns c d a b rows) := by
  unfold twoRuns
  exact of_kept_rules

theorem kept_intoRun (c : VConf) (d : BitVec 7) (tiles pk : Nat) (srcs : List (BitVec 7)) (body : M Unit)
    (hbody : Kept form body) : Kept form (intoRun c d tiles pk srcs body) := by
  unfold intoRun
  exact of_kept_rules

@[simp] theorem kept_matchRuns (d a b : BitVec 7) (keep : Nat → Nat → Bool) (c : VConf) :
    Kept form (matchRuns d a b keep c) := by
  have hintoRun := @kept_intoRun form
  unfold matchRuns
  exact of_kept_rules

@[simp] theorem kept_uniqueRun (d a : BitVec 7) (counted : Bool) (c : VConf) : Kept form (uniqueRun d a counted c) := by
  have hintoRun := @kept_intoRun form
  unfold uniqueRun
  exact of_kept_rules

@[simp] theorem kept_rankTile (d a b : BitVec 7) (m : BitVec 1) (counts : Nat → Nat → Nat → Bool) (c : VConf) :
    Kept form (rankTile d a b m counts c) := by
  unfold rankTile
  exact of_kept_rules

@[simp] theorem kept_partTile (d a b : BitVec 7) (m : BitVec 1) (c : VConf) : Kept form (partTile d a b m c) := by
  unfold partTile
  exact of_kept_rules

@[simp] theorem kept_streamHead (slot : Nat) (st : Stream) (k : Nat) : Kept form (streamHead slot st k) := by
  unfold streamHead
  exact of_kept_rules

@[simp] theorem kept_checkHead (st : Stream) (k : Nat) (desc : Bool) (last : Option (BitVec 32)) (opnd kt : Nat)
    (i : Option Nat) : Kept form (checkHead st k desc last opnd kt i) := by
  unfold checkHead
  exact of_kept_rules

@[simp] theorem kept_mergeHeads (sa sb : Nat × Stream) (desc : Bool) (kt n j k : Nat) (l m : Option (BitVec 32)) :
    Kept form (mergeHeads sa sb desc kt n j k l m) := by
  induction n generalizing j k l m with
  | zero => exact kept_pure _
  | succ n ih => unfold mergeHeads; exact of_kept_rules

@[simp] theorem kept_needBinding (c : VConf) (n : BitVec 7) (out : Bool) : Kept form (needBinding c n out) := by
  unfold needBinding
  exact of_kept_rules

@[simp] theorem kept_mergeStreams (d a b : BitVec 7) (c : VConf) : Kept form (mergeStreams d a b c) := by
  unfold mergeStreams
  exact of_kept_rules

@[simp] theorem kept_performVsort (d : BitVec 7) (a : BitVec 7) (p : BitVec 2) (w : BitVec 1) (y : BitVec 1) (m : BitVec 1)
    (e : Entry) : Kept form (performVsort d a p w y m e) := by
  have hordEntry := @kept_ordEntry form
  unfold performVsort
  exact of_kept_rules

@[simp] theorem kept_performVmerge (d : BitVec 7) (a : BitVec 7) (b : BitVec 7) (e : Entry) :
    Kept form (performVmerge d a b e) := by
  have hordEntry := @kept_ordEntry form
  have hintoRun := @kept_intoRun form
  unfold performVmerge
  exact of_kept_rules

@[simp] theorem kept_performVmerges (d : BitVec 7) (a : BitVec 7) (b : BitVec 7) (e : Entry) :
    Kept form (performVmerges d a b e) := by
  have hordEntry := @kept_ordEntry form
  unfold performVmerges
  exact of_kept_rules

@[simp] theorem kept_performVinter (d : BitVec 7) (a : BitVec 7) (b : BitVec 7) (e : Entry) :
    Kept form (performVinter d a b e) := by
  have hordEntry := @kept_ordEntry form
  unfold performVinter
  exact of_kept_rules

@[simp] theorem kept_performVuniq (d : BitVec 7) (a : BitVec 7) (e : Entry) : Kept form (performVuniq d a e) := by
  have hordEntry := @kept_ordEntry form
  unfold performVuniq
  exact of_kept_rules

@[simp] theorem kept_performVrank (d : BitVec 7) (a : BitVec 7) (b : BitVec 7) (m : BitVec 1) (e : Entry) :
    Kept form (performVrank d a b m e) := by
  have hordEntry := @kept_ordEntry form
  unfold performVrank
  exact of_kept_rules

@[simp] theorem kept_performVranku (d : BitVec 7) (a : BitVec 7) (b : BitVec 7) (m : BitVec 1) (e : Entry) :
    Kept form (performVranku d a b m e) := by
  have hordEntry := @kept_ordEntry form
  unfold performVranku
  exact of_kept_rules

@[simp] theorem kept_performVpart (d : BitVec 7) (a : BitVec 7) (b : BitVec 7) (m : BitVec 1) (e : Entry) :
    Kept form (performVpart d a b m e) := by
  have hordEntry := @kept_ordEntry form
  unfold performVpart
  exact of_kept_rules

@[simp] theorem kept_performVchko (a : BitVec 7) (p : BitVec 2) (y : BitVec 1) (e : Entry) :
    Kept form (performVchko a p y e) := by
  have hordEntry := @kept_ordEntry form
  unfold performVchko
  exact of_kept_rules

@[simp] theorem kept_performVtopk (d : BitVec 7) (a : BitVec 7) (m : BitVec 1) (e : Entry) :
    Kept form (performVtopk d a m e) := by
  have hordEntry := @kept_ordEntry form
  unfold performVtopk
  exact of_kept_rules

@[simp] theorem kept_performVdiff (d : BitVec 7) (a : BitVec 7) (b : BitVec 7) (e : Entry) :
    Kept form (performVdiff d a b e) := by
  have hordEntry := @kept_ordEntry form
  unfold performVdiff
  exact of_kept_rules

@[simp] theorem kept_performVuniqc (d : BitVec 7) (a : BitVec 7) (e : Entry) : Kept form (performVuniqc d a e) := by
  have hordEntry := @kept_ordEntry form
  unfold performVuniqc
  exact of_kept_rules

@[simp] theorem kept_performVmot (a : BitVec 7) (e : Entry) : Kept form (performVmot a e) := by
  unfold performVmot
  exact of_kept_rules

@[simp] theorem kept_performVmto (a : BitVec 7) (e : Entry) : Kept form (performVmto a e) := by
  unfold performVmto
  exact of_kept_rules

@[simp] theorem kept_boundRow (c : VConf) (a : BitVec 7) : Kept form (boundRow c a) := by unfold boundRow; exact of_kept_rules

@[simp] theorem kept_flushStream (slot : Nat) (st : Stream) : Kept form (flushStream slot st) := by
  unfold flushStream
  exact of_kept_rules

@[simp] theorem kept_bindRow (c : VConf) (d a : BitVec 7) (outp : Bool) : Kept form (bindRow c d a outp) := by
  unfold bindRow
  exact of_kept_rules

@[simp] theorem kept_unbindAll : Kept form unbindAll := by unfold unbindAll; exact of_kept_rules

@[simp] theorem kept_refillSlot (slot : Nat) : Kept form (refillSlot slot) := by unfold refillSlot; exact of_kept_rules

@[simp] theorem kept_performSunbind (a : BitVec 7) (e : Entry) : Kept form (performSunbind a e) := by
  unfold performSunbind
  exact of_kept_rules

@[simp] theorem kept_performSstat (a : BitVec 7) (e : Entry) : Kept form (performSstat a e) := by
  unfold performSstat
  exact of_kept_rules

@[simp] theorem kept_performSadv (a : BitVec 7) (e : Entry) : Kept form (performSadv a e) := by
  unfold performSadv
  exact of_kept_rules

@[simp] theorem kept_performSflush (a : BitVec 7) (e : Entry) : Kept form (performSflush a e) := by
  unfold performSflush
  exact of_kept_rules

theorem canonical_ringMark (c off i : Nat) (b : Bool) (h : s.Canonical form) : (ringMark c off i b s).Canonical form :=
  canonical_putSp h ..

theorem canonical_ringPost (c off : Nat) (bytes : List Byte) (h : s.Canonical form) :
    (ringPost c off bytes s).2.Canonical form := by
  unfold ringPost
  split
  · exact h
  · split
    · exact h
    · exact canonical_putSp (canonical_ringMark _ _ _ _ (canonical_putSp h ..)) ..

@[simp] theorem kept_postRecord (core : Nat) (ring : Word) (bytes : List Byte) : Kept form (postRecord core ring bytes) := by
  unfold postRecord
  refine kept_get_bind fun s hs => ?_
  have hpost := canonical_ringPost (ringPlace core ring).1 (ringPlace core ring).2 bytes hs
  rcases hr : ringPost (ringPlace core ring).1 (ringPlace core ring).2 bytes s with ⟨r, t⟩
  rw [hr] at hpost
  dsimp only at hpost ⊢
  rw [hr]
  exact of_kept_rules

@[simp] theorem kept_postFor (hart : Option Nat) (core : Nat) (ring : Word) (bytes : List Byte) :
    Kept form (postFor hart core ring bytes) := by
  unfold postFor
  exact of_kept_rules

@[simp] theorem kept_ringWaits (core : Nat) (ring : Word) (n : Nat) (locks : List Interlock) (hart : Nat) :
    Kept form (ringWaits core ring n locks hart) := by
  unfold ringWaits
  exact of_kept_rules

@[simp] theorem kept_postAfter (locks : List Interlock) (hart : Nat) (to' : Option Nat) (core : Nat) (ring : Word)
    (bytes : List Byte) : Kept form (postAfter locks hart to' core ring bytes) := by
  unfold postAfter
  exact of_kept_rules

@[simp] theorem kept_ringAccess (c off n : Nat) (write : Bool) (a : Word) : Kept form (ringAccess c off n write a) := by
  unfold ringAccess
  exact of_kept_rules

@[simp] theorem kept_needRing (a : Word) (field : BitVec 7) : Kept form (needRing a field) := by
  unfold needRing
  exact of_kept_rules

theorem kept_asEngine (hart : Nat) (priv : BitVec 2) (held : List Interlock) {α : Type} (m : M α) (hm : Kept form m) :
    Kept form (asEngine hart priv held m) := by
  unfold asEngine
  exact of_kept_rules

@[simp] theorem kept_needCompletion (pair : Word × Word) (field : BitVec 7) (noStart : Bool) :
    Kept form (needCompletion pair field noStart) := by
  unfold needCompletion
  exact of_kept_rules

@[simp] theorem kept_needCompletionRing (b : BitVec 7) (k : Completion) : Kept form (needCompletionRing b k) := by
  unfold needCompletionRing
  exact of_kept_rules

@[simp] theorem kept_issue (src dst : List (BitVec 32)) (patches : Option (List (BitVec 32))) (k : Completion) (start : Nat)
    (e : Entry) : Kept form (issue src dst patches k start e) := by
  unfold issue
  exact of_kept_rules

theorem kept_atAddress {α : Type} (a : Word) (m : M α) (hm : Kept form m) : Kept form (atAddress a m : M α) := by
  unfold atAddress
  exact of_kept_rules

@[simp] theorem kept_moveElem (c : Channel) (k : Nat) : Kept form (moveElem c k) := by
  have hatAddress := @kept_atAddress form
  unfold moveElem
  exact of_kept_rules

@[simp] theorem kept_moveFrom (c : Channel) (n k : Nat) : Kept form (moveFrom c n k) := by
  induction n generalizing k with
  | zero => exact kept_pure _
  | succ n ih => unfold moveFrom; exact of_kept_rules

@[simp] theorem kept_flagWrite (k : Completion) : Kept form (flagWrite k) := by
  have hatAddress := @kept_atAddress form
  unfold flagWrite
  exact of_kept_rules

@[simp] theorem kept_putChannel (core ch : Nat) (x : Channel) : Kept form (putChannel core ch x) := by
  unfold putChannel
  exact of_kept_rules

@[simp] theorem kept_unlockChannel (core ch : Nat) : Kept form (unlockChannel core ch) := by
  unfold unlockChannel
  exact of_kept_rules

@[simp] theorem kept_emptyLock (core : Nat) (coll : Bool) (unit : Nat) : Kept form (emptyLock core coll unit) := by
  unfold emptyLock
  exact of_kept_rules

@[simp] theorem kept_postHeld (core ch : Nat) (x : Channel) : Kept form (postHeld core ch x) := by
  unfold postHeld
  exact of_kept_rules

@[simp] theorem kept_transferFault (core ch : Nat) (x : Channel) (f : ElemFault) : Kept form (transferFault core ch x f) := by
  unfold transferFault
  exact of_kept_rules

@[simp] theorem kept_transferDone (core ch : Nat) (x : Channel) : Kept form (transferDone core ch x) := by
  unfold transferDone
  exact of_kept_rules

@[simp] theorem kept_runChannel (core ch : Nat) : Kept form (runChannel core ch) := by
  have hasEngine := @kept_asEngine form
  unfold runChannel
  exact of_kept_rules

@[simp] theorem kept_channelNum (x : Word) (a : BitVec 7) : Kept form (channelNum x a) := by
  unfold channelNum
  exact of_kept_rules

@[simp] theorem kept_ownPool (a : Word) : Kept form (ownPool a) := by unfold ownPool; exact of_kept_rules

@[simp] theorem kept_checkPatches (src dst ps : List (BitVec 32)) : Kept form (checkPatches src dst ps) := by
  unfold checkPatches
  exact of_kept_rules

@[simp] theorem kept_rowWords (c : VConf) (row : Nat) : Kept form (rowWords c row) := by unfold rowWords; exact of_kept_rules

@[simp] theorem kept_performCopy (d : BitVec 7) (a : BitVec 7) (b : BitVec 7) (e : Entry) :
    Kept form (performCopy d a b e) := by
  unfold performCopy
  exact of_kept_rules

@[simp] theorem kept_performCopyg (d : BitVec 7) (a : BitVec 7) (b : BitVec 7) (e : Entry) :
    Kept form (performCopyg d a b e) := by
  unfold performCopyg
  exact of_kept_rules

@[simp] theorem kept_faultedChannel (x : Word) (a : BitVec 7) : Kept form (faultedChannel x a) := by
  unfold faultedChannel
  exact of_kept_rules

@[simp] theorem kept_performCresume (a : BitVec 7) (e : Entry) : Kept form (performCresume a e) := by
  unfold performCresume
  exact of_kept_rules

@[simp] theorem kept_performCresumeAbort (a : BitVec 7) (e : Entry) : Kept form (performCresumeAbort a e) := by
  unfold performCresumeAbort
  exact of_kept_rules

@[simp] theorem kept_performRinit (b : BitVec 7) (e : Entry) : Kept form (performRinit b e) := by
  unfold performRinit
  exact of_kept_rules

@[simp] theorem kept_performRawait (a : BitVec 7) (e : Entry) : Kept form (performRawait a e) := by
  unfold performRawait
  exact of_kept_rules

@[simp] theorem kept_performRrel (a : BitVec 7) (e : Entry) : Kept form (performRrel a e) := by
  have hringMark := @canonical_ringMark form
  unfold performRrel
  exact of_kept_rules

@[simp] theorem kept_performWaita (p : BitVec 1) (c : BitVec 3) (e : Entry) : Kept form (performWaita p c e) := by
  unfold performWaita
  exact of_kept_rules

@[simp] theorem kept_performCstat (a : BitVec 7) (e : Entry) : Kept form (performCstat a e) := by
  unfold performCstat
  exact of_kept_rules

@[simp] theorem kept_engineFault : Kept form engineFault := by unfold engineFault; exact of_kept_rules

theorem kept_releaseIf (r : BitVec 1) (new : M (Option Nat)) (hnew : Kept form (new)) : Kept form (releaseIf r new) := by
  unfold releaseIf
  exact of_kept_rules

theorem kept_atomicStep (sp : Bool) (z : Nat) (r : BitVec 1) (a : Word) (before : M Unit) (new : Nat → M (Option Nat))
    (hbefore : Kept form (before)) (hnew : ∀ x, Kept form (new x)) : Kept form (atomicStep sp z r a before new) := by
  have hreleaseIf := @kept_releaseIf form
  unfold atomicStep
  exact of_kept_rules

@[simp] theorem kept_deliverOld (q : BitVec 1) (signed : Bool) (z old : Nat) : Kept form (deliverOld q signed z old) := by
  unfold deliverOld
  exact of_kept_rules

theorem kept_atomic (sp : Bool) (w r q : BitVec 1) (signed : Bool) (e : Entry) (new : Nat → Nat → M (Option Nat))
    (hnew : ∀ x y, Kept form (new x y)) : Kept form (atomic sp w r q signed e new) := by
  have hatomicStep := @kept_atomicStep form
  unfold atomic
  exact of_kept_rules

@[simp] theorem kept_atomAdd (e : Entry) (z old : Nat) : Kept form (atomAdd e z old) := by unfold atomAdd; exact of_kept_rules

@[simp] theorem kept_atomMin (e : Entry) (z old : Nat) : Kept form (atomMin e z old) := by unfold atomMin; exact of_kept_rules

@[simp] theorem kept_atomMax (e : Entry) (z old : Nat) : Kept form (atomMax e z old) := by unfold atomMax; exact of_kept_rules

@[simp] theorem kept_atomXchg (e : Entry) (z _old : Nat) : Kept form (atomXchg e z _old) := by
  unfold atomXchg
  exact of_kept_rules

@[simp] theorem kept_atomAnd (e : Entry) (_z old : Nat) : Kept form (atomAnd e _z old) := by unfold atomAnd; exact of_kept_rules

@[simp] theorem kept_atomOr (e : Entry) (z old : Nat) : Kept form (atomOr e z old) := by unfold atomOr; exact of_kept_rules

@[simp] theorem kept_atomCas (e : Entry) (z old : Nat) : Kept form (atomCas e z old) := by unfold atomCas; exact of_kept_rules

@[simp] theorem kept_atomFadd (e : Entry) (_z old : Nat) : Kept form (atomFadd e _z old) := by
  unfold atomFadd
  exact of_kept_rules

end Sys2Proof.Machine
end

section
/-! The canonical form: conversion, the matrix unit, predicates, attention, control, keyed banks and the quad's units. -/

namespace Sys2Proof.Machine

set_option Elab.async false
variable {form : Form} {α β : Type} {s : State}

@[simp] theorem kept_convertElem (c : VConf) (t : Nat) (sat : Bool) (x : Nat) : Kept form (convertElem c t sat x) := by
  unfold convertElem
  exact of_kept_rules

theorem kept_convertTile (d a : BitVec 7) (m : BitVec 1) (w : Nat) (f : VConf → Nat → M Nat) (e : Entry)
    (hf : ∀ x y, Kept form (f x y)) : Kept form (convertTile d a m w f e) := by
  unfold convertTile
  exact of_kept_rules

@[simp] theorem kept_blockVl (c : VConf) : Kept form (blockVl c) := by unfold blockVl; exact of_kept_rules

@[simp] theorem kept_blockScale (c : VConf) (xs : List Nat) : Kept form (blockScale c xs) := by
  unfold blockScale
  exact of_kept_rules

@[simp] theorem kept_writeScales (c : VConf) (x : BitVec 7) (v : VecRegs) (a : BitVec 7) (act : Nat → Bool) :
    Kept form (writeScales c x v a act) := by
  unfold writeScales
  exact of_kept_rules

@[simp] theorem kept_quantElem (c : VConf) (xs : List Nat) (x : Nat) : Kept form (quantElem c xs x) := by
  unfold quantElem
  exact of_kept_rules

@[simp] theorem kept_performVsmxe (d : BitVec 7) (a : BitVec 7) (m : BitVec 1) (e : Entry) :
    Kept form (performVsmxe d a m e) := by
  unfold performVsmxe
  exact of_kept_rules

@[simp] theorem kept_performVquant (d : BitVec 7) (a : BitVec 7) (b : BitVec 7) (m : BitVec 1) (e : Entry) :
    Kept form (performVquant d a b m e) := by
  unfold performVquant
  exact of_kept_rules

@[simp] theorem kept_performVdeq (d : BitVec 7) (a : BitVec 7) (b : BitVec 7) (m : BitVec 1) (e : Entry) :
    Kept form (performVdeq d a b m e) := by
  unfold performVdeq
  exact of_kept_rules

@[simp] theorem kept_performVtox (d : BitVec 7) (a : BitVec 7) (e : Entry) : Kept form (performVtox d a e) := by
  unfold performVtox
  exact of_kept_rules

@[simp] theorem kept_performXtov (d : BitVec 7) (a : BitVec 7) (e : Entry) : Kept form (performXtov d a e) := by
  unfold performXtov
  exact of_kept_rules

@[simp] theorem kept_putGuard (g : Nat) (b : Bool) : Kept form (putGuard g b) := by unfold putGuard; exact of_kept_rules

@[simp] theorem kept_checkRowName (c : VConf) (n : BitVec 7) : Kept form (checkRowName c n) := by
  unfold checkRowName
  exact of_kept_rules

@[simp] theorem kept_needShape : Kept form needShape := by unfold needShape; exact of_kept_rules

theorem kept_guarded (c : VConf) (names : M Unit) (body : Shape → M Unit) (hnames : Kept form names) (hbody : ∀ x, Kept form
    (body x)) : Kept form (guarded c names body) := by
  unfold guarded
  exact of_kept_rules

theorem kept_guardedWhole (e : Entry) (names : VConf → M Unit) (body : VConf → Shape → M Unit) (hnames : ∀ x, Kept form
    (names x)) (hbody : ∀ x y, Kept form (body x y)) : Kept form (guardedWhole e names body) := by
  have hguarded := @kept_guarded form
  unfold guardedWhole
  exact of_kept_rules

@[simp] theorem kept_mshape (e : Entry) : Kept form (mshape e) := by unfold mshape; exact of_kept_rules

@[simp] theorem kept_matmul (sh : Shape) (d : Nat) (groups : List (List (Nat × Nat))) (ra : Nat → Nat → Nat → Option
    (Ex × Int)) (rb : Nat → Nat → Option (Ex × Int)) (pad : Nat → Nat → Nat → Nat → Bool) :
    Kept form (matmul sh d groups ra rb pad) := by
  unfold matmul
  exact of_kept_rules

@[simp] theorem kept_checkFA (fa : Nat) (sa : Bool) (m : BitVec 1) : Kept form (checkFA fa sa m) := by
  unfold checkFA
  exact of_kept_rules

@[simp] theorem kept_checkL (c : VConf) (need : Nat) : Kept form (checkL c need) := by unfold checkL; exact of_kept_rules

theorem kept_withFlat (c : VConf) (os : List (Nat × Opnd)) (body : M Unit) (hbody : Kept form body) :
    Kept form (withFlat c os body) := by
  unfold withFlat
  exact of_kept_rules

@[simp] theorem kept_tmmaRows (c : VConf) (sh : Shape) (d : Nat) (a b : BitVec 7) (m : BitVec 1) :
    Kept form (tmmaRows c sh d a b m) := by
  have hwithFlat := @kept_withFlat form
  unfold tmmaRows
  exact of_kept_rules

@[simp] theorem kept_tmmaTile (c : VConf) (sh : Shape) (d a : Nat) (b : BitVec 7) (m : BitVec 1) :
    Kept form (tmmaTile c sh d a b m) := by
  have hwithFlat := @kept_withFlat form
  unfold tmmaTile
  exact of_kept_rules

@[simp] theorem kept_poolOpnd (x y : Word) : Kept form (poolOpnd x y) := by unfold poolOpnd; exact of_kept_rules

@[simp] theorem kept_poolElem (o : PoolOpnd) (fmt i j : Nat) : Kept form (poolElem o fmt i j) := by
  unfold poolElem
  exact of_kept_rules

@[simp] theorem kept_poolTable (o : PoolOpnd) (fmt : Nat) (rows : List Nat) (cols : Nat) :
    Kept form (poolTable o fmt rows cols) := by
  unfold poolTable
  exact of_kept_rules

@[simp] theorem kept_tmmapTile (c : VConf) (sh : Shape) (d : Nat) (m : BitVec 1) (e : Entry) :
    Kept form (tmmapTile c sh d m e) := by
  unfold tmmapTile
  exact of_kept_rules

@[simp] theorem kept_tileLoad (sp : Bool) (d : BitVec 7) (e : Entry) : Kept form (tileLoad sp d e) := by
  have hguarded := @kept_guarded form
  unfold tileLoad
  exact of_kept_rules

@[simp] theorem kept_tileStore (sp : Bool) (d : BitVec 7) (e : Entry) : Kept form (tileStore sp d e) := by
  have hguarded := @kept_guarded form
  unfold tileStore
  exact of_kept_rules

@[simp] theorem kept_flatWrite (c : VConf) (d f x : Nat) : Kept form (flatWrite c d f x) := by
  unfold flatWrite
  exact of_kept_rules

@[simp] theorem kept_tcvtBlocks (c : VConf) (sh : Shape) (d a x : Nat) : Kept form (tcvtBlocks c sh d a x) := by
  unfold tcvtBlocks
  exact of_kept_rules

@[simp] theorem kept_tcvtPlain (c : VConf) (sh : Shape) (d a : Nat) (sat : Bool) : Kept form (tcvtPlain c sh d a sat) := by
  unfold tcvtPlain
  exact of_kept_rules

@[simp] theorem kept_performTmma (t : BitVec 1) (d : BitVec 5) (a : BitVec 7) (b : BitVec 7) (m : BitVec 1) (e : Entry) :
    Kept form (performTmma t d a b m e) := by
  have hguardedWhole := @kept_guardedWhole form
  unfold performTmma
  exact of_kept_rules

@[simp] theorem kept_performTmmap (d : BitVec 7) (m : BitVec 1) (e : Entry) : Kept form (performTmmap d m e) := by
  have hguardedWhole := @kept_guardedWhole form
  unfold performTmmap
  exact of_kept_rules

@[simp] theorem kept_performTzero (d : BitVec 7) (e : Entry) : Kept form (performTzero d e) := by
  have hguardedWhole := @kept_guardedWhole form
  unfold performTzero
  exact of_kept_rules

@[simp] theorem kept_performTcvt (d : BitVec 7) (a : BitVec 7) (sf : BitVec 1) (x : BitVec 3) (e : Entry) :
    Kept form (performTcvt d a sf x e) := by
  have hguardedWhole := @kept_guardedWhole form
  have hwithFlat := @kept_withFlat form
  unfold performTcvt
  exact of_kept_rules

@[simp] theorem kept_performGtest (d : BitVec 7) (a : BitVec 7) (e : Entry) : Kept form (performGtest d a e) := by
  unfold performGtest
  exact of_kept_rules

@[simp] theorem kept_performGset (d : BitVec 7) (e : Entry) : Kept form (performGset d e) := by
  unfold performGset
  exact of_kept_rules

@[simp] theorem kept_predBinary (d a b : BitVec 7) (f : BitVec 1024 → BitVec 1024 → BitVec 1024) :
    Kept form (predBinary d a b f) := by
  unfold predBinary
  exact of_kept_rules

@[simp] theorem kept_predDeliver (a : BitVec 7) (c : VConf) (f : BitVec 1024 → Nat → Word) : Kept form (predDeliver a c f) := by
  unfold predDeliver
  exact of_kept_rules

@[simp] theorem kept_performPall (d : BitVec 7) (e : Entry) : Kept form (performPall d e) := by
  unfold performPall
  exact of_kept_rules

@[simp] theorem kept_performPsel (d : BitVec 7) (a : BitVec 7) (b : BitVec 7) (e : Entry) :
    Kept form (performPsel d a b e) := by
  unfold performPsel
  exact of_kept_rules

@[simp] theorem kept_performPfromv (d : BitVec 7) (a : BitVec 7) (e : Entry) : Kept form (performPfromv d a e) := by
  unfold performPfromv
  exact of_kept_rules

@[simp] theorem kept_performPtov (d : BitVec 7) (a : BitVec 7) (e : Entry) : Kept form (performPtov d a e) := by
  unfold performPtov
  exact of_kept_rules

@[simp] theorem kept_performPld (d : BitVec 7) (e : Entry) : Kept form (performPld d e) := by
  unfold performPld
  exact of_kept_rules

@[simp] theorem kept_performPst (d : BitVec 7) (e : Entry) : Kept form (performPst d e) := by
  unfold performPst
  exact of_kept_rules

@[simp] theorem kept_rneOp (r : Ex × Flags) : Kept form (rneOp r) := by unfold rneOp; exact of_kept_rules

@[simp] theorem kept_softRow (cs mo lo : Nat) (scores : List (Option Nat)) : Kept form (softRow cs mo lo scores) := by
  unfold softRow
  exact of_kept_rules

@[simp] theorem kept_asoftTile (c : VConf) (sh : Shape) (d a : Nat) (e : Entry) : Kept form (asoftTile c sh d a e) := by
  unfold asoftTile
  exact of_kept_rules

@[simp] theorem kept_ascaleTile (sh : Shape) (d : Nat) (factor : Nat → Nat) (div : Bool) :
    Kept form (ascaleTile sh d factor div) := by
  unfold ascaleTile
  exact of_kept_rules

@[simp] theorem kept_performAmask (d : BitVec 7) (e : Entry) : Kept form (performAmask d e) := by
  unfold performAmask
  exact of_kept_rules

@[simp] theorem kept_performAsoft (d : BitVec 7) (a : BitVec 7) (e : Entry) : Kept form (performAsoft d a e) := by
  have hguardedWhole := @kept_guardedWhole form
  unfold performAsoft
  exact of_kept_rules

@[simp] theorem kept_performAscale (d : BitVec 7) (a : BitVec 7) (v : BitVec 1) (e : Entry) :
    Kept form (performAscale d a v e) := by
  have hguardedWhole := @kept_guardedWhole form
  unfold performAscale
  exact of_kept_rules

@[simp] theorem kept_binary (d a b : BitVec 7) (f : Word → Word → Word) : Kept form (binary d a b f) := by
  unfold binary
  exact of_kept_rules

@[simp] theorem kept_unary (d a : BitVec 7) (f : Word → Word) : Kept form (unary d a f) := by unfold unary; exact of_kept_rules

@[simp] theorem kept_pushFrame (f : Frame) : Kept form (pushFrame f) := by unfold pushFrame; exact of_kept_rules

@[simp] theorem kept_pushCall (ret : Word) : Kept form (pushCall ret) := by unfold pushCall; exact of_kept_rules

@[simp] theorem kept_topFrame : Kept form topFrame := by unfold topFrame; exact of_kept_rules

@[simp] theorem kept_popFrame : Kept form popFrame := by unfold popFrame; exact of_kept_rules

@[simp] theorem kept_placeAt (pc na nb : Word) : Kept form (placeAt pc na nb) := by unfold placeAt; exact of_kept_rules

@[simp] theorem kept_callReturn : Kept form callReturn := by unfold callReturn; exact of_kept_rules

@[simp] theorem kept_jumpAddr (a : BitVec 7) : Kept form (jumpAddr a) := by unfold jumpAddr; exact of_kept_rules

@[simp] theorem kept_readGate (n : BitVec 10) : Kept form (readGate n) := by unfold readGate; exact of_kept_rules

@[simp] theorem kept_readSlots (base : Word) (n i : Nat) : Kept form (readSlots base n i) := by
  induction n generalizing i with
  | zero => exact kept_pure _
  | succ n ih => unfold readSlots; exact of_kept_rules

@[simp] theorem kept_checkSlot (ppriv : BitVec 2) (i : Nat) (ws : List Word) : Kept form (checkSlot ppriv i ws) := by
  unfold checkSlot
  exact of_kept_rules

@[simp] theorem kept_requeue (ws : List Word) : Kept form (requeue ws) := by unfold requeue; exact of_kept_rules

@[simp] theorem kept_restoreFetch : Kept form restoreFetch := by unfold restoreFetch; exact of_kept_rules

@[simp] theorem kept_setQueue (n : BitVec 7) (xs : List Word) : Kept form (setQueue n xs) := by
  unfold setQueue
  exact of_kept_rules

@[simp] theorem kept_endWaiti : Kept form endWaiti := by unfold endWaiti; exact of_kept_rules

@[simp] theorem kept_keyf {α : Type} (h : BitVec 2) (reason : Nat) : Kept form (keyf h reason : M α) := by
  unfold keyf
  exact of_kept_rules

@[simp] theorem kept_putKeyed (h : BitVec 2) (r : Option Keyed) : Kept form (putKeyed h r) := by
  unfold putKeyed
  exact of_kept_rules

@[simp] theorem kept_keyedOf (h : BitVec 2) : Kept form (keyedOf h) := by unfold keyedOf; exact of_kept_rules

@[simp] theorem kept_checkKeyed (c : VConf) (h : BitVec 2) (wantSealed : Option Bool) :
    Kept form (checkKeyed c h wantSealed) := by
  unfold checkKeyed
  exact of_kept_rules

@[simp] theorem kept_needOwn (off n : Nat) (write : Bool) : Kept form (needOwn off n write) := by
  unfold needOwn
  exact of_kept_rules

@[simp] theorem kept_soundSpan (r : Keyed) (off n : Nat) : Kept form (soundSpan r off n) := by
  unfold soundSpan
  exact of_kept_rules

@[simp] theorem kept_bucketMeta (r : Keyed) (i : Nat) : Kept form (bucketMeta r i) := by unfold bucketMeta; exact of_kept_rules

@[simp] theorem kept_putOwn (off n x : Nat) : Kept form (putOwn off n x) := by unfold putOwn; exact of_kept_rules

@[simp] theorem kept_findSlot (r : Keyed) (i k : Nat) : Kept form (findSlot r i k) := by unfold findSlot; exact of_kept_rules

@[simp] theorem kept_findKeyed (r : Keyed) (k : Nat) : Kept form (findKeyed r k) := by unfold findKeyed; exact of_kept_rules

@[simp] theorem kept_storeFree (r : Keyed) (i k v : Nat) : Kept form (storeFree r i k v) := by
  unfold storeFree
  exact of_kept_rules

@[simp] theorem kept_setMeta (r : Keyed) (i bit : Nat) : Kept form (setMeta r i bit) := by unfold setMeta; exact of_kept_rules

@[simp] theorem kept_insertKeyed (h : BitVec 2) (r : Keyed) (k v : Nat) : Kept form (insertKeyed h r k v) := by
  unfold insertKeyed
  exact of_kept_rules

@[simp] theorem kept_groupOp (op : KeyOp) (h : BitVec 2) (r : Keyed) (value : Nat → Nat) (quiet : Nat → Bool) (k : Nat)
    (js : List Nat) : Kept form (groupOp op h r value quiet k js) := by
  unfold groupOp
  exact of_kept_rules

@[simp] theorem kept_groupsOp (op : KeyOp) (h : BitVec 2) (r : Keyed) (value : Nat → Nat) (quiet : Nat → Bool)
    (gs : List (Nat × List Nat)) : Kept form (groupsOp op h r value quiet gs) := by
  induction gs with
  | nil => exact kept_pure _
  | cons g gs ih => unfold groupsOp; exact of_kept_rules

theorem kept_keyWhole (h : BitVec 2) (m : M Unit) (hm : Kept form m) : Kept form (keyWhole h m) := by
  unfold keyWhole
  exact of_kept_rules

@[simp] theorem kept_keyedAccess (op : KeyOp) (d a : BitVec 7) (h : BitVec 2) (m : BitVec 1) (e : Entry) :
    Kept form (keyedAccess op d a h m e) := by
  have hkeyWhole := @kept_keyWhole form
  unfold keyedAccess
  exact of_kept_rules

@[simp] theorem kept_soundBuckets (r : Keyed) : Kept form (soundBuckets r) := by unfold soundBuckets; exact of_kept_rules

@[simp] theorem kept_zeroMeta (r : Keyed) : Kept form (zeroMeta r) := by unfold zeroMeta; exact of_kept_rules

@[simp] theorem kept_performKclaim (h : BitVec 2) (e : Entry) : Kept form (performKclaim h e) := by
  unfold performKclaim
  exact of_kept_rules

@[simp] theorem kept_performKfree (h : BitVec 2) (e : Entry) : Kept form (performKfree h e) := by
  unfold performKfree
  exact of_kept_rules

@[simp] theorem kept_performKdrn (d : BitVec 7) (h : BitVec 2) (e : Entry) : Kept form (performKdrn d h e) := by
  have hkeyWhole := @kept_keyWhole form
  unfold performKdrn
  exact of_kept_rules

@[simp] theorem kept_performKstat (h : BitVec 2) (e : Entry) : Kept form (performKstat h e) := by
  unfold performKstat
  exact of_kept_rules

@[simp] theorem kept_performKseal (h : BitVec 2) (e : Entry) : Kept form (performKseal h e) := by
  unfold performKseal
  exact of_kept_rules

@[simp] theorem kept_performKclear (h : BitVec 2) (e : Entry) : Kept form (performKclear h e) := by
  unfold performKclear
  exact of_kept_rules

@[simp] theorem kept_needSems (n : BitVec 5) : Kept form (needSems n) := by unfold needSems; exact of_kept_rules

@[simp] theorem kept_putSem (n : BitVec 5) (x : Sem) : Kept form (putSem n x) := by unfold putSem; exact of_kept_rules

@[simp] theorem kept_retireOf (n : Nat) : Kept form (retireOf n) := by unfold retireOf; exact of_kept_rules

theorem canonical_putBarrier (sf : BitVec 3) (inst n : Nat) (b : Barrier) (h : s.Canonical form) :
    (putBarrier sf inst n b s).Canonical form := by
  unfold putBarrier
  exact of_kept_rules

@[simp] theorem kept_barStrf {α : Type} (sf : BitVec 3) (n : BitVec 4) : Kept form (barStrf sf n : M α) := by
  unfold barStrf
  exact of_kept_rules

@[simp] theorem kept_needPod (sf : BitVec 3) (n : BitVec 4) : Kept form (needPod sf n) := by unfold needPod; exact of_kept_rules

@[simp] theorem kept_barNumber (sf : BitVec 3) (n : BitVec 4) (e : Entry) : Kept form (barNumber sf n e) := by
  unfold barNumber
  exact of_kept_rules

@[simp] theorem kept_arriveAt (sf : BitVec 3) (n : BitVec 4) (count : Nat) : Kept form (arriveAt sf n count) := by
  have hputBarrier := @canonical_putBarrier form
  unfold arriveAt
  exact of_kept_rules

@[simp] theorem kept_qatomCheck (a : Word) : Kept form (qatomCheck a) := by unfold qatomCheck; exact of_kept_rules

@[simp] theorem kept_performSemts (n : BitVec 5) (e : Entry) : Kept form (performSemts n e) := by
  unfold performSemts
  exact of_kept_rules

@[simp] theorem kept_performSemtry (n : BitVec 5) (e : Entry) : Kept form (performSemtry n e) := by
  unfold performSemtry
  exact of_kept_rules

@[simp] theorem kept_performSemclr (n : BitVec 5) (e : Entry) : Kept form (performSemclr n e) := by
  unfold performSemclr
  exact of_kept_rules

@[simp] theorem kept_performCrd (n : BitVec 5) (e : Entry) : Kept form (performCrd n e) := by
  unfold performCrd
  exact of_kept_rules

@[simp] theorem kept_performCwr (r : BitVec 1) (n : BitVec 5) (e : Entry) : Kept form (performCwr r n e) := by
  unfold performCwr
  exact of_kept_rules

@[simp] theorem kept_performQatom (d : BitVec 7) (a : BitVec 7) (r : BitVec 1) (_c : BitVec 1) (o : BitVec 3) (m : BitVec 1)
    (e : Entry) : Kept form (performQatom d a r _c o m e) := by
  unfold performQatom
  exact of_kept_rules

@[simp] theorem kept_performBarv (a : BitVec 7) (sf : BitVec 3) (n : BitVec 4) (e : Entry) :
    Kept form (performBarv a sf n e) := by
  unfold performBarv
  exact of_kept_rules

@[simp] theorem kept_performBarw (sf : BitVec 3) (n : BitVec 4) (e : Entry) : Kept form (performBarw sf n e) := by
  unfold performBarw
  exact of_kept_rules

@[simp] theorem kept_performBaraInit (sf : BitVec 3) (n : BitVec 4) (e : Entry) : Kept form (performBaraInit sf n e) := by
  have hputBarrier := @canonical_putBarrier form
  unfold performBaraInit
  exact of_kept_rules

end Sys2Proof.Machine
end

section
/-! The canonical form: system registers, save areas, key-value tables, tasks and stages. -/

namespace Sys2Proof.Machine

set_option Elab.async false
variable {form : Form} {α β : Type} {s : State}

@[simp] theorem kept_readmit (target : Nat) : Kept form (readmit target) :=
  kept_modify fun _ h => canonical_ite _ (canonical_setPkg (canonical_foldl (fun _ _ h => canonical_setPkg h ..) _ h) ..) h

@[simp] theorem kept_illIf (p : Bool) : Kept form (illIf p) := by unfold illIf; exact of_kept_rules

@[simp] theorem kept_writeReg (n : Nat) (v : Word) : Kept form (writeReg n v) := by
  unfold writeReg
  refine kept_get_bind fun s hs => ?_
  dsimp only
  split <;> exact of_kept_rules

@[simp] theorem kept_checkReg (n : Nat) : Kept form (checkReg n) := by unfold checkReg; exact of_kept_rules

@[simp] theorem kept_unpackStream (kept : List (BitVec 32)) (ws : List (BitVec 32)) : Kept form (unpackStream kept ws) := by
  unfold unpackStream
  exact of_kept_rules

@[simp] theorem kept_wrBytes (v : Word) (bs : List Byte) : Kept form (wrBytes v bs) := by
  induction bs generalizing v with
  | nil => exact kept_pure _
  | cons b bs ih => unfold wrBytes; exact of_kept_rules

@[simp] theorem kept_rdBytes (v : Word) (n : Nat) : Kept form (rdBytes v n) := by unfold rdBytes; exact of_kept_rules

@[simp] theorem kept_saveContext (area : Word) : Kept form (saveContext area) := by unfold saveContext; exact of_kept_rules

@[simp] theorem kept_restoreQueue (w : List Word) (n i : Nat) : Kept form (restoreQueue w n i) := by
  induction n generalizing i with
  | zero => exact kept_pure _
  | succ n ih => unfold restoreQueue; exact of_kept_rules

@[simp] theorem kept_restoreRow (area : Word) (w : List Word) (r : Nat) : Kept form (restoreRow area w r) := by
  unfold restoreRow
  exact of_kept_rules

@[simp] theorem kept_restoreTile (area : Word) (rows t : Nat) : Kept form (restoreTile area rows t) := by
  unfold restoreTile
  exact of_kept_rules

@[simp] theorem kept_restoreContext (area : Word) (kept : List (Nat × List (BitVec 32))) :
    Kept form (restoreContext area kept) := by
  unfold restoreContext
  exact of_kept_rules

theorem canonical_popStack {base f : Nat} {t : State} (hr : popStack base s = some (f, t)) (h : s.Canonical form) :
    t.Canonical form := by
  unfold popStack at hr
  dsimp only at hr
  split at hr
  · cases hr
  · rw [← (Prod.mk.inj (Option.some.inj hr)).2]
    exact canonical_putNat h ..

@[simp] theorem kept_pushStack (q base frame : Nat) : Kept form (pushStack q base frame) := by
  unfold pushStack
  exact of_kept_rules

@[simp] theorem kept_modPageIn (q g : Nat) (f : PageIn → PageIn) : Kept form (modPageIn q g f) := by
  unfold modPageIn
  exact of_kept_rules

@[simp] theorem kept_releaseBlock (q g : Nat) : Kept form (releaseBlock q g) := by unfold releaseBlock; exact of_kept_rules

@[simp] theorem kept_rollBack (q base t n i : Nat) : Kept form (rollBack q base t n i) := by
  induction n generalizing i with
  | zero => exact kept_pure _
  | succ n ih => unfold rollBack; exact of_kept_rules

@[simp] theorem kept_rollBackRequest (q : Nat) (r : BitVec 16) : Kept form (rollBackRequest q r) := by
  unfold rollBackRequest
  exact of_kept_rules

theorem kept_onHart (n : Nat) {m : M α} (hm : Kept form m) : Kept form (onHart n m) := by
  unfold onHart
  exact of_kept_rules

theorem canonical_setEntries (h : s.Canonical form) (l : Level) (xs : List Queued) : (s.setEntries l xs).Canonical form := by
  unfold State.setEntries
  exact of_kept_rules

theorem canonical_writeStore (d n : Nat) {s : State} (h : s.Canonical form) : (s.writeStore d n).Canonical form := by
  induction n generalizing s with
  | zero => exact h
  | succ n ih => exact ih (canonical_same (canonical_putBytes h ..))

theorem canonical_appendAll (h : s.Canonical form) (l : Level) (xs : List Queued) : (s.appendAll l xs).Canonical form := by
  have hset := canonical_setEntries h l (s.entries l ++ xs)
  unfold State.appendAll
  split
  · exact canonical_writeStore _ _ hset
  · exact hset

theorem canonical_append (h : s.Canonical form) (l : Level) (x : Queued) : (s.append l x).Canonical form :=
  canonical_appendAll h l [x]

theorem canonical_lift (h : s.Canonical form) (l u : Level) : (s.lift l u).Canonical form :=
  canonical_appendAll (canonical_setEntries h ..) ..

theorem canonical_makeRoom (n : Nat) (l : Level) (h : s.Canonical form) : (makeRoom n l s).Canonical form := by
  induction n generalizing l with
  | zero => exact h
  | succ n ih =>
    unfold makeRoom
    split
    · exact h
    · split
      · exact canonical_lift (ih _) ..
      · exact h

theorem canonical_insertAt {l : Level} {x : Queued} {t : State} (ht : insertAt l x s = some t) (h : s.Canonical form) :
    t.Canonical form := by
  have happend := canonical_append h l x
  unfold insertAt at ht
  dsimp only at ht
  repeat' split at ht
  all_goals cases ht
  · exact canonical_lift (canonical_makeRoom _ _ happend) ..
  · exact happend
  · exact happend

theorem canonical_requeueAt (l : Level) (x : Queued) (h : s.Canonical form) : (requeueAt l x s).Canonical form := by
  unfold requeueAt
  split
  next ht => exact canonical_insertAt ht h
  next => exact canonical_append h ..

theorem canonical_expel (l : Level) (h : s.Canonical form) : (expel l s).Canonical form := by
  have hset := canonical_setEntries h l ((s.entries l).filter (l.serves s))
  have hall := canonical_foldl (f := fun s t => requeueAt (.die ((l.cores.headD 0) / 48)) t s)
    (fun _ _ h => canonical_requeueAt _ _ h) ((s.entries l).filter fun t => !l.serves s t) hset
  cases l with
  | core => exact canonical_ite _ h hall
  | quad => exact canonical_ite _ h hall
  | die => exact h
  | store => exact h

theorem canonical_pull {l : Level} {t : State} (ht : pull l s = some t) (h : s.Canonical form) : t.Canonical form := by
  unfold pull at ht
  dsimp only at ht
  repeat' split at ht
  all_goals cases ht
  exact canonical_setEntries (canonical_setEntries h ..) ..

theorem canonical_setEvent (d n : Nat) (v : BitVec 32) (h : s.Canonical form) : (setEvent d n v s).Canonical form := by
  unfold setEvent
  dsimp only
  split
  · exact canonical_foldl (fun _ _ h => canonical_requeueAt _ _ h) _ (canonical_setDie (canonical_setDie h ..) ..)
  · exact canonical_setDie h ..

theorem canonical_insertTask {d : Nat} {core : Option Nat} {x : Queued} {t : State} (ht : insertTask d core x s = some t)
    (h : s.Canonical form) : t.Canonical form := by
  unfold insertTask at ht
  repeat' split at ht
  · cases ht; exact canonical_setDie h ..
  · cases ht
  · exact canonical_insertAt ht h
  · exact canonical_insertAt ht h
  · exact canonical_insertAt ht h

@[simp] theorem kept_catchUp : Kept form catchUp := by unfold catchUp; exact of_kept_rules

theorem canonical_setRequest (p : Nat) (r : BitVec 16) (v : Nat) (h : s.Canonical form) : (setRequest p r v s).Canonical form :=
  canonical_putNat h ..

@[simp] theorem kept_recordStatus (n : Nat) (stat : Word) (kind status : Nat) (held : Word) :
    Kept form (recordStatus n stat kind status held) := by
  have hasEngine := @kept_asEngine form
  unfold recordStatus
  exact of_kept_rules

@[simp] theorem kept_doneEvent (d : Nat) (t : Descriptor) : Kept form (doneEvent d t) := by
  have hsetEvent := @canonical_setEvent form
  unfold doneEvent
  exact of_kept_rules

@[simp] theorem kept_releaseDone (n : Nat) (t : Descriptor) : Kept form (releaseDone n t) := by
  unfold releaseDone
  exact of_kept_rules

@[simp] theorem kept_payOwed (d : Nat) : Kept form (payOwed d) := by
  have hsetEvent := @canonical_setEvent form
  unfold payOwed
  exact of_kept_rules

@[simp] theorem kept_freeSlots (d : Nat) (id : BitVec 32) : Kept form (freeSlots d id) := by
  unfold freeSlots
  exact of_kept_rules

@[simp] theorem kept_retireUnrun (d : Nat) (t : Queued) : Kept form (retireUnrun d t) := by
  unfold retireUnrun
  exact of_kept_rules

theorem canonical_takeRequest (r : BitVec 16) (d : Nat) (h : s.Canonical form) : (takeRequest r d s).2.Canonical form :=
  canonical_setDie (canonical_foldl (fun _ _ h => canonical_ite _ (canonical_setEntries h ..) h) _ h) ..

@[simp] theorem kept_stopRequest (p : Nat) (r : BitVec 16) : Kept form (stopRequest p r) := by
  unfold stopRequest
  refine kept_bind (kept_modPkg ..) fun _ => kept_bind (kept_forN (fun i => ?_) 4) fun _ =>
    kept_bind (kept_modify fun s h => ?_) fun _ => kept_rollBackRequest ..
  · refine kept_get_bind fun s hs => kept_bind (kept_set (canonical_takeRequest r (4 * p + i) hs)) fun _ => ?_
    exact kept_foldlM (fun _ t => kept_retireUnrun _ t) _ ()
  · exact canonical_foldl (fun _ _ h => canonical_ite _ (canonical_setHartAt h ..) h) _ h

@[simp] theorem kept_failRequest (p : Nat) (r : BitVec 16) : Kept form (failRequest p r) := by
  have hsetRequest := @canonical_setRequest form
  unfold failRequest
  exact of_kept_rules

@[simp] theorem kept_abandonFaulted : Kept form abandonFaulted := by unfold abandonFaulted; exact of_kept_rules

@[simp] theorem kept_finishTask (kind status : Nat) : Kept form (finishTask kind status) := by
  unfold finishTask
  exact of_kept_rules

@[simp] theorem kept_orphanTransfers : Kept form orphanTransfers := by unfold orphanTransfers; exact of_kept_rules

@[simp] theorem kept_abortTask (kind status : Nat) : Kept form (abortTask kind status) := by
  unfold abortTask
  exact of_kept_rules

@[simp] theorem kept_exitTask (status : Nat) : Kept form (exitTask status) := by unfold exitTask; exact of_kept_rules

@[simp] theorem kept_startTask (t : Queued) (map : BitVec 8) : Kept form (startTask t map) := by
  unfold startTask
  exact of_kept_rules

@[simp] theorem kept_dispatchTask : Kept form dispatchTask := by
  have honHart := @kept_onHart form
  have hsetEntries := @canonical_setEntries form
  unfold dispatchTask
  exact of_kept_rules

@[simp] theorem kept_settleStreams : Kept form settleStreams := by unfold settleStreams; exact of_kept_rules

@[simp] theorem kept_suspendTask (wait : Option (BitVec 12)) : Kept form (suspendTask wait) := by
  have hrequeueAt := @canonical_requeueAt form
  unfold suspendTask
  exact of_kept_rules

@[simp] theorem kept_continueSuspend : Kept form continueSuspend := by unfold continueSuspend; exact of_kept_rules

@[simp] theorem kept_takePreempt : Kept form takePreempt := by unfold takePreempt; exact of_kept_rules

@[simp] theorem kept_takeBudget : Kept form takeBudget := by unfold takeBudget; exact of_kept_rules

theorem canonical_ageLevel (l : Level) (h : s.Canonical form) : (ageLevel l s).Canonical form :=
  canonical_ite _ (canonical_setEntries h ..) h

@[simp] theorem kept_repartition : Kept form repartition := by unfold repartition; exact of_kept_rules

@[simp] theorem kept_spawn (ws : List Word) : Kept form (spawn ws) := by
  have hinsertTask := @canonical_insertTask form
  unfold spawn
  exact of_kept_rules

@[simp] theorem kept_checkCounter (e : Entry) : Kept form (checkCounter e) := by unfold checkCounter; exact of_kept_rules

@[simp] theorem kept_addEvent (e : Entry) (q : BitVec 1) (up : Bool) : Kept form (addEvent e q up) := by
  have hsetEvent := @canonical_setEvent form
  unfold addEvent
  exact of_kept_rules

@[simp] theorem kept_performTspawn (e : Entry) : Kept form (performTspawn e) := by
  have hinsertTask := @canonical_insertTask form
  unfold performTspawn
  exact of_kept_rules

@[simp] theorem kept_performTwait (e : Entry) : Kept form (performTwait e) := by unfold performTwait; exact of_kept_rules

@[simp] theorem kept_performTexitAbort (e : Entry) : Kept form (performTexitAbort e) := by
  unfold performTexitAbort
  exact of_kept_rules

@[simp] theorem kept_performTyield (e : Entry) : Kept form (performTyield e) := by unfold performTyield; exact of_kept_rules

@[simp] theorem kept_performTstat (n : BitVec 3) (e : Entry) : Kept form (performTstat n e) := by
  unfold performTstat
  exact of_kept_rules

theorem canonical_insertCopy (d : Nat) (t : Descriptor) (i : Nat) (h : s.Canonical form) : (insertCopy d t i s).Canonical form :=
  canonical_requeueAt _ _ (canonical_setDie h ..)

theorem canonical_loadGraph (d : Nat) (xs : List Nat) (h : s.Canonical form) : (loadGraph d xs s).Canonical form :=
  canonical_foldl (fun _ _ h => canonical_foldl (fun _ _ h => canonical_insertCopy _ _ _ h) _ h) _ (canonical_setDie h ..)

@[simp] theorem kept_stageQueue (q : BitVec 5) (push begun : Bool) : Kept form (stageQueue q push begun) := by
  unfold stageQueue
  exact of_kept_rules

@[simp] theorem kept_putStageQueue (q : BitVec 5) (x : StageQueue) : Kept form (putStageQueue q x) := by
  unfold putStageQueue
  exact of_kept_rules

@[simp] theorem kept_stageBlock : Kept form stageBlock := by unfold stageBlock; exact of_kept_rules

theorem canonical_cinchInterval (d : Nat) (h : s.Canonical form) : (cinchInterval d s).Canonical form := by
  unfold cinchInterval
  dsimp only
  split
  · exact canonical_foldl (fun _ _ h => canonical_ite _ (canonical_setHartAt h ..) h) _ (canonical_setDie h ..)
  · exact canonical_setDie h ..

theorem canonical_cinchComplete {d : Nat} {t : State} (ht : cinchComplete d s = some t) (h : s.Canonical form) :
    t.Canonical form := by
  unfold cinchComplete at ht
  dsimp only at ht
  split at ht <;> cases ht
  exact canonical_setDie (canonical_ite _ h (canonical_setCore h ..)) ..

@[simp] theorem kept_performQpush (d : BitVec 7) (eos : BitVec 1) (q : BitVec 5) (e : Entry) :
    Kept form (performQpush d eos q e) := by
  unfold performQpush
  exact of_kept_rules

@[simp] theorem kept_performQpop (d : BitVec 7) (q : BitVec 5) (e : Entry) : Kept form (performQpop d q e) := by
  unfold performQpop
  exact of_kept_rules

end Sys2Proof.Machine
end

section
/-! The canonical form: gathers, the filter and page-ins, collectives and sketches. -/

namespace Sys2Proof.Machine

set_option Elab.async false
variable {form : Form} {α β : Type} {s : State}

@[simp] theorem kept_gathCheck (c : VConf) (e : Entry) : Kept form (gathCheck c e) := by unfold gathCheck; exact of_kept_rules

@[simp] theorem kept_gathIndices (c : VConf) (e : Entry) (a : BitVec 7) (m : BitVec 1) : Kept form (gathIndices c e a m) := by
  unfold gathIndices
  exact of_kept_rules

@[simp] theorem kept_gathDone (xs : List (Nat × Nat)) : Kept form (gathDone xs) := by unfold gathDone; exact of_kept_rules

@[simp] theorem kept_maskedRecord (c : VConf) (e : Entry) (d : BitVec 7) (j : Nat) : Kept form (maskedRecord c e d j) := by
  unfold maskedRecord
  exact of_kept_rules

@[simp] theorem kept_scatterCheck (e : Entry) (k : Access) (xs : List (Nat × Nat)) : Kept form (scatterCheck e k xs) := by
  unfold scatterCheck
  exact of_kept_rules

@[simp] theorem kept_gatherWaits (e : Entry) (xs : List (Nat × Nat)) : Kept form (gatherWaits e xs) := by
  unfold gatherWaits
  exact of_kept_rules

theorem kept_scatter (d a : BitVec 7) (m : BitVec 1) (e : Entry) (k : Access) (row : VecRegs → List Nat → Nat → M Unit)
    (hrow : ∀ x y z, Kept form (row x y z)) : Kept form (scatter d a m e k row) := by
  unfold scatter
  exact of_kept_rules

@[simp] theorem kept_deferredMce : Kept form deferredMce := by unfold deferredMce; exact of_kept_rules

@[simp] theorem kept_performRgather (d : BitVec 7) (a : BitVec 7) (m : BitVec 1) (e : Entry) :
    Kept form (performRgather d a m e) := by
  have hscatter := @kept_scatter form
  unfold performRgather
  exact of_kept_rules

@[simp] theorem kept_performRscat (d : BitVec 7) (a : BitVec 7) (m : BitVec 1) (e : Entry) :
    Kept form (performRscat d a m e) := by
  have hscatter := @kept_scatter form
  unfold performRscat
  exact of_kept_rules

@[simp] theorem kept_performRscatadd (d : BitVec 7) (a : BitVec 7) (m : BitVec 1) (e : Entry) :
    Kept form (performRscatadd d a m e) := by
  have hscatter := @kept_scatter form
  unfold performRscatadd
  exact of_kept_rules

@[simp] theorem kept_performRgstat (e : Entry) : Kept form (performRgstat e) := by unfold performRgstat; exact of_kept_rules

@[simp] theorem kept_sendEvents (kind : Nat) (v : Word) (ms : List Miss) : Kept form (sendEvents kind v ms) := by
  induction ms with
  | nil => exact kept_pure _
  | cons m ms ih => unfold sendEvents; exact of_kept_rules

@[simp] theorem kept_copyFrame (q src dst : Nat) : Kept form (copyFrame q src dst) := by unfold copyFrame; exact of_kept_rules

theorem canonical_retier (q : Nat) (m : Miss) (h : s.Canonical form) : (retier q m s).Canonical form := canonical_putNat h ..

@[simp] theorem kept_endPageIn (q : Nat) (p : PageIn) : Kept form (endPageIn q p) := by
  have hretier := fun s => canonical_foldl (form := form) (s := s) (f := fun s m => retier q m s)
    (fun _ m h => canonical_retier q m h) p.misses
  unfold endPageIn
  exact of_kept_rules

@[simp] theorem kept_needOwner (v : Word) (e : Nat) : Kept form (needOwner v e) := by unfold needOwner; exact of_kept_rules

@[simp] theorem kept_needStage2 (v : Word) (e : Nat) : Kept form (needStage2 v e) := by unfold needStage2; exact of_kept_rules

@[simp] theorem kept_needResolved (v : Word) (e : Nat) : Kept form (needResolved v e) := by
  unfold needResolved
  exact of_kept_rules

@[simp] theorem kept_readLocal (v : Word) (k : Access) : Kept form (readLocal v k) := by unfold readLocal; exact of_kept_rules

@[simp] theorem kept_takeFrame (q : Nat) : Kept form (takeFrame q) := by
  have hpopStack := @canonical_popStack form
  unfold takeFrame
  exact of_kept_rules

@[simp] theorem kept_resolve (page : Nat) (ring : Word) (pa e : Nat) : Kept form (resolve page ring pa e) := by
  unfold resolve
  exact of_kept_rules

@[simp] theorem kept_xlatFrom (c : VConf) (d : BitVec 7) (ring : Word) (look : Nat → Option (Nat × Nat × Nat)) (n i : Nat)
    (p : BitVec 1024) (k : Nat) : Kept form (xlatFrom c d ring look n i p k) := by
  induction n generalizing i p k with
  | zero => exact kept_pure _
  | succ n ih => unfold xlatFrom; exact of_kept_rules

@[simp] theorem kept_trimFrom (roll : Bool) (base : Word) (t n p x y : Nat) : Kept form (trimFrom roll base t n p x y) := by
  induction n generalizing p x y with
  | zero => exact kept_pure _
  | succ n ih => unfold trimFrom; exact of_kept_rules

@[simp] theorem kept_trimTable (roll : Bool) (a : BitVec 7) (e : Entry) : Kept form (trimTable roll a e) := by
  unfold trimTable
  exact of_kept_rules

@[simp] theorem kept_forkCheck (a : BitVec 7) (src dst : Word) (p : Nat) : Kept form (forkCheck a src dst p) := by
  unfold forkCheck
  exact of_kept_rules

theorem canonical_forkEntry (x : Nat × Nat × Nat) (h : s.Canonical form) : (forkEntry x s).Canonical form :=
  canonical_ite _ (canonical_putNat (canonical_putNat (canonical_putNat h ..) ..) ..) (canonical_putNat h ..)

@[simp] theorem kept_putSlot (d n : Nat) (x : Option Slot) : Kept form (putSlot d n x) := by unfold putSlot; exact of_kept_rules

theorem kept_postSlot {post : Nat → Word → List Byte → M Bool} (hpost : ∀ c r bs, Kept form (post c r bs)) (d n : Nat)
    (sl : Slot) : Kept form (postSlot post d n sl) := by
  unfold postSlot
  exact of_kept_rules

@[simp] theorem kept_shCheck (a b : BitVec 7) (e : Entry) : Kept form (shCheck a b e) := by unfold shCheck; exact of_kept_rules

@[simp] theorem kept_performShlst (d : BitVec 7) (a : BitVec 7) (b : BitVec 7) (m : BitVec 1) (e : Entry) :
    Kept form (performShlst d a b m e) := by
  have hpostSlot := @kept_postSlot form
  unfold performShlst
  exact of_kept_rules

@[simp] theorem kept_performKvxlt (d : BitVec 7) (a : BitVec 7) (b : BitVec 7) (m : BitVec 1) (e : Entry) :
    Kept form (performKvxlt d a b m e) := by
  unfold performKvxlt
  exact of_kept_rules

@[simp] theorem kept_performKvfork (a : BitVec 7) (e : Entry) : Kept form (performKvfork a e) := by
  have hfork := canonical_foldl (form := form) (f := fun s x => forkEntry x s) fun _ x h => canonical_forkEntry x h
  unfold performKvfork
  exact of_kept_rules

@[simp] theorem kept_storeElement (v : Word) (w : Nat) (high : Bool) (x pa : Nat) : Kept form (storeElement v w high x pa) := by
  unfold storeElement
  exact of_kept_rules

@[simp] theorem kept_multicast (c : VConf) (e : Entry) (ps : List Nat) (j x : Nat) : Kept form (multicast c e ps j x) := by
  unfold multicast
  exact of_kept_rules

@[simp] theorem kept_combineFree (r : List (BitVec 32)) (n : Nat) (fl : Flags) (xs : List (List Nat)) :
    Kept form (combineFree r n fl xs) := by
  induction n generalizing fl xs with
  | zero => exact kept_pure _
  | succ n ih => unfold combineFree; exact of_kept_rules

@[simp] theorem kept_readUnits (p : Nat) (y : Collective) : Kept form (readUnits p y) := by
  have hasEngine := @kept_asEngine form
  unfold readUnits
  exact of_kept_rules

@[simp] theorem kept_reduceAt (r : List (BitVec 32)) (sends : List (List (Option (List Nat)))) (u : Nat) :
    Kept form (reduceAt r sends u) := by
  unfold reduceAt
  exact of_kept_rules

@[simp] theorem kept_writeUnits (y : Collective) (mixed : Bool) (unit : Nat → Option (List Nat)) :
    Kept form (writeUnits y mixed unit) := by
  have hasEngine := @kept_asEngine form
  unfold writeUnits
  exact of_kept_rules

@[simp] theorem kept_unlockColl (y : Collective) : Kept form (unlockColl y) := by unfold unlockColl; exact of_kept_rules

@[simp] theorem kept_postColl (q : Nat) (y : Collective) : Kept form (postColl q y) := by unfold postColl; exact of_kept_rules

@[simp] theorem kept_endColl (q : Nat) (y : Collective) (status : Nat) (faulted : Bool) (fl : Flags) :
    Kept form (endColl q y status faulted fl) := by
  have hasEngine := @kept_asEngine form
  unfold endColl
  exact of_kept_rules

@[simp] theorem kept_moveColl (r : List (BitVec 32)) (gone : Bool) (ys : List (Nat × Collective)) :
    Kept form (moveColl r gone ys) := by
  unfold moveColl
  exact of_kept_rules

@[simp] theorem kept_runColl (q : Nat) (x : Collective) : Kept form (runColl q x) := by
  have hlate := canonical_foldl (form := form)
    (f := fun s (y : Nat × Collective) => s.setHartAt y.2.hart { s.hartAt y.2.hart with unanswered := none })
    fun _ _ h => canonical_setHartAt h ..
  unfold runColl
  exact of_kept_rules

@[simp] theorem kept_issueColl (r : List (BitVec 32)) (k : Completion) (e : Entry) : Kept form (issueColl r k e) := by
  unfold issueColl
  exact of_kept_rules

@[simp] theorem kept_performMcst (d : BitVec 7) (m : BitVec 1) (e : Entry) : Kept form (performMcst d m e) := by
  unfold performMcst
  exact of_kept_rules

@[simp] theorem kept_performColl (d : BitVec 7) (a : BitVec 7) (e : Entry) : Kept form (performColl d a e) := by
  unfold performColl
  exact of_kept_rules

@[simp] theorem kept_performCwaitc (e : Entry) : Kept form (performCwaitc e) := by unfold performCwaitc; exact of_kept_rules

@[simp] theorem kept_translateSpan (k : Access) (v : Word) (n : Nat) : Kept form (translateSpan k v n) := by
  unfold translateSpan
  exact of_kept_rules

@[simp] theorem kept_needAligned8 (v : Word) : Kept form (needAligned8 v) := by unfold needAligned8; exact of_kept_rules

@[simp] theorem kept_skHeader (v : Word) (field : BitVec 7) : Kept form (skHeader v field) := by
  unfold skHeader
  exact of_kept_rules

@[simp] theorem kept_readCell (v : Word) (i : Nat) : Kept form (readCell v i) := by unfold readCell; exact of_kept_rules

@[simp] theorem kept_writeCell (v : Word) (i : Nat) (x : Cell) : Kept form (writeCell v i x) := by
  unfold writeCell
  exact of_kept_rules

@[simp] theorem kept_readSketch (v : Word) (m : Nat) : Kept form (readSketch v m) := by unfold readSketch; exact of_kept_rules

@[simp] theorem kept_writeCells (v : Word) (cells : List Cell) : Kept form (writeCells v cells) := by
  unfold writeCells
  exact of_kept_rules

@[simp] theorem kept_writeSketch (v : Word) (cells : List Cell) : Kept form (writeSketch v cells) := by
  unfold writeSketch
  exact of_kept_rules

@[simp] theorem kept_readEntry (v : Word) (k : Nat) : Kept form (readEntry v k) := by unfold readEntry; exact of_kept_rules

@[simp] theorem kept_applyInMemory (v : Word) (m : Nat) (s : BitVec 32) (key dig : Word) :
    Kept form (applyInMemory v m s key dig) := by
  unfold applyInMemory
  exact of_kept_rules

@[simp] theorem kept_writeEmitted (v : Word) (out : List Emitted) : Kept form (writeEmitted v out) := by
  unfold writeEmitted
  exact of_kept_rules

@[simp] theorem kept_raisePeel (records m : Nat) : Kept form (raisePeel records m) := by unfold raisePeel; exact of_kept_rules

@[simp] theorem kept_readClass (p cls : Nat) : Kept form (readClass p cls) := by unfold readClass; exact of_kept_rules

@[simp] theorem kept_foldClass (x : SkClass) (n k : Nat) (cells : List Cell) : Kept form (foldClass x n k cells) := by
  induction n generalizing k cells with
  | zero => exact kept_pure _
  | succ n ih => unfold foldClass; exact of_kept_rules

@[simp] theorem kept_classSketch (x : SkClass) (m : Nat) : Kept form (classSketch x m) := by
  unfold classSketch
  exact of_kept_rules

@[simp] theorem kept_scribble (v : Word) (bytes : Nat) : Kept form (scribble v bytes) := by unfold scribble; exact of_kept_rules

@[simp] theorem kept_reconRounds (y : SysRegs) (here there : SkClass) (k n : Nat) (skm : Word) :
    Kept form (reconRounds y here there k n skm) := by
  induction k generalizing n skm with
  | zero => exact kept_pure _
  | succ k ih => unfold reconRounds; exact of_kept_rules

@[simp] theorem kept_findKey (x : SkClass) (key : Word) (n lo hi : Nat) : Kept form (findKey x key n lo hi) := by
  induction n generalizing lo hi with
  | zero => exact kept_pure _
  | succ n ih => unfold findKey; exact of_kept_rules

@[simp] theorem kept_stageRecord (x : SkClass) (stage : Word) (i : Nat) (key dig : Word) :
    Kept form (stageRecord x stage i key dig) := by
  unfold stageRecord
  exact of_kept_rules

@[simp] theorem kept_reconcile (st : Bool) (here there : SkClass) (stage : Word) (cap : Nat) :
    Kept form (reconcile st here there stage cap) := by
  unfold reconcile
  exact of_kept_rules

@[simp] theorem kept_performSkbld (n : BitVec 1) (c : BitVec 1) (a : BitVec 7) (e : Entry) :
    Kept form (performSkbld n c a e) := by
  unfold performSkbld
  exact of_kept_rules

@[simp] theorem kept_performSksub (a : BitVec 7) (b : BitVec 7) (e : Entry) : Kept form (performSksub a b e) := by
  unfold performSksub
  exact of_kept_rules

@[simp] theorem kept_performSkpeel (t : BitVec 1) (a : BitVec 7) (e : Entry) : Kept form (performSkpeel t a e) := by
  unfold performSkpeel
  exact of_kept_rules

@[simp] theorem kept_performSkrecon (t : BitVec 1) (a : BitVec 7) (e : Entry) : Kept form (performSkrecon t a e) := by
  unfold performSkrecon
  exact of_kept_rules

@[simp] theorem kept_performSkstat (a : BitVec 7) (e : Entry) : Kept form (performSkstat a e) := by
  unfold performSkstat
  exact of_kept_rules

end Sys2Proof.Machine
end

section
/-! The canonical form: the host's windows, replay, links, boundary events, and the rest of the scalar and vector operations. -/

namespace Sys2Proof.Machine

set_option Elab.async false
variable {form : Form} {α β : Type} {s : State}

@[simp] theorem kept_queueReplay (p : Nat) (v : Nat) : Kept form (queueReplay p v) := by unfold queueReplay; exact of_kept_rules

@[simp] theorem kept_cancelRequest (p : Nat) (r : BitVec 16) : Kept form (cancelRequest p r) := by
  have hsetRequest := @canonical_setRequest form
  unfold cancelRequest
  exact of_kept_rules

@[simp] theorem kept_ringDoorbell (p v : Nat) : Kept form (ringDoorbell p v) := by unfold ringDoorbell; exact of_kept_rules

@[simp] theorem kept_controlWrite (p off v : Nat) : Kept form (controlWrite p off v) := by
  unfold controlWrite
  exact of_kept_rules

@[simp] theorem kept_hostDone (p : Nat) (data : List Byte) (unsupported : Bool) : Kept form (hostDone p data unsupported) := by
  unfold hostDone
  exact of_kept_rules

@[simp] theorem kept_hostControlWrite (p off size v : Nat) : Kept form (hostControlWrite p off size v) := by
  unfold hostControlWrite
  exact of_kept_rules

@[simp] theorem kept_hostControlRead (p off size : Nat) : Kept form (hostControlRead p off size) := by
  unfold hostControlRead
  exact of_kept_rules

@[simp] theorem kept_hostWindow (p off size : Nat) (write : Bool) (data : Nat) :
    Kept form (hostWindow p off size write data) := by
  unfold hostWindow
  exact of_kept_rules

@[simp] theorem kept_scalarLoad (a : Word) (z : Nat) : Kept form (scalarLoad a z) := by unfold scalarLoad; exact of_kept_rules

@[simp] theorem kept_scalarStore (a : Word) (z x : Nat) : Kept form (scalarStore a z x) := by
  unfold scalarStore
  exact of_kept_rules

@[simp] theorem kept_loadOffset (d a : BitVec 7) (o : BitVec 9) (z : Nat) (signed : Bool) :
    Kept form (loadOffset d a o z signed) := by
  unfold loadOffset
  exact of_kept_rules

@[simp] theorem kept_loadIndexed (d a b : BitVec 7) (sf : BitVec 1) (z : Nat) (signed : Bool) :
    Kept form (loadIndexed d a b sf z signed) := by
  unfold loadIndexed
  exact of_kept_rules

@[simp] theorem kept_storeOffset (d a : BitVec 7) (o : BitVec 9) (z : Nat) : Kept form (storeOffset d a o z) := by
  unfold storeOffset
  exact of_kept_rules

@[simp] theorem kept_storeIndexed (d a b : BitVec 7) (sf : BitVec 1) (z : Nat) : Kept form (storeIndexed d a b sf z) := by
  unfold storeIndexed
  exact of_kept_rules

@[simp] theorem kept_raiseMsi (p : Nat) (v : BitVec 11) : Kept form (raiseMsi p v) := by unfold raiseMsi; exact of_kept_rules

@[simp] theorem kept_modReplay (p : Nat) (f : Replay → Replay) : Kept form (modReplay p f) := by
  unfold modReplay
  exact of_kept_rules

@[simp] theorem kept_nextNode (p : Nat) : Kept form (nextNode p) := by unfold nextNode; exact of_kept_rules

@[simp] theorem kept_malformedNode (p : Nat) : Kept form (malformedNode p) := by unfold malformedNode; exact of_kept_rules

@[simp] theorem kept_startReplay (p : Nat) : Kept form (startReplay p) := by unfold startReplay; exact of_kept_rules

@[simp] theorem kept_startNode (p : Nat) (r : Replay) (ws : List Word) : Kept form (startNode p r ws) := by
  have hsetRequest := @canonical_setRequest form
  unfold startNode
  exact of_kept_rules

theorem kept_runNode (kind : Nat) (body : Nat → Replay → List Word → M Unit) (hbody : ∀ x y z, Kept form (body x y z)) :
    Kept form (runNode kind body) := by
  unfold runNode
  exact of_kept_rules

@[simp] theorem kept_launchFrom (p : Nat) (ws : List Word) (dies : List Nat) (t : Descriptor) (n k : Nat) :
    Kept form (launchFrom p ws dies t n k) := by
  have hinsert := @canonical_insertTask form
  induction n generalizing k with
  | zero => exact kept_nextNode p
  | succ n ih => unfold launchFrom; exact of_kept_rules

@[simp] theorem kept_launchNode (p : Nat) (r : Replay) (ws : List Word) : Kept form (launchNode p r ws) := by
  unfold launchNode
  exact of_kept_rules

@[simp] theorem kept_graphFrom (p : Nat) (ws : List Word) (n i : Nat) : Kept form (graphFrom p ws n i) := by
  have hload := @canonical_loadGraph form
  induction n generalizing i with
  | zero => exact kept_nextNode p
  | succ n ih => unfold graphFrom; exact of_kept_rules

@[simp] theorem kept_notifyWrite (p a x : Nat) : Kept form (notifyWrite p a x) := by unfold notifyWrite; exact of_kept_rules

@[simp] theorem kept_endReplay (p : Nat) (r : Replay) (ws : List Word) : Kept form (endReplay p r ws) := by
  have hrequests := fun rs s => canonical_foldl (form := form) (s := s)
    (f := fun s q => if requestState s p q = 1 then setRequest p q 2 s else s)
    (fun _ q h => canonical_ite _ (canonical_setRequest p q 2 h) h) rs
  unfold endReplay
  exact of_kept_rules

@[simp] theorem kept_modLink (p : Nat) (n : BitVec 6) (f : Link → Link) : Kept form (modLink p n f) := by
  unfold modLink
  exact of_kept_rules

@[simp] theorem kept_logFabric (p cls : Nat) : Kept form (logFabric p cls) := by unfold logFabric; exact of_kept_rules

theorem kept_onLink (n : BitVec 6) (f : Nat → Link → M Unit) (hf : ∀ x y, Kept form (f x y)) : Kept form (onLink n f) := by
  unfold onLink
  exact of_kept_rules

@[simp] theorem kept_losePackage (q : Nat) : Kept form (losePackage q) := by
  unfold losePackage
  refine kept_get_bind fun s _ => ?_
  refine kept_bind (kept_modify fun t h => canonical_foldl (fun _ _ h => canonical_setPkg h ..) _ h) fun _ => ?_
  refine kept_bind (kept_modPkg ..) fun _ => ?_
  split
  · exact kept_logFabric q 2
  · exact kept_pure _

@[simp] theorem kept_sendFlit (p : Nat) (n : BitVec 6) (f : Flit) : Kept form (sendFlit p n f) := by
  unfold sendFlit
  exact of_kept_rules

@[simp] theorem kept_receiveFlit (p : Nat) (n : BitVec 6) (l : Link) (f : Flit) (good : Bool) :
    Kept form (receiveFlit p n l f good) := by
  unfold receiveFlit
  exact of_kept_rules

@[simp] theorem kept_moveTraffic (p : Nat) (n : BitVec 6) (l : Link) : Kept form (moveTraffic p n l) := by
  unfold moveTraffic
  exact of_kept_rules

@[simp] theorem kept_compareTimer : Kept form compareTimer := by unfold compareTimer; exact of_kept_rules

@[simp] theorem kept_takeCancel : Kept form takeCancel := by unfold takeCancel; exact of_kept_rules

@[simp] theorem kept_takeInterrupt : Kept form takeInterrupt := by unfold takeInterrupt; exact of_kept_rules

@[simp] theorem kept_annulledStep : Kept form annulledStep := by unfold annulledStep; exact of_kept_rules

@[simp] theorem kept_logCorrected (d source n : Nat) : Kept form (logCorrected d source n) := by
  unfold logCorrected
  exact of_kept_rules

@[simp] theorem kept_modVecOf (n : Nat) (f : VecRegs → VecRegs) : Kept form (modVecOf n f) := by
  unfold modVecOf
  exact of_kept_rules

@[simp] theorem kept_loseAt (source : Nat) : Kept form (loseAt source) := by unfold loseAt; exact of_kept_rules

@[simp] theorem kept_spot_poison (i : Spot) : Kept form (Spot.poison i) := by unfold Spot.poison; exact of_kept_rules

@[simp] theorem kept_fenceUnit (d n : Nat) : Kept form (fenceUnit d n) := by unfold fenceUnit; exact of_kept_rules

@[simp] theorem kept_spot_fence (x : Spot) : Kept form (Spot.fence x) := by unfold Spot.fence; exact of_kept_rules

@[simp] theorem kept_upsetAt (cls : BitVec 2) (x : Spot) : Kept form (upsetAt cls x) := by unfold upsetAt; exact of_kept_rules

theorem sparseWf_filter {α : Type} [DecidableEq α] (d : α) (p : Nat × α → Bool) {m : Sparse α} (h : sparseWf d m = true) :
    sparseWf d (m.filter p) = true := by
  induction m with
  | nil => rfl
  | cons x m ih =>
    obtain ⟨k, v⟩ := x
    obtain ⟨hv, hk, hm⟩ := (sparseWf_cons ..).1 h
    rw [List.filter_cons]
    split
    · exact (sparseWf_cons ..).2 ⟨hv, fun y hy => hk y (List.mem_filter.1 hy).1, ih hm⟩
    · exact ih hm

theorem canonical_resetPackage (p : Nat) (failStep : BitVec 3) (h : s.Canonical form) :
    (resetPackage p failStep s).Canonical form := by
  obtain ⟨h⟩ := h
  cases form with
  | memory => exact ⟨h⟩
  | units =>
    obtain ⟨hothers, hid, hcores, hquads, hdies, hpkgs⟩ := h
    exact ⟨sparseWf_filter _ _ hothers, fun x hx => hid x (List.mem_filter.1 hx).1, sparseWf_filter _ _ hcores,
      sparseWf_filter _ _ hquads, sparseWf_filter _ _ hdies, sparseWf_put _ p _ hpkgs⟩

@[simp] theorem kept_spdmRequest (may : Spdm → Bool) (next : Spdm) : Kept form (spdmRequest may next) := by
  unfold spdmRequest
  exact of_kept_rules

@[simp] theorem kept_scalarMode : Kept form scalarMode := by unfold scalarMode; exact of_kept_rules

@[simp] theorem kept_fbinary (d a b : BitVec 7) (f : Nat → Ex → Ex → Ex × Flags) : Kept form (fbinary d a b f) := by
  unfold fbinary
  exact of_kept_rules

@[simp] theorem kept_fpick (d a b : BitVec 7) (f : Nat → Nat → Nat × Flags) : Kept form (fpick d a b f) := by
  unfold fpick
  exact of_kept_rules

@[simp] theorem kept_funary (d a : BitVec 7) (f : Nat → Word → Word × Flags) : Kept form (funary d a f) := by
  unfold funary
  exact of_kept_rules

@[simp] theorem kept_fmadd (d a b : BitVec 7) (negP negC : Bool) : Kept form (fmadd d a b negP negC) := by
  unfold fmadd
  exact of_kept_rules

@[simp] theorem kept_reduceRows (d a : BitVec 7) (q m : BitVec 1) (f : VConf → Nat → Nat → Rounded) (e : Entry) :
    Kept form (reduceRows d a q m f e) := by
  unfold reduceRows
  exact of_kept_rules

@[simp] theorem kept_putResults (c : VConf) (v : VecRegs) (d a : BitVec 7) (rows : List (List Rounded)) :
    Kept form (putResults c v d a rows) := by
  unfold putResults
  exact of_kept_rules

@[simp] theorem kept_scanRows (d a : BitVec 7) (m : BitVec 1) (e : Entry) : Kept form (scanRows d a m e) := by
  unfold scanRows
  exact of_kept_rules

@[simp] theorem kept_segmentRows (d a b : BitVec 7) (m : BitVec 1) (f : VConf → Nat → Nat → Rounded) (e : Entry) :
    Kept form (segmentRows d a b m f e) := by
  unfold segmentRows
  exact of_kept_rules

@[simp] theorem kept_stripBoundary : Kept form stripBoundary := by unfold stripBoundary; exact of_kept_rules

@[simp] theorem kept_configure (d a : BitVec 7) (r : BitVec 5) (t : BitVec 4) (e : Entry) :
    Kept form (configure d a r t e) := by
  unfold configure
  exact of_kept_rules

@[simp] theorem kept_performVcfg (e : Entry) : Kept form (performVcfg e) := by unfold performVcfg; exact of_kept_rules

@[simp] theorem kept_performVrel (e : Entry) : Kept form (performVrel e) := by unfold performVrel; exact of_kept_rules

end Sys2Proof.Machine
end

section
/-! The canonical form: what each instruction and each event does. -/

namespace Sys2Proof.Machine

set_option Elab.async false
variable {form : Form} {α β : Type} {s : State}

theorem kept_performOf {i : Instr} {p : Entry → M Unit} (h : performOf i = some p) (e : Entry) : Kept form (p e) := by
  cases i with
  | vadd | vsub | vrsub | vmul | vmulh | vmin | vmax | vminu | vmaxu | vand | vor | vxor | vsll | vsrl | vsra =>
    cases h; exact kept_intwise ..
  | vadds | vfmin | vfmax | vmadd | vmsub =>
    cases h; exact kept_eltwise _ _ _ _ _ _ _ fun _ _ _ _ => of_kept_rules
  | vfadd | vfsub | vfmul | vfdiv =>
    cases h; exact kept_fpwise ..
  | vfsqrt | vrcp | vrsqrt =>
    cases h; exact kept_fpUnary ..
  | vexp2 | vlog2 =>
    cases h; exact kept_unwise _ _ _ _ _ fun _ _ => of_kept_rules
  | vfma | vfms | vfnma | vfnms =>
    cases h; exact kept_fmawise ..
  | vseq | vsne | vslt | vsge | vsltu | vsgeu | vfeq | vflt | vfle | vfunord =>
    cases h; exact kept_compare ..
  | vredsum | vredmax | vredmin | vfredsum | vfredmax | vfredmin =>
    cases h; exact kept_reduceRows ..
  | vscan | vfscan =>
    cases h; exact kept_scanRows ..
  | vsegsum | vsegmax =>
    cases h; exact kept_segmentRows ..
  | vcvt | vpack | vunpk =>
    cases h; exact kept_convertTile _ _ _ _ _ _ fun _ _ => of_kept_rules
  | vld | vlds | vldx | vldp | vldpx =>
    cases h; exact kept_loadTile ..
  | vst | vsts | vstx | vstp | vstpx =>
    cases h; exact kept_storeTile ..
  | pand | por | pxor | pandn | pnot =>
    cases h; exact kept_predBinary ..
  | pnone =>
    cases h; exact kept_writePred ..
  | ppop | pfirst | pany =>
    cases h; exact kept_predDeliver ..
  | mshape =>
    cases h; exact kept_mshape ..
  | mmode =>
    cases h; exact kept_pure ..
  | tld | tldp =>
    cases h; exact kept_tileLoad ..
  | tst | tstp =>
    cases h; exact kept_tileStore ..
  | sbind =>
    cases h; exact kept_bindRow ..
  | saadd | samin | samax | saxchg | sacas | saand | saor | safadd | gaadd | gamin | gamax | gaxchg | gacas | gaand |
  gaor | gafadd =>
    cases h; exact kept_atomic _ _ _ _ _ _ _ fun _ _ => of_kept_rules
  | kins | kprb | kdel | kacc =>
    cases h; exact kept_keyedAccess ..
  | bara =>
    cases h; exact kept_arriveAt ..
  | texit =>
    cases h; exact kept_exitTask ..
  | evdec | evinc =>
    cases h; exact kept_addEvent ..
  | kvcommit | kvroll =>
    cases h; exact kept_trimTable ..
  | vfsgn | vmv | vsel | viota | vslideup | vslidedn | vrev | vcompress | vexpand | vtos | stov | vperm | vzip | vunzip
  | vsmxe | vquant | vdeq | vtox | xtov | vcfg | vldt | vstt | pall | psel | pfromv | ptov | pld | pst | vsort | vmerge
  | vmerges | vinter | vuniq | vrank | vranku | vpart | vchko | vtopk | vdiff | vuniqc | vmot | vmto | tmma | tmmap |
  tzero | tcvt | gtest | gset | amask | asoft | ascale | sunbind | sstat | sadv | sflush | copy | copyg | cresume |
  cresumeAbort | rinit | rawait | rrel | waita | cstat | kclaim | kfree | kdrn | kstat | kseal | kclear | semts | semtry
  | semclr | crd | cwr | qatom | barv | barw | baraInit | tspawn | twait | texitAbort | tyield | qpush | qpop | vrel |
  tstat | rgather | rscat | rscatadd | rgstat | vqrecv | shlst | kvxlt | kvfork | mcst | coll | cwaitc | skbld | sksub |
  skpeel | skrecon | skstat =>
    cases h; simp
  | _ => cases h

/-- A step of the machine, or of one of its agents, leads from a canonical state to a canonical state. -/
structure KeptStep (form : Form) (f : State → Host.Outcome State Fault Refusal) : Prop where
  next {s t : State} (ht : f s = .next t) (h : s.Canonical form) : t.Canonical form

theorem keptStep_runScalar (w : BitVec 32) {m : M Flow} (hm : Kept form m) : KeptStep form (runScalar w m) where
  next ht h := keeps_runScalar (chain_canonical form) hm.keeps (fun fl => (kept_advance fl).keeps)
    (fun v c x => (kept_trapEntry v c x).keeps) (fun _ h => canonical_same h) ht h

theorem keptStep_runEvent {m : State → M Unit} (hm : ∀ s, Kept form (m s)) : KeptStep form fun s => runEvent (m s) s where
  next {s _} ht h := keeps_runEvent (chain_canonical form) (hm s).keeps ht h

theorem keptStep_dispatchV (w lit : BitVec 32) {op : VOp} {p : Entry → M Unit} (hcheck : ∀ e, Kept form (op.check e))
    (hat : ∀ e, Kept form (op.atDispatch e)) (hp : ∀ e, Kept form (p e)) : KeptStep form (dispatchV w lit op p) where
  next {s t} ht h := by
    have hentry := canonical_exec (kept_dispatchEntry w lit hcheck hat) h
    unfold dispatchV at ht
    rcases hs : (dispatchEntry w lit op).exec s with ⟨stop | e, u⟩
    · rw [hs] at ht hentry
      cases stop with
      | trap c v => cases ht; exact canonical_takeTrap false c v hentry
      | trapWord c => cases ht; exact canonical_takeTrap false c _ hentry
      | block => cases ht; exact canonical_same h
      | stall => cases ht; exact canonical_same h
    · rw [hs] at ht hentry
      have hadvance := canonical_exec (kept_advance .next) hentry
      dsimp only at ht
      split at ht
      · cases ht; exact canonical_exec (kept_executeHead p hp) hadvance
      · cases ht; exact hadvance

theorem keptStep_execWaiti : KeptStep form execWaiti where
  next {s t} ht h := by
    unfold execWaiti at ht
    split at ht
    · cases ht; exact canonical_same h
    · exact (keptStep_runScalar _ of_kept_rules).next ht h

/-! ## Events of the command processor -/

theorem keptStep_execEndReplay : KeptStep form execEndReplay := keptStep_runEvent fun _ => kept_runNode _ _ kept_endReplay

theorem keptStep_execLaunch : KeptStep form execLaunch := keptStep_runEvent fun _ => kept_runNode _ _ kept_launchNode

theorem keptStep_execWaitev : KeptStep form execWaitev := keptStep_runEvent fun _ => kept_runNode _ _ fun _ _ _ => of_kept_rules

theorem keptStep_execEvadd : KeptStep form execEvadd := by
  have hset := @canonical_setEvent form
  exact keptStep_runEvent fun _ => kept_runNode _ _ fun _ _ _ => of_kept_rules

theorem keptStep_execKload : KeptStep form execKload := by
  have hcode := fun p xs s => canonical_foldl (form := form) (s := s)
    (f := fun s c => if c / 192 = p then s.setCore c { s.core c with code := [] } else s)
    (fun _ _ h => canonical_ite _ (canonical_setCore h ..) h) xs
  exact keptStep_runEvent fun _ => kept_runNode _ _ fun _ _ _ => of_kept_rules

theorem keptStep_execGraph : KeptStep form execGraph :=
  keptStep_runEvent fun _ => kept_runNode _ _ fun p _ ws => kept_graphFrom p ws _ _

theorem keptStep_execNotify : KeptStep form execNotify := keptStep_runEvent fun _ => kept_runNode _ _ fun _ _ _ => of_kept_rules

/-! ## Events of the distributor -/

theorem keptStep_execAging : KeptStep form execAging :=
  keptStep_runEvent fun _ => kept_modify fun _ h => canonical_foldl (fun _ l h => canonical_ageLevel l h) _ h

theorem keptStep_execQueuePull (level : BitVec 2) : KeptStep form (execQueuePull level) := by
  refine keptStep_runEvent fun _ => kept_get_bind fun s h => ?_
  extract_lets l
  have hexpel := canonical_expel l h
  split
  next hpull => exact kept_set (canonical_pull hpull hexpel)
  next => exact kept_set hexpel

theorem keptStep_execCinchSample : KeptStep form execCinchSample := keptStep_runEvent fun _ => kept_modDie ..

theorem keptStep_execCinchInterval : KeptStep form execCinchInterval := by
  have hinterval := @canonical_cinchInterval form
  exact keptStep_runEvent fun _ => of_kept_rules

theorem keptStep_execCinchMoveComplete : KeptStep form execCinchMoveComplete := by
  have hcomplete := @canonical_cinchComplete form
  exact keptStep_runEvent fun _ => of_kept_rules

/-! ## Events of a package, of the pod and of the links -/

theorem keptStep_execPodBarrierMessage (arrive : BitVec 1) (n : BitVec 4) (count : BitVec 32) :
    KeptStep form (execPodBarrierMessage arrive n count) := by
  have hput := @canonical_putBarrier form
  exact keptStep_runEvent fun _ => of_kept_rules

theorem keptStep_execPackageReset (b : BringUp) : KeptStep form (execPackageReset b) := by
  have hreset := @canonical_resetPackage form
  exact keptStep_runEvent fun _ => of_kept_rules

theorem keptStep_execFlitReceive (n : BitVec 6) (f : Flit) (good : BitVec 1) : KeptStep form (execFlitReceive n f good) :=
  keptStep_runEvent fun _ => kept_onLink _ _ fun _ _ => kept_receiveFlit ..

theorem keptStep_execLinkReplay (n : Nak) : KeptStep form (execLinkReplay n) :=
  keptStep_runEvent fun _ => kept_onLink _ _ fun _ _ => of_kept_rules

theorem keptStep_execLinkRetrain (n : BitVec 6) : KeptStep form (execLinkRetrain n) :=
  keptStep_runEvent fun _ => kept_onLink _ _ fun _ _ => of_kept_rules

theorem keptStep_execLinkDown (n : BitVec 6) : KeptStep form (execLinkDown n) :=
  keptStep_runEvent fun _ => kept_onLink _ _ fun _ _ => of_kept_rules

theorem keptStep_execLinkUp (far : LinkEnd) : KeptStep form (execLinkUp far) :=
  keptStep_runEvent fun _ => kept_onLink _ _ fun _ _ => of_kept_rules

theorem keptStep_scalar {i : Instr} {w : BitVec 32} {m : M Flow} (hi : ∀ s, exec i s = runScalar w m s) (hm : Kept form m) :
    KeptStep form (exec i) := (funext hi : exec i = _) ▸ keptStep_runScalar w hm

theorem keptStep_event {i : Instr} {m : State → M Unit} (hi : ∀ s, exec i s = runEvent (m s) s) (hm : ∀ s, Kept form (m s)) :
    KeptStep form (exec i) := (funext hi : exec i = _) ▸ keptStep_runEvent hm

/-- The meaning of every instruction and of every event: scalar instructions, events, and by `performOf` the vector side. -/
theorem keptStep_exec (i : Instr) : KeptStep form (exec i) := by
  have hp := @kept_performOf form i
  cases i with
  | add | sub | and | or | xor | andn | orn | sll | srl | sra | ror | mul | mulh | mulhu | div | divu | rem | remu | min
  | max | minu | maxu | addw | subw | seq | sne | slt | sge | sltu | sgeu | addi | andi | ori | xori | slli | srli |
  srai | rori | clz | ctz | popc | sextb | sexth | sextw | zextb | zexth | zextw | bswap | ldb | ldbu | ldh | ldhu | ldw
  | ldwu | ldd | stb | sth | stw | std | ldxb | ldxbu | ldxh | ldxhu | ldxw | ldxwu | ldxd | stxb | stxh | stxw | stxd |
  fadd | fsub | fmul | fdiv | fsqrt | fmin | fmax | feq | flt | fle | fclass | fcvtsw | fcvtswu | fcvtws | fcvtwus |
  fcvths | fcvtsh | fcvtbs | fcvtsb | fmadd | fmsub | fnmadd | fnmsub | mfs | mts | br | call | jr | callr | ret | gcall
  | trap | eret | gret | halt | fence | win | tlbinv | qsend | qrecv | qstat | li | lf =>
    exact keptStep_scalar (fun _ => rfl) of_kept_rules
  | streamRefill | streamOutputWrite | copyCompletion | engf | quadMessage | deferredMce | pageInComplete |
  collCompletion | skiverPeerRequest | annulledStep | interrupt | timer | ipset | budget | taskDispatch | preemptTimeout
  | preemption | repartition | remoteTimeout | admitPackage | retentionEntry | retentionExit | hostWindowAccess |
  controlWindowWrite | harnessReplay | cancel | getCapabilities | negotiateAlgorithms | getDigests | getCertificate |
  challenge | getMeasurements =>
    exact keptStep_event (fun _ => rfl) fun _ => of_kept_rules
  -- Meanings so simple that `rfl` would compute them before it compares: `exec` is unfolded first.
  | jmp =>
    exact keptStep_scalar (fun _ => by unfold exec; rfl) of_kept_rules
  | budgetExhausted | cinchSample | remoteAccess | tscSync | throttle | hdoor | hdbell | getVersion |
  hostConfigRequest =>
    exact keptStep_event (fun _ => by unfold exec; rfl) fun _ => of_kept_rules
  | waiti => exact keptStep_execWaiti
  | queuePull => exact keptStep_execQueuePull ..
  | aging => exact keptStep_execAging
  | cinchInterval => exact keptStep_execCinchInterval
  | cinchMoveComplete => exact keptStep_execCinchMoveComplete
  | podBarrierMessage => exact keptStep_execPodBarrierMessage ..
  | flitReceive => exact keptStep_execFlitReceive ..
  | linkReplay => exact keptStep_execLinkReplay ..
  | linkRetrain => exact keptStep_execLinkRetrain ..
  | linkDown => exact keptStep_execLinkDown ..
  | packageReset => exact keptStep_execPackageReset ..
  | endReplay => exact keptStep_execEndReplay
  | launch => exact keptStep_execLaunch
  | waitev => exact keptStep_execWaitev
  | evadd => exact keptStep_execEvadd
  | kload => exact keptStep_execKload
  | graph => exact keptStep_execGraph
  | notify => exact keptStep_execNotify
  | linkUp => exact keptStep_execLinkUp ..
  | vcfg | vmto | mmode | barv | barw | bara | baraInit | twait | vrel | evdec | evinc =>
    exact keptStep_dispatchV _ _ (fun _ => of_kept_rules) (fun _ => of_kept_rules) (hp rfl)
  | _ => exact keptStep_dispatchV _ _ (fun _ => kept_pure _) (fun _ => kept_pure _) (hp rfl)

end Sys2Proof.Machine
end

section
/-! The canonical form: the turns of the agents, and one step (settles O59). -/

namespace Sys2Proof.Machine

set_option Elab.async false
variable {form : Form} {α β : Type} {s t : State}

/-! ## The vector unit -/

theorem kept_optional_perform {o : Option Instr} (e : Entry) :
    Kept form (((o.bind performOf).getD fun _ => pure ()) e) := by
  cases hp : o.bind performOf with
  | none => exact kept_pure ()
  | some p =>
    obtain ⟨i, -, hi⟩ := Option.bind_eq_some_iff.1 hp
    exact kept_performOf hi e

@[simp] theorem kept_executeOldest : Kept form executeOldest := by
  unfold executeOldest
  refine kept_bind kept_getHart fun h => ?_
  split
  · exact kept_pure ()
  · exact kept_executeHead _ kept_optional_perform

theorem canonical_executeOldest (h : s.Canonical form) : (executeOldest.exec s).2.Canonical form :=
  canonical_exec kept_executeOldest h

/-! ## The steps of a hart -/

@[simp] theorem kept_tick : Kept form tick := by
  unfold tick
  exact of_kept_rules

@[simp] theorem kept_fetchFault : Kept form fetchFault := by
  unfold fetchFault
  exact of_kept_rules

@[simp] theorem kept_fetchInstr : Kept form fetchInstr := by
  unfold fetchInstr
  exact of_kept_rules

theorem kept_boundaryEvents {m : M Unit} (hm : m ∈ boundaryEvents) : Kept form m := by
  unfold boundaryEvents at hm
  simp only [List.mem_cons, List.not_mem_nil, or_false] at hm
  rcases hm with rfl | rfl | rfl | rfl | rfl | rfl | rfl | rfl <;> simp

theorem canonical_firstEffect {ms : List (M Unit)} (hms : ∀ m ∈ ms, Kept form m) (ht : firstEffect ms s = some t)
    (h : s.Canonical form) : t.Canonical form := by
  obtain ⟨m, hm, hmt⟩ := List.exists_of_findSome?_eq_some ht
  have hexec := canonical_exec (hms m hm) h
  split at hmt
  next hs => cases hmt; rwa [hs] at hexec
  next => cases hmt

theorem canonical_runInstruction (ht : runInstruction s = .next t) (h : s.Canonical form) : t.Canonical form := by
  have hfetch := canonical_exec kept_fetchInstr h
  unfold runInstruction at ht
  split at ht
  · exact (keptStep_exec .annulledStep).next ht h
  · split at ht
    next hs =>
      rw [hs] at hfetch
      split at ht
      · exact (keptStep_exec _).next ht hfetch
      · cases ht; exact canonical_takeTrap _ _ _ hfetch
    next hs => cases ht; rw [hs] at hfetch; exact canonical_takeTrap _ _ _ hfetch
    next => cases ht; exact h

theorem canonical_vectorTurn (ht : vectorTurn s = some t) (h : s.Canonical form) : t.Canonical form := by
  unfold vectorTurn at ht
  dsimp only at ht
  split at ht
  · cases ht
  · split at ht
    · cases ht
    · rw [← Option.some.inj ht]
      exact canonical_executeOldest h

theorem canonical_changed {f : State → Host.Outcome State Fault Refusal} (hf : KeptStep form f) (ht : changed f s = some t)
    (h : s.Canonical form) : t.Canonical form := by
  unfold changed at ht
  split at ht
  next hs =>
    split at ht
    · cases ht
    · cases ht; exact hf.next hs h
  next => cases ht
  next => cases ht

theorem keptStep_execSlotRecord (n : Nat) : KeptStep form (execSlotRecord n) := by
  have hpost := @kept_postSlot form
  exact keptStep_runEvent fun _ => of_kept_rules

theorem keptStep_execOwed : KeptStep form execOwed := keptStep_runEvent fun _ => kept_payOwed _

theorem keptStep_execCinchDue : KeptStep form execCinchDue where
  next {s t} ht h := by
    unfold execCinchDue at ht
    dsimp only at ht
    repeat' split at ht
    · cases ht; exact h
    · exact keptStep_execCinchSample.next ht h
    · exact keptStep_execCinchInterval.next ht h
    · cases ht; exact h

theorem keptStep_background {f : State → Host.Outcome State Fault Refusal} (hf : f ∈ background) : KeptStep form f := by
  unfold background at hf
  simp only [List.mem_append, List.mem_cons, List.mem_map, List.not_mem_nil, or_false] at hf
  rcases hf with ((((((hf | hf) | hf) | hf) | hf) | hf) | hf) | hf
  · rcases hf with rfl | rfl | rfl | rfl | rfl | rfl | rfl | rfl
    · exact keptStep_exec .harnessReplay
    · exact keptStep_execEndReplay
    · exact keptStep_execLaunch
    · exact keptStep_execWaitev
    · exact keptStep_execEvadd
    · exact keptStep_execKload
    · exact keptStep_execGraph
    · exact keptStep_execNotify
  · obtain ⟨i, -, rfl⟩ := hf; exact keptStep_exec (.copyCompletion _)
  · obtain ⟨i, -, rfl⟩ := hf; exact keptStep_exec (.streamOutputWrite _)
  · obtain ⟨i, -, rfl⟩ := hf; exact keptStep_exec (.pageInComplete _)
  · obtain ⟨i, -, rfl⟩ := hf; exact keptStep_exec (.collCompletion _)
  · obtain ⟨i, -, rfl⟩ := hf; exact keptStep_execSlotRecord i
  · subst hf; exact keptStep_execOwed
  · rcases hf with rfl | rfl | rfl | rfl | rfl | rfl | rfl | rfl | rfl
    · exact keptStep_execAging
    · exact keptStep_execQueuePull 2
    · exact keptStep_execQueuePull 1
    · exact keptStep_execQueuePull 0
    · exact keptStep_exec .repartition
    · exact keptStep_exec .taskDispatch
    · exact keptStep_exec .preemptTimeout
    · exact keptStep_execCinchDue
    · exact keptStep_execCinchMoveComplete

theorem canonical_backgroundEvent (ht : backgroundEvent s = some t) (h : s.Canonical form) : t.Canonical form := by
  obtain ⟨f, hf, hft⟩ := List.exists_of_findSome?_eq_some ht
  exact canonical_changed (keptStep_background hf) hft h

theorem canonical_rotate (h : s.Canonical form) : (rotate s).Canonical form := canonical_same (canonical_focusOn h _)

theorem canonical_waitStep (h : s.Canonical form) : (waitStep s).Canonical form := by
  unfold waitStep
  split
  next ht =>
    split at ht
    · cases ht
    · exact canonical_same (canonical_vectorTurn ht h)
  next =>
    split
    next ht => exact canonical_same (canonical_backgroundEvent ht h)
    next => exact canonical_rotate h

/-- A turn that may not take place leaves a canonical state either way. -/
theorem canonical_getD {o : Option State} (ho : ∀ t, o = some t → t.Canonical form) (h : s.Canonical form) :
    (o.getD s).Canonical form := by
  cases o with
  | none => exact h
  | some t => exact ho t rfl

theorem canonical_haltStep (h : s.Canonical form) : (haltStep s).Canonical form :=
  canonical_ite _ (canonical_same h) (canonical_getD (fun _ ht => canonical_vectorTurn ht h) (canonical_same h))

theorem canonical_suspendStep (h : s.Canonical form) : (suspendStep s).Canonical form := by
  have hsuspend := canonical_exec kept_continueSuspend h
  unfold suspendStep
  split
  next ht => exact canonical_vectorTurn ht h
  next =>
    split
    next hs => rwa [hs] at hsuspend
    next => exact canonical_same h

theorem canonical_runStep (ht : runStep s = .next t) (h : s.Canonical form) : t.Canonical form := by
  have htick := canonical_exec kept_tick h
  unfold runStep at ht
  dsimp only at ht
  split at ht
  next hs => cases ht; exact canonical_firstEffect (fun _ => kept_boundaryEvents) hs htick
  next =>
    split at ht
    next hs =>
      cases ht
      split at hs
      · cases hs
      · exact canonical_vectorTurn hs htick
    next =>
      split at ht
      · cases ht; exact canonical_same htick
      · exact canonical_runInstruction ht htick

theorem keptStep_hartStep : KeptStep form hartStep where
  next {s t} ht h := by
    unfold hartStep at ht
    split at ht
    · cases ht; exact canonical_waitStep h
    · cases ht; exact canonical_waitStep h
    · cases ht; exact canonical_haltStep h
    · cases ht; exact canonical_suspendStep h
    · exact canonical_runStep ht h

theorem canonical_seen (h : s.Canonical form) : s.seen.Canonical form := canonical_same h

theorem canonical_vectorShare (h : s.Canonical form) : (vectorShare s).Canonical form :=
  canonical_ite _ h (canonical_getD (fun _ ht => canonical_vectorTurn ht h) h)

theorem canonical_freeStep (ht : freeStep s = .next t) (h : s.Canonical form) : t.Canonical form := by
  have hseen := canonical_seen h
  unfold freeStep at ht
  dsimp only at ht
  split at ht
  · cases ht; exact canonical_waitStep hseen
  · split at ht
    · cases ht
      have hshare := canonical_vectorShare hseen
      exact canonical_rotate (canonical_getD (fun _ ht => canonical_backgroundEvent ht hshare) hshare)
    · exact keptStep_hartStep.next ht (canonical_same hseen)

/-! ## Relaxed turns -/

theorem canonical_setMem {m : List Host.Cell} (hm : Memory.wf s.mem = true → Memory.wf m = true) (h : s.Canonical form) :
    State.Canonical form { s with mem := m } := by
  obtain ⟨h⟩ := h
  cases form with
  | memory => exact ⟨hm h⟩
  | units => exact ⟨h⟩

theorem memWf_putCells {γ : Type} (f : γ → Nat × Byte) (cs : List γ) {m : List Host.Cell} (h : Memory.wf m = true) :
    Memory.wf (cs.foldl (fun m c => sparsePut memDefault m (f c).1 (f c).2) m) = true :=
  List.foldlRecOn (motive := fun m => Memory.wf m = true) cs _ h fun _ hm _ _ => sparseWf_put memDefault _ _ hm

theorem memWf_unsee (xs : List Stale) {m : List Host.Cell} (h : Memory.wf m = true) : Memory.wf (unsee xs m) = true := by
  induction xs with
  | nil => exact h
  | cons x xs ih => exact memWf_putCells (fun c => (c.1, c.2.1)) x.cells ih

theorem memWf_redo (xs : List Stale) {m : List Host.Cell} (h : Memory.wf m = true) : Memory.wf (redo m xs).1 = true :=
  List.foldlRecOn (motive := fun acc : List Host.Cell × List Stale => Memory.wf acc.1 = true) xs _ h
    fun _ hm x _ => memWf_putCells (fun c => (c.1, c.2.2)) x.cells hm

theorem canonical_viewed (mine : List Stale) (h : s.Canonical form) : (s.viewed mine).Canonical form :=
  canonical_same (canonical_setMem (memWf_unsee mine) h)

theorem canonical_agentTurn {run : AgentRun} (hrun : KeptStep form run) {under : Bool} {n : Nat} {mine : List Stale}
    {r : AgentTurn} (hr : agentTurn run under s n mine = some r) (h : s.Canonical form) : r.after.Canonical form := by
  induction n generalizing mine with
  | zero => cases hr
  | succ n ih =>
    unfold agentTurn at hr
    dsimp only at hr
    split at hr
    next t ht =>
      split at hr
      · cases hr
      · split at hr
        · exact ih hr
        · rw [← Option.some.inj hr]
          exact canonical_same (canonical_setMem (memWf_redo mine) (hrun.next ht (canonical_viewed mine h)))
    next => cases hr

theorem canonical_prune (h : s.Canonical form) : (prune s).Canonical form := canonical_same h

theorem canonical_afterFence (k : BitVec 4) (h : s.Canonical form) : (afterFence k s).Canonical form := by
  unfold afterFence
  dsimp only
  repeat' split
  all_goals exact canonical_same h

theorem canonical_scalarTurn {hide under : Bool} (ht : scalarTurn hide under s = .next t) (h : s.Canonical form) :
    t.Canonical form := by
  unfold scalarTurn at ht
  split at ht
  next => exact keptStep_hartStep.next ht (canonical_seen h)
  next r hr =>
    cases ht
    have hafter := canonical_agentTurn keptStep_hartStep hr h
    refine canonical_prune (canonical_ite _ (canonical_same hafter) ?_)
    split
    · exact canonical_ite _ (canonical_afterFence _ (canonical_same hafter)) (canonical_same hafter)
    · exact canonical_same hafter
    · exact canonical_same hafter

theorem keptStep_executeOldest : KeptStep form fun s => .next (executeOldest.exec s).2 where
  next ht h := by cases ht; exact canonical_executeOldest h

theorem canonical_entryTurn {hide under : Bool} (ht : entryTurn hide under s = .next t) (h : s.Canonical form) :
    t.Canonical form := by
  unfold entryTurn at ht
  dsimp only at ht
  split at ht
  next => exact keptStep_executeOldest.next ht (canonical_seen h)
  next r hr =>
    cases ht
    exact canonical_prune (canonical_same (canonical_agentTurn keptStep_executeOldest hr h))

theorem canonical_engineTurn {i : Instr} {u : Nat × Nat} {hide under : Bool} (ht : engineTurn i u hide under s = .next t)
    (h : s.Canonical form) : t.Canonical form := by
  unfold engineTurn at ht
  dsimp only at ht
  split at ht
  next => exact (keptStep_exec i).next ht (canonical_seen h)
  next r hr =>
    cases ht
    exact canonical_prune (canonical_same (canonical_agentTurn (keptStep_exec i) hr h))

theorem keptStep_relaxedStep (actor : Actor) (hide under : Bool) : KeptStep form (relaxedStep actor hide under) where
  next {s t} ht h := by
    have hseen := canonical_seen h
    unfold relaxedStep at ht
    dsimp only at ht
    cases actor with
    | scalar =>
      dsimp only at ht
      split at ht
      · exact canonical_scalarTurn ht h
      · exact keptStep_hartStep.next ht hseen
    | vector =>
      dsimp only at ht
      split at ht
      · exact canonical_entryTurn ht h
      · exact keptStep_executeOldest.next ht hseen
    | engine i =>
      dsimp only at ht
      repeat' split at ht
      · exact canonical_engineTurn ht h
      · exact (keptStep_exec i).next ht hseen
      · exact (keptStep_exec i).next ht hseen

theorem canonical_overlay (g : Nat) (bytes : List Byte) (h : s.Canonical form) : (s.overlay g bytes).Canonical form :=
  canonical_setMem (fun hm => sparseWf_putList memDefault bytes _ hm) h

theorem canonical_turnsBefore {g : Nat} {as : List Actor} (ht : turnsBefore g as s = some t) (h : s.Canonical form) :
    t.Canonical form := by
  induction as generalizing s with
  | nil => cases ht; exact h
  | cons a as ih =>
    unfold turnsBefore at ht
    split at ht
    · cases ht
    · cases a with
      | scalar =>
        dsimp only at ht
        split at ht
        · cases ht
        · split at ht
          next hs =>
            split at ht
            · cases ht
            · exact ih ht (canonical_same (keptStep_hartStep.next hs (canonical_viewed [] h)))
          next => cases ht
      | vector => exact ih ht (canonical_executeOldest h)
      | engine i =>
        dsimp only at ht
        split at ht
        · cases ht
        · split at ht
          next hs => exact ih ht ((keptStep_exec i).next hs h)
          next => cases ht

theorem keptStep_foresee (g : Nat) (bytes : List Byte) (as : List Actor) : KeptStep form (foresee g bytes as) where
  next {s t} ht h := by
    unfold foresee at ht
    dsimp only at ht
    split at ht
    next hread =>
      split at ht
      · cases ht
        split at hread
        · cases hread
        · split at hread
          next hs =>
            split at hread
            · cases hread
            · have hlast := keptStep_hartStep.next hs (canonical_viewed [] (canonical_overlay g bytes h))
              exact canonical_turnsBefore hread (canonical_same (canonical_overlay g (s.granule g) hlast))
          next => cases hread
      · exact keptStep_hartStep.next ht h
    next => exact keptStep_hartStep.next ht h

/-! ## One step -/

@[simp] theorem kept_codeTurn (core addr : Nat) (hit : Option Bool) : Kept form (codeTurn core addr hit) := by
  unfold codeTurn
  exact of_kept_rules

theorem keptStep_ite {c : State → Prop} {_ : ∀ s, Decidable (c s)} {f g : State → Host.Outcome State Fault Refusal}
    (hf : KeptStep form f) (hg : KeptStep form g) : KeptStep form fun s => if c s then f s else g s where
  next {s t} ht h := by
    split at ht
    · exact hf.next ht h
    · exact hg.next ht h

theorem keptStep_from {f : State → Host.Outcome State Fault Refusal} {g : State → State} (hf : KeptStep form f)
    (hg : ∀ s, s.Canonical form → (g s).Canonical form) : KeptStep form fun s => f (g s) where
  next ht h := hf.next ht (hg _ h)

theorem keptStep_next {g : State → State} (hg : ∀ s, s.Canonical form → (g s).Canonical form) :
    KeptStep form fun s => .next (g s) where
  next {s _} ht h := by cases ht; exact hg s h

theorem canonical_seen_focusOn (n : Nat) (h : s.Canonical form) : (s.seen.focusOn n).Canonical form :=
  canonical_focusOn (canonical_seen h) n

theorem keptStep_takeTurn (t : Turn) : KeptStep form (takeTurn t) := by
  have hstay : KeptStep form fun s => .next s := keptStep_next fun _ h => h
  cases t with
  | hart n => exact keptStep_ite (keptStep_from keptStep_hartStep fun _ h => canonical_same (canonical_seen_focusOn n h)) hstay
  | vector n => exact keptStep_ite (keptStep_next fun _ h => canonical_executeOldest (canonical_seen_focusOn n h)) hstay
  | relaxed n actor hide under =>
    exact keptStep_ite (keptStep_from (keptStep_relaxedStep actor hide under) fun _ h => canonical_same h)
      (keptStep_ite (keptStep_from (keptStep_relaxedStep actor hide under)
        fun _ h => canonical_same (canonical_seen_focusOn n h)) hstay)
  | foresee n g bytes as =>
    exact keptStep_ite (keptStep_from (keptStep_foresee g bytes as) fun _ h => canonical_same (canonical_seen_focusOn n h)) hstay
  | reveal vector n => exact keptStep_next fun s h => canonical_ite _ (canonical_same h) (canonical_same h)
  | code core addr hit => exact keptStep_runEvent fun _ => kept_codeTurn core addr hit
  | cycles n => exact keptStep_next fun _ h => canonical_same h
  | event i => exact ⟨fun ht h => (keptStep_exec i).next ht (canonical_seen h)⟩
  | upset cls spot => exact ⟨fun ht h => (keptStep_runEvent fun _ => kept_upsetAt cls spot).next ht (canonical_seen h)⟩
  | flit p link vc dest kind payload =>
    exact ⟨fun ht h => (keptStep_runEvent fun _ => kept_sendFlit ..).next ht (canonical_seen h)⟩
  | hostRead p off size =>
    exact ⟨fun ht h => (keptStep_runEvent fun _ => kept_hostControlRead ..).next ht (canonical_seen h)⟩

theorem keptStep_step : KeptStep form step where
  next {s t} ht h := by
    unfold step at ht
    split at ht
    · exact (keptStep_takeTurn _).next ht (canonical_same h)
    · exact canonical_freeStep ht h

/-- Settles O59: both canonical forms are kept by every step, since every meaning that a step runs keeps them. -/
theorem canonicalForm : Obligations.CanonicalForm := by
  unfold Obligations.CanonicalForm
  refine ⟨fun s t hs ht => ?_, fun s t hs ht => ?_⟩
  · exact canonical_memory_iff.1 (keptStep_step.next ht (canonical_memory_iff.2 hs))
  · exact canonical_units_iff.1 (keptStep_step.next ht (canonical_units_iff.2 hs))

end Sys2Proof.Machine
end

section
/-! TVEC, IMASK, GATEBASE and GATECNT are kept by every meaning that runs below privilege 2 (O60): `Spares s₀ m` says that `m`
leads from a state whose harts hold in the four registers what they hold in `s₀` to such a state. This part holds the predicate, the
rules for the operations of the state and for the constructors of meanings, and the walk through a meaning by those rules; the parts
after it go through what instructions reach, in the model's order. Only MTS writes the four registers, and the check of its register
number precedes the write: so the invariant needs the privilege in that one instruction only. -/

namespace Sys2Proof.Machine

/-- What TVEC, IMASK, GATEBASE and GATECNT hold (R43, R111, R122, R123). -/
def TrapRegs.handlerRegs (t : TrapRegs) : Word × BitVec 4 × Word × BitVec 11 := (t.tvec, t.imask, t.gatebase, t.gatecnt)

/-- The hart in focus is that of `s₀`, and the four registers of every hart hold what they hold in `s₀`. -/
def HandlerRegsAsIn (s₀ : State) (id : Nat) (hart : Hart) (others : Sparse Hart) : Prop :=
  id = s₀.id ∧ ∀ n, (if n = id then hart else sparseGet Hart.reset others n).trap.handlerRegs = (s₀.hartAt n).trap.handlerRegs

/-- The hart in focus is that of `s₀`, and no hart differs from `s₀` in the four registers. A structure, so that no unifier looks
into it. -/
structure State.Spared (s₀ s : State) : Prop where
  parts : HandlerRegsAsIn s₀ s.id s.hart s.others

theorem State.Spared.id {s₀ s : State} (h : s₀.Spared s) : s.id = s₀.id := h.parts.1

theorem State.Spared.regs {s₀ s : State} (h : s₀.Spared s) (n : Nat) :
    (s.hartAt n).trap.handlerRegs = (s₀.hartAt n).trap.handlerRegs := h.parts.2 n

/-- What an updated state, written field by field, holds in the four registers is what its harts hold. -/
theorem spared_mk (s₀ : State) (id : Nat) (hart : Hart) (others : Sparse Hart) (cores : Sparse Core) (quads : Sparse Quad)
    (dies : Sparse Die) (pkgs : Sparse Pkg) (pb : Sparse Barrier) (mem : List Host.Cell) (po de : List Nat) (uv us : List Stale)
    (st : Option Stores) (ti fc : Nat) (ag : List Turn) (la pa : Bool) (ro : Nat) :
    State.Spared s₀ ⟨id, hart, others, cores, quads, dies, pkgs, pb, mem, po, de, uv, us, st, ti, fc, ag, la, pa, ro⟩ ↔
      HandlerRegsAsIn s₀ id hart others := ⟨fun h => h.parts, fun h => ⟨h⟩⟩

/-- A meaning leads from states that differ from `s₀` in no hart's four registers to such states, however it ends. -/
structure Spares (s₀ : State) {α : Type} (m : M α) : Prop where
  keeps : Keeps (fun s t => s₀.Spared s → s₀.Spared t) m

variable {α β : Type} {s₀ s t : State}

/-! ## The operations of the state -/

theorem spared_intro (hid : s.id = s₀.id) (h : ∀ n, (s.hartAt n).trap.handlerRegs = (s₀.hartAt n).trap.handlerRegs) :
    s₀.Spared s := ⟨hid, h⟩

theorem spared_refl (s : State) : s.Spared s := spared_intro rfl fun _ => rfl

/-- The state differs in no hart. -/
theorem spared_harts (h : s₀.Spared s)
    (e : HandlerRegsAsIn s₀ t.id t.hart t.others = HandlerRegsAsIn s₀ s.id s.hart s.others := by rfl) : s₀.Spared t := ⟨e ▸ h.parts⟩

theorem spared_setHartAt (h : s₀.Spared s) (n : Nat) (x : Hart) (e : x.trap.handlerRegs = (s.hartAt n).trap.handlerRegs) :
    s₀.Spared (s.setHartAt n x) := by
  refine spared_intro ((setHartAt_id ..).trans h.id) fun k => ?_
  by_cases hk : k = n
  · rw [hk, hartAt_setHartAt_same, e, h.regs]
  · rw [hartAt_setHartAt_other _ _ hk, h.regs]

theorem spared_focusOn (h : s₀.Spared s) (n : Nat) : (s₀.focusOn n).Spared (s.focusOn n) :=
  spared_intro (by rw [focusOn_id, focusOn_id]) fun k => by rw [hartAt_focusOn, hartAt_focusOn, h.regs]

theorem spared_of_focusOn {n : Nat} (h : (s₀.focusOn n).Spared s) : s₀.Spared (s.focusOn s₀.id) :=
  spared_intro (focusOn_id ..) fun k => by rw [hartAt_focusOn, h.regs, hartAt_focusOn]

theorem spared_modHart (h : s₀.Spared s) {x : Hart} (e : x.trap.handlerRegs = s.hart.trap.handlerRegs) :
    s₀.Spared { s with hart := x } := by
  have hset := spared_setHartAt h s.id x (by rw [e, State.hartAt, if_pos rfl])
  rwa [State.setHartAt, if_pos rfl] at hset

/-! ## The constructors of meanings -/

theorem spares_modHart {f : Hart → Hart} (hf : ∀ h, (f h).trap.handlerRegs = h.trap.handlerRegs) : Spares s₀ (modHart f) :=
  ⟨fun s h => spared_modHart h (hf s.hart)⟩

theorem spares_modTrapRegs {f : TrapRegs → TrapRegs} (hf : ∀ t, (f t).handlerRegs = t.handlerRegs) : Spares s₀ (modTrapRegs f) :=
  spares_modHart fun h => hf h.trap

theorem chain_spared (s₀ : State) : Chain fun s t => s₀.Spared s → s₀.Spared t := chain_of_inv s₀.Spared
theorem spares_pure (x : α) : Spares s₀ (pure x : M α) := ⟨keeps_pure (chain_spared s₀) x⟩
theorem spares_throw (e : Stop) : Spares s₀ (throw e : M α) := ⟨keeps_throw (chain_spared s₀) e⟩
theorem spares_bind {m : M α} {f : α → M β} (hm : Spares s₀ m) (hf : ∀ x, Spares s₀ (f x)) : Spares s₀ (m >>= f) :=
  ⟨keeps_bind (chain_spared s₀) hm.keeps fun x => (hf x).keeps⟩
theorem spares_map {m : M α} (f : α → β) (hm : Spares s₀ m) : Spares s₀ (f <$> m) :=
  ⟨keeps_map (chain_spared s₀) f hm.keeps⟩
theorem spares_ite (p : Prop) {_ : Decidable p} {m n : M α} (hm : Spares s₀ m) (hn : Spares s₀ n) :
    Spares s₀ (if p then m else n) := by
  split <;> assumption
theorem spares_join {γ : Type} {m : M γ} (jp : β → M α) (hjp : ∀ x, Spares s₀ (jp x))
    (h : (∀ x, Spares s₀ (jp x)) → Spares s₀ m) : Spares s₀ m := h hjp
theorem spares_given_state {γ : Type} {m : M γ} (t : State) (ht : s₀.Spared t) (h : s₀.Spared t → Spares s₀ m) :
    Spares s₀ m := h ht
theorem spares_given {γ : Type} {m : M γ} (_ : β) (h : Spares s₀ m) : Spares s₀ m := h
theorem spares_get_bind {f : State → M α} (hf : ∀ s, s₀.Spared s → Spares s₀ (f s)) : Spares s₀ (get >>= f) :=
  ⟨fun s h => (hf s h).keeps s h⟩
theorem spares_set (h : s₀.Spared s) : Spares s₀ (set s : M PUnit) := ⟨fun _ _ => h⟩
theorem spares_modify {f : State → State} (h : ∀ s, s₀.Spared s → s₀.Spared (f s)) : Spares s₀ (modify f : M PUnit) := ⟨h⟩
theorem spares_attempt {m : M α} (hm : Spares s₀ m) : Spares s₀ (attempt m) := ⟨keeps_attempt hm.keeps⟩
theorem spares_forN {f : Nat → M Unit} (hf : ∀ i, Spares s₀ (f i)) (n : Nat) : Spares s₀ (forN n f) :=
  ⟨keeps_forN (chain_spared s₀) (fun i => (hf i).keeps) n⟩
theorem spares_forFrom {f : Nat → M Unit} (hf : ∀ i, Spares s₀ (f i)) (n i : Nat) : Spares s₀ (forFrom n i f) :=
  ⟨keeps_forFrom (chain_spared s₀) (fun i => (hf i).keeps) n i⟩
theorem spares_mapFrom {f : Nat → M α} (hf : ∀ i, Spares s₀ (f i)) (n i : Nat) : Spares s₀ (mapFrom n i f) :=
  ⟨keeps_mapFrom (chain_spared s₀) (fun i => (hf i).keeps) n i⟩
theorem spares_foldlM {γ : Type} {f : β → γ → M β} (hf : ∀ b x, Spares s₀ (f b x)) (xs : List γ) (b : β) :
    Spares s₀ (xs.foldlM f b) := by
  induction xs generalizing b with
  | nil => exact spares_pure b
  | cons x xs ih =>
    rw [List.foldlM_cons]
    exact spares_bind (hf b x) ih
theorem spared_exec {m : M α} (hm : Spares s₀ m) (h : s₀.Spared s) : s₀.Spared (m.exec s).2 := hm.keeps s h

/-! ## An engine's work on another hart -/

/-- What an engine does with its hart in focus, between bringing it there and bringing the other one back. -/
def engineWork (hart : Nat) (priv old : BitVec 2) (held locks : List Interlock) (m : M α) : M (Except Stop α) := do
  modTrapRegs fun t => { t with priv := priv }
  modCore (coreOf hart) fun k => { k with locks := held }
  let r ← attempt m
  modTrapRegs fun t => { t with priv := old }
  modCore (coreOf hart) fun k => { k with locks := locks }
  pure r

theorem asEngine_state (hart : Nat) (priv : BitVec 2) (held : List Interlock) (m : M α) (s : State) :
    ((asEngine hart priv held m).exec s).2 =
      { ((engineWork hart priv (s.hartAt hart).trap.priv held (s.core (coreOf hart)).locks m).exec (s.focusOn hart)).2.focusOn s.id
        with parked := s.parked } := rfl

theorem spares_engineWork (hart : Nat) (priv old : BitVec 2) (held locks : List Interlock) {m : M α} (hm : Spares s₀ m) :
    Spares s₀ (engineWork hart priv old held locks m) := by
  refine spares_bind (spares_modTrapRegs fun _ => rfl) fun _ => spares_bind (spares_modify fun _ h => spared_harts h) fun _ =>
    spares_bind (spares_attempt hm) fun _ => spares_bind (spares_modTrapRegs fun _ => rfl) fun _ =>
    spares_bind (spares_modify fun _ h => spared_harts h) fun _ => spares_pure _

theorem spares_asEngine (hart : Nat) (priv : BitVec 2) (held : List Interlock) {m : M α} (hm : ∀ s₀, Spares s₀ m) :
    Spares s₀ (asEngine hart priv held m) := by
  refine ⟨fun s h => ?_⟩
  rw [asEngine_state, h.id]
  exact spared_harts (spared_of_focusOn (spared_exec (spares_engineWork _ _ _ _ _ (hm _)) (spared_focusOn h hart)))

/-! ## The operations that a meaning is made of -/

@[simp] theorem spares_get : Spares s₀ (get : M State) := ⟨keeps_get (chain_spared s₀)⟩
@[simp] theorem spares_getHart : Spares s₀ getHart := ⟨keeps_getHart (chain_spared s₀)⟩
@[simp] theorem spares_privNow : Spares s₀ privNow := ⟨keeps_privNow (chain_spared s₀)⟩
@[simp] theorem spares_trap (x : Cause) (v : Word) : Spares s₀ (trap x v : M α) := spares_throw _
@[simp] theorem spares_trapWord (x : Cause) : Spares s₀ (trapWord x : M α) := spares_throw _
@[simp] theorem spares_block : Spares s₀ (block : M α) := spares_throw _
@[simp] theorem spares_stall : Spares s₀ (stall : M α) := spares_throw _
@[simp] theorem spares_trapIf (b : Bool) (x : Cause) (v : Word) : Spares s₀ (trapIf b x v) :=
  ⟨keeps_trapIf (chain_spared s₀) b x v⟩
theorem spares_modHart_trap {f : Hart → Hart} (hf : ∀ h, (f h).trap = h.trap) : Spares s₀ (modHart f) :=
  spares_modHart fun h => by rw [hf]
@[simp] theorem spares_modFetch (f : Fetch → Fetch) : Spares s₀ (modFetch f) := spares_modHart fun _ => rfl
@[simp] theorem spares_modCfg (f : VConf → VConf) : Spares s₀ (modCfg f) := spares_modHart fun _ => rfl
@[simp] theorem spares_modVec (f : VecRegs → VecRegs) : Spares s₀ (modVec f) := spares_modHart fun _ => rfl
@[simp] theorem spares_modSys (f : SysRegs → SysRegs) : Spares s₀ (modSys f) := spares_modHart fun _ => rfl
@[simp] theorem spares_modTask (f : Task → Task) : Spares s₀ (modTask f) := spares_modHart fun _ => rfl
@[simp] theorem spares_modCore (n : Nat) (f : Core → Core) : Spares s₀ (modCore n f) := ⟨fun _ h => spared_harts h⟩
@[simp] theorem spares_modQuad (n : Nat) (f : Quad → Quad) : Spares s₀ (modQuad n f) := ⟨fun _ h => spared_harts h⟩
@[simp] theorem spares_modDie (n : Nat) (f : Die → Die) : Spares s₀ (modDie n f) := ⟨fun _ h => spared_harts h⟩
@[simp] theorem spares_modPkg (n : Nat) (f : Pkg → Pkg) : Spares s₀ (modPkg n f) := ⟨fun _ h => spared_harts h⟩
@[simp] theorem spares_freeWord : Spares s₀ freeWord := ⟨fun _ h => spared_harts h⟩

/-! ## The walk -/

theorem spared_ite (p : Prop) {_ : Decidable p} (hs : s₀.Spared s) (ht : s₀.Spared t) : s₀.Spared (if p then s else t) := by
  split <;> assumption
theorem spared_setCore (h : s₀.Spared s) (n : Nat) (x : Core) : s₀.Spared (s.setCore n x) := spared_harts h
theorem spared_setQuad (h : s₀.Spared s) (n : Nat) (x : Quad) : s₀.Spared (s.setQuad n x) := spared_harts h
theorem spared_setDie (h : s₀.Spared s) (n : Nat) (x : Die) : s₀.Spared (s.setDie n x) := spared_harts h
theorem spared_setPkg (h : s₀.Spared s) (n : Nat) (x : Pkg) : s₀.Spared (s.setPkg n x) := spared_harts h
theorem spared_putBytes (h : s₀.Spared s) (a : Nat) (bs : List Byte) : s₀.Spared (s.putBytes a bs) := spared_harts h
theorem spared_putNat (h : s₀.Spared s) (a n x : Nat) : s₀.Spared (s.putNat a n x) := spared_harts h
theorem spared_putSp (h : s₀.Spared s) (k off n x : Nat) : s₀.Spared (s.putSp k off n x) := spared_harts h
theorem spared_unowned (h : s₀.Spared t) (s : State) : s₀.Spared (s.unowned t) := spared_harts h
theorem spared_markLeaf (h : s₀.Spared s) (a b : Nat) : s₀.Spared (markLeaf a b s) := by
  unfold markLeaf
  exact spared_ite _ h (spared_harts h)

theorem spared_foldl {γ : Type} {f : State → γ → State} (hf : ∀ s x, s₀.Spared s → s₀.Spared (f s x))
    (xs : List γ) {s : State} (h : s₀.Spared s) : s₀.Spared (xs.foldl f s) :=
  List.foldlRecOn (motive := fun s => s₀.Spared s) xs f h fun s h x _ => hf s x h

/-- A claim that the rules above derive by the shape of the term it speaks of, as `of_kept_rules` does for the canonical form: a
meaning is taken apart at its constructors, named values and join points are generalised, a changed state at the operations of the
state, and a change of the hart in focus must leave the four registers as they are. The combinators of vector entries
(`spares_vrun`, `spares_atElem` and so on) are rules from where they are proved. -/
theorem of_spares_rules {P : Prop}
    (h : P := by
      repeat' with_reducible first
        | assumption
        | intro _
        | ((fail_if_no_progress extract_lets +onlyGivenNames jp)
           first
           | (guard_hyp jp : _ → M _ := _
              apply spares_join jp
              on_goal 1 => (intro _; unfold jp)
              on_goal 2 => clear_value jp)
           | (guard_hyp jp : State := _
              apply spares_given_state jp
              on_goal 1 => unfold jp
              on_goal 2 => clear_value jp)
           | (apply spares_given jp; clear_value jp))
        | apply spares_pure
        | apply spares_throw
        | apply spares_get_bind
        | apply spares_bind
        | apply spares_ite
        | apply spares_attempt
        | apply spares_forN
        | apply spares_forFrom
        | apply spares_mapFrom
        | apply spares_foldlM
        | apply spares_modify
        | apply spares_map
        | apply spares_set
        | apply spares_vrun
        | apply spares_vrunN
        | apply spares_atElem
        | apply spares_putTileW
        | apply spares_quietly
        | apply spares_loadWhole
        | apply spares_wholly
        | apply spares_ordEntry
        | apply spares_orAgain
        | apply spares_releaseIf
        | apply spares_guarded
        | apply spares_guardedWhole
        | apply spares_withFlat
        | apply spares_keyWhole
        | apply spares_atomicStep
        | apply spares_intoRun
        | apply spares_scatter
        | apply spares_postSlot
        | apply spares_asEngine
        | (apply spares_modHart_trap; intro _; with_unfolding_all rfl)
        | (apply spares_modHart; intro _; with_unfolding_all rfl)
        | (apply spares_modTrapRegs; intro _; with_unfolding_all rfl)
        | (apply spares_modHart_trap; intro _; simp; done)
        | (apply spares_modHart_trap; intro _; (repeat' split) <;> rfl)
        | apply spared_ite
        | apply spared_setCore
        | apply spared_setQuad
        | apply spared_setDie
        | apply spared_setPkg
        | apply spared_setHartAt
        | apply spared_putBytes
        | apply spared_putNat
        | apply spared_markLeaf
        | apply spared_putSp
        | apply spared_unowned
        | apply spared_putRecords
        | apply spared_putBarrier
        | apply spared_setEvent
        | apply spared_requeueAt
        | apply spared_setEntries
        | apply spared_ringMark
        | apply spared_foldl
        | apply spared_forkEntry
        | split
        | (simp only [spared_mk]; refine State.Spared.parts ?_)
        | (simp; done)
        | apply_assumption -exfalso
        | dsimp only) : P := h

end Sys2Proof.Machine
end

section
/-! The four registers: scalars, memory, the fetch queue, trap entry and what vector entries are made of. -/

namespace Sys2Proof.Machine

set_option Elab.async false
variable {α β : Type} {s₀ s t : State}

@[simp] theorem spares_checkScalar (n : BitVec 7) : Spares s₀ (checkScalar n) := by unfold checkScalar; exact of_spares_rules
@[simp] theorem spares_readScalar (n : BitVec 7) : Spares s₀ (readScalar n) := by unfold readScalar; exact of_spares_rules

@[simp] theorem spares_writeScalar (n : BitVec 7) (v : Word) : Spares s₀ (writeScalar n v) := by
  unfold writeScalar; exact of_spares_rules

@[simp] theorem spares_checkPair (n : BitVec 7) : Spares s₀ (checkPair n) := by unfold checkPair; exact of_spares_rules
@[simp] theorem spares_needUnit (n : Nat) : Spares s₀ (needUnit n) := by unfold needUnit; exact of_spares_rules
@[simp] theorem spares_needAnswer (p : Nat) (v : Word) : Spares s₀ (needAnswer p v) := by unfold needAnswer; exact of_spares_rules

@[simp] theorem spares_translateAt (priv : Nat) (k : Access) (g : Agent) (v : Word) (size : Nat) :
    Spares s₀ (translateAt priv k g v size) := by
  unfold translateAt reach walkAndCache; exact of_spares_rules

@[simp] theorem spares_checkPoison (pa n : Nat) (v : Word) : Spares s₀ (checkPoison pa n v) := by
  unfold checkPoison; exact of_spares_rules

@[simp] theorem spares_storeAt (v : Word) (pa n x : Nat) : Spares s₀ (storeAt v pa n x) := by
  unfold storeAt; exact of_spares_rules

@[simp] theorem spares_rdmemAt (priv : Nat) (g : Agent) (v : Word) (size : Nat) : Spares s₀ (rdmemAt priv g v size) := by
  unfold rdmemAt; exact of_spares_rules

@[simp] theorem spares_wrmemAt (priv : Nat) (g : Agent) (v : Word) (size x : Nat) : Spares s₀ (wrmemAt priv g v size x) := by
  unfold wrmemAt; exact of_spares_rules

@[simp] theorem spares_rdmem (g : Agent) (v : Word) (size : Nat) : Spares s₀ (rdmem g v size) := by
  unfold rdmem; exact of_spares_rules

@[simp] theorem spares_rdWords (priv : Nat) (v : Word) (n : Nat) : Spares s₀ (rdWords priv v n) := by
  unfold rdWords; exact of_spares_rules

@[simp] theorem spares_wrWords (priv : Nat) (v : Word) (xs : List Word) : Spares s₀ (wrWords priv v xs) := by
  induction xs generalizing v with
  | nil => exact spares_pure _
  | cons x xs ih => unfold wrWords; exact of_spares_rules

@[simp] theorem spares_succAt (priv : Nat) (v : Word) : Spares s₀ (succAt priv v) := by
  unfold succAt fetchAt; exact of_spares_rules

@[simp] theorem spares_succ (v : Word) : Spares s₀ (succ v) := by unfold succ; exact of_spares_rules
@[simp] theorem spares_formQueue : Spares s₀ formQueue := by unfold formQueue; exact of_spares_rules
@[simp] theorem spares_advance (fl : Flow) : Spares s₀ (advance fl) := by unfold advance; exact of_spares_rules

theorem spared_putRecords (base cap wr : Nat) (rs : List (List Byte)) {s : State} (h : s₀.Spared s) :
    s₀.Spared (putRecords base cap wr rs s) := by
  induction rs generalizing wr s with
  | nil => exact h
  | cons r rs ih => exact ih (wr + 1) (spared_unowned (spared_putBytes h _ r) s)

@[simp] theorem spares_logEvent (d source cls addr : Nat) : Spares s₀ (logEvent d source cls addr) := by
  unfold logEvent; exact of_spares_rules

@[simp] theorem spares_saveEntries (v : Word) (es : List Entry) (n : Nat) : Spares s₀ (saveEntries v es n) := by
  induction es generalizing v n with
  | nil => exact spares_pure _
  | cons e es ih => unfold saveEntries; exact of_spares_rules

@[simp] theorem spares_leaveWaits : Spares s₀ leaveWaits := by unfold leaveWaits; exact of_spares_rules

@[simp] theorem spares_trapEntry (v : Bool) (c : Cause) (x : Word) : Spares s₀ (trapEntry v c x) := by
  unfold trapEntry saveQueue enterHandler; exact of_spares_rules

theorem spared_takeTrap (v : Bool) (c : Cause) (x : Word) (h : s₀.Spared s) : s₀.Spared (takeTrap v c x s) :=
  spared_exec (spares_trapEntry v c x) h

@[simp] theorem spares_release : Spares s₀ release := by unfold release; exact of_spares_rules
@[simp] theorem spares_needSupervisor : Spares s₀ needSupervisor := by unfold needSupervisor; exact of_spares_rules
@[simp] theorem spares_setFlags (fl : Flags) : Spares s₀ (setFlags fl) := by unfold setFlags; exact of_spares_rules
@[simp] theorem spares_stepGen (frm : BitVec 3) : Spares s₀ (stepGen frm) := by unfold stepGen; exact of_spares_rules

@[simp] theorem spares_vrnd (frm : BitVec 3) (f : Fmt) (sat : Bool) (x : Ex) : Spares s₀ (vrnd frm f sat x) := by
  unfold vrnd; exact of_spares_rules

@[simp] theorem spares_flagged (r : Rounded) : Spares s₀ (flagged r) := by unfold flagged; exact of_spares_rules

@[simp] theorem spares_checkRowsNat (c : VConf) (first count : Nat) (field : BitVec 7) :
    Spares s₀ (checkRowsNat c first count field) := by
  unfold checkRowsNat; exact of_spares_rules

@[simp] theorem spares_checkTile (n : Nat) : Spares s₀ (checkTile n) := by unfold checkTile; exact of_spares_rules
@[simp] theorem spares_clearOrder (row : Nat) : Spares s₀ (clearOrder row) := by unfold clearOrder; exact of_spares_rules
@[simp] theorem spares_wrAt (c : VConf) (n t i w x : Nat) : Spares s₀ (wrAt c n t i w x) := by unfold wrAt; exact of_spares_rules
@[simp] theorem spares_wrW (c : VConf) (n w j x : Nat) : Spares s₀ (wrW c n w j x) := by unfold wrW; exact of_spares_rules
@[simp] theorem spares_wr (c : VConf) (n j x : Nat) : Spares s₀ (wr c n j x) := by unfold wr; exact of_spares_rules
@[simp] theorem spares_clearAt (c : VConf) (n t : Nat) : Spares s₀ (clearAt c n t) := by unfold clearAt; exact of_spares_rules
@[simp] theorem spares_maskedW (c : VConf) (n w j : Nat) : Spares s₀ (maskedW c n w j) := by unfold maskedW; exact of_spares_rules
@[simp] theorem spares_masked (c : VConf) (n j : Nat) : Spares s₀ (masked c n j) := by unfold masked; exact of_spares_rules
@[simp] theorem spares_readPred (p : Nat) : Spares s₀ (readPred p) := by unfold readPred; exact of_spares_rules

@[simp] theorem spares_writePred (p : Nat) (x : BitVec 1024) : Spares s₀ (writePred p x) := by
  unfold writePred; exact of_spares_rules

@[simp] theorem spares_needPredVl (c : VConf) : Spares s₀ (needPredVl c) := by unfold needPredVl; exact of_spares_rules
@[simp] theorem spares_maskVl (c : VConf) (m : BitVec 1) : Spares s₀ (maskVl c m) := by unfold maskVl; exact of_spares_rules

@[simp] theorem spares_putScale (x e : Nat) (s : BitVec 16) : Spares s₀ (putScale x e s) := by
  unfold putScale; exact of_spares_rules

@[simp] theorem spares_putTile (a m n x : Nat) : Spares s₀ (putTile a m n x) := by unfold putTile; exact of_spares_rules

@[simp] theorem spares_tileErrors (a rows cols : Nat) : Spares s₀ (tileErrors a rows cols) := by
  unfold tileErrors; exact of_spares_rules

@[simp] theorem spares_setProgress (k : Nat) : Spares s₀ (setProgress k) := by unfold setProgress; exact of_spares_rules

theorem spares_atElem (k : Nat) (m : M Unit) (hm : Spares s₀ m) : Spares s₀ (atElem k m) := by
  unfold atElem; exact of_spares_rules

@[simp] theorem spares_deliver (x : Word) : Spares s₀ (deliver x) := by unfold deliver; exact of_spares_rules
@[simp] theorem spares_needRoom : Spares s₀ needRoom := by unfold needRoom; exact of_spares_rules

@[simp] theorem spares_deliverAll (from' : Nat) (xs : List Word) : Spares s₀ (deliverAll from' xs) := by
  unfold deliverAll; exact of_spares_rules

@[simp] theorem spares_stallOn (sp : Bool) (lo size : Nat) (write : Bool) : Spares s₀ (stallOn sp lo size write) := by
  unfold stallOn; exact of_spares_rules

@[simp] theorem spares_vread (g : Agent) (a : Word) (z : Nat) : Spares s₀ (vread g a z) := by unfold vread; exact of_spares_rules

@[simp] theorem spares_vwrite (g : Agent) (a : Word) (z x : Nat) : Spares s₀ (vwrite g a z x) := by
  unfold vwrite wrmem; exact of_spares_rules

@[simp] theorem spares_spCheck (a : Word) (size : Nat) (plain : Bool) : Spares s₀ (spCheck a size plain) := by
  unfold spCheck; exact of_spares_rules

@[simp] theorem spares_spPoisonCheck (c off n : Nat) (a : Word) : Spares s₀ (spPoisonCheck c off n a) := by
  unfold spPoisonCheck; exact of_spares_rules

@[simp] theorem spares_spRead (a : Word) (z : Nat) : Spares s₀ (spRead a z) := by unfold spRead; exact of_spares_rules
@[simp] theorem spares_spWrite (a : Word) (z x : Nat) : Spares s₀ (spWrite a z x) := by unfold spWrite; exact of_spares_rules

@[simp] theorem spares_nibbleWrite (g : Agent) (a : Word) (high : Bool) (x : Nat) : Spares s₀ (nibbleWrite g a high x) := by
  unfold nibbleWrite; exact of_spares_rules

@[simp] theorem spares_spNibbleWrite (a : Word) (high : Bool) (x : Nat) : Spares s₀ (spNibbleWrite a high x) := by
  unfold spNibbleWrite; exact of_spares_rules

@[simp] theorem spares_spaceRead (sp : Bool) (a : Word) (z : Nat) : Spares s₀ (spaceRead sp a z) := by
  unfold spaceRead; exact of_spares_rules

@[simp] theorem spares_spaceWrite (sp : Bool) (a : Word) (z x : Nat) : Spares s₀ (spaceWrite sp a z x) := by
  unfold spaceWrite; exact of_spares_rules

@[simp] theorem spares_recRead (r : List (BitVec 32)) (j : Nat) : Spares s₀ (recRead r j) := by
  unfold recRead; exact of_spares_rules

@[simp] theorem spares_recWrite (r : List (BitVec 32)) (j x : Nat) : Spares s₀ (recWrite r j x) := by
  unfold recWrite; exact of_spares_rules

@[simp] theorem spares_rowRecord (c : VConf) (n : BitVec 7) : Spares s₀ (rowRecord c n) := by
  unfold rowRecord; exact of_spares_rules

@[simp] theorem spares_strf {α : Type} (field reason : Nat) : Spares s₀ (strf field reason : M α) := by
  unfold strf; exact of_spares_rules

@[simp] theorem spares_putStream (slot : Nat) (st : Option Stream) : Spares s₀ (putStream slot st) := by
  unfold putStream; exact of_spares_rules

@[simp] theorem spares_raiseStream {α : Type} (slot : Nat) (st : Stream) (f : ElemFault) :
    Spares s₀ (raiseStream slot st f : M α) := by
  unfold raiseStream; exact of_spares_rules

@[simp] theorem spares_fetchStrip (st : Stream) (n j : Nat) : Spares s₀ (fetchStrip st n j) := by
  induction n generalizing j with
  | zero => exact spares_pure _
  | succ n ih => unfold fetchStrip; exact of_spares_rules

@[simp] theorem spares_writeNext (slot : Nat) (st : Stream) : Spares s₀ (writeNext slot st) := by
  unfold writeNext; exact of_spares_rules

@[simp] theorem spares_drainTo (slot room n : Nat) (st : Stream) : Spares s₀ (drainTo slot room n st) := by
  induction n generalizing st with
  | zero => exact spares_pure _
  | succ n ih => unfold drainTo; exact of_spares_rules

@[simp] theorem spares_streamRoomFor (slot : Nat) (st : Stream) (n : Nat) : Spares s₀ (streamRoomFor slot st n) := by
  unfold streamRoomFor; exact of_spares_rules

@[simp] theorem spares_checkUse (c : VConf) (et n : Nat) (o : Opnd) : Spares s₀ (checkUse c et n o) := by
  unfold checkUse; exact of_spares_rules

@[simp] theorem spares_spoilBuffer (slot : Nat) (st : Stream) : Spares s₀ (spoilBuffer slot st) := by
  unfold spoilBuffer; exact of_spares_rules

@[simp] theorem spares_loseBuffer {α : Type} (slot : Nat) (st : Stream) : Spares s₀ (loseBuffer slot st : M α) := by
  unfold loseBuffer; exact of_spares_rules

@[simp] theorem spares_checkErrors (c : VConf) (o : Opnd) : Spares s₀ (checkErrors c o) := by
  unfold checkErrors; exact of_spares_rules

@[simp] theorem spares_needStreamRoom (c : VConf) (n : Nat) (o : Opnd) : Spares s₀ (needStreamRoom c n o) := by
  unfold needStreamRoom; exact of_spares_rules

@[simp] theorem spares_loadStrip (c : VConf) (w n : Nat) (o : Opnd) : Spares s₀ (loadStrip c w n o) := by
  unfold loadStrip fillStrip; exact of_spares_rules

@[simp] theorem spares_appendStrip (c : VConf) (lo hi : Nat) (o : Opnd) : Spares s₀ (appendStrip c lo hi o) := by
  unfold appendStrip; exact of_spares_rules

@[simp] theorem spares_retireStreams (c : VConf) (n : Nat) (o : Opnd) : Spares s₀ (retireStreams c n o) := by
  unfold retireStreams; exact of_spares_rules

@[simp] theorem spares_dropStrips : Spares s₀ dropStrips := by unfold dropStrips; exact of_spares_rules

@[simp] theorem spares_prepareOpnds (c : VConf) (n et : Nat) (os : List Opnd) : Spares s₀ (prepareOpnds c n et os) := by
  unfold prepareOpnds; exact of_spares_rules

theorem spares_orAgain (hs : s₀.Spared s) {m : M Unit} (hm : Spares s₀ m) : Spares s₀ (orAgain s m) := by
  unfold orAgain; exact of_spares_rules

theorem spares_vrunN (c : VConf) (n et : Nat) (os : List Opnd) {body : M Unit} (hbody : Spares s₀ body) :
    Spares s₀ (vrunN c n et os body) := by
  unfold vrunN; exact of_spares_rules

theorem spares_vrun (c : VConf) (os : List Opnd) {body : M Unit} (hbody : Spares s₀ body) : Spares s₀ (vrun c os body) :=
  spares_vrunN c _ _ os hbody

@[simp] theorem spares_convertScalar (c : VConf) (x : Nat) : Spares s₀ (convertScalar c x) := by
  unfold convertScalar; exact of_spares_rules

@[simp] theorem spares_prepB (c : VConf) (e : Entry) (v : VecRegs) (b : VSrc) (anyActive : Bool) :
    Spares s₀ (prepB c e v b anyActive) := by
  unfold prepB; exact of_spares_rules

theorem spares_loadWhole (m : M Unit) (hm : Spares s₀ m) : Spares s₀ (loadWhole m) := by unfold loadWhole; exact of_spares_rules

theorem spares_quietly {α : Type} (c : VConf) (quiet : Bool) (m : M α) (hm : Spares s₀ m) :
    Spares s₀ (quietly c quiet m : M α) := by
  unfold quietly; exact of_spares_rules

@[simp] theorem spares_sources (c : VConf) (m : BitVec 1) (srcs : List (BitVec 7)) : Spares s₀ (sources c m srcs) := by
  unfold sources; exact of_spares_rules

@[simp] theorem spares_prepActive (c : VConf) (e : Entry) (v : VecRegs) (b : VSrc) (srcs : List (BitVec 7)) (act : Nat → Bool) :
    Spares s₀ (prepActive c e v b srcs act) := spares_quietly _ _ _ (spares_prepB ..)

theorem spares_wholly {α : Type} (m : M α) (hm : Spares s₀ m) : Spares s₀ (wholly m : M α) := by
  unfold wholly; exact of_spares_rules

theorem spares_putTileW (c : VConf) (n w : Nat) (f : Nat → M (Option Nat)) (hf : ∀ x, Spares s₀ (f x)) :
    Spares s₀ (putTileW c n w f) := by
  unfold putTileW; exact of_spares_rules

end Sys2Proof.Machine
end

section
/-! The four registers: the vector queue, and the arithmetic, movement and memory of tiles. -/

namespace Sys2Proof.Machine

set_option Elab.async false
variable {α β : Type} {s₀ s t : State}

@[simp] theorem spares_cap_check (i : Cap) : Spares s₀ (Cap.check i) := by unfold Cap.check; exact of_spares_rules

theorem spares_dispatchEntry (w lit : BitVec 32) {op : VOp} (hcheck : ∀ e, Spares s₀ (op.check e))
    (hat : ∀ e, Spares s₀ (op.atDispatch e)) : Spares s₀ (dispatchEntry w lit op) := by
  unfold dispatchEntry; exact of_spares_rules

@[simp] theorem spares_retireHead : Spares s₀ retireHead := by unfold retireHead; exact of_spares_rules

theorem spares_executeHead (perform : Entry → M Unit) (hperform : ∀ x, Spares s₀ (perform x)) :
    Spares s₀ (executeHead perform) := by
  unfold executeHead markBegun; exact of_spares_rules

theorem spares_eltwise (d a : BitVec 7) (b : VSrc) (m : BitVec 1) (readsD : Bool) (f : VConf → Nat → Nat → Nat → M Nat)
    (e : Entry) (hf : ∀ x y z u, Spares s₀ (f x y z u)) : Spares s₀ (eltwise d a b m readsD f e) := by
  unfold eltwise; exact of_spares_rules

@[simp] theorem spares_intwise (d a : BitVec 7) (b : VSrc) (m : BitVec 1) (f : Nat → Nat → Nat → Int) (e : Entry) :
    Spares s₀ (intwise d a b m f e) := spares_eltwise _ _ _ _ _ _ _ fun _ _ _ _ => spares_pure _

@[simp] theorem spares_fpwise (d a : BitVec 7) (b : VSrc) (m : BitVec 1) (f : Nat → Ex → Ex → Ex × Flags) (e : Entry) :
    Spares s₀ (fpwise d a b m f e) := spares_eltwise _ _ _ _ _ _ _ fun _ _ _ _ => of_spares_rules

theorem spares_unwise (d a : BitVec 7) (m : BitVec 1) (f : VConf → Nat → M Nat) (e : Entry) (hf : ∀ x y, Spares s₀ (f x y)) :
    Spares s₀ (unwise d a m f e) := by
  unfold unwise; exact of_spares_rules

@[simp] theorem spares_fpUnary (d a : BitVec 7) (m : BitVec 1) (f : Ex → Ex × Flags) (e : Entry) :
    Spares s₀ (fpUnary d a m f e) := spares_unwise _ _ _ _ _ fun _ _ => of_spares_rules

@[simp] theorem spares_fmawise (d a : BitVec 7) (b : VSrc) (m : BitVec 1) (negP negB : Bool) (e : Entry) :
    Spares s₀ (fmawise d a b m negP negB e) := spares_eltwise _ _ _ _ _ _ _ fun _ _ _ _ => of_spares_rules

@[simp] theorem spares_compare (d a : BitVec 7) (b : VSrc) (m : BitVec 1) (f : VConf → Nat → Nat → Bool × Flags) (e : Entry) :
    Spares s₀ (compare d a b m f e) := by
  unfold compare; exact of_spares_rules

@[simp] theorem spares_performVfsgn (d a : BitVec 7) (b : VSrc) (m : BitVec 1) (e : Entry) :
    Spares s₀ (performVfsgn d a b m e) := by
  unfold performVfsgn; exact of_spares_rules

@[simp] theorem spares_readElem (p : Space) (a : Word) (high : Bool) (w : Nat) : Spares s₀ (readElem p a high w) := by
  unfold readElem; exact of_spares_rules

@[simp] theorem spares_writeElem (p : Space) (a : Word) (high : Bool) (w x : Nat) : Spares s₀ (writeElem p a high w x) := by
  unfold writeElem; exact of_spares_rules

@[simp] theorem spares_loadTile (d : BitVec 7) (m : BitVec 1) (p : Space) (md : Addressing) (e : Entry) :
    Spares s₀ (loadTile d m p md e) := by
  unfold loadTile; exact of_spares_rules

@[simp] theorem spares_storeTile (d : BitVec 7) (m : BitVec 1) (p : Space) (md : Addressing) (e : Entry) :
    Spares s₀ (storeTile d m p md e) := by
  unfold storeTile; exact of_spares_rules

@[simp] theorem spares_recordFault (bad : Option Nat) : Spares s₀ (recordFault bad) := by
  unfold recordFault; exact of_spares_rules

@[simp] theorem spares_checkRecord (type : Option Nat) (r : List (BitVec 32)) : Spares s₀ (checkRecord type r) := by
  unfold checkRecord; exact of_spares_rules

@[simp] theorem spares_performVldt (d a : BitVec 7) (m : BitVec 1) (e : Entry) : Spares s₀ (performVldt d a m e) := by
  unfold performVldt; exact of_spares_rules

@[simp] theorem spares_performVstt (d a : BitVec 7) (m : BitVec 1) (e : Entry) : Spares s₀ (performVstt d a m e) := by
  unfold performVstt; exact of_spares_rules

@[simp] theorem spares_moveTile (c : VConf) (d : BitVec 7) (m : BitVec 1) (srcs : List (BitVec 7))
    (f : VecRegs → BitVec 1024 → Nat → Option Nat) : Spares s₀ (moveTile c d m srcs f) := by
  unfold moveTile; exact of_spares_rules

@[simp] theorem spares_performVmv (d a : BitVec 7) (m : BitVec 1) (e : Entry) : Spares s₀ (performVmv d a m e) := by
  unfold performVmv; exact of_spares_rules

@[simp] theorem spares_performVsel (d a b : BitVec 7) (e : Entry) : Spares s₀ (performVsel d a b e) := by
  unfold performVsel; exact of_spares_rules

@[simp] theorem spares_performViota (d : BitVec 7) (e : Entry) : Spares s₀ (performViota d e) := by
  unfold performViota; exact of_spares_rules

@[simp] theorem spares_performVslideup (d a : BitVec 7) (m : BitVec 1) (e : Entry) : Spares s₀ (performVslideup d a m e) := by
  unfold performVslideup; exact of_spares_rules

@[simp] theorem spares_performVslidedn (d a : BitVec 7) (m : BitVec 1) (e : Entry) : Spares s₀ (performVslidedn d a m e) := by
  unfold performVslidedn; exact of_spares_rules

@[simp] theorem spares_performVrev (d a : BitVec 7) (m : BitVec 1) (e : Entry) : Spares s₀ (performVrev d a m e) := by
  unfold performVrev; exact of_spares_rules

@[simp] theorem spares_performVcompress (d a : BitVec 7) (e : Entry) : Spares s₀ (performVcompress d a e) := by
  unfold performVcompress; exact of_spares_rules

@[simp] theorem spares_performVexpand (d a : BitVec 7) (e : Entry) : Spares s₀ (performVexpand d a e) := by
  unfold performVexpand; exact of_spares_rules

@[simp] theorem spares_performVtos (a : BitVec 7) (e : Entry) : Spares s₀ (performVtos a e) := by
  unfold performVtos; exact of_spares_rules

@[simp] theorem spares_performStov (d : BitVec 7) (m : BitVec 1) (e : Entry) : Spares s₀ (performStov d m e) := by
  unfold performStov pselPred; exact of_spares_rules

@[simp] theorem spares_performVperm (d a b : BitVec 7) (m : BitVec 1) (e : Entry) : Spares s₀ (performVperm d a b m e) := by
  unfold performVperm; exact of_spares_rules

@[simp] theorem spares_performVzip (d a b : BitVec 7) (e : Entry) : Spares s₀ (performVzip d a b e) := by
  unfold performVzip zipTile; exact of_spares_rules

@[simp] theorem spares_performVunzip (d a : BitVec 7) (e : Entry) : Spares s₀ (performVunzip d a e) := by
  unfold performVunzip unzipTile; exact of_spares_rules

@[simp] theorem spares_performVqrecv (d a : BitVec 7) (e : Entry) : Spares s₀ (performVqrecv d a e) := by
  unfold performVqrecv; exact of_spares_rules

end Sys2Proof.Machine
end

section
/-! The four registers: ordered operations, streams, the copy engine and atomics. -/

namespace Sys2Proof.Machine

set_option Elab.async false
variable {α β : Type} {s₀ s t : State}

@[simp] theorem spares_setOrder (row : Nat) (w : BitVec 32) : Spares s₀ (setOrder row w) := by
  unfold setOrder; exact of_spares_rules

@[simp] theorem spares_checkSpan (c : VConf) (n : BitVec 7) (first count : Nat) : Spares s₀ (checkSpan c n first count) := by
  unfold checkSpan; exact of_spares_rules

@[simp] theorem spares_checkRun (c : VConf) (n : BitVec 7) (rows : Nat) (pay : Bool) : Spares s₀ (checkRun c n rows pay) := by
  unfold checkRun; exact of_spares_rules

@[simp] theorem spares_needSorted (c : VConf) (n : BitVec 7) (rows opnd : Nat) : Spares s₀ (needSorted c n rows opnd) := by
  unfold needSorted; exact of_spares_rules

@[simp] theorem spares_readRun (c : VConf) (n : BitVec 7) (rows : Nat) : Spares s₀ (readRun c n rows) := by
  unfold readRun; exact of_spares_rules

@[simp] theorem spares_needKt (c : VConf) (r : Run) (opnd : Nat) : Spares s₀ (needKt c r opnd) := by
  unfold needKt; exact of_spares_rules

@[simp] theorem spares_setRun (c : VConf) (n off rows pay : Nat) (keys pays : List Nat) (desc : Bool) (pk : Nat) :
    Spares s₀ (setRun c n off rows pay keys pays desc pk) := by
  unfold setRun; exact of_spares_rules

theorem spares_ordEntry (e : Entry) (m : BitVec 1) (body : VConf → M Unit) (hbody : ∀ x, Spares s₀ (body x)) :
    Spares s₀ (ordEntry e m body) := by
  unfold ordEntry; exact of_spares_rules

@[simp] theorem spares_twoRuns (c : VConf) (d a b : BitVec 7) (rows : Nat) : Spares s₀ (twoRuns c d a b rows) := by
  unfold twoRuns; exact of_spares_rules

theorem spares_intoRun (c : VConf) (d : BitVec 7) (tiles pk : Nat) (srcs : List (BitVec 7)) (body : M Unit)
    (hbody : Spares s₀ body) : Spares s₀ (intoRun c d tiles pk srcs body) := by
  unfold intoRun; exact of_spares_rules

@[simp] theorem spares_matchRuns (d a b : BitVec 7) (keep : Nat → Nat → Bool) (c : VConf) :
    Spares s₀ (matchRuns d a b keep c) := by
  unfold matchRuns; exact of_spares_rules

@[simp] theorem spares_uniqueRun (d a : BitVec 7) (counted : Bool) (c : VConf) : Spares s₀ (uniqueRun d a counted c) := by
  unfold uniqueRun; exact of_spares_rules

@[simp] theorem spares_rankTile (d a b : BitVec 7) (m : BitVec 1) (counts : Nat → Nat → Nat → Bool) (c : VConf) :
    Spares s₀ (rankTile d a b m counts c) := by
  unfold rankTile; exact of_spares_rules

@[simp] theorem spares_streamHead (slot : Nat) (st : Stream) (k : Nat) : Spares s₀ (streamHead slot st k) := by
  unfold streamHead; exact of_spares_rules

@[simp] theorem spares_checkHead (st : Stream) (k : Nat) (desc : Bool) (last : Option (BitVec 32)) (opnd kt : Nat)
    (i : Option Nat) : Spares s₀ (checkHead st k desc last opnd kt i) := by
  unfold checkHead; exact of_spares_rules

@[simp] theorem spares_mergeHeads (sa sb : Nat × Stream) (desc : Bool) (kt n j k : Nat) (l m : Option (BitVec 32)) :
    Spares s₀ (mergeHeads sa sb desc kt n j k l m) := by
  induction n generalizing j k l m with
  | zero => exact spares_pure _
  | succ n ih => unfold mergeHeads; exact of_spares_rules

@[simp] theorem spares_performVsort (d a : BitVec 7) (p : BitVec 2) (w y m : BitVec 1)
    (e : Entry) : Spares s₀ (performVsort d a p w y m e) := by
  unfold performVsort sortTile; exact of_spares_rules

@[simp] theorem spares_performVmerge (d a b : BitVec 7) (e : Entry) : Spares s₀ (performVmerge d a b e) := by
  unfold performVmerge; exact of_spares_rules

@[simp] theorem spares_performVmerges (d a b : BitVec 7) (e : Entry) : Spares s₀ (performVmerges d a b e) := by
  unfold performVmerges mergeStreams needBinding; exact of_spares_rules

@[simp] theorem spares_performVinter (d a b : BitVec 7) (e : Entry) : Spares s₀ (performVinter d a b e) := by
  unfold performVinter; exact of_spares_rules

@[simp] theorem spares_performVuniq (d a : BitVec 7) (e : Entry) : Spares s₀ (performVuniq d a e) := by
  unfold performVuniq; exact of_spares_rules

@[simp] theorem spares_performVrank (d a b : BitVec 7) (m : BitVec 1) (e : Entry) : Spares s₀ (performVrank d a b m e) := by
  unfold performVrank; exact of_spares_rules

@[simp] theorem spares_performVranku (d a b : BitVec 7) (m : BitVec 1) (e : Entry) : Spares s₀ (performVranku d a b m e) := by
  unfold performVranku; exact of_spares_rules

@[simp] theorem spares_performVpart (d a b : BitVec 7) (m : BitVec 1) (e : Entry) : Spares s₀ (performVpart d a b m e) := by
  unfold performVpart partTile; exact of_spares_rules

@[simp] theorem spares_performVchko (a : BitVec 7) (p : BitVec 2) (y : BitVec 1) (e : Entry) :
    Spares s₀ (performVchko a p y e) := by
  unfold performVchko; exact of_spares_rules

@[simp] theorem spares_performVtopk (d a : BitVec 7) (m : BitVec 1) (e : Entry) : Spares s₀ (performVtopk d a m e) := by
  unfold performVtopk; exact of_spares_rules

@[simp] theorem spares_performVdiff (d a b : BitVec 7) (e : Entry) : Spares s₀ (performVdiff d a b e) := by
  unfold performVdiff; exact of_spares_rules

@[simp] theorem spares_performVuniqc (d a : BitVec 7) (e : Entry) : Spares s₀ (performVuniqc d a e) := by
  unfold performVuniqc; exact of_spares_rules

@[simp] theorem spares_performVmot (a : BitVec 7) (e : Entry) : Spares s₀ (performVmot a e) := by
  unfold performVmot; exact of_spares_rules

@[simp] theorem spares_performVmto (a : BitVec 7) (e : Entry) : Spares s₀ (performVmto a e) := by
  unfold performVmto; exact of_spares_rules

@[simp] theorem spares_boundRow (c : VConf) (a : BitVec 7) : Spares s₀ (boundRow c a) := by unfold boundRow; exact of_spares_rules

@[simp] theorem spares_flushStream (slot : Nat) (st : Stream) : Spares s₀ (flushStream slot st) := by
  unfold flushStream; exact of_spares_rules

@[simp] theorem spares_bindRow (c : VConf) (d a : BitVec 7) (outp : Bool) : Spares s₀ (bindRow c d a outp) := by
  unfold bindRow; exact of_spares_rules

@[simp] theorem spares_unbindAll : Spares s₀ unbindAll := by unfold unbindAll; exact of_spares_rules

@[simp] theorem spares_performSunbind (a : BitVec 7) (e : Entry) : Spares s₀ (performSunbind a e) := by
  unfold performSunbind; exact of_spares_rules

@[simp] theorem spares_performSstat (a : BitVec 7) (e : Entry) : Spares s₀ (performSstat a e) := by
  unfold performSstat; exact of_spares_rules

@[simp] theorem spares_performSadv (a : BitVec 7) (e : Entry) : Spares s₀ (performSadv a e) := by
  unfold performSadv; exact of_spares_rules

@[simp] theorem spares_performSflush (a : BitVec 7) (e : Entry) : Spares s₀ (performSflush a e) := by
  unfold performSflush; exact of_spares_rules

theorem spared_ringMark (c off i : Nat) (b : Bool) (h : s₀.Spared s) : s₀.Spared (ringMark c off i b s) :=
  spared_putSp h ..

theorem spared_ringPost (c off : Nat) (bytes : List Byte) (h : s₀.Spared s) :
    s₀.Spared (ringPost c off bytes s).2 := by
  unfold ringPost
  split
  · exact h
  · split
    · exact h
    · exact spared_putSp (spared_ringMark _ _ _ _ (spared_putSp h ..)) ..

@[simp] theorem spares_postRecord (core : Nat) (ring : Word) (bytes : List Byte) : Spares s₀ (postRecord core ring bytes) := by
  unfold postRecord
  refine spares_get_bind fun s hs => ?_
  have hpost := spared_ringPost (ringPlace core ring).1 (ringPlace core ring).2 bytes hs
  rcases hr : ringPost (ringPlace core ring).1 (ringPlace core ring).2 bytes s with ⟨r, t⟩
  rw [hr] at hpost
  dsimp only at hpost ⊢
  rw [hr]
  exact of_spares_rules

@[simp] theorem spares_ringWaits (core : Nat) (ring : Word) (n : Nat) (locks : List Interlock) (hart : Nat) :
    Spares s₀ (ringWaits core ring n locks hart) := by
  unfold ringWaits; exact of_spares_rules

@[simp] theorem spares_ringAccess (c off n : Nat) (write : Bool) (a : Word) : Spares s₀ (ringAccess c off n write a) := by
  unfold ringAccess; exact of_spares_rules

@[simp] theorem spares_needRing (a : Word) (field : BitVec 7) : Spares s₀ (needRing a field) := by
  unfold needRing; exact of_spares_rules

@[simp] theorem spares_needCompletion (pair : Word × Word) (field : BitVec 7) (noStart : Bool) :
    Spares s₀ (needCompletion pair field noStart) := by
  unfold needCompletion; exact of_spares_rules

@[simp] theorem spares_needCompletionRing (b : BitVec 7) (k : Completion) : Spares s₀ (needCompletionRing b k) := by
  unfold needCompletionRing; exact of_spares_rules

@[simp] theorem spares_issue (src dst : List (BitVec 32)) (patches : Option (List (BitVec 32))) (k : Completion) (start : Nat)
    (e : Entry) : Spares s₀ (issue src dst patches k start e) := by
  unfold issue; exact of_spares_rules

@[simp] theorem spares_putChannel (core ch : Nat) (x : Channel) : Spares s₀ (putChannel core ch x) := by
  unfold putChannel; exact of_spares_rules

@[simp] theorem spares_unlockChannel (core ch : Nat) : Spares s₀ (unlockChannel core ch) := by
  unfold unlockChannel; exact of_spares_rules

@[simp] theorem spares_channelNum (x : Word) (a : BitVec 7) : Spares s₀ (channelNum x a) := by
  unfold channelNum; exact of_spares_rules

@[simp] theorem spares_performCopy (d a b : BitVec 7) (e : Entry) : Spares s₀ (performCopy d a b e) := by
  unfold performCopy; exact of_spares_rules

@[simp] theorem spares_performCopyg (d a b : BitVec 7) (e : Entry) : Spares s₀ (performCopyg d a b e) := by
  unfold performCopyg checkPatches rowWords; exact of_spares_rules

@[simp] theorem spares_faultedChannel (x : Word) (a : BitVec 7) : Spares s₀ (faultedChannel x a) := by
  unfold faultedChannel; exact of_spares_rules

@[simp] theorem spares_performCresume (a : BitVec 7) (e : Entry) : Spares s₀ (performCresume a e) := by
  unfold performCresume; exact of_spares_rules

@[simp] theorem spares_performCresumeAbort (a : BitVec 7) (e : Entry) : Spares s₀ (performCresumeAbort a e) := by
  unfold performCresumeAbort; exact of_spares_rules

@[simp] theorem spares_performRinit (b : BitVec 7) (e : Entry) : Spares s₀ (performRinit b e) := by
  unfold performRinit ownPool; exact of_spares_rules

@[simp] theorem spares_performRawait (a : BitVec 7) (e : Entry) : Spares s₀ (performRawait a e) := by
  unfold performRawait; exact of_spares_rules

@[simp] theorem spares_performRrel (a : BitVec 7) (e : Entry) : Spares s₀ (performRrel a e) := by
  have hringMark := @spared_ringMark s₀
  unfold performRrel
  exact of_spares_rules

@[simp] theorem spares_performWaita (p : BitVec 1) (c : BitVec 3) (e : Entry) : Spares s₀ (performWaita p c e) := by
  unfold performWaita; exact of_spares_rules

@[simp] theorem spares_performCstat (a : BitVec 7) (e : Entry) : Spares s₀ (performCstat a e) := by
  unfold performCstat; exact of_spares_rules

theorem spares_releaseIf (r : BitVec 1) (new : M (Option Nat)) (hnew : Spares s₀ (new)) : Spares s₀ (releaseIf r new) := by
  unfold releaseIf; exact of_spares_rules

theorem spares_atomicStep (sp : Bool) (z : Nat) (r : BitVec 1) (a : Word) (before : M Unit) (new : Nat → M (Option Nat))
    (hbefore : Spares s₀ (before)) (hnew : ∀ x, Spares s₀ (new x)) : Spares s₀ (atomicStep sp z r a before new) := by
  unfold atomicStep; exact of_spares_rules

theorem spares_atomic (sp : Bool) (w r q : BitVec 1) (signed : Bool) (e : Entry) (new : Nat → Nat → M (Option Nat))
    (hnew : ∀ x y, Spares s₀ (new x y)) : Spares s₀ (atomic sp w r q signed e new) := by
  unfold atomic deliverOld; exact of_spares_rules

@[simp] theorem spares_atomAdd (e : Entry) (z old : Nat) : Spares s₀ (atomAdd e z old) := by unfold atomAdd; exact of_spares_rules
@[simp] theorem spares_atomMin (e : Entry) (z old : Nat) : Spares s₀ (atomMin e z old) := by unfold atomMin; exact of_spares_rules
@[simp] theorem spares_atomMax (e : Entry) (z old : Nat) : Spares s₀ (atomMax e z old) := by unfold atomMax; exact of_spares_rules

@[simp] theorem spares_atomXchg (e : Entry) (z _old : Nat) : Spares s₀ (atomXchg e z _old) := by
  unfold atomXchg; exact of_spares_rules

@[simp] theorem spares_atomAnd (e : Entry) (_z old : Nat) : Spares s₀ (atomAnd e _z old) := by
  unfold atomAnd; exact of_spares_rules

@[simp] theorem spares_atomOr (e : Entry) (z old : Nat) : Spares s₀ (atomOr e z old) := by unfold atomOr; exact of_spares_rules
@[simp] theorem spares_atomCas (e : Entry) (z old : Nat) : Spares s₀ (atomCas e z old) := by unfold atomCas; exact of_spares_rules

@[simp] theorem spares_atomFadd (e : Entry) (_z old : Nat) : Spares s₀ (atomFadd e _z old) := by
  unfold atomFadd; exact of_spares_rules

end Sys2Proof.Machine
end

section
/-! The four registers: conversion, the matrix unit, predicates, attention, control, keyed banks and the quad's units. -/

namespace Sys2Proof.Machine

set_option Elab.async false
variable {α β : Type} {s₀ s t : State}

@[simp] theorem spares_convertElem (c : VConf) (t : Nat) (sat : Bool) (x : Nat) : Spares s₀ (convertElem c t sat x) := by
  unfold convertElem; exact of_spares_rules

theorem spares_convertTile (d a : BitVec 7) (m : BitVec 1) (w : Nat) (f : VConf → Nat → M Nat) (e : Entry)
    (hf : ∀ x y, Spares s₀ (f x y)) : Spares s₀ (convertTile d a m w f e) := by
  unfold convertTile; exact of_spares_rules

@[simp] theorem spares_blockVl (c : VConf) : Spares s₀ (blockVl c) := by unfold blockVl; exact of_spares_rules

@[simp] theorem spares_blockScale (c : VConf) (xs : List Nat) : Spares s₀ (blockScale c xs) := by
  unfold blockScale; exact of_spares_rules

@[simp] theorem spares_writeScales (c : VConf) (x : BitVec 7) (v : VecRegs) (a : BitVec 7) (act : Nat → Bool) :
    Spares s₀ (writeScales c x v a act) := by
  unfold writeScales; exact of_spares_rules

@[simp] theorem spares_quantElem (c : VConf) (xs : List Nat) (x : Nat) : Spares s₀ (quantElem c xs x) := by
  unfold quantElem; exact of_spares_rules

@[simp] theorem spares_performVsmxe (d a : BitVec 7) (m : BitVec 1) (e : Entry) : Spares s₀ (performVsmxe d a m e) := by
  unfold performVsmxe; exact of_spares_rules

@[simp] theorem spares_performVquant (d a b : BitVec 7) (m : BitVec 1) (e : Entry) : Spares s₀ (performVquant d a b m e) := by
  unfold performVquant; exact of_spares_rules

@[simp] theorem spares_performVdeq (d a b : BitVec 7) (m : BitVec 1) (e : Entry) : Spares s₀ (performVdeq d a b m e) := by
  unfold performVdeq; exact of_spares_rules

@[simp] theorem spares_performVtox (d a : BitVec 7) (e : Entry) : Spares s₀ (performVtox d a e) := by
  unfold performVtox; exact of_spares_rules

@[simp] theorem spares_performXtov (d a : BitVec 7) (e : Entry) : Spares s₀ (performXtov d a e) := by
  unfold performXtov; exact of_spares_rules

@[simp] theorem spares_putGuard (g : Nat) (b : Bool) : Spares s₀ (putGuard g b) := by unfold putGuard; exact of_spares_rules

@[simp] theorem spares_checkRowName (c : VConf) (n : BitVec 7) : Spares s₀ (checkRowName c n) := by
  unfold checkRowName; exact of_spares_rules

@[simp] theorem spares_needShape : Spares s₀ needShape := by unfold needShape; exact of_spares_rules

theorem spares_guarded (c : VConf) (names : M Unit) (body : Shape → M Unit) (hnames : Spares s₀ names) (hbody : ∀ x, Spares s₀
    (body x)) : Spares s₀ (guarded c names body) := by
  unfold guarded; exact of_spares_rules

theorem spares_guardedWhole (e : Entry) (names : VConf → M Unit) (body : VConf → Shape → M Unit) (hnames : ∀ x, Spares s₀
    (names x)) (hbody : ∀ x y, Spares s₀ (body x y)) : Spares s₀ (guardedWhole e names body) := by
  unfold guardedWhole; exact of_spares_rules

@[simp] theorem spares_mshape (e : Entry) : Spares s₀ (mshape e) := by unfold mshape; exact of_spares_rules

@[simp] theorem spares_matmul (sh : Shape) (d : Nat) (groups : List (List (Nat × Nat))) (ra : Nat → Nat → Nat → Option
    (Ex × Int)) (rb : Nat → Nat → Option (Ex × Int)) (pad : Nat → Nat → Nat → Nat → Bool) :
    Spares s₀ (matmul sh d groups ra rb pad) := by
  unfold matmul; exact of_spares_rules

@[simp] theorem spares_checkFA (fa : Nat) (sa : Bool) (m : BitVec 1) : Spares s₀ (checkFA fa sa m) := by
  unfold checkFA; exact of_spares_rules

@[simp] theorem spares_checkL (c : VConf) (need : Nat) : Spares s₀ (checkL c need) := by unfold checkL; exact of_spares_rules

theorem spares_withFlat (c : VConf) (os : List (Nat × Opnd)) (body : M Unit) (hbody : Spares s₀ body) :
    Spares s₀ (withFlat c os body) := by
  unfold withFlat; exact of_spares_rules

@[simp] theorem spares_tileLoad (sp : Bool) (d : BitVec 7) (e : Entry) : Spares s₀ (tileLoad sp d e) := by
  unfold tileLoad; exact of_spares_rules

@[simp] theorem spares_tileStore (sp : Bool) (d : BitVec 7) (e : Entry) : Spares s₀ (tileStore sp d e) := by
  unfold tileStore; exact of_spares_rules

@[simp] theorem spares_flatWrite (c : VConf) (d f x : Nat) : Spares s₀ (flatWrite c d f x) := by
  unfold flatWrite; exact of_spares_rules

@[simp] theorem spares_performTmma (t : BitVec 1) (d : BitVec 5) (a b : BitVec 7) (m : BitVec 1) (e : Entry) :
    Spares s₀ (performTmma t d a b m e) := by
  have hguardedWhole := @spares_guardedWhole s₀
  unfold performTmma tmmaTile tmmaRows
  exact of_spares_rules

@[simp] theorem spares_performTmmap (d : BitVec 7) (m : BitVec 1) (e : Entry) : Spares s₀ (performTmmap d m e) := by
  have hguardedWhole := @spares_guardedWhole s₀
  unfold performTmmap tmmapTile poolOpnd poolTable poolElem
  exact of_spares_rules

@[simp] theorem spares_performTzero (d : BitVec 7) (e : Entry) : Spares s₀ (performTzero d e) := by
  have hguardedWhole := @spares_guardedWhole s₀
  unfold performTzero
  exact of_spares_rules

@[simp] theorem spares_performTcvt (d a : BitVec 7) (sf : BitVec 1) (x : BitVec 3) (e : Entry) :
    Spares s₀ (performTcvt d a sf x e) := by
  have hguardedWhole := @spares_guardedWhole s₀
  have hwithFlat := @spares_withFlat s₀
  unfold performTcvt tcvtBlocks tcvtPlain
  exact of_spares_rules

@[simp] theorem spares_performGtest (d a : BitVec 7) (e : Entry) : Spares s₀ (performGtest d a e) := by
  unfold performGtest; exact of_spares_rules

@[simp] theorem spares_performGset (d : BitVec 7) (e : Entry) : Spares s₀ (performGset d e) := by
  unfold performGset; exact of_spares_rules

@[simp] theorem spares_predBinary (d a b : BitVec 7) (f : BitVec 1024 → BitVec 1024 → BitVec 1024) :
    Spares s₀ (predBinary d a b f) := by
  unfold predBinary; exact of_spares_rules

@[simp] theorem spares_predDeliver (a : BitVec 7) (c : VConf) (f : BitVec 1024 → Nat → Word) : Spares s₀ (predDeliver a c f) := by
  unfold predDeliver; exact of_spares_rules

@[simp] theorem spares_performPall (d : BitVec 7) (e : Entry) : Spares s₀ (performPall d e) := by
  unfold performPall; exact of_spares_rules

@[simp] theorem spares_performPsel (d a b : BitVec 7) (e : Entry) : Spares s₀ (performPsel d a b e) := by
  unfold performPsel; exact of_spares_rules

@[simp] theorem spares_performPfromv (d a : BitVec 7) (e : Entry) : Spares s₀ (performPfromv d a e) := by
  unfold performPfromv; exact of_spares_rules

@[simp] theorem spares_performPtov (d a : BitVec 7) (e : Entry) : Spares s₀ (performPtov d a e) := by
  unfold performPtov; exact of_spares_rules

@[simp] theorem spares_performPld (d : BitVec 7) (e : Entry) : Spares s₀ (performPld d e) := by
  unfold performPld; exact of_spares_rules

@[simp] theorem spares_performPst (d : BitVec 7) (e : Entry) : Spares s₀ (performPst d e) := by
  unfold performPst; exact of_spares_rules

@[simp] theorem spares_rneOp (r : Ex × Flags) : Spares s₀ (rneOp r) := by unfold rneOp vrne; exact of_spares_rules

@[simp] theorem spares_performAmask (d : BitVec 7) (e : Entry) : Spares s₀ (performAmask d e) := by
  unfold performAmask; exact of_spares_rules

@[simp] theorem spares_performAsoft (d a : BitVec 7) (e : Entry) : Spares s₀ (performAsoft d a e) := by
  have hguardedWhole := @spares_guardedWhole s₀
  unfold performAsoft asoftTile softRow
  exact of_spares_rules

@[simp] theorem spares_performAscale (d a : BitVec 7) (v : BitVec 1) (e : Entry) :
    Spares s₀ (performAscale d a v e) := by
  have hguardedWhole := @spares_guardedWhole s₀
  unfold performAscale ascaleTile
  exact of_spares_rules

@[simp] theorem spares_binary (d a b : BitVec 7) (f : Word → Word → Word) : Spares s₀ (binary d a b f) := by
  unfold binary; exact of_spares_rules

@[simp] theorem spares_unary (d a : BitVec 7) (f : Word → Word) : Spares s₀ (unary d a f) := by
  unfold unary; exact of_spares_rules

@[simp] theorem spares_pushFrame (f : Frame) : Spares s₀ (pushFrame f) := by unfold pushFrame; exact of_spares_rules
@[simp] theorem spares_pushCall (ret : Word) : Spares s₀ (pushCall ret) := by unfold pushCall; exact of_spares_rules
@[simp] theorem spares_topFrame : Spares s₀ topFrame := by unfold topFrame; exact of_spares_rules
@[simp] theorem spares_popFrame : Spares s₀ popFrame := by unfold popFrame; exact of_spares_rules
@[simp] theorem spares_placeAt (pc na nb : Word) : Spares s₀ (placeAt pc na nb) := by unfold placeAt; exact of_spares_rules
@[simp] theorem spares_callReturn : Spares s₀ callReturn := by unfold callReturn; exact of_spares_rules
@[simp] theorem spares_jumpAddr (a : BitVec 7) : Spares s₀ (jumpAddr a) := by unfold jumpAddr; exact of_spares_rules
@[simp] theorem spares_readGate (n : BitVec 10) : Spares s₀ (readGate n) := by unfold readGate; exact of_spares_rules

@[simp] theorem spares_readSlots (base : Word) (n i : Nat) : Spares s₀ (readSlots base n i) := by
  induction n generalizing i with
  | zero => exact spares_pure _
  | succ n ih => unfold readSlots; exact of_spares_rules

@[simp] theorem spares_checkSlot (ppriv : BitVec 2) (i : Nat) (ws : List Word) : Spares s₀ (checkSlot ppriv i ws) := by
  unfold checkSlot; exact of_spares_rules

@[simp] theorem spares_requeue (ws : List Word) : Spares s₀ (requeue ws) := by unfold requeue; exact of_spares_rules
@[simp] theorem spares_restoreFetch : Spares s₀ restoreFetch := by unfold restoreFetch; exact of_spares_rules

@[simp] theorem spares_setQueue (n : BitVec 7) (xs : List Word) : Spares s₀ (setQueue n xs) := by
  unfold setQueue; exact of_spares_rules

@[simp] theorem spares_keyf {α : Type} (h : BitVec 2) (reason : Nat) : Spares s₀ (keyf h reason : M α) := by
  unfold keyf; exact of_spares_rules

@[simp] theorem spares_putKeyed (h : BitVec 2) (r : Option Keyed) : Spares s₀ (putKeyed h r) := by
  unfold putKeyed; exact of_spares_rules

@[simp] theorem spares_keyedOf (h : BitVec 2) : Spares s₀ (keyedOf h) := by unfold keyedOf; exact of_spares_rules

@[simp] theorem spares_checkKeyed (c : VConf) (h : BitVec 2) (wantSealed : Option Bool) :
    Spares s₀ (checkKeyed c h wantSealed) := by
  unfold checkKeyed; exact of_spares_rules

@[simp] theorem spares_needOwn (off n : Nat) (write : Bool) : Spares s₀ (needOwn off n write) := by
  unfold needOwn; exact of_spares_rules

@[simp] theorem spares_soundSpan (r : Keyed) (off n : Nat) : Spares s₀ (soundSpan r off n) := by
  unfold soundSpan; exact of_spares_rules

@[simp] theorem spares_bucketMeta (r : Keyed) (i : Nat) : Spares s₀ (bucketMeta r i) := by
  unfold bucketMeta; exact of_spares_rules

@[simp] theorem spares_putOwn (off n x : Nat) : Spares s₀ (putOwn off n x) := by unfold putOwn; exact of_spares_rules

@[simp] theorem spares_insertKeyed (h : BitVec 2) (r : Keyed) (k v : Nat) : Spares s₀ (insertKeyed h r k v) := by
  unfold insertKeyed setMeta storeFree; exact of_spares_rules

@[simp] theorem spares_groupOp (op : KeyOp) (h : BitVec 2) (r : Keyed) (value : Nat → Nat) (quiet : Nat → Bool) (k : Nat)
    (js : List Nat) : Spares s₀ (groupOp op h r value quiet k js) := by
  unfold groupOp findKeyed findSlot; exact of_spares_rules

@[simp] theorem spares_groupsOp (op : KeyOp) (h : BitVec 2) (r : Keyed) (value : Nat → Nat) (quiet : Nat → Bool)
    (gs : List (Nat × List Nat)) : Spares s₀ (groupsOp op h r value quiet gs) := by
  induction gs with
  | nil => exact spares_pure _
  | cons g gs ih => unfold groupsOp; exact of_spares_rules

theorem spares_keyWhole (h : BitVec 2) (m : M Unit) (hm : Spares s₀ m) : Spares s₀ (keyWhole h m) := by
  unfold keyWhole; exact of_spares_rules

@[simp] theorem spares_keyedAccess (op : KeyOp) (d a : BitVec 7) (h : BitVec 2) (m : BitVec 1) (e : Entry) :
    Spares s₀ (keyedAccess op d a h m e) := by
  unfold keyedAccess; exact of_spares_rules

@[simp] theorem spares_zeroMeta (r : Keyed) : Spares s₀ (zeroMeta r) := by unfold zeroMeta; exact of_spares_rules

@[simp] theorem spares_performKclaim (h : BitVec 2) (e : Entry) : Spares s₀ (performKclaim h e) := by
  unfold performKclaim; exact of_spares_rules

@[simp] theorem spares_performKfree (h : BitVec 2) (e : Entry) : Spares s₀ (performKfree h e) := by
  unfold performKfree; exact of_spares_rules

@[simp] theorem spares_performKdrn (d : BitVec 7) (h : BitVec 2) (e : Entry) : Spares s₀ (performKdrn d h e) := by
  unfold performKdrn soundBuckets; exact of_spares_rules

@[simp] theorem spares_performKstat (h : BitVec 2) (e : Entry) : Spares s₀ (performKstat h e) := by
  unfold performKstat; exact of_spares_rules

@[simp] theorem spares_performKseal (h : BitVec 2) (e : Entry) : Spares s₀ (performKseal h e) := by
  unfold performKseal; exact of_spares_rules

@[simp] theorem spares_performKclear (h : BitVec 2) (e : Entry) : Spares s₀ (performKclear h e) := by
  unfold performKclear; exact of_spares_rules

@[simp] theorem spares_needSems (n : BitVec 5) : Spares s₀ (needSems n) := by unfold needSems; exact of_spares_rules
@[simp] theorem spares_putSem (n : BitVec 5) (x : Sem) : Spares s₀ (putSem n x) := by unfold putSem; exact of_spares_rules

theorem spared_putBarrier (sf : BitVec 3) (inst n : Nat) (b : Barrier) (h : s₀.Spared s) :
    s₀.Spared (putBarrier sf inst n b s) := by
  unfold putBarrier; exact of_spares_rules

@[simp] theorem spares_barStrf {α : Type} (sf : BitVec 3) (n : BitVec 4) : Spares s₀ (barStrf sf n : M α) := by
  unfold barStrf; exact of_spares_rules

@[simp] theorem spares_needPod (sf : BitVec 3) (n : BitVec 4) : Spares s₀ (needPod sf n) := by
  unfold needPod; exact of_spares_rules

@[simp] theorem spares_barNumber (sf : BitVec 3) (n : BitVec 4) (e : Entry) : Spares s₀ (barNumber sf n e) := by
  unfold barNumber; exact of_spares_rules

@[simp] theorem spares_arriveAt (sf : BitVec 3) (n : BitVec 4) (count : Nat) : Spares s₀ (arriveAt sf n count) := by
  unfold arriveAt; exact of_spares_rules

@[simp] theorem spares_performSemts (n : BitVec 5) (e : Entry) : Spares s₀ (performSemts n e) := by
  unfold performSemts; exact of_spares_rules

@[simp] theorem spares_performSemtry (n : BitVec 5) (e : Entry) : Spares s₀ (performSemtry n e) := by
  unfold performSemtry; exact of_spares_rules

@[simp] theorem spares_performSemclr (n : BitVec 5) (e : Entry) : Spares s₀ (performSemclr n e) := by
  unfold performSemclr retireOf; exact of_spares_rules

@[simp] theorem spares_performCrd (n : BitVec 5) (e : Entry) : Spares s₀ (performCrd n e) := by
  unfold performCrd; exact of_spares_rules

@[simp] theorem spares_performCwr (r : BitVec 1) (n : BitVec 5) (e : Entry) : Spares s₀ (performCwr r n e) := by
  unfold performCwr; exact of_spares_rules

@[simp] theorem spares_performQatom (d a : BitVec 7) (r _c : BitVec 1) (o : BitVec 3) (m : BitVec 1)
    (e : Entry) : Spares s₀ (performQatom d a r _c o m e) := by
  unfold performQatom qatomCheck; exact of_spares_rules

@[simp] theorem spares_performBarv (a : BitVec 7) (sf : BitVec 3) (n : BitVec 4) (e : Entry) :
    Spares s₀ (performBarv a sf n e) := by
  unfold performBarv; exact of_spares_rules

@[simp] theorem spares_performBarw (sf : BitVec 3) (n : BitVec 4) (e : Entry) : Spares s₀ (performBarw sf n e) := by
  unfold performBarw; exact of_spares_rules

@[simp] theorem spares_performBaraInit (sf : BitVec 3) (n : BitVec 4) (e : Entry) : Spares s₀ (performBaraInit sf n e) := by
  unfold performBaraInit; exact of_spares_rules

end Sys2Proof.Machine
end

section
/-! The four registers: system registers, key-value tables, tasks and stages. -/

namespace Sys2Proof.Machine

set_option Elab.async false
variable {α β : Type} {s₀ s t : State}

/-- The registers of the unprivileged map (R42) are not the four. -/
theorem spares_writeReg {n : Nat} (hn : n < 0x100) (v : Word) : Spares s₀ (writeReg n v) := by
  unfold writeReg illIf
  refine spares_get_bind fun s hs => ?_
  dsimp only
  split
  all_goals try omega
  all_goals exact of_spares_rules

@[simp] theorem spares_checkReg (n : Nat) : Spares s₀ (checkReg n) := by unfold checkReg; exact of_spares_rules

@[simp] theorem spares_wrBytes (v : Word) (bs : List Byte) : Spares s₀ (wrBytes v bs) := by
  induction bs generalizing v with
  | nil => exact spares_pure _
  | cons b bs ih => unfold wrBytes; exact of_spares_rules

theorem spared_popStack {base f : Nat} {t : State} (hr : popStack base s = some (f, t)) (h : s₀.Spared s) :
    s₀.Spared t := by
  unfold popStack at hr
  dsimp only at hr
  split at hr
  · cases hr
  · rw [← (Prod.mk.inj (Option.some.inj hr)).2]
    exact spared_putNat h ..

@[simp] theorem spares_modPageIn (q g : Nat) (f : PageIn → PageIn) : Spares s₀ (modPageIn q g f) := by
  unfold modPageIn; exact of_spares_rules

@[simp] theorem spares_releaseBlock (q g : Nat) : Spares s₀ (releaseBlock q g) := by
  unfold releaseBlock pushStack; exact of_spares_rules

@[simp] theorem spares_rollBack (q base t n i : Nat) : Spares s₀ (rollBack q base t n i) := by
  induction n generalizing i with
  | zero => exact spares_pure _
  | succ n ih => unfold rollBack; exact of_spares_rules

theorem spared_setEntries (h : s₀.Spared s) (l : Level) (xs : List Queued) : s₀.Spared (s.setEntries l xs) := by
  unfold State.setEntries; exact of_spares_rules

theorem spared_writeStore (d n : Nat) {s : State} (h : s₀.Spared s) : s₀.Spared (s.writeStore d n) := by
  induction n generalizing s with
  | zero => exact h
  | succ n ih => exact ih (spared_harts h)

theorem spared_appendAll (h : s₀.Spared s) (l : Level) (xs : List Queued) : s₀.Spared (s.appendAll l xs) := by
  have hset := spared_setEntries h l (s.entries l ++ xs)
  unfold State.appendAll
  split
  · exact spared_writeStore _ _ hset
  · exact hset

theorem spared_append (h : s₀.Spared s) (l : Level) (x : Queued) : s₀.Spared (s.append l x) :=
  spared_appendAll h l [x]

theorem spared_lift (h : s₀.Spared s) (l u : Level) : s₀.Spared (s.lift l u) :=
  spared_appendAll (spared_setEntries h ..) ..

theorem spared_makeRoom (n : Nat) (l : Level) (h : s₀.Spared s) : s₀.Spared (makeRoom n l s) := by
  induction n generalizing l with
  | zero => exact h
  | succ n ih =>
    unfold makeRoom
    split
    · exact h
    · split
      · exact spared_lift (ih _) ..
      · exact h

theorem spared_insertAt {l : Level} {x : Queued} {t : State} (ht : insertAt l x s = some t) (h : s₀.Spared s) :
    s₀.Spared t := by
  have happend := spared_append h l x
  unfold insertAt at ht
  dsimp only at ht
  repeat' split at ht
  all_goals cases ht
  · exact spared_lift (spared_makeRoom _ _ happend) ..
  · exact happend
  · exact happend

theorem spared_requeueAt (l : Level) (x : Queued) (h : s₀.Spared s) : s₀.Spared (requeueAt l x s) := by
  unfold requeueAt
  split
  next ht => exact spared_insertAt ht h
  next => exact spared_append h ..

theorem spared_setEvent (d n : Nat) (v : BitVec 32) (h : s₀.Spared s) : s₀.Spared (setEvent d n v s) := by
  unfold setEvent
  dsimp only
  split
  · exact spared_foldl (fun _ _ h => spared_requeueAt _ _ h) _ (spared_setDie (spared_setDie h ..) ..)
  · exact spared_setDie h ..

theorem spared_insertTask {d : Nat} {core : Option Nat} {x : Queued} {t : State} (ht : insertTask d core x s = some t)
    (h : s₀.Spared s) : s₀.Spared t := by
  unfold insertTask at ht
  repeat' split at ht
  · cases ht; exact spared_setDie h ..
  · cases ht
  · exact spared_insertAt ht h
  · exact spared_insertAt ht h
  · exact spared_insertAt ht h

@[simp] theorem spares_catchUp : Spares s₀ catchUp := by unfold catchUp; exact of_spares_rules

@[simp] theorem spares_recordStatus (n : Nat) (stat : Word) (kind status : Nat) (held : Word) :
    Spares s₀ (recordStatus n stat kind status held) := by
  unfold recordStatus; exact of_spares_rules

@[simp] theorem spares_doneEvent (d : Nat) (t : Descriptor) : Spares s₀ (doneEvent d t) := by
  unfold doneEvent; exact of_spares_rules

@[simp] theorem spares_freeSlots (d : Nat) (id : BitVec 32) : Spares s₀ (freeSlots d id) := by
  unfold freeSlots; exact of_spares_rules

@[simp] theorem spares_retireUnrun (d : Nat) (t : Queued) : Spares s₀ (retireUnrun d t) := by
  unfold retireUnrun; exact of_spares_rules

theorem spared_takeRequest (r : BitVec 16) (d : Nat) (h : s₀.Spared s) : s₀.Spared (takeRequest r d s).2 :=
  spared_setDie (spared_foldl (fun _ _ h => spared_ite _ (spared_setEntries h ..) h) _ h) ..

@[simp] theorem spares_stopRequest (p : Nat) (r : BitVec 16) : Spares s₀ (stopRequest p r) := by
  unfold stopRequest
  refine spares_bind (spares_modPkg ..) fun _ => spares_bind (spares_forN (fun i => ?_) 4) fun _ =>
    spares_bind (spares_modify fun s h => ?_) fun _ => (by unfold rollBackRequest; exact of_spares_rules)
  · refine spares_get_bind fun s hs => spares_bind (spares_set (spared_takeRequest r (4 * p + i) hs)) fun _ => ?_
    exact spares_foldlM (fun _ t => spares_retireUnrun _ t) _ ()
  · exact spared_foldl (fun _ _ h => spared_ite _ (spared_setHartAt h _ _ (by rfl)) h) _ h

@[simp] theorem spares_abandonFaulted : Spares s₀ abandonFaulted := by unfold abandonFaulted; exact of_spares_rules

@[simp] theorem spares_finishTask (kind status : Nat) : Spares s₀ (finishTask kind status) := by
  unfold finishTask releaseDone failRequest setRequest; exact of_spares_rules

@[simp] theorem spares_abortTask (kind status : Nat) : Spares s₀ (abortTask kind status) := by
  unfold abortTask orphanTransfers; exact of_spares_rules

@[simp] theorem spares_exitTask (status : Nat) : Spares s₀ (exitTask status) := by unfold exitTask; exact of_spares_rules
@[simp] theorem spares_settleStreams : Spares s₀ settleStreams := by unfold settleStreams; exact of_spares_rules

@[simp] theorem spares_suspendTask (wait : Option (BitVec 12)) : Spares s₀ (suspendTask wait) := by
  unfold suspendTask saveContext; exact of_spares_rules

@[simp] theorem spares_checkCounter (e : Entry) : Spares s₀ (checkCounter e) := by unfold checkCounter; exact of_spares_rules

@[simp] theorem spares_addEvent (e : Entry) (q : BitVec 1) (up : Bool) : Spares s₀ (addEvent e q up) := by
  unfold addEvent; exact of_spares_rules

@[simp] theorem spares_performTspawn (e : Entry) : Spares s₀ (performTspawn e) := by
  have hinsertTask := @spared_insertTask s₀
  unfold performTspawn spawn
  exact of_spares_rules

@[simp] theorem spares_performTwait (e : Entry) : Spares s₀ (performTwait e) := by unfold performTwait; exact of_spares_rules

@[simp] theorem spares_performTexitAbort (e : Entry) : Spares s₀ (performTexitAbort e) := by
  unfold performTexitAbort; exact of_spares_rules

@[simp] theorem spares_performTyield (e : Entry) : Spares s₀ (performTyield e) := by unfold performTyield; exact of_spares_rules

@[simp] theorem spares_performTstat (n : BitVec 3) (e : Entry) : Spares s₀ (performTstat n e) := by
  unfold performTstat; exact of_spares_rules

@[simp] theorem spares_stageQueue (q : BitVec 5) (push begun : Bool) : Spares s₀ (stageQueue q push begun) := by
  unfold stageQueue; exact of_spares_rules

@[simp] theorem spares_putStageQueue (q : BitVec 5) (x : StageQueue) : Spares s₀ (putStageQueue q x) := by
  unfold putStageQueue; exact of_spares_rules

@[simp] theorem spares_stageBlock : Spares s₀ stageBlock := by unfold stageBlock; exact of_spares_rules

@[simp] theorem spares_performQpush (d : BitVec 7) (eos : BitVec 1) (q : BitVec 5) (e : Entry) :
    Spares s₀ (performQpush d eos q e) := by
  unfold performQpush; exact of_spares_rules

@[simp] theorem spares_performQpop (d : BitVec 7) (q : BitVec 5) (e : Entry) : Spares s₀ (performQpop d q e) := by
  unfold performQpop; exact of_spares_rules

end Sys2Proof.Machine
end

section
/-! The four registers: gathers, page-ins, collectives and sketches. -/

namespace Sys2Proof.Machine

set_option Elab.async false
variable {α β : Type} {s₀ s t : State}

@[simp] theorem spares_gathCheck (c : VConf) (e : Entry) : Spares s₀ (gathCheck c e) := by unfold gathCheck; exact of_spares_rules

@[simp] theorem spares_gathIndices (c : VConf) (e : Entry) (a : BitVec 7) (m : BitVec 1) : Spares s₀ (gathIndices c e a m) := by
  unfold gathIndices; exact of_spares_rules

@[simp] theorem spares_gathDone (xs : List (Nat × Nat)) : Spares s₀ (gathDone xs) := by unfold gathDone; exact of_spares_rules

theorem spares_scatter (d a : BitVec 7) (m : BitVec 1) (e : Entry) (k : Access) (row : VecRegs → List Nat → Nat → M Unit)
    (hrow : ∀ x y z, Spares s₀ (row x y z)) : Spares s₀ (scatter d a m e k row) := by
  unfold scatter scatterCheck; exact of_spares_rules

@[simp] theorem spares_performRgather (d a : BitVec 7) (m : BitVec 1) (e : Entry) : Spares s₀ (performRgather d a m e) := by
  unfold performRgather gatherWaits maskedRecord; exact of_spares_rules

@[simp] theorem spares_performRscat (d a : BitVec 7) (m : BitVec 1) (e : Entry) : Spares s₀ (performRscat d a m e) := by
  unfold performRscat; exact of_spares_rules

@[simp] theorem spares_performRscatadd (d a : BitVec 7) (m : BitVec 1) (e : Entry) : Spares s₀ (performRscatadd d a m e) := by
  unfold performRscatadd; exact of_spares_rules

@[simp] theorem spares_performRgstat (e : Entry) : Spares s₀ (performRgstat e) := by unfold performRgstat; exact of_spares_rules

@[simp] theorem spares_needResolved (v : Word) (e : Nat) : Spares s₀ (needResolved v e) := by
  unfold needResolved needStage2 needOwner; exact of_spares_rules

@[simp] theorem spares_readLocal (v : Word) (k : Access) : Spares s₀ (readLocal v k) := by unfold readLocal; exact of_spares_rules

@[simp] theorem spares_resolve (page : Nat) (ring : Word) (pa e : Nat) : Spares s₀ (resolve page ring pa e) := by
  have hpop := @spared_popStack s₀
  unfold resolve takeFrame
  exact of_spares_rules

@[simp] theorem spares_xlatFrom (c : VConf) (d : BitVec 7) (ring : Word) (look : Nat → Option (Nat × Nat × Nat)) (n i : Nat)
    (p : BitVec 1024) (k : Nat) : Spares s₀ (xlatFrom c d ring look n i p k) := by
  induction n generalizing i p k with
  | zero => exact spares_pure _
  | succ n ih => unfold xlatFrom; exact of_spares_rules

@[simp] theorem spares_trimFrom (roll : Bool) (base : Word) (t n p x y : Nat) : Spares s₀ (trimFrom roll base t n p x y) := by
  induction n generalizing p x y with
  | zero => exact spares_pure _
  | succ n ih => unfold trimFrom; exact of_spares_rules

@[simp] theorem spares_trimTable (roll : Bool) (a : BitVec 7) (e : Entry) : Spares s₀ (trimTable roll a e) := by
  unfold trimTable; exact of_spares_rules

theorem spared_forkEntry (x : Nat × Nat × Nat) (h : s₀.Spared s) : s₀.Spared (forkEntry x s) :=
  spared_ite _ (spared_putNat (spared_putNat (spared_putNat h ..) ..) ..) (spared_putNat h ..)

@[simp] theorem spares_putSlot (d n : Nat) (x : Option Slot) : Spares s₀ (putSlot d n x) := by
  unfold putSlot; exact of_spares_rules

theorem spares_postSlot {post : Nat → Word → List Byte → M Bool} (hpost : ∀ c r bs, Spares s₀ (post c r bs)) (d n : Nat)
    (sl : Slot) : Spares s₀ (postSlot post d n sl) := by
  unfold postSlot; exact of_spares_rules

@[simp] theorem spares_performShlst (d a b : BitVec 7) (m : BitVec 1) (e : Entry) : Spares s₀ (performShlst d a b m e) := by
  unfold performShlst shCheck; exact of_spares_rules

@[simp] theorem spares_performKvxlt (d a b : BitVec 7) (m : BitVec 1) (e : Entry) : Spares s₀ (performKvxlt d a b m e) := by
  unfold performKvxlt; exact of_spares_rules

@[simp] theorem spares_performKvfork (a : BitVec 7) (e : Entry) : Spares s₀ (performKvfork a e) := by
  unfold performKvfork forkCheck; exact of_spares_rules

@[simp] theorem spares_storeElement (v : Word) (w : Nat) (high : Bool) (x pa : Nat) : Spares s₀ (storeElement v w high x pa) := by
  unfold storeElement; exact of_spares_rules

@[simp] theorem spares_performMcst (d : BitVec 7) (m : BitVec 1) (e : Entry) : Spares s₀ (performMcst d m e) := by
  unfold performMcst multicast; exact of_spares_rules

@[simp] theorem spares_performColl (d a : BitVec 7) (e : Entry) : Spares s₀ (performColl d a e) := by
  unfold performColl issueColl; exact of_spares_rules

@[simp] theorem spares_performCwaitc (e : Entry) : Spares s₀ (performCwaitc e) := by unfold performCwaitc; exact of_spares_rules

@[simp] theorem spares_translateSpan (k : Access) (v : Word) (n : Nat) : Spares s₀ (translateSpan k v n) := by
  unfold translateSpan; exact of_spares_rules

@[simp] theorem spares_needAligned8 (v : Word) : Spares s₀ (needAligned8 v) := by unfold needAligned8; exact of_spares_rules

@[simp] theorem spares_skHeader (v : Word) (field : BitVec 7) : Spares s₀ (skHeader v field) := by
  unfold skHeader; exact of_spares_rules

@[simp] theorem spares_readCell (v : Word) (i : Nat) : Spares s₀ (readCell v i) := by unfold readCell; exact of_spares_rules

@[simp] theorem spares_writeCell (v : Word) (i : Nat) (x : Cell) : Spares s₀ (writeCell v i x) := by
  unfold writeCell; exact of_spares_rules

@[simp] theorem spares_readSketch (v : Word) (m : Nat) : Spares s₀ (readSketch v m) := by unfold readSketch; exact of_spares_rules

@[simp] theorem spares_writeCells (v : Word) (cells : List Cell) : Spares s₀ (writeCells v cells) := by
  unfold writeCells; exact of_spares_rules

@[simp] theorem spares_writeSketch (v : Word) (cells : List Cell) : Spares s₀ (writeSketch v cells) := by
  unfold writeSketch; exact of_spares_rules

@[simp] theorem spares_readEntry (v : Word) (k : Nat) : Spares s₀ (readEntry v k) := by unfold readEntry; exact of_spares_rules
@[simp] theorem spares_raisePeel (records m : Nat) : Spares s₀ (raisePeel records m) := by unfold raisePeel; exact of_spares_rules

@[simp] theorem spares_foldClass (x : SkClass) (n k : Nat) (cells : List Cell) : Spares s₀ (foldClass x n k cells) := by
  induction n generalizing k cells with
  | zero => exact spares_pure _
  | succ n ih => unfold foldClass; exact of_spares_rules

@[simp] theorem spares_classSketch (x : SkClass) (m : Nat) : Spares s₀ (classSketch x m) := by
  unfold classSketch; exact of_spares_rules

@[simp] theorem spares_scribble (v : Word) (bytes : Nat) : Spares s₀ (scribble v bytes) := by
  unfold scribble; exact of_spares_rules

@[simp] theorem spares_reconRounds (y : SysRegs) (here there : SkClass) (k n : Nat) (skm : Word) :
    Spares s₀ (reconRounds y here there k n skm) := by
  induction k generalizing n skm with
  | zero => exact spares_pure _
  | succ k ih => unfold reconRounds; exact of_spares_rules

@[simp] theorem spares_findKey (x : SkClass) (key : Word) (n lo hi : Nat) : Spares s₀ (findKey x key n lo hi) := by
  induction n generalizing lo hi with
  | zero => exact spares_pure _
  | succ n ih => unfold findKey; exact of_spares_rules

@[simp] theorem spares_reconcile (st : Bool) (here there : SkClass) (stage : Word) (cap : Nat) :
    Spares s₀ (reconcile st here there stage cap) := by
  unfold reconcile stageRecord; exact of_spares_rules

@[simp] theorem spares_performSkbld (n c : BitVec 1) (a : BitVec 7) (e : Entry) : Spares s₀ (performSkbld n c a e) := by
  unfold performSkbld applyInMemory; exact of_spares_rules

@[simp] theorem spares_performSksub (a b : BitVec 7) (e : Entry) : Spares s₀ (performSksub a b e) := by
  unfold performSksub; exact of_spares_rules

@[simp] theorem spares_performSkpeel (t : BitVec 1) (a : BitVec 7) (e : Entry) : Spares s₀ (performSkpeel t a e) := by
  unfold performSkpeel writeEmitted; exact of_spares_rules

@[simp] theorem spares_performSkrecon (t : BitVec 1) (a : BitVec 7) (e : Entry) : Spares s₀ (performSkrecon t a e) := by
  unfold performSkrecon readClass; exact of_spares_rules

@[simp] theorem spares_performSkstat (a : BitVec 7) (e : Entry) : Spares s₀ (performSkstat a e) := by
  unfold performSkstat; exact of_spares_rules

end Sys2Proof.Machine
end

section
/-! The four registers: the rest of the scalar and vector operations. -/

namespace Sys2Proof.Machine

set_option Elab.async false
variable {α β : Type} {s₀ s t : State}

@[simp] theorem spares_scalarLoad (a : Word) (z : Nat) : Spares s₀ (scalarLoad a z) := by unfold scalarLoad; exact of_spares_rules

@[simp] theorem spares_scalarStore (a : Word) (z x : Nat) : Spares s₀ (scalarStore a z x) := by
  unfold scalarStore controlWrite ringDoorbell cancelRequest queueReplay setRequest; exact of_spares_rules

@[simp] theorem spares_loadOffset (d a : BitVec 7) (o : BitVec 9) (z : Nat) (signed : Bool) :
    Spares s₀ (loadOffset d a o z signed) := by
  unfold loadOffset; exact of_spares_rules

@[simp] theorem spares_loadIndexed (d a b : BitVec 7) (sf : BitVec 1) (z : Nat) (signed : Bool) :
    Spares s₀ (loadIndexed d a b sf z signed) := by
  unfold loadIndexed; exact of_spares_rules

@[simp] theorem spares_storeOffset (d a : BitVec 7) (o : BitVec 9) (z : Nat) : Spares s₀ (storeOffset d a o z) := by
  unfold storeOffset; exact of_spares_rules

@[simp] theorem spares_storeIndexed (d a b : BitVec 7) (sf : BitVec 1) (z : Nat) : Spares s₀ (storeIndexed d a b sf z) := by
  unfold storeIndexed; exact of_spares_rules

@[simp] theorem spares_scalarMode : Spares s₀ scalarMode := by unfold scalarMode; exact of_spares_rules

@[simp] theorem spares_fbinary (d a b : BitVec 7) (f : Nat → Ex → Ex → Ex × Flags) : Spares s₀ (fbinary d a b f) := by
  unfold fbinary; exact of_spares_rules

@[simp] theorem spares_fpick (d a b : BitVec 7) (f : Nat → Nat → Nat × Flags) : Spares s₀ (fpick d a b f) := by
  unfold fpick; exact of_spares_rules

@[simp] theorem spares_funary (d a : BitVec 7) (f : Nat → Word → Word × Flags) : Spares s₀ (funary d a f) := by
  unfold funary; exact of_spares_rules

@[simp] theorem spares_fmadd (d a b : BitVec 7) (negP negC : Bool) : Spares s₀ (fmadd d a b negP negC) := by
  unfold fmadd; exact of_spares_rules

@[simp] theorem spares_reduceRows (d a : BitVec 7) (q m : BitVec 1) (f : VConf → Nat → Nat → Rounded) (e : Entry) :
    Spares s₀ (reduceRows d a q m f e) := by
  unfold reduceRows; exact of_spares_rules

@[simp] theorem spares_putResults (c : VConf) (v : VecRegs) (d a : BitVec 7) (rows : List (List Rounded)) :
    Spares s₀ (putResults c v d a rows) := by
  unfold putResults; exact of_spares_rules

@[simp] theorem spares_scanRows (d a : BitVec 7) (m : BitVec 1) (e : Entry) : Spares s₀ (scanRows d a m e) := by
  unfold scanRows; exact of_spares_rules

@[simp] theorem spares_segmentRows (d a b : BitVec 7) (m : BitVec 1) (f : VConf → Nat → Nat → Rounded) (e : Entry) :
    Spares s₀ (segmentRows d a b m f e) := by
  unfold segmentRows; exact of_spares_rules

@[simp] theorem spares_configure (d a : BitVec 7) (r : BitVec 5) (t : BitVec 4) (e : Entry) :
    Spares s₀ (configure d a r t e) := by
  unfold configure; exact of_spares_rules

@[simp] theorem spares_performVcfg (e : Entry) : Spares s₀ (performVcfg e) := by
  unfold performVcfg stripBoundary; exact of_spares_rules

@[simp] theorem spares_performVrel (e : Entry) : Spares s₀ (performVrel e) := by unfold performVrel; exact of_spares_rules

end Sys2Proof.Machine
end

section
/-! The four registers: what each instruction does (settles O60). -/

namespace Sys2Proof.Machine

set_option Elab.async false
variable {α β : Type} {s₀ s t : State}

theorem spares_performOf {i : Instr} {p : Entry → M Unit} (h : performOf i = some p) (e : Entry) : Spares s₀ (p e) := by
  cases i with
  | vadd | vsub | vrsub | vmul | vmulh | vmin | vmax | vminu | vmaxu | vand | vor | vxor | vsll | vsrl | vsra =>
    cases h; exact spares_intwise ..
  | vadds | vfmin | vfmax | vmadd | vmsub =>
    cases h; exact spares_eltwise _ _ _ _ _ _ _ fun _ _ _ _ => of_spares_rules
  | vfadd | vfsub | vfmul | vfdiv =>
    cases h; exact spares_fpwise ..
  | vfsqrt | vrcp | vrsqrt =>
    cases h; exact spares_fpUnary ..
  | vexp2 | vlog2 =>
    cases h; exact spares_unwise _ _ _ _ _ fun _ _ => of_spares_rules
  | vfma | vfms | vfnma | vfnms =>
    cases h; exact spares_fmawise ..
  | vseq | vsne | vslt | vsge | vsltu | vsgeu | vfeq | vflt | vfle | vfunord =>
    cases h; exact spares_compare ..
  | vredsum | vredmax | vredmin | vfredsum | vfredmax | vfredmin =>
    cases h; exact spares_reduceRows ..
  | vscan | vfscan =>
    cases h; exact spares_scanRows ..
  | vsegsum | vsegmax =>
    cases h; exact spares_segmentRows ..
  | vcvt | vpack | vunpk =>
    cases h; exact spares_convertTile _ _ _ _ _ _ fun _ _ => of_spares_rules
  | vld | vlds | vldx | vldp | vldpx =>
    cases h; exact spares_loadTile ..
  | vst | vsts | vstx | vstp | vstpx =>
    cases h; exact spares_storeTile ..
  | pand | por | pxor | pandn | pnot =>
    cases h; exact spares_predBinary ..
  | pnone =>
    cases h; exact spares_writePred ..
  | ppop | pfirst | pany =>
    cases h; exact spares_predDeliver ..
  | mshape =>
    cases h; exact spares_mshape ..
  | mmode =>
    cases h; exact spares_pure ..
  | tld | tldp =>
    cases h; exact spares_tileLoad ..
  | tst | tstp =>
    cases h; exact spares_tileStore ..
  | sbind =>
    cases h; exact spares_bindRow ..
  | saadd | samin | samax | saxchg | sacas | saand | saor | safadd | gaadd | gamin | gamax | gaxchg | gacas | gaand |
  gaor | gafadd =>
    cases h; exact spares_atomic _ _ _ _ _ _ _ fun _ _ => of_spares_rules
  | kins | kprb | kdel | kacc =>
    cases h; exact spares_keyedAccess ..
  | bara =>
    cases h; exact spares_arriveAt ..
  | texit =>
    cases h; exact spares_exitTask ..
  | evdec | evinc =>
    cases h; exact spares_addEvent ..
  | kvcommit | kvroll =>
    cases h; exact spares_trimTable ..
  | vfsgn | vmv | vsel | viota | vslideup | vslidedn | vrev | vcompress | vexpand | vtos | stov | vperm | vzip | vunzip
  | vsmxe | vquant | vdeq | vtox | xtov | vcfg | vldt | vstt | pall | psel | pfromv | ptov | pld | pst | vsort | vmerge
  | vmerges | vinter | vuniq | vrank | vranku | vpart | vchko | vtopk | vdiff | vuniqc | vmot | vmto | tmma | tmmap |
  tzero | tcvt | gtest | gset | amask | asoft | ascale | sunbind | sstat | sadv | sflush | copy | copyg | cresume |
  cresumeAbort | rinit | rawait | rrel | waita | cstat | kclaim | kfree | kdrn | kstat | kseal | kclear | semts | semtry
  | semclr | crd | cwr | qatom | barv | barw | baraInit | tspawn | twait | texitAbort | tyield | qpush | qpop | vrel |
  tstat | rgather | rscat | rscatadd | rgstat | vqrecv | shlst | kvxlt | kvfork | mcst | coll | cwaitc | skbld | sksub |
  skpeel | skrecon | skstat =>
    cases h; simp
  | _ => cases h

/-- A step leads from states that differ from `s₀` in no hart's four registers to such states. -/
structure SparesStep (s₀ : State) (f : State → Host.Outcome State Fault Refusal) : Prop where
  next {s t : State} (ht : f s = .next t) (h : s₀.Spared s) : s₀.Spared t

theorem sparesStep_runScalar (w : BitVec 32) {m : M Flow} (hm : Spares s₀ m) : SparesStep s₀ (runScalar w m) where
  next ht h := keeps_runScalar (chain_spared s₀) hm.keeps (fun fl => (spares_advance fl).keeps)
    (fun v c x => (spares_trapEntry v c x).keeps) (fun _ h => spared_harts h) ht h

theorem sparesStep_dispatchV (w lit : BitVec 32) {op : VOp} {p : Entry → M Unit} (hcheck : ∀ e, Spares s₀ (op.check e))
    (hat : ∀ e, Spares s₀ (op.atDispatch e)) (hp : ∀ e, Spares s₀ (p e)) : SparesStep s₀ (dispatchV w lit op p) where
  next {s t} ht h := by
    have hentry := spared_exec (spares_dispatchEntry w lit hcheck hat) h
    unfold dispatchV at ht
    rcases hs : (dispatchEntry w lit op).exec s with ⟨stop | e, u⟩
    · rw [hs] at ht hentry
      cases stop with
      | trap c v => cases ht; exact spared_takeTrap false c v hentry
      | trapWord c => cases ht; exact spared_takeTrap false c _ hentry
      | block => cases ht; exact spared_harts h
      | stall => cases ht; exact spared_harts h
    · rw [hs] at ht hentry
      have hadvance := spared_exec (spares_advance .next) hentry
      dsimp only at ht
      split at ht
      · cases ht; exact spared_exec (spares_executeHead p hp) hadvance
      · cases ht; exact hadvance

theorem sparesStep_scalar {i : Instr} {w : BitVec 32} {m : M Flow} (hi : ∀ s, exec i s = runScalar w m s) (hm : Spares s₀ m) :
    SparesStep s₀ (exec i) := (funext hi : exec i = _) ▸ sparesStep_runScalar w hm

theorem sparesStep_execWaiti : SparesStep s₀ execWaiti where
  next {s t} ht h := by
    unfold execWaiti at ht
    split at ht
    · cases ht; exact spared_harts (spared_modHart h (x := { s.hart with fetch := { s.hart.fetch with waiting := true } }) rfl)
    · exact (sparesStep_runScalar _ of_spares_rules).next ht h

theorem exec_checkReg (n : Nat) (s : State) : (checkReg n).exec s =
    if 0x100 ≤ n ∧ s.hart.trap.priv ≠ 2 then (.error (.trapWord .priv), s)
    else if isRegister n then (.ok (), s) else (.error (.trapWord .ill), s) := by
  unfold checkReg
  have gate : (decide (0x100 ≤ n) && s.hart.trap.priv != 2) = true ↔ 0x100 ≤ n ∧ s.hart.trap.priv ≠ 2 := by
    rw [Bool.and_eq_true, decide_eq_true_eq, bne_iff_ne]
  simp only [exec_bind, exec_getHart, exec_ite, exec_trapWord, exec_pure, gate]
  cases isRegister n <;> rfl

theorem runScalar_trapWord {w : BitVec 32} {m : M Flow} {s t : State} {c : Cause} (h : m.exec s = (.error (.trapWord c), t)) :
    runScalar w m s = .next (takeTrap false c (w.zeroExtend 64) t) := by
  unfold runScalar
  rw [h]

theorem execMts_unprivileged {a : BitVec 7} {n : BitVec 12} {s : State} (hp : s.hart.trap.priv ≠ 2) (hn : 0x100 ≤ n.toNat) :
    execMts a n s = .next (takeTrap false .priv ((encMts a n).toWord.zeroExtend 64) s) := by
  unfold execMts
  refine runScalar_trapWord (exec_bind_error ?_)
  rw [exec_checkReg, if_pos ⟨hn, hp⟩]

/-- Below privilege 2 MTS writes no register of the privileged map, which holds the four (R40, R43). -/
theorem spared_execMts {a : BitVec 7} {n : BitVec 12} (hp : s.hart.trap.priv ≠ 2) (ht : execMts a n s = .next t)
    (h : s₀.Spared s) : s₀.Spared t := by
  unfold execMts at ht
  by_cases hn : n.toNat < 0x100
  · have hwrite := fun v => spares_writeReg (s₀ := s₀) hn v
    refine (sparesStep_runScalar _ ?_).next ht h
    unfold checkReg
    exact of_spares_rules
  · cases (execMts_unprivileged hp (by omega)).symm.trans ht
    exact spared_takeTrap false .priv _ h

theorem spared_exec_encoded {i : Instr} (henc : i.isEncoded = true) (hpriv : s.hart.trap.priv ≠ 2) (ht : exec i s = .next t)
    (h : s₀.Spared s) : s₀.Spared t := by
  have hp := @spares_performOf s₀ i
  cases i with
  | mts => exact spared_execMts hpriv ht h
  | waiti => exact sparesStep_execWaiti.next ht h
  | add | sub | and | or | xor | andn | orn | sll | srl | sra | ror | mul | mulh | mulhu | div | divu | rem | remu | min
  | max | minu | maxu | addw | subw | seq | sne | slt | sge | sltu | sgeu | addi | andi | ori | xori | slli | srli |
  srai | rori | clz | ctz | popc | sextb | sexth | sextw | zextb | zexth | zextw | bswap | ldb | ldbu | ldh | ldhu | ldw
  | ldwu | ldd | stb | sth | stw | std | ldxb | ldxbu | ldxh | ldxhu | ldxw | ldxwu | ldxd | stxb | stxh | stxw | stxd |
  fadd | fsub | fmul | fdiv | fsqrt | fmin | fmax | feq | flt | fle | fclass | fcvtsw | fcvtswu | fcvtws | fcvtwus |
  fcvths | fcvtsh | fcvtbs | fcvtsb | fmadd | fmsub | fnmadd | fnmsub | mfs | br | call | jr | callr | ret | gcall
  | trap | eret | gret | halt | fence | win | tlbinv | qsend | qrecv | qstat | li | lf =>
    exact (sparesStep_scalar (fun _ => rfl) of_spares_rules).next ht h
  | jmp =>
    exact (sparesStep_scalar (fun _ => by unfold exec; rfl) of_spares_rules).next ht h
  | streamRefill | streamOutputWrite | copyCompletion | engf | quadMessage | deferredMce | pageInComplete |
  collCompletion | skiverPeerRequest | annulledStep | interrupt | timer | ipset | budget | taskDispatch | preemptTimeout
  | preemption | repartition | remoteTimeout | admitPackage | retentionEntry | retentionExit | hostWindowAccess |
  controlWindowWrite | harnessReplay | cancel | getCapabilities | negotiateAlgorithms | getDigests | getCertificate |
  challenge | getMeasurements | budgetExhausted | cinchSample | remoteAccess | tscSync | throttle | hdoor | hdbell | getVersion |
  hostConfigRequest | queuePull | aging | cinchInterval | cinchMoveComplete | podBarrierMessage | flitReceive | linkReplay |
  linkRetrain | linkDown | packageReset | endReplay | launch | waitev | evadd | kload | graph | notify | linkUp =>
    exact absurd henc Bool.false_ne_true
  | vcfg | vmto | mmode | barv | barw | bara | baraInit | twait | vrel | evdec | evinc =>
    exact (sparesStep_dispatchV _ _ (fun _ => of_spares_rules) (fun _ => of_spares_rules) (hp rfl)).next ht h
  | _ => exact (sparesStep_dispatchV _ _ (fun _ => spares_pure _) (fun _ => spares_pure _) (hp rfl)).next ht h

theorem handlerRegs_eq_iff {t u : TrapRegs} : t.handlerRegs = u.handlerRegs ↔
    t.tvec = u.tvec ∧ t.imask = u.imask ∧ t.gatebase = u.gatebase ∧ t.gatecnt = u.gatecnt := by
  simp only [TrapRegs.handlerRegs, Prod.mk.injEq]

/-- Settles O60: every instruction leads to a state that differs from the one before it in no hart's four registers. -/
theorem tvecImaskGateRegistersKept : Obligations.TvecImaskGateRegistersKept := by
  unfold Obligations.TvecImaskGateRegistersKept
  intro i s t henc hpriv ht
  have h := spared_exec_encoded henc hpriv ht (spared_refl s)
  have hregs := h.regs s.id
  unfold State.hartAt at hregs
  rw [if_pos h.id.symm, if_pos rfl, handlerRegs_eq_iff] at hregs
  obtain ⟨htvec, himask, hbase, hcnt⟩ := hregs
  exact ⟨htvec, himask, hbase, hcnt, h.id⟩

end Sys2Proof.Machine
end

section
/-! Reset and the scalar names (settles O53 and O1). -/

namespace Sys2Proof.Machine

variable (h : Hart) (v : Word)

/-! ## Reset -/

theorem hartAt_reset (n : Nat) : State.reset.hartAt n = Hart.reset := ite_self _

/-- Settles O53: every unit of the machine after reset is its reset value, since nothing is listed. -/
theorem resetState : Obligations.ResetState := by
  refine ⟨⟨fun n => ?_, ?_⟩, rfl, rfl, fun _ hx => absurd hx List.not_mem_nil, rfl, rfl, rfl, rfl⟩
  · rw [hartAt_reset]
    exact ⟨rfl, rfl, rfl, rfl, rfl, rfl, rfl, rfl, fun _ => rfl, fun _ => rfl, fun _ => rfl⟩
  · exact ⟨fun _ => ⟨fun _ => rfl, rfl, fun _ => rfl⟩, fun _ _ => ⟨rfl, rfl, rfl, rfl⟩, fun _ => ⟨rfl, rfl, rfl, rfl⟩,
      fun _ => rfl, rfl, rfl, rfl, rfl⟩

/-! ## The scalar names -/

theorem scalarVal_zero : scalarVal h 0 = 0 := rfl

theorem setScalar_zero : setScalar h 0 v = h := rfl

theorem scalarVal_windowed {n : BitVec 7} (hn : n.toNat < 64) (h0 : n ≠ 0) :
    scalarVal h n = sparseGet 0 h.sregs (h.sys.swb.toNat + n.toNat) := by
  have hne : n.toNat ≠ 0 := fun e => h0 (BitVec.eq_of_toNat_eq e)
  rw [scalarVal, if_pos hn, if_neg hne]

theorem scalarVal_constant {n : BitVec 7} (hn : 64 ≤ n.toNat) :
    scalarVal h n = sparseGet 0 h.kbank (h.sys.kbase.toNat + (n.toNat - 64)) := by
  rw [scalarVal, if_neg (by omega)]

theorem setScalar_windowed {d : BitVec 7} (h0 : d ≠ 0) :
    setScalar h d v = { h with sregs := sparsePut 0 h.sregs (h.sys.swb.toNat + d.toNat) v } := by
  have hne : d.toNat ≠ 0 := fun e => h0 (BitVec.eq_of_toNat_eq e)
  rw [setScalar, if_neg hne]

/-- A write to a scalar name changes the scalar registers only. -/
theorem setScalar_frame (d : BitVec 7) : setScalar h d v = { h with sregs := (setScalar h d v).sregs } := by
  by_cases h0 : d = 0
  · rw [h0, setScalar_zero]
  · rw [setScalar_windowed h v h0]

/-- Of the scalar registers a write changes the named one at most. -/
theorem sparseGet_setScalar_other {d : BitVec 7} {k : Nat} (hk : k ≠ h.sys.swb.toNat + d.toNat) :
    sparseGet 0 (setScalar h d v).sregs k = sparseGet 0 h.sregs k := by
  by_cases h0 : d = 0
  · rw [h0, setScalar_zero]
  · rw [setScalar_windowed h v h0, sparseGet_put_other _ _ _ hk]

theorem scalarVal_setScalar_other {d n : BitVec 7} (hd : n ≠ d) : scalarVal (setScalar h d v) n = scalarVal h n := by
  have hframe := setScalar_frame h v d
  by_cases hn : n.toNat < 64
  · by_cases h0 : n = 0
    · rw [h0, scalarVal_zero, scalarVal_zero]
    · have hother : h.sys.swb.toNat + n.toNat ≠ h.sys.swb.toNat + d.toNat := fun e => hd (BitVec.eq_of_toNat_eq (by omega))
      have hsys : (setScalar h d v).sys = h.sys := by rw [hframe]
      rw [scalarVal_windowed _ hn h0, scalarVal_windowed _ hn h0, hsys, sparseGet_setScalar_other h v hother]
  · rw [scalarVal_constant _ (by omega), hframe, scalarVal_constant _ (by omega)]

/-- Settles O1, clause by clause from the rules above. -/
theorem scalarNames : Obligations.ScalarNames := fun h d _ v hd =>
  ⟨scalarVal_zero h, setScalar_zero h v, scalarVal_windowed h, scalarVal_constant h,
    fun h0 => scalarVal_setScalar_same h d v hd fun e => h0 (BitVec.eq_of_toNat_eq e),
    scalarVal_setScalar_other h v, setScalar_frame h v d, fun _ => sparseGet_setScalar_other h v⟩

end Sys2Proof.Machine
end

section
/-! No step stops the machine (settles O58): scalar instructions, events and vector-side instructions have a next state, and every
other turn is made of theirs. -/

namespace Sys2Proof.Machine

variable {i : Instr} {s : State}

/-- A step that has a next state from every state. -/
def GoesOn (f : State → Host.Outcome State Fault Refusal) : Prop := ∀ s, ∃ t, f s = .next t

/-! ## Instructions and events -/

theorem goesOn_scalar {w : BitVec 32} {m : M Flow} (hi : ∀ s, exec i s = runScalar w m s) : GoesOn (exec i) := fun s =>
  hi s ▸ runScalar_next w m s

theorem goesOn_event {m : State → M Unit} (hi : ∀ s, exec i s = runEvent (m s) s) : GoesOn (exec i) := fun s =>
  hi s ▸ runEvent_next (m s) s

theorem goesOn_vector {w lit : BitVec 32} {op : VOp} {p : Entry → M Unit} (hi : ∀ s, exec i s = dispatchV w lit op p s) :
    GoesOn (exec i) := fun s => hi s ▸ dispatchV_next w lit op p s

/-- WAITI takes effect or is a scalar instruction that traps (R125). -/
theorem goesOn_waiti : GoesOn execWaiti := fun s => by
  unfold execWaiti
  split
  · exact ⟨_, rfl⟩
  · exact runScalar_next ..

theorem goesOn_exec (i : Instr) : GoesOn (exec i) := by
  cases i with
  | waiti => exact goesOn_waiti
  | add | sub | and | or | xor | andn | orn | sll | srl | sra | ror | mul | mulh | mulhu | div | divu | rem | remu | min
  | max | minu | maxu | addw | subw | seq | sne | slt | sge | sltu | sgeu | addi | andi | ori | xori | slli | srli |
  srai | rori | clz | ctz | popc | sextb | sexth | sextw | zextb | zexth | zextw | bswap | ldb | ldbu | ldh | ldhu | ldw
  | ldwu | ldd | stb | sth | stw | std | ldxb | ldxbu | ldxh | ldxhu | ldxw | ldxwu | ldxd | stxb | stxh | stxw | stxd |
  fadd | fsub | fmul | fdiv | fsqrt | fmin | fmax | feq | flt | fle | fclass | fcvtsw | fcvtswu | fcvtws | fcvtwus |
  fcvths | fcvtsh | fcvtbs | fcvtsb | fmadd | fmsub | fnmadd | fnmsub | mfs | mts | br | call | jr | callr | ret | gcall
  | trap | eret | gret | halt | fence | win | tlbinv | qsend | qrecv | qstat | li | lf =>
    exact goesOn_scalar fun _ => rfl
  | jmp => exact goesOn_scalar fun _ => by unfold exec; rfl
  | streamRefill | streamOutputWrite | copyCompletion | engf | quadMessage | deferredMce | pageInComplete |
  collCompletion | skiverPeerRequest | annulledStep | interrupt | timer | ipset | budget | taskDispatch | preemptTimeout
  | preemption | repartition | remoteTimeout | admitPackage | retentionEntry | retentionExit | hostWindowAccess |
  controlWindowWrite | harnessReplay | cancel | getCapabilities | negotiateAlgorithms | getDigests | getCertificate |
  challenge | getMeasurements | queuePull | cinchInterval | cinchMoveComplete | podBarrierMessage | flitReceive |
  linkReplay | linkRetrain | linkDown | packageReset | endReplay | launch | waitev | evadd | kload | graph | notify | linkUp =>
    exact goesOn_event fun _ => rfl
  | aging | budgetExhausted | cinchSample | remoteAccess | tscSync | throttle | hdoor | hdbell | getVersion | hostConfigRequest =>
    exact goesOn_event fun _ => by unfold exec; rfl
  | _ => exact goesOn_vector fun _ => rfl

theorem runInstruction_next (s : State) : ∃ t, runInstruction s = .next t := by
  unfold runInstruction
  split
  · exact goesOn_exec .annulledStep s
  · split
    · split
      · exact goesOn_exec _ _
      · exact ⟨_, rfl⟩
    · exact ⟨_, rfl⟩
    · exact ⟨_, rfl⟩

/-! ## The steps of a hart -/

theorem runStep_next (s : State) : ∃ t, runStep s = .next t := by
  unfold runStep
  dsimp only
  split
  · exact ⟨_, rfl⟩
  · split
    · exact ⟨_, rfl⟩
    · split
      · exact ⟨_, rfl⟩
      · exact runInstruction_next _

theorem goesOn_hartStep : GoesOn hartStep := fun s => by
  unfold hartStep
  split
  case h_5 => exact runStep_next s
  all_goals exact ⟨_, rfl⟩

theorem freeStep_next (s : State) : ∃ t, freeStep s = .next t := by
  unfold freeStep
  dsimp only
  split
  · exact ⟨_, rfl⟩
  · split
    · exact ⟨_, rfl⟩
    · exact goesOn_hartStep _

/-! ## Turns that an agenda gives -/

theorem goesOn_executeOldest : GoesOn fun s => .next (executeOldest.exec s).2 := fun _ => ⟨_, rfl⟩

theorem scalarTurn_next (hide under : Bool) (s : State) : ∃ t, scalarTurn hide under s = .next t := by
  unfold scalarTurn
  split
  · exact goesOn_hartStep _
  · exact ⟨_, rfl⟩

theorem entryTurn_next (hide under : Bool) (s : State) : ∃ t, entryTurn hide under s = .next t := by
  unfold entryTurn
  dsimp only
  split
  · exact goesOn_executeOldest _
  · exact ⟨_, rfl⟩

theorem engineTurn_next (i : Instr) (u : Nat × Nat) (hide under : Bool) (s : State) : ∃ t, engineTurn i u hide under s = .next t := by
  unfold engineTurn
  dsimp only
  split
  · exact goesOn_exec _ _
  · exact ⟨_, rfl⟩

theorem goesOn_relaxedStep (actor : Actor) (hide under : Bool) : GoesOn (relaxedStep actor hide under) := fun s => by
  unfold relaxedStep
  cases actor with
  | scalar =>
    dsimp only
    split
    · exact scalarTurn_next hide under s
    · exact goesOn_hartStep _
  | vector =>
    dsimp only
    split
    · exact entryTurn_next hide under s
    · exact goesOn_executeOldest _
  | engine i =>
    dsimp only
    split
    · split
      · exact engineTurn_next _ _ hide under s
      · exact goesOn_exec _ _
    · exact goesOn_exec _ _

theorem goesOn_foresee (g : Nat) (bytes : List Byte) (as : List Actor) : GoesOn (foresee g bytes as) := fun s => by
  unfold foresee
  dsimp only
  split
  · split
    · exact ⟨_, rfl⟩
    · exact goesOn_hartStep s
  · exact goesOn_hartStep s

/-- A turn of a hart on a die that the part lacks leaves the machine as it is (R1). -/
theorem ite_next {p : Prop} {_ : Decidable p} {o o' : Host.Outcome State Fault Refusal} (h : ∃ t, o = .next t)
    (h' : ∃ t, o' = .next t) : ∃ t, (if p then o else o') = .next t := by
  split <;> assumption

theorem takeTurn_next (t : Turn) (s : State) : ∃ u, takeTurn t s = .next u := by
  have hstay : ∃ t : State, (.next s : Host.Outcome State Fault Refusal) = .next t := ⟨s, rfl⟩
  cases t with
  | hart n => exact ite_next (goesOn_hartStep _) hstay
  | vector n => exact ite_next (goesOn_executeOldest _) hstay
  | relaxed n actor hide under => exact ite_next (goesOn_relaxedStep ..) (ite_next (goesOn_relaxedStep ..) hstay)
  | foresee n g bytes as => exact ite_next (goesOn_foresee ..) hstay
  | reveal vector n => exact ⟨_, rfl⟩
  | cycles n => exact ⟨_, rfl⟩
  | code core addr hit => exact runEvent_next (codeTurn core addr hit) s
  | event i => exact goesOn_exec i _
  | upset cls spot => exact runEvent_next _ s.seen
  | flit p link vc dest kind payload => exact runEvent_next _ s.seen
  | hostRead p off size => exact runEvent_next _ s.seen

/-- Settles O58: a step is a turn of the agenda or a free step, and each of them has a next state. -/
theorem stepAlwaysGoesOn : Obligations.StepAlwaysGoesOn := fun s => by
  unfold step
  split
  · exact takeTurn_next _ _
  · exact freeStep_next s

end Sys2Proof.Machine
end

section
/-! Scalar operands and scalar accesses that trap (settles O9). -/

namespace Sys2Proof.Machine

variable {s : State} {d a b : BitVec 7} {e : Stop}

/-! ## Names -/

theorem exec_checkScalar_ok {n : BitVec 7} (h : scalarOk s.hart n = true) : (checkScalar n).exec s = (.ok (), s) := by
  rw [exec_checkScalar, if_pos h]

theorem exec_readScalar_ok {n : BitVec 7} (h : scalarOk s.hart n = true) :
    (readScalar n).exec s = (.ok (scalarVal s.hart n), s) := by
  rw [exec_readScalar, if_pos h]

theorem exec_checkScalar_bad {n : BitVec 7} (h : scalarOk s.hart n = false) :
    (checkScalar n).exec s = (.error (.trap .winf (n.zeroExtend 64)), s) := by
  rw [exec_checkScalar, if_neg (Bool.eq_false_iff.1 h)]

theorem exec_readScalar_bad {n : BitVec 7} (h : scalarOk s.hart n = false) :
    (readScalar n).exec s = (.error (.trap .winf (n.zeroExtend 64)), s) := by
  rw [exec_readScalar, if_neg (Bool.eq_false_iff.1 h)]

theorem exec_writeScalar_ok {n : BitVec 7} (v : Word) (h : scalarOk s.hart n = true) :
    (writeScalar n v).exec s = (.ok (), { s with hart := setScalar s.hart n v }) := by
  rw [exec_writeScalar, if_pos h]

/-- A scalar other than s0 must lie inside the window and inside the register file (R31). -/
theorem scalarOk_destination_iff (h : Hart) {n : BitVec 7} (hn : n.toNat < 64) (h0 : n ≠ 0) :
    scalarOk h n = true ↔ n.toNat < h.sys.window.toNat ∧ h.sys.swb.toNat + n.toNat ≤ 255 := by
  have hne : n.toNat ≠ 0 := fun e => h0 (BitVec.eq_of_toNat_eq e)
  rw [scalarOk, if_pos hn, beq_false_of_ne hne, Bool.false_or, Bool.and_eq_true, decide_eq_true_iff, decide_eq_true_iff]

/-- A constant must lie inside the bank (R31). -/
theorem scalarOk_constant_iff (h : Hart) {n : BitVec 7} (hn : 64 ≤ n.toNat) :
    scalarOk h n = true ↔ h.sys.kbase.toNat + (n.toNat - 64) ≤ 511 := by
  rw [scalarOk, if_neg (by omega), decide_eq_true_iff]

theorem scalarWindowTrap : Sys2Proof.Claim.ScalarWindowTrap := by
  refine fun d a b s hlt => ⟨fun hd => ?_, fun hd ha => ?_, fun hd ha hb => ?_, scalarOk_destination_iff s.hart hlt,
    scalarOk_constant_iff s.hart⟩
  · exact runScalar_trap (exec_bind_error (exec_checkScalar_bad hd))
  · exact runScalar_trap ((exec_bind_ok (exec_checkScalar_ok hd)).trans (exec_bind_error (exec_readScalar_bad ha)))
  · exact runScalar_trap ((exec_bind_ok (exec_checkScalar_ok hd)).trans
      ((exec_bind_ok (exec_readScalar_ok ha)).trans (exec_bind_error (exec_readScalar_bad hb))))

/-! ## Accesses that stop before they read or write -/

/-- An address that is no multiple of the size stops an access before translation (R100). -/
theorem exec_trapIf_misaligned {v : Word} {z : Nat} (h : v.toNat % z ≠ 0) (s : State) :
    (trapIf (v.toNat % z != 0) .align v).exec s = (.error (.trap .align v), s) := by
  rw [exec_trapIf, if_pos (bne_iff_ne.2 h)]

theorem scalarLoad_misaligned {v : Word} {z : Nat} (h : v.toNat % z ≠ 0) :
    (scalarLoad v z).exec s = (.error (.trap .align v), s) := exec_bind_error (exec_trapIf_misaligned h s)

theorem scalarStore_misaligned {v : Word} {z : Nat} (x : Nat) (h : v.toNat % z ≠ 0) :
    (scalarStore v z x).exec s = (.error (.trap .align v), s) := exec_bind_error (exec_trapIf_misaligned h s)

theorem exec_trapIf_aligned {v : Word} {z : Nat} (h : v.toNat % z = 0) (s : State) :
    (trapIf (v.toNat % z != 0) .align v).exec s = (.ok (), s) :=
  exec_trapIf_false (by rw [h]; rfl) .align v s

theorem scalarLoad_untranslated {v : Word} {z : Nat} (h : v.toNat % z = 0)
    (ht : (translateAt s.hart.trap.priv.toNat .load .scalar v z).exec s = (.error e, s)) :
    (scalarLoad v z).exec s = (.error e, s) := by
  unfold scalarLoad
  rw [exec_bind_ok (exec_trapIf_aligned h s), exec_bind_ok (exec_privNow s), exec_bind_error ht]

theorem scalarStore_untranslated {v : Word} {z x : Nat} (h : v.toNat % z = 0)
    (ht : (translateAt s.hart.trap.priv.toNat .store .scalar v z).exec s = (.error e, s)) :
    (scalarStore v z x).exec s = (.error e, s) := by
  unfold scalarStore
  rw [exec_bind_ok (exec_trapIf_aligned h s), exec_bind_ok (exec_privNow s), exec_bind_error ht]

/-- With translation off no access below privilege 2 has a physical address (R316; the model's reading, log 44). -/
theorem translateAt_off_unprivileged (k : Access) (g : Agent) (v : Word) (z : Nat) (off : s.myDie.ptEn = 0)
    (hp : s.hart.trap.priv ≠ 2) : (translateAt s.hart.trap.priv.toNat k g v z).exec s = (.error (.trap .prot v), s) := by
  have hne : s.hart.trap.priv.toNat ≠ 2 := fun e => hp (BitVec.eq_of_toNat_eq e)
  have off' : (s.die (dieOf s.id)).ptEn = 0 := off
  unfold translateAt
  rw [exec_bind_ok (exec_get s)]
  dsimp only
  rw [if_pos off', if_pos (bne_iff_ne.2 hne), exec_trap]

/-- With translation off an address at or above 2^52 has no physical address (R317). -/
theorem translateAt_off_high (k : Access) (g : Agent) {v : Word} (z : Nat) (off : s.myDie.ptEn = 0)
    (hp : s.hart.trap.priv = 2) (hv : 2 ^ 52 ≤ v.toNat) :
    (translateAt s.hart.trap.priv.toNat k g v z).exec s = (.error (.trap .xlate v), s) := by
  have off' : (s.die (dieOf s.id)).ptEn = 0 := off
  unfold translateAt
  rw [exec_bind_ok (exec_get s), hp]
  dsimp only
  rw [if_pos off', if_neg (by decide), if_pos hv, exec_trap]

/-! ## Loads and stores that stop in their access -/

theorem loadOffset_stops {o : BitVec 9} {z : Nat} {signed : Bool} (hd : scalarOk s.hart d = true)
    (ha : scalarOk s.hart a = true) (h : (scalarLoad (offsetAddr (scalarVal s.hart a) o z) z).exec s = (.error e, s)) :
    (loadOffset d a o z signed).exec s = (.error e, s) := by
  unfold loadOffset
  rw [exec_bind_ok (exec_checkScalar_ok hd), exec_bind_ok (exec_readScalar_ok ha), exec_bind_error h]

theorem loadIndexed_stops {sf : BitVec 1} {z : Nat} {signed : Bool} (hd : scalarOk s.hart d = true)
    (ha : scalarOk s.hart a = true) (hb : scalarOk s.hart b = true)
    (h : (scalarLoad (indexAddr (scalarVal s.hart a) (scalarVal s.hart b) sf z) z).exec s = (.error e, s)) :
    (loadIndexed d a b sf z signed).exec s = (.error e, s) := by
  unfold loadIndexed
  rw [exec_bind_ok (exec_checkScalar_ok hd), exec_bind_ok (exec_readScalar_ok ha), exec_bind_ok (exec_readScalar_ok hb),
    exec_bind_error h]

theorem storeOffset_stops {o : BitVec 9} {z : Nat} (hd : scalarOk s.hart d = true) (ha : scalarOk s.hart a = true)
    (h : ∀ x, (scalarStore (offsetAddr (scalarVal s.hart a) o z) z x).exec s = (.error e, s)) :
    (storeOffset d a o z).exec s = (.error e, s) := by
  unfold storeOffset
  rw [exec_bind_ok (exec_readScalar_ok hd), exec_bind_ok (exec_readScalar_ok ha), exec_bind_error (h _)]

theorem storeIndexed_stops {sf : BitVec 1} {z : Nat} (hd : scalarOk s.hart d = true) (ha : scalarOk s.hart a = true)
    (hb : scalarOk s.hart b = true)
    (h : ∀ x, (scalarStore (indexAddr (scalarVal s.hart a) (scalarVal s.hart b) sf z) z x).exec s = (.error e, s)) :
    (storeIndexed d a b sf z).exec s = (.error e, s) := by
  unfold storeIndexed
  rw [exec_bind_ok (exec_readScalar_ok hd), exec_bind_ok (exec_readScalar_ok ha), exec_bind_ok (exec_readScalar_ok hb),
    exec_bind_error (h _)]

theorem scalarAlignTrap : Sys2Proof.Claim.ScalarAlignTrap := by
  intro d a b o sf s hd ha at' idx traps trapsX
  have load {w : BitVec 32} {z : Nat} {signed : Bool} (h : (at' z).toNat % z ≠ 0) :
      runScalar w (loadOffset d a o z signed) s = .next (takeTrap false .align (at' z) s) :=
    runScalar_trap (loadOffset_stops hd ha (scalarLoad_misaligned h))
  have store {w : BitVec 32} {z : Nat} (h : (at' z).toNat % z ≠ 0) :
      runScalar w (storeOffset d a o z) s = .next (takeTrap false .align (at' z) s) :=
    runScalar_trap (storeOffset_stops hd ha fun x => scalarStore_misaligned x h)
  have loadX {w : BitVec 32} {z : Nat} {signed : Bool} (hb : scalarOk s.hart b = true) (h : (idx z).toNat % z ≠ 0) :
      runScalar w (loadIndexed d a b sf z signed) s = .next (takeTrap false .align (idx z) s) :=
    runScalar_trap (loadIndexed_stops hd ha hb (scalarLoad_misaligned h))
  have storeX {w : BitVec 32} {z : Nat} (hb : scalarOk s.hart b = true) (h : (idx z).toNat % z ≠ 0) :
      runScalar w (storeIndexed d a b sf z) s = .next (takeTrap false .align (idx z) s) :=
    runScalar_trap (storeIndexed_stops hd ha hb fun x => scalarStore_misaligned x h)
  refine ⟨load, load, load, load, load, store, store, store, loadX, loadX, loadX, loadX, loadX, storeX, storeX, storeX,
    fun hal off hp => ⟨?_, ?_⟩, fun hal off hp hhigh => ⟨?_, ?_⟩⟩
  · exact runScalar_trap (loadOffset_stops hd ha (scalarLoad_untranslated hal (translateAt_off_unprivileged _ _ _ _ off hp)))
  · exact runScalar_trap (storeOffset_stops hd ha fun _ =>
      scalarStore_untranslated hal (translateAt_off_unprivileged _ _ _ _ off hp))
  · exact runScalar_trap (loadOffset_stops hd ha (scalarLoad_untranslated hal (translateAt_off_high _ _ _ off hp hhigh)))
  · exact runScalar_trap (storeOffset_stops hd ha fun _ => scalarStore_untranslated hal (translateAt_off_high _ _ _ off hp hhigh))

/-- Settles O9: names outside their windows, and accesses that stop before they read or write. -/
theorem scalarOperandTraps : Obligations.ScalarOperandTraps := ⟨scalarWindowTrap, scalarAlignTrap⟩

end Sys2Proof.Machine
end

section
/-! Which table entry a fetch marks (R320), and the frame of the scalar integer forms (settles O5). -/

namespace Sys2Proof.Machine

variable {α β : Type} {s t : State}

/-! ## The byte that a fetch changes -/

/-- The queued addresses are as they were, and of memory at most the table entry that the walk for an address finds in `s` changed, in
its first byte. -/
structure MarksEntryOf (v : Word) (s t : State) : Prop where
  fetch : t.hart.fetch = s.hart.fetch
  byte : ∀ a, t.byteAt a ≠ s.byteAt a → ∃ e big, walk s (dieOf s.id) v.toNat = .ok (e, a, big)

/-- Memory and the queued addresses are as they were. -/
structure SameMem (s t : State) : Prop where
  mem : t.mem = s.mem
  fetch : t.hart.fetch = s.hart.fetch

theorem chain_sameMem : Chain SameMem :=
  ⟨fun _ => ⟨rfl, rfl⟩, fun _ _ _ h h' => ⟨h'.mem.trans h.mem, h'.fetch.trans h.fetch⟩⟩

theorem SameMem.byteAt (h : SameMem s t) (a : Nat) : t.byteAt a = s.byteAt a := congrArg (sparseGet memDefault · a) h.mem

theorem marksEntryOf_sameMem {v : Word} (h : SameMem s t) : MarksEntryOf v s t := ⟨h.fetch, fun a ha => absurd (h.byteAt a) ha⟩

theorem marksEntryOf_then {v : Word} {u : State} (h : MarksEntryOf v s t) (hu : SameMem t u) : MarksEntryOf v s u :=
  ⟨hu.fetch.trans h.fetch, fun a ha => h.byte a fun e => ha ((hu.byteAt a).trans e)⟩

/-- A sequence of which only the first part changes memory. -/
theorem marksEntryOf_bind {v : Word} {m : M α} {f : α → M β} (hm : MarksEntryOf v s (m.exec s).2)
    (hf : ∀ x, Keeps SameMem (f x)) : MarksEntryOf v s ((m >>= f).exec s).2 := by
  rw [exec_bind]
  rcases hs : m.exec s with ⟨_ | x, t⟩ <;> rw [hs] at hm
  · exact hm
  · exact marksEntryOf_then hm (hf x t)

/-- Setting bit 6 of an entry changes its first byte at most (R318). -/
theorem byteAt_markLeaf6_other {at' a : Nat} (h : (markLeaf at' 6 s).byteAt a ≠ s.byteAt a) : a = at' := by
  by_contra hne
  refine h ?_
  unfold markLeaf
  dsimp only
  split
  · rfl
  next hb =>
    have hb' : bitOf (s.memNat at' 8) 6 = false := by simpa using hb
    have hbytes : s.memNat at' 8 = leNat (s.byteAt at' :: sparseGetList memDefault s.mem (at' + 1) 7) := rfl
    rw [hbytes] at hb'
    have hset := bytes_set6 _ _ hb'
    rw [length_sparseGetList] at hset
    change (s.putBytes _ _).byteAt a = _
    rw [byteAt_putBytes]
    split
    next hin =>
      rw [length_leBytes] at hin
      simp only [hbytes, hset]
      rw [List.getElem_cons, dif_neg (by omega), getElem_sparseGetList, State.byteAt]
      congr 1
      omega
    · rfl

theorem markLeaf_hart (at' bit : Nat) (s : State) : (markLeaf at' bit s).hart = s.hart := by
  unfold markLeaf
  dsimp only
  split <;> rfl

theorem marksEntryOf_walkAndCache (v : Word) :
    MarksEntryOf v s ((walkAndCache (dieOf s.id) v.toNat v).exec s).2 := by
  unfold walkAndCache
  rw [exec_bind_ok (exec_get s)]
  split
  · refine marksEntryOf_sameMem ?_
    dsimp only
    split <;> exact ⟨rfl, rfl⟩
  next e at' big hw =>
    have hmark : MarksEntryOf v s (markLeaf at' 6 s) := by
      refine ⟨congrArg (·.fetch) (markLeaf_hart at' 6 s), fun a ha => ?_⟩
      rw [byteAt_markLeaf6_other ha]
      exact ⟨e, big, hw⟩
    exact marksEntryOf_then hmark ⟨rfl, rfl⟩

theorem sameMem_reach (k : Access) (g : Agent) (mt : Nat) (v : Word) (pa n : Nat) : Keeps SameMem (reach k g mt v pa n) := by
  have hc := chain_sameMem
  unfold reach
  refine keeps_bind hc (keeps_get hc) fun s => ?_
  split
  · split
    · exact keeps_pure hc _
    · exact keeps_bind hc (fun _ => ⟨rfl, rfl⟩) fun _ => keeps_trap hc _ _
  · split
    · exact keeps_trap hc _ _
    · split
      · exact keeps_trap hc _ _
      · exact keeps_pure hc _

theorem marksEntryOf_translate (priv : Nat) (g : Agent) (v : Word) (n : Nat) :
    MarksEntryOf v s ((translateAt priv .fetch g v n).exec s).2 := by
  have hc := chain_sameMem
  have stays : MarksEntryOf v s s := marksEntryOf_sameMem ⟨rfl, rfl⟩
  unfold translateAt
  rw [exec_bind_ok (exec_get s)]
  dsimp only
  split
  · split
    · exact stays
    · split
      · exact stays
      · exact marksEntryOf_sameMem (sameMem_reach _ _ _ _ _ _ s)
  · split
    · exact stays
    · rw [exec_bind, exec_trapIf]
      cases (s.die (dieOf s.id)).fenced.contains 66
      · refine marksEntryOf_bind ?_ fun x => ?_
        · split
          · exact marksEntryOf_sameMem
              (keeps_bind hc (keeps_trapIf hc _ _ _) (fun _ => keeps_pure hc _) s)
          · exact marksEntryOf_bind (marksEntryOf_walkAndCache v) fun _ => keeps_pure hc _
        · simp only [show (Access.fetch == Access.store || Access.fetch == Access.atomic) = false from rfl,
            Bool.false_and, Bool.false_eq_true, if_false]
          split
          · exact keeps_bind hc (keeps_trap hc _ _) fun _ => keeps_bind hc (keeps_pure hc _) fun _ => sameMem_reach _ _ _ _ _ _
          · exact keeps_bind hc (keeps_pure hc _) fun _ => sameMem_reach _ _ _ _ _ _
      · exact stays

theorem marksEntryOf_succ (v : Word) : MarksEntryOf v s ((succ v).exec s).2 := by
  have hc := chain_sameMem
  unfold succ succAt fetchAt checkPoison
  rw [exec_bind_ok (exec_privNow s)]
  refine marksEntryOf_bind (marksEntryOf_bind (marksEntryOf_translate _ _ v 4) fun pa => ?_) fun _ => keeps_pure hc _
  refine keeps_bind hc (keeps_get hc) fun u => ?_
  split
  · exact keeps_pure hc _
  · refine keeps_bind hc (keeps_bind hc (keeps_get hc) fun _ => ?_) fun _ => keeps_bind hc (keeps_get hc) fun _ => keeps_pure hc _
    split
    · exact keeps_trap hc _ _
    · exact keeps_pure hc _

/-! ## Going on -/

/-- Forming NA or NB keeps PC and the annul bits. -/
structure SameStart (s t : State) : Prop where
  pc : t.hart.fetch.pc = s.hart.fetch.pc
  apc : t.hart.fetch.apc = s.hart.fetch.apc
  ana : t.hart.fetch.ana = s.hart.fetch.ana

theorem chain_sameStart : Chain SameStart :=
  ⟨fun _ => ⟨rfl, rfl, rfl⟩, fun _ _ _ h h' => ⟨h'.pc.trans h.pc, h'.apc.trans h.apc, h'.ana.trans h.ana⟩⟩

theorem sameStart_succ (v : Word) : Keeps SameStart (succ v) := fun s => by
  have hfetch := (marksEntryOf_succ (s := s) v).fetch
  exact ⟨congrArg Fetch.pc hfetch, congrArg Fetch.apc hfetch, congrArg Fetch.ana hfetch⟩

theorem sameStart_formQueue : Keeps SameStart formQueue := by
  have hc := chain_sameStart
  unfold formQueue
  refine keeps_bind hc (keeps_getHart hc) fun h => ?_
  have hrest : Keeps SameStart (do
      let f := (← getHart).fetch
      if f.nbf then
        let nb ← succ f.na
        modFetch fun f => { f with nb := nb, nbf := false }) := by
    refine keeps_bind hc (keeps_getHart hc) fun h => ?_
    dsimp only
    split
    · exact keeps_bind hc (sameStart_succ _) fun _ _ => ⟨rfl, rfl, rfl⟩
    · exact keeps_pure hc _
  dsimp only
  split
  · exact keeps_bind hc (sameStart_succ _) fun _ => keeps_bind hc (fun _ => ⟨rfl, rfl, rfl⟩) fun _ => hrest
  · exact hrest

/-- Where NA is formed, forming the queued addresses fetches the word at NA at most (R52). -/
theorem formQueue_formed (hf : s.hart.fetch.naf = false) :
    (formQueue.exec s).2.hart.fetch.na = s.hart.fetch.na ∧
      ∀ a, (formQueue.exec s).2.byteAt a ≠ s.byteAt a → ∃ e big, walk s (dieOf s.id) s.hart.fetch.na.toNat = .ok (e, a, big) := by
  unfold formQueue
  rw [exec_bind_ok (exec_getHart s)]
  simp only [hf, Bool.false_eq_true, if_false]
  rw [exec_bind_ok (exec_getHart s)]
  split
  · have hmarks := marksEntryOf_succ (s := s) s.hart.fetch.na
    rw [exec_bind]
    rcases hs : (succ s.hart.fetch.na).exec s with ⟨_ | nb, t⟩ <;> rw [hs] at hmarks
    all_goals
      have hna : t.hart.fetch.na = s.hart.fetch.na := congrArg Fetch.na hmarks.fetch
      exact ⟨hna, hmarks.byte⟩
  · exact ⟨rfl, fun a ha => absurd rfl ha⟩

/-- The queued addresses play no part in a walk. -/
theorem walk_withFetch (f : Fetch) (d va : Nat) : walk { s with hart := { s.hart with fetch := f } } d va = walk s d va := by
  have h (fuel level table : Nat) : walkFrom { s with hart := { s.hart with fetch := f } } (pkgOfDie d) fuel level table va =
      walkFrom s (pkgOfDie d) fuel level table va := by
    induction fuel generalizing level table with
    | zero => rfl
    | succ n ih => simp only [walkFrom, ih]; rfl
  exact h ..

/-- A byte that going on changes is that of the table entry which the walk for the word at the new NA finds. -/
theorem after_byte (s : State) (fl : Flow) {a : Nat} (ha : (s.after fl).byteAt a ≠ s.byteAt a) :
    ∃ e big, walk s (dieOf s.id) (s.after fl).hart.fetch.na.toNat = .ok (e, a, big) := by
  have formed (f : Fetch) (hf : f.naf = false) {t : State}
      (ht : t = (formQueue.exec { s with hart := { s.hart with fetch := f } }).2) (ha : t.byteAt a ≠ s.byteAt a) :
      ∃ e big, walk s (dieOf s.id) t.hart.fetch.na.toNat = .ok (e, a, big) := by
    subst ht
    obtain ⟨hna, hbyte⟩ := formQueue_formed (s := { s with hart := { s.hart with fetch := f } }) hf
    obtain ⟨e, big, hw⟩ := hbyte a ha
    rw [hna, ← walk_withFetch f]
    exact ⟨e, big, hw⟩
  cases fl with
  | placed => exact absurd rfl ha
  | taken t => exact absurd rfl ha
  | next => exact formed ⟨s.hart.fetch.na, s.hart.fetch.nb, 0, s.hart.fetch.ana, false, true, false, false⟩ rfl rfl ha
  | annul => exact formed ⟨s.hart.fetch.na, s.hart.fetch.nb, 0, true, true, true, false, false⟩ rfl rfl ha

theorem onlyFetched_after (s : State) (fl : Flow) : OnlyFetched s (s.after fl) := by
  obtain ⟨hstate, hanswer, hbytes, hdies, hoff⟩ := after_fetched s fl
  exact ⟨hstate, hanswer, fun a ha => ⟨(hbytes a).resolve_left ha, after_byte s fl ha⟩, hdies, hoff⟩

/-! ## The scalar integer forms -/

section
variable {d a b : BitVec 7} {w : BitVec 32} (hd : scalarOk s.hart d = true) (ha : scalarOk s.hart a = true)
include hd

theorem runScalar_writeScalar (v : Word) :
    runScalar w (do writeScalar d v; pure .next) s = wroteScalar s d v :=
  runScalar_ok (exec_bind_ok (exec_writeScalar_ok v hd))

include ha

theorem runScalar_unary (f : Word → Word) : runScalar w (unary d a f) s = wroteScalar s d (f (scalarVal s.hart a)) := by
  refine runScalar_ok ?_
  unfold unary
  rw [exec_bind_ok (exec_checkScalar_ok hd), exec_bind_ok (exec_readScalar_ok ha), exec_bind_ok (exec_writeScalar_ok _ hd)]
  rfl

theorem runScalar_binary (hb : scalarOk s.hart b = true) (f : Word → Word → Word) :
    runScalar w (binary d a b f) s = wroteScalar s d (f (scalarVal s.hart a) (scalarVal s.hart b)) := by
  refine runScalar_ok ?_
  unfold binary
  rw [exec_bind_ok (exec_checkScalar_ok hd), exec_bind_ok (exec_readScalar_ok ha), exec_bind_ok (exec_readScalar_ok hb),
    exec_bind_ok (exec_writeScalar_ok _ hd)]
  rfl

/-- The families ALU and CMP, then the immediate forms and the bit functions (R95–R97). -/
theorem exec_scalarForms (hb : scalarOk s.hart b = true) (im : BitVec 12) (sf : BitVec 6) :
    ∀ i ∈ Sys2Proof.Claim.scalarForms d a b im sf, ∃ v, exec i s = wroteScalar s d v := by
  unfold Sys2Proof.Claim.scalarForms
  iterate 30 refine List.forall_mem_cons.2 ⟨⟨_, runScalar_binary hd ha hb _⟩, ?_⟩
  iterate 18 refine List.forall_mem_cons.2 ⟨⟨_, runScalar_unary hd ha _⟩, ?_⟩
  exact List.forall_mem_nil _

end

/-- What an instruction that only writes a scalar leaves as it was. -/
theorem wroteScalar_frame {d : BitVec 7} {v : Word} (h : wroteScalar s d v = .next t) :
    OnlyFetched { s with hart := { s.hart with sregs := t.hart.sregs } } t ∧
    (∀ n, n ≠ s.hart.sys.swb.toNat + d.toNat → sparseGet 0 t.hart.sregs n = sparseGet 0 s.hart.sregs n) ∧
    (d = 0 → t.hart.sregs = s.hart.sregs) := by
  cases h
  rw [passed_sregs, ← setScalar_frame]
  refine ⟨onlyFetched_after _ .next, fun n hn => sparseGet_setScalar_other s.hart v hn, fun h0 => ?_⟩
  rw [h0, setScalar_zero]

/-- Settles O5: each form writes one scalar and goes on. -/
theorem scalarFrame : Obligations.ScalarFrame := by
  refine fun d a b im sf e k s t => ⟨fun hd ha hb i hi ht => ?_, fun he i hi ht => ?_⟩
  · obtain ⟨v, hv⟩ := exec_scalarForms hd ha hb im sf i hi
    exact wroteScalar_frame (hv.symm.trans ht)
  · have hconst : ∀ i ∈ [Instr.li e k, Instr.lf e k], ∃ v, exec i s = wroteScalar s (e.zeroExtend 7) v :=
      List.forall_mem_cons.2 ⟨⟨_, runScalar_writeScalar he _⟩,
        List.forall_mem_cons.2 ⟨⟨_, runScalar_writeScalar he _⟩, List.forall_mem_nil _⟩⟩
    obtain ⟨v, hv⟩ := hconst i hi
    exact wroteScalar_frame (hv.symm.trans ht)

end Sys2Proof.Machine
end

section
/-! MFS and MTS (settles O16). -/

namespace Sys2Proof.Machine

/-! ## Fields of a written value -/

theorem toNat_extractLsb'_eq_bitsOf (v : Word) (h l : Nat) : (v.extractLsb' l (h - l + 1)).toNat = bitsOf v.toNat h l := by
  rw [BitVec.extractLsb'_toNat, Nat.shiftRight_eq_div_pow, bitsOf]

theorem ofNat_bitsOf (v : Word) (h l : Nat) : BitVec.ofNat (h - l + 1) (bitsOf v.toNat h l) = v.extractLsb' l (h - l + 1) := by
  rw [← toNat_extractLsb'_eq_bitsOf, BitVec.ofNat_toNat, BitVec.setWidth_eq]

theorem ofNat_div_eq_extractLsb' (v : Word) (l w : Nat) : BitVec.ofNat w (v.toNat / 2 ^ l) = v.extractLsb' l w := by
  apply BitVec.eq_of_toNat_eq
  rw [BitVec.toNat_ofNat, BitVec.extractLsb'_toNat, Nat.shiftRight_eq_div_pow]

theorem ofNat_eq_extractLsb' (v : Word) (w : Nat) : BitVec.ofNat w v.toNat = v.extractLsb' 0 w := by
  rw [← ofNat_div_eq_extractLsb', pow_zero, Nat.div_one]

theorem extractLsb'_eq_zero_iff (v : Word) (w : Nat) : v.extractLsb' 0 w = 0 ↔ v.toNat % 2 ^ w = 0 := by
  rw [← ofNat_eq_extractLsb', ← BitVec.toNat_inj, BitVec.toNat_ofNat]
  simp

/-- The kept bits of a value stand where they stood. -/
theorem keep_eq_low (v : Word) {h l : Nat} (hl : l ≤ h) :
    keep v h l = BitVec.ofNat 64 (v.toNat % 2 ^ (h + 1) / 2 ^ l * 2 ^ l) := by
  have hsplit : 2 ^ (h + 1) = 2 ^ l * 2 ^ (h - l + 1) := by rw [← pow_add]; congr 1; omega
  rw [keep, bitsOf, hsplit, Nat.mod_mul_right_div_self]

/-- Kept bits up to the last one are what the bits below leave. -/
theorem keep_top (v : Word) {l : Nat} (hl : l ≤ 63) : keep v 63 l = BitVec.ofNat 64 (v.toNat / 2 ^ l * 2 ^ l) := by
  rw [keep_eq_low v hl, Nat.mod_eq_of_lt v.isLt]

/-! ## Running -/

section
variable {s t : State} {a d : BitVec 7} {n : BitVec 12}

/-- A register number that a map defines passes, where the privilege reaches it (R40). -/
theorem exec_checkReg_ok (hpriv : n.toNat < 0x100 ∨ s.hart.trap.priv = 2) (hreg : isRegister n.toNat = true) :
    (checkReg n.toNat).exec s = (.ok (), s) := by
  have hreach : ¬(0x100 ≤ n.toNat ∧ s.hart.trap.priv ≠ 2) := fun ⟨hn, hp⟩ => hpriv.elim (by omega) hp
  rw [exec_checkReg, if_neg hreach, if_pos hreg]

theorem exec_checkReg_ill (hpriv : n.toNat < 0x100 ∨ s.hart.trap.priv = 2) (hreg : isRegister n.toNat = false) :
    (checkReg n.toNat).exec s = (.error (.trapWord .ill), s) := by
  have hreach : ¬(0x100 ≤ n.toNat ∧ s.hart.trap.priv ≠ 2) := fun ⟨hn, hp⟩ => hpriv.elim (by omega) hp
  rw [exec_checkReg, if_neg hreach, if_neg (Bool.eq_false_iff.1 hreg)]

theorem exec_mfs (hd : scalarOk s.hart d = true) (hpriv : n.toNat < 0x100 ∨ s.hart.trap.priv = 2)
    (hreg : isRegister n.toNat = true) (hq : s.hart.vq = []) : exec (.mfs d n) s = wroteScalar s d (readReg s n.toNat) := by
  refine runScalar_ok ?_
  rw [exec_bind_ok (exec_checkReg_ok hpriv hreg), exec_bind_ok (exec_checkScalar_ok hd), exec_bind_ok (exec_getHart s)]
  simp only [hq, List.isEmpty_nil, Bool.not_true, Bool.and_false, Bool.false_eq_true, if_false]
  rw [exec_bind_ok (exec_get s), exec_bind_ok (exec_writeScalar_ok _ hd)]
  rfl

theorem exec_mfs_undefined (hpriv : n.toNat < 0x100 ∨ s.hart.trap.priv = 2) (hreg : isRegister n.toNat = false) :
    exec (.mfs d n) s = .next (takeTrap false .ill ((encMfs d n).toWord.zeroExtend 64) s) :=
  runScalar_trapWord (exec_bind_error (exec_checkReg_ill hpriv hreg))

section
variable (ha : scalarOk s.hart a = true) (hpriv : n.toNat < 0x100 ∨ s.hart.trap.priv = 2) (hreg : isRegister n.toNat = true)
  (hq : s.hart.vq = [])
include ha hpriv hreg hq

/-- MTS goes on where its register takes the value. -/
theorem exec_mts_ok (h : (writeReg n.toNat (scalarVal s.hart a)).exec s = (.ok (), t)) : exec (.mts a n) s = .next t.passed := by
  refine runScalar_ok ?_
  rw [exec_bind_ok (exec_checkReg_ok hpriv hreg), exec_bind_ok (exec_readScalar_ok ha), exec_bind_ok (exec_getHart s)]
  simp only [hq, List.isEmpty_nil, Bool.not_true, Bool.and_false, Bool.false_eq_true, if_false]
  rw [exec_bind_ok h]
  rfl

/-- MTS traps where its register refuses the value. -/
theorem exec_mts_ill (h : (writeReg n.toNat (scalarVal s.hart a)).exec s = (.error (.trapWord .ill), s)) :
    exec (.mts a n) s = .next (takeTrap false .ill ((encMts a n).toWord.zeroExtend 64) s) := by
  refine runScalar_trapWord ?_
  rw [exec_bind_ok (exec_checkReg_ok hpriv hreg), exec_bind_ok (exec_readScalar_ok ha), exec_bind_ok (exec_getHart s)]
  simp only [hq, List.isEmpty_nil, Bool.not_true, Bool.and_false, Bool.false_eq_true, if_false]
  rw [exec_bind_error h]

end

/-! ## What the registers take -/

section
variable {v : Word} {m : Nat} {k : State → M Unit} (hk : writeReg m v = get >>= k)
include hk

theorem exec_writeReg : (writeReg m v).exec s = (k s).exec s := by rw [hk, exec_bind_ok (exec_get s)]

theorem exec_writeReg_checked {p : Bool} {f : M Unit} (hf : k s = do illIf p; f) :
    (writeReg m v).exec s = if p then (.error (.trapWord .ill), s) else f.exec s := by
  rw [exec_writeReg hk, hf]
  cases p <;> rfl

end
end

/-! ## MFS -/

theorem zeroExtend_eq_ofNat {w : Nat} (x : BitVec w) : x.zeroExtend 64 = BitVec.ofNat 64 x.toNat := (BitVec.ofNat_toNat 64 x).symm

theorem lanesWord_eq_ofNat (y : SysRegs) : lanesWord y = BitVec.ofNat 64 (y.laneMap.toNat +
    2 ^ 8 * ((List.range 8).filter fun i => y.laneMap.getLsbD i).length + 2 ^ 12 * y.laneMin.toNat + 2 ^ 16 * y.lanePref.toNat) := by
  rw [lanesWord, List.countP_eq_length_filter]

theorem mfsResults : Sys2Proof.Claim.MfsResults := by
  refine fun d n s hd hpriv => ⟨exec_mfs hd hpriv, exec_mfs_undefined hpriv, rfl, rfl, rfl, rfl, ?_⟩
  iterate 6 refine List.forall_mem_cons.2 ⟨rfl, ?_⟩
  iterate 10 refine List.forall_mem_cons.2 ⟨zeroExtend_eq_ofNat _, ?_⟩
  refine List.forall_mem_cons.2 ⟨lanesWord_eq_ofNat _, ?_⟩
  refine List.forall_mem_cons.2 ⟨rfl, ?_⟩
  refine List.forall_mem_cons.2 ⟨zeroExtend_eq_ofNat _, ?_⟩
  exact List.forall_mem_cons.2 ⟨rfl, List.forall_mem_nil _⟩

/-! ## MTS -/

theorem mem_allCauses (c : Cause) : c ∈ allCauses := by cases c <;> decide

/-- CAUSE takes the codes of R414 and no other value. -/
theorem noCause_iff (v : Word) :
    (allCauses.all fun c => c.code.toNat != v.toNat % 256) = true ↔ ∀ c : Cause, c.code ≠ v.extractLsb' 0 8 := by
  have hcode (c : Cause) : c.code.toNat ≠ v.toNat % 256 ↔ c.code ≠ v.extractLsb' 0 8 := by
    rw [ne_eq, ne_eq, ← BitVec.toNat_inj, ← ofNat_eq_extractLsb', BitVec.toNat_ofNat]
  rw [List.all_eq_true]
  exact ⟨fun h c => (hcode c).1 (bne_iff_ne.1 (h c (mem_allCauses c))), fun h c _ => bne_iff_ne.2 ((hcode c).2 (h c))⟩

/-- STATUS takes no privilege 3 (R43). -/
theorem badPrivilege_iff (v : Word) : (bitsOf v.toNat 1 0 == 3 || bitsOf v.toNat 6 5 == 3) = true ↔
    v.extractLsb' 0 2 = 3 ∨ v.extractLsb' 5 2 = 3 := by
  rw [Bool.or_eq_true, beq_iff_eq, beq_iff_eq, ← toNat_extractLsb'_eq_bitsOf, ← toNat_extractLsb'_eq_bitsOf,
    ← BitVec.toNat_inj, ← BitVec.toNat_inj]
  rfl

theorem mtsResults : Sys2Proof.Claim.MtsResults := by
  intro a s ha hq hpriv A wrote ill cfg trp sys low x
  -- A register that takes every value, one that takes those of a range, and one that is read only.
  have sets {n : BitVec 12} {t : State} {k : State → M Unit} (hreg : isRegister n.toNat = true)
      (hk : writeReg n.toNat A = get >>= k) (h : (k s).exec s = (.ok (), t)) : exec (.mts a n) s = .next t.passed :=
    exec_mts_ok ha (.inr hpriv) hreg hq ((exec_writeReg hk).trans h)
  have takes {n : BitVec 12} {t : State} {k : State → M Unit} {p : Bool} {f : M Unit} (hreg : isRegister n.toNat = true)
      (hk : writeReg n.toNat A = get >>= k) (hf : k s = do illIf p; f) (hp : p = false) (h : f.exec s = (.ok (), t)) :
      exec (.mts a n) s = .next t.passed :=
    exec_mts_ok ha (.inr hpriv) hreg hq (by rw [exec_writeReg_checked hk hf, hp]; exact h)
  have refuses {n : BitVec 12} {k : State → M Unit} {p : Bool} {f : M Unit} (hreg : isRegister n.toNat = true)
      (hk : writeReg n.toNat A = get >>= k) (hf : k s = do illIf p; f) (hp : p = true) : ill n :=
    exec_mts_ill ha (.inr hpriv) hreg hq (by rw [exec_writeReg_checked hk hf, hp]; rfl)
  have readOnly {n : BitVec 12} {k : State → M Unit} (hreg : isRegister n.toNat = true)
      (hk : writeReg n.toNat A = get >>= k) (h : k s = trapWord .ill) : ill n :=
    exec_mts_ill ha (.inr hpriv) hreg hq (by rw [exec_writeReg hk, h]; rfl)
  have hlow {h l : Nat} (hl : l ≤ h) : low h l = keep A h l := (keep_eq_low A hl).symm
  have hfield (l w : Nat) : A.extractLsb' l w = BitVec.ofNat w (A.toNat / 2 ^ l) := (ofNat_div_eq_extractLsb' A l w).symm
  have hfirst (w : Nat) : A.extractLsb' 0 w = BitVec.ofNat w A.toNat := (ofNat_eq_extractLsb' A w).symm
  have hcount : bitsOf A.toNat 63 58 = x / 2 ^ 58 := Nat.mod_eq_of_lt (by have := A.isLt; omega)
  refine ⟨fun h => takes rfl rfl rfl (decide_eq_false (Nat.not_le.2 h)) rfl, fun h => refuses rfl rfl rfl (decide_eq_true h),
    fun h => takes rfl rfl rfl (decide_eq_false (Nat.not_le.2 h)) rfl, fun h => refuses rfl rfl rfl (decide_eq_true h),
    fun h => takes rfl rfl rfl (decide_eq_false (Nat.not_lt.2 h)) rfl, fun h => refuses rfl rfl rfl (decide_eq_true h),
    fun h => takes rfl rfl rfl (decide_eq_false (Nat.not_lt.2 h)) rfl, fun h => refuses rfl rfl rfl (decide_eq_true h),
    fun h => takes rfl rfl rfl (decide_eq_false (Nat.not_lt.2 h)) rfl, fun h => refuses rfl rfl rfl (decide_eq_true h),
    fun h => takes rfl rfl rfl (decide_eq_false (Nat.not_le.2 h)) rfl, fun h => refuses rfl rfl rfl (decide_eq_true h),
    fun h => takes rfl rfl rfl (decide_eq_false (Nat.not_lt.2 h)) rfl, fun h => refuses rfl rfl rfl (decide_eq_true h),
    fun h => takes rfl rfl rfl (decide_eq_false (Nat.not_lt.2 h)) rfl, fun h => refuses rfl rfl rfl (decide_eq_true h),
    ?srseed, ?rascnt, ?rasspill, fun h h' => ?status, fun h => refuses rfl rfl rfl ((badPrivilege_iff A).2 h), ?xna, ?xnb, ?xflags,
    fun c hc => ?cause, fun h => refuses rfl rfl rfl ((noCause_iff A).2 h), fun h => ?xvq,
    fun h => refuses rfl rfl rfl (decide_eq_true (hcount ▸ h)), ?gatebase, fun h => ?gatecnt,
    fun h => refuses rfl rfl rfl (decide_eq_true h), ?savearea, ?tcmp, ?translation, sets rfl rfl rfl,
    fun h h' => takes rfl rfl rfl (by simp only [Bool.or_eq_false_iff, decide_eq_false_iff_not]; omega) rfl,
    fun h => refuses rfl rfl rfl (by simpa only [Bool.or_eq_true, decide_eq_true_iff] using h),
    fun h => takes rfl rfl rfl (decide_eq_false (Nat.not_le.2 h)) rfl, fun h => refuses rfl rfl rfl (decide_eq_true h),
    fun h => takes rfl rfl rfl (decide_eq_false (Nat.not_le.2 h)) rfl, fun h => refuses rfl rfl rfl (decide_eq_true h),
    sets rfl rfl rfl, ?xpc, sets rfl rfl rfl, ?tvec, ?ipend, ?imask, readOnly rfl rfl rfl, readOnly rfl rfl rfl,
    readOnly rfl rfl rfl, readOnly rfl rfl rfl, readOnly rfl rfl rfl, readOnly rfl rfl rfl, readOnly rfl rfl rfl⟩
  case srseed =>
    rw [if_congr (extractLsb'_eq_zero_iff A 32) rfl rfl, hfirst]
    exact sets rfl rfl rfl
  case rascnt => rw [hfirst]; exact sets rfl rfl rfl
  case rasspill => rw [hlow (by decide)]; exact sets rfl rfl rfl
  case status =>
    have hp : (bitsOf A.toNat 1 0 == 3 || bitsOf A.toNat 6 5 == 3) = false :=
      Bool.eq_false_iff.2 fun e => ((badPrivilege_iff A).1 e).elim h h'
    rw [hfirst, hfield 2, hfield 5, hfield 7, hfield 3]
    exact takes rfl rfl rfl hp rfl
  case xna => rw [hlow (by decide)]; exact sets rfl rfl rfl
  case xnb => rw [hlow (by decide)]; exact sets rfl rfl rfl
  case xflags => rw [hfirst]; exact sets rfl rfl rfl
  case cause =>
    rw [hfirst]
    exact takes rfl rfl rfl (Bool.eq_false_iff.2 fun e => (noCause_iff A).1 e c hc) rfl
  case xvq =>
    rw [← keep_top A (by decide), hlow (by decide)]
    exact takes rfl rfl rfl (decide_eq_false (hcount ▸ Nat.not_lt.2 h)) rfl
  case gatebase => rw [hlow (by decide)]; exact sets rfl rfl rfl
  case gatecnt => rw [hfirst]; exact takes rfl rfl rfl (decide_eq_false (Nat.not_lt.2 h)) rfl
  case savearea => rw [hlow (by decide)]; exact sets rfl rfl rfl
  case tcmp => rw [hfirst, hfield]; exact sets rfl rfl rfl
  case translation => rw [hfirst, ← ofNat_bitsOf A 51 16]; exact sets rfl rfl rfl
  case xpc => exact keep_top A (l := 2) (by decide) ▸ sets rfl rfl rfl
  case tvec => exact keep_top A (l := 2) (by decide) ▸ sets rfl rfl rfl
  case ipend => rw [hfirst]; exact sets rfl rfl rfl
  case imask => rw [hfirst]; exact sets rfl rfl rfl

/-- Settles O16: the registers as MFS reads them and as MTS writes them. -/
theorem specialRegisterResults : Obligations.SpecialRegisterResults := ⟨mfsResults, mtsResults⟩

end Sys2Proof.Machine
end

section
/-! The vector-queue save area (R45, R47): what writing entries there leaves. -/

namespace Sys2Proof.Machine

variable {s t u : State} {a n : Nat}

/-! ## Spans of memory -/

theorem memNat_congr (h : ∀ b, a ≤ b → b < a + n → t.byteAt b = s.byteAt b) : t.memNat a n = s.memNat a n := by
  refine congrArg leNat (List.ext_getElem (by simp only [length_sparseGetList]) fun i hi _ => ?_)
  rw [length_sparseGetList] at hi
  rw [getElem_sparseGetList, getElem_sparseGetList]
  exact h _ (by omega) (by omega)

/-- The addresses of n eight-byte words lie in plain memory, which accesses with translation off reach (R212, R315, R316). -/
def PlainWords (s : State) (a n : Nat) : Prop :=
  s.myDie.ptEn = 0 ∧ a + 8 * n ≤ 2 ^ 52 ∧
    ∀ k < n, absent s (pkgOf s.id) (a + 8 * k) = false ∧ isControlWindow (a + 8 * k) = false ∧ fencedAt s (a + 8 * k) = false

theorem plainWords_of_span (h : PlainSpan s a (8 * n)) : PlainWords s a n := by
  obtain ⟨hoff, hlt, hplain⟩ := h
  exact ⟨hoff, hlt, fun k hk => hplain (a + 8 * k) (by omega) (by omega)⟩

theorem plainWords_congr (hid : t.id = s.id) (hdies : t.dies = s.dies) (hpkgs : t.pkgs = s.pkgs) (h : PlainWords s a n) :
    PlainWords t a n := by
  have hfenced (x : Nat) : fencedAt t x = fencedAt s x := by unfold fencedAt State.die; rw [hdies]
  have habsent (x : Nat) : absent t (pkgOf t.id) x = absent s (pkgOf s.id) x := by unfold absent State.pkg; rw [hid, hpkgs]
  have hdie : t.myDie = s.myDie := by unfold State.myDie State.die; rw [hid, hdies]
  obtain ⟨hoff, hlt, hplain⟩ := h
  exact ⟨by rw [hdie]; exact hoff, hlt, fun k hk => by rw [hfenced, habsent]; exact hplain k hk⟩

theorem plainWords_sub {k m : Nat} (h : PlainWords s a n) (hm : k + m ≤ n) : PlainWords s (a + 8 * k) m := by
  obtain ⟨hoff, hlt, hplain⟩ := h
  refine ⟨hoff, by omega, fun i hi => ?_⟩
  rw [Nat.add_assoc, ← Nat.mul_add]
  exact hplain (k + i) (by omega)

theorem plainWords_prefix {m : Nat} (h : PlainWords s a n) (hm : m ≤ n) : PlainWords s a m :=
  plainWords_sub (k := 0) h (by omega)

/-- An access of eight bytes to plain memory at privilege 2 reaches its address (R316). -/
theorem exec_translateAt_plain (k : Access) {v : Word} (hs : PlainWords s v.toNat 1) (ans : s.hart.unanswered = none) :
    (translateAt 2 k .other v 8).exec s = (.ok v.toNat, s) := by
  obtain ⟨hoff, hlt, hplain⟩ := hs
  obtain ⟨hhere, hwindow, hsound⟩ := hplain 0 Nat.one_pos
  refine exec_translateAt_off k .other v 8 s hoff (by omega) ans hhere ?_ hsound
  change isControlWindow v.toNat = false at hwindow
  rw [deviceOk, hwindow]
  rfl

theorem exec_wrmemAt_plain {v : Word} (x : Nat) (hs : PlainWords s v.toNat 1) (ans : s.hart.unanswered = none) :
    (wrmemAt 2 .other v 8 x).exec s = (.ok (), s.putNat v.toNat 8 x) := by
  unfold wrmemAt storeAt
  rw [exec_bind_ok (exec_translateAt_plain .store hs ans), exec_bind_ok (exec_get s), unanswered_none ans]
  rfl

/-! ## Words -/

/-- Eight-byte words were written at an address, and nothing else but the marks and records of a write changed. -/
structure Wrote (a : Nat) (ws : List Nat) (s t : State) : Prop where
  rest : t = { s with mem := t.mem, poison := t.poison, stores := t.stores }
  outside : ∀ b, b < a ∨ a + 8 * ws.length ≤ b → t.byteAt b = s.byteAt b
  words : ∀ k < ws.length, t.memNat (a + 8 * k) 8 = ws.getD k 0

theorem wrote_putNat (s : State) (a : Nat) (x : Word) : Wrote a [x.toNat] s (s.putNat a 8 x.toNat) where
  rest := rfl
  outside b hb := byteAt_putBytes_other s a _ (by rw [length_leBytes]; exact hb)
  words k hk := by
    obtain rfl : k = 0 := Nat.lt_one_iff.1 hk
    rw [Nat.mul_zero, Nat.add_zero, memNat_putNat_same, Nat.mod_eq_of_lt x.isLt]
    rfl

theorem Wrote.plainWords {b m : Nat} {ws : List Nat} (h : Wrote a ws s t) (hs : PlainWords s b m) : PlainWords t b m :=
  plainWords_congr (by rw [h.rest]) (by rw [h.rest]) (by rw [h.rest]) hs

theorem Wrote.hart {ws : List Nat} (h : Wrote a ws s t) : t.hart = s.hart := by rw [h.rest]

theorem wrote_append {ws ws' : List Nat} (h : Wrote a ws s t) (h' : Wrote (a + 8 * ws.length) ws' t u) :
    Wrote a (ws ++ ws') s u where
  rest := by
    have hrest := h'.rest
    rw [h.rest] at hrest
    exact hrest
  outside b hb := by
    rw [List.length_append] at hb
    rw [h'.outside b (by omega), h.outside b (by omega)]
  words k hk := by
    rw [List.length_append] at hk
    by_cases hin : k < ws.length
    · rw [List.getD_append _ _ _ _ hin, ← h.words k hin]
      exact memNat_congr fun b _ _ => h'.outside b (by omega)
    · rw [List.getD_append_right _ _ _ _ (by omega), ← h'.words (k - ws.length) (by omega)]
      congr 1
      omega

/-- Words written where memory is plain are all written. -/
theorem exec_wrWords_plain {v : Word} {ws : List Word} (hs : PlainWords s v.toNat ws.length)
    (ans : s.hart.unanswered = none) :
    ∃ t, (wrWords 2 v ws).exec s = (.ok (), t) ∧ Wrote v.toNat (ws.map BitVec.toNat) s t := by
  induction ws generalizing v s with
  | nil => exact ⟨s, rfl, rfl, fun _ _ => rfl, fun k hk => absurd hk (Nat.not_lt_zero k)⟩
  | cons x ws ih =>
    rw [List.length_cons] at hs
    have hlt := hs.2.1
    have hnext : (v + 8).toNat = v.toNat + 8 := by
      rw [BitVec.toNat_add]
      exact Nat.mod_eq_of_lt (by change v.toNat + 8 < _; omega)
    have hfirst := wrote_putNat s v.toNat x
    have hspan : PlainWords (s.putNat v.toNat 8 x.toNat) (v + 8).toNat ws.length := by
      rw [hnext]
      exact hfirst.plainWords (plainWords_sub (k := 1) hs (by omega))
    obtain ⟨t, ht, hwrote⟩ := ih hspan ans
    refine ⟨t, ?_, wrote_append hfirst (by rwa [hnext] at hwrote)⟩
    rw [wrWords, exec_bind_ok (exec_wrmemAt_plain x.toNat (plainWords_prefix hs (by omega)) ans), ht]

/-! ## Entries -/

/-- The fields of a configuration stand side by side in a word (R47). -/
theorem toNat_pack_cfg (c : VConf) : c.pack.1.toNat = c.vl.toNat + 2 ^ 14 * (c.rc.toNat - 1) + 2 ^ 19 * c.etype.toNat +
    2 ^ 23 * c.psel.toNat + 2 ^ 28 * c.gsel.toNat + 2 ^ 32 * c.vwb.toNat + 2 ^ 39 * c.estart.toNat +
    2 ^ 57 * c.maskmode.toNat + 2 ^ 58 * c.frm.toNat := by
  have hvl := c.vl.isLt
  have hrc := c.rc.isLt
  have het := c.etype.isLt
  have hps := c.psel.isLt
  have hgs := c.gsel.isLt
  have hvw := c.vwb.isLt
  have hes := c.estart.isLt
  have hmm := c.maskmode.isLt
  have hfr := c.frm.isLt
  exact Nat.mod_eq_of_lt (by omega)

/-- The eight words that save an entry are those of R47, field by field. -/
theorem pack_toNat (e : Entry) : e.pack.map BitVec.toNat = slotWords e := by
  have hword : (e.lit ++ e.word).toNat = e.word.toNat + 2 ^ 32 * e.lit.toNat := by
    rw [BitVec.toNat_append, ← Nat.shiftLeft_add_eq_or_of_lt e.word.isLt, Nat.shiftLeft_eq]
    omega
  have hcfg : e.cfg.pack.1.toNat = (slotWords e).getD 2 0 := toNat_pack_cfg e.cfg
  have hmode : e.cfg.pack.2.toNat = e.cfg.mmode.toNat := BitVec.toNat_setWidth_of_le (by decide)
  unfold Entry.pack
  simp only [List.map_cons, List.map_nil, hword, hcfg, hmode]
  rfl

/-- Entries were written to consecutive slots at an address, and nothing else but the marks and records of a write changed. -/
structure SavedAt (base : Nat) (es : List Entry) (s t : State) : Prop where
  rest : t = { s with mem := t.mem, poison := t.poison, stores := t.stores }
  outside : ∀ b, b < base ∨ base + 64 * es.length ≤ b → t.byteAt b = s.byteAt b
  holds : HoldsEntries t base es

theorem holdsEntries_cons {base : Nat} {e : Entry} {es : List Entry}
    (he : ∀ k < 8, t.memNat (base + 8 * k) 8 = (slotWords e).getD k 0) (hes : HoldsEntries t (base + 64) es) :
    HoldsEntries t base (e :: es) := by
  intro i e' hi k hk
  cases i with
  | zero =>
    obtain rfl : e = e' := Option.some.inj hi
    exact he k hk
  | succ i =>
    rw [← hes i e' hi k hk]
    congr 1
    omega

/-- Writing a slot whose trap is that of no agent: the records of its stores are nobody's (R45). -/
theorem wrote_unowned {ws : List Nat} (h : Wrote a ws s t) : Wrote a ws s (s.unowned t) where
  rest := by
    have hrest := h.rest
    rw [hrest]
    rfl
  outside := h.outside
  words := h.words

/-- Entries written where memory is plain are all written. -/
theorem exec_saveEntries_plain {v : Word} {es : List Entry} (n : Nat) (hs : PlainWords s v.toNat (8 * es.length))
    (ans : s.hart.unanswered = none) :
    ∃ t, (saveEntries v es n).exec s = (.ok (n + es.length, none), t) ∧ SavedAt v.toNat es s t := by
  induction es generalizing v s n with
  | nil => exact ⟨s, rfl, rfl, fun _ _ => rfl, fun i e hi => absurd hi (by simp)⟩
  | cons e es ih =>
    rw [List.length_cons] at hs
    have hlt := hs.2.1
    have hnext : (v + 64).toNat = v.toNat + 64 := by
      rw [BitVec.toNat_add]
      exact Nat.mod_eq_of_lt (by change v.toNat + 64 < _; omega)
    obtain ⟨u, hu, hwords⟩ := exec_wrWords_plain (ws := e.pack) (plainWords_prefix hs (by change 8 ≤ _; omega)) ans
    have hslot := wrote_unowned hwords
    rw [pack_toNat] at hslot
    have hspan : PlainWords (s.unowned u) (v + 64).toNat (8 * es.length) := by
      rw [hnext]
      exact hslot.plainWords (plainWords_sub (k := 8) hs (by omega))
    obtain ⟨t, ht, hsaved⟩ := ih (n + 1) hspan (by rw [hslot.hart]; exact ans)
    refine ⟨t, ?_, ?_⟩
    · rw [saveEntries, exec_bind_ok (exec_get s), exec_bind_ok (exec_attempt _ s), hu, exec_bind_ok (exec_modify s.unowned u)]
      dsimp only
      rw [ht, List.length_cons, Nat.add_assoc, Nat.add_comm 1]
    · rw [hnext] at hsaved
      have hrest := hsaved.rest
      rw [hslot.rest] at hrest
      refine ⟨hrest, fun b hb => ?_, holdsEntries_cons (fun k hk => ?_) hsaved.holds⟩
      · rw [List.length_cons] at hb
        rw [hsaved.outside b (by omega), hslot.outside b (by change _ ∨ v.toNat + 64 ≤ b; omega)]
      · rw [← hslot.words k hk]
        exact memNat_congr fun b _ _ => hsaved.outside b (by omega)

end Sys2Proof.Machine
end

section
/-! Taking a trap (settles O12). -/

namespace Sys2Proof.Machine

variable {s t u p : State}

/-! ## Saving the vector queue -/

/-- ESTART as a trap leaves it: the element that the oldest entry has reached, where it has begun (R45). -/
def reachedStart (h : Hart) : BitVec 18 :=
  match h.vq with
  | e :: _ => if e.begun then e.cfg.estart else h.cfg.estart
  | [] => h.cfg.estart

theorem reachedStart_of_empty {h : Hart} (hq : h.vq = []) : reachedStart h = h.cfg.estart := by rw [reachedStart, hq]

theorem reachedStart_of_oldest {h : Hart} {e : Entry} {es : List Entry} (hq : h.vq = e :: es) :
    reachedStart h = if e.begun then e.cfg.estart else h.cfg.estart := by rw [reachedStart, hq]

/-- The hart in focus has left its vector queue, with the number of entries that were saved (R45, R47). -/
def emptiedHart (s : State) : Hart :=
  { s.hart with
    vq := []
    cfg := { s.hart.cfg with estart := reachedStart s.hart }
    trap := { s.hart.trap with
      xvq := BitVec.ofNat 64 (saveArea s) ||| BitVec.ofNat 64 (s.hart.vq.length * 2 ^ 58) } }

/-- What saving the vector queue leaves: besides the hart's queue, the quad's waits and memory at the save area. -/
structure QueueSaved (s u : State) : Prop where
  rest : u = { s with hart := emptiedHart s, quads := u.quads, mem := u.mem, poison := u.poison, stores := u.stores }
  outside : ∀ b, b < saveArea s ∨ saveArea s + 64 * s.hart.vq.length ≤ b → u.byteAt b = s.byteAt b
  holds : HoldsEntries u (saveArea s) s.hart.vq

theorem saveArea_lt (s : State) : saveArea s < 2 ^ 52 := by
  have : bitsOf s.hart.trap.xvq.toNat 51 5 < 2 ^ 47 := Nat.mod_lt _ (by decide)
  unfold saveArea
  omega

theorem toNat_ofNat_saveArea (s : State) : (BitVec.ofNat 64 (saveArea s)).toNat = saveArea s := by
  have := saveArea_lt s
  rw [BitVec.toNat_ofNat]
  exact Nat.mod_eq_of_lt (by omega)

/-- ESTART is what the trap leaves (R45). -/
def reached (s : State) : State := { s with hart := { s.hart with cfg := { s.hart.cfg with estart := reachedStart s.hart } } }

/-- The state in which the entries are written: ESTART is set, and the hart waits for no semaphore (R268). -/
def beforeSave (s : State) : State := (leaveWaits.exec (reached s)).2

/-- The queue is empty, and COUNT is the number of entries that were saved (R45). -/
def queueLeft (s : State) (n : Nat) (t : State) : State :=
  { t with hart := { t.hart with
    vq := []
    trap := { t.hart.trap with xvq := BitVec.ofNat 64 (saveArea s) ||| BitVec.ofNat 64 (n * 2 ^ 58) } } }

theorem exec_saveQueue {n : Nat} {bad : Option Word}
    (h : (saveEntries (BitVec.ofNat 64 (saveArea s)) s.hart.vq 0).exec (beforeSave s) = (.ok (n, bad), t)) :
    saveQueue.exec s = (.ok bad, queueLeft s n t) := by
  unfold saveQueue
  rw [exec_bind_ok (exec_getHart s)]
  extract_lets base rest
  have hrest (r : Unit) {u : State} (hu : u = reached s) : (rest r).exec u = (.ok bad, queueLeft s n t) := by
    rw [hu]
    exact (exec_bind_ok (t := beforeSave s) rfl).trans ((exec_bind_ok h).trans rfl)
  clear_value rest
  cases hq : s.hart.vq with
  | nil => exact hrest () (by rw [reached, reachedStart_of_empty hq])
  | cons e es =>
    have hstart := reachedStart_of_oldest hq
    dsimp only
    split
    next hb =>
      rw [if_pos hb] at hstart
      exact (exec_bind_ok (exec_modCfg _ s)).trans (hrest () (by rw [reached, hstart]))
    next hb =>
      rw [if_neg hb] at hstart
      exact hrest () (by rw [reached, hstart])

theorem queueSaved_of_savedAt (h : SavedAt (saveArea s) s.hart.vq (beforeSave s) t) :
    QueueSaved s (queueLeft s s.hart.vq.length t) where
  rest := by
    unfold queueLeft
    rw [h.rest]
    rfl
  outside := h.outside
  holds := h.holds

/-- With room in the save area every entry is saved (R45). -/
theorem saveQueue_saves (ans : s.hart.unanswered = none) (room : PlainWords s (saveArea s) (8 * s.hart.vq.length)) :
    ∃ u, saveQueue.exec s = (.ok none, u) ∧ QueueSaved s u := by
  have hspan : PlainWords (beforeSave s) (BitVec.ofNat 64 (saveArea s)).toNat (8 * s.hart.vq.length) := by
    rw [toNat_ofNat_saveArea]
    exact plainWords_congr rfl rfl rfl room
  obtain ⟨t, ht, hsaved⟩ := exec_saveEntries_plain 0 hspan ans
  rw [toNat_ofNat_saveArea] at hsaved
  rw [Nat.zero_add] at ht
  exact ⟨_, exec_saveQueue ht, queueSaved_of_savedAt hsaved⟩

/-- With an empty queue nothing is written. -/
theorem saveQueue_empty (hq : s.hart.vq = []) :
    ∃ quads, saveQueue.exec s = (.ok none, { s with hart := emptiedHart s, quads := quads }) := by
  refine ⟨(beforeSave s).quads, (exec_saveQueue (n := 0) (t := beforeSave s) (by rw [hq]; rfl)).trans ?_⟩
  unfold emptiedHart
  rw [hq]
  rfl

theorem emptiedHart_of_empty (hq : s.hart.vq = []) : emptiedHart s = { s.hart with trap := (emptiedHart s).trap } := by
  unfold emptiedHart
  rw [reachedStart_of_empty hq]
  dsimp only
  rw [hq]

/-! ## COUNT and the area after saving -/

theorem toNat_xvq {base n : Nat} (hbase : base < 2 ^ 52) (hn : n ≤ 32) :
    (BitVec.ofNat 64 base ||| BitVec.ofNat 64 (n * 2 ^ 58)).toNat = 2 ^ 58 * n + base := by
  rw [BitVec.toNat_or, BitVec.toNat_ofNat, BitVec.toNat_ofNat, Nat.mod_eq_of_lt (by omega), Nat.mod_eq_of_lt (by omega),
    Nat.or_comm, Nat.mul_comm n, Nat.two_pow_add_eq_or_of_lt (by omega)]

theorem savedCount_of_xvq (hn : s.hart.vq.length ≤ 32) (ht : t.hart.trap.xvq = (emptiedHart s).trap.xvq) :
    savedCount t = s.hart.vq.length := by
  have hbase := saveArea_lt s
  rw [savedCount, ht, emptiedHart, toNat_xvq hbase hn, bitsOf]
  omega

theorem saveArea_of_xvq (hn : s.hart.vq.length ≤ 32) (ht : t.hart.trap.xvq = (emptiedHart s).trap.xvq) :
    saveArea t = saveArea s := by
  have hbase := saveArea_lt s
  have hmul : saveArea s % 32 = 0 := Nat.mul_mod_left _ 32
  rw [saveArea, ht, emptiedHart, toNat_xvq hbase hn, bitsOf]
  omega

/-! ## Entering the handler -/

/-- The state in which the handler's first words are fetched (R125). -/
def entering (w : State) : State :=
  { w with hart := { w.hart with
    fetch := ⟨w.hart.trap.tvec, 0, 0, false, false, true, true, false⟩
    trap := { w.hart.trap with ppriv := w.hart.trap.priv, pie := w.hart.trap.ie, priv := 2, ie := 0 } } }

/-- The interrupted sequence, the cause and the value are saved (R45, R122). -/
def interrupted (v : Bool) (c : Cause) (x : Word) (u : State) : State :=
  { u with hart := { u.hart with
    phase := .running
    trap := { u.hart.trap with
      ipend := if u.hart.phase = .suspending then u.hart.trap.ipend ||| 4 else u.hart.trap.ipend
      xpc := u.hart.fetch.pc &&& ~~~3
      xna := u.hart.fetch.na &&& ~~~3
      xnb := u.hart.fetch.nb &&& ~~~3
      xflags := u.hart.fetch.flags
      cause := (if v then 1#1 else 0#1) ++ c.code
      xval := x } } }

/-- What fetching the handler's first words leaves: a hart that cannot enter its handler stops, which is logged (R52). -/
structure HandlerFetched (p t : State) : Prop where
  hart : t.hart = { p.hart with fetch := t.hart.fetch, unanswered := t.hart.unanswered, phase := t.hart.phase }
  start : SameStart p t
  quads : t.quads = p.quads
  running : t.hart.phase = .running → Fetched p t
  formed : ∀ q, formQueue.exec p = (.ok (), q) → t = q

theorem putRecords_frame (base cap wr : Nat) (rs : List (List Byte)) (s : State) :
    (putRecords base cap wr rs s).hart = s.hart ∧ (putRecords base cap wr rs s).quads = s.quads := by
  induction rs generalizing wr s with
  | nil => exact ⟨rfl, rfl⟩
  | cons r rs ih => exact ih (wr + 1) _

theorem logEvent_frame (d source cls addr : Nat) (s : State) :
    ((logEvent d source cls addr).exec s).2.hart = s.hart ∧ ((logEvent d source cls addr).exec s).2.quads = s.quads := by
  unfold logEvent
  rw [exec_modify]
  dsimp only
  split
  · exact ⟨rfl, rfl⟩
  · exact putRecords_frame ..

theorem Fetched.hart {q : State} (h : Fetched p q) :
    q.hart = { p.hart with fetch := q.hart.fetch, unanswered := q.hart.unanswered } := congrArg State.hart h.1

theorem Fetched.quads {q : State} (h : Fetched p q) : q.quads = p.quads := by rw [h.1]

/-- A hart that could not form its queued addresses has stopped. -/
theorem handlerFetched_halted {q : State} (hfetched : Fetched p q) (hstart : SameStart p q)
    (hne : (formQueue.exec p).1 ≠ .ok ()) (ht : t.hart = { q.hart with phase := .halted }) (hq : t.quads = q.quads) :
    HandlerFetched p t where
  hart := by rw [ht, hfetched.hart]
  start := by
    have hf : t.hart.fetch = q.hart.fetch := by rw [ht]
    exact ⟨(congrArg Fetch.pc hf).trans hstart.pc, (congrArg Fetch.apc hf).trans hstart.apc,
      (congrArg Fetch.ana hf).trans hstart.ana⟩
  quads := hq.trans hfetched.quads
  running hrun := by rw [ht] at hrun; cases hrun
  formed q' hq' := absurd (congrArg Prod.fst hq') hne

theorem enterHandler_fetched (w : State) :
    HandlerFetched (entering w) (enterHandler.exec w).2 := by
  have hfetched := fetched_formQueue (entering w)
  have hstart := sameStart_formQueue (entering w)
  have hhalted := fun t => handlerFetched_halted (t := t) hfetched hstart
  unfold enterHandler
  rw [exec_bind_ok (exec_modTrapRegs _ _), exec_bind_ok (exec_getHart _), exec_bind_ok (exec_modFetch _ _),
    exec_bind_ok (exec_attempt formQueue _)]
  change HandlerFetched (entering w) (Prod.snd (M.exec (match (formQueue.exec (entering w)).1 with
    | .ok _ => _ | .error (.trap _ _) => _ | .error _ => _) (formQueue.exec (entering w)).2))
  rcases hform : formQueue.exec (entering w) with ⟨r, q⟩
  rw [hform] at hfetched hstart hhalted
  match r with
  | .ok () =>
    change Fetched (entering w) q at hfetched
    change HandlerFetched (entering w) q
    exact ⟨by rw [hfetched.hart], hstart, hfetched.quads, fun _ => hfetched,
      fun q' hq' => congrArg Prod.snd (hform.symm.trans hq')⟩
  | .error (.trap c a) =>
    dsimp only
    rw [exec_bind_ok (exec_modHart _ q), exec_bind_ok (exec_get _)]
    obtain ⟨hlogHart, hlogQuads⟩ := logEvent_frame (dieOf q.id) (coreOf q.id % 48) 3 a.toNat
      { q with hart := { q.hart with phase := .halted } }
    exact hhalted _ (by simp) hlogHart hlogQuads
  | .error (.trapWord c) => exact hhalted _ (by simp) rfl rfl
  | .error .block => exact hhalted _ (by simp) rfl rfl
  | .error .stall => exact hhalted _ (by simp) rfl rfl

theorem takeTrap_fetched (v : Bool) (c : Cause) (x : Word) (h : saveQueue.exec s = (.ok none, u)) :
    HandlerFetched (entering (interrupted v c x u)) (takeTrap v c x s) := by
  unfold takeTrap trapEntry
  rw [exec_bind_ok h, exec_bind_ok (exec_modHart _ u)]
  exact enterHandler_fetched (interrupted v c x u)

theorem flags_bits (f : Fetch) : f.flags.getLsbD 0 = f.apc ∧ f.flags.getLsbD 1 = f.ana ∧
    f.flags.getLsbD 2 = (f.nbf || f.naf) ∧ f.flags.getLsbD 3 = f.naf := by
  have h : ∀ a b c d : Bool, let x := BitVec.ofNat 4 (a.toNat + 2 * b.toNat + 4 * (c || d).toNat + 8 * d.toNat)
      x.getLsbD 0 = a ∧ x.getLsbD 1 = b ∧ x.getLsbD 2 = (c || d) ∧ x.getLsbD 3 = d := by decide
  exact h f.apc f.ana f.nbf f.naf

theorem entered_of_fetched {v : Bool} {c : Cause} {x : Word} (hu : u.hart = emptiedHart s)
    (h : HandlerFetched (entering (interrupted v c x u)) t) : Entered v c x s t := by
  obtain ⟨hhart, ⟨hpc, hapc, hana⟩, -, -, -⟩ := h
  rw [entering, interrupted, hu] at hhart hpc hapc hana
  obtain ⟨h0, h1, h2, h3⟩ := flags_bits s.hart.fetch
  unfold Entered
  dsimp only
  rw [hpc, hapc, hana, hhart]
  exact ⟨rfl, rfl, rfl, h0, h1, h2, h3, rfl, rfl, rfl, rfl, rfl, rfl, rfl, rfl, rfl, rfl, rfl, rfl, rfl, rfl, rfl, rfl⟩

theorem xvq_of_fetched {v : Bool} {c : Cause} {x : Word} (hu : u.hart = emptiedHart s)
    (h : HandlerFetched (entering (interrupted v c x u)) t) : t.hart.trap.xvq = (emptiedHart s).trap.xvq := by
  rw [h.hart, ← hu]
  rfl

/-! ## Forming the handler's queue -/

theorem exec_succ_privileged (hp : s.hart.trap.priv = 2) (v : Word) : (succ v).exec s = (succAt 2 v).exec s := by
  unfold succ
  rw [exec_bind_ok (exec_privNow s), hp]
  rfl

/-- Where both words are there, NA and NB are formed from PC (R52). -/
theorem exec_formQueue_both {na nb pc : Word} {p q : State}
    (hfetch : p.hart.fetch = ⟨pc, 0, 0, false, false, true, true, false⟩)
    (hq : q = { p with hart := { p.hart with fetch := ⟨pc, na, 0, false, false, true, false, false⟩ } })
    (hna : (succ pc).exec p = (.ok na, p)) (hnb : (succ na).exec q = (.ok nb, q)) :
    formQueue.exec p = (.ok (), { p with hart := { p.hart with fetch := ⟨pc, na, nb, false, false, false, false, false⟩ } }) := by
  have hset : (modFetch fun f => { f with na := na, naf := false }).exec p = (.ok (), q) := by
    rw [exec_modFetch, hfetch, hq]
  have hqf : q.hart.fetch = ⟨pc, na, 0, false, false, true, false, false⟩ := by rw [hq]
  unfold formQueue
  rw [exec_bind_ok (exec_getHart p), hfetch]
  dsimp only
  rw [if_pos rfl, exec_bind_ok hna, exec_bind_ok hset, exec_bind_ok (exec_getHart q), hqf]
  dsimp only
  rw [if_pos rfl, exec_bind_ok hnb, exec_modFetch, hqf, hq]

/-! ## Taking a trap -/

theorem trapRegisters : Sys2Proof.Claim.TrapRegisters := by
  intro v c x s hq t tvec entry
  obtain ⟨quads, hsave⟩ := saveQueue_empty hq
  have hfetched := takeTrap_fetched v c x hsave
  have hentered : Entered v c x s t := entered_of_fetched rfl hfetched
  have hxvq := xvq_of_fetched rfl hfetched
  have hnone : s.hart.vq.length ≤ 32 := by rw [hq]; decide
  refine ⟨hentered, ?_, saveArea_of_xvq hnone hxvq, fun na nb hna hnb => ?_⟩
  · rw [savedCount_of_xvq hnone hxvq, hq]
    rfl
  · have hp : t.hart.trap.priv = 2 := by rw [hfetched.hart]; rfl
    have hstate : entering (interrupted v c x { s with hart := emptiedHart s, quads := quads }) = entry 0 true := by
      have hquads : t.quads = quads := hfetched.quads
      have htrap : t.hart.trap = (entering (interrupted v c x { s with hart := emptiedHart s, quads := quads })).hart.trap := by
        rw [hfetched.hart]
      dsimp only [entry]
      rw [htrap, hquads]
      unfold entering interrupted
      rw [emptiedHart_of_empty hq]
      rfl
    rw [hstate] at hfetched
    have hform := exec_formQueue_both (p := entry 0 true) (q := entry na false) (pc := tvec) rfl rfl
      ((exec_succ_privileged (s := entry 0 true) hp tvec).trans hna)
      ((exec_succ_privileged (s := entry na false) hp na).trans hnb)
    have ht : t = _ := hfetched.formed _ hform
    exact ⟨congrArg (·.hart.fetch) ht, congrArg (·.hart.phase) ht⟩

theorem holdsEntries_congr {base : Nat} {es : List Entry} (hmem : t.mem = u.mem) (h : HoldsEntries u base es) :
    HoldsEntries t base es := fun i e hi k hk => by
  rw [← h i e hi k hk, State.memNat, hmem, State.memNat]

/-- An area with room for entries has room for their words (R45). -/
theorem SaveRoom.plainWords {n : Nat} (h : SaveRoom s n) : PlainWords s (saveArea s) (8 * n) := by
  obtain ⟨-, hspan⟩ := h
  refine plainWords_of_span ?_
  rw [← Nat.mul_assoc]
  exact hspan

theorem trapSavesEntries : Sys2Proof.Claim.TrapSavesEntries := by
  intro v c x e es s hq ans room t
  have hlen : s.hart.vq.length = es.length + 1 := by rw [hq, List.length_cons]
  rw [← hlen] at room ⊢
  obtain ⟨u, hsave, hrest, houtside, hholds⟩ := saveQueue_saves ans room.plainWords
  have hu : u.hart = emptiedHart s := by rw [hrest]
  have hfetched := takeTrap_fetched v c x hsave
  have hxvq := xvq_of_fetched hu hfetched
  refine ⟨entered_of_fetched hu hfetched, savedCount_of_xvq room.1 hxvq, saveArea_of_xvq room.1 hxvq, ?_, fun hrun => ?_⟩
  · have hcfg : t.hart.cfg = u.hart.cfg := by rw [hfetched.hart]; rfl
    rw [hcfg, hu, emptiedHart, reachedStart_of_oldest hq]
  · have hoff : u.myDie.ptEn = 0 := by rw [hrest]; exact room.2.1
    obtain ⟨-, -, -, -, hkept⟩ := hfetched.running hrun
    have hmem : t.mem = u.mem := (hkept hoff).1
    refine ⟨holdsEntries_congr hmem (hq ▸ hholds), fun a ha => ?_⟩
    rw [← houtside a ha, State.byteAt, hmem, State.byteAt]

end Sys2Proof.Machine

open Sys2Proof.Machine in
/-- Settles O12: with an empty vector queue, and with entries that the save area takes. -/
theorem Sys2Proof.trapEntry : Obligations.TrapEntry := ⟨trapRegisters, trapSavesEntries⟩

end

section
/-! ERET (settles O14): what it restores, and the saved entries that it puts back. -/

namespace Sys2Proof.Machine

variable {s t : State}

/-! ## Reading what was saved -/

theorem exec_rdmemAt_plain {v : Word} (hs : PlainWords s v.toNat 1) (ans : s.hart.unanswered = none)
    (clean : Clean s v.toNat 8) : (rdmemAt 2 .other v 8).exec s = (.ok (s.memNat v.toNat 8), s) := by
  unfold rdmemAt
  rw [exec_bind_ok (exec_translateAt_plain .load hs ans), exec_bind_ok (exec_checkPoison_clean _ _ _ _ clean),
    exec_bind_ok (exec_get s)]
  rfl

theorem exec_mapFrom_pure {α : Type} {f : Nat → M α} {g : Nat → α} {n k : Nat}
    (h : ∀ i, k ≤ i → i < k + n → (f i).exec s = (.ok (g i), s)) :
    (mapFrom n k f).exec s = (.ok ((List.range' k n).map g), s) := by
  induction n generalizing k with
  | zero => rfl
  | succ n ih =>
    rw [mapFrom, exec_bind_ok (h k (by omega) (by omega)), exec_bind_ok (ih fun i hi hi' => h i (by omega) (by omega))]
    rfl

theorem exec_forFrom_pure {f : Nat → M Unit} {n k : Nat} (h : ∀ i, k ≤ i → i < k + n → (f i).exec s = (.ok (), s)) :
    (forFrom n k f).exec s = (.ok (), s) := by
  induction n generalizing k with
  | zero => rfl
  | succ n ih => rw [forFrom, exec_bind_ok (h k (by omega) (by omega)), ih fun i hi hi' => h i (by omega) (by omega)]

theorem clean_sub {a n b m : Nat} (h : Clean s a n) (hb : a ≤ b) (hm : b + m ≤ a + n) : Clean s b m := fun p hp => by
  have := h p hp
  omega

/-- A slot that holds an entry reads as the entry's words (R47). -/
theorem exec_rdWords_slot {v : Word} {e : Entry} (hs : PlainWords s v.toNat 8) (ans : s.hart.unanswered = none)
    (clean : Clean s v.toNat 64) (he : ∀ k < 8, s.memNat (v.toNat + 8 * k) 8 = (slotWords e).getD k 0) :
    (rdWords 2 v 8).exec s = (.ok e.pack, s) := by
  have hlt := hs.2.1
  have haddr {i : Nat} (hi : i < 8) : (v + BitVec.ofNat 64 (8 * i)).toNat = v.toNat + 8 * i := by
    rw [BitVec.toNat_add, BitVec.toNat_ofNat, Nat.mod_eq_of_lt (by omega : 8 * i < 2 ^ 64), Nat.mod_eq_of_lt (by omega)]
  have hword {i : Nat} (hi : i < 8) : BitVec.ofNat 64 (s.memNat (v.toNat + 8 * i) 8) = e.pack.getD i 0 := by
    have hpack : (slotWords e).getD i 0 = (e.pack.getD i 0).toNat := by
      rw [← pack_toNat]
      exact List.getD_map e.pack (0 : Word) BitVec.toNat
    rw [he i hi, hpack, BitVec.ofNat_toNat, BitVec.setWidth_eq]
  unfold rdWords
  rw [exec_mapFrom_pure (g := fun i => e.pack.getD i 0)]
  · rfl
  · intro i _ hi
    have hspan : PlainWords s (v + BitVec.ofNat 64 (8 * i)).toNat 1 := by
      rw [haddr (by omega)]
      exact plainWords_sub hs (by omega)
    have hclean : Clean s (v + BitVec.ofNat 64 (8 * i)).toNat 8 := by
      rw [haddr (by omega)]
      exact clean_sub clean (by omega) (by omega)
    rw [exec_bind_ok (exec_rdmemAt_plain hspan ans hclean), haddr (by omega), hword (by omega)]
    rfl

theorem exec_readSlots {base : Word} {es : List Entry} {k : Nat}
    (h : ∀ j e, es[j]? = some e → (rdWords 2 (base + BitVec.ofNat 64 (64 * (k + j))) 8).exec s = (.ok e.pack, s)) :
    (readSlots base es.length k).exec s = (.ok (es.map Entry.pack), s) := by
  induction es generalizing k with
  | nil => rfl
  | cons e es ih =>
    have hrest := ih (k := k + 1) fun j e' hj => by
      rw [Nat.add_right_comm, Nat.add_assoc]
      exact h (j + 1) e' hj
    have hfirst : (rdWords 2 (base + BitVec.ofNat 64 (64 * k)) 8).exec s = (.ok e.pack, s) := h 0 e rfl
    rw [List.length_cons, readSlots, exec_bind_ok hfirst, exec_bind_ok hrest]
    rfl

/-! ## The entry that a slot holds -/

theorem extractLsb'_of_field {x : Word} {l w : Nat} {f : BitVec w} (h : x.toNat / 2 ^ l % 2 ^ w = f.toNat) :
    x.extractLsb' l w = f := by
  apply BitVec.eq_of_toNat_eq
  rw [BitVec.extractLsb'_toNat, Nat.shiftRight_eq_div_pow, h]

theorem unpack_pack_cfg (c : VConf) (h1 : 1 ≤ c.rcN) (h32 : c.rcN ≤ 32) : VConf.unpack c.pack.1 c.pack.2 = c := by
  change 1 ≤ c.rc.toNat at h1
  change c.rc.toNat ≤ 32 at h32
  have hvl := c.vl.isLt
  have het := c.etype.isLt
  have hps := c.psel.isLt
  have hgs := c.gsel.isLt
  have hvw := c.vwb.isLt
  have hes := c.estart.isLt
  have hmm := c.maskmode.isLt
  have hfr := c.frm.isLt
  have hw := toNat_pack_cfg c
  have hrc : (c.pack.1.extractLsb' 14 5).zeroExtend 6 + 1 = c.rc := by
    apply BitVec.eq_of_toNat_eq
    rw [BitVec.toNat_add, BitVec.toNat_setWidth, BitVec.extractLsb'_toNat, Nat.shiftRight_eq_div_pow, hw]
    change (_ % 2 ^ 5 % 2 ^ 6 + 1) % 2 ^ 6 = _
    omega
  unfold VConf.unpack
  rw [hrc, extractLsb'_of_field (f := c.vl) (by rw [hw]; omega), extractLsb'_of_field (f := c.etype) (by rw [hw]; omega),
    extractLsb'_of_field (f := c.psel) (by rw [hw]; omega), extractLsb'_of_field (f := c.gsel) (by rw [hw]; omega),
    extractLsb'_of_field (f := c.vwb) (by rw [hw]; omega), extractLsb'_of_field (f := c.estart) (by rw [hw]; omega),
    extractLsb'_of_field (f := c.maskmode) (by rw [hw]; omega), extractLsb'_of_field (f := c.frm) (by rw [hw]; omega)]
  have hmode : c.pack.2.extractLsb' 0 2 = c.mmode := by
    rw [VConf.pack, ← ofNat_eq_extractLsb']
    exact (congrArg (BitVec.ofNat 2) (BitVec.toNat_setWidth_of_le (by decide))).trans
      ((BitVec.ofNat_toNat 2 c.mmode).trans (BitVec.setWidth_eq c.mmode))
  rw [hmode]

/-- A saved entry comes back with its values; its address is a new one, and it has not begun (R48, log 12). -/
theorem unpack_pack (e : Entry) (pc : Word) (h1 : 1 ≤ e.cfg.rcN) (h32 : e.cfg.rcN ≤ 32) :
    Entry.unpack e.pack pc = { e with pc := pc, begun := false } := by
  have hword : (e.lit ++ e.word).extractLsb' 0 32 = e.word := BitVec.extractLsb'_append_eq_right
  have hlit : (e.lit ++ e.word).extractLsb' 32 32 = e.lit := BitVec.extractLsb'_append_eq_left
  change Entry.mk ((e.lit ++ e.word).extractLsb' 0 32) ((e.lit ++ e.word).extractLsb' 32 32) e.a0 e.a1 e.b0 e.b1
    (VConf.unpack e.cfg.pack.1 e.cfg.pack.2) pc false = _
  rw [hword, hlit, unpack_pack_cfg e.cfg h1 h32]

/-! ## The parts of ERET -/

/-- The entries of a list that are put back into the queue, each at a new address (R48, log 12). -/
def requeued (es : List Entry) (pcs : List Word) : List Entry :=
  List.zipWith (fun e pc => { e with pc := pc, begun := false }) es pcs

theorem exec_requeue {e : Entry} (h1 : 1 ≤ e.cfg.rcN) (h32 : e.cfg.rcN ≤ 32) (s : State) :
    (requeue e.pack).exec s = (.ok (), { s with
      freeCount := s.freeCount + 1
      hart := { s.hart with vq := s.hart.vq ++ [{ e with pc := Config.freeWord s.freeCount, begun := false }] } }) := by
  unfold requeue
  rw [exec_bind_ok (exec_freeWord s), unpack_pack e _ h1 h32]
  rfl

theorem exec_requeue_all {slots : List (List Word)} {es : List Entry} {k : Nat}
    (hslot : ∀ j e, es[j]? = some e → slots.getD (k + j) [] = e.pack) (hrc : ∀ e ∈ es, 1 ≤ e.cfg.rcN ∧ e.cfg.rcN ≤ 32) (s : State) :
    ∃ pcs, pcs.length = es.length ∧ (forFrom es.length k fun i => requeue (slots.getD i [])).exec s =
      (.ok (), { s with freeCount := s.freeCount + es.length, hart := { s.hart with vq := s.hart.vq ++ requeued es pcs } }) := by
  induction es generalizing k s with
  | nil => exact ⟨[], rfl, by rw [requeued, List.zipWith_nil_left, List.append_nil]; rfl⟩
  | cons e es ih =>
    obtain ⟨⟨h1, h32⟩, hrest⟩ := List.forall_mem_cons.1 hrc
    have hfirst : slots.getD k [] = e.pack := hslot 0 e rfl
    obtain ⟨pcs, hlen, hall⟩ := ih (k := k + 1) (fun j e' hj => by
      rw [Nat.add_right_comm, Nat.add_assoc]
      exact hslot (j + 1) e' hj) hrest { s with
        freeCount := s.freeCount + 1
        hart := { s.hart with vq := s.hart.vq ++ [{ e with pc := Config.freeWord s.freeCount, begun := false }] } }
    refine ⟨Config.freeWord s.freeCount :: pcs, by rw [List.length_cons, hlen, List.length_cons], ?_⟩
    rw [List.length_cons, forFrom, hfirst, exec_bind_ok (exec_requeue h1 h32 s), hall]
    dsimp only
    rw [List.append_assoc, Nat.add_assoc, Nat.add_comm 1]
    rfl

theorem exec_checkSlot {e : Entry} {ppriv : BitVec 2} (i : Nat) (hv : isVectorWord e.word = true)
    (hp : isPrivilegedVectorWord e.word = true → ppriv = 2) (s : State) : (checkSlot ppriv i e.pack).exec s = (.ok (), s) := by
  have hword : (e.pack.getD 0 0).extractLsb' 0 32 = e.word := BitVec.extractLsb'_append_eq_right
  have hpriv : (isPrivilegedVectorWord e.word && ppriv != 2) = false := by
    rw [Bool.and_eq_false_imp]
    intro h
    rw [hp h]
    rfl
  unfold checkSlot
  dsimp only
  rw [hword, exec_bind_ok (exec_trapIf_false (by rw [hv]; rfl) _ _ s), exec_trapIf_false hpriv]

/-- The hart as ERET leaves it where the interrupted sequence had both its queued addresses (R126). -/
def resumed (h : Hart) : Hart :=
  { h with
    trap := { h.trap with priv := h.trap.ppriv, ie := h.trap.pie }
    fetch := ⟨h.trap.xpc, h.trap.xna, h.trap.xnb, h.trap.xflags.getLsbD 0, h.trap.xflags.getLsbD 1, false, false, false⟩ }

theorem exec_formQueue_formed (hnaf : s.hart.fetch.naf = false) (hnbf : s.hart.fetch.nbf = false) :
    formQueue.exec s = (.ok (), s) := by
  unfold formQueue
  rw [exec_bind_ok (exec_getHart s)]
  simp only [hnaf, Bool.false_eq_true, if_false]
  rw [exec_bind_ok (exec_getHart s), hnbf]
  rfl

theorem exec_restoreFetch (h2 : s.hart.trap.xflags.getLsbD 2 = false) (h3 : s.hart.trap.xflags.getLsbD 3 = false) :
    restoreFetch.exec s = (.ok (), { s with hart := resumed s.hart }) := by
  have hform := exec_formQueue_formed (s := { s with hart := resumed s.hart }) rfl rfl
  unfold restoreFetch
  rw [exec_bind_ok (exec_modTrapRegs _ s), exec_bind_ok (exec_modHart _ _)]
  dsimp only
  rw [h2, h3, exec_bind_ok (exec_attempt formQueue _)]
  exact congrArg (fun r => (Except.ok (ε := Stop) (), r)) (congrArg Prod.snd hform)

/-- The entries `es` are in the queue, at the addresses `pcs`, and COUNT is 0 (R48). -/
def putBack (s : State) (es : List Entry) (pcs : List Word) : State :=
  { s with
    freeCount := s.freeCount + es.length
    hart := { s.hart with
      vq := requeued es pcs
      trap := { s.hart.trap with xvq := BitVec.ofNat 64 (saveArea s) } } }

/-- What ERET leaves when it puts back the entries `es` at the addresses `pcs` (R48, R126). -/
def eretState (s : State) (es : List Entry) (pcs : List Word) : State :=
  { putBack s es pcs with hart := resumed (putBack s es pcs).hart }

/-- ERET puts back the entries that its area holds, where each is one that may run (R48). -/
theorem exec_eret {es : List Entry} (hp : s.hart.trap.priv = 2) (hq : s.hart.vq = []) (hlen : es.length ≤ 32)
    (hcount : savedCount s = es.length)
    (hslots : (readSlots (BitVec.ofNat 64 (saveArea s)) es.length 0).exec s = (.ok (es.map Entry.pack), s))
    (hes : ∀ e ∈ es, isVectorWord e.word = true ∧ 1 ≤ e.cfg.rcN ∧ e.cfg.rcN ≤ 32 ∧
      (isPrivilegedVectorWord e.word = true → s.hart.trap.ppriv = 2))
    (h2 : s.hart.trap.xflags.getLsbD 2 = false) (h3 : s.hart.trap.xflags.getLsbD 3 = false) :
    ∃ pcs, pcs.length = es.length ∧ exec .eret s = .next (eretState s es pcs) := by
  have hslot (j : Nat) (e : Entry) (hj : es[j]? = some e) : (es.map Entry.pack).getD (0 + j) [] = e.pack := by
    rw [Nat.zero_add, List.getD_eq_getElem?_getD, List.getElem?_map, hj]
    rfl
  obtain ⟨pcs, hpcs, hall⟩ := exec_requeue_all hslot (fun e he => ⟨(hes e he).2.1, (hes e he).2.2.1⟩) s
  refine ⟨pcs, hpcs, (runScalar_ok (fl := .placed) (t := eretState s es pcs) ?_).trans rfl⟩
  have hchecks : (forN es.length fun i => checkSlot s.hart.trap.ppriv i ((es.map Entry.pack).getD i [])).exec s = (.ok (), s) := by
    refine exec_forFrom_pure fun i _ hi => ?_
    obtain ⟨e, he⟩ : ∃ e, es[i]? = some e := ⟨es[i]'(by omega), List.getElem?_eq_getElem _⟩
    obtain ⟨hv, -, -, hpriv⟩ := hes e (List.mem_of_getElem? he)
    have hword := hslot i e he
    rw [Nat.zero_add] at hword
    rw [hword]
    exact exec_checkSlot i hv hpriv s
  have hfits : ¬32 < s.hart.vq.length + es.length := by
    rw [hq, List.length_nil]
    omega
  have harea : BitVec.ofNat 64 (bitsOf s.hart.trap.xvq.toNat 51 5 * 32) = BitVec.ofNat 64 (saveArea s) := rfl
  rw [savedCount] at hcount
  rw [exec_bind_ok (exec_needSupervisor s ▸ if_pos hp), exec_bind_ok (exec_getHart s)]
  dsimp only
  rw [hcount, harea, exec_bind_ok hslots, exec_bind_ok hchecks, if_neg hfits, forN, exec_bind_ok hall]
  rw [hq, List.nil_append, exec_bind_ok (exec_modTrapRegs _ _)]
  exact (exec_bind_ok (exec_restoreFetch (s := putBack s es pcs) h2 h3)).trans rfl

/-- With no saved entry ERET restores the sequence (R126). -/
theorem exec_eret_empty (hp : s.hart.trap.priv = 2) (hq : s.hart.vq = []) (hcount : savedCount s = 0)
    (h2 : s.hart.trap.xflags.getLsbD 2 = false) (h3 : s.hart.trap.xflags.getLsbD 3 = false) :
    exec .eret s = .next { s with
      hart := resumed { s.hart with trap := { s.hart.trap with xvq := BitVec.ofNat 64 (saveArea s) } } } := by
  obtain ⟨pcs, hpcs, heret⟩ := exec_eret (es := []) hp hq (Nat.zero_le _) hcount rfl (fun e he => absurd he List.not_mem_nil) h2 h3
  have hnone : requeued [] pcs = s.hart.vq := by rw [hq]; rfl
  rw [heret, eretState, putBack, hnone]
  rfl

theorem eretRestores : Sys2Proof.Claim.EretResults := fun _ =>
  ⟨exec_eret_empty, fun hp => runScalar_trapWord (exec_bind_error ((exec_needSupervisor _).trans (if_neg hp)))⟩

/-! ## A trap and ERET -/

/-- The low two bits of an aligned address are clear. -/
theorem and_not_three_of_aligned {v : Word} (h : v.toNat % 4 = 0) : v &&& ~~~3 = v := by
  have h3 : v &&& 3 = 0#64 := by
    apply BitVec.eq_of_toNat_eq
    rw [BitVec.toNat_and]
    exact (Nat.and_two_pow_sub_one_eq_mod v.toNat 2).trans h
  apply BitVec.eq_of_getLsbD_eq
  intro i hi
  have hclear := congrArg (·.getLsbD i) h3
  rw [BitVec.getLsbD_and, BitVec.getLsbD_zero] at hclear
  rw [BitVec.getLsbD_and, BitVec.getLsbD_not, decide_eq_true hi, Bool.true_and]
  have hbits : ∀ x y : Bool, (x && y) = false → (x && !y) = x := by decide
  exact hbits _ _ hclear

theorem fetch_eq_of_formed {f : Fetch} (hnbf : f.nbf = false) (hnaf : f.naf = false) (hwaiting : f.waiting = false) :
    (⟨f.pc, f.na, f.nb, f.apc, f.ana, false, false, false⟩ : Fetch) = f := by
  cases f
  cases hnbf
  cases hnaf
  cases hwaiting
  rfl

theorem trapThenEret : Sys2Proof.Claim.TrapThenEret := by
  intro v c x s hq hpc hna hnb hnbf hnaf hwaiting
  obtain ⟨hentered, hcount, -, -⟩ := trapRegisters v c x s hq
  obtain ⟨exc, exa, exb, ef0, ef1, ef2, ef3, -, -, eppriv, epie, epriv, -, -, -, -, eras, -, -, esregs, -, -, evq⟩ := hentered
  rw [hnbf, hnaf] at ef2
  rw [hnaf] at ef3
  refine ⟨_, exec_eret_empty epriv evq hcount ef2 ef3, ?_, eppriv, epie, evq, esregs, eras⟩
  unfold resumed
  dsimp only
  rw [exc, exa, exb, ef0, ef1, and_not_three_of_aligned hpc, and_not_three_of_aligned hna, and_not_three_of_aligned hnb]
  exact fetch_eq_of_formed hnbf hnaf hwaiting

theorem eretRequeues : Sys2Proof.Claim.EretRequeues := by
  intro es s hp hq ans hcount room clean hholds hes h2 h3
  have hslots : (readSlots (BitVec.ofNat 64 (saveArea s)) es.length 0).exec s = (.ok (es.map Entry.pack), s) := by
    refine exec_readSlots fun j e hj => ?_
    have hin : j < es.length := (List.getElem?_eq_some_iff.1 hj).1
    have hlt := room.2.2.1
    have haddr : (BitVec.ofNat 64 (saveArea s) + BitVec.ofNat 64 (64 * (0 + j))).toNat = saveArea s + 64 * j := by
      rw [BitVec.toNat_add, toNat_ofNat_saveArea, BitVec.toNat_ofNat, Nat.zero_add,
        Nat.mod_eq_of_lt (by omega : 64 * j < 2 ^ 64), Nat.mod_eq_of_lt (by omega)]
    refine exec_rdWords_slot ?_ ans ?_ ?_
    · have hwords := plainWords_sub (k := 8 * j) (m := 8) room.plainWords (by omega)
      rwa [← Nat.mul_assoc, ← haddr] at hwords
    · rw [haddr]; exact clean_sub clean (by omega) (by omega)
    · rw [haddr]; exact hholds j e hj
  obtain ⟨pcs, hpcs, heret⟩ := exec_eret hp hq room.1 hcount hslots hes h2 h3
  exact ⟨pcs, _, hpcs, heret⟩

/-- Settles O14: ERET with no entry, after a trap, and with saved entries. -/
theorem eretResults : Obligations.EretResults := ⟨eretRestores, trapThenEret, eretRequeues⟩

end Sys2Proof.Machine
end

section
/-! Dispatch into a vector queue that holds entries, and traps in the vector stream (settles O21). -/

namespace Sys2Proof.Machine

variable {s t : State} {op : VOp} {w lit : BitVec 32} {perform : Entry → M Unit}

/-! ## Dispatch -/

/-- The checks of R416 pass; what is left is the room in the queue and the entry's place in it. -/
theorem exec_dispatchEntry_checked (hd : Dispatches op s) (hpriv : op.privileged = false) (hc : op.check = fun _ => pure ())
    (ha : op.atDispatch = fun e => pure e) :
    (dispatchEntry w lit op).exec s =
      if 32 ≤ s.hart.vq.length || (op.serial && !s.hart.vq.isEmpty) then (.error .block, s)
      else (.ok (entryOf s w lit op.a op.b op.whole),
        { s with hart := { s.hart with vq := s.hart.vq ++ [entryOf s w lit op.a op.b op.whole] } }) := by
  have hlive : (s.hart.task.vrel && !op.afterVrel) = false := by
    rcases hd.live with h | h <;> rw [h]
    · rfl
    · exact Bool.and_false _
  unfold dispatchEntry
  rw [exec_bind_ok (exec_getHart s)]
  simp only [hc, ha, hpriv, Bool.false_eq_true, if_false, exec_bind, exec_trapIf, hlive, hd.etype, exec_capCheck _ _ hd.capA,
    exec_capCheck _ _ hd.capB, exec_pure, Bool.not_true]
  split <;> rfl

/-- An element type that the function does not take is refused (R127). -/
theorem exec_dispatchEntry_refused (hpriv : op.privileged = false) (hlive : s.hart.task.vrel = false)
    (htype : op.etypes s.hart.cfg.et = false) : (dispatchEntry w lit op).exec s = (.error (.trapWord .ill), s) := by
  have hl : (s.hart.task.vrel && !op.afterVrel) = false := by rw [hlive, Bool.false_and]
  unfold dispatchEntry
  rw [exec_bind_ok (exec_getHart s)]
  simp only [hpriv, Bool.false_eq_true, if_false, exec_bind, exec_trapIf, hl, htype, Bool.not_false, if_true]
  rfl

theorem dispatchV_refused (hpriv : op.privileged = false) (hlive : s.hart.task.vrel = false)
    (htype : op.etypes s.hart.cfg.et = false) :
    dispatchV w lit op perform s = .next (takeTrap false .ill (w.zeroExtend 64) s) := by
  unfold dispatchV
  rw [exec_dispatchEntry_refused hpriv hlive htype]

/-- Behind older entries, or where the vector unit lags, an entry waits in the queue (R25, R26). -/
theorem dispatchV_queues (hd : Dispatches op s) (hpriv : op.privileged = false) (hc : op.check = fun _ => pure ())
    (ha : op.atDispatch = fun e => pure e) (hserial : op.serial = false) (hroom : s.hart.vq.length < 32)
    (hwait : s.hart.vq ≠ [] ∨ s.lag = true) :
    dispatchV w lit op perform s =
      .next (State.passed { s with hart := { s.hart with vq := s.hart.vq ++ [entryOf s w lit op.a op.b op.whole] } }) := by
  have hfree : (decide (32 ≤ s.hart.vq.length) || (op.serial && !s.hart.vq.isEmpty)) = false := by
    rw [hserial, Bool.false_and, Bool.or_false]
    exact decide_eq_false (Nat.not_le.2 hroom)
  unfold dispatchV
  rw [exec_dispatchEntry_checked hd hpriv hc ha, if_neg (by rw [hfree]; decide)]
  change (if _ then _ else _) = _
  refine if_neg ?_
  change ¬(decide ((State.passed _).hart.vq.length = 1) && (op.serial || !(State.passed _).lag)) = true
  rw [passed_vq, passed_lag, hserial, Bool.false_or, Bool.and_eq_true, decide_eq_true_iff, List.length_append]
  rintro ⟨hone, hlag⟩
  rcases hwait with hq | hl
  · exact hq (List.length_eq_zero_iff.1 (Nat.succ.inj hone))
  · change (!s.lag) = true at hlag
    rw [hl] at hlag
    cases hlag

/-- With 32 entries in the queue the instruction waits (R416). -/
theorem dispatchV_waits (hd : Dispatches op s) (hpriv : op.privileged = false) (hc : op.check = fun _ => pure ())
    (ha : op.atDispatch = fun e => pure e) (hfull : 32 ≤ s.hart.vq.length) :
    dispatchV w lit op perform s = .next { s with parked := true } := by
  unfold dispatchV
  rw [exec_dispatchEntry_checked hd hpriv hc ha, if_pos (by rw [decide_eq_true hfull]; rfl)]

theorem capOk_capOf {b : VSrc} (hb : VSrcOk s b) : CapOk s.hart (capOf b) := by
  cases b with
  | vs n => exact hb
  | vv n => trivial
  | vi x => trivial
  | vl x => trivial

theorem vectorQueued : Sys2Proof.Claim.VectorDispatch := by
  intro d a b m s hlive hb ha htype queues
  have hadd : Dispatches { etypes := isIntType, b := capOf b } s :=
    ⟨fun h => (by cases h), .inl hlive, decide_eq_true htype, trivial, capOk_capOf hb⟩
  have hld : Dispatches { etypes := upTo11, a := .scalar a } s :=
    ⟨fun h => (by cases h), .inl hlive, decide_eq_true (by omega), ha, trivial⟩
  exact ⟨fun hroom hwait => ⟨dispatchV_queues hadd rfl rfl rfl rfl hroom hwait, dispatchV_queues hld rfl rfl rfl rfl hroom hwait⟩,
    fun hfull => ⟨dispatchV_waits hadd rfl rfl rfl hfull, dispatchV_waits hld rfl rfl rfl hfull⟩⟩

/-! ## Traps in the vector stream -/

/-- The oldest entry e has begun, and no strips are left: the state in which its trap is taken (R45). -/
def begunState (e : Entry) (q : State) : State :=
  { q with hart := { q.hart with
    vq := [{ e with begun := true }]
    vec := { q.hart.vec with strips := [], outs := [] } } }

@[simp] theorem begunState_trap (e : Entry) (q : State) : (begunState e q).hart.trap = q.hart.trap := rfl
@[simp] theorem begunState_rows (e : Entry) (q : State) : (begunState e q).hart.vec.rows = q.hart.vec.rows := rfl
@[simp] theorem begunState_unanswered (e : Entry) (q : State) : (begunState e q).hart.unanswered = q.hart.unanswered := rfl
@[simp] theorem begunState_vq (e : Entry) (q : State) : (begunState e q).hart.vq = [{ e with begun := true }] := rfl

theorem plainWords_begunState {a n : Nat} {q : State} (e : Entry) (h : PlainWords q a n) : PlainWords (begunState e q) a n :=
  plainWords_congr rfl rfl rfl h

/-- An entry that traps before it changes anything is saved, and its trap is taken with V set (R45). -/
theorem exec_executeHead_trap {e : Entry} {c : Cause} {v : Word} {q : State} (hq : q.hart.vq = [e])
    (hp : (perform e).exec q = (.error (.trap c v), q)) :
    ((executeHead perform).exec q).2 = takeTrap true c v (begunState e q) := by
  have hbegun : markBegun.exec { q with hart := { q.hart with vec := { q.hart.vec with strips := [], outs := [] } } } =
      (.ok (), begunState e q) := by
    unfold markBegun begunState
    rw [exec_modHart]
    dsimp only
    rw [hq]
  have hstill : ([] : List Entry).length < q.hart.vq.length := by rw [hq]; exact Nat.one_pos
  unfold executeHead
  rw [exec_bind_ok (exec_getHart q), hq]
  dsimp only
  rw [exec_bind_ok (exec_attempt _ q), hp, dropStrips, exec_bind_ok (exec_modVec _ q)]
  dsimp only
  rw [exec_bind_ok (exec_getHart _)]
  dsimp only at hbegun ⊢
  rw [if_pos hstill, exec_bind_ok hbegun]
  rfl

/-- Going on with translation off leaves the area's words plain (R316). -/
theorem plainWords_passed {a n : Nat} (h : PlainWords s a n) : PlainWords s.passed a n := by
  obtain ⟨-, -, -, -, hoff⟩ := passed_fetched s
  exact plainWords_congr (passed_id s) (hoff h.1).2 (passed_pkgs s) h

theorem dispatchV_traps {c : Cause} {v : Word} (hr : Ready s) (hd : Dispatches op s) (hc : op.check = fun _ => pure ())
    (ha : op.atDispatch = fun e => pure e) (area : SaveAreaOk s)
    (hp : (perform (entryOf s w lit op.a op.b op.whole)).exec (s.queued (entryOf s w lit op.a op.b op.whole)) =
      (.error (.trap c v), s.queued (entryOf s w lit op.a op.b op.whole))) :
    ∃ t, dispatchV w lit op perform s = .next t ∧ t.hart.trap.cause = 1#1 ++ c.code ∧ t.hart.trap.xval = v ∧
      t.hart.vec.rows = s.hart.vec.rows ∧ t.hart.vq = [] := by
  have hlen : (s.queued (entryOf s w lit op.a op.b op.whole)).hart.vq = [entryOf s w lit op.a op.b op.whole] := passed_vq _
  have hlag : (s.queued (entryOf s w lit op.a op.b op.whole)).lag = false := (passed_lag _).trans hr.prompt
  have hrun : dispatchV w lit op perform s = .next (takeTrap true c v
      (begunState (entryOf s w lit op.a op.b op.whole) (s.queued (entryOf s w lit op.a op.b op.whole)))) := by
    unfold dispatchV
    rw [exec_dispatchEntry w lit op s hd hc ha hr.empty, ← exec_executeHead_trap hlen hp]
    change (if _ then _ else _) = _
    refine if_pos ?_
    change (decide ((s.queued _).hart.vq.length = 1) && (op.serial || !(s.queued _).lag)) = true
    rw [hlen, hlag]
    exact Bool.or_true _
  generalize hu : begunState (entryOf s w lit op.a op.b op.whole) (s.queued (entryOf s w lit op.a op.b op.whole)) = u at hrun
  have htrap : u.hart.trap = s.hart.trap := by rw [← hu, begunState_trap, State.queued, passed_trap]
  have hvec : u.hart.vec.rows = s.hart.vec.rows := by rw [← hu, begunState_rows, State.queued, passed_vec]
  have ans : u.hart.unanswered = none := by
    rw [← hu, begunState_unanswered]
    exact passed_answered (s := { s with hart := { s.hart with vq := _ } }) hr.answered
  have harea : saveArea u = saveArea s := by rw [saveArea, htrap, saveArea]
  have hone : u.hart.vq.length = 1 := by rw [← hu, begunState_vq]; rfl
  have hplain : PlainWords u (saveArea u) (8 * u.hart.vq.length) := by
    rw [harea, hone, ← hu]
    have hqueued : PlainWords { s with hart := { s.hart with vq := [entryOf s w lit op.a op.b op.whole] } } (saveArea s) 8 :=
      plainWords_congr rfl rfl rfl area
    exact plainWords_begunState _ (plainWords_passed hqueued)
  obtain ⟨p, hsave, hsaved⟩ := saveQueue_saves ans hplain
  have hentered : Entered true c v u (takeTrap true c v u) :=
    entered_of_fetched (by rw [hsaved.rest]) (takeTrap_fetched true c v hsave)
  obtain ⟨-, -, -, -, -, -, -, hcause, hxval, -, -, -, -, -, -, -, -, -, -, -, -, hrows, hempty⟩ := hentered
  exact ⟨_, hrun, hcause, hxval, (congrArg VecRegs.rows hrows).trans hvec, hempty⟩

/-! ## The first checks of an entry -/

/-- A mask reaches no position past 1,024 (R129). -/
theorem exec_maskVl_bad {c : VConf} (h : 1024 < c.vlN) (s : State) :
    (maskVl c 1).exec s = (.error (.trap .matf (BitVec.ofNat 64 c.vlN)), s) := by
  rw [maskVl, if_pos rfl, needPredVl, exec_trapIf, if_pos (decide_eq_true h)]

theorem exec_checkRowsNat_bad {c : VConf} {first count : Nat} {field : BitVec 7}
    (h : ¬(first + count - 1 ≤ 127 ∧ c.vwb.toNat + first + count - 1 < s.hart.sys.rowsN.toNat)) :
    (checkRowsNat c first count field).exec s = (.error (.trap .winf (field.zeroExtend 64)), s) := by
  unfold checkRowsNat
  rw [exec_bind_ok (exec_getHart s), exec_trapIf, if_pos]
  rw [Bool.or_eq_true, decide_eq_true_iff, decide_eq_true_iff]
  omega

/-- The rows of the first operand are checked before anything else is done (R23). -/
theorem exec_vrun_bad {c : VConf} {o : Opnd} {os : List Opnd} {body : M Unit} {e : Stop}
    (h : (checkRowsNat c o.first o.rows o.field).exec s = (.error e, s)) : (vrun c (o :: os) body).exec s = (.error e, s) :=
  exec_bind_error (exec_bind_error (exec_bind_error h))

theorem vectorTraps : Sys2Proof.Claim.VectorTraps := by
  intro d a b s hr hb area
  have hadd (htype : s.hart.cfg.et < 5) : Dispatches { etypes := isIntType, b := capOf b } s :=
    ⟨fun h => (by cases h), .inl hr.live, decide_eq_true htype, trivial, capOk_capOf hb⟩
  refine ⟨fun htype => ?_, fun htype => ?_, fun htype hvl => ?_, fun htype hrows => ?_⟩
  · exact dispatchV_refused rfl hr.live (decide_eq_false (Nat.not_lt.2 htype))
  · refine dispatchV_refused rfl hr.live ?_
    change (s.hart.cfg.et == 5 || s.hart.cfg.et == 6 || s.hart.cfg.et == 7) = false
    simp only [Bool.or_eq_false_iff, beq_eq_false_iff_ne]
    omega
  · exact dispatchV_traps hr (hadd htype) rfl rfl area (exec_bind_error (exec_maskVl_bad hvl _))
  · refine dispatchV_traps hr (hadd htype) rfl rfl area ?_
    refine (exec_bind_ok (x := ()) rfl).trans (exec_vrun_bad (exec_checkRowsNat_bad fun hin => hrows ?_))
    rwa [State.queued, passed_sys] at hin

/-- Settles O21: entries that wait, and entries that trap. -/
theorem vectorDispatch : Obligations.VectorDispatch := ⟨vectorQueued, vectorTraps⟩

end Sys2Proof.Machine
end

section
/-! The decoder and the encoder agree (settles O54, O56 and O57): the fields of a word, the b operand of the V format, and what
the decoder makes of the word of each instruction. -/

namespace Sys2Proof

variable {i : Instr} {r : RWord} {w lit : BitVec 32}

/-! ## The fields of a word -/

@[simp] theorem RWord.ofWord_toWord (r : RWord) : RWord.ofWord r.toWord = r := by
  unfold RWord.ofWord RWord.toWord
  simp (disch := decide) only [BitVec.extractLsb'_append_eq_of_le, Nat.reduceSub, BitVec.extractLsb'_append_eq_right,
    BitVec.extractLsb'_eq_self]

@[simp] theorem RWord.toWord_ofWord (w : BitVec 32) : (RWord.ofWord w).toWord = w := by
  unfold RWord.ofWord RWord.toWord
  simp only [BitVec.extractLsb'_append_extractLsb'_eq_extractLsb', BitVec.extractLsb'_eq_self]

theorem Instr.word_of_encodeR (h : i.encodeR = some r) : i.word = r.toWord := by
  unfold Instr.word
  rw [h]

theorem decode_ok_iff : decode w lit = .ok i ↔
    candidate (RWord.ofWord w) lit = .ok i ∧ i.encodeR = some (RWord.ofWord w) ∧ i.wf = true := by
  unfold decode
  cases candidate (RWord.ofWord w) lit with
  | error e => exact ⟨nofun, nofun⟩
  | ok j =>
    dsimp only
    constructor
    · intro h
      split at h
      · next hj => cases h; exact ⟨rfl, hj⟩
      · cases h
    · rintro ⟨hj, hi⟩
      cases hj
      exact if_pos hi

/-! ## The V format -/

theorem hasLiteral_toWord (r : RWord) :
    hasLiteral r.toWord = (r.op.extractLsb' 4 2 == 1#2 && r.op.extractLsb' 0 2 == 3#2) := by
  unfold hasLiteral RWord.toWord
  simp (disch := decide) only [BitVec.extractLsb'_append_eq_of_le, Nat.reduceSub]

/-- The b operand of an encoded instruction, read back from its form and its field (R56); the literal matters to its own form only. -/
theorem VSrc.ofForm_form_field {k : BitVec 4} {d a : BitVec 7} {b : VSrc} {fn : BitVec 5} (hk : k.extractLsb' 2 2 = 1#2)
    (hlit : hasLiteral (RWord.mk (k ++ b.form) d a b.field fn).toWord = false ∨ lit = b.lit) :
    VSrc.ofForm b.form b.field lit = b := by
  cases b with
  | vv b | vs b | vi b => rfl
  | vl x =>
    have hvl : hasLiteral (RWord.mk (k ++ 3#2) d a 0#7 fn).toWord = true := by
      rw [hasLiteral_toWord]
      simp (disch := decide) only [BitVec.extractLsb'_append_eq_of_le, Nat.reduceSub, BitVec.extractLsb'_append_eq_right, hk]
      rfl
    have hx : lit = x := hlit.resolve_left fun h => ne_true_of_eq_false h hvl
    rw [hx]
    rfl

/-- The four majors on one base, by form (R56). -/
theorem op_eq_of_formBase {op : BitVec 6} {k : BitVec 4} (h : op.extractLsb' 2 4 = k) :
    op = k ++ 0#2 ∨ op = k ++ 1#2 ∨ op = k ++ 2#2 ∨ op = k ++ 3#2 := by
  subst h
  revert op
  decide

theorem candidate_of_vintMajor (h : r.op.extractLsb' 2 4 = 4#4) : candidate r lit = cand10 r lit := by
  unfold candidate
  rcases op_eq_of_formBase h with h | h | h | h <;> rw [h] <;> rfl

theorem candidate_of_vfpMajor (h : r.op.extractLsb' 2 4 = 5#4) : candidate r lit = cand14 r lit := by
  unfold candidate
  rcases op_eq_of_formBase h with h | h | h | h <;> rw [h] <;> rfl

theorem candidate_of_vmacMajor (h : r.op.extractLsb' 2 4 = 6#4) : candidate r lit = cand18 r lit := by
  unfold candidate
  rcases op_eq_of_formBase h with h | h | h | h <;> rw [h] <;> rfl

theorem candidate_of_vcmpMajor (h : r.op.extractLsb' 2 4 = 7#4) : candidate r lit = cand1C r lit := by
  unfold candidate
  rcases op_eq_of_formBase h with h | h | h | h <;> rw [h] <;> rfl

@[simp] theorem candidate_vintForm (b : VSrc) (d a n : BitVec 7) (fn : BitVec 5) :
    candidate ⟨4#4 ++ b.form, d, a, n, fn⟩ lit = cand10 ⟨4#4 ++ b.form, d, a, n, fn⟩ lit :=
  candidate_of_vintMajor BitVec.extractLsb'_append_eq_left

@[simp] theorem candidate_vfpForm (b : VSrc) (d a n : BitVec 7) (fn : BitVec 5) :
    candidate ⟨5#4 ++ b.form, d, a, n, fn⟩ lit = cand14 ⟨5#4 ++ b.form, d, a, n, fn⟩ lit :=
  candidate_of_vfpMajor BitVec.extractLsb'_append_eq_left

@[simp] theorem candidate_vmacForm (b : VSrc) (d a n : BitVec 7) (fn : BitVec 5) :
    candidate ⟨6#4 ++ b.form, d, a, n, fn⟩ lit = cand18 ⟨6#4 ++ b.form, d, a, n, fn⟩ lit :=
  candidate_of_vmacMajor BitVec.extractLsb'_append_eq_left

@[simp] theorem candidate_vcmpForm (b : VSrc) (d a n : BitVec 7) (fn : BitVec 5) :
    candidate ⟨7#4 ++ b.form, d, a, n, fn⟩ lit = cand1C ⟨7#4 ++ b.form, d, a, n, fn⟩ lit :=
  candidate_of_vcmpMajor BitVec.extractLsb'_append_eq_left

/-! ## The majors of the families whose function codes leave bits to operands (R61) -/

section Majors

variable (d a b : BitVec 7) (fn : BitVec 5)

@[simp] theorem candidate_shi : candidate ⟨6#6, d, a, b, fn⟩ lit = cand06 ⟨6#6, d, a, b, fn⟩ := rfl
@[simp] theorem candidate_ld : candidate ⟨8#6, d, a, b, fn⟩ lit = cand08 ⟨8#6, d, a, b, fn⟩ := rfl
@[simp] theorem candidate_st : candidate ⟨9#6, d, a, b, fn⟩ lit = cand09 ⟨9#6, d, a, b, fn⟩ := rfl
@[simp] theorem candidate_ldxStx : candidate ⟨10#6, d, a, b, fn⟩ lit = cand0A ⟨10#6, d, a, b, fn⟩ := rfl
@[simp] theorem candidate_vfp : candidate ⟨20#6, d, a, b, fn⟩ lit = cand14 ⟨20#6, d, a, b, fn⟩ lit := rfl
@[simp] theorem candidate_vmov : candidate ⟨32#6, d, a, b, fn⟩ lit = cand20 ⟨32#6, d, a, b, fn⟩ := rfl
@[simp] theorem candidate_vred : candidate ⟨33#6, d, a, b, fn⟩ lit = cand21 ⟨33#6, d, a, b, fn⟩ := rfl
@[simp] theorem candidate_vcvt : candidate ⟨34#6, d, a, b, fn⟩ lit = cand22 ⟨34#6, d, a, b, fn⟩ := rfl
@[simp] theorem candidate_vmem : candidate ⟨36#6, d, a, b, fn⟩ lit = cand24 ⟨36#6, d, a, b, fn⟩ := rfl
@[simp] theorem candidate_ord : candidate ⟨38#6, d, a, b, fn⟩ lit = cand26 ⟨38#6, d, a, b, fn⟩ := rfl
@[simp] theorem candidate_mat : candidate ⟨39#6, d, a, b, fn⟩ lit = cand27 ⟨39#6, d, a, b, fn⟩ := rfl
@[simp] theorem candidate_copy : candidate ⟨42#6, d, a, b, fn⟩ lit = cand2A ⟨42#6, d, a, b, fn⟩ := rfl
@[simp] theorem candidate_key : candidate ⟨44#6, d, a, b, fn⟩ lit = cand2C ⟨44#6, d, a, b, fn⟩ := rfl
@[simp] theorem candidate_quad : candidate ⟨45#6, d, a, b, fn⟩ lit = cand2D ⟨45#6, d, a, b, fn⟩ := rfl
@[simp] theorem candidate_task : candidate ⟨46#6, d, a, b, fn⟩ lit = cand2E ⟨46#6, d, a, b, fn⟩ := rfl
@[simp] theorem candidate_gath : candidate ⟨47#6, d, a, b, fn⟩ lit = cand2F ⟨47#6, d, a, b, fn⟩ := rfl
@[simp] theorem candidate_near : candidate ⟨55#6, d, a, b, fn⟩ lit = cand37 ⟨55#6, d, a, b, fn⟩ := rfl
@[simp] theorem candidate_fab : candidate ⟨56#6, d, a, b, fn⟩ lit = cand38 ⟨56#6, d, a, b, fn⟩ := rfl

end Majors

/-! ## Decoding what was encoded -/

/-- R54–R58: the major and the function code of an encoded word name the instruction, whatever the operands packed beside the code,
and every operand is read back from where its format puts it. -/
theorem candidate_encodeR (h : i.encodeR = some r) (hlit : hasLiteral r.toWord = false ∨ lit = i.lit) :
    candidate r lit = .ok i := by
  obtain ⟨op, rd, ra, rb, fn⟩ := r
  cases i with
  -- the function code alone is beside whole operands
  | add | sub | and | or | xor | andn | orn | sll | srl | sra | ror | mul | mulh | mulhu | div | divu | rem | remu | min
  | max | minu | maxu | addw | subw | seq | sne | slt | sge | sltu | sgeu | clz | ctz | popc | sextb | sexth | sextw
  | zextb | zexth | zextw | bswap | fadd | fsub | fmul | fdiv | fsqrt | fmin | fmax | feq | flt | fle | fclass | fcvtsw
  | fcvtswu | fcvtws | fcvtwus | fcvths | fcvtsh | fcvtbs | fcvtsb | fmadd | fmsub | fnmadd | fnmsub | amask | asoft
  | pand | por | pxor | pandn | pnot | pall | pnone | ppop | pfirst | pany | psel | pfromv | ptov | pld | pst | vsel
  | viota | vcompress | vexpand | vtos | vzip | vunzip | vtox | xtov | vmerge | vmerges | vinter | vuniq | vdiff | vuniqc
  | vmot | vmto | mshape | tzero | tld | tst | tldp | tstp | gtest | gset | sunbind | sstat | sadv | sflush | copy
  | copyg | rinit | rawait | rrel | cstat | tspawn | twait | tyield | vrel | rgstat | jr | callr | ret | trap | eret
  | gret | waiti | halt | win | tlbinv | qsend | qrecv | qstat | vqrecv | kvcommit | kvroll | kvfork | coll | cwaitc
  | sksub | skstat =>
    cases h; rfl
  -- the V format: a form in the major, a mask bit beside the function code
  | vadd | vsub | vrsub | vmul | vmulh | vmin | vmax | vminu | vmaxu | vand | vor | vxor | vsll | vsrl | vsra | vadds
  | vfadd | vfsub | vfmul | vfdiv | vfmin | vfmax | vfsgn | vfma | vfms | vfnma | vfnms | vmadd | vmsub | vseq | vsne
  | vslt | vsge | vsltu | vsgeu | vfeq | vflt | vfle | vfunord =>
    cases h
    simp only [candidate_vintForm, candidate_vfpForm, candidate_vmacForm, candidate_vcmpForm, cand10, cand14, cand18, cand1C,
      BitVec.extractLsb'_append_eq_right, BitVec.extractLsb'_append_eq_left, BitVec.reduceToNat,
      VSrc.ofForm_form_field rfl hlit]
  -- a mask bit beside the function code
  | vfsqrt | vexp2 | vlog2 | vrcp | vrsqrt | vmv | vslideup | vslidedn | vrev | stov | vperm | vscan | vfscan | vsegsum
  | vsegmax | vsmxe | vquant | vdeq | vpack | vld | vlds | vst | vsts | vldx | vstx | vldp | vstp | vldpx | vstpx | vldt
  | vstt | vrank | vranku | vpart | vtopk | tmmap | rgather | rscat | rscatadd | shlst | kvxlt | mcst =>
    cases h
    simp only [candidate_vfp, candidate_vmov, candidate_vred, candidate_vcvt, candidate_vmem, candidate_ord, candidate_mat,
      candidate_gath, candidate_near, candidate_fab, cand14, cand20, cand21, cand22, cand24, cand26, cand27, cand2F, cand37,
      cand38, BitVec.extractLsb'_append_eq_right, BitVec.extractLsb'_append_eq_left, BitVec.reduceToNat]
  -- a mask bit beside the function code, and operands packed in a field
  | vredsum | vredmax | vredmin | vfredsum | vfredmax | vfredmin | kins | kprb | kdel | vcvt | vunpk | vsort | tmma
  | kacc | qatom =>
    cases h
    simp (disch := decide) only [candidate_vred, candidate_vcvt, candidate_ord, candidate_mat, candidate_key, candidate_quad,
      cand21, cand22, cand26, cand27, cand2C, cand2D, BitVec.reduceToNat, BitVec.extractLsb'_append_eq_of_le, Nat.reduceSub,
      BitVec.extractLsb'_append_eq_right, BitVec.extractLsb'_eq_self]
  -- operands packed in a field, or an immediate that spans several
  | saadd | samin | samax | saxchg | sacas | saand | saor | safadd | gaadd | gamin | gamax | gaxchg | gacas | gaand
  | gaor | gafadd | kclaim | kfree | kdrn | kstat | kseal | kclear | barv | barw | semts | semtry | semclr | evdec
  | evinc | skpeel | skrecon | vchko | mmode | tcvt | ascale | sbind | waita | crd | cwr | qpush | qpop | tstat | fence
  | skbld | addi | andi | ori | xori | mfs | mts | jmp | call | br | gcall | li | lf | vcfg =>
    cases h
    refine congrArg Except.ok ?_
    dsimp only
    simp (disch := decide) only [BitVec.extractLsb'_append_eq_of_le, Nat.reduceSub, BitVec.extractLsb'_append_eq_right,
      BitVec.extractLsb'_append_extractLsb'_eq_extractLsb', BitVec.extractLsb'_eq_self]
  -- a shift amount or an offset that spans the sub-code's field
  | slli | srli | srai | rori | ldb | ldbu | ldh | ldhu | ldw | ldwu | ldd | stb | sth | stw | std =>
    cases h
    simp (disch := decide) only [candidate_shi, candidate_ld, candidate_st, cand06, cand08, cand09, BitVec.reduceExtractLsb',
      BitVec.reduceToNat, BitVec.extractLsb'_append_eq_of_le, Nat.reduceSub, BitVec.extractLsb'_append_eq_right,
      BitVec.extractLsb'_append_extractLsb'_eq_extractLsb', BitVec.extractLsb'_eq_self]
  -- a scale bit and a direction bit beside the function code
  | ldxb _ _ _ sf | ldxbu _ _ _ sf | ldxh _ _ _ sf | ldxhu _ _ _ sf | ldxw _ _ _ sf | ldxwu _ _ _ sf | ldxd _ _ _ sf
  | stxb _ _ _ sf | stxh _ _ _ sf | stxw _ _ _ sf | stxd _ _ _ sf =>
    cases h
    obtain rfl | rfl := BitVec.eq_zero_or_eq_one sf <;>
      simp only [candidate_ldxStx, cand0A, BitVec.reduceAppend, BitVec.reduceExtractLsb', BitVec.reduceToNat,
        BitVec.reduceGetLsb, Bool.false_eq_true, if_false, if_true]
  -- two instructions under one function code, told apart by a bit
  | cresume | cresumeAbort | texit | texitAbort | bara | baraInit =>
    cases h
    simp only [candidate_copy, candidate_task, candidate_quad, cand2A, cand2D, cand2E, BitVec.reduceExtractLsb',
      BitVec.reduceToNat, BitVec.reduceGetLsb, Bool.false_eq_true, if_false, if_true, BitVec.extractLsb'_append_eq_right,
      BitVec.extractLsb'_append_eq_left]
  -- an event, which has no encoding
  | _ => cases h

/-- Settles O56: an instruction's word has the fields of its encoding, which `candidate_encodeR` reads back. -/
theorem decodeEncode : Obligations.DecodeEncode := by
  intro i lit henc hwf hlit
  obtain ⟨r, hr⟩ := Option.isSome_iff_exists.1 henc
  rw [Instr.word_of_encodeR hr] at hlit ⊢
  refine decode_ok_iff.2 ?_
  rw [RWord.ofWord_toWord]
  exact ⟨candidate_encodeR hr hlit, hr, hwf⟩

/-! ## Encodings are all that is decoded -/

section Literals

variable (hform : r.op.extractLsb' 0 2 = 3#2)

include hform

theorem lit_of_cand10 (h : cand10 r lit = .ok i) : i.lit = lit := by
  unfold cand10 at h
  rw [hform] at h
  split at h <;> cases h <;> rfl

/-- The monadic functions have no literal form: their major is that of the first form (R412). -/
theorem lit_of_cand14 (h : cand14 r lit = .ok i) (henc : i.encodeR = some r) : i.lit = lit := by
  have hmajor (h20 : 20#6 = r.op) : i.lit = lit := by
    rw [← h20] at hform
    exact absurd hform (by decide)
  unfold cand14 at h
  rw [hform] at h
  split at h
  case h_7 | h_8 | h_9 | h_10 | h_11 => cases h; exact hmajor (congrArg RWord.op (Option.some.inj henc))
  all_goals cases h <;> rfl

theorem lit_of_cand18 (h : cand18 r lit = .ok i) : i.lit = lit := by
  unfold cand18 at h
  rw [hform] at h
  split at h <;> cases h <;> rfl

theorem lit_of_cand1C (h : cand1C r lit = .ok i) : i.lit = lit := by
  unfold cand1C at h
  rw [hform] at h
  split at h <;> cases h <;> rfl

end Literals

/-- The bases of the majors that have a form (R49, R56). -/
theorem formBase_of_literal {op : BitVec 6} (h : op.extractLsb' 4 2 = 1#2) : op.extractLsb' 2 4 = 4#4 ∨
    op.extractLsb' 2 4 = 5#4 ∨ op.extractLsb' 2 4 = 6#4 ∨ op.extractLsb' 2 4 = 7#4 := by
  revert op
  decide

theorem lit_of_candidate (h : candidate r lit = .ok i) (henc : i.encodeR = some r) (hlit : hasLiteral r.toWord = true) :
    i.lit = lit := by
  rw [hasLiteral_toWord, Bool.and_eq_true, beq_iff_eq, beq_iff_eq] at hlit
  obtain ⟨hmajor, hform⟩ := hlit
  rcases formBase_of_literal hmajor with hbase | hbase | hbase | hbase
  · rw [candidate_of_vintMajor hbase] at h
    exact lit_of_cand10 hform h
  · rw [candidate_of_vfpMajor hbase] at h
    exact lit_of_cand14 hform h henc
  · rw [candidate_of_vmacMajor hbase] at h
    exact lit_of_cand18 hform h
  · rw [candidate_of_vcmpMajor hbase] at h
    exact lit_of_cand1C hform h

/-- Settles O57: `decode` accepts a candidate only if its encoding is the word, and a literal form takes the literal it is given. -/
theorem decodeSound : Obligations.DecodeSound := by
  intro w lit i h
  obtain ⟨hcand, henc, hwf⟩ := decode_ok_iff.1 h
  refine ⟨Option.isSome_iff_exists.2 ⟨_, henc⟩, hwf, ?_, fun hlit => ?_⟩
  · rw [Instr.word_of_encodeR henc, RWord.toWord_ofWord]
  · rw [← RWord.toWord_ofWord w] at hlit
    exact lit_of_candidate hcand henc hlit

/-- Settles O54: each of these words is evaluated. -/
theorem decodeWords : Obligations.DecodeWords := by
  unfold Obligations.DecodeWords
  decide +kernel

end Sys2Proof
end

section
/-! Privileged encodings (settles O15). -/

namespace Sys2Proof.Machine

section

variable {s : State} (hp : s.hart.trap.priv ≠ 2)

include hp

theorem exec_needSupervisor_refused : needSupervisor.exec s = (.error (.trapWord .priv), s) :=
  (exec_needSupervisor s).trans (if_neg hp)

/-- A scalar meaning that asks for privilege 2 first traps and does nothing else (R59, R60). -/
theorem runScalar_needSupervisor_refused (w : BitVec 32) (m : Unit → M Flow) :
    runScalar w (needSupervisor >>= m) s = .next (takeTrap false .priv (w.zeroExtend 64) s) :=
  runScalar_trapWord (exec_bind_error (exec_needSupervisor_refused hp))

theorem execWaiti_unprivileged : execWaiti s = .next (takeTrap false .priv (encWaiti.toWord.zeroExtend 64) s) := by
  have hpriv : ¬(decide (s.hart.trap.priv = 2) && noneEnabled s.hart) = true := by
    rw [decide_eq_false hp, Bool.false_and]
    exact Bool.false_ne_true
  unfold execWaiti
  rw [if_neg hpriv]
  exact runScalar_needSupervisor_refused hp ..

theorem execMfs_unprivileged {d : BitVec 7} {n : BitVec 12} (hn : 0x100 ≤ n.toNat) :
    execMfs d n s = .next (takeTrap false .priv ((encMfs d n).toWord.zeroExtend 64) s) := by
  refine runScalar_trapWord (exec_bind_error ?_)
  rw [exec_checkReg, if_pos ⟨hn, hp⟩]

/-- A privileged vector-side instruction is refused at dispatch, before its operands are captured (R60, R416). -/
theorem dispatchV_unprivileged {op : VOp} (hop : op.privileged = true) (w lit : BitVec 32) (perform : Entry → M Unit) :
    dispatchV w lit op perform s = .next (takeTrap false .priv (w.zeroExtend 64) s) := by
  have hentry : (dispatchEntry w lit op).exec s = (.error (.trapWord .priv), s) := by
    unfold dispatchEntry
    rw [exec_bind_ok (exec_getHart s), if_pos hop]
    exact exec_bind_error (exec_needSupervisor_refused hp)
  unfold dispatchV
  rw [hentry]

end

/-- Settles O15: each of these instructions asks for privilege 2 before it reads or changes anything. -/
theorem privilegeTraps : Obligations.PrivilegeTraps := fun _ _ _ _ _ hp =>
  ⟨runScalar_needSupervisor_refused hp .., execWaiti_unprivileged hp, runScalar_needSupervisor_refused hp ..,
    runScalar_needSupervisor_refused hp .., dispatchV_unprivileged hp rfl ..,
    fun hn => ⟨execMfs_unprivileged hp hn, execMts_unprivileged hp hn⟩⟩

end Sys2Proof.Machine
end

section
/-! What a step of a running hart executes (settles O55): the decoded instruction, but not where the memory that holds it has a
lasting fault. -/

namespace Sys2Proof.Machine

variable {s : State}

/-! ## The instruction at a quiet boundary -/

theorem exec_advance_next (s : State) : (advance .next).exec s = (.ok (), s.passed) := by
  unfold State.passed State.after advance
  rw [exec_bind_ok (exec_modFetch _ s), exec_bind_ok (exec_attempt _ _)]
  rfl

theorem execAnnulledStep_passed (h : s.hart.fetch.apc = true) : execAnnulledStep s = .next s.passed := by
  have hrun : annulledStep.exec s = (.ok (), s.passed) := by
    unfold annulledStep
    rw [exec_bind_ok (exec_getHart s), h]
    exact exec_advance_next s
  unfold execAnnulledStep runEvent
  rw [hrun]

/-- A vector unit with nothing to do leaves the turn to the next instruction. -/
theorem runStep_quiet {b : State} (hb : (tick.exec s).2 = b) (hquiet : firstEffect boundaryEvents b = none)
    (hvec : b.hart.vq = [] ∨ (b.lag = true ∧ waitsForOldest b.hart = false)) : runStep s = runInstruction b := by
  have hwait : waitsForOldest b.hart = false := by
    rcases hvec with hq | ⟨-, hwait⟩
    · rw [waitsForOldest, hq]
    · exact hwait
  have hturn : (if b.lag && !waitsForOldest b.hart then none else vectorTurn b) = none := by
    rcases hvec with hq | ⟨hlag, -⟩
    · rw [vectorTurn, hq, List.isEmpty_nil, if_pos rfl, ite_self]
    · rw [hlag, hwait]
      rfl
  unfold runStep
  dsimp only
  rw [hb, hquiet]
  dsimp only
  rw [hturn]
  dsimp only
  rw [hwait]
  rfl

theorem hartStep_running (h : s.hart.phase = .running) : hartStep s = runStep s := by
  unfold hartStep
  rw [h]

theorem step_running (hagenda : s.agenda = []) (hparked : s.parked = false) (hrotor : s.rotor < 64)
    (hphase : s.hart.phase = .running) : step s = runStep { s.seen with rotor := s.rotor + 1 } := by
  have hgo : s.seen.parked = false := hparked
  have hturn : ¬64 ≤ s.seen.rotor := Nat.not_le.2 hrotor
  unfold step
  rw [hagenda]
  unfold freeStep
  dsimp only
  rw [hgo, if_neg Bool.false_ne_true, if_neg hturn]
  exact hartStep_running hphase

/-- The first part of O55: what a step does at a quiet boundary is what `runInstruction` does there. -/
theorem stepRunsDecoded : Sys2Proof.Claim.StepRunsInstruction := by
  intro s hagenda hparked hrotor hphase b hquiet hvec
  have hstep : step s = runInstruction b :=
    (step_running hagenda hparked hrotor hphase).trans (runStep_quiet rfl hquiet hvec)
  rw [hstep]
  unfold runInstruction
  refine ⟨fun happ => ?_, fun happ => ⟨fun w lit u i hf hd => ?_, fun w lit u e hf hd => ?_, fun c v u hf => ?_⟩⟩
  · rw [if_pos happ]
    exact execAnnulledStep_passed happ
  · rw [happ, if_neg Bool.false_ne_true, hf]
    dsimp only
    rw [hd]
  · rw [happ, if_neg Bool.false_ne_true, hf]
    dsimp only
    rw [hd]
  · rw [happ, if_neg Bool.false_ne_true, hf]

/-! ## A placed instruction in memory with a lasting fault -/

/-- The reset machine after a lasting fault of byte 0, which is where its hart fetches: the byte keeps its error mark (R330). -/
def faultedReset : State := { State.reset with poison := [0], dead := [0] }

/-- The scalar registers of a next state. -/
def sregsNext : Host.Outcome State Fault Refusal → Option (Sparse Word)
  | .next t => some t.hart.sregs
  | .fault _ => none
  | .refused _ => none

/-- The word of ADDI s5, s0, 1 is placed at byte 0; its fetch raises MCE (R330), and no register is written. -/
theorem sregs_step_faultedReset : sregsNext (step (faultedReset.withFetchWord 32 0x08280001)) = some [] := by decide +kernel

theorem not_placedWordRuns : ¬ Sys2Proof.Claim.PlacedWordRuns := by
  intro h
  obtain ⟨u, hstep, -, -, -, hsregs, -, -, hsys, -⟩ :=
    h faultedReset 32 0x08280001 (.addi 5 0 1) (by decide) (by decide) (by decide +kernel)
  have hd : scalarOk u.hart 5 = true := by
    unfold scalarOk
    rw [hsys]
    rfl
  have hadd : exec (.addi 5 0 1) u = wroteScalar u 5 1 := runScalar_unary hd rfl _
  have hwrote : sregsNext (wroteScalar u 5 1) = some [(5, 1)] := by
    unfold wroteScalar sregsNext
    dsimp only
    rw [passed_sregs]
    unfold setScalar
    rw [if_neg (by decide)]
    dsimp only
    rw [hsregs, hsys]
    rfl
  have hnone := sregs_step_faultedReset
  rw [hstep, hadd, hwrote] at hnone
  cases hnone

/-- Refutes O55 in its second part, that of a placed word: where the word lies in a byte with a lasting fault, the next step takes MCE
and executes no instruction. Its first part is `stepRunsDecoded`. -/
theorem not_stepRunsInstruction : ¬ Obligations.StepRunsInstruction := fun h => not_placedWordRuns h.2

end Sys2Proof.Machine
end

section
/-! Going on to the next word neither reads nor changes the vector queue (R105): the state in which an entry executes is that of a scalar
instruction that has gone on, but for the queue. -/

namespace Sys2Proof.Machine

variable {α β : Type}

/-- The state with another vector queue. -/
def State.withQueue (s : State) (es : List Entry) : State := { s with hart := { s.hart with vq := es } }

/-- A meaning ends in the same way, and does the same, whatever the vector queue holds. -/
def QueueBlind (m : M α) : Prop := ∀ s es, m.exec (s.withQueue es) = ((m.exec s).1, (m.exec s).2.withQueue es)

/-! ## The constructors of meanings -/

theorem queueBlind_pure (x : α) : QueueBlind (pure x : M α) := fun _ _ => rfl

theorem queueBlind_throw (e : Stop) : QueueBlind (throw e : M α) := fun _ _ => rfl

theorem queueBlind_bind {m : M α} {f : α → M β} (hm : QueueBlind m) (hf : ∀ x, QueueBlind (f x)) : QueueBlind (m >>= f) := by
  intro s es
  rw [exec_bind, exec_bind, hm s es]
  rcases m.exec s with ⟨_ | x, t⟩
  · rfl
  · exact hf x t es

theorem queueBlind_ite (p : Prop) {_ : Decidable p} {m n : M α} (hm : QueueBlind m) (hn : QueueBlind n) :
    QueueBlind (if p then m else n) := by
  split <;> assumption

/-- A meaning that reads the state, but not the queue in it. -/
theorem queueBlind_get {f : State → M α} (hsame : ∀ s es, f (s.withQueue es) = f s) (hf : ∀ s, QueueBlind (f s)) :
    QueueBlind (get >>= f) := by
  intro s es
  rw [exec_bind_ok (exec_get _), exec_bind_ok (exec_get s), hsame]
  exact hf s s es

theorem queueBlind_getHart {f : Hart → M α} (hsame : ∀ h es, f { h with vq := es } = f h) (hf : ∀ h, QueueBlind (f h)) :
    QueueBlind (getHart >>= f) := by
  intro s es
  rw [exec_bind_ok (exec_getHart _), exec_bind_ok (exec_getHart s), State.withQueue, hsame]
  exact hf s.hart s es

theorem queueBlind_modify {f : State → State} (h : ∀ s es, f (s.withQueue es) = (f s).withQueue es) :
    QueueBlind (modify f : M PUnit) := fun s es => by
  rw [exec_modify, exec_modify, h]

theorem queueBlind_trapIf (p : Bool) (c : Cause) (v : Word) : QueueBlind (trapIf p c v) := by
  cases p
  · exact queueBlind_pure ()
  · exact queueBlind_throw _

theorem queueBlind_attempt {m : M α} (hm : QueueBlind m) : QueueBlind (attempt m) := fun s es => by
  rw [exec_attempt, exec_attempt, hm]

/-! ## Fetching -/

theorem walk_withQueue (s : State) (es : List Entry) (d va : Nat) : walk (s.withQueue es) d va = walk s d va := by
  have h (fuel level table : Nat) : walkFrom (s.withQueue es) (pkgOfDie d) fuel level table va =
      walkFrom s (pkgOfDie d) fuel level table va := by
    induction fuel generalizing level table with
    | zero => rfl
    | succ n ih => simp only [walkFrom, ih]; rfl
  exact h ..

theorem markLeaf_withQueue (s : State) (es : List Entry) (at' bit : Nat) :
    markLeaf at' bit (s.withQueue es) = (markLeaf at' bit s).withQueue es := by
  change (if bitOf (s.memNat at' 8) bit then _ else _) = State.withQueue (if bitOf (s.memNat at' 8) bit then _ else _) es
  split <;> rfl

theorem queueBlind_forgetMark : QueueBlind (modHart fun h => { h with unanswered := none }) := fun _ _ => rfl

theorem queueBlind_walkAndCache (d va : Nat) (v : Word) : QueueBlind (walkAndCache d va v) := by
  unfold walkAndCache
  refine queueBlind_get (fun s es => ?_) fun s => ?_
  · rw [walk_withQueue]
    rfl
  · split
    · exact queueBlind_ite _ (queueBlind_bind queueBlind_forgetMark fun _ => queueBlind_throw _) (queueBlind_throw _)
    · exact queueBlind_bind (queueBlind_modify fun s es => markLeaf_withQueue s es _ _) fun _ =>
        queueBlind_bind (queueBlind_modify fun _ _ => rfl) fun _ => queueBlind_pure _

theorem queueBlind_reach (k : Access) (g : Agent) (mt : Nat) (v : Word) (pa size : Nat) : QueueBlind (reach k g mt v pa size) := by
  unfold reach
  refine queueBlind_get (fun _ _ => rfl) fun s => ?_
  refine queueBlind_ite _ ?_ (queueBlind_ite _ (queueBlind_throw _) (queueBlind_ite _ (queueBlind_throw _) (queueBlind_pure _)))
  exact queueBlind_ite _ (queueBlind_pure _) (queueBlind_bind queueBlind_forgetMark fun _ => queueBlind_throw _)

/-- Translating is made of walks, marks of table entries and checks, none of which looks at the queue. -/
theorem queueBlind_translateAt (priv : Nat) (k : Access) (g : Agent) (v : Word) (size : Nat) :
    QueueBlind (translateAt priv k g v size) := by
  unfold translateAt
  refine queueBlind_get (fun _ _ => rfl) fun s => ?_
  dsimp only
  repeat' first
    | exact queueBlind_throw _
    | exact queueBlind_pure _
    | exact queueBlind_trapIf _ _ _
    | exact queueBlind_reach _ _ _ _ _ _
    | exact queueBlind_walkAndCache _ _ _
    | exact queueBlind_modify fun s es => markLeaf_withQueue s es _ _
    | exact queueBlind_modify fun _ _ => rfl
    | refine queueBlind_bind ?_ fun _ => ?_
    | split

theorem queueBlind_succ (v : Word) : QueueBlind (succ v) := by
  have hpoison (pa : Nat) : QueueBlind (checkPoison pa 4 v) := by
    unfold checkPoison
    exact queueBlind_get (fun _ _ => rfl) fun _ => queueBlind_ite _ (queueBlind_throw _) (queueBlind_pure _)
  unfold succ succAt fetchAt
  refine queueBlind_bind (fun _ _ => rfl) fun priv => queueBlind_bind ?_ fun _ => queueBlind_pure _
  refine queueBlind_bind (queueBlind_translateAt priv .fetch .other v 4) fun pa => queueBlind_get (fun _ _ => rfl) fun s => ?_
  split
  · exact queueBlind_pure _
  · exact queueBlind_bind (hpoison pa) fun _ => queueBlind_get (fun _ _ => rfl) fun _ => queueBlind_pure _

theorem queueBlind_formQueue : QueueBlind formQueue := by
  have hfetch (f : Fetch → Fetch) : QueueBlind (modFetch f) := fun _ _ => rfl
  unfold formQueue
  refine queueBlind_getHart (fun _ _ => rfl) fun h => ?_
  dsimp only
  refine queueBlind_ite _ (queueBlind_bind (queueBlind_succ _) fun _ => queueBlind_bind (hfetch _) fun _ => ?_) ?_
  all_goals
    exact queueBlind_getHart (fun _ _ => rfl) fun h =>
      queueBlind_ite _ (queueBlind_bind (queueBlind_succ _) fun _ => hfetch _) (queueBlind_pure _)

/-! ## Going on -/

theorem passed_withQueue (s : State) (es : List Entry) : (s.withQueue es).passed = s.passed.withQueue es := by
  have h : QueueBlind (advance .next) := by
    unfold advance
    exact queueBlind_bind (fun _ _ => rfl) fun _ => queueBlind_bind (queueBlind_attempt queueBlind_formQueue) fun _ => queueBlind_pure _
  exact congrArg Prod.snd (h s es)

/-- The state in which an entry executes (R25). -/
theorem queued_eq (s : State) (e : Entry) : s.queued e = s.passed.withQueue [e] := passed_withQueue s [e]

end Sys2Proof.Machine
end

section
/-! The checks and operations that a vector-side entry is made of, where they pass: windows, errors, operands in rows, progress. -/

namespace Sys2Proof.Machine

variable {α β : Type} {s q t u : State} {c : VConf}

/-! ## Running -/

theorem exec_foldlM_pure {xs : List α} {f : Unit → α → M Unit} (h : ∀ x ∈ xs, (f () x).exec s = (.ok (), s)) :
    (xs.foldlM f ()).exec s = (.ok (), s) := by
  induction xs with
  | nil => rfl
  | cons x xs ih =>
    rw [List.forall_mem_cons] at h
    rw [List.foldlM_cons, exec_bind_ok h.1]
    exact ih h.2

/-- A loop whose every round ends well leaves what its rounds leave, one after the other. -/
theorem exec_forFrom_foldl {f : Nat → M Unit} {F : State → Nat → State} {n k : Nat}
    (h : ∀ i, k ≤ i → i < k + n → ∀ s, (f i).exec s = (.ok (), F s i)) (s : State) :
    (forFrom n k f).exec s = (.ok (), (List.range' k n).foldl F s) := by
  induction n generalizing k s with
  | zero => rfl
  | succ n ih =>
    rw [forFrom, exec_bind_ok (h k (by omega) (by omega) s), ih fun i hi hi' => h i (by omega) (by omega)]
    rfl

theorem exec_forN_foldl {f : Nat → M Unit} {F : State → Nat → State} {n : Nat}
    (h : ∀ i < n, ∀ s, (f i).exec s = (.ok (), F s i)) (s : State) :
    (forN n f).exec s = (.ok (), (List.range n).foldl F s) := by
  rw [forN, List.range_eq_range']
  exact exec_forFrom_foldl (fun i _ hi => h i (by omega)) s

theorem exec_wholly {m : M α} {x : α} (h : m.exec s = (.ok x, t)) : (wholly m).exec s = (.ok x, t) := by
  unfold wholly
  rw [exec_bind_ok (exec_get s), exec_bind_ok (exec_attempt m s), h]
  rfl

/-! ## Checks that pass -/

theorem exec_checkRowsNat_ok {first count : Nat} {field : BitVec 7}
    (h : first + count - 1 ≤ 127 ∧ c.vwb.toNat + first + count - 1 < s.hart.sys.rowsN.toNat) :
    (checkRowsNat c first count field).exec s = (.ok (), s) := by
  unfold checkRowsNat
  rw [exec_bind_ok (exec_getHart s)]
  refine exec_trapIf_false ?_ _ _ s
  rw [Bool.or_eq_false_iff, decide_eq_false_iff_not, decide_eq_false_iff_not]
  omega

theorem exec_checkTile_ok {n : Nat} (h : n < s.hart.sys.tilesN.toNat) : (checkTile n).exec s = (.ok (), s) := by
  unfold checkTile
  rw [exec_bind_ok (exec_getHart s)]
  exact exec_trapIf_false (decide_eq_false (Nat.not_le.2 h)) _ _ s

@[simp] theorem from0_psel (c : VConf) : c.from0.psel = c.psel := rfl
@[simp] theorem from0_et (c : VConf) : c.from0.et = c.et := rfl

theorem exec_maskVl_ok {m : BitVec 1} (h : m = 1 → c.vlN ≤ 1024) (s : State) : (maskVl c.from0 m).exec s = (.ok (), s) := by
  unfold maskVl
  split
  · exact exec_trapIf_false (decide_eq_false (Nat.not_lt.2 (h ‹_›))) _ _ s
  · rfl

theorem exec_tileErrors_none (h : s.hart.vec.badTiles = []) (a rows cols : Nat) :
    (tileErrors a rows cols).exec s = (.ok (), s) := by
  unfold tileErrors
  rw [exec_bind_ok (exec_getHart s)]
  dsimp only
  rw [h]
  rfl

/-! ## Operands in rows that no stream serves -/

/-- The operand is a source whose rows lie in the allotment and are bound to no stream (R31, R194). -/
structure PlainSource (c : VConf) (s : State) (o : Opnd) : Prop where
  use : o.use = .src
  rows : 1 ≤ o.rows
  inside : o.first + o.rows - 1 ≤ 127 ∧ c.vwb.toNat + o.first + o.rows - 1 < s.hart.sys.rowsN.toNat
  unbound : ∀ k < o.rows, streamAt s.hart.vec (c.vwb.toNat + o.first + k) = none

section

variable {o : Opnd}

theorem PlainSource.first (h : PlainSource c s o) : streamAt s.hart.vec (c.vwb.toNat + o.first) = none := h.unbound 0 h.rows

theorem exec_checkUse_plain (h : PlainSource c s o) (et n : Nat) : (checkUse c et n o).exec s = (.ok (), s) := by
  have hrest : ((List.range o.rows).any fun k => (streamAt s.hart.vec (c.vwb.toNat + o.first + k)).isSome) = false := by
    rw [List.any_eq_false]
    intro k hk
    rw [h.unbound k (List.mem_range.1 hk)]
    exact Bool.false_ne_true
  unfold checkUse
  rw [exec_bind_ok (exec_getHart s)]
  dsimp only
  rw [h.first]
  dsimp only
  rw [hrest]
  rfl

theorem exec_checkErrors_plain (h : PlainSource c s o) (hbad : s.hart.vec.badRows = []) :
    (checkErrors c o).exec s = (.ok (), s) := by
  have hnone : ((List.range o.rows).find? fun _ => false) = none := by
    rw [List.find?_eq_none]
    exact fun _ _ => Bool.false_ne_true
  unfold checkErrors
  rw [exec_bind_ok (exec_getHart s)]
  dsimp only
  rw [h.first]
  dsimp only
  rw [h.use, if_neg (by decide), hbad]
  simp only [List.any_nil, hnone]
  rfl

theorem exec_needStreamRoom_plain (h : PlainSource c s o) (n : Nat) : (needStreamRoom c n o).exec s = (.ok (), s) := by
  unfold needStreamRoom
  rw [exec_bind_ok (exec_getHart s), h.use, h.first]
  rfl

theorem exec_loadStrip_plain (h : PlainSource c s o) (w n : Nat) : (loadStrip c w n o).exec s = (.ok (), s) := by
  unfold loadStrip
  rw [exec_bind_ok (exec_getHart s), h.first, h.use]
  rfl

theorem exec_retireStreams_plain (h : PlainSource c s o) (n : Nat) : (retireStreams c n o).exec s = (.ok (), s) := by
  have hnone : (appendStrip c c.est (n * o.strips) o).exec s = (.ok (), s) := by
    unfold appendStrip
    rw [exec_bind_ok (exec_getHart s)]
    dsimp only
    rw [h.first, h.use]
    rfl
  unfold retireStreams
  rw [exec_bind_ok (exec_getHart s), h.first, h.use]
  exact hnone

/-- Another state with the same streams and allotment. -/
theorem PlainSource.congr (h : PlainSource c s o) (hstreams : t.hart.vec.streams = s.hart.vec.streams)
    (hrows : t.hart.sys.rowsN = s.hart.sys.rowsN) : PlainSource c t o where
  use := h.use
  rows := h.rows
  inside := hrows ▸ h.inside
  unbound k hk := by
    unfold streamAt
    rw [hstreams]
    exact h.unbound k hk

end

theorem inStrip_unbound {v : VecRegs} {n : BitVec 7} (h : streamAt v (c.vwb.toNat + n.toNat) = none) (j : Nat) :
    inStrip v c n j = true := by
  unfold inStrip stripLen
  rw [h]

theorem padded_unbound {v : VecRegs} {n : BitVec 7} (h : streamAt v (c.vwb.toNat + n.toNat) = none) (j : Nat) :
    padded v c n j = false := by
  unfold padded
  rw [h]

/-- The work on operands in plain rows: nothing before and after it but that the strips are dropped. -/
theorem exec_withFlat {os : List (Nat × Opnd)} {body : M Unit} (hplain : ∀ o ∈ os, PlainSource c s o.2)
    (hbad : s.hart.vec.badRows = []) (hbody : body.exec s = (.ok (), t)) (hstreams : t.hart.vec.streams = s.hart.vec.streams)
    (hrows : t.hart.sys.rowsN = s.hart.sys.rowsN) :
    (withFlat c os body).exec s =
      (.ok (), { t with hart := { t.hart with vec := { t.hart.vec with strips := [], outs := [] } } }) := by
  have hflat (s : State) (o : Nat × Opnd) (h : PlainSource c s o.2) : PlainSource (flatConf c o.1) s o.2 :=
    ⟨h.use, h.rows, h.inside, h.unbound⟩
  have hretire (o : Nat × Opnd) (h : o ∈ os) : PlainSource c t o.2 := (hplain o h).congr hstreams hrows
  unfold withFlat
  rw [exec_bind_ok (exec_foldlM_pure fun o h => exec_checkRowsNat_ok (hplain o h).inside),
    exec_bind_ok (exec_foldlM_pure fun o h => exec_checkUse_plain (hplain o h) _ _),
    exec_bind_ok (exec_foldlM_pure fun o h => exec_checkErrors_plain (hplain o h) hbad),
    exec_bind_ok (exec_foldlM_pure fun o h => exec_needStreamRoom_plain (hplain o h) _),
    exec_bind_ok (exec_foldlM_pure fun o h => exec_loadStrip_plain (hflat s o (hplain o h)) _ _)]
  refine (exec_bind_ok (exec_wholly (t := t) (x := ()) ?_)).trans (exec_modVec _ t)
  rw [exec_bind_ok hbody]
  split
  next x y =>
    have hx := exec_retireStreams_plain (hflat t x (hretire x (by simp))) 1
    have hy := exec_retireStreams_plain (hflat t y (hretire y (by simp))) 1
    have hyx := exec_retireStreams_plain (c := flatConf c x.1) (hflat t (x.1, y.2) (hretire y (by simp))) 1
    split
    · split
      · exact hyx
      · exact hx
    · rw [exec_bind_ok hx]
      exact hy
  · exact exec_foldlM_pure fun o h => exec_retireStreams_plain (hflat t o (hretire o h)) 1

/-! ## An entry that completes as a whole -/

/-- An entry that was given ESTART 0 at dispatch has it already (R42). -/
theorem exec_setProgress_zero {e : Entry} (hq : s.hart.vq = [e]) (he : e.cfg.estart = 0) : (setProgress 0).exec s = (.ok (), s) := by
  have hsame : ({ e with cfg := { e.cfg with estart := 0 } } : Entry) = e := by rw [← he]
  unfold setProgress
  rw [exec_modHart, hq]
  change (_, { s with hart := { s.hart with vq := [{ e with cfg := { e.cfg with estart := 0 } }] } }) = _
  rw [hsame, ← hq]

/-- Under a true guard and with a shape granted the work is done (R215, R216). -/
theorem exec_guardedWhole {e : Entry} {names : VConf → M Unit} {body : VConf → Shape → M Unit} (hq : s.hart.vq = [e])
    (he : e.cfg.estart = 0) (hnames : (names e.cfg.from0).exec s = (.ok (), s))
    (hguard : guardOf s.hart.vec e.cfg.gsel.toNat = true) (hshape : s.hart.sys.mshp.getLsbD 31 = true) :
    (guardedWhole e names body).exec s = (body e.cfg.from0 (shapeOf s.hart.sys)).exec s := by
  have hneed : needShape.exec s = (.ok (shapeOf s.hart.sys), s) := by
    unfold needShape
    rw [exec_bind_ok (exec_getHart s), exec_bind_ok (exec_trapIf_false (by rw [hshape]; rfl) _ _ s)]
    rfl
  unfold guardedWhole guarded
  rw [exec_bind_ok (exec_setProgress_zero hq he)]
  dsimp only
  rw [exec_bind_ok hnames, exec_bind_ok (exec_getHart s)]
  exact (congrArg (M.exec · s) (if_pos hguard)).trans (exec_bind_ok hneed)

end Sys2Proof.Machine
end

section
/-! A matrix product (R94, R221): the groups of positions of K, and what accumulating over them leaves in the tile and in FFLAGS. -/

namespace Sys2Proof.Machine

variable {s t : State} {sh : Shape}

/-! ## The region of a tile that a product writes -/

theorem flagsOver_succ (n : Nat) (fl : Nat → Flags) :
    flagsOver (n + 1) (fun _ => true) fl = flagsOver n (fun _ => true) fl ||| fl n := by
  unfold flagsOver
  rw [List.range_succ, List.filter_append, List.foldl_append]
  rfl

/-- Element k of the region of tile d, in the order of rows, takes its value, and FFLAGS its flags. -/
def putCell (sh : Shape) (d : Nat) (f : Nat → Nat → Rounded) (s : State) (k : Nat) : State :=
  { s with hart := { s.hart with
    sys := { s.hart.sys with fflags := s.hart.sys.fflags ||| (f (k / sh.ng) (k % sh.ng)).2 }
    vec := { s.hart.vec with
      tiles := sparsePut 0 s.hart.vec.tiles (d * 16384 + k / sh.ng * 128 + k % sh.ng)
        (BitVec.ofNat 32 (f (k / sh.ng) (k % sh.ng)).1)
      badTiles := s.hart.vec.badTiles.filter fun i => i != d * 16384 + k / sh.ng * 128 + k % sh.ng } } }

/-- Between the two states the first n elements of the region of tile d took their values, FFLAGS their flags, and nothing else changed
but the strips. -/
structure WroteCells (sh : Shape) (d : Nat) (f : Nat → Nat → Rounded) (n : Nat) (s t : State) : Prop where
  rest : t = { s with hart := { s.hart with
    sys := { s.hart.sys with
      fflags := s.hart.sys.fflags ||| flagsOver n (fun _ => true) fun k => (f (k / sh.ng) (k % sh.ng)).2 }
    vec := { s.hart.vec with tiles := t.hart.vec.tiles, strips := t.hart.vec.strips, outs := t.hart.vec.outs } } }
  cells : ∀ x i j, i < 128 → j < 128 → tileAt t.hart.vec x i j =
    if x = d ∧ j < sh.ng ∧ i * sh.ng + j < n then (f i j).1 % 2 ^ 32 else tileAt s.hart.vec x i j

theorem tileAt_putCell {d k x i j : Nat} (f : Nat → Nat → Rounded) (hng : sh.ng ≤ 128) (hk : k < 128 * sh.ng) (hi : i < 128)
    (hj : j < 128) : tileAt (putCell sh d f s k).hart.vec x i j =
      if x = d ∧ j < sh.ng ∧ i * sh.ng + j = k then (f i j).1 % 2 ^ 32 else tileAt s.hart.vec x i j := by
  have hpos : 0 < sh.ng := by
    by_contra h
    rw [Nat.eq_zero_of_not_pos h] at hk
    exact absurd hk (Nat.not_lt_zero k)
  have hrow : k / sh.ng < 128 := Nat.div_lt_of_lt_mul (Nat.mul_comm 128 sh.ng ▸ hk)
  have hcol : k % sh.ng < sh.ng := Nat.mod_lt k hpos
  have hplace : j < sh.ng ∧ i * sh.ng + j = k ↔ k / sh.ng = i ∧ k % sh.ng = j := by
    rw [Nat.div_mod_unique hpos, Nat.mul_comm i, Nat.add_comm j, And.comm]
  have hkey : x * 16384 + i * 128 + j = d * 16384 + k / sh.ng * 128 + k % sh.ng ↔ x = d ∧ k / sh.ng = i ∧ k % sh.ng = j := by
    omega
  change (sparseGet 0 (sparsePut 0 _ _ _) _ : BitVec 32).toNat = _
  rw [sparseGet_put]
  simp only [hplace]
  by_cases h : x = d ∧ k / sh.ng = i ∧ k % sh.ng = j
  · rw [if_pos (hkey.2 h), if_pos h, h.2.1, h.2.2, BitVec.toNat_ofNat]
  · rw [if_neg (mt hkey.1 h), if_neg h]
    rfl

theorem wroteCells_foldl {d n : Nat} (f : Nat → Nat → Rounded) (hbad : s.hart.vec.badTiles = []) (hng : sh.ng ≤ 128)
    (hn : n ≤ 128 * sh.ng) : WroteCells sh d f n s ((List.range n).foldl (putCell sh d f) s) := by
  induction n with
  | zero =>
    refine ⟨?_, fun x i j _ _ => (if_neg fun h => absurd h.2.2 (Nat.not_lt_zero _)).symm⟩
    have hflags : s.hart.sys.fflags ||| flagsOver 0 (fun _ => true) (fun k => (f (k / sh.ng) (k % sh.ng)).2) =
        s.hart.sys.fflags := BitVec.or_zero
    rw [hflags]
    rfl
  | succ n ih =>
    obtain ⟨hrest, hcells⟩ := ih (by omega)
    rw [List.range_succ, List.foldl_append, List.foldl_cons, List.foldl_nil]
    generalize (List.range n).foldl (putCell sh d f) s = t at hrest hcells ⊢
    constructor
    · have hmarks (p : Nat → Bool) : t.hart.vec.badTiles.filter p = s.hart.vec.badTiles := by
        have hsame : t.hart.vec.badTiles = s.hart.vec.badTiles := by rw [hrest]
        rw [hsame, hbad, List.filter_nil]
      unfold putCell
      rw [hmarks, flagsOver_succ, ← BitVec.or_assoc, hrest]
    · intro x i j hi hj
      rw [tileAt_putCell f hng (by omega) hi hj, hcells x i j hi hj]
      by_cases h : x = d ∧ j < sh.ng ∧ i * sh.ng + j = n
      · rw [if_pos h, if_pos ⟨h.1, h.2.1, by omega⟩]
      · rw [if_neg h]
        exact if_congr (by omega) rfl rfl

/-! ## The groups of positions -/

/-- A position of a group is below K and taken by the mask; its column of A is the number of taken positions below it (R94, R221). -/
theorem of_mem_kGroups {kg size : Nat} {m : BitVec 1} {p : BitVec 1024} {g : List (Nat × Nat)} {x : Nat × Nat}
    (hg : g ∈ kGroups kg size m p) (hx : x ∈ g) :
    x.1 < kg ∧ (m = 0 ∨ p.getLsbD x.1 = true) ∧ x.2 = columnsOf x.1 m p := by
  unfold kGroups at hg
  obtain ⟨n, -, rfl⟩ := List.mem_map.1 hg
  obtain ⟨i, hi, rfl⟩ := List.mem_map.1 hx
  obtain ⟨hlt, htaken⟩ := List.mem_filter.1 hi
  have hle := Nat.lt_of_lt_of_le (List.mem_range.1 hlt) (Nat.min_le_right _ _)
  rw [Bool.or_eq_true, beq_iff_eq] at htaken
  exact ⟨by dsimp only; omega, htaken, rfl⟩

theorem columnsOf_eq (kg : Nat) (m : BitVec 1) (p : BitVec 1024) :
    columnsOf kg m p = if m = 0 then kg else ((List.range kg).filter fun i => p.getLsbD i).length := by
  unfold columnsOf popBelow
  rw [List.countP_eq_length_filter]

/-- A position that takes part has its column among those of A (R221). -/
theorem columnsOf_lt {k kg : Nat} {m : BitVec 1} {p : BitVec 1024} (hk : k < kg) (htaken : m = 0 ∨ p.getLsbD k = true) :
    columnsOf k m p < columnsOf kg m p := by
  unfold columnsOf
  split
  · exact hk
  next hm =>
    have hnext : popBelow p (k + 1) = popBelow p k + 1 := by
      unfold popBelow
      rw [List.range_succ, List.countP_append, List.countP_singleton, if_pos (htaken.resolve_left hm)]
    have hmono : popBelow p (k + 1) ≤ popBelow p kg := (List.range_sublist.2 hk).countP_le
    omega

/-! ## The accumulation -/

/-- Where each group has all its products and only an empty one sets no flag, the accumulation is that of R94. -/
theorem accumulateIn_full {groups : List (List (Nat × Nat))} {quiet : List (Nat × Nat) → Bool}
    {pairs : List (Nat × Nat) → List ((Ex × Int) × (Ex × Int))} {A : Nat → Nat → Ex × Int} {B : Nat → Ex × Int} (acc : Nat)
    (h : ∀ g ∈ groups, quiet g = g.isEmpty ∧ pairs g = g.map fun x => (A x.1 x.2, B x.1)) :
    accumulateIn acc (groups.map fun g => (quiet g, pairs g)) =
      accumulate acc (groups.map fun g => g.map fun x => (A x.1 x.2, B x.1)) := by
  unfold accumulate
  rw [List.map_map]
  refine congrArg (accumulateIn acc) (List.map_congr_left fun g hg => ?_)
  obtain ⟨hquiet, hpairs⟩ := h g hg
  rw [hquiet, hpairs, Function.comp, List.isEmpty_map]

theorem all_eq_isEmpty {α : Type} {f : α → Bool} {xs : List α} (h : ∀ x ∈ xs, f x = false) : xs.all f = xs.isEmpty := by
  cases xs with
  | nil => rfl
  | cons x xs => rw [List.all_cons, h x List.mem_cons_self]; rfl

/-- A product whose operands give every element and pad none (R221): each output is its accumulation. -/
theorem exec_matmul {d : Nat} {groups : List (List (Nat × Nat))} {ra : Nat → Nat → Nat → Option (Ex × Int)}
    {rb : Nat → Nat → Option (Ex × Int)} {pad : Nat → Nat → Nat → Nat → Bool} {A : Nat → Nat → Nat → Ex × Int}
    {B : Nat → Nat → Ex × Int} (hbad : s.hart.vec.badTiles = []) (hmg : sh.mg ≤ 128) (hng : sh.ng ≤ 128)
    (hra : ∀ g ∈ groups, ∀ x ∈ g, ∀ i < sh.mg, ra i x.1 x.2 = some (A i x.1 x.2))
    (hrb : ∀ g ∈ groups, ∀ x ∈ g, ∀ j < sh.ng, rb x.1 j = some (B x.1 j))
    (hpad : ∀ g ∈ groups, ∀ x ∈ g, ∀ i j, pad i x.1 x.2 j = false) :
    ∃ t, (matmul sh d groups ra rb pad).exec s = (.ok (), t) ∧
      WroteCells sh d (fun i j => accumulate (tileAt s.hart.vec d i j) (groups.map fun g => g.map fun x => (A i x.1 x.2, B x.1 j)))
        (sh.mg * sh.ng) s t := by
  refine ⟨_, ?_, wroteCells_foldl _ hbad hng (Nat.mul_le_mul_right sh.ng hmg)⟩
  unfold matmul
  rw [exec_bind_ok (exec_tileErrors_none hbad d _ _), exec_bind_ok (exec_getHart s)]
  refine exec_forN_foldl (fun k hk u => ?_) s
  have hrow : k / sh.ng < sh.mg := Nat.div_lt_of_lt_mul (Nat.mul_comm sh.mg sh.ng ▸ hk)
  have hcol : k % sh.ng < sh.ng := Nat.mod_lt k (Nat.pos_of_mul_pos_left (Nat.zero_lt_of_lt hk))
  dsimp only
  rw [accumulateIn_full (A := A (k / sh.ng)) (B := (B · (k % sh.ng))) (h := ?full), setFlags, exec_bind_ok (exec_modSys _ u)]
  · rfl
  · intro g hg
    refine ⟨all_eq_isEmpty fun x hx => ?_, List.filterMap_eq_map_iff_forall_eq_some.2 fun x hx => ?_⟩
    · rw [hpad g hg x hx, hra g hg x hx _ hrow, hrb g hg x hx _ hcol]
      rfl
    · rw [hra g hg x hx _ hrow, hrb g hg x hx _ hcol]

end Sys2Proof.Machine
end

section
/-! TMMA and TMMAP write the product of their operands (settles O35). -/

namespace Sys2Proof.Machine

variable {s t : State} {e : Entry} {m : BitVec 1}

/-! ## An entry that writes one tile -/

@[simp] theorem queued_vec (s : State) (e : Entry) : (s.queued e).hart.vec = s.hart.vec := passed_vec _
@[simp] theorem queued_sys (s : State) (e : Entry) : (s.queued e).hart.sys = s.hart.sys := passed_sys _
@[simp] theorem queued_vq (s : State) (e : Entry) : (s.queued e).hart.vq = [e] := passed_vq _

/-- A granted shape is at most 128 by 128 (R217). -/
theorem shape_le (h : ShapeOk s.hart.sys.mshp) : (shapeOf s.hart.sys).mg ≤ 128 ∧ (shapeOf s.hart.sys).ng ≤ 128 := by
  obtain ⟨-, hm, hn, -⟩ := h
  exact ⟨hm, hn⟩

theorem WroteCells.dropStrips {sh : Shape} {d n : Nat} {f : Nat → Nat → Rounded} (h : WroteCells sh d f n s t) :
    WroteCells sh d f n s { t with hart := { t.hart with vec := { t.hart.vec with strips := [], outs := [] } } } where
  rest := by
    have hrest := h.rest
    dsimp only at hrest ⊢
    rw [hrest]
  cells := h.cells

/-- An entry that wrote a region of a tile retires. -/
theorem onlyTile_retired {d : Nat} {f : Nat → Nat → Rounded} (hempty : s.hart.vq = [])
    (h : WroteCells (shapeOf s.hart.sys) d f ((shapeOf s.hart.sys).mg * (shapeOf s.hart.sys).ng) (s.queued e) t) :
    OnlyTile s t.retired d (flagsOver ((shapeOf s.hart.sys).mg * (shapeOf s.hart.sys).ng) (fun _ => true)
      fun k => (f (k / (shapeOf s.hart.sys).ng) (k % (shapeOf s.hart.sys).ng)).2) := by
  obtain ⟨hrest, hcells⟩ := h
  refine ⟨?_, ?_, fun x i j hi hj hout => ?_⟩
  · have hqueue : s.passed.hart.vq = [] := (passed_vq s).trans hempty
    unfold OnlyVec State.retired
    rw [hrest, queued_eq]
    dsimp only [State.withQueue, List.tail_cons]
    rw [passed_sys, passed_cfg, hqueue]
  · have hvec : t.hart.vec = { s.hart.vec with
        tiles := t.hart.vec.tiles, strips := t.hart.vec.strips, outs := t.hart.vec.outs } := by
      rw [hrest, queued_vec]
    unfold State.retired
    dsimp only
    rw [hvec]
  · refine (hcells x i j hi hj).trans ?_
    rw [queued_vec]
    refine if_neg fun ⟨hx, hcol, hlt⟩ => ?_
    rcases hout with hne | hrow | hnext
    · exact hne hx
    · have := Nat.mul_le_mul_right (shapeOf s.hart.sys).ng hrow
      omega
    · omega

/-- A guarded instruction whose work writes the region of a tile retires in one step (R215, R216). -/
theorem wroteShape_of_guardedWhole {w lit : BitVec 32} {op : VOp} {d : Nat} {f : Nat → Nat → Rounded}
    {names : VConf → M Unit} {body : Entry → VConf → Shape → M Unit} (hr : Ready s) (hon : GuardOn s) (hd : Dispatches op s)
    (hc : op.check = fun _ => pure ()) (ha : op.atDispatch = fun e => pure e) (hw : op.whole = true)
    (hnames : ∀ e, (names s.hart.cfg.from0).exec (s.queued e) = (.ok (), s.queued e))
    (hbody : ∃ t, (body (entryOf s w lit op.a op.b true) s.hart.cfg.from0 (shapeOf s.hart.sys)).exec
        (s.queued (entryOf s w lit op.a op.b true)) = (.ok (), t) ∧
      WroteCells (shapeOf s.hart.sys) d f ((shapeOf s.hart.sys).mg * (shapeOf s.hart.sys).ng)
        (s.queued (entryOf s w lit op.a op.b true)) t) :
    WroteShape s d f (dispatchV w lit op (fun e => guardedWhole e names (body e)) s) := by
  obtain ⟨hguard, hshape⟩ := hon
  obtain ⟨t, hrun, hcells⟩ := hbody
  refine ⟨t.retired, dispatchV_done w lit op _ hr hd hc ha ?_, onlyTile_retired hr.empty hcells, fun i hi j hj => ?_⟩
  · rw [hw]
    have hmshp : (s.queued (entryOf s w lit op.a op.b true)).hart.sys.mshp.getLsbD 31 = true := by
      rw [queued_sys]
      exact hshape.1
    rw [exec_guardedWhole (queued_vq ..) rfl (hnames _) (by rw [queued_vec]; exact hguard) hmshp, queued_sys]
    exact hrun
  · have hrow := Nat.mul_le_mul_right (shapeOf s.hart.sys).ng (Nat.succ_le_of_lt hi)
    rw [Nat.succ_mul] at hrow
    obtain ⟨hmg, hng⟩ := shape_le hshape
    exact (hcells.cells d i j (by omega) (by omega)).trans (if_pos ⟨rfl, hj, by omega⟩)

/-! ## The checks of a product -/

theorem exec_checkFA_ok {fa : Nat} {sa : Bool} (h : FormatAOk fa sa m) (s : State) : (checkFA fa sa m).exec s = (.ok (), s) := by
  obtain ⟨hlo, hhi, hblock, hplain, hmask⟩ := h
  have hformat : (decide (fa < 5) || decide (11 < fa) || (decide (10 ≤ fa) && !sa) || (decide (fa < 8) && sa)) = false := by
    simp only [Bool.eq_false_iff, ne_eq, Bool.or_eq_true, Bool.and_eq_true, decide_eq_true_iff, Bool.not_eq_true']
    rintro (((h | h) | ⟨h, hsa⟩) | ⟨h, hsa⟩)
    · omega
    · omega
    · exact hsa (hblock h)
    · exact Bool.false_ne_true ((hplain h).symm.trans hsa)
  have hmasked : (m == 1 && sa) = false := by
    rw [Bool.eq_false_iff, ne_eq, Bool.and_eq_true, beq_iff_eq]
    exact hmask
  unfold checkFA
  rw [exec_bind_ok (exec_trapIf_false hformat _ _ s), exec_trapIf_false hmasked]

theorem exec_checkL_ok {c : VConf} {need : Nat} (h : need ≤ strideOf c need) (s : State) :
    (checkL c.from0 need).exec s = (.ok (strideOf c need), s) := by
  unfold checkL
  exact (exec_bind_ok (exec_trapIf_false (decide_eq_false (Nat.not_lt.2 h)) _ _ s)).trans rfl

/-! ## The product -/

/-- The granted shape (R213). -/
abbrev State.shape (s : State) : Shape := shapeOf s.hart.sys

/-- The formats and scale registers of MFMT (R213). -/
abbrev State.formats (s : State) : MatFmt := matFmt s.hart.sys

/-- The predicate that masks the positions of K (R221). -/
abbrev State.kMask (s : State) : BitVec 1024 := predOf s.hart.vec s.hart.cfg.psel.toNat

/-- The product over the positions that take part, where both operands give their elements and pad none. -/
theorem exec_matmul_product (hr : Ready s) (hon : GuardOn s) {d size : Nat} {ra : Nat → Nat → Nat → Option (Ex × Int)}
    {rb : Nat → Nat → Option (Ex × Int)} {pad : Nat → Nat → Nat → Nat → Bool} {A : Nat → Nat → Nat → Ex × Int}
    {B : Nat → Nat → Ex × Int}
    (hra : ∀ k < s.shape.kg, (m = 0 ∨ s.kMask.getLsbD k = true) → ∀ i < s.shape.mg,
      ra i k (columnsOf k m s.kMask) = some (A i k (columnsOf k m s.kMask)))
    (hrb : ∀ k < s.shape.kg, (m = 0 ∨ s.kMask.getLsbD k = true) → ∀ j < s.shape.ng, rb k j = some (B k j))
    (hpad : ∀ i k col j, pad i k col j = false) :
    ∃ t, (matmul s.shape d (kGroups s.shape.kg size m s.kMask) ra rb pad).exec (s.queued e) = (.ok (), t) ∧
      WroteCells s.shape d (productAt s d size m A B) (s.shape.mg * s.shape.ng) (s.queued e) t := by
  obtain ⟨hmg, hng⟩ := shape_le hon.2
  have hbad : (s.queued e).hart.vec.badTiles = [] := by
    rw [queued_vec]
    exact hr.soundTiles
  have hrun := exec_matmul (d := d) (groups := kGroups s.shape.kg size m s.kMask) (ra := ra) (rb := rb) (pad := pad) (A := A)
    (B := B) hbad hmg hng (fun g hg x hx i hi => ?_) (fun g hg x hx j hj => ?_) fun _ _ x _ i j => hpad i x.1 x.2 j
  · rw [queued_vec] at hrun
    exact hrun
  all_goals obtain ⟨hk, htaken, hcol⟩ := of_mem_kGroups hg hx
  · rw [hcol]
    exact hra x.1 hk htaken i hi
  · exact hrb x.1 hk htaken j hj

/-! ## Operands in rows (R219) -/

theorem plainSource_of_flatOk {n : BitVec 7} {fmt count : Nat} (h : FlatOk s n fmt count) (e : Entry) :
    PlainSource s.hart.cfg.from0 (s.queued e) (flatOpnd n fmt count .src) where
  use := rfl
  rows := Nat.le_max_left ..
  inside := by
    rw [queued_sys]
    exact h.1
  unbound k hk := by
    rw [queued_vec, Nat.add_assoc]
    exact h.2 k hk

theorem FlatOk.unbound {n : BitVec 7} {fmt count : Nat} (h : FlatOk s n fmt count) :
    streamAt s.hart.vec (s.hart.cfg.from0.vwb.toNat + n.toNat) = none := h.2 0 (Nat.le_max_left ..)

theorem exec_checkRowName_flat {n : BitVec 7} {fmt count : Nat} (h : FlatOk s n fmt count) (e : Entry) :
    (checkRowName s.hart.cfg.from0 n).exec (s.queued e) = (.ok (), s.queued e) := by
  obtain ⟨⟨hlast, hrows⟩, -⟩ := h
  have hone : 1 ≤ Nat.max 1 ((count + vlmax fmt - 1) / vlmax fmt) := Nat.le_max_left ..
  refine exec_checkRowsNat_ok ?_
  rw [queued_sys]
  change _ ∧ s.hart.cfg.vwb.toNat + _ + 1 - 1 < _
  omega

theorem flatElem_unbound {n : BitVec 7} (h : streamAt s.hart.vec (s.hart.cfg.from0.vwb.toNat + n.toNat) = none) (fmt i : Nat) :
    flatElem s.hart.vec s.hart.cfg.from0 n fmt i = some (flatAt s n fmt i) := if_pos (inStrip_unbound h i)

theorem formatA_unbound {a : BitVec 7} (h : streamAt s.hart.vec (s.hart.cfg.from0.vwb.toNat + a.toNat) = none) :
    formatA s.hart.cfg.from0 s.hart.vec a = s.hart.cfg.et := by
  unfold formatA
  rw [h]
  rfl

/-- Work that writes the region of a tile, on operands in plain rows, writes it. -/
theorem exec_withFlat_wroteCells (hr : Ready s) {os : List (Nat × Opnd)} {body : M Unit} {d n : Nat} {f : Nat → Nat → Rounded}
    {sh : Shape} (hplain : ∀ o ∈ os, PlainSource s.hart.cfg.from0 (s.queued e) o.2)
    (hbody : ∃ t, body.exec (s.queued e) = (.ok (), t) ∧ WroteCells sh d f n (s.queued e) t) :
    ∃ t, (withFlat s.hart.cfg.from0 os body).exec (s.queued e) = (.ok (), t) ∧ WroteCells sh d f n (s.queued e) t := by
  obtain ⟨t, hrun, hcells⟩ := hbody
  have hbad : (s.queued e).hart.vec.badRows = [] := by
    rw [queued_vec]
    exact hr.soundRows
  exact ⟨_, exec_withFlat hplain hbad hrun (by rw [hcells.rest]) (by rw [hcells.rest]), hcells.dropStrips⟩

/-- The element of A in column `col` of row i, in rows at stride l, with the block scale of position k (R219, R220). -/
def rowsA (s : State) (a : BitVec 7) (l i k col : Nat) : Ex × Int :=
  matValue s.hart.vec s.hart.cfg.et (flatAt s a s.hart.cfg.et (i * l + col)) s.formats.sa s.formats.xa
    (i * ((s.shape.kg + 31) / 32) + k / 32)

/-- The element (k, j) of B in rows at stride l (R219, R220). -/
def rowsB (s : State) (b : BitVec 7) (l k j : Nat) : Ex × Int :=
  matValue s.hart.vec s.formats.fb (flatAt s b s.formats.fb (k * l + j)) s.formats.sb s.formats.xb (k / 32 * s.shape.ng + j)

/-- The element of A in a tile, rounded to BF16 with no flag (R222). -/
def tileA (s : State) (a i col : Nat) : Ex × Int :=
  (bf16.value (bf16.rnd 0 0 false (v32 (tileAt s.hart.vec a i col))).1, 0)

section

variable (hr : Ready s) (hon : GuardOn s) (hmask : MaskOk s m) {a b : BitVec 7} {ka : Nat}
  (hka : columnsOf s.shape.kg m s.kMask = ka) (hfitsA : ka ≤ strideOf s.hart.cfg ka)
  (hfitsB : s.shape.ng ≤ strideOf s.hart.cfg s.shape.ng)
  (hb : FlatOk s b s.formats.fb ((s.shape.kg - 1) * strideOf s.hart.cfg s.shape.ng + s.shape.ng))

include hr hon hmask hka hfitsA hfitsB hb

theorem exec_tmmaRows (e : Entry) (d : Nat) (hfa : FormatAOk s.hart.cfg.et s.formats.sa m)
    (ha : FlatOk s a s.hart.cfg.et (if ka = 0 then 0 else (s.shape.mg - 1) * strideOf s.hart.cfg ka + ka)) :
    ∃ t, (tmmaRows s.hart.cfg.from0 s.shape d a b m).exec (s.queued e) = (.ok (), t) ∧
      WroteCells s.shape d
        (productAt s d (Nat.min (groupSize s.hart.cfg.et s.formats.sa) (groupSize s.formats.fb s.formats.sb)) m
          (rowsA s a (strideOf s.hart.cfg ka)) (rowsB s b (strideOf s.hart.cfg s.shape.ng)))
        (s.shape.mg * s.shape.ng) (s.queued e) t := by
  unfold tmmaRows
  rw [exec_bind_ok (exec_getHart _), queued_vec, queued_sys]
  dsimp only [from0_psel]
  rw [formatA_unbound ha.unbound, hka, exec_bind_ok (exec_maskVl_ok hmask _), exec_bind_ok (exec_checkFA_ok hfa _),
    exec_bind_ok (exec_checkL_ok hfitsA _), exec_bind_ok (exec_checkL_ok hfitsB _)]
  refine exec_withFlat_wroteCells hr (List.forall_mem_cons.2
    ⟨plainSource_of_flatOk ha e, List.forall_mem_singleton.2 (plainSource_of_flatOk hb e)⟩) ?_
  rw [exec_bind_ok (exec_getHart _), queued_vec]
  refine exec_matmul_product hr hon (fun k _ _ i _ => ?_) (fun k _ _ j _ => ?_) fun i k col j => ?_
  · rw [flatElem_unbound ha.unbound]
    rfl
  · rw [flatElem_unbound hb.unbound]
    rfl
  · rw [padded_unbound ha.unbound, padded_unbound hb.unbound]
    rfl

theorem exec_tmmaTile (e : Entry) (d a : Nat) (hkg : s.shape.kg ≤ 128) (hne : a ≠ d) :
    ∃ t, (tmmaTile s.hart.cfg.from0 s.shape d a b m).exec (s.queued e) = (.ok (), t) ∧
      WroteCells s.shape d
        (productAt s d (Nat.min 2 (groupSize s.formats.fb s.formats.sb)) m (fun i _ col => tileA s a i col)
          (rowsB s b (strideOf s.hart.cfg s.shape.ng)))
        (s.shape.mg * s.shape.ng) (s.queued e) t := by
  have hbad : (s.queued e).hart.vec.badTiles = [] := by
    rw [queued_vec]
    exact hr.soundTiles
  unfold tmmaTile
  rw [exec_bind_ok (exec_getHart _), queued_vec, queued_sys]
  dsimp only [from0_psel]
  rw [hka, exec_bind_ok (exec_maskVl_ok hmask _), exec_bind_ok (exec_trapIf_false (decide_eq_false (Nat.not_lt.2 hkg)) _ _ _),
    exec_bind_ok (exec_trapIf_false (decide_eq_false hne) _ _ _), exec_bind_ok (exec_checkL_ok hfitsB _),
    exec_bind_ok (exec_checkL_ok hfitsA _)]
  refine exec_withFlat_wroteCells hr (List.forall_mem_singleton.2 (plainSource_of_flatOk hb e)) ?_
  rw [exec_bind_ok (exec_tileErrors_none hbad _ _ _), exec_bind_ok (exec_getHart _), queued_vec]
  refine exec_matmul_product hr hon (fun k _ _ i _ => rfl) (fun k _ _ j _ => ?_) fun i k col j => padded_unbound hb.unbound _
  rw [flatElem_unbound hb.unbound]
  rfl

end

/-! ## Operands in the scratchpad (R223) -/

section

variable {q : State}

theorem exec_spRead (hfree : Unlocked q) {v : Word} {z : Nat} {p : Nat × Nat} (h : SpRead q v z p) :
    (spRead v z).exec q = (.ok (q.spNat p.1 p.2 z), q) := by
  obtain ⟨⟨halign, hcheck⟩, hclean⟩ := h
  have hpoison : ((q.core p.1).spPoison.any fun x => decide (p.2 ≤ x) && decide (x < p.2 + z)) = false := by
    rw [List.any_eq_false]
    intro x hx
    have := hclean x hx
    rw [Bool.and_eq_true, decide_eq_true_iff, decide_eq_true_iff]
    omega
  have hsound : (spPoisonCheck p.1 p.2 z v).exec q = (.ok (), q) := by
    unfold spPoisonCheck
    rw [exec_bind_ok (exec_get q)]
    exact exec_trapIf_false hpoison _ _ q
  unfold spRead
  rw [exec_bind_ok (exec_trapIf_aligned halign q), exec_bind_ok hcheck]
  dsimp only
  rw [exec_bind_ok (exec_stallOn_free true _ z false q hfree), exec_bind_ok hsound, exec_bind_ok (exec_get q)]
  rfl

/-- The operand that a register pair gives (R223). -/
def poolOf (x y : Word) : PoolOpnd := ⟨bitsOf x.toNat 23 0, bitsOf x.toNat 39 24, bitsOf y.toNat 31 0, bitsOf y.toNat 33 32⟩

/-- The address of element (i, j) of an operand, where a 4-bit element is reached through its byte (R74, R223). -/
def poolAddr (o : PoolOpnd) (fmt i j : Nat) : Word :=
  BitVec.ofNat 64 (o.base + i / 128 * o.tile + i % 128 * o.pitch + 256 * (i * o.rot % 8) +
    (if widthOf fmt = 4 then j / 2 else j * (widthOf fmt / 8)))

/-- The bits of a register pair that must be zero are, and its tile pitch is a multiple of 256 (R223). -/
structure PoolPair (x y : Word) : Prop where
  top : bitsOf x.toNat 63 40 = 0
  pitch : bitsOf x.toNat 27 24 = 0
  high : bitsOf y.toNat 63 34 = 0
  tile : bitsOf y.toNat 7 0 = 0

/-- The element in column j of an operand, in the bytes at an offset of a core's scratchpad. -/
def poolAt (q : State) (fmt j : Nat) (r : Nat × Nat) : Nat :=
  elemPart (widthOf fmt) j (q.spNat r.1 r.2 (elemBytes (widthOf fmt)))

theorem exec_poolOpnd {x y : Word} (h : PoolPair x y) : (poolOpnd x y).exec q = (.ok (poolOf x y), q) := by
  unfold poolOpnd
  rw [exec_bind_ok (exec_trapIf_false (by rw [h.top, h.pitch]; rfl) _ _ q),
    exec_bind_ok (exec_trapIf_false (by rw [h.high, h.tile]; rfl) _ _ q)]
  rfl

theorem elemPart_eq (w j x : Nat) : (if w = 4 then if j % 2 = 0 then x % 16 else x / 16 else x) = elemPart w j x := by
  unfold elemPart
  rcases Nat.mod_two_eq_zero_or_one j with h | h <;> rw [h] <;> rfl

theorem exec_poolElem (hfree : Unlocked q) {o : PoolOpnd} {fmt i j : Nat} {r : Nat × Nat}
    (h : SpRead q (poolAddr o fmt i j) (elemBytes (widthOf fmt)) r) :
    (poolElem o fmt i j).exec q = (.ok (poolAt q fmt j r), q) := by
  unfold poolElem
  dsimp only
  refine (exec_bind_ok (exec_spRead hfree h)).trans ?_
  rw [elemPart_eq]
  rfl

section

variable {o : PoolOpnd} {fmt cols : Nat} {rows : List Nat} {g : Nat → Nat → Nat}

theorem exec_poolTable (h : ∀ i ∈ rows, ∀ j < cols, (poolElem o fmt i j).exec q = (.ok (g i j), q)) :
    (poolTable o fmt rows cols).exec q = (.ok (rows.map fun i => (i, (List.range' 0 cols).map (g i))), q) := by
  have hrows (acc : List (Nat × List Nat)) : (rows.foldlM (fun acc i => do
      let xs ← mapFrom cols 0 fun j => poolElem o fmt i j
      pure (acc ++ [(i, xs)])) acc : M _).exec q =
        (.ok (acc ++ rows.map fun i => (i, (List.range' 0 cols).map (g i))), q) := by
    induction rows generalizing acc with
    | nil => rw [List.map_nil, List.append_nil]; rfl
    | cons i rows ih =>
      rw [List.forall_mem_cons] at h
      have hrow : (do
          let xs ← mapFrom cols 0 fun j => poolElem o fmt i j
          pure (acc ++ [(i, xs)]) : M _).exec q = (.ok (acc ++ [(i, (List.range' 0 cols).map (g i))]), q) :=
        exec_bind_ok (exec_mapFrom_pure fun j _ hj => h.1 j (by omega))
      rw [List.foldlM_cons, exec_bind_ok hrow, ih h.2, List.append_assoc]
      rfl
  exact hrows []

theorem tableAt_map {i j : Nat} (hi : i ∈ rows) (hj : j < cols) :
    tableAt (rows.map fun i => (i, (List.range' 0 cols).map (g i))) i j = g i j := by
  have hrow : (rows.map fun i => (i, (List.range' 0 cols).map (g i))).find? (fun r => r.1 == i) =
      some (i, (List.range' 0 cols).map (g i)) := by
    have hfind : rows.find? (· == i) = some i := by
      obtain ⟨k, hk⟩ : ∃ k, rows.find? (· == i) = some k :=
        Option.isSome_iff_exists.1 (List.find?_isSome.2 ⟨i, hi, beq_self_eq_true i⟩)
      have hsame : (k == i) = true := List.find?_some (p := (· == i)) hk
      rw [hk, beq_iff_eq.1 hsame]
    rw [List.find?_map]
    change Option.map _ (rows.find? (· == i)) = _
    rw [hfind]
    rfl
  unfold tableAt
  rw [hrow]
  simp [hj]

end

end

/-- TMMAP (R223): the tables hold the elements at the addresses that the pairs give, and the product is over them. -/
theorem exec_tmmapTile (hr : Ready s) (hon : GuardOn s) (hmask : MaskOk s m) (e : Entry) (d : Nat) {ka : Nat}
    (hka : columnsOf s.shape.kg m s.kMask = ka) (hfitsA : ka ≤ strideOf s.hart.cfg ka)
    (hfitsB : s.shape.ng ≤ strideOf s.hart.cfg s.shape.ng) (hfa : FormatAOk s.hart.cfg.et s.formats.sa m)
    (hfree : Unlocked (s.queued e)) (hpairA : PoolPair e.a0 e.a1) (hpairB : PoolPair e.b0 e.b1) {P Q : Nat → Nat → Nat × Nat}
    (hA : ∀ i < s.shape.mg, ∀ j < ka,
      SpRead (s.queued e) (poolAddr (poolOf e.a0 e.a1) s.hart.cfg.et i j) (elemBytes (widthOf s.hart.cfg.et)) (P i j))
    (hB : ∀ k < s.shape.kg, (m = 0 ∨ s.kMask.getLsbD k = true) → ∀ j < s.shape.ng,
      SpRead (s.queued e) (poolAddr (poolOf e.b0 e.b1) s.formats.fb k j) (elemBytes (widthOf s.formats.fb)) (Q k j)) :
    ∃ t, (tmmapTile s.hart.cfg.from0 s.shape d m e).exec (s.queued e) = (.ok (), t) ∧
      WroteCells s.shape d
        (productAt s d (Nat.min (groupSize s.hart.cfg.et s.formats.sa) (groupSize s.formats.fb s.formats.sb)) m
          (fun i k col => matValue s.hart.vec s.hart.cfg.et (poolAt (s.queued e) s.hart.cfg.et col (P i col)) s.formats.sa
            s.formats.xa (i * ((s.shape.kg + 31) / 32) + k / 32))
          (fun k j => matValue s.hart.vec s.formats.fb (poolAt (s.queued e) s.formats.fb j (Q k j)) s.formats.sb s.formats.xb
            (k / 32 * s.shape.ng + j)))
        (s.shape.mg * s.shape.ng) (s.queued e) t := by
  have htaken (k : Nat) : k ∈ (List.range s.shape.kg).filter (fun k => m == 0 || s.kMask.getLsbD k) ↔
      k < s.shape.kg ∧ (m = 0 ∨ s.kMask.getLsbD k = true) := by
    rw [List.mem_filter, List.mem_range, Bool.or_eq_true, beq_iff_eq]
  have htableA := exec_poolTable (rows := List.range s.shape.mg) (cols := ka)
    (g := fun i j => poolAt (s.queued e) s.hart.cfg.et j (P i j))
    fun i hi j hj => exec_poolElem hfree (hA i (List.mem_range.1 hi) j hj)
  have htableB := exec_poolTable (cols := s.shape.ng) (g := fun k j => poolAt (s.queued e) s.formats.fb j (Q k j))
    fun k hk j hj => exec_poolElem hfree (hB k ((htaken k).1 hk).1 ((htaken k).1 hk).2 j hj)
  unfold tmmapTile
  rw [exec_bind_ok (exec_getHart _), queued_vec, queued_sys]
  dsimp only [from0_psel, from0_et]
  rw [hka, exec_bind_ok (exec_maskVl_ok hmask _), exec_bind_ok (exec_checkFA_ok hfa _), exec_bind_ok (exec_poolOpnd hpairA),
    exec_bind_ok (exec_poolOpnd hpairB), exec_bind_ok (exec_checkL_ok hfitsA _), exec_bind_ok (exec_checkL_ok hfitsB _),
    exec_bind_ok htableA, exec_bind_ok htableB]
  refine exec_matmul_product hr hon (fun k hk hm i hi => ?_) (fun k hk hm j hj => ?_) fun _ _ _ _ => rfl
  · rw [tableAt_map (List.mem_range.2 hi) (hka ▸ columnsOf_lt hk hm)]
  · rw [tableAt_map ((htaken k).2 ⟨hk, hm⟩) hj]

/-! ## The instructions -/

/-- TMMA (R221, R222), in either form of A: the name of A passes its check, and the work on the operands writes the region. -/
theorem wroteShape_tmma (hr : Ready s) (hon : GuardOn s) {t : BitVec 1} {d : BitVec 5} {a b : BitVec 7} {fmt count : Nat}
    {f : Nat → Nat → Rounded} (hd : TileOk s d.toNat) (hb : FlatOk s b fmt count)
    (ha : ∀ e, (if t = 1 then checkTile a.toNat else checkRowName s.hart.cfg.from0 a).exec (s.queued e) = (.ok (), s.queued e))
    (hbody : ∀ e, ∃ u, (if t = 1 then tmmaTile s.hart.cfg.from0 s.shape d.toNat a.toNat b m
        else tmmaRows s.hart.cfg.from0 s.shape d.toNat a b m).exec (s.queued e) = (.ok (), u) ∧
      WroteCells s.shape d.toNat f (s.shape.mg * s.shape.ng) (s.queued e) u) :
    WroteShape s d.toNat f (exec (.tmma t d a b m) s) := by
  refine wroteShape_of_guardedWhole hr hon ⟨fun h => (by cases h), .inl hr.live, rfl, trivial, trivial⟩ rfl rfl rfl
    (names := fun c => do
      checkTile d.toNat
      if t = 1 then checkTile a.toNat else checkRowName c a
      checkRowName c b)
    (body := fun _ c sh => if t = 1 then tmmaTile c sh d.toNat a.toNat b m else tmmaRows c sh d.toNat a b m)
    (fun e => ?_) (hbody _)
  rw [exec_bind_ok (exec_checkTile_ok (by rw [queued_sys]; exact hd))]
  by_cases ht : t = 1
  all_goals
    simp only [ht, if_true, if_false] at ha ⊢
    exact (exec_bind_ok (ha e)).trans (exec_checkRowName_flat hb e)

section

variable (hr : Ready s) (hon : GuardOn s) (hmask : MaskOk s m)

include hr hon hmask

theorem wroteShape_tmma_rows {d : BitVec 5} {a b : BitVec 7} {ka : Nat} (hka : columnsOf s.shape.kg m s.kMask = ka)
    (hfitsA : ka ≤ strideOf s.hart.cfg ka) (hfitsB : s.shape.ng ≤ strideOf s.hart.cfg s.shape.ng)
    (hb : FlatOk s b s.formats.fb ((s.shape.kg - 1) * strideOf s.hart.cfg s.shape.ng + s.shape.ng)) (hd : TileOk s d.toNat)
    (hfa : FormatAOk s.hart.cfg.et s.formats.sa m)
    (ha : FlatOk s a s.hart.cfg.et (if ka = 0 then 0 else (s.shape.mg - 1) * strideOf s.hart.cfg ka + ka)) :
    WroteShape s d.toNat
      (productAt s d.toNat (Nat.min (groupSize s.hart.cfg.et s.formats.sa) (groupSize s.formats.fb s.formats.sb)) m
        (rowsA s a (strideOf s.hart.cfg ka)) (rowsB s b (strideOf s.hart.cfg s.shape.ng)))
      (exec (.tmma 0 d a b m) s) :=
  wroteShape_tmma hr hon hd hb (exec_checkRowName_flat ha) fun e =>
    exec_tmmaRows hr hon hmask hka hfitsA hfitsB hb e d.toNat hfa ha

theorem wroteShape_tmma_tile {d : BitVec 5} {a b : BitVec 7} {ka : Nat} (hka : columnsOf s.shape.kg m s.kMask = ka)
    (hfitsA : ka ≤ strideOf s.hart.cfg ka) (hfitsB : s.shape.ng ≤ strideOf s.hart.cfg s.shape.ng)
    (hb : FlatOk s b s.formats.fb ((s.shape.kg - 1) * strideOf s.hart.cfg s.shape.ng + s.shape.ng)) (hd : TileOk s d.toNat)
    (ha : TileOk s a.toNat) (hkg : s.shape.kg ≤ 128) (hne : a.toNat ≠ d.toNat) :
    WroteShape s d.toNat
      (productAt s d.toNat (Nat.min 2 (groupSize s.formats.fb s.formats.sb)) m (fun i _ col => tileA s a.toNat i col)
        (rowsB s b (strideOf s.hart.cfg s.shape.ng)))
      (exec (.tmma 1 d a b m) s) :=
  wroteShape_tmma hr hon hd hb (fun _ => exec_checkTile_ok (by rw [queued_sys]; exact ha)) fun e =>
    exec_tmmaTile hr hon hmask hka hfitsA hfitsB hb e d.toNat a.toNat hkg hne

end

/-- Settles O35: each instruction runs its product, by the form of its operands. That with A in a tile FA, SA and XA say nothing is the
model's reading (log 120). -/
theorem matrixProductResults : Obligations.MatrixProductResults := by
  intro d d7 a b m s hr hon hmask c sh mf p ka l bAt aScale hfitsA hfitsB
  have hka : columnsOf s.shape.kg m s.kMask = ka := columnsOf_eq ..
  refine ⟨fun hb hd => ⟨fun hfa ha => ?_, fun ha hkg hne => ?_⟩, ?_⟩
  · exact wroteShape_tmma_rows hr hon hmask hka hfitsA hfitsB hb hd hfa ha
  · exact wroteShape_tmma_tile hr hon hmask hka hfitsA hfitsB hb hd ha hkg hne
  · intro q x y u v addr at' P Q ha hb hd hfa hfree hx40 hx24 hy34 hy0 hu40 hu24 hv34 hv0 hA hB
    exact wroteShape_of_guardedWhole hr hon ⟨fun h => (by cases h), .inl hr.live, rfl, ha, hb⟩ rfl rfl rfl
      (names := fun _ => checkTile d7.toNat) (body := fun e c sh => tmmapTile c sh d7.toNat m e)
      (fun e => exec_checkTile_ok (by rw [queued_sys]; exact hd))
      (exec_tmmapTile hr hon hmask _ d7.toNat hka hfitsA hfitsB hfa hfree ⟨hx40, hx24, hy34, hy0⟩ ⟨hu40, hu24, hv34, hv0⟩ hA hB)

end Sys2Proof.Machine
end

section
/-! The results of the scalar integer instructions (R87, R95–R98), and what going on to the next word may change (settles O2, O3 and
O4). -/

namespace Sys2Proof.Machine

variable {s : State}

/-! ## Words as numbers -/

theorem word_shiftLeft_eq (x : Word) (n : Nat) : x <<< n = BitVec.ofNat 64 (x.toNat * 2 ^ n) := by
  apply BitVec.eq_of_toNat_eq
  rw [BitVec.toNat_shiftLeft, Nat.shiftLeft_eq, BitVec.toNat_ofNat]

theorem word_ushiftRight_eq (x : Word) (n : Nat) : x >>> n = BitVec.ofNat 64 (x.toNat / 2 ^ n) := by
  rw [← Nat.shiftRight_eq_div_pow, ← BitVec.toNat_ushiftRight, BitVec.ofNat_toNat, BitVec.setWidth_eq]

theorem word_sshiftRight_eq (x : Word) (n : Nat) : x.sshiftRight n = BitVec.ofInt 64 (x.toInt / 2 ^ n) := by
  rw [BitVec.sshiftRight, Int.shiftRight_eq_div_pow]
  norm_cast

theorem word_rotateRight_eq (x : Word) {n : Nat} (hn : n < 64) :
    x.rotateRight n = BitVec.ofNat 64 (x.toNat / 2 ^ n ||| x.toNat * 2 ^ (64 - n)) := by
  rw [BitVec.rotateRight_def, Nat.mod_eq_of_lt hn, word_shiftLeft_eq, word_ushiftRight_eq, BitVec.ofNat_or]

theorem word_mul_eq (x y : Word) : x * y = BitVec.ofNat 64 (x.toNat * y.toNat) := by
  apply BitVec.eq_of_toNat_eq
  rw [BitVec.toNat_mul, BitVec.toNat_ofNat]

/-- The low `n` bits, with zeros above them. -/
theorem zeroExtend_truncate_eq (x : Word) (n : Nat) :
    (x.truncate n).zeroExtend 64 = BitVec.ofNat 64 (x.toNat % 2 ^ n) := by
  rw [zeroExtend_eq_ofNat, BitVec.truncate_eq_setWidth, BitVec.toNat_setWidth]

/-! ## Division (R87) -/

theorem divS_eq (x y : Word) :
    divS x y = if y = 0 then BitVec.ofInt 64 (-1) else BitVec.ofInt 64 (x.toInt.tdiv y.toInt) := by
  have hdiv : x.sdiv y = BitVec.ofInt 64 (x.toInt.tdiv y.toInt) :=
    BitVec.eq_of_toInt_eq (by rw [BitVec.toInt_sdiv, BitVec.toInt_ofInt])
  rw [divS, hdiv]
  rfl

theorem divU_eq (x y : Word) :
    divU x y = if y = 0 then BitVec.ofInt 64 (-1) else BitVec.ofNat 64 (x.toNat / y.toNat) := by
  rw [divU, ← BitVec.toNat_udiv, BitVec.ofNat_toNat, BitVec.setWidth_eq]
  rfl

theorem remS_eq (x y : Word) : remS x y = if y = 0 then x else BitVec.ofInt 64 (x.toInt.tmod y.toInt) := by
  rw [remS, ← BitVec.toInt_srem, BitVec.ofInt_toInt]

theorem remU_eq (x y : Word) : remU x y = if y = 0 then x else BitVec.ofNat 64 (x.toNat % y.toNat) := by
  rw [remU, ← BitVec.toNat_umod, BitVec.ofNat_toNat, BitVec.setWidth_eq]

/-! ## Comparison -/

/-- A choice by the signed order is a choice by the order of the integers: where the two are equal both choices give the same. -/
theorem ite_slt_eq {x y u v : Word} (h : x = y → u = v) :
    (if x.slt y then u else v) = if x.toInt ≤ y.toInt then u else v := by
  rw [BitVec.slt_eq_decide]
  rcases lt_trichotomy x.toInt y.toInt with hlt | heq | hgt
  · rw [if_pos (decide_eq_true hlt), if_pos hlt.le]
  · rw [h (BitVec.eq_of_toInt_eq heq), ite_self, ite_self]
  · rw [if_neg (by simpa using hgt.le), if_neg hgt.not_ge]

/-- The same for the unsigned order. -/
theorem ite_ult_eq {x y u v : Word} (h : x = y → u = v) :
    (if x.ult y then u else v) = if x.toNat ≤ y.toNat then u else v := by
  rw [BitVec.ult_eq_decide]
  rcases lt_trichotomy x.toNat y.toNat with hlt | heq | hgt
  · rw [if_pos (decide_eq_true hlt), if_pos hlt.le]
  · rw [h (BitVec.eq_of_toNat_eq heq), ite_self, ite_self]
  · rw [if_neg (by simpa using hgt.le), if_neg hgt.not_ge]

theorem ofBool_eq {b : Bool} {p : Prop} [Decidable p] (h : b = true ↔ p) : ofBool b = if p then 1 else 0 :=
  if_congr h rfl rfl

/-! ## Counting bits (R97) -/

/-- A test that holds for the numbers below `k` and for no others holds for `k` numbers. -/
theorem length_filter_range_of_iff_lt {k n : Nat} {p : Nat → Bool} (hk : k ≤ n) (hp : ∀ i < n, p i = true ↔ i < k) :
    ((List.range n).filter p).length = k := by
  obtain ⟨m, rfl⟩ := Nat.exists_eq_add_of_le hk
  have hlow : (List.range k).filter p = List.range k := List.filter_eq_self.2 fun i hi => by
    have hik := List.mem_range.1 hi
    exact (hp i (by omega)).2 hik
  have hhigh : ((List.range m).map (k + ·)).filter p = [] := List.filter_eq_nil_iff.2 fun i hi => by
    obtain ⟨j, hj, rfl⟩ := List.mem_map.1 hi
    have hjm := List.mem_range.1 hj
    rw [hp _ (by omega)]
    omega
  rw [List.range_add, List.filter_append, hlow, hhigh, List.append_nil, List.length_range]

theorem clz64_eq (x : Word) :
    clz64 x = BitVec.ofNat 64 ((List.range 64).filter fun i => x.toNat < 2 ^ (63 - i)).length := by
  unfold clz64
  split
  next h0 =>
    subst h0
    rfl
  next h0 =>
    have hne : x.toNat ≠ 0 := fun e => h0 (BitVec.eq_of_toNat_eq e)
    have hlog : x.toNat.log2 < 64 := (Nat.log2_lt hne).2 x.isLt
    rw [length_filter_range_of_iff_lt (k := 63 - x.toNat.log2) (by omega)]
    intro i hi
    rw [decide_eq_true_iff, ← Nat.log2_lt hne]
    omega

theorem mod_two_pow_eq_zero_iff (x i : Nat) : x % 2 ^ i = 0 ↔ ∀ j < i, x.testBit j = false := by
  constructor
  · intro h j hj
    rw [← Nat.zero_testBit j, ← h, Nat.testBit_mod_two_pow, decide_eq_true hj, Bool.true_and]
  · refine fun h => Nat.eq_of_testBit_eq fun j => ?_
    rw [Nat.testBit_mod_two_pow, Nat.zero_testBit]
    by_cases hj : j < i
    · rw [h j hj, Bool.and_false]
    · rw [decide_eq_false hj, Bool.false_and]

theorem ctz64_eq (x : Word) :
    ctz64 x = BitVec.ofNat 64 ((List.range 64).filter fun i => x.toNat % 2 ^ (i + 1) = 0).length := by
  unfold ctz64
  congr 1
  symm
  rcases hfirst : (List.range 64).find? fun i => x.getLsbD i with _ | k
  · refine length_filter_range_of_iff_lt le_rfl fun i hi => ?_
    rw [decide_eq_true_iff, mod_two_pow_eq_zero_iff]
    refine ⟨fun _ => hi, fun _ j hj => ?_⟩
    have hclear := List.find?_eq_none.1 hfirst j (List.mem_range.2 (by omega))
    exact Bool.eq_false_iff.2 hclear
  · obtain ⟨hset, hmem, hbelow⟩ := List.find?_range_eq_some.1 hfirst
    have hk : k < 64 := List.mem_range.1 hmem
    rw [Option.getD_some]
    refine length_filter_range_of_iff_lt hk.le fun i hi => ?_
    rw [decide_eq_true_iff, mod_two_pow_eq_zero_iff]
    constructor
    · intro h
      by_contra hge
      exact Bool.eq_false_iff.1 (h k (by omega)) hset
    · intro hik j hj
      exact (Bool.not_eq_true' _).mp (hbelow j (by omega))

theorem popc64_eq (x : Word) : popc64 x = BitVec.ofNat 64 ((List.range 64).filter fun i => x.getLsbD i).length := by
  rw [popc64, List.countP_eq_length_filter]

/-! ## Bytes in reverse order (R97), and the words of LI and LF (R98) -/

theorem toNat_append_eq {m n : Nat} (x : BitVec m) (y : BitVec n) : (x ++ y).toNat = x.toNat * 2 ^ n + y.toNat := by
  rw [BitVec.toNat_append, ← Nat.shiftLeft_add_eq_or_of_lt y.isLt, Nat.shiftLeft_eq]

theorem ofNat_byte_append (n x : Nat) (b : Byte) : BitVec.ofNat (n + 8) (b.toNat + 256 * x) = BitVec.ofNat n x ++ b := by
  apply BitVec.eq_of_toNat_eq
  have hb := b.isLt
  rw [toNat_append_eq, BitVec.toNat_ofNat, BitVec.toNat_ofNat, Nat.pow_add, Nat.mul_comm (2 ^ n), Nat.mod_mul,
    show (2 : Nat) ^ 8 = 256 from rfl, show (b.toNat + 256 * x) / 256 = x by omega]
  omega

/-- Little-endian bytes side by side, the last one on top. -/
theorem ofNat_leNat_bytes (b₀ b₁ b₂ b₃ b₄ b₅ b₆ b₇ : Byte) :
    BitVec.ofNat 64 (leNat [b₇, b₆, b₅, b₄, b₃, b₂, b₁, b₀]) = b₀ ++ b₁ ++ b₂ ++ b₃ ++ b₄ ++ b₅ ++ b₆ ++ b₇ := by
  simp only [leNat]
  rw [ofNat_byte_append 56, ofNat_byte_append 48, ofNat_byte_append 40, ofNat_byte_append 32, ofNat_byte_append 24,
    ofNat_byte_append 16, ofNat_byte_append 8]
  simp

theorem ofNat_div_two_pow_eq_extractLsb' (x : Word) (i : Nat) : BitVec.ofNat 8 (x.toNat / 2 ^ i) = x.extractLsb' i 8 := by
  rw [← Nat.shiftRight_eq_div_pow]
  rfl

theorem bswap64_eq (x : Word) : bswap64 x =
    x.extractLsb' 0 8 ++ x.extractLsb' 8 8 ++ x.extractLsb' 16 8 ++ x.extractLsb' 24 8 ++ x.extractLsb' 32 8 ++
      x.extractLsb' 40 8 ++ x.extractLsb' 48 8 ++ x.extractLsb' 56 8 := by
  simp only [← ofNat_div_two_pow_eq_extractLsb', ← ofNat_leNat_bytes]
  simp [bswap64, leBytes, Nat.div_div_eq_div_mul]

/-- A 20-bit immediate lies in the word below the destination, split over the fields of the R format (R54, R98). -/
theorem toWord_imm20 (op e : BitVec 6) (k : BitVec 20) :
    RWord.toWord ⟨op, e ++ k.extractLsb' 19 1, k.extractLsb' 12 7, k.extractLsb' 5 7, k.extractLsb' 0 5⟩ = (op ++ e) ++ k := by
  apply BitVec.eq_of_toNat_eq
  simp only [RWord.toWord, toNat_append_eq, BitVec.extractLsb'_toNat, Nat.shiftRight_eq_div_pow]
  omega

theorem zeroExtend_append_zeros (k : BitVec 20) : (k ++ 0#12).zeroExtend 64 = BitVec.ofNat 64 (k.toNat * 2 ^ 12) := by
  rw [zeroExtend_eq_ofNat, toNat_append_eq, BitVec.toNat_ofNat, Nat.zero_mod, Nat.add_zero]

/-! ## The obligations -/

/-- A scalar integer instruction writes the value that its function gives. -/
theorem wroteScalar_of_eq {o : Host.Outcome State Fault Refusal} {d : BitVec 7} {u v : Word} (h : o = wroteScalar s d u)
    (e : u = v) : o = wroteScalar s d v := e ▸ h

/-- Settles O2: each function reads A and B and writes its result, which the equations above give as a number. -/
theorem aluResults : Obligations.AluResults := by
  intro d a b s hd ha hb A B n is
  have writes {w : BitVec 32} {f : Word → Word → Word} {v : Word} (e : f A B = v) :
      runScalar w (binary d a b f) s = wroteScalar s d v := wroteScalar_of_eq (runScalar_binary hd ha hb f) e
  have hn : n < 64 := Nat.mod_lt _ (by decide)
  refine ⟨writes rfl, writes rfl, writes rfl, writes rfl, writes rfl, writes rfl, writes rfl,
    writes (word_shiftLeft_eq A n), writes (word_ushiftRight_eq A n), writes (word_sshiftRight_eq A n),
    writes (word_rotateRight_eq A hn), writes (word_mul_eq A B), writes rfl, writes rfl, writes (divS_eq A B), writes (divU_eq A B),
    writes (remS_eq A B), writes (remU_eq A B), writes (ite_slt_eq id), writes (ite_slt_eq Eq.symm), writes (ite_ult_eq id),
    writes (ite_ult_eq Eq.symm), writes rfl, writes rfl, writes (ofBool_eq beq_iff_eq), writes (ofBool_eq bne_iff_ne),
    writes (ofBool_eq BitVec.slt_iff_toInt_lt), writes (ofBool_eq ?_), writes (ofBool_eq BitVec.ult_iff_toNat_lt),
    writes (ofBool_eq ?_)⟩
  · rw [BitVec.slt_eq_decide, Bool.not_eq_true', decide_eq_false_iff_not, not_lt]
  · rw [BitVec.ult_eq_decide, Bool.not_eq_true', decide_eq_false_iff_not, not_lt]

/-- Settles O3 in the same way. -/
theorem immediateResults : Obligations.ImmediateResults := by
  intro d a im sf e k s hd ha he A sx n bits
  have writes {w : BitVec 32} {f : Word → Word} {v : Word} (e : f A = v) :
      runScalar w (unary d a f) s = wroteScalar s d v := wroteScalar_of_eq (runScalar_unary hd ha f) e
  have loads {w : BitVec 32} {u v : Word} (h : u = v) :
      runScalar w (do writeScalar (e.zeroExtend 7) u; pure .next) s = wroteScalar s (e.zeroExtend 7) v :=
    wroteScalar_of_eq (runScalar_writeScalar he u) h
  exact ⟨writes rfl, writes rfl, writes rfl, writes rfl, writes (word_shiftLeft_eq A n), writes (word_ushiftRight_eq A n),
    writes (word_sshiftRight_eq A n), writes (word_rotateRight_eq A sf.isLt), writes (clz64_eq A), writes (ctz64_eq A),
    writes (popc64_eq A), writes rfl, writes rfl, writes rfl, writes (zeroExtend_truncate_eq A 8),
    writes (zeroExtend_truncate_eq A 16), writes (zeroExtend_truncate_eq A 32), writes (bswap64_eq A), loads rfl,
    loads (zeroExtend_append_zeros k), toWord_imm20 0x3E e k, toWord_imm20 0x3F e k⟩

/-- Settles O4, for every flow. -/
theorem goingOnFrame : Obligations.GoingOnFrame := onlyFetched_after

end Sys2Proof.Machine
end

section
/-! Scalar floating point (R102, R103): each meaning reads its operands, rounds under `scalarFrm` and ends in `wroteFlagged` (settles
O6). -/

namespace Sys2Proof.Machine

variable {s : State} {d a b : BitVec 7} {w : BitVec 32}

theorem exec_setFlags (fl : Flags) (s : State) :
    (setFlags fl).exec s = (.ok (), { s with hart := { s.hart with sys := { s.hart.sys with fflags := s.hart.sys.fflags ||| fl } } }) :=
  exec_modSys _ s

theorem exec_scalarMode (s : State) : scalarMode.exec s = (.ok (scalarFrm s), s) := by
  have hmode : (s.hart.cfg.frm.toNat = 4) = (s.hart.cfg.frm = 4) := propext ⟨fun h => BitVec.eq_of_toNat_eq h, fun h => by rw [h]; rfl⟩
  unfold scalarMode scalarFrm
  rw [exec_bind_ok (exec_getHart s)]
  simp only [hmode]
  rfl

theorem boolNat_word (r : Bool × Flags) : BitVec.ofNat 64 (boolNat r).1 = if r.1 then 1 else 0 := by
  rcases r with ⟨_ | _, fl⟩ <;> rfl

/-- Rounding an exact value: the flags are those of the rounding. -/
theorem rndWord_eq (f : Fmt) (mode : Nat) (x : Ex) : rndWord f mode x = roundedTo f mode (x, 0) :=
  Prod.ext rfl BitVec.zero_or.symm

/-- Sign extension of the low `n` bits is the integer that they stand for. -/
theorem sextNat_eq_toInt {n : Nat} (hn : 0 < n) (x : Nat) : sextNat n x = (BitVec.ofNat n x).toInt := by
  have hpow : 2 ^ n = 2 * 2 ^ (n - 1) := by rw [← Nat.pow_succ', Nat.succ_eq_add_one, Nat.sub_add_cancel hn]
  have hlt : x % 2 ^ n < 2 ^ (n - 1) ↔ 2 * (x % 2 ^ n) < 2 ^ n := by omega
  rw [sextNat, BitVec.toInt, BitVec.toNat_ofNat, if_congr hlt rfl rfl, Int.natCast_pow]
  rfl

theorem sextNat_lo32 (x : Word) : sextNat 32 x.toNat = (BitVec.ofNat 32 (x.toNat % 2 ^ 32)).toInt := by
  rw [sextNat_eq_toInt (by decide)]
  congr 1
  exact BitVec.eq_of_toNat_eq (by rw [BitVec.toNat_ofNat, BitVec.toNat_ofNat, Nat.mod_mod])

section
variable (hd : scalarOk s.hart d = true) (ha : scalarOk s.hart a = true)
include hd

/-- The flags are set, the result is written, and the machine goes on. -/
theorem exec_setFlags_writeScalar (v : Word) (fl : Flags) :
    (do setFlags fl; writeScalar d v; pure .next : M Flow).exec s = (.ok .next, { s with
      hart := setScalar { s.hart with sys := { s.hart.sys with fflags := s.hart.sys.fflags ||| fl } } d v }) := by
  rw [exec_bind_ok (exec_setFlags fl s), exec_bind_ok (exec_writeScalar_ok v (by exact hd))]
  rfl

include ha

theorem runScalar_funary (f : Nat → Word → Word × Flags) :
    runScalar w (funary d a f) s =
      wroteFlagged s d (f (scalarFrm s) (scalarVal s.hart a)).1 (f (scalarFrm s) (scalarVal s.hart a)).2 := by
  refine runScalar_ok ?_
  unfold funary
  rw [exec_bind_ok (exec_checkScalar_ok hd), exec_bind_ok (exec_readScalar_ok ha), exec_bind_ok (exec_scalarMode s)]
  exact exec_setFlags_writeScalar hd _ _

variable (hb : scalarOk s.hart b = true)
include hb

theorem runScalar_fpick (f : Nat → Nat → Nat × Flags) :
    let r := f ((scalarVal s.hart a).toNat % 2 ^ 32) ((scalarVal s.hart b).toNat % 2 ^ 32)
    runScalar w (fpick d a b f) s = wroteFlagged s d (BitVec.ofNat 64 r.1) r.2 := by
  refine runScalar_ok ?_
  unfold fpick
  rw [exec_bind_ok (exec_checkScalar_ok hd), exec_bind_ok (exec_readScalar_ok ha), exec_bind_ok (exec_readScalar_ok hb)]
  exact exec_setFlags_writeScalar hd _ _

theorem runScalar_fbinary (f : Nat → Ex → Ex → Ex × Flags) :
    let m := scalarFrm s
    let r := roundedTo fp32 m (f m (v32 ((scalarVal s.hart a).toNat % 2 ^ 32)) (v32 ((scalarVal s.hart b).toNat % 2 ^ 32)))
    runScalar w (fbinary d a b f) s = wroteFlagged s d r.1 r.2 := by
  refine runScalar_ok ?_
  unfold fbinary
  rw [exec_bind_ok (exec_checkScalar_ok hd), exec_bind_ok (exec_readScalar_ok ha), exec_bind_ok (exec_readScalar_ok hb),
    exec_bind_ok (exec_scalarMode s)]
  exact exec_setFlags_writeScalar hd _ _

theorem runScalar_fmadd (negP negC : Bool) :
    let m := scalarFrm s
    let x (n : BitVec 7) := v32 ((scalarVal s.hart n).toNat % 2 ^ 32)
    let r := roundedTo fp32 m (Ex.fma m negP negC (x a) (x b) (x d))
    runScalar w (fmadd d a b negP negC) s = wroteFlagged s d r.1 r.2 := by
  refine runScalar_ok ?_
  unfold fmadd
  rw [exec_bind_ok (exec_checkScalar_ok hd), exec_bind_ok (exec_readScalar_ok ha), exec_bind_ok (exec_readScalar_ok hb),
    exec_bind_ok (exec_readScalar_ok hd), exec_bind_ok (exec_scalarMode s)]
  exact exec_setFlags_writeScalar hd _ _

end

theorem fpsResults : Sys2Proof.Claim.FpsResults := by
  intro d a b s hd ha hb m A B half gives nat int bool
  have flagged {o : Host.Outcome State Fault Refusal} {r r' : Word × Flags} (h : o = gives r) (e : r = r') : o = gives r' := e ▸ h
  have rounds {w : BitVec 32} {f : Nat → Ex → Ex → Ex × Flags} :
      runScalar w (fbinary d a b f) s = gives (roundedTo fp32 m (f m (v32 A) (v32 B))) := runScalar_fbinary hd ha hb f
  have picks {w : BitVec 32} {f : Nat → Nat → Nat × Flags} : runScalar w (fpick d a b f) s = gives (nat (f A B)) :=
    runScalar_fpick hd ha hb f
  have tests {w : BitVec 32} {f : Nat → Nat → Bool × Flags} :
      runScalar w (fpick d a b fun x y => boolNat (f x y)) s = gives (bool (f A B)) :=
    flagged picks (Prod.ext (boolNat_word (f A B)) rfl)
  have converts {w : BitVec 32} {f : Nat → Word → Word × Flags} {r : Word × Flags} (e : f m (scalarVal s.hart a) = r) :
      runScalar w (funary d a f) s = gives r := flagged (runScalar_funary hd ha f) e
  exact ⟨rounds, rounds, rounds, rounds, converts rfl, picks, picks, tests, tests, tests, converts rfl,
    converts ((rndWord_eq fp32 m _).trans (by rw [sextNat_lo32])), converts (rndWord_eq ..), converts rfl, converts rfl,
    converts (rndWord_eq ..), converts (rndWord_eq ..), converts (rndWord_eq ..), converts (rndWord_eq ..)⟩

theorem ffmaResults : Sys2Proof.Claim.FfmaResults := fun _ _ _ _ hd ha hb =>
  ⟨runScalar_fmadd hd ha hb false false, runScalar_fmadd hd ha hb false true, runScalar_fmadd hd ha hb true true,
    runScalar_fmadd hd ha hb true false⟩

/-- Settles O6: every function reads its operands, rounds once and writes its result with its flags. -/
theorem scalarFloatResults : Obligations.ScalarFloatResults := ⟨fpsResults, ffmaResults⟩

end Sys2Proof.Machine
end

section
/-! Scalar loads and stores that reach memory (R99; settles O7 and O8). -/

namespace Sys2Proof.Machine

variable {s t : State} {d a b : BitVec 7} {v : Word} {z pa x : Nat}

/-! ## Accesses -/

/-- A load of clean, reachable memory gives the number there and changes nothing. -/
theorem scalarLoad_ok (hal : v.toNat % z = 0) (ht : Reaches .load .scalar s v z pa) (hw : isControlWindow pa = false)
    (hc : Clean s pa z) : (scalarLoad v z).exec s = (.ok (s.memNat pa z), s) := by
  unfold scalarLoad
  rw [exec_bind_ok (exec_trapIf_aligned hal s), exec_bind_ok (exec_privNow s), exec_bind_ok ht, hw]
  simp only [Bool.false_eq_true, if_false]
  rw [exec_bind_ok (exec_checkPoison_clean pa z v s hc), exec_bind_ok (exec_get s), exec_pure]

/-- A store to reachable memory puts the number there. -/
theorem scalarStore_ok (ans : s.hart.unanswered = none) (hal : v.toNat % z = 0) (ht : Reaches .store .scalar s v z pa)
    (hw : isControlWindow pa = false) : (scalarStore v z x).exec s = (.ok (), s.putNat pa z x) := by
  unfold scalarStore storeAt
  rw [exec_bind_ok (exec_trapIf_aligned hal s), exec_bind_ok (exec_privNow s), exec_bind_ok ht, exec_bind_ok (exec_get s), hw]
  simp only [Bool.false_and, Bool.false_eq_true, if_false]
  rw [exec_bind_ok (exec_get s), unanswered_none ans]
  rfl

/-- The bytes read, extended by sign, are the signed number that they stand for. -/
theorem extendLoad_signed (hz : 0 < z) (x : Nat) : extendLoad z true x = (BitVec.ofNat (8 * z) x).signExtend 64 := by
  rw [extendLoad, if_pos rfl, sextNat_eq_toInt (by omega)]
  rfl

/-! ## The instructions -/

section
variable {w : BitVec 32} {signed : Bool} {sf : BitVec 1} {o : BitVec 9} (hd : scalarOk s.hart d = true) (ha : scalarOk s.hart a = true)
include hd ha

theorem runScalar_loadOffset (h : (scalarLoad (offsetAddr (scalarVal s.hart a) o z) z).exec s = (.ok x, s)) :
    runScalar w (loadOffset d a o z signed) s = wroteScalar s d (extendLoad z signed x) := by
  refine runScalar_ok ?_
  unfold loadOffset
  rw [exec_bind_ok (exec_checkScalar_ok hd), exec_bind_ok (exec_readScalar_ok ha), exec_bind_ok h,
    exec_bind_ok (exec_writeScalar_ok _ hd)]
  rfl

theorem runScalar_storeOffset
    (h : (scalarStore (offsetAddr (scalarVal s.hart a) o z) z (scalarVal s.hart d).toNat).exec s = (.ok (), t)) :
    runScalar w (storeOffset d a o z) s = .next t.passed := by
  refine runScalar_ok ?_
  unfold storeOffset
  rw [exec_bind_ok (exec_readScalar_ok hd), exec_bind_ok (exec_readScalar_ok ha), exec_bind_ok h]
  rfl

variable (hb : scalarOk s.hart b = true)
include hb

theorem runScalar_loadIndexed
    (h : (scalarLoad (indexAddr (scalarVal s.hart a) (scalarVal s.hart b) sf z) z).exec s = (.ok x, s)) :
    runScalar w (loadIndexed d a b sf z signed) s = wroteScalar s d (extendLoad z signed x) := by
  refine runScalar_ok ?_
  unfold loadIndexed
  rw [exec_bind_ok (exec_checkScalar_ok hd), exec_bind_ok (exec_readScalar_ok ha), exec_bind_ok (exec_readScalar_ok hb),
    exec_bind_ok h, exec_bind_ok (exec_writeScalar_ok _ hd)]
  rfl

theorem runScalar_storeIndexed
    (h : (scalarStore (indexAddr (scalarVal s.hart a) (scalarVal s.hart b) sf z) z (scalarVal s.hart d).toNat).exec s = (.ok (), t)) :
    runScalar w (storeIndexed d a b sf z) s = .next t.passed := by
  refine runScalar_ok ?_
  unfold storeIndexed
  rw [exec_bind_ok (exec_readScalar_ok hd), exec_bind_ok (exec_readScalar_ok ha), exec_bind_ok (exec_readScalar_ok hb),
    exec_bind_ok h]
  rfl

end

/-- Settles O7: an aligned load reads the bytes that it reaches, extends them and writes its destination. -/
theorem loadResults : Obligations.LoadResults := by
  intro d a b o sf s hd ha hb A B off idx reads signed
  have offset {w : BitVec 32} {sg : Bool} {z pa : Nat} {x : Word} (h : reads z (off z) pa) (e : extendLoad z sg (s.memNat pa z) = x) :
      runScalar w (loadOffset d a o z sg) s = wroteScalar s d x := by
    obtain ⟨hal, ht, hw, hc⟩ := h
    exact wroteScalar_of_eq (runScalar_loadOffset hd ha (scalarLoad_ok hal ht hw hc)) e
  have indexed {w : BitVec 32} {sg : Bool} {z pa : Nat} {x : Word} (h : reads z (idx z) pa) (e : extendLoad z sg (s.memNat pa z) = x) :
      runScalar w (loadIndexed d a b sf z sg) s = wroteScalar s d x := by
    obtain ⟨hal, ht, hw, hc⟩ := h
    exact wroteScalar_of_eq (runScalar_loadIndexed hd ha hb (scalarLoad_ok hal ht hw hc)) e
  exact ⟨fun pa h => ⟨offset h (extendLoad_signed (by decide) _), offset h rfl⟩,
    fun pa h => ⟨offset h (extendLoad_signed (by decide) _), offset h rfl⟩,
    fun pa h => ⟨offset h (extendLoad_signed (by decide) _), offset h rfl⟩, fun pa h => offset h rfl,
    fun pa h => ⟨indexed h (extendLoad_signed (by decide) _), indexed h rfl⟩,
    fun pa h => ⟨indexed h (extendLoad_signed (by decide) _), indexed h rfl⟩,
    fun pa h => ⟨indexed h (extendLoad_signed (by decide) _), indexed h rfl⟩, fun pa h => indexed h rfl⟩

/-- Settles O8: an aligned store puts its source at the address that it reaches, and memory elsewhere and the hart are as they were. -/
theorem storeResults : Obligations.StoreResults := by
  intro d a b o sf s hd ha hb ans A B v off idx writes stored
  have puts {z pa : Nat} {r : Host.Outcome State Fault Refusal} (h : r = .next (s.putNat pa z v).passed) : stored z pa r :=
    ⟨h, memNat_putNat_same s pa z v, fun x hx => byteAt_putBytes_other s pa _ (by rwa [length_leBytes]), rfl⟩
  have offset {w : BitVec 32} {z : Nat} (pa : Nat) (h : writes z (off z) pa) : stored z pa (runScalar w (storeOffset d a o z) s) := by
    obtain ⟨hal, ht, hw⟩ := h
    exact puts (runScalar_storeOffset hd ha (scalarStore_ok ans hal ht hw))
  have indexed {w : BitVec 32} {z : Nat} (pa : Nat) (h : writes z (idx z) pa) :
      stored z pa (runScalar w (storeIndexed d a b sf z) s) := by
    obtain ⟨hal, ht, hw⟩ := h
    exact puts (runScalar_storeIndexed hd ha hb (scalarStore_ok ans hal ht hw))
  exact ⟨offset, offset, offset, offset, indexed, indexed, indexed, indexed⟩

end Sys2Proof.Machine
end

section
/-! Transfers (R107–R109), the return store (R36, R37) and gates (R111–R113; settles O10 and O11). -/

namespace Sys2Proof.Machine

variable {s t u : State} {a : BitVec 7}

/-! ## What an access leaves of the hart -/

/-- Of the hart's registers an access changes at most the mark of a package that does not answer and the errors pending for it (R395). -/
def OnlyAccessed (s t : State) : Prop :=
  t.hart = { s.hart with unanswered := t.hart.unanswered, pendMce := t.hart.pendMce }

theorem chain_onlyAccessed : Chain OnlyAccessed where
  refl _ := rfl
  trans s t u h h' := by
    unfold OnlyAccessed at *
    rw [h] at h'
    exact h'

theorem onlyAccessed_modify {f : State → State} (h : ∀ s, (f s).hart = s.hart) : Keeps OnlyAccessed (modify f : M PUnit) := fun s => by
  change (f s).hart = { s.hart with unanswered := (f s).hart.unanswered, pendMce := (f s).hart.pendMce }
  rw [h s]

theorem onlyAccessed_answer : Keeps OnlyAccessed (modHart fun h => { h with unanswered := none }) := fun _ => rfl

theorem onlyAccessed_walkAndCache (d va : Nat) (v : Word) : Keeps OnlyAccessed (walkAndCache d va v) := by
  have hc := chain_onlyAccessed
  unfold walkAndCache
  refine keeps_bind hc (keeps_get hc) fun s => ?_
  split
  · dsimp only
    split
    · exact keeps_bind hc onlyAccessed_answer fun _ => keeps_trap hc _ _
    · exact keeps_trap hc _ _
  · exact keeps_bind hc (onlyAccessed_modify (markLeaf_hart _ 6)) fun _ => keeps_bind hc (fun _ => rfl) fun _ => keeps_pure hc _

theorem onlyAccessed_reach (k : Access) (g : Agent) (mt : Nat) (v : Word) (pa n : Nat) : Keeps OnlyAccessed (reach k g mt v pa n) := by
  have hc := chain_onlyAccessed
  unfold reach
  refine keeps_bind hc (keeps_get hc) fun s => ?_
  split
  · split
    · exact keeps_pure hc _
    · exact keeps_bind hc onlyAccessed_answer fun _ => keeps_trap hc _ _
  · split
    · exact keeps_trap hc _ _
    · split
      · exact keeps_trap hc _ _
      · exact keeps_pure hc _

/-- A meaning after a condition that traps. -/
theorem keeps_guard {α : Type} {R : State → State → Prop} (hR : Chain R) {p : Prop} {_ : Decidable p} {c : Cause} {v : Word} {m : M α}
    (hm : Keeps R m) : Keeps R (if p then (do trap c v; m) else m) :=
  keeps_ite p (keeps_bind hR (keeps_trap (α := Unit) hR c v) fun _ => hm) hm

theorem onlyAccessed_translateAt (priv : Nat) (k : Access) (g : Agent) (v : Word) (n : Nat) :
    Keeps OnlyAccessed (translateAt priv k g v n) := by
  have hc := chain_onlyAccessed
  unfold translateAt
  refine keeps_bind hc (keeps_get hc) fun s => keeps_ite _
    (keeps_ite _ (keeps_trap hc _ _) (keeps_ite _ (keeps_trap hc _ _) (onlyAccessed_reach _ _ _ _ _ _)))
    (keeps_ite _ (keeps_trap hc _ _) (keeps_bind hc (keeps_trapIf hc _ _ _) fun _ => keeps_bind hc ?_ fun x => ?_))
  · split
    · exact keeps_bind hc (keeps_trapIf hc _ _ _) fun _ => keeps_pure hc _
    · exact keeps_bind hc (onlyAccessed_walkAndCache _ _ _) fun _ => keeps_pure hc _
  · refine keeps_guard hc (keeps_bind hc (keeps_ite _ ?_ (keeps_pure hc _)) fun _ => onlyAccessed_reach _ _ _ _ _ _)
    exact keeps_bind hc (onlyAccessed_walkAndCache _ _ _) fun y => keeps_guard hc
      (keeps_bind hc (onlyAccessed_modify (markLeaf_hart _ 7)) fun _ => keeps_bind hc (fun _ => rfl) fun _ => keeps_pure hc _)

theorem onlyAccessed_wrmemAt (priv : Nat) (g : Agent) (v : Word) (n x : Nat) : Keeps OnlyAccessed (wrmemAt priv g v n x) := by
  have hc := chain_onlyAccessed
  unfold wrmemAt storeAt
  refine keeps_bind hc (onlyAccessed_translateAt _ _ _ _ _) fun pa => keeps_bind hc (keeps_get hc) fun s => ?_
  split
  · exact fun _ => rfl
  · exact onlyAccessed_modify fun _ => rfl

theorem onlyAccessed_wrWords (priv : Nat) (v : Word) (ws : List Word) : Keeps OnlyAccessed (wrWords priv v ws) := by
  induction ws generalizing v with
  | nil => exact keeps_pure chain_onlyAccessed ()
  | cons x ws ih => exact keeps_bind chain_onlyAccessed (onlyAccessed_wrmemAt _ _ _ _ _) fun _ => ih _

theorem onlyAccessed_of_wrWords {priv : Nat} {v : Word} {ws : List Word} {r : Except Stop Unit}
    (h : (wrWords priv v ws).exec s = (r, u)) : OnlyAccessed s u := by
  have hkeeps := onlyAccessed_wrWords priv v ws s
  rwa [h] at hkeeps

theorem OnlyAccessed.fetch (h : OnlyAccessed s u) : u.hart.fetch = s.hart.fetch := by rw [h]
theorem OnlyAccessed.ras (h : OnlyAccessed s u) : u.hart.ras = s.hart.ras := by rw [h]
theorem OnlyAccessed.sys (h : OnlyAccessed s u) : u.hart.sys = s.hart.sys := by rw [h]

/-! ## The return store -/

/-- With room in the store a push only adds a frame (R36). -/
theorem exec_pushFrame_room (f : Frame) (h : s.hart.ras.length < 16) :
    (pushFrame f).exec s = (.ok (), { s with hart := { s.hart with ras := f :: s.hart.ras } }) := by
  unfold pushFrame
  rw [exec_bind_ok (exec_getHart s), if_pos h]
  rfl

/-- With the store full a push first writes the oldest frame to the spill area (R36, R37). -/
theorem exec_pushFrame_spill (f : Frame) {g : Frame} {fs : List Frame} (hras : s.hart.ras = fs ++ [g]) (hlen : fs.length = 15)
    (hw : (wrWords s.hart.trap.priv.toNat (frameAddr s.hart s.hart.sys.rascnt) [g.ret, 0]).exec s = (.ok (), u)) :
    (pushFrame f).exec s = (.ok (), { u with hart := { u.hart with
      ras := f :: fs
      sys := { u.hart.sys with rascnt := s.hart.sys.rascnt + 1 } } }) := by
  have hhart := onlyAccessed_of_wrWords hw
  have hras' : u.hart.ras.dropLast = fs := by rw [hhart.ras, hras, List.dropLast_concat]
  have hcnt : u.hart.sys.rascnt = s.hart.sys.rascnt := by rw [hhart.sys]
  have hold : (s.hart.ras.getLast?.map Frame.ret).getD 0 = g.ret := by rw [hras, List.getLast?_concat]; rfl
  have hfull : ¬s.hart.ras.length < 16 := by rw [hras, List.length_append, hlen, List.length_singleton]; decide
  unfold pushFrame
  rw [exec_bind_ok (exec_getHart s), if_neg hfull, hold, exec_bind_ok hw, exec_modHart, hras', hcnt]

theorem pushBlocked_room {h : Hart} (hlen : h.ras.length < 16) : pushBlocked h = none := if_pos hlen

theorem pushBlocked_full {h : Hart} {g : Frame} {fs : List Frame} (hras : h.ras = fs ++ [g]) (hlen : fs.length = 15) :
    pushBlocked h = if g.gate then some g.ret else none := by
  have hfull : ¬h.ras.length < 16 := by rw [hras, List.length_append, hlen, List.length_singleton]; decide
  rw [pushBlocked, if_neg hfull, hras, List.getLast?_concat]

theorem exec_pushCall (r : Word) (h : pushBlocked s.hart = none) :
    (pushCall r).exec s = (pushFrame ⟨r, false, 0, 0⟩).exec s := by
  unfold pushCall
  rw [exec_bind_ok (exec_getHart s), h]

theorem exec_pushCall_blocked (r : Word) {x : Word} (h : pushBlocked s.hart = some x) :
    (pushCall r).exec s = (.error (.trap .gate x), s) := by
  unfold pushCall
  rw [exec_bind_ok (exec_getHart s), h]
  rfl

/-- The newest frame in the store is the top one (R36). -/
theorem exec_topFrame_held {r : Frame} {rest : List Frame} (h : s.hart.ras = r :: rest) : topFrame.exec s = (.ok r, s) := by
  unfold topFrame
  rw [exec_bind_ok (exec_getHart s), h]
  rfl

theorem exec_popFrame_held {r : Frame} {rest : List Frame} (h : s.hart.ras = r :: rest) :
    popFrame.exec s = (.ok (), { s with hart := { s.hart with ras := rest } }) := by
  unfold popFrame
  rw [exec_modHart, h]

/-- With an empty store the top frame is the last one spilled (R36). -/
theorem exec_topFrame_spilled {r k : Word} (h : s.hart.ras = []) (hcnt : s.hart.sys.rascnt ≠ 0) (hk : k.getLsbD 0 = false)
    (hw : (rdWords s.hart.trap.priv.toNat (frameAddr s.hart (s.hart.sys.rascnt - 1)) 2).exec s = (.ok [r, k], s)) :
    topFrame.exec s = (.ok ⟨r, false, 0, 0⟩, s) := by
  unfold topFrame
  rw [exec_bind_ok (exec_getHart s), h]
  dsimp only
  rw [if_neg hcnt, exec_bind_ok hw]
  rw [show [r, k].getD 1 0 = k from rfl, hk]
  rfl

theorem exec_popFrame_spilled (h : s.hart.ras = []) :
    popFrame.exec s = (.ok (), { s with hart := { s.hart with sys := { s.hart.sys with rascnt := s.hart.sys.rascnt - 1 } } }) := by
  unfold popFrame
  rw [exec_modHart]
  split
  next hcons => exact absurd (hcons.symm.trans h) (List.cons_ne_nil _ _)
  next => rfl

theorem exec_topFrame_none (h : s.hart.ras = []) (hcnt : s.hart.sys.rascnt = 0) : topFrame.exec s = (.error (.trap .rse 0), s) := by
  unfold topFrame
  rw [exec_bind_ok (exec_getHart s), h]
  dsimp only
  rw [if_pos hcnt]
  rfl

/-! ## Transfers -/

/-- A taken transfer runs the words at NA and NB first, then its target (R105). -/
theorem runScalar_taken {w : BitVec 32} {m : M Flow} {v : Word} (h : m.exec s = (.ok (.taken v), t)) :
    runScalar w m s = .next { t with hart := { t.hart with
      fetch := ⟨t.hart.fetch.na, t.hart.fetch.nb, v, t.hart.fetch.ana, false, false, false, false⟩ } } := runScalar_ok h

/-- The branch conditions as orders of the integers (R54); the codes 6 and 7 hold of nothing. -/
theorem condHolds_iff (c : BitVec 3) (x : Word) : condHolds c x = true ↔
    (c = 0 ∧ x = 0) ∨ (c = 1 ∧ x ≠ 0) ∨ (c = 2 ∧ x.toInt < 0) ∨ (c = 3 ∧ 0 ≤ x.toInt) ∨ (c = 4 ∧ x.toInt ≤ 0) ∨
      (c = 5 ∧ 0 < x.toInt) := by
  have hcodes : ∀ c : BitVec 3, c = 0 ∨ c = 1 ∨ c = 2 ∨ c = 3 ∨ c = 4 ∨ c = 5 ∨ c = 6 ∨ c = 7 := by decide
  rcases hcodes c with rfl | rfl | rfl | rfl | rfl | rfl | rfl | rfl <;>
    simp [condHolds, BitVec.slt_eq_decide, BitVec.sle_eq_decide]

/-- An aligned register target is the target of the jump (R109). -/
theorem exec_jumpAddr (ha : scalarOk s.hart a = true) (hal : (scalarVal s.hart a).toNat % 4 = 0) :
    (jumpAddr a).exec s = (.ok (scalarVal s.hart a), s) := by
  unfold jumpAddr
  rw [exec_bind_ok (exec_readScalar_ok ha), exec_bind_ok (exec_trapIf_aligned hal s), exec_pure]

theorem exec_jumpAddr_misaligned (ha : scalarOk s.hart a = true) (hal : (scalarVal s.hart a).toNat % 4 ≠ 0) :
    (jumpAddr a).exec s = (.error (.trap .align (scalarVal s.hart a)), s) := by
  unfold jumpAddr
  rw [exec_bind_ok (exec_readScalar_ok ha), exec_bind_error (exec_trapIf_misaligned hal s)]

section
variable {c : BitVec 3} {n : BitVec 1} {im : BitVec 15} (ha : scalarOk s.hart a = true)
include ha

theorem exec_br_taken (h : condHolds c (scalarVal s.hart a) = true) :
    exec (.br a c n im) s = .next { s with hart := { s.hart with fetch := ⟨s.hart.fetch.na, s.hart.fetch.nb,
      s.hart.fetch.pc + 4 * im.signExtend 64, s.hart.fetch.ana, false, false, false, false⟩ } } := by
  refine runScalar_taken ?_
  rw [exec_bind_ok (exec_readScalar_ok ha), exec_bind_ok (exec_getHart s), h]
  rfl

theorem exec_br_next (h : condHolds c (scalarVal s.hart a) = false) (hn : n = 0) : exec (.br a c n im) s = .next s.passed := by
  refine runScalar_ok (fl := .next) (t := s) ?_
  rw [exec_bind_ok (exec_readScalar_ok ha), exec_bind_ok (exec_getHart s), h, hn]
  rfl

theorem exec_br_annul (h : condHolds c (scalarVal s.hart a) = false) (hn : n = 1) :
    exec (.br a c n im) s = .next (s.after .annul) := by
  refine runScalar_ok (fl := .annul) (t := s) ?_
  rw [exec_bind_ok (exec_readScalar_ok ha), exec_bind_ok (exec_getHart s), h, hn]
  rfl

end

/-- A branch that annuls its slots annuls the next two words (R107). -/
theorem after_annul_flags (s : State) : (s.after .annul).hart.fetch.apc = true ∧ (s.after .annul).hart.fetch.ana = true := by
  have hstart := sameStart_formQueue { s with hart := { s.hart with
    fetch := ⟨s.hart.fetch.na, s.hart.fetch.nb, 0, true, true, true, false, false⟩ } }
  exact ⟨hstart.apc, hstart.ana⟩

theorem exec_jmp (far : BitVec 26) (s : State) :
    exec (.jmp far) s = .next { s with hart := { s.hart with fetch := ⟨s.hart.fetch.na, s.hart.fetch.nb,
      s.hart.fetch.pc + 4 * far.signExtend 64, s.hart.fetch.ana, false, false, false, false⟩ } } := by
  change execJmp far s = _
  unfold execJmp
  refine runScalar_taken ?_
  rw [exec_bind_ok (exec_getHart s)]
  rfl

/-- RET with a plain, aligned frame on top. -/
theorem exec_ret {r : Frame} (htop : topFrame.exec s = (.ok r, s)) (hgate : r.gate = false) (hal : r.ret.toNat % 4 = 0)
    (hpop : popFrame.exec s = (.ok (), t)) :
    exec .ret s = .next { t with hart := { t.hart with
      fetch := ⟨t.hart.fetch.na, t.hart.fetch.nb, r.ret, t.hart.fetch.ana, false, false, false, false⟩ } } := by
  refine runScalar_taken ?_
  rw [exec_bind_ok htop, exec_bind_ok (exec_trapIf_false hgate _ _ s), exec_bind_ok (exec_trapIf_aligned hal s), exec_bind_ok hpop,
    exec_pure]

theorem transferResults_plain : Sys2Proof.Claim.TransferResults := by
  intro a c n im far s ha A holds f go
  have hcond : condHolds c A = true ↔ holds := condHolds_iff c A
  have hfails (h : ¬holds) : condHolds c A = false := Bool.eq_false_iff.2 (mt hcond.1 h)
  refine ⟨fun h => exec_br_taken ha (hcond.2 h), fun h hn => exec_br_next ha (hfails h) hn,
    fun h hn => exec_br_annul ha (hfails h) hn, (after_annul_flags s).1, (after_annul_flags s).2, exec_jmp far s,
    fun hal => runScalar_taken (exec_bind_ok (exec_jumpAddr ha hal)),
    fun hal => runScalar_trap (exec_bind_error (exec_jumpAddr_misaligned ha hal)), ?_, ?_, ?_, ?_⟩
  · exact fun r rest hras hgate hal => exec_ret (exec_topFrame_held hras) hgate hal (exec_popFrame_held hras)
  · intro r rest hras hgate
    have hstop : (trapIf r.gate .gate r.ret).exec s = (.error (.trap .gate r.ret), s) := by rw [hgate]; rfl
    exact runScalar_trap ((exec_bind_ok (exec_topFrame_held hras)).trans (exec_bind_error hstop))
  · exact fun r k hras hcnt hal hk hw =>
      exec_ret (exec_topFrame_spilled hras hcnt hk hw) rfl hal (exec_popFrame_spilled hras)
  · exact fun hras hcnt => runScalar_trap (exec_bind_error (exec_topFrame_none hras hcnt))

/-! ## Calls -/

section
variable {far : BitVec 26} {r : Word} (hr : (succ s.hart.fetch.nb).exec s = (.ok r, s))
include hr

theorem exec_callReturn : callReturn.exec s = (.ok r, s) := by
  unfold callReturn
  rw [exec_bind_ok (exec_getHart s), hr]

/-- A call whose frame is pushed jumps (R108). -/
theorem exec_call (hpush : (pushCall r).exec s = (.ok (), t)) :
    exec (.call far) s = .next { t with hart := { t.hart with fetch := ⟨t.hart.fetch.na, t.hart.fetch.nb,
      s.hart.fetch.pc + 4 * far.signExtend 64, t.hart.fetch.ana, false, false, false, false⟩ } } := by
  refine runScalar_taken ?_
  rw [exec_bind_ok (exec_getHart s), exec_bind_ok (exec_callReturn hr), exec_bind_ok hpush]
  rfl

theorem exec_callr (ha : scalarOk s.hart a = true) (hal : (scalarVal s.hart a).toNat % 4 = 0)
    (hpush : (pushCall r).exec s = (.ok (), t)) :
    exec (.callr a) s = .next { t with hart := { t.hart with fetch := ⟨t.hart.fetch.na, t.hart.fetch.nb,
      scalarVal s.hart a, t.hart.fetch.ana, false, false, false, false⟩ } } := by
  refine runScalar_taken ?_
  rw [exec_bind_ok (exec_jumpAddr ha hal), exec_bind_ok (exec_callReturn hr), exec_bind_ok hpush]
  rfl

theorem exec_call_blocked {x : Word} (h : pushBlocked s.hart = some x) :
    exec (.call far) s = .next (takeTrap false .gate x s) := by
  refine runScalar_trap ?_
  rw [exec_bind_ok (exec_getHart s), exec_bind_ok (exec_callReturn hr), exec_bind_error (exec_pushCall_blocked r h)]

end

theorem exec_pushCall_room (r : Word) (h : s.hart.ras.length < 16) :
    (pushCall r).exec s = (.ok (), { s with hart := { s.hart with ras := ⟨r, false, 0, 0⟩ :: s.hart.ras } }) :=
  (exec_pushCall r (pushBlocked_room h)).trans (exec_pushFrame_room _ h)

theorem callResults : Sys2Proof.Claim.CallResults := by
  intro a far r s ha hr A f go
  refine ⟨fun hlen => exec_call hr (exec_pushCall_room r hlen), fun hlen hal => exec_callr hr ha hal (exec_pushCall_room r hlen),
    fun g fs u hras hlen hgate hw => ?_, fun g fs hras hlen hgate => ?_⟩
  · have hblocked : pushBlocked s.hart = none := by rw [pushBlocked_full hras hlen, hgate]; rfl
    have hpush := (exec_pushCall r hblocked).trans (exec_pushFrame_spill _ hras hlen hw)
    have hfetch : u.hart.fetch = f := (onlyAccessed_of_wrWords hw).fetch
    rw [exec_call hr hpush]
    dsimp only
    rw [hfetch]
  · have hblocked : pushBlocked s.hart = some g.ret := by rw [pushBlocked_full hras hlen, hgate]; rfl
    exact exec_call_blocked hr hblocked

/-- Settles O10: each transfer ends in a target, goes on, or annuls its slots. -/
theorem transferResults : Obligations.TransferResults := ⟨transferResults_plain, callResults⟩

/-! ## Gates -/

/-- An instruction that places the queued addresses itself leaves them there. -/
theorem runScalar_placed {w : BitVec 32} {m : M Flow} (h : m.exec s = (.ok .placed, t)) : runScalar w m s = .next t := runScalar_ok h

theorem exec_gcall {n : BitVec 10} {g : Gate} {na nb : Word} (hn : n.toNat < s.hart.trap.gatecnt.toNat)
    (hg : (readGate n).exec s = (.ok g, s)) (hv : g.v = true) (h2 : g.priv.toNat ≤ 2) (hp : s.hart.trap.priv.toNat ≤ g.priv.toNat)
    (hal : g.target.toNat % 4 = 0) (hlen : s.hart.ras.length < 16) (hna : (succAt g.priv.toNat g.target).exec s = (.ok na, s))
    (hnb : (succAt g.priv.toNat na).exec s = (.ok nb, s)) :
    exec (.gcall n) s = .next { s with hart := { s.hart with
      ras := ⟨s.hart.fetch.na, true, s.hart.trap.priv, s.hart.cfg.maskmode⟩ :: s.hart.ras
      trap := { s.hart.trap with priv := g.priv }
      cfg := { s.hart.cfg with maskmode := g.mm }
      fetch := ⟨g.target, na, nb, false, false, false, false, false⟩ } } := by
  have hcount : decide (s.hart.trap.gatecnt.toNat ≤ n.toNat) = false := decide_eq_false (by omega)
  have hgood : (!g.v || g.priv == 3 || decide (g.priv < s.hart.trap.priv) || g.target.toNat % 4 != 0) = false := by
    have hne : (g.priv == 3) = false := beq_false_of_ne fun e => by rw [e] at h2; exact absurd h2 (by decide)
    have hnlt : decide (g.priv < s.hart.trap.priv) = false := decide_eq_false (by rw [BitVec.lt_def]; omega)
    rw [hv, hne, hnlt, hal]
    rfl
  have hroom : (pushBlocked s.hart).isSome = false := by rw [pushBlocked_room hlen]; rfl
  refine runScalar_placed ?_
  rw [exec_bind_ok (exec_getHart s), exec_bind_ok (exec_trapIf_false hcount _ _ s), exec_bind_ok hg,
    exec_bind_ok (exec_trapIf_false hgood _ _ s), exec_bind_ok (exec_trapIf_false hroom _ _ s), exec_bind_ok hna, exec_bind_ok hnb,
    exec_bind_ok (exec_pushFrame_room _ hlen)]
  rfl

theorem exec_gcall_beyond {n : BitVec 10} (hn : s.hart.trap.gatecnt.toNat ≤ n.toNat) :
    exec (.gcall n) s = .next (takeTrap false .gate (n.zeroExtend 64) s) := by
  refine runScalar_trap ?_
  rw [exec_bind_ok (exec_getHart s), decide_eq_true hn]
  rfl

theorem exec_gret {r na nb : Word} {p : BitVec 2} {mm : BitVec 1} {rest : List Frame} (hras : s.hart.ras = ⟨r, true, p, mm⟩ :: rest)
    (hp : p.toNat ≤ s.hart.trap.priv.toNat) (hna : (succAt p.toNat r).exec s = (.ok na, s))
    (hnb : (succAt p.toNat na).exec s = (.ok nb, s)) :
    exec .gret s = .next { s with hart := { s.hart with
      ras := rest
      trap := { s.hart.trap with priv := p }
      cfg := { s.hart.cfg with maskmode := mm }
      fetch := ⟨r, na, nb, false, false, false, false, false⟩ } } := by
  have hnlt : decide (s.hart.trap.priv < p) = false := decide_eq_false (by rw [BitVec.lt_def]; omega)
  have hkind : (!(Frame.mk r true p mm).gate) = false := rfl
  refine runScalar_placed ?_
  rw [exec_bind_ok (exec_getHart s), exec_bind_ok (exec_topFrame_held hras), exec_bind_ok (exec_trapIf_false hkind _ _ s),
    exec_bind_ok (exec_trapIf_false hnlt _ _ s), exec_bind_ok hna, exec_bind_ok hnb, exec_bind_ok (exec_popFrame_held hras)]
  rfl

theorem exec_gret_plain {r : Word} {p : BitVec 2} {mm : BitVec 1} {rest : List Frame} (hras : s.hart.ras = ⟨r, false, p, mm⟩ :: rest) :
    exec .gret s = .next (takeTrap false .gate r s) := by
  refine runScalar_trap ?_
  rw [exec_bind_ok (exec_getHart s), exec_bind_ok (exec_topFrame_held hras)]
  rfl

/-- Settles O11: a gate entered and left, and the calls and returns that find no gate. -/
theorem gateResults : Obligations.GateResults := fun _ _ _ _ _ =>
  ⟨exec_gcall, exec_gcall_beyond, fun _ _ _ _ => exec_gret, fun _ _ _ _ => exec_gret_plain⟩

end Sys2Proof.Machine
end

section
/-! TRAP (R116; settles O13): the entry into a handler always completes, and ERET resumes where TRAP went on. -/

namespace Sys2Proof.Machine

variable {α β : Type} {R : State → State → Prop}

/-! ## Meanings that complete -/

/-- The meaning never ends early. -/
def Completes (m : M α) : Prop := ∀ s, ∃ x, (m.exec s).1 = .ok x

theorem completes_pure (x : α) : Completes (pure x : M α) := fun _ => ⟨x, rfl⟩
theorem completes_modify (f : State → State) : Completes (modify f : M PUnit) := fun _ => ⟨⟨⟩, rfl⟩
theorem completes_modHart (f : Hart → Hart) : Completes (modHart f) := fun _ => ⟨(), rfl⟩
theorem completes_attempt (m : M α) : Completes (attempt m) := fun s => ⟨(m.exec s).1, rfl⟩

theorem completes_bind {m : M α} {f : α → M β} (hm : Completes m) (hf : ∀ x, Completes (f x)) : Completes (m >>= f) := fun s => by
  obtain ⟨x, hx⟩ := hm s
  rw [exec_bind_ok (Prod.ext hx rfl)]
  exact hf x _

/-- Writing entries to the save area ends, with a fault or without one (R45). -/
theorem completes_saveEntries (v : Word) (es : List Entry) (n : Nat) : Completes (saveEntries v es n) := by
  induction es generalizing v n with
  | nil => exact completes_pure _
  | cons e es ih =>
    refine completes_bind (fun s => ⟨s, rfl⟩) fun s => completes_bind (completes_attempt _) fun r =>
      completes_bind (completes_modify _) fun _ => ?_
    match r with
    | .ok _ => exact ih _ _
    | .error (.trap _ _) => exact completes_pure _
    | .error (.trapWord _) => exact completes_pure _
    | .error .block => exact completes_pure _
    | .error .stall => exact completes_pure _

theorem completes_saveQueue : Completes saveQueue := by
  have hrest (h : Hart) : Completes (do
      leaveWaits
      let base : Word := BitVec.ofNat 64 (bitsOf h.trap.xvq.toNat 51 5 * 32)
      let (n, bad) ← saveEntries base h.vq 0
      modTrapRegs fun t => { t with xvq := base ||| BitVec.ofNat 64 (n * 2 ^ 58) }
      modHart fun h => { h with vq := [] }
      pure bad) :=
    completes_bind (completes_modify _) fun _ => completes_bind (completes_saveEntries _ _ _) fun _ =>
      completes_bind (completes_modHart _) fun _ => completes_bind (completes_modHart _) fun _ => completes_pure _
  refine completes_bind (fun s => ⟨s.hart, rfl⟩) fun h => ?_
  dsimp only
  split
  · split
    · exact completes_bind (completes_modHart _) fun _ => hrest h
    · exact hrest h
  · exact hrest h

theorem completes_enterHandler : Completes enterHandler := by
  refine completes_bind (completes_modHart _) fun _ => completes_bind (fun s => ⟨s.hart, rfl⟩) fun h =>
    completes_bind (completes_modHart _) fun _ => completes_bind (completes_attempt _) fun r => ?_
  match r with
  | .ok _ => exact completes_pure _
  | .error (.trap _ _) =>
    exact completes_bind (completes_modHart _) fun _ => completes_bind (fun s => ⟨s, rfl⟩) fun _ => completes_modify _
  | .error (.trapWord _) => exact completes_modHart _
  | .error .block => exact completes_modHart _
  | .error .stall => exact completes_modHart _

/-- Trap entry completes, whatever it meets (R45, R52). -/
theorem exec_trapEntry (v : Bool) (c : Cause) (x : Word) (s : State) :
    (trapEntry v c x).exec s = (.ok (), takeTrap v c x s) := by
  have hc : Completes (trapEntry v c x) := completes_bind completes_saveQueue fun _ =>
    completes_bind (completes_modHart _) fun _ => completes_enterHandler
  obtain ⟨_, hx⟩ := hc s
  exact Prod.ext hx rfl

/-! ## What forming the queued addresses keeps -/

/-- Forming the queued addresses fetches words and sets NA and NB (R52). -/
theorem keeps_formQueue (hR : Chain R) (hsucc : ∀ v, Keeps R (succ v))
    (hna : ∀ na, Keeps R (modFetch fun f => { f with na := na, naf := false }))
    (hnb : ∀ nb, Keeps R (modFetch fun f => { f with nb := nb, nbf := false })) : Keeps R formQueue := by
  have hrest : Keeps R (do
      let f := (← getHart).fetch
      if f.nbf then
        let nb ← succ f.na
        modFetch fun f => { f with nb := nb, nbf := false }) :=
    keeps_bind hR (keeps_getHart hR) fun _ => keeps_ite _ (keeps_bind hR (hsucc _) hnb) (keeps_pure hR _)
  exact keeps_bind hR (keeps_getHart hR) fun _ => keeps_ite _
    (keeps_bind hR (hsucc _) fun na => keeps_bind hR (hna na) fun _ => hrest) hrest

/-- No WAITI waits after an instruction has gone on (R120). -/
theorem passed_waiting (s : State) : s.passed.hart.fetch.waiting = false := by
  have hc : Chain fun s t : State => t.hart.fetch.waiting = s.hart.fetch.waiting := ⟨fun _ => rfl, fun _ _ _ h h' => h'.trans h⟩
  exact keeps_formQueue hc (fun v s => congrArg Fetch.waiting (marksEntryOf_succ (s := s) v).fetch) (fun _ _ => rfl) (fun _ _ => rfl)
    { s with hart := { s.hart with fetch := ⟨s.hart.fetch.na, s.hart.fetch.nb, 0, s.hart.fetch.ana, false, true, false, false⟩ } }

/-! ## TRAP -/

theorem exec_trapInstr (c : BitVec 7) (s : State) :
    exec (.trap c) s = .next (takeTrap false .trap (c.zeroExtend 64) s.passed) := by
  change runScalar _ (do advance .next; trapEntry false .trap (c.zeroExtend 64); pure .placed) s = _
  refine runScalar_placed ?_
  rw [exec_bind_ok (exec_advance_next s), exec_bind_ok (exec_trapEntry _ _ _ _), exec_pure]

/-- Settles O13: the handler is entered in the state after TRAP's own step, and a return finds that state's queued addresses. -/
theorem trapInstruction : Obligations.TrapInstruction := by
  intro c s after t f
  refine ⟨exec_trapInstr c s, fun hq => ?_⟩
  have hq' : after.hart.vq = [] := (passed_vq s).trans hq
  obtain ⟨hentered, -⟩ := trapRegisters false .trap (c.zeroExtend 64) after hq'
  obtain ⟨hxpc, hxna, hxnb, -, -, -, -, hcause, hxval, -, -, hpriv, -, hpc, -⟩ := hentered
  refine ⟨hcause, hxval, hpc.trans (congrArg TrapRegs.tvec (passed_trap s)), hpriv, hxpc, hxna, hxnb, fun hpc hna hnb hnbf hnaf => ?_⟩
  obtain ⟨u, hu, hfetch, -⟩ := trapThenEret false .trap (c.zeroExtend 64) after hq' hpc hna hnb hnbf hnaf (passed_waiting s)
  exact ⟨u, hu, hfetch⟩

end Sys2Proof.Machine
end

section
/-! WIN, FENCE, TLBINV, HALT, WAITI and the queue registers (R117–R121; settles O17). -/

namespace Sys2Proof.Machine

variable {s : State} {d a b q : BitVec 7}

/-! ## Running -/

/-- A scalar instruction that must wait leaves the hart parked (R45). -/
theorem runScalar_block {w : BitVec 32} {m : M Flow} {s t : State} (h : m.exec s = (.error .block, t)) :
    runScalar w m s = .next { s with parked := true } := by
  unfold runScalar
  rw [h]

/-- A scalar instruction that completes goes on to the next word. -/
theorem runScalar_passed {w : BitVec 32} {m : M Flow} {s t : State} (h : m.exec s = (.ok .next, t)) :
    runScalar w m s = .next t.passed := runScalar_ok h

theorem exec_needSupervisor_ok (hp : s.hart.trap.priv = 2) : needSupervisor.exec s = (.ok (), s) :=
  (exec_needSupervisor s).trans (if_pos hp)

/-! ## WIN (R118) -/

/-- A window base is a multiple of 8: the low three bits of the operand are ignored. -/
theorem extractLsb'_append_zeros (x : Word) (n : Nat) :
    x.extractLsb' 3 n ++ 0#3 = BitVec.ofNat (n + 3) (x.toNat % 2 ^ (n + 3) / 8 * 8) := by
  apply BitVec.eq_of_toNat_eq
  have hdiv : x.toNat / 2 ^ 3 % 2 ^ n = x.toNat % 2 ^ (n + 3) / 8 := by
    rw [Nat.pow_add, Nat.mul_comm, Nat.mod_mul_right_div_self]
  have hlt : x.toNat % 2 ^ (n + 3) / 8 * 8 < 2 ^ (n + 3) :=
    (Nat.div_mul_le_self _ _).trans_lt (Nat.mod_lt _ (Nat.two_pow_pos _))
  rw [toNat_append_eq, BitVec.extractLsb'_toNat, Nat.shiftRight_eq_div_pow, hdiv, BitVec.toNat_ofNat, BitVec.toNat_ofNat,
    Nat.mod_eq_of_lt hlt]
  rfl

theorem exec_win (ha : scalarOk s.hart a = true) (hb : scalarOk s.hart b = true) :
    exec (.win a b) s = .next (State.passed { s with hart := { s.hart with
      sys := { s.hart.sys with swb := BitVec.ofNat 8 ((scalarVal s.hart a).toNat % 256 / 8 * 8) }
      cfg := { s.hart.cfg with vwb := BitVec.ofNat 7 ((scalarVal s.hart b).toNat % 128 / 8 * 8) } } }) := by
  have hswb := extractLsb'_append_zeros (scalarVal s.hart a) 5
  have hvwb := extractLsb'_append_zeros (scalarVal s.hart b) 4
  refine runScalar_passed ?_
  rw [exec_bind_ok (exec_readScalar_ok ha), exec_bind_ok (exec_readScalar_ok hb), exec_bind_ok (exec_modSys _ s),
    exec_bind_ok (exec_modCfg _ _), hswb, hvwb]
  rfl

/-! ## FENCE (R117) -/

/-- FENCE waits where it orders some kind of access and accesses are outstanding. -/
theorem exec_fence (sf : BitVec 3) (k : BitVec 4) (s : State) : exec (.fence sf k) s =
    if (k &&& 0xE) != 0 && (!s.hart.vq.isEmpty || accessesPending s) then .next { s with parked := true } else .next s.passed := by
  change runScalar _ (get >>= fun s => if (k &&& 0xE) != 0 && (!s.hart.vq.isEmpty || accessesPending s) then block else pure .next) s = _
  split
  next h => exact runScalar_block ((exec_bind_ok (exec_get s)).trans (by rw [if_pos h, exec_block]))
  next h => exact runScalar_passed ((exec_bind_ok (exec_get s)).trans (by rw [if_neg h, exec_pure]))

theorem exec_fence_done (sf : BitVec 3) (k : BitVec 4) (hq : s.hart.vq = []) (ha : accessesPending s = false) :
    exec (.fence sf k) s = .next s.passed := by
  rw [exec_fence, hq, ha, if_neg (by simp)]

theorem exec_fence_waits (sf : BitVec 3) {k : BitVec 4} (h : s.hart.vq ≠ [] ∨ accessesPending s = true) (hk : k &&& 0xE ≠ 0) :
    exec (.fence sf k) s = .next { s with parked := true } := by
  rw [exec_fence, if_pos]
  rw [Bool.and_eq_true, Bool.or_eq_true, bne_iff_ne, Bool.not_eq_true', List.isEmpty_eq_false_iff]
  exact ⟨hk, h⟩

/-! ## TLBINV, HALT and WAITI (R119, R120) -/

theorem exec_tlbinv (hp : s.hart.trap.priv = 2) (ha : scalarOk s.hart a = true) (hb : scalarOk s.hart b = true)
    (hmode : (scalarVal s.hart b).toNat < 3) :
    exec (.tlbinv a b) s = .next (State.passed (s.setDie (dieOf s.id) { s.myDie with
      tlb := s.myDie.tlb.filter fun t => !tlbDropped (scalarVal s.hart b).toNat (scalarVal s.hart a).toNat t })) := by
  refine runScalar_passed ?_
  rw [exec_bind_ok (exec_needSupervisor_ok hp), exec_bind_ok (exec_readScalar_ok ha), exec_bind_ok (exec_readScalar_ok hb),
    if_neg (by omega), exec_bind_ok (exec_get s), exec_bind_ok (exec_modDie _ _ s), exec_pure]
  rfl

theorem exec_halt_empty (hp : s.hart.trap.priv = 2) (hq : s.hart.vq = []) :
    exec .halt s = .next (State.passed { s with hart := { s.hart with phase := .halted } }) := by
  have hphase : (if s.hart.vq.isEmpty then Phase.halted else .halting) = .halted := by rw [hq]; rfl
  refine runScalar_passed ?_
  rw [exec_bind_ok (exec_needSupervisor_ok hp), exec_bind_ok (exec_modHart _ s), hphase]
  rfl

theorem noneEnabled_eq (h : Hart) : noneEnabled h = true ↔ h.trap.ipend &&& h.trap.imask = 0 := beq_iff_eq

theorem exec_waiti_pending (hp : s.hart.trap.priv = 2) (h : s.hart.trap.ipend &&& s.hart.trap.imask ≠ 0) :
    exec .waiti s = .next s.passed := by
  have hsome : noneEnabled s.hart = false := Bool.eq_false_iff.2 (mt (noneEnabled_eq _).1 h)
  change execWaiti s = _
  unfold execWaiti
  rw [hsome, Bool.and_false, if_neg Bool.false_ne_true]
  exact runScalar_passed (exec_bind_ok (exec_needSupervisor_ok hp))

theorem exec_waiti_waits (hp : s.hart.trap.priv = 2) (h : s.hart.trap.ipend &&& s.hart.trap.imask = 0) :
    exec .waiti s = .next { s with
      parked := true, hart := { s.hart with fetch := { s.hart.fetch with waiting := true } } } := by
  change execWaiti s = _
  unfold execWaiti
  rw [(noneEnabled_eq _).2 h, decide_eq_true hp]
  rfl

/-! ## The queue registers (R121) -/

theorem exec_qsend_room (ha : scalarOk s.hart a = true) (h : (queueAt s.hart q).length < 8) :
    exec (.qsend q a) s = .next (State.passed { s with hart := { s.hart with
      queues := sparsePut [] s.hart.queues q.toNat (queueAt s.hart q ++ [scalarVal s.hart a]) } }) := by
  refine runScalar_passed ?_
  rw [exec_bind_ok (exec_readScalar_ok ha), exec_bind_ok (exec_getHart s), if_neg (by omega)]
  rfl

theorem exec_qsend_full (ha : scalarOk s.hart a = true) (h : 8 ≤ (queueAt s.hart q).length) :
    exec (.qsend q a) s = .next { s with parked := true } := by
  refine runScalar_block (t := s) ?_
  rw [exec_bind_ok (exec_readScalar_ok ha), exec_bind_ok (exec_getHart s), if_pos h]
  rfl

theorem exec_qrecv_some {x : Word} {xs : List Word} (hd : scalarOk s.hart d = true) (h : queueAt s.hart q = x :: xs) :
    exec (.qrecv d q) s = .next (State.passed { s with
      hart := setScalar { s.hart with queues := sparsePut [] s.hart.queues q.toNat xs } d x }) := by
  refine runScalar_passed ?_
  rw [exec_bind_ok (exec_checkScalar_ok hd), exec_bind_ok (exec_getHart s), h]
  exact (exec_bind_ok (exec_modHart _ s)).trans (exec_bind_ok (exec_writeScalar_ok x (by exact hd)))

theorem exec_qrecv_empty (hd : scalarOk s.hart d = true) (h : queueAt s.hart q = []) :
    exec (.qrecv d q) s = .next { s with parked := true } := by
  refine runScalar_block (t := s) ?_
  rw [exec_bind_ok (exec_checkScalar_ok hd), exec_bind_ok (exec_getHart s), h]
  rfl

theorem exec_qstat (hd : scalarOk s.hart d = true) :
    exec (.qstat d q) s = wroteScalar s d (BitVec.ofNat 64 (queueAt s.hart q).length) := by
  refine runScalar_passed ?_
  rw [exec_bind_ok (exec_checkScalar_ok hd), exec_bind_ok (exec_getHart s), exec_bind_ok (exec_writeScalar_ok _ hd)]
  rfl

/-- Settles O17, instruction by instruction. -/
theorem systemResults : Obligations.SystemResults := fun _ _ _ _ sf k _ hd ha hb =>
  ⟨exec_win ha hb, exec_fence_done sf k, exec_fence_waits sf, fun hp => exec_tlbinv hp ha hb, exec_halt_empty, exec_waiti_pending,
    exec_waiti_waits, exec_qsend_room ha, exec_qsend_full ha, fun _ _ => exec_qrecv_some hd, exec_qrecv_empty hd, exec_qstat hd⟩

end Sys2Proof.Machine
end

section
/-! What the events of the pod are made of: the error log (R331), the loss of a package (R395), and the search for the first number that
passes a test. -/

namespace Sys2Proof.Machine

variable {s t u : State}

/-! ## The first number that passes -/

theorem findFrom_eq_none {n i : Nat} {p : Nat → Bool} (h : ∀ k, i ≤ k → k < i + n → p k = false) : findFrom n i p = none := by
  induction n generalizing i with
  | zero => rfl
  | succ n ih =>
    rw [findFrom, h i le_rfl (by omega)]
    exact ih fun k hk hk' => h k (by omega) (by omega)

theorem findFrom_eq_some {n i k : Nat} {p : Nat → Bool} (hi : i ≤ k) (hk : k < i + n) (hp : p k = true)
    (hbelow : ∀ j, i ≤ j → j < k → p j = false) : findFrom n i p = some k := by
  induction n generalizing i with
  | zero => omega
  | succ n ih =>
    rw [findFrom]
    by_cases he : i = k
    · rw [he, if_pos hp]
    · rw [hbelow i le_rfl (by omega)]
      exact ih (by omega) (by omega) fun j hj => hbelow j (by omega)

/-! ## The error log -/

/-- Only the error logs changed: the registers of the logs on their dies, the records in memory, and the count of free values (R331). -/
structure Logged (s t : State) : Prop where
  rest : t = { s with dies := t.dies, mem := t.mem, poison := t.poison, stores := t.stores, freeCount := t.freeCount }
  dies : ∀ d, t.die d = { s.die d with
    elcnt := (t.die d).elcnt, logTime := (t.die d).logTime, logNow := (t.die d).logNow }

theorem chain_logged : Chain Logged where
  refl _ := ⟨rfl, fun _ => rfl⟩
  trans s t u h h' := by
    refine ⟨?_, fun d => ?_⟩
    · have hrest := h'.rest
      rw [h.rest] at hrest
      exact hrest
    · have hdie := h'.dies d
      rw [h.dies d] at hdie
      exact hdie

theorem Logged.id (h : Logged s t) : t.id = s.id := by rw [h.rest]
theorem Logged.hart (h : Logged s t) : t.hart = s.hart := by rw [h.rest]
theorem Logged.others (h : Logged s t) : t.others = s.others := by rw [h.rest]
theorem Logged.cores (h : Logged s t) : t.cores = s.cores := by rw [h.rest]
theorem Logged.pkgs (h : Logged s t) : t.pkgs = s.pkgs := by rw [h.rest]

theorem Logged.pkg (h : Logged s t) (p : Nat) : t.pkg p = s.pkg p := congrArg (sparseGet Pkg.reset · p) h.pkgs

theorem Logged.elbase (h : Logged s t) (d : Nat) : (t.die d).elbase = (s.die d).elbase := by rw [h.dies d]

theorem Logged.retained (h : Logged s t) (d : Nat) : (t.die d).retained = (s.die d).retained := by rw [h.dies d]

theorem Logged.hartAt (h : Logged s t) (n : Nat) : t.hartAt n = s.hartAt n := by
  unfold State.hartAt
  rw [h.id, h.hart, h.others]

theorem Logged.core (h : Logged s t) (c : Nat) : t.core c = s.core c := congrArg (sparseGet Core.reset · c) h.cores

/-- What a link is, is not changed by logging. -/
theorem Logged.linkOf (h : Logged s t) (n : BitVec 6) : linkOf t n = linkOf s n := by
  unfold Machine.linkOf State.myPkg
  rw [h.id, h.pkg]

theorem logged_freeWord : Keeps Logged freeWord := fun _ => ⟨rfl, fun _ => rfl⟩

theorem logged_putRecords (base cap wr : Nat) (rs : List (List Byte)) (s : State) : Logged s (putRecords base cap wr rs s) := by
  induction rs generalizing wr s with
  | nil => exact chain_logged.refl s
  | cons r rs ih =>
    have hput : Logged s (s.unowned (s.putBytes (base + 32 * (wr % cap)) r)) := ⟨rfl, fun _ => rfl⟩
    exact chain_logged.trans _ _ _ hput (ih (wr + 1) _)

/-- Setting the log registers of a die is a change of the logs. -/
theorem logged_setDie {d : Nat} {x : Die} (h : x = { s.die d with elcnt := x.elcnt, logTime := x.logTime, logNow := x.logNow }) :
    Logged s (s.setDie d x) := by
  refine ⟨rfl, fun n => ?_⟩
  by_cases hn : n = d
  · rw [hn, die_setDie_same]
    exact h
  · rw [die_setDie_other s x hn]

theorem logged_logEvent (d source cls addr : Nat) : Keeps Logged (logEvent d source cls addr) := fun s => by
  unfold logEvent
  rw [exec_modify]
  dsimp only
  split
  · exact logged_setDie rfl
  · have hput := logged_putRecords (s := s)
    refine chain_logged.trans _ _ _ (hput _ _ _ _) (chain_logged.trans _ _ _ (logged_setDie ?_) ⟨rfl, fun _ => rfl⟩)
    rw [(hput _ _ _ _).dies d]

/-- With the log of a die disabled an event only counts as lost (R331). -/
theorem exec_logEvent_disabled {d : Nat} (h : (s.die d).elbase = 0) (source cls addr : Nat) :
    (logEvent d source cls addr).exec s = (.ok (), s.setDie d { s.die d with
      elcnt := BitVec.ofNat 64 (bitsOf (s.die d).elcnt.toNat 31 0 + 2 ^ 32 * ((bitsOf (s.die d).elcnt.toNat 63 32 + 1) % 2 ^ 32)) }) := by
  unfold logEvent
  rw [exec_modify]
  dsimp only
  rw [h, if_pos (by decide)]

/-- The count of lost records goes up by one, modulo 2^32 (R331). -/
theorem lost_after_logEvent (x : Word) :
    (BitVec.ofNat 64 (bitsOf x.toNat 31 0 + 2 ^ 32 * ((bitsOf x.toNat 63 32 + 1) % 2 ^ 32))).toNat / 2 ^ 32 =
      (x.toNat / 2 ^ 32 + 1) % 2 ^ 32 := by
  have hx := x.isLt
  rw [BitVec.toNat_ofNat, bitsOf, bitsOf]
  omega

/-- An event of a link or a package is logged, at most. -/
theorem exec_logFabric (p cls : Nat) (s : State) :
    ∃ t, (logFabric p cls).exec s = (.ok (), t) ∧ Logged s t ∧ ((s.die (4 * p)).elbase = 0 → t.mem = s.mem) := by
  have hkeeps : Keeps Logged (logFabric p cls) := keeps_bind chain_logged logged_freeWord fun _ =>
    keeps_bind chain_logged logged_freeWord fun _ => logged_logEvent _ _ _ _
  have hrun : (logFabric p cls).exec s = (.ok (), ((logFabric p cls).exec s).2) := rfl
  refine ⟨_, hrun, hkeeps s, fun h => ?_⟩
  unfold logFabric
  rw [exec_bind_ok (exec_freeWord s), exec_bind_ok (exec_freeWord _), exec_logEvent_disabled (by exact h)]
  rfl

/-! ## Changes of every package -/

/-- A change of the packages below a number, each by itself, changes nothing else. -/
theorem foldl_setPkg (f : Nat → Pkg → Pkg) (n : Nat) (s : State) :
    let t := (List.range n).foldl (fun s p => s.setPkg p (f p (s.pkg p))) s
    t = { s with pkgs := t.pkgs } ∧ ∀ k, t.pkg k = if k < n then f k (s.pkg k) else s.pkg k := by
  induction n with
  | zero => exact ⟨rfl, fun k => (if_neg (Nat.not_lt_zero k)).symm⟩
  | succ n ih =>
    obtain ⟨hrest, hpkg⟩ := ih
    rw [List.range_succ, List.foldl_append]
    refine ⟨?_, fun k => ?_⟩
    · dsimp only [List.foldl_cons, List.foldl_nil]
      rw [hrest]
      rfl
    · dsimp only [List.foldl_cons, List.foldl_nil]
      by_cases hk : k = n
      · rw [hk, pkg_setPkg_same, hpkg n, if_neg (Nat.lt_irrefl n), if_pos (Nat.lt_succ_self n)]
      · rw [pkg_setPkg_other _ _ hk, hpkg k]
        exact if_congr (by omega) rfl rfl

/-- The map of package `p` when package `q` is lost: its bit is gone, and it reaches itself alone (R395, log 92). -/
def lostMap (q p : Nat) (map : BitVec 64) : BitVec 64 :=
  if p = q then BitVec.ofNat 64 (2 ^ q) else map &&& ~~~(BitVec.ofNat 64 (2 ^ q))

/-- A package is lost (R395): of the packages only the maps and the page-ins change, and every map but its own loses its bit. -/
structure Lost (q : Nat) (s t : State) : Prop where
  rest : t = { s with
    dies := t.dies, mem := t.mem, poison := t.poison, stores := t.stores, freeCount := t.freeCount, pkgs := t.pkgs }
  pkgs : ∀ p, t.pkg p = { s.pkg p with podmap := (t.pkg p).podmap, pageIns := (t.pkg p).pageIns }
  podmap : ∀ p < 64, (t.pkg p).podmap = lostMap q p (s.pkg p).podmap
  mem : (s.die (4 * q)).elbase = 0 → t.mem = s.mem

theorem Lost.id {q : Nat} (h : Lost q s t) : t.id = s.id := by rw [h.rest]
theorem Lost.hart {q : Nat} (h : Lost q s t) : t.hart = s.hart := by rw [h.rest]
theorem Lost.others {q : Nat} (h : Lost q s t) : t.others = s.others := by rw [h.rest]
theorem Lost.cores {q : Nat} (h : Lost q s t) : t.cores = s.cores := by rw [h.rest]

theorem Lost.linkOf {q : Nat} (h : Lost q s t) (n : BitVec 6) : linkOf t n = linkOf s n := by
  unfold Machine.linkOf State.myPkg
  rw [h.id, h.pkgs]

/-- Logging after a loss is part of the loss. -/
theorem Lost.logged {q : Nat} (h : Lost q s t) (hdies : t.dies = s.dies) (hmem : t.mem = s.mem) (hu : Logged t u)
    (hoff : (t.die (4 * q)).elbase = 0 → u.mem = t.mem) : Lost q s u where
  rest := by
    have hrest := hu.rest
    rw [h.rest] at hrest
    rw [hu.pkgs]
    exact hrest
  pkgs p := by rw [hu.pkg]; exact h.pkgs p
  podmap p hp := by rw [hu.pkg]; exact h.podmap p hp
  mem h0 := (hoff (by rw [State.die, hdies]; exact h0)).trans hmem

/-- The state in which every map has lost the bit of package `q`. -/
def State.unmapped (s : State) (q : Nat) : State :=
  (List.range 64).foldl (fun s p => s.setPkg p { s.pkg p with podmap := lostMap q p (s.pkg p).podmap }) s

/-- The state in which, beside, the page-ins of package `q` have failed for the packages that asked from afar. -/
def State.forsaken (s : State) (q : Nat) : State :=
  (s.unmapped q).setPkg q { (s.unmapped q).pkg q with pageIns := ((s.unmapped q).pkg q).pageIns.flatMap (splitPageIn q) }

/-- A state that differs from another in its packages alone. -/
def OnlyPkgs (s t : State) : Prop := t = { s with pkgs := t.pkgs }

theorem OnlyPkgs.setPkg (h : OnlyPkgs s t) (q : Nat) (x : Pkg) : OnlyPkgs s (t.setPkg q x) := by
  unfold OnlyPkgs at *
  rw [h]
  rfl

theorem OnlyPkgs.dies (h : OnlyPkgs s t) : t.dies = s.dies := by rw [h]
theorem OnlyPkgs.mem (h : OnlyPkgs s t) : t.mem = s.mem := by rw [h]

theorem OnlyPkgs.rest (h : OnlyPkgs s t) : t = { s with
    dies := t.dies, mem := t.mem, poison := t.poison, stores := t.stores, freeCount := t.freeCount, pkgs := t.pkgs } := by
  unfold OnlyPkgs at h
  rw [h]

theorem onlyPkgs_forsaken (s : State) (q : Nat) : OnlyPkgs s (s.forsaken q) :=
  OnlyPkgs.setPkg (foldl_setPkg (fun p x => { x with podmap := lostMap q p x.podmap }) 64 s).1 q _

theorem lost_forsaken (s : State) (q : Nat) : Lost q s (s.forsaken q) := by
  have hmaps (p : Nat) : (s.unmapped q).pkg p = if p < 64 then { s.pkg p with podmap := lostMap q p (s.pkg p).podmap } else s.pkg p :=
    (foldl_setPkg (fun p x => { x with podmap := lostMap q p x.podmap }) 64 s).2 p
  have hpkg (p : Nat) : (s.forsaken q).pkg p = { (s.unmapped q).pkg p with pageIns := ((s.forsaken q).pkg p).pageIns } := by
    unfold State.forsaken
    by_cases hp : p = q
    · rw [hp, pkg_setPkg_same]
    · rw [pkg_setPkg_other _ _ hp]
  refine ⟨(onlyPkgs_forsaken s q).rest, fun p => ?_, fun p hp => ?_, fun _ => (onlyPkgs_forsaken s q).mem⟩
  · have hf := hpkg p
    have hm := hmaps p
    generalize (s.forsaken q).pkg p = f at hf ⊢
    generalize (s.unmapped q).pkg p = m at hf hm
    rw [hf]
    split at hm <;> rw [hm]
  · rw [hpkg p, hmaps p, if_pos hp]

theorem exec_losePackage (q : Nat) (s : State) : ∃ t, (losePackage q).exec s = (.ok (), t) ∧ Lost q s t := by
  obtain ⟨t, ht, hlogged, hoff⟩ := exec_logFabric q 2 (s.forsaken q)
  have honly := onlyPkgs_forsaken s q
  have hrun : (losePackage q).exec s = (if (List.range 64).any fun p => p != q && (s.pkg p).podmap.getLsbD q then logFabric q 2
      else pure ()).exec (s.forsaken q) := rfl
  rw [hrun]
  split
  · exact ⟨t, ht, (lost_forsaken s q).logged honly.dies honly.mem hlogged hoff⟩
  · exact ⟨s.forsaken q, rfl, lost_forsaken s q⟩

end Sys2Proof.Machine
end

section
/-! Links, lost and readmitted packages, and accesses between packages (R356, R372–R376, R395): the first half of O52. -/

namespace Sys2Proof.Machine

variable {s t u : State} {n m : BitVec 6} {l : Link} {flit : Flit}

/-! ## Links of the package in focus -/

/-- The state with a link of the package in focus replaced. -/
def State.putLink (s : State) (n : BitVec 6) (l : Link) : State :=
  s.setPkg (pkgOf s.id) { s.myPkg with links := sparsePut Link.reset s.myPkg.links n.toNat l }

theorem withLink_eq (s : State) (n : BitVec 6) (l : Link) : withLink s n l = .next (s.putLink n l) := rfl

theorem links_putLink (s : State) (n : BitVec 6) (l : Link) (i : Nat) :
    sparseGet Link.reset (s.putLink n l).myPkg.links i = if i = n.toNat then l else sparseGet Link.reset s.myPkg.links i := by
  have hpkg : (s.putLink n l).myPkg = { s.myPkg with links := sparsePut Link.reset s.myPkg.links n.toNat l } := pkg_setPkg_same ..
  rw [hpkg]
  exact sparseGet_put ..

theorem linkOf_putLink_same (s : State) (n : BitVec 6) (l : Link) : linkOf (s.putLink n l) n = l :=
  (links_putLink s n l n.toNat).trans (if_pos rfl)

theorem linkOf_putLink_other (s : State) (l : Link) (h : m ≠ n) : linkOf (s.putLink n l) m = linkOf s m :=
  (links_putLink s n l m.toNat).trans (if_neg fun e => h (BitVec.eq_of_toNat_eq e))

theorem exec_modLink (n : BitVec 6) (f : Link → Link) (s : State) :
    (modLink (pkgOf s.id) n f).exec s = (.ok (), s.putLink n (f (linkOf s n))) := rfl

/-- An event on a link that the package has. -/
theorem exec_onLink {f : Nat → Link → M Unit} (h : n.toNat < 36) :
    (onLink n f).exec s = (f (pkgOf s.id) (linkOf s n)).exec s := by
  unfold onLink
  rw [exec_bind_ok (exec_get s), if_neg (by omega)]
  rfl

theorem exec_onLink_none {f : Nat → Link → M Unit} (h : 36 ≤ n.toNat) : (onLink n f).exec s = (.error .block, s) := by
  unfold onLink
  rw [exec_bind_ok (exec_get s), if_pos (by omega)]
  rfl

theorem runEvent_onLink_none {f : Nat → Link → M Unit} (h : 36 ≤ n.toNat) : runEvent (onLink n f) s = .next s :=
  runEvent_error (exec_onLink_none h)

/-- An event that is logged when it is over. -/
theorem exec_logged_if (p : Prop) [Decidable p] (q cls : Nat) (s : State) :
    ∃ t, (if p then logFabric q cls else pure ()).exec s = (.ok (), t) ∧ Logged s t := by
  obtain ⟨t, ht, hlogged, -⟩ := exec_logFabric q cls s
  split
  · exact ⟨t, ht, hlogged⟩
  · exact ⟨s, rfl, chain_logged.refl s⟩

/-! ## Flits (R373) -/

section
variable {good : Bool} {p : Nat}

theorem exec_receiveFlit_down (h : l.st ≠ 2) : (receiveFlit p n l flit good).exec s = (.error .block, s) := by
  unfold receiveFlit
  rw [if_pos (bne_iff_ne.2 h)]
  rfl

theorem receiveFlit_up (h : l.st = 2) : receiveFlit p n l flit good =
    if !good then modLink p n fun l => { l with naked := true }
    else if flit.seq = l.seq then do
      modLink p n fun l => { l with seq := l.seq + 1, naked := false, inbox := l.inbox ++ [flit] }
      if l.naked then logFabric p 1
    else pure () := by
  unfold receiveFlit
  rw [h, if_neg (by decide)]

end

section
variable {good : BitVec 1}

theorem exec_flitReceive (h : n.toNat < 36) : exec (.flitReceive n flit good) s =
    runEvent (receiveFlit (pkgOf s.id) n (linkOf s n) flit (good == 1)) s := by
  change runEvent _ s = _
  unfold runEvent
  rw [exec_onLink h]

theorem exec_flitReceive_next (h : n.toNat < 36) (hup : (linkOf s n).st = 2) (hgood : good = 1) (hseq : flit.seq = (linkOf s n).seq) :
    ∃ t, exec (.flitReceive n flit good) s = .next t ∧
      Logged (s.putLink n { linkOf s n with
        seq := (linkOf s n).seq + 1, naked := false, inbox := (linkOf s n).inbox ++ [flit] }) t ∧
      ((linkOf s n).naked = false → t = s.putLink n { linkOf s n with
        seq := (linkOf s n).seq + 1, naked := false, inbox := (linkOf s n).inbox ++ [flit] }) := by
  obtain ⟨t, ht, hlogged⟩ := exec_logged_if ((linkOf s n).naked = true) (pkgOf s.id) 1 (s.putLink n { linkOf s n with
    seq := (linkOf s n).seq + 1, naked := false, inbox := (linkOf s n).inbox ++ [flit] })
  have hrun : (receiveFlit (pkgOf s.id) n (linkOf s n) flit (good == 1)).exec s = (.ok (), t) := by
    rw [receiveFlit_up hup, hgood, if_neg (by decide), if_pos hseq, exec_bind_ok (exec_modLink n _ s)]
    exact ht
  refine ⟨t, (exec_flitReceive h).trans (runEvent_ok hrun), hlogged, fun hclear => ?_⟩
  rw [hclear] at ht
  exact (congrArg Prod.snd ht).symm

theorem exec_flitReceive_bad (h : n.toNat < 36) (hup : (linkOf s n).st = 2) (hbad : good = 0) :
    exec (.flitReceive n flit good) s = withLink s n { linkOf s n with naked := true } := by
  rw [exec_flitReceive h, receiveFlit_up hup, hbad]
  rfl

theorem exec_flitReceive_refused (h : n.toNat < 36) (hwhy : (linkOf s n).st ≠ 2 ∨ (good = 1 ∧ flit.seq ≠ (linkOf s n).seq)) :
    exec (.flitReceive n flit good) s = .next s := by
  rw [exec_flitReceive h]
  by_cases hup : (linkOf s n).st = 2
  · obtain ⟨hgood, hseq⟩ := hwhy.resolve_left (not_not_intro hup)
    rw [receiveFlit_up hup, hgood, if_neg (by decide), if_neg hseq]
    rfl
  · exact runEvent_error (exec_receiveFlit_down hup)

end

/-- A flit that an agenda sends takes the link's next number (R372). -/
theorem step_flit {vc kind : BitVec 8} {dest : BitVec 6} {load : BitVec 1824} {ts : List Turn} (h : n.toNat < 36)
    (hup : (linkOf s n).st = 2) :
    step { s with agenda := .flit (pkgOf s.id) n vc dest kind load :: ts } = withLink { s.seen with agenda := ts } n { linkOf s n with
      sendSeq := (linkOf s n).sendSeq + 1
      sent := ((linkOf s n).sent ++ [Flit.mk (linkOf s n).sendSeq vc dest kind load]).drop ((linkOf s n).sent.length - 255) } := by
  have hopen : ¬(decide (35 < n.toNat) || (linkOf s n).st != 2) = true := by
    rw [hup, decide_eq_false (by omega)]
    decide
  have hdrop : (linkOf s n).sent.length + 1 - 256 = (linkOf s n).sent.length - 255 := Nat.add_sub_add_right _ 1 255
  change runEvent (sendFlit (pkgOf s.id) n ⟨0, vc, dest, kind, load⟩) { s.seen with agenda := ts } = _
  refine runEvent_ok ?_
  unfold sendFlit
  rw [exec_bind_ok (exec_get _)]
  refine (congrArg (M.exec · _) (if_neg hopen)).trans ?_
  rw [← hdrop]
  rfl

/-! ## Replay and retraining (R373) -/

section
variable {seq : BitVec 12}

/-- What the replay buffer holds from a flit on, and how often that flit has been replayed. -/
def Link.again (l : Link) (seq : BitVec 12) : List Flit := l.sent.dropWhile fun f => f.seq != seq
def Link.triesOf (l : Link) (seq : BitVec 12) : BitVec 4 := if l.named = seq then l.tries else 0

theorem exec_linkReplay (h : n.toNat < 36) : exec (.linkReplay ⟨n, seq⟩) s =
    if (linkOf s n).st ≠ 2 ∨ (linkOf s n).again seq = [] ∨ 8 ≤ ((linkOf s n).triesOf seq).toNat then .next s
    else withLink s n { linkOf s n with
      sent := (linkOf s n).again seq
      replays := (linkOf s n).replays + BitVec.ofNat 32 ((linkOf s n).again seq).length
      named := seq
      tries := (linkOf s n).triesOf seq + 1 } := by
  have hstop : ((linkOf s n).st != 2 || ((linkOf s n).again seq).isEmpty || decide (8 ≤ ((linkOf s n).triesOf seq).toNat)) = true ↔
      (linkOf s n).st ≠ 2 ∨ (linkOf s n).again seq = [] ∨ 8 ≤ ((linkOf s n).triesOf seq).toNat := by
    rw [Bool.or_eq_true, Bool.or_eq_true, bne_iff_ne, List.isEmpty_iff, decide_eq_true_iff, or_assoc]
  change runEvent (onLink n _) s = _
  split
  next hs => exact runEvent_error ((exec_onLink h).trans (congrArg (M.exec · s) (if_pos (hstop.2 hs))))
  next hs => exact runEvent_ok ((exec_onLink h).trans (congrArg (M.exec · s) (if_neg (mt hstop.1 hs))))

end

theorem exec_linkRetrain (h : n.toNat < 36) : exec (.linkRetrain n) s =
    if (linkOf s n).st ≠ 2 ∨ (linkOf s n).tries.toNat < 8 then .next s
    else withLink s n { linkOf s n with st := 1, tries := 0 } := by
  have hstop : ((linkOf s n).st != 2 || decide ((linkOf s n).tries.toNat < 8)) = true ↔
      (linkOf s n).st ≠ 2 ∨ (linkOf s n).tries.toNat < 8 := by
    rw [Bool.or_eq_true, bne_iff_ne, decide_eq_true_iff]
  change runEvent (onLink n _) s = _
  split
  next hs => exact runEvent_error ((exec_onLink h).trans (congrArg (M.exec · s) (if_pos (hstop.2 hs))))
  next hs => exact runEvent_ok ((exec_onLink h).trans (congrArg (M.exec · s) (if_neg (mt hstop.1 hs))))

/-! ## A link comes up (R395) -/

section
variable {peer : BitVec 6}

theorem exec_linkUp_trains (h : n.toNat < 36) (hst : (linkOf s n).st ≠ 2 ∧ (linkOf s n).st ≠ 3) :
    ∃ t, exec (.linkUp ⟨n, peer⟩) s = .next t ∧ Logged (s.putLink n { linkOf s n with st := 2, peer := peer, tries := 0 }) t ∧
      ((linkOf s n).st ≠ 1 → t = s.putLink n { linkOf s n with st := 2, peer := peer, tries := 0 }) := by
  have hopen : ¬(decide ((linkOf s n).st = 2) || decide ((linkOf s n).st = 3)) = true := by
    rw [decide_eq_false hst.1, decide_eq_false hst.2]
    decide
  obtain ⟨t, ht, hlogged⟩ := exec_logged_if ((linkOf s n).st = 1) (pkgOf s.id) 1
    (s.putLink n { linkOf s n with st := 2, peer := peer, tries := 0 })
  refine ⟨t, runEvent_ok ((exec_onLink h).trans ?_), hlogged, fun hne => ?_⟩
  · refine (congrArg (M.exec · s) (if_neg hopen)).trans ((exec_bind_ok (exec_modLink n _ s)).trans ht)
  · rw [if_neg hne] at ht
    exact (congrArg Prod.snd ht).symm

theorem exec_linkUp_stays (h : n.toNat < 36) (hst : (linkOf s n).st = 2 ∨ (linkOf s n).st = 3) :
    exec (.linkUp ⟨n, peer⟩) s = .next s := by
  have hstop : (decide ((linkOf s n).st = 2) || decide ((linkOf s n).st = 3)) = true := by
    rwa [Bool.or_eq_true, decide_eq_true_iff, decide_eq_true_iff]
  exact runEvent_error ((exec_onLink h).trans (congrArg (M.exec · s) (if_pos hstop)))

end

end Sys2Proof.Machine
end

section
/-! A link that goes down, packages that are lost or readmitted, and accesses that are not answered (R356, R373, R376, R395). -/

namespace Sys2Proof.Machine

variable {s t u : State} {n m : BitVec 6}

/-! ## A link goes down (R373) -/

/-- Link `i` of the package in focus may take the traffic of link `n`: it is another one, up, and leads to the same switch (log 92). -/
def Spare (s : State) (n : BitVec 6) (i : Nat) : Prop :=
  i < 36 ∧ i ≠ n.toNat ∧ (sparseGet Link.reset s.myPkg.links i).st = 2 ∧
    (sparseGet Link.reset s.myPkg.links i).switch = (linkOf s n).switch

/-- The state in which link `n` is down and its traffic has not moved. -/
def State.linkDowned (s : State) (n : BitVec 6) : State := s.putLink n { linkOf s n with st := 0 }

/-- The test of `moveTraffic`, in the state in which the link is down. -/
def spareTest (s : State) (n : BitVec 6) (l : Link) (i : Nat) : Bool :=
  i != n.toNat && (sparseGet Link.reset s.myPkg.links i).st == 2 && (sparseGet Link.reset s.myPkg.links i).switch == l.switch

theorem spareTest_linkDowned {i : Nat} (hi : i < 36) : spareTest (s.linkDowned n) n (linkOf s n) i = true ↔ Spare s n i := by
  unfold spareTest Spare State.linkDowned
  rw [links_putLink, Bool.and_eq_true, Bool.and_eq_true, bne_iff_ne, beq_iff_eq, beq_iff_eq, and_assoc]
  constructor
  · rintro ⟨hne, hst, hsw⟩
    rw [if_neg hne] at hst hsw
    exact ⟨hi, hne, hst, hsw⟩
  · rintro ⟨-, hne, hst, hsw⟩
    rw [if_neg hne]
    exact ⟨hne, hst, hsw⟩

/-- Link `i` takes what the replay buffer of link `n` held, which then holds nothing. -/
def State.trafficTo (s : State) (n : BitVec 6) (l : Link) (i : Nat) : State :=
  let t := s.putLink (BitVec.ofNat 6 i) (l.sent.foldl Link.send (linkOf s (BitVec.ofNat 6 i)))
  t.putLink n { linkOf t n with sent := [] }

/-- The state after the traffic of a link that is down has moved. -/
def State.trafficMoved (s : State) (n : BitVec 6) (l : Link) : State :=
  match findFrom 36 0 (spareTest s n l) with
  | none => s
  | some i => s.trafficTo n l i

theorem exec_moveTraffic (s : State) (n : BitVec 6) (l : Link) :
    (moveTraffic (pkgOf s.id) n l).exec s = (.ok (), s.trafficMoved n l) := by
  have hrun : (moveTraffic (pkgOf s.id) n l).exec s = (match findFrom 36 0 (spareTest s n l) with
    | none => pure ()
    | some i => do
      modLink (pkgOf s.id) (BitVec.ofNat 6 i) fun x => l.sent.foldl Link.send x
      modLink (pkgOf s.id) n fun x => { x with sent := [] } : M Unit).exec s := rfl
  rw [hrun, State.trafficMoved]
  cases findFrom 36 0 (spareTest s n l) <;> rfl

/-- The state in which link `n` is down and its traffic has moved. -/
def State.linkLost (s : State) (n : BitVec 6) : State := (s.linkDowned n).trafficMoved n (linkOf s n)

theorem linkLost_none (h : ∀ i, ¬Spare s n i) : s.linkLost n = s.linkDowned n := by
  have hnone : findFrom 36 0 (spareTest (s.linkDowned n) n (linkOf s n)) = none :=
    findFrom_eq_none fun k _ hk => Bool.eq_false_iff.2 (mt (spareTest_linkDowned (by omega)).1 (h k))
  rw [State.linkLost, State.trafficMoved, hnone]

/-- The lowest link that may take the traffic takes it, and the link that is down holds none. -/
theorem linkLost_some {i : Nat} (hi : Spare s n i) (hbelow : ∀ k < i, ¬Spare s n k) :
    linkOf (s.linkLost n) n = { linkOf s n with st := 0, sent := [] } ∧
      linkOf (s.linkLost n) (BitVec.ofNat 6 i) = (linkOf s n).sent.foldl Link.send (linkOf s (BitVec.ofNat 6 i)) := by
  obtain ⟨hlt, hne, -⟩ := id hi
  have hsome : findFrom 36 0 (spareTest (s.linkDowned n) n (linkOf s n)) = some i :=
    findFrom_eq_some (Nat.zero_le i) (by omega) ((spareTest_linkDowned hlt).2 hi)
      fun k _ hk => Bool.eq_false_iff.2 (mt (spareTest_linkDowned (by omega)).1 (hbelow k hk))
  have hother : BitVec.ofNat 6 i ≠ n := fun e => hne (by rw [← e, BitVec.toNat_ofNat, Nat.mod_eq_of_lt (by omega)])
  have hkept : linkOf (s.linkDowned n) (BitVec.ofNat 6 i) = linkOf s (BitVec.ofNat 6 i) := linkOf_putLink_other s _ hother
  have hdown : linkOf (s.linkDowned n) n = { linkOf s n with st := 0 } := linkOf_putLink_same s n _
  rw [State.linkLost, State.trafficMoved, hsome]
  dsimp only
  rw [State.trafficTo, hkept]
  constructor
  · rw [linkOf_putLink_same, linkOf_putLink_other _ _ hother.symm, hdown]
  · rw [linkOf_putLink_other _ _ hother, linkOf_putLink_same]

theorem podmap_putLink (s : State) (n : BitVec 6) (l : Link) (p : Nat) : ((s.putLink n l).pkg p).podmap = (s.pkg p).podmap := by
  unfold State.putLink
  by_cases hp : p = pkgOf s.id
  · rw [hp, pkg_setPkg_same]
    rfl
  · rw [pkg_setPkg_other _ _ hp]

/-- Another state of the same package, with the same maps and the same hart in focus. -/
structure SameMaps (s t : State) : Prop where
  id : t.id = s.id
  hart : t.hart = s.hart
  podmap : ∀ p, (t.pkg p).podmap = (s.pkg p).podmap

theorem sameMaps_putLink (s : State) (n : BitVec 6) (l : Link) : SameMaps s (s.putLink n l) := ⟨rfl, rfl, podmap_putLink s n l⟩

theorem SameMaps.trans (h : SameMaps s t) (h' : SameMaps t u) : SameMaps s u :=
  ⟨h'.id.trans h.id, h'.hart.trans h.hart, fun p => (h'.podmap p).trans (h.podmap p)⟩

/-- Moving the traffic touches the links of the package alone. -/
theorem sameMaps_linkLost (s : State) (n : BitVec 6) : SameMaps s (s.linkLost n) := by
  have hdown : SameMaps s (s.linkDowned n) := sameMaps_putLink s n _
  have hto (i : Nat) : SameMaps s ((s.linkDowned n).trafficTo n (linkOf s n) i) :=
    hdown.trans ((sameMaps_putLink _ _ _).trans (sameMaps_putLink _ _ _))
  rw [State.linkLost, State.trafficMoved]
  cases findFrom 36 0 (spareTest (s.linkDowned n) n (linkOf s n)) with
  | none => exact hdown
  | some i => exact hto i

/-- A link that was training goes down: its traffic moves, which is logged, and a package without an up link is lost. -/
theorem exec_linkDown (h : n.toNat < 36) (hst : (linkOf s n).st = 1) : ∃ u, exec (.linkDown n) s = .next u ∧
    u.hart = s.hart ∧ (∀ m, linkOf u m = linkOf (s.linkLost n) m) ∧
    (linkUp (s.linkLost n).myPkg = false → ∀ q < 64, (u.pkg q).podmap = lostMap (pkgOf s.id) q (s.pkg q).podmap) := by
  obtain ⟨hid, hhart, hmap⟩ := sameMaps_linkLost s n
  obtain ⟨t, ht, hlogged, -⟩ := exec_logFabric (pkgOf s.id) 2 (s.linkLost n)
  obtain ⟨u, hu, hlost⟩ := exec_losePackage (pkgOf s.id) t
  have hdown : (modLink (pkgOf s.id) n fun l => { l with st := 0 }).exec s = (.ok (), s.linkDowned n) := rfl
  have hmoves : (moveTraffic (pkgOf s.id) n (linkOf s n)).exec (s.linkDowned n) = (.ok (), s.linkLost n) :=
    exec_moveTraffic (s.linkDowned n) n (linkOf s n)
  have htmine : t.pkg (pkgOf s.id) = (s.linkLost n).myPkg := by rw [hlogged.pkg, State.myPkg, hid]
  have hrun : (onLink n fun p l => do
      if l.st != 1 then block
      modLink p n fun l => { l with st := 0 }
      moveTraffic p n l
      logFabric p 2
      if !linkUp ((← get).pkg p) then losePackage p).exec s =
      (if !linkUp (t.pkg (pkgOf s.id)) then losePackage (pkgOf s.id) else pure ()).exec t := by
    rw [exec_onLink h]
    dsimp only
    rw [if_neg (by rw [hst]; decide), exec_bind_ok hdown, exec_bind_ok hmoves, exec_bind_ok ht, exec_bind_ok (exec_get t)]
  change ∃ u, runEvent (onLink n _) s = .next u ∧ _
  rw [htmine] at hrun
  cases hup : linkUp (s.linkLost n).myPkg with
  | true =>
    rw [hup] at hrun
    exact ⟨t, runEvent_ok hrun, hlogged.hart.trans hhart, hlogged.linkOf, nofun⟩
  | false =>
    rw [hup] at hrun
    refine ⟨u, runEvent_ok (hrun.trans hu), (hlost.hart.trans hlogged.hart).trans hhart,
      fun m => (hlost.linkOf m).trans (hlogged.linkOf m), fun _ q hq => ?_⟩
    rw [hlost.podmap q hq, hlogged.pkg, hmap]

theorem linkUp_eq_false_iff (k : Pkg) : linkUp k = false ↔ ∀ i < 36, (sparseGet Link.reset k.links i).st ≠ 2 := by
  unfold linkUp
  rw [List.any_eq_false]
  simp only [List.mem_range, beq_iff_eq]

/-- With its last up link a package is lost (R395). -/
theorem linkUp_linkLost (h : ∀ i < 36, i ≠ n.toNat → (sparseGet Link.reset s.myPkg.links i).st ≠ 2) :
    linkUp (s.linkLost n).myPkg = false := by
  have hnone : ∀ i, ¬Spare s n i := fun i ⟨hi, hne, hup, _⟩ => h i hi hne hup
  rw [linkLost_none hnone, linkUp_eq_false_iff]
  intro i hi
  rw [State.linkDowned, links_putLink]
  split
  · exact (by decide : (0 : BitVec 2) ≠ 2)
  next hne => exact h i hi hne

/-! ## Readmission (R395) -/

theorem exec_readmit {g : Nat} (hg : g < 64) (hme : pkgOf s.id = 0) (hup : linkUp (s.pkg g) = true) :
    ∃ u, (readmit g).exec s = (.ok (), u) ∧
      (u.pkg g).podmap = (s.pkg g).podmap ||| (s.pkg 0).podmap ||| BitVec.ofNat 64 (2 ^ g) ∧
      ∀ q < 64, q ≠ g → u.pkg q = { s.pkg q with podmap := (s.pkg q).podmap ||| BitVec.ofNat 64 (2 ^ g) } := by
  have hpkg := (foldl_setPkg (fun _ x => { x with podmap := x.podmap ||| BitVec.ofNat 64 (2 ^ g) }) 64 s).2
  have hcond : (pkgOf s.id = 0 && linkUp (s.pkg g)) = true := by rw [hup, decide_eq_true hme]; rfl
  have hrun : (readmit g).exec s = (.ok (), if pkgOf s.id = 0 && linkUp (s.pkg g) then
      let s := (List.range 64).foldl (fun s p => s.setPkg p { s.pkg p with podmap := (s.pkg p).podmap ||| BitVec.ofNat 64 (2 ^ g) }) s
      s.setPkg g { s.pkg g with podmap := (s.pkg g).podmap ||| (s.pkg 0).podmap } else s) := rfl
  rw [if_pos hcond] at hrun
  refine ⟨_, hrun, ?_, fun q hq hne => ?_⟩
  · rw [pkg_setPkg_same, hpkg g, if_pos hg, hpkg 0, if_pos (by decide)]
    generalize (s.pkg g).podmap = x, (s.pkg 0).podmap = y, BitVec.ofNat 64 (2 ^ g) = z
    change x ||| z ||| (y ||| z) = _
    ext i
    simp only [BitVec.getElem_or]
    cases x[i] <;> cases y[i] <;> cases z[i] <;> rfl
  · rw [pkg_setPkg_other _ _ hne, hpkg q, if_pos hq]

theorem exec_readmit_none {g : Nat} (h : pkgOf s.id ≠ 0 ∨ linkUp (s.pkg g) = false) : (readmit g).exec s = (.ok (), s) := by
  have hcond : ¬(pkgOf s.id = 0 && linkUp (s.pkg g)) = true := by
    rw [Bool.and_eq_true, decide_eq_true_iff]
    exact fun ⟨hme, hup⟩ => h.elim (fun hne => hne hme) fun hf => Bool.false_ne_true (hf.symm.trans hup)
  unfold readmit
  rw [exec_modify, if_neg hcond]

/-! ## Accesses that are not answered (R395) -/

theorem exec_remoteTimeout {p : BitVec 6} (h : p.toNat ≠ pkgOf s.id) : ∃ u, exec (.remoteTimeout p) s = .next u ∧
    Logged { s with hart := { s.hart with unanswered := some p } } u ∧
    ((s.die (4 * pkgOf s.id)).elbase = 0 → u.mem = s.mem) := by
  obtain ⟨t, ht, hlogged, hmem⟩ := exec_logFabric (pkgOf s.id) 2 { s with hart := { s.hart with unanswered := some p } }
  change ∃ u, runEvent (get >>= fun s => _) s = .next u ∧ _
  by_cases hknown : (s.pkg (pkgOf s.id)).podmap.getLsbD p.toNat = true
  · refine ⟨t, runEvent_ok ?_, hlogged, hmem⟩
    rw [exec_bind_ok (exec_get s), if_neg h, exec_bind_ok (exec_modHart _ s), if_pos hknown, ht]
  · refine ⟨_, runEvent_ok ?_, chain_logged.refl _, fun _ => rfl⟩
    rw [exec_bind_ok (exec_get s), if_neg h, exec_bind_ok (exec_modHart _ s), if_neg hknown]
    rfl

section
variable {v : Word} (off : s.myDie.ptEn = 0) (hp : s.hart.trap.priv = 2) (hv : v.toNat < 2 ^ 52) (hfar : unanswered s v.toNat = true)
include off hp hv hfar

/-- With translation off a load of a package that does not answer uses up the mark and raises MCE. -/
theorem exec_translateAt_unanswered_load (g : Agent) (z : Nat) : (translateAt s.hart.trap.priv.toNat .load g v z).exec s =
    (.error (.trap .mce v), { s with hart := { s.hart with unanswered := none } }) := by
  have off' : (s.die (dieOf s.id)).ptEn = 0 := off
  unfold translateAt
  rw [exec_bind_ok (exec_get s), hp]
  dsimp only
  rw [if_pos off', if_neg (by decide), if_neg (by omega)]
  unfold reach
  rw [exec_bind_ok (exec_get s), if_pos hfar]
  rfl

/-- A store to it passes the checks, and is lost later. -/
theorem exec_translateAt_unanswered_store (g : Agent) (z : Nat) :
    (translateAt s.hart.trap.priv.toNat .store g v z).exec s = (.ok v.toNat, s) := by
  have off' : (s.die (dieOf s.id)).ptEn = 0 := off
  unfold translateAt
  rw [exec_bind_ok (exec_get s), hp]
  dsimp only
  rw [if_pos off', if_neg (by decide), if_neg (by omega)]
  unfold reach
  rw [exec_bind_ok (exec_get s), if_pos hfar]
  rfl

variable {z : Nat} (hal : v.toNat % z = 0)
include hal

theorem scalarLoad_unanswered : (scalarLoad v z).exec s =
    (.error (.trap .mce v), { s with hart := { s.hart with unanswered := none } }) := by
  unfold scalarLoad
  rw [exec_bind_ok (exec_trapIf_aligned hal s), exec_bind_ok (exec_privNow s),
    exec_bind_error (exec_translateAt_unanswered_load off hp hv hfar .scalar z)]

theorem scalarStore_unanswered (x : Nat) : (scalarStore v z x).exec s =
    (.ok (), { s with hart := { s.hart with unanswered := none, pendMce := s.hart.pendMce ++ [v] } }) := by
  unfold scalarStore storeAt
  rw [exec_bind_ok (exec_trapIf_aligned hal s), exec_bind_ok (exec_privNow s),
    exec_bind_ok (exec_translateAt_unanswered_store off hp hv hfar .scalar z), exec_bind_ok (exec_get s), hfar]
  simp only [Bool.not_true, Bool.and_false, Bool.false_eq_true, if_false]
  rw [exec_bind_ok (exec_get s), hfar]
  rfl

end

/-! ## The links of a pod -/

/-- A store from another package performs at its home, where there is one (R376). -/
theorem exec_remoteAccess (addr : BitVec 52) (wr : BitVec 1) (val : Word) (s : State) : exec (.remoteAccess addr wr val) s =
    .next (if wr = 0 || absent s (pkgOf s.id) addr.toNat || isControlWindow addr.toNat then s else s.putNat addr.toNat 8 val.toNat) := rfl

/-- The time master slews a clock by one count towards its own (R356). -/
theorem exec_tscSync (p : BitVec 6) (s : State) : exec (.tscSync p) s = .next (
    if p = 0 || (s.pkg p.toNat).tscSkew = 0 then s
    else { s.setPkg p.toNat { s.pkg p.toNat with
      tscSkew := if 0 < (s.pkg p.toNat).tscSkew then (s.pkg p.toNat).tscSkew - 1 else (s.pkg p.toNat).tscSkew + 1 } with
        time := s.time + 2 }) := rfl

theorem exec_tscSync_slews {p : BitVec 6} (hp : p ≠ 0) (hskew : (s.pkg p.toNat).tscSkew ≠ 0) : ∃ u, exec (.tscSync p) s = .next u ∧
    (u.pkg p.toNat).tscSkew.natAbs + 1 = (s.pkg p.toNat).tscSkew.natAbs ∧ u.time = s.time + 2 ∧ u.hart = s.hart ∧ u.mem = s.mem := by
  have hcond : ¬(decide (p = 0) || decide ((s.pkg p.toNat).tscSkew = 0)) = true := by
    rw [decide_eq_false hp, decide_eq_false hskew]
    decide
  refine ⟨_, (exec_tscSync p s).trans (congrArg Host.Outcome.next (if_neg hcond)), ?_, rfl, rfl, rfl⟩
  change (((s.setPkg p.toNat _).pkg p.toNat).tscSkew).natAbs + 1 = _
  rw [pkg_setPkg_same]
  dsimp only
  split <;> omega

theorem exec_admitPackage_bit {val : Word} (h : val.getLsbD 8 = true) (s : State) :
    exec (.admitPackage val) s = runEvent (readmit (val.toNat % 64)) s := by
  change runEvent (if val.getLsbD 8 then readmit (val.toNat % 64) else pure ()) s = _
  rw [if_pos h]

theorem exec_admitPackage_none {val : Word} (h : pkgOf s.id ≠ 0 ∨ val.getLsbD 8 = false ∨ linkUp (s.pkg (val.toNat % 64)) = false) :
    exec (.admitPackage val) s = .next s := by
  by_cases hbit : val.getLsbD 8 = true
  · have hwhy : pkgOf s.id ≠ 0 ∨ linkUp (s.pkg (val.toNat % 64)) = false := h.imp_right fun h =>
      h.resolve_left fun hf => Bool.false_ne_true (hf.symm.trans hbit)
    exact (exec_admitPackage_bit hbit s).trans (runEvent_ok (exec_readmit_none hwhy))
  · change runEvent (if val.getLsbD 8 then readmit (val.toNat % 64) else pure ()) s = _
    rw [if_neg hbit]
    rfl

/-- A load or a store of another package's memory that is not answered (R395). -/
theorem exec_unanswered_access {d a : BitVec 7} {o : BitVec 9} (hd : scalarOk s.hart d = true) (ha : scalarOk s.hart a = true)
    (hp : s.hart.trap.priv = 2) (off : s.myDie.ptEn = 0) (hal : (offsetAddr (scalarVal s.hart a) o 8).toNat % 8 = 0)
    (hv : (offsetAddr (scalarVal s.hart a) o 8).toNat < 2 ^ 52)
    (hfar : unanswered s (offsetAddr (scalarVal s.hart a) o 8).toNat = true) :
    exec (.ldd d a o) s = .next (takeTrap false .mce (offsetAddr (scalarVal s.hart a) o 8)
      { s with hart := { s.hart with unanswered := none } }) ∧
    exec (.std d a o) s = .next (State.passed { s with hart := { s.hart with
      unanswered := none, pendMce := s.hart.pendMce ++ [offsetAddr (scalarVal s.hart a) o 8] } }) := by
  constructor
  · refine runScalar_trap ?_
    unfold loadOffset
    rw [exec_bind_ok (exec_checkScalar_ok hd), exec_bind_ok (exec_readScalar_ok ha),
      exec_bind_error (scalarLoad_unanswered off hp hv hfar hal)]
  · exact runScalar_storeOffset hd ha (scalarStore_unanswered off hp hv hfar hal _)

theorem linkResults : Sys2Proof.Claim.LinkResults := by
  intro n seq vc kind dest load good wr addr val p peer a d o s me l flit come up spare
  refine ⟨fun hn => ⟨?_, ?_, ?_, ?_, ?_, ?_, ?_, ?_, ?_, ?_, ?_, ?_⟩, fun hn => ⟨?_, ?_, ?_, ?_⟩, ?_, exec_admitPackage_none, ?_, ?_, ?_, ?_,
    ?_, ?_⟩
  · intro hup hgood hseq hclear
    obtain ⟨t, ht, -, hsame⟩ := exec_flitReceive_next (flit := flit) hn hup hgood hseq
    rw [ht, hsame hclear, ← hclear]
    rfl
  · intro hup hgood hseq _
    obtain ⟨t, ht, hlogged, -⟩ := exec_flitReceive_next (flit := flit) hn hup hgood hseq
    exact ⟨t, ht, (hlogged.linkOf n).trans (linkOf_putLink_same ..), hlogged.hart⟩
  · exact exec_flitReceive_bad hn
  · exact exec_flitReceive_refused (flit := flit) hn
  · exact fun ts hup => step_flit hn hup
  · refine ⟨fun hup hagain htries => (exec_linkReplay hn).trans (if_neg ?_), fun h => (exec_linkReplay hn).trans (if_pos h)⟩
    exact not_or.2 ⟨not_not_intro hup, not_or.2 ⟨hagain, not_le.2 htries⟩⟩
  · exact fun hup htries => (exec_linkRetrain hn).trans (if_neg (not_or.2 ⟨not_not_intro hup, not_lt.2 htries⟩))
  · exact fun h => (exec_linkRetrain hn).trans (if_pos h)
  · intro hst
    obtain ⟨u, hu, hhart, hlinks, hlost⟩ := exec_linkDown hn hst
    have hnone (h : ∀ i, ¬spare i) : linkOf u n = { l with st := 0 } := by
      rw [hlinks, linkLost_none h]
      exact linkOf_putLink_same ..
    have hsome (i : Nat) (hi : spare i) (hbelow : ∀ k < i, ¬spare k) : linkOf u n = { l with st := 0, sent := [] } ∧
        linkOf u (BitVec.ofNat 6 i) = l.sent.foldl Link.send (linkOf s (BitVec.ofNat 6 i)) := by
      rw [hlinks, hlinks]
      exact linkLost_some hi hbelow
    refine ⟨u, hu, ?_, hhart, hnone, hsome, fun h => hlost (linkUp_linkLost h)⟩
    by_cases h : ∃ i, spare i
    · rw [(hsome (Nat.find h) (Nat.find_spec h) fun k => Nat.find_min h).1]
    · rw [hnone (not_exists.1 h)]
  · intro hst
    obtain ⟨t, ht, -, hsame⟩ := exec_linkUp_trains (peer := peer) hn (by rw [show (linkOf s n).st = 0 from hst]; decide)
    rw [ht, hsame (by rw [show (linkOf s n).st = 0 from hst]; decide)]
    rfl
  · intro hst
    obtain ⟨t, ht, hlogged, -⟩ := exec_linkUp_trains (peer := peer) hn (by rw [show (linkOf s n).st = 1 from hst]; decide)
    exact ⟨t, ht, (hlogged.linkOf n).trans (linkOf_putLink_same ..), hlogged.hart⟩
  · exact exec_linkUp_stays hn
  · exact runEvent_onLink_none hn
  · exact runEvent_onLink_none hn
  · exact runEvent_onLink_none hn
  · exact runEvent_onLink_none hn
  · intro hme hbit hup
    obtain ⟨u, hu, hmaps⟩ := exec_readmit (Nat.mod_lt val.toNat (by decide)) hme hup
    exact ⟨u, (exec_admitPackage_bit hbit s).trans (runEvent_ok hu), hmaps⟩
  · intro hp
    exact runEvent_error ((exec_bind_ok (exec_get s)).trans (congrArg (M.exec · s) (if_pos hp)))
  · intro hp hoff
    obtain ⟨u, hu, hlogged, hmem⟩ := exec_remoteTimeout hp
    exact ⟨u, hu, hlogged.hart, hmem hoff, hlogged.pkgs⟩
  · intro v h hd ha hpriv hoff hal hlt hfar hmark
    refine exec_unanswered_access hd ha hpriv hoff hal hlt ?_
    rw [unanswered, show s.hart.unanswered = some (BitVec.ofNat 6 (physPkg v.toNat)) from hmark, Bool.and_eq_true]
    exact ⟨beq_self_eq_true _, bne_iff_ne.2 hfar⟩
  · intro hwr hhere hwin
    rw [exec_remoteAccess, hwr, hhere, hwin]
    rfl
  · intro h
    rw [exec_remoteAccess, if_pos]
    rw [Bool.or_eq_true, Bool.or_eq_true, decide_eq_true_iff]
    exact .inl h
  · refine ⟨fun h => (exec_tscSync p s).trans (congrArg Host.Outcome.next (if_pos ?_)), exec_tscSync_slews⟩
    rw [Bool.or_eq_true, decide_eq_true_iff, decide_eq_true_iff]
    exact h

end Sys2Proof.Machine
end

section
/-! Interrupts and their sources (R123, R124), retention (R329) and throttling (R371). -/

namespace Sys2Proof.Machine

variable {s : State} {bank : BitVec 6}

/-! ## Interrupts (R123, R124) -/

/-- A hart that runs a task or waits in one. -/
def Runs (s : State) : Prop := s.hart.phase ≠ .idle ∧ s.hart.phase ≠ .halted

/-- A hart takes CANCEL at a boundary (R124). -/
def takesCancel (s : State) : Bool :=
  !(decide (s.hart.phase = .idle) || decide (s.hart.phase = .halted) || decide (s.hart.trap.priv = 2) || !s.hart.trap.ipend.getLsbD 3)

theorem exec_takeCancel (s : State) :
    takeCancel.exec s = if takesCancel s then (.ok (), takeTrap false .cancel 0 s) else (.error .block, s) := by
  unfold takeCancel takesCancel
  rw [exec_bind_ok (exec_getHart s)]
  split
  · rename_i h
    rw [h]
    rfl
  · rename_i h
    rw [Bool.not_eq_true] at h
    rw [h]
    exact exec_trapEntry false .cancel 0 s

theorem exec_takeInterrupt (hruns : Runs s) : takeInterrupt.exec s = match pendingInterrupt s.hart.trap with
    | some c => (.ok (), takeTrap false c 0 s)
    | none => (.error .block, s) := by
  obtain ⟨hidle, hhalted⟩ := hruns
  unfold takeInterrupt
  rw [exec_bind_ok (exec_getHart s), if_neg (by simp [hidle, hhalted])]
  cases pendingInterrupt s.hart.trap with
  | some c => exact exec_trapEntry false c 0 s
  | none => rfl

theorem takesCancel_eq_true (hruns : Runs s) (hp : s.hart.trap.priv ≠ 2) (hc : s.hart.trap.ipend.getLsbD 3 = true) :
    takesCancel s = true := by
  simp only [takesCancel, hruns.1, hruns.2, hp, hc, decide_false, Bool.or_false, Bool.not_true, Bool.not_false]

theorem takesCancel_eq_false (h : s.hart.trap.priv = 2 ∨ s.hart.trap.ipend.getLsbD 3 = false) : takesCancel s = false := by
  rcases h with h | h <;> simp only [takesCancel, h, decide_true, Bool.or_true, Bool.true_or, Bool.not_true, Bool.not_false]

/-- Below privilege 2 CANCEL is taken, whatever is enabled. -/
theorem execInterrupt_cancel (h : takesCancel s = true) : execInterrupt s = .next (takeTrap false .cancel 0 s) := by
  refine runEvent_ok ?_
  rw [exec_bind_ok (exec_attempt takeCancel s), exec_takeCancel, if_pos h]
  rfl

/-- Otherwise the highest bit that is pending and enabled is taken, if there is one. -/
theorem execInterrupt_pending (h : takesCancel s = false) (hruns : Runs s) {c : Cause} (hc : pendingInterrupt s.hart.trap = some c) :
    execInterrupt s = .next (takeTrap false c 0 s) := by
  refine runEvent_ok ?_
  rw [exec_bind_ok (exec_attempt takeCancel s), exec_takeCancel, h]
  refine (exec_takeInterrupt hruns).trans ?_
  rw [hc]

theorem execInterrupt_none (h : takesCancel s = false) (hc : pendingInterrupt s.hart.trap = none) : execInterrupt s = .next s := by
  have hblock : takeInterrupt.exec s = (.error .block, s) := by
    unfold takeInterrupt
    rw [exec_bind_ok (exec_getHart s), hc]
    dsimp only
    split <;> rfl
  refine runEvent_error (e := .block) (t := s) ?_
  rw [exec_bind_ok (exec_attempt takeCancel s), exec_takeCancel, h]
  exact hblock

theorem pendingInterrupt_disabled {t : TrapRegs} (h : t.ie = 0) : pendingInterrupt t = none := if_pos h

theorem pendingInterrupt_cancel {t : TrapRegs} (h : t.ie = 1) (h3 : (t.ipend &&& t.imask).getLsbD 3 = true) :
    pendingInterrupt t = some .cancel := by
  rw [pendingInterrupt, if_neg (by rw [h]; decide), if_pos h3]

theorem pendingInterrupt_host {t : TrapRegs} (h : t.ie = 1) (h3 : (t.ipend &&& t.imask).getLsbD 3 = false)
    (h1 : (t.ipend &&& t.imask).getLsbD 1 = true) : pendingInterrupt t = some .host := by
  rw [pendingInterrupt, if_neg (by rw [h]; decide), if_neg (Bool.eq_false_iff.1 h3), if_pos h1]

theorem pendingInterrupt_timer {t : TrapRegs} (h : t.ie = 1) (h3 : (t.ipend &&& t.imask).getLsbD 3 = false)
    (h1 : (t.ipend &&& t.imask).getLsbD 1 = false) (h0 : (t.ipend &&& t.imask).getLsbD 0 = true) :
    pendingInterrupt t = some .timer := by
  rw [pendingInterrupt, if_neg (by rw [h]; decide), if_neg (Bool.eq_false_iff.1 h3), if_neg (Bool.eq_false_iff.1 h1), if_pos h0]

/-! ## The sources of interrupts -/

theorem execTimer_eq (s : State) : execTimer s =
    if s.hart.trap.tcmpEn = 1 ∧ s.hart.trap.tcmpTime.toNat ≤ s.tsc (pkgOf s.id) then
      .next { s with hart := { s.hart with trap := { s.hart.trap with ipend := s.hart.trap.ipend ||| 1, tcmpEn := 0 } } }
    else .next s := by
  unfold execTimer runEvent compareTimer
  rw [exec_bind_ok (exec_get s)]
  by_cases h : s.hart.trap.tcmpEn = 1 ∧ s.hart.trap.tcmpTime.toNat ≤ s.tsc (pkgOf s.id)
  · rw [if_pos h]
    simp only [h.1, h.2, decide_true, Bool.and_self, if_true]
    rfl
  · rw [if_neg h]
    simp only [← Bool.decide_and, h, decide_false, Bool.false_eq_true, if_false]
    rfl

theorem execIpset_eq (val : Word) (s : State) : execIpset val s =
    if 192 ≤ val.toNat % 256 then .next s
    else
      let n := dieOf s.id * 192 + val.toNat % 256
      .next (s.setHartAt n { s.hartAt n with trap := { (s.hartAt n).trap with
        ipend := (s.hartAt n).trap.ipend ||| val.extractLsb' 8 4 } }) := by
  have hwrite := exec_writeReg_checked (s := s) (v := val) (m := 0x139) rfl (p := 192 ≤ val.toNat % 256) rfl
  unfold execIpset runEvent
  rw [hwrite, ← ofNat_div_eq_extractLsb' val 8 4]
  by_cases h : 192 ≤ val.toNat % 256
  · rw [if_pos h, if_pos (decide_eq_true h)]
  · rw [if_neg h, if_neg (by simpa using h)]
    rfl

/-! ## Retention and throttling (R329, R371) -/

theorem execRetentionEntry_core (hen : s.myDie.retEn = 1) (hempty : coreEmpty s (coreOf s.id) = true)
    (hbank : bank.toNat ∉ s.myCore.retained) :
    execRetentionEntry bank s = .next (s.withCore fun k => { k with retained := bank.toNat :: k.retained }) := by
  have hout : s.myCore.retained.contains bank.toNat = false := by simpa using hbank
  refine runEvent_ok ((exec_bind_ok (exec_get s)).trans ?_)
  rw [if_neg (by rw [hen]; decide), hempty, hout]
  rfl

theorem execRetentionEntry_disabled (hen : s.myDie.retEn = 0) : execRetentionEntry bank s = .next s :=
  runEvent_error ((exec_bind_ok (exec_get s)).trans (congrArg (M.exec · s) (if_pos hen)))

/-- One corrected error is logged, at an address that the manual does not give. -/
def logCorrectedOnce (d source : Nat) : M Unit := do
  let a ← freeWord
  logEvent d source 0 a.toNat

theorem exec_logCorrectedOnce (d source : Nat) (s : State) : ∃ t, (logCorrectedOnce d source).exec s = (.ok (), t) ∧ Logged s t ∧
    ((s.die d).elbase = 0 → t.mem = s.mem ∧
      (t.die d).elcnt.toNat / 2 ^ 32 = ((s.die d).elcnt.toNat / 2 ^ 32 + 1) % 2 ^ 32) := by
  have hkeeps : Keeps Logged (logCorrectedOnce d source) := keeps_bind chain_logged logged_freeWord fun _ => logged_logEvent _ _ _ _
  have hrun : (logCorrectedOnce d source).exec s = (.ok (), ((logCorrectedOnce d source).exec s).2) := rfl
  refine ⟨_, hrun, hkeeps s, fun hoff => ?_⟩
  unfold logCorrectedOnce
  rw [exec_bind_ok (exec_freeWord s), exec_logEvent_disabled (by exact hoff)]
  refine ⟨rfl, ?_⟩
  rw [die_setDie_same, lost_after_logEvent]
  rfl

/-- Corrected errors are logged (R331), and with the log of the die disabled each is counted as lost. -/
theorem exec_forFrom_logCorrectedOnce (d source i n : Nat) (s : State) :
    ∃ t, (forFrom n i fun _ => logCorrectedOnce d source).exec s = (.ok (), t) ∧ Logged s t ∧
      ((s.die d).elbase = 0 → t.mem = s.mem ∧
        (t.die d).elcnt.toNat / 2 ^ 32 = ((s.die d).elcnt.toNat / 2 ^ 32 + n) % 2 ^ 32) := by
  induction n generalizing i s with
  | zero => exact ⟨s, rfl, chain_logged.refl s, fun _ => ⟨rfl, by have := (s.die d).elcnt.isLt; omega⟩⟩
  | succ n ih =>
    obtain ⟨t, ht, hlogged, hcount⟩ := exec_logCorrectedOnce d source s
    obtain ⟨u, hu, hlogged', hcount'⟩ := ih (i + 1) t
    refine ⟨u, (exec_bind_ok ht).trans hu, chain_logged.trans _ _ _ hlogged hlogged', fun hoff => ?_⟩
    obtain ⟨hmem, hlost⟩ := hcount hoff
    obtain ⟨hmem', hlost'⟩ := hcount' (by rw [hlogged.elbase]; exact hoff)
    refine ⟨hmem'.trans hmem, ?_⟩
    rw [hlost', hlost, Nat.mod_add_mod, Nat.add_assoc, Nat.add_comm 1 n]

theorem exec_logCorrected (d source n : Nat) (s : State) : ∃ t, (logCorrected d source n).exec s = (.ok (), t) ∧ Logged s t ∧
    ((s.die d).elbase = 0 → t.mem = s.mem ∧
      (t.die d).elcnt.toNat / 2 ^ 32 = ((s.die d).elcnt.toNat / 2 ^ 32 + n) % 2 ^ 32) :=
  exec_forFrom_logCorrectedOnce d source 0 n s

/-- A bank of the core wakes: it is retained no more, and the errors corrected on the way are logged. -/
theorem execRetentionExit_core (errors : BitVec 16) (h : bank.toNat ∈ s.myCore.retained) :
    ∃ u, execRetentionExit ⟨bank, errors⟩ s = .next u ∧ bank.toNat ∉ u.myCore.retained ∧ u.hart = s.hart ∧
      (s.myDie.elbase = 0 → u.mem = s.mem ∧
        u.myDie.elcnt.toNat / 2 ^ 32 = (s.myDie.elcnt.toNat / 2 ^ 32 + errors.toNat) % 2 ^ 32) := by
  let woken := s.setCore (coreOf s.id) { s.myCore with retained := s.myCore.retained.filter fun b => b != bank.toNat }
  obtain ⟨u, hu, hlogged, hcount⟩ := exec_logCorrected (dieOf s.id) (coreOf s.id % 48) errors.toNat woken
  refine ⟨u, runEvent_ok ((exec_bind_ok (exec_get s)).trans ?_), ?_, hlogged.hart, fun hoff => ?_⟩
  · dsimp only
    rw [if_pos (List.contains_iff_mem.2 h)]
    exact (exec_bind_ok (exec_modify _ s)).trans hu
  · rw [State.myCore, hlogged.id, hlogged.core]
    change _ ∉ (woken.core (coreOf s.id)).retained
    rw [core_setCore_same]
    simp
  · rw [State.myDie, hlogged.id]
    exact hcount hoff

/-- An access to a bank that the core does not retain wakes it on the die, if it is retained there. -/
theorem execRetentionExit_die (errors : BitVec 16) (h : bank.toNat ∉ s.myCore.retained) :
    ∃ u, execRetentionExit ⟨bank, errors⟩ s = .next u ∧ bank.toNat ∉ u.myDie.retained ∧ u.hart = s.hart ∧
      (s.myDie.elbase = 0 → u.mem = s.mem) := by
  have hcore : s.myCore.retained.contains bank.toNat = false := by simpa using h
  by_cases hdie : bank.toNat ∈ s.myDie.retained
  · let woken := s.setDie (dieOf s.id) { s.myDie with retained := s.myDie.retained.filter fun b => b != bank.toNat }
    have hwoken : woken.die (dieOf s.id) = { s.myDie with retained := s.myDie.retained.filter fun b => b != bank.toNat } :=
      die_setDie_same ..
    obtain ⟨u, hu, hlogged, hcount⟩ := exec_logCorrected (dieOf s.id) 60 errors.toNat woken
    refine ⟨u, runEvent_ok ((exec_bind_ok (exec_get s)).trans ?_), ?_, hlogged.hart, fun hoff => ?_⟩
    · dsimp only
      rw [hcore, if_neg Bool.false_ne_true, if_pos (List.contains_iff_mem.2 hdie)]
      exact (exec_bind_ok (exec_modify _ s)).trans hu
    · rw [State.myDie, hlogged.id, hlogged.retained]
      change _ ∉ (woken.die (dieOf s.id)).retained
      rw [hwoken]
      simp
    · exact (hcount (by rw [hwoken]; exact hoff)).1
  · refine ⟨s, runEvent_error (e := .block) (t := s) ((exec_bind_ok (exec_get s)).trans ?_), hdie, rfl, fun _ => rfl⟩
    dsimp only
    rw [hcore, if_neg Bool.false_ne_true, if_neg (mt List.contains_iff_mem.1 hdie)]
    rfl

/-- Throttling lowers the clock from now on: the cycles counted so far stay. -/
theorem execThrottle_lowers (steps : BitVec 8) (s : State) :
    ∃ u, execThrottle steps s = .next u ∧ u.myPkg.mhz = Nat.max 100 (s.myPkg.mhz - 100 * steps.toNat) ∧
      u.cycles (pkgOf s.id) = s.cycles (pkgOf s.id) ∧ u.hart = s.hart ∧ u.mem = s.mem := by
  refine ⟨_, rfl, ?_, ?_, rfl, rfl⟩
  · exact congrArg Pkg.mhz (pkg_setPkg_same ..)
  · rw [State.cycles, pkg_setPkg_same]
    change s.cycles (pkgOf s.id) + (s.time - s.time) * _ / 2000 = _
    rw [Nat.sub_self, Nat.zero_mul, Nat.zero_div, Nat.add_zero]

end Sys2Proof.Machine
end

section
/-! Package reset (R370), the sessions of the root of trust (R369), and the events of the pod as one claim. -/

namespace Sys2Proof.Machine

variable {s t u : State} {p : Nat} {failStep : BitVec 3}

/-! ## Package reset (R370) -/

theorem sparseGet_filter {α : Type} (d : α) (f : Nat → Bool) (m : Sparse α) (n : Nat) :
    sparseGet d (m.filter fun x => f x.1) n = if f n then sparseGet d m n else d := by
  induction m with
  | nil => exact (ite_self d).symm
  | cons x m ih =>
    obtain ⟨k, v⟩ := x
    rw [List.filter_cons]
    by_cases hn : k = n
    · subst hn
      cases hf : f k
      · rw [if_neg Bool.false_ne_true, ih, hf]
        rfl
      · rw [if_pos rfl, if_pos rfl, sparseGet, sparseGet, if_pos rfl, if_pos rfl]
    · have hskip : sparseGet d ((k, v) :: m) n = sparseGet d m n := if_neg hn
      rw [hskip, ← ih]
      split
      · exact if_neg hn
      · rfl

/-- What the units of package `p` are after its reset, and those of the others. -/
theorem sparseGet_keep {α : Type} (d : α) (m : Sparse α) (size c : Nat) :
    sparseGet d (m.filter fun x => x.1 / size != p) c = if c / size = p then d else sparseGet d m c := by
  rw [sparseGet_filter d (fun k => k / size != p) m c]
  by_cases h : c / size = p
  · rw [if_pos h, if_neg (by simpa using h)]
  · rw [if_neg h, if_pos (bne_iff_ne.2 h)]

theorem core_resetPackage (c : Nat) : (resetPackage p failStep s).core c = if c / 192 = p then Core.reset else s.core c :=
  sparseGet_keep Core.reset s.cores 192 c

theorem die_resetPackage (d : Nat) : (resetPackage p failStep s).die d = if d / 4 = p then Die.reset else s.die d :=
  sparseGet_keep Die.reset s.dies 4 d

theorem pkg_resetPackage_same :
    (resetPackage p failStep s).pkg p = Pkg.restarted s.time (podmapOf s p) (s.pkg p) failStep := sparseGet_put_same ..

theorem hart_resetPackage (h : pkgOf s.id = p) : (resetPackage p failStep s).hart = Hart.reset := if_pos h

/-- The harts of the other packages keep their state. -/
theorem hartAt_resetPackage {n : Nat} (h : pkgOf s.id = p) (hn : pkgOf n ≠ p) :
    (resetPackage p failStep s).hartAt n = s.hartAt n := by
  have hid : n ≠ s.id := fun e => hn (by rw [e, h])
  unfold State.hartAt
  rw [if_neg (show ¬n = (resetPackage p failStep s).id from hid), if_neg hid]
  exact (sparseGet_keep Hart.reset s.others hartsPerPkg n).trans (if_neg hn)

/-- What a bring-up comes to keeps of the state right after the reset: all but the maps and page-ins of the packages and the logs. -/
structure BroughtUp (t u : State) : Prop where
  id : u.id = t.id
  hart : u.hart = t.hart
  others : u.others = t.others
  cores : u.cores = t.cores
  mem : u.mem = t.mem
  pkgs : ∀ p, u.pkg p = { t.pkg p with podmap := (u.pkg p).podmap, pageIns := (u.pkg p).pageIns }

theorem BroughtUp.core (h : BroughtUp t u) (c : Nat) : u.core c = t.core c := congrArg (sparseGet Core.reset · c) h.cores

theorem BroughtUp.hartAt (h : BroughtUp t u) (n : Nat) : u.hartAt n = t.hartAt n := by
  unfold State.hartAt
  rw [h.id, h.hart, h.others]

/-- The step of the bring-up that fails, 0 for none: the first where the root of trust does not accept the image (R369). -/
def failingStep (s : State) (b : BringUp) : BitVec 3 :=
  if imageOk s.myPkg b.edSig b.mlSig b.version then b.failStep else 1

theorem execPackageReset_broughtUp (b : BringUp) (s : State) :
    ∃ u, execPackageReset b s = .next u ∧ BroughtUp (resetPackage (pkgOf s.id) (failingStep s b) s) u := by
  let t := resetPackage (pkgOf s.id) (failingStep s b) s
  have hrun : (execPackageReset b s) = runEvent (do
      modify (resetPackage (pkgOf s.id) (failingStep s b))
      if linksFail (failingStep s b) then losePackage (pkgOf s.id)) s := rfl
  rw [hrun]
  cases hfail : linksFail (failingStep s b)
  · exact ⟨t, rfl, ⟨rfl, rfl, rfl, rfl, rfl, fun _ => rfl⟩⟩
  · obtain ⟨u, hu, hlost⟩ := exec_losePackage (pkgOf s.id) t
    have hoff : (t.die (4 * pkgOf s.id)).elbase = 0 := by
      rw [die_resetPackage, if_pos (Nat.mul_div_cancel_left _ (by decide))]
      rfl
    exact ⟨u, runEvent_ok ((exec_bind_ok (exec_modify _ s)).trans hu),
      ⟨hlost.id, hlost.hart, hlost.others, hlost.cores, hlost.mem hoff, hlost.pkgs⟩⟩

theorem imageOk_iff (k : Pkg) (ed ml : BitVec 1) (ver : BitVec 32) :
    imageOk k ed ml ver = true ↔ ed = 1 ∧ ml = 1 ∧ k.fuse.toNat ≤ ver.toNat := by
  rw [imageOk, Bool.and_eq_true, Bool.and_eq_true, beq_iff_eq, beq_iff_eq, decide_eq_true_iff, and_assoc]

theorem ready_restarted (now : Nat) (map : BitVec 64) (old : Pkg) (f : BitVec 3) :
    (Pkg.restarted now map old f).ready = true ↔ ¬(1 ≤ f.toNat ∧ f.toNat ≤ 5) := by
  change (!(decide (1 ≤ f.toNat) && decide (f.toNat ≤ 5))) = true ↔ _
  rw [Bool.not_eq_true', ← Bool.decide_and, decide_eq_false_iff_not]

/-- The package is READY only with an image that the root of trust accepts, and where no step up to the fifth fails. -/
theorem failingStep_none_iff (s : State) (b : BringUp) : ¬(1 ≤ (failingStep s b).toNat ∧ (failingStep s b).toNat ≤ 5) ↔
    (b.edSig = 1 ∧ b.mlSig = 1 ∧ s.myPkg.fuse.toNat ≤ b.version.toNat) ∧ ¬(1 ≤ b.failStep.toNat ∧ b.failStep.toNat ≤ 5) := by
  rw [← imageOk_iff, failingStep]
  cases imageOk s.myPkg b.edSig b.mlSig b.version
  · rw [if_neg Bool.false_ne_true]
    exact iff_of_false (fun h => h (by decide)) fun h => Bool.false_ne_true h.1
  · exact (and_iff_right rfl).symm

/-! ## The sessions of the root of trust (R369) -/

/-- The state in which a request was answered and the session is at `next`. -/
def State.answered (s : State) (next : Spdm) : State :=
  ({ s with freeCount := s.freeCount + 1 } : State).setPkg (pkgOf s.id)
    { s.myPkg with spdm := next, spdmOut := Config.spdmResponse s.freeCount }

theorem runEvent_spdmRequest (may : Spdm → Bool) (next : Spdm) (s : State) :
    runEvent (spdmRequest may next) s = .next (if may s.myPkg.spdm then s.answered next else s) := by
  unfold runEvent spdmRequest
  rw [exec_bind_ok (exec_get s)]
  cases may s.myPkg.spdm <;> rfl

/-- A request is answered where the session may take it, and nowhere else. -/
theorem request_answers {i : Instr} {may : Spdm → Bool} {q : Prop} {next : Spdm}
    (hi : exec i s = runEvent (spdmRequest may next) s) (hq : may s.myPkg.spdm = true ↔ q) :
    (q → ∃ u, exec i s = .next u ∧ u.myPkg = { s.myPkg with spdm := next, spdmOut := Config.spdmResponse s.freeCount } ∧
      u.hart = s.hart ∧ u.mem = s.mem) ∧ (¬q → exec i s = .next s) := by
  rw [hi, runEvent_spdmRequest]
  refine ⟨fun h => ?_, fun h => ?_⟩
  · rw [if_pos (hq.2 h)]
    exact ⟨s.answered next, rfl, pkg_setPkg_same .., rfl, rfl⟩
  · rw [if_neg (mt hq.1 h)]

/-! ## The claim -/

theorem systemEvents : Sys2Proof.Claim.SystemEvents := by
  intro val bank errors steps fs ed ml ver s h t me x runs bits
  refine ⟨execAnnulledStep_passed, ?_, ?_, ?_, ?_, ?_, ⟨?_, ?_⟩, execRetentionEntry_core, execRetentionEntry_disabled,
    execRetentionExit_core errors, execRetentionExit_die errors, execThrottle_lowers steps s, ?_, ?_⟩
  · exact fun hruns hp hc => execInterrupt_cancel (takesCancel_eq_true hruns hp hc)
  · intro hruns hie hcancel
    have hpending {c : Cause} : pendingInterrupt t = some c → exec .interrupt s = .next (takeTrap false c 0 s) :=
      execInterrupt_pending (takesCancel_eq_false hcancel) hruns
    exact ⟨fun h3 => hpending (pendingInterrupt_cancel hie h3), fun h3 h1 => hpending (pendingInterrupt_host hie h3 h1),
      fun h3 h1 h0 => hpending (pendingInterrupt_timer hie h3 h1 h0)⟩
  · exact fun hie hcancel => execInterrupt_none (takesCancel_eq_false hcancel) (pendingInterrupt_disabled hie)
  · exact fun hen hdue => (execTimer_eq s).trans (if_pos ⟨hen, hdue⟩)
  · intro hquiet
    refine (execTimer_eq s).trans (if_neg fun ⟨hen, hdue⟩ => ?_)
    rcases hquiet with hoff | hearly
    · rw [show s.hart.trap.tcmpEn = 0 from hoff] at hen
      exact absurd hen (by decide)
    · exact absurd hearly (Nat.not_lt.2 hdue)
  · exact fun hlt => (execIpset_eq val s).trans (if_neg (Nat.not_le.2 hlt))
  · exact fun hle => (execIpset_eq val s).trans (if_pos hle)
  · obtain ⟨u, hu, hup⟩ := execPackageReset_broughtUp ⟨fs, ed, ml, ver⟩ s
    have hx := hup.pkgs (pkgOf s.id)
    rw [pkg_resetPackage_same, show u.pkg (pkgOf s.id) = u.myPkg by rw [State.myPkg, hup.id]; rfl] at hx
    refine ⟨u, hu, hup.hart.trans (hart_resetPackage rfl), hup.mem, hup.id, ?_, (congrArg Pkg.fuse hx).trans rfl, (congrArg Pkg.part hx).trans rfl,
      congrArg Pkg.replays hx, congrArg Pkg.replay hx, fun c hc => ?_, fun n hn => ?_, fun c hc => ?_⟩
    · rw [show u.myPkg.ready = _ from congrArg Pkg.ready hx]
      exact (ready_restarted s.time (podmapOf s me) x _).trans (failingStep_none_iff s ⟨fs, ed, ml, ver⟩)
    · rw [hup.core, core_resetPackage, if_neg hc]
    · rw [hup.hartAt, hartAt_resetPackage rfl hn]
    · rw [hup.core, core_resetPackage, if_pos hc]
  · have hstate (y : Spdm) : (s.myPkg.spdm == y) = true ↔ x.spdm = y := beq_iff_eq
    exact ⟨request_answers (may := fun _ => true) rfl (iff_of_true rfl trivial), request_answers rfl (hstate .version),
      request_answers rfl (hstate .capabilities), request_answers rfl (hstate .algorithms), request_answers rfl (hstate .algorithms),
      request_answers rfl (hstate .algorithms), request_answers rfl (hstate .algorithms)⟩

/-- Settles O52: the events of the links and packages, and those of the harts, banks, clocks and sessions. -/
theorem podEvents : Obligations.PodEvents := ⟨linkResults, systemEvents⟩

end Sys2Proof.Machine
end

section
/-! What an entry does to rows, position by position (R18, R38, R39): a written element is read back, the bytes, order words, dirty bits
and high-water marks of other rows stay, and the marks of a row are those of its written and passed positions. -/

namespace Sys2Proof.Machine

variable {v : VecRegs} {w row i j n : Nat}

/-! ## Elements of rows (R74) -/

/-- The widths that elements have (R22, R74). -/
def ElemWidth (w : Nat) : Prop := w = 4 ∨ w = 8 ∨ w = 16 ∨ w = 32

theorem elemWidth_widthOf (et : Nat) : ElemWidth (widthOf et) := by
  unfold widthOf ElemWidth
  repeat' split
  all_goals omega

theorem ElemWidth.pos (h : ElemWidth w) : 0 < w := by
  unfold ElemWidth at h
  omega

/-- The `w`-bit element at position i of a row, as the bytes of the rows hold it. -/
def rowBits (rows : Sparse Byte) (row i w : Nat) : Nat :=
  if w = 4 then
    if i % 2 = 0 then (sparseGet 0 rows (rowKey row (i / 2))).toNat % 16 else (sparseGet 0 rows (rowKey row (i / 2))).toNat / 16
  else leNat (sparseGetList 0 rows (rowKey row (i * (w / 8))) (w / 8))

theorem map_range_sparseGet {α : Type} (d : α) (m : Sparse α) (k c : Nat) :
    ((List.range c).map fun x => sparseGet d m (k + x)) = sparseGetList d m k c := by
  refine List.ext_getElem (by rw [List.length_map, List.length_range, length_sparseGetList]) fun x _ _ => ?_
  rw [List.getElem_map, List.getElem_range, getElem_sparseGetList]

/-- An element of a tile that no stream serves lies in its row. -/
theorem tileElem_unbound {vwb k : Nat} (h : streamAt v (vwb + k) = none) (r i w : Nat) :
    tileElem v vwb k r i w = rowBits v.rows (vwb + k + r) i w := by
  have hbyte (off : Nat) : tileByte v vwb k r off = sparseGet 0 v.rows (rowKey (vwb + k + r) off) := by
    unfold tileByte
    rw [h]
  unfold tileElem rowBits
  simp only [hbyte, ← map_range_sparseGet, rowKey, Nat.add_assoc]

theorem rowBits_lt (hw : ElemWidth w) (rows : Sparse Byte) (row i : Nat) : rowBits rows row i w < 2 ^ w := by
  unfold rowBits
  split
  next h4 =>
    have hbyte := (sparseGet 0 rows (rowKey row (i / 2))).isLt
    subst h4
    split <;> omega
  next h4 =>
    have hlt := leNat_lt (sparseGetList 0 rows (rowKey row (i * (w / 8))) (w / 8))
    rw [length_sparseGetList] at hlt
    have hbytes : 8 * (w / 8) = w := by unfold ElemWidth at hw; omega
    rwa [hbytes] at hlt

theorem rowBits_congr {rows rows' : Sparse Byte} (hw : ElemWidth w) (hi : i < 32768 / w)
    (h : ∀ off < 4096, sparseGet 0 rows' (rowKey row off) = sparseGet 0 rows (rowKey row off)) :
    rowBits rows' row i w = rowBits rows row i w := by
  unfold rowBits
  split
  next h4 =>
    subst h4
    rw [h (i / 2) (by omega)]
  next h4 =>
    refine congrArg leNat (List.ext_getElem (by simp only [length_sparseGetList]) fun k hk _ => ?_)
    rw [length_sparseGetList] at hk
    rw [getElem_sparseGetList, getElem_sparseGetList]
    refine (congrArg _ (Nat.add_assoc ..)).trans ((h (i * (w / 8) + k) ?_).trans (congrArg _ (Nat.add_assoc ..).symm))
    rcases hw with rfl | rfl | rfl | rfl <;> omega

/-! ## Writing an element -/

theorem putElem_eq (v : VecRegs) (row i w x : Nat) : putElem v row i w x = { v with
    rows := (putElem v row i w x).rows
    order := sparsePut 0 v.order row 0
    dirty := sparsePut false v.dirty row true
    high := (putElem v row i w x).high
    badRows := (putElem v row i w x).badRows } := rfl

theorem putElem_badRows (h : v.badRows = []) (row i w x : Nat) : (putElem v row i w x).badRows = [] := by
  unfold putElem
  rw [h]
  rfl

/-- The last byte that an element takes in its row (R38, R74). -/
theorem putElem_high (hw : ElemWidth w) (v : VecRegs) (row i x : Nat) :
    (putElem v row i w x).high = sparsePut 0 v.high row (Nat.max (sparseGet 0 v.high row) (endByte w i)) := by
  unfold putElem endByte
  dsimp only
  congr 2
  rcases hw with rfl | rfl | rfl | rfl
  · change i / 2 + 1 = _
    omega
  all_goals
    rw [if_neg (by decide), if_neg (by decide), length_leBytes]
    omega

/-- The byte with the two halves of a 4-bit pair, of which one is written. -/
theorem putElem_rows_nibble (v : VecRegs) (row i x : Nat) :
    (putElem v row i 4 x).rows = sparsePut 0 v.rows (rowKey row (i / 2)) (BitVec.ofNat 8
      (if i % 2 = 0 then (sparseGet 0 v.rows (rowKey row (i / 2))).toNat / 16 * 16 + x % 16
       else (sparseGet 0 v.rows (rowKey row (i / 2))).toNat % 16 + x % 16 * 16)) := rfl

/-- Writing an element leaves the bytes of every other row. -/
theorem putElem_byte_other (hw : ElemWidth w) (v : VecRegs) {row row' i off : Nat} (x : Nat) (hi : i < 32768 / w) (hrow : row' ≠ row)
    (hoff : off < 4096) :
    sparseGet 0 (putElem v row i w x).rows (rowKey row' off) = sparseGet 0 v.rows (rowKey row' off) := by
  unfold rowKey
  by_cases h4 : w = 4
  · subst h4
    rw [putElem_rows_nibble, sparseGet_put_other]
    unfold rowKey
    omega
  · refine putElem_other v row i w x _ h4 ?_
    unfold rowKey
    rcases hw with rfl | rfl | rfl | rfl <;> omega

/-- A read after a write of an element: the value at its position, the old one at every other position. -/
theorem rowBits_putElem (hw : ElemWidth w) (v : VecRegs) {row row' i i' : Nat} (x : Nat) (hi : i < 32768 / w) (hi' : i' < 32768 / w) :
    rowBits (putElem v row i w x).rows row' i' w =
      if row' = row ∧ i' = i then x % 2 ^ w else rowBits v.rows row' i' w := by
  by_cases hrow : row' = row
  swap
  · rw [if_neg fun h => hrow h.1]
    exact rowBits_congr hw hi' fun off hoff => putElem_byte_other hw v x hi hrow hoff
  subst hrow
  simp only [true_and]
  by_cases h4 : w = 4
  · subst h4
    have hbyte := (sparseGet 0 v.rows (rowKey row' (i / 2))).isLt
    unfold rowBits
    rw [if_pos rfl, if_pos rfl, putElem_rows_nibble, sparseGet_put]
    by_cases hk : rowKey row' (i' / 2) = rowKey row' (i / 2)
    · have hhalf : i' / 2 = i / 2 := by unfold rowKey at hk; omega
      rw [if_pos hk, hhalf, BitVec.toNat_ofNat]
      by_cases hodd : i % 2 = 0 <;> by_cases hodd' : i' % 2 = 0
      · simp only [hodd, hodd', if_true, if_pos (show i' = i by omega)]
        omega
      · simp only [hodd, hodd', if_true, if_false, if_neg (show i' ≠ i by omega)]
        omega
      · simp only [hodd, hodd', if_true, if_false, if_neg (show i' ≠ i by omega)]
        omega
      · simp only [hodd, hodd', if_false, if_pos (show i' = i by omega)]
        omega
    · rw [if_neg hk, if_neg (show i' ≠ i from fun h => hk (by rw [h]))]
  · by_cases hpos : i' = i
    · subst hpos
      rw [if_pos rfl]
      unfold rowBits
      rw [if_neg h4, putElem_read v row' i' w x h4]
      rcases hw with rfl | rfl | rfl | rfl
      · exact absurd rfl h4
      all_goals rfl
    · rw [if_neg hpos]
      unfold rowBits
      rw [if_neg h4, if_neg h4, putElem_rows v row' i w x h4, sparseGetList_putList_other]
      rw [length_leBytes]
      unfold rowKey
      rcases hw with rfl | rfl | rfl | rfl <;> omega

/-! ## Positions, one after the other -/

/-- What an entry does at one position: nothing, or it passes the position over and clears the order word of its row, or it writes
a value there (R18, R39). -/
inductive Act where
  | skip
  | pass
  | write (x : Nat)

def Act.apply (w : Nat) (p : Nat × Nat) : Act → VecRegs → VecRegs
  | .skip, v => v
  | .pass, v => { v with order := sparsePut 0 v.order p.1 0 }
  | .write x, v => putElem v p.1 p.2 w x

/-- The position is written. -/
def Act.writes : Act → Bool
  | .write _ => true
  | _ => false

/-- The position is written or passed over. -/
def Act.touches : Act → Bool
  | .skip => false
  | _ => true

/-- What the position holds afterwards, at width w. -/
def Act.value (w old : Nat) : Act → Nat
  | .write x => x % 2 ^ w
  | _ => old

/-- The vector registers after the positions below n are done, in rising order. -/
def acted (w : Nat) (pos : Nat → Nat × Nat) (act : Nat → Act) (n : Nat) (v : VecRegs) : VecRegs :=
  (List.range n).foldl (fun v j => (act j).apply w (pos j) v) v

theorem acted_succ (w : Nat) (pos : Nat → Nat × Nat) (act : Nat → Act) (n : Nat) (v : VecRegs) :
    acted w pos act (n + 1) v = (act n).apply w (pos n) (acted w pos act n v) := by
  unfold acted
  rw [List.range_succ, List.foldl_append]
  rfl

theorem acted_congr {pos : Nat → Nat × Nat} {act act' : Nat → Act} (h : ∀ j < n, act j = act' j) (v : VecRegs) :
    acted w pos act n v = acted w pos act' n v := by
  induction n with
  | zero => rfl
  | succ n ih => rw [acted_succ, acted_succ, h n n.lt_succ_self, ih fun j hj => h j (Nat.lt_succ_of_lt hj)]

/-- Positions that nothing is done at change nothing. -/
theorem acted_skip {pos : Nat → Nat × Nat} {act : Nat → Act} {k : Nat} (hk : n ≤ k) (h : ∀ j, n ≤ j → j < k → act j = .skip) :
    acted w pos act k v = acted w pos act n v := by
  obtain ⟨m, rfl⟩ := Nat.exists_eq_add_of_le hk
  induction m with
  | zero => rfl
  | succ m ih =>
    rw [← Nat.add_assoc, acted_succ, h (n + m) (by omega) (by omega), ← ih (by omega) fun j hj hj' => h j hj (by omega)]
    rfl

theorem Act.apply_gen (a : Act) (p : Nat × Nat) (v : VecRegs) (g : BitVec 32) :
    a.apply w p { v with gen := g } = { a.apply w p v with gen := g } := by
  cases a <;> rfl

theorem acted_gen (pos : Nat → Nat × Nat) (act : Nat → Act) (v : VecRegs) (g : BitVec 32) :
    acted w pos act n { v with gen := g } = { acted w pos act n v with gen := g } := by
  induction n with
  | zero => rfl
  | succ n ih => rw [acted_succ, ih, Act.apply_gen, acted_succ]

section

variable {pos : Nat → Nat × Nat} {act : Nat → Act}

/-- Beside rows and their marks nothing changes. -/
theorem acted_rest (hbad : v.badRows = []) : acted w pos act n v = { v with
    rows := (acted w pos act n v).rows
    order := (acted w pos act n v).order
    dirty := (acted w pos act n v).dirty
    high := (acted w pos act n v).high } := by
  induction n with
  | zero => rfl
  | succ n ih =>
    have hnone : (acted w pos act n v).badRows = [] := by rw [ih]; exact hbad
    rw [acted_succ]
    cases act n with
    | skip => exact ih
    | pass => change ({ acted w pos act n v with order := _ } : VecRegs) = _; rw [ih]; rfl
    | write x =>
      change putElem _ _ _ _ _ = { v with rows := (putElem _ _ _ _ _).rows, order := _, dirty := _, high := _ }
      rw [putElem_eq, putElem_badRows hnone, ← hbad, ih]
      rfl

theorem acted_streams (hbad : v.badRows = []) : (acted w pos act n v).streams = v.streams := by rw [acted_rest hbad]

/-- A row that holds none of the positions keeps its bytes. -/
theorem acted_byte (hw : ElemWidth w) (hin : ∀ j < n, (pos j).2 < 32768 / w) {off : Nat} (hout : ∀ j < n, (pos j).1 ≠ row)
    (hoff : off < 4096) :
    sparseGet 0 (acted w pos act n v).rows (rowKey row off) = sparseGet 0 v.rows (rowKey row off) := by
  induction n with
  | zero => rfl
  | succ n ih =>
    rw [← ih (fun j hj => hin j (by omega)) fun j hj => hout j (by omega), acted_succ]
    cases act n with
    | skip => rfl
    | pass => rfl
    | write x => exact putElem_byte_other hw _ x (hin n (by omega)) (hout n (by omega)).symm hoff

/-- A position that none of the others is keeps its value. -/
theorem acted_other (hw : ElemWidth w) (hin : ∀ j < n, (pos j).2 < 32768 / w) (hi : i < 32768 / w) (hout : ∀ j < n, pos j ≠ (row, i)) :
    rowBits (acted w pos act n v).rows row i w = rowBits v.rows row i w := by
  induction n with
  | zero => rfl
  | succ n ih =>
    rw [← ih (fun j hj => hin j (by omega)) fun j hj => hout j (by omega), acted_succ]
    cases act n with
    | skip => rfl
    | pass => rfl
    | write x =>
      refine (rowBits_putElem hw _ x (hin n (by omega)) hi).trans (if_neg fun h => ?_)
      exact hout n (by omega) (Prod.ext h.1.symm h.2.symm)

/-- Each position holds what was done there. -/
theorem acted_elem (hw : ElemWidth w) (hin : ∀ j < n, (pos j).2 < 32768 / w) (hinj : ∀ j < n, ∀ k < n, pos j = pos k → j = k) (hj : j < n) :
    rowBits (acted w pos act n v).rows (pos j).1 (pos j).2 w = (act j).value w (rowBits v.rows (pos j).1 (pos j).2 w) := by
  induction n with
  | zero => exact absurd hj (Nat.not_lt_zero j)
  | succ n ih =>
    have hbelow : ∀ k < n, (pos k).2 < 32768 / w := fun k hk => hin k (by omega)
    rw [acted_succ]
    by_cases hlast : j = n
    · subst hlast
      have hold := acted_other (v := v) (act := act) hw hbelow (hin j (by omega))
        fun k hk he => absurd (hinj k (by omega) j (by omega) he) (by omega)
      cases act j with
      | skip => exact hold
      | pass => exact hold
      | write x => exact (rowBits_putElem hw _ x (hin j (by omega)) (hin j (by omega))).trans (if_pos ⟨rfl, rfl⟩)
    · rw [← ih hbelow (fun k hk m hm => hinj k (by omega) m (by omega)) (by omega)]
      cases act n with
      | skip => rfl
      | pass => rfl
      | write x =>
        refine (rowBits_putElem hw _ x (hin n (by omega)) (hin j (by omega))).trans (if_neg fun h => ?_)
        exact hlast (hinj j (by omega) n (by omega) (Prod.ext h.1 h.2))

/-- The order word of a row is cleared where a position of it is written or passed over. -/
theorem acted_order : sparseGet 0 (acted w pos act n v).order row =
    if (List.range n).any (fun j => (pos j).1 == row && (act j).touches) then 0 else sparseGet 0 v.order row := by
  induction n with
  | zero => rfl
  | succ n ih =>
    have hput : sparseGet 0 (sparsePut 0 (acted w pos act n v).order (pos n).1 0) row =
        if (pos n).1 == row then 0 else sparseGet 0 (acted w pos act n v).order row := by
      rw [sparseGet_put]
      exact if_congr (by rw [beq_iff_eq, eq_comm]) rfl rfl
    rw [acted_succ, List.range_succ, List.any_append, List.any_cons, List.any_nil, Bool.or_false]
    cases act n with
    | skip => rw [show Act.skip.touches = false from rfl, Bool.and_false, Bool.or_false]; exact ih
    | pass =>
      refine hput.trans ?_
      rw [ih, show Act.pass.touches = true from rfl, Bool.and_true]
      cases (pos n).1 == row <;> simp
    | write x =>
      refine hput.trans ?_
      rw [ih, show (Act.write x).touches = true from rfl, Bool.and_true]
      cases (pos n).1 == row <;> simp

/-- The dirty bit of a row is set where a position of it is written. -/
theorem acted_dirty : sparseGet false (acted w pos act n v).dirty row =
    (sparseGet false v.dirty row || (List.range n).any fun j => (pos j).1 == row && (act j).writes) := by
  induction n with
  | zero => exact (Bool.or_false _).symm
  | succ n ih =>
    rw [acted_succ, List.range_succ, List.any_append, List.any_cons, List.any_nil, Bool.or_false, ← Bool.or_assoc, ← ih]
    cases act n with
    | skip => rw [show Act.skip.writes = false from rfl, Bool.and_false, Bool.or_false]; rfl
    | pass => rw [show Act.pass.writes = false from rfl, Bool.and_false, Bool.or_false]; rfl
    | write x =>
      rw [show (Act.write x).writes = true from rfl, Bool.and_true]
      refine (sparseGet_put false (acted w pos act n v).dirty (pos n).1 row true).trans ?_
      by_cases h : row = (pos n).1
      · rw [if_pos h, h, beq_self_eq_true, Bool.or_true]
      · rw [if_neg h, beq_false_of_ne (Ne.symm h), Bool.or_false]

/-- The high-water mark of a row rises to the last byte written. -/
theorem acted_high (hw : ElemWidth w) : sparseGet 0 (acted w pos act n v).high row =
    (((List.range n).filter fun j => (pos j).1 == row && (act j).writes).map fun j => endByte w (pos j).2).foldl Nat.max
      (sparseGet 0 v.high row) := by
  induction n with
  | zero => rfl
  | succ n ih =>
    rw [acted_succ, List.range_succ, List.filter_append, List.map_append, List.foldl_append, ← ih, List.filter_singleton]
    cases act n with
    | skip => rw [show Act.skip.writes = false from rfl, Bool.and_false]; rfl
    | pass => rw [show Act.pass.writes = false from rfl, Bool.and_false]; rfl
    | write x =>
      rw [show (Act.write x).writes = true from rfl, Bool.and_true]
      refine (congrArg (sparseGet 0 · row) (putElem_high hw _ _ _ x)).trans ((sparseGet_put ..).trans ?_)
      by_cases h : row = (pos n).1
      · rw [if_pos h, h, beq_self_eq_true]
        rfl
      · rw [if_neg h, beq_false_of_ne (Ne.symm h)]
        rfl

end

end Sys2Proof.Machine
end

section
/-! A tile whose positions were done one after the other (R18, R19, R38, R39): its elements, the marks of its rows, and its frame. -/

namespace Sys2Proof.Machine

variable {s t : State} {c : VConf} {w n rows N est r : Nat} {pos : Nat → Nat × Nat} {σ : Nat → Nat} {act : Nat → Act}

/-! ## The largest of a list -/

theorem foldl_max_le_iff {xs : List Nat} {a b : Nat} : xs.foldl Nat.max a ≤ b ↔ a ≤ b ∧ ∀ x ∈ xs, x ≤ b := by
  induction xs generalizing a with
  | nil => simp
  | cons x xs ih =>
    rw [List.foldl_cons, ih, List.forall_mem_cons, ← and_assoc]
    exact and_congr_left' Nat.max_le

/-- The largest of a list depends on its members alone. -/
theorem foldl_max_congr {xs ys : List Nat} (h : ∀ x, x ∈ xs ↔ x ∈ ys) (a : Nat) : xs.foldl Nat.max a = ys.foldl Nat.max a :=
  eq_of_forall_ge_iff fun b => by simp only [foldl_max_le_iff, h]

theorem any_eq_filter {α : Type} (f : α → Bool) (xs : List α) : xs.any f = !(xs.filter f).isEmpty := by
  rw [Bool.eq_iff_iff, Bool.not_eq_true', List.isEmpty_eq_false_iff_exists_mem, List.any_eq_true]
  simp only [List.mem_filter]

/-! ## Positions that cover rows -/

/-- The positions that an entry does, N of them, are those of `rows` rows of VL elements from row n on, each once: the j-th is flat
position σ j. -/
structure Covers (c : VConf) (n rows N : Nat) (pos : Nat → Nat × Nat) (σ : Nat → Nat) : Prop where
  place : ∀ j < N, pos j = (c.vwb.toNat + n + σ j / c.vlN, σ j % c.vlN)
  inside : ∀ j < N, σ j < rows * c.vlN
  onto : ∀ p < rows * c.vlN, ∃ j < N, σ j = p
  once : ∀ j < N, ∀ k < N, σ j = σ k → j = k

/-- Flat position j of the rows from row n on. -/
def flatPos (c : VConf) (n j : Nat) : Nat × Nat := (c.vwb.toNat + n + j / c.vlN, j % c.vlN)

theorem covers_flat (c : VConf) (n rows : Nat) : Covers c n rows (rows * c.vlN) (flatPos c n) id where
  place _ _ := rfl
  inside _ h := h
  onto p hp := ⟨p, hp, rfl⟩
  once _ _ _ _ h := h

theorem flat_lt {i vl : Nat} (hr : r < rows) (hi : i < vl) : r * vl + i < rows * vl := by
  have := Nat.mul_le_mul_right vl (Nat.succ_le_of_lt hr)
  rw [Nat.succ_mul] at this
  omega

theorem flat_div {i vl : Nat} (hi : i < vl) : (r * vl + i) / vl = r := by
  rw [Nat.add_comm, Nat.add_mul_div_right _ _ (by omega), Nat.div_eq_of_lt hi, Nat.zero_add]

theorem flat_mod {i vl : Nat} (hi : i < vl) : (r * vl + i) % vl = i := by
  rw [Nat.add_comm, Nat.add_mul_mod_self_right, Nat.mod_eq_of_lt hi]

section

variable (h : Covers c n rows N pos σ)

include h

theorem Covers.vl_pos {j : Nat} (hj : j < N) : 0 < c.vlN := Nat.pos_of_mul_pos_left (Nat.zero_lt_of_lt (h.inside j hj))

theorem Covers.col_lt {j : Nat} (hj : j < N) : (pos j).2 < c.vlN := by
  rw [h.place j hj]
  exact Nat.mod_lt _ (h.vl_pos hj)

theorem Covers.row_lt {j : Nat} (hj : j < N) : σ j / c.vlN < rows :=
  Nat.div_lt_of_lt_mul (Nat.mul_comm rows c.vlN ▸ h.inside j hj)

theorem Covers.injective {j k : Nat} (hj : j < N) (hk : k < N) (he : pos j = pos k) : j = k := by
  rw [h.place j hj, h.place k hk, Prod.mk.injEq] at he
  refine h.once j hj k hk ?_
  rw [← Nat.div_add_mod (σ j) c.vlN, ← Nat.div_add_mod (σ k) c.vlN, he.2, show σ j / c.vlN = σ k / c.vlN by omega]

/-- The positions in row r are those of VL elements. -/
theorem Covers.exists_row (hr : r < rows) (Q : Nat → Nat → Prop) :
    (∃ j < N, (pos j).1 = c.vwb.toNat + n + r ∧ Q (σ j) (pos j).2) ↔ ∃ i < c.vlN, Q (r * c.vlN + i) i := by
  constructor
  · rintro ⟨j, hj, hrow, hQ⟩
    have hcol := h.col_lt hj
    rw [h.place j hj] at hrow hQ hcol
    have hdiv : σ j / c.vlN = r := by dsimp only at hrow; omega
    refine ⟨σ j % c.vlN, hcol, ?_⟩
    rwa [← hdiv, Nat.mul_comm, Nat.div_add_mod]
  · rintro ⟨i, hi, hQ⟩
    obtain ⟨j, hj, hσ⟩ := h.onto _ (flat_lt hr hi)
    refine ⟨j, hj, ?_⟩
    rw [h.place j hj, hσ, flat_div hi, flat_mod hi]
    exact ⟨rfl, hQ⟩

end

/-! ## What an entry leaves -/

/-- The vector registers of t are those of s after an entry that did N positions: the marks, and the generator. -/
def ActedVec (w : Nat) (pos : Nat → Nat × Nat) (act : Nat → Act) (N : Nat) (s t : State) : Prop :=
  ∃ g, t.hart.vec = { acted w pos act N s.hart.vec with gen := g, strips := [], outs := [] }

section

variable (hv : ActedVec w pos act N s t) (hbad : s.hart.vec.badRows = []) (hw : ElemWidth w)

include hv hbad

theorem ActedVec.streams : t.hart.vec.streams = s.hart.vec.streams := by
  obtain ⟨g, hvec⟩ := hv
  rw [hvec]
  exact acted_streams hbad

theorem ActedVec.streamAt (row : Nat) : streamAt t.hart.vec row = streamAt s.hart.vec row := by
  unfold Machine.streamAt
  rw [hv.streams hbad]

include hw

theorem onlyRowsOf_acted {dest : Nat → Prop} (hin : ∀ j < N, (pos j).2 < 32768 / w) (hdest : ∀ j < N, dest (pos j).1) :
    OnlyRowsOf dest s t := by
  obtain ⟨g, hvec⟩ := hv
  have hout {row : Nat} (hrow : ¬dest row) (j : Nat) (hj : j < N) : (pos j).1 ≠ row := fun he => hrow (he ▸ hdest j hj)
  have hnone {row : Nat} (hrow : ¬dest row) (f : Act → Bool) : ((List.range N).any fun j => (pos j).1 == row && f (act j)) = false :=
    List.any_eq_false.2 fun j hj => by
      rw [beq_false_of_ne (hout hrow j (List.mem_range.1 hj)), Bool.false_and]
      exact Bool.false_ne_true
  refine ⟨?_, fun row off hrow hoff => ?_, fun row hrow => ⟨?_, ?_, ?_⟩⟩ <;> rw [hvec]
  · dsimp only
    conv_lhs => rw [acted_rest hbad]
  · exact acted_byte hw hin (hout hrow) hoff
  · exact acted_order.trans (if_neg (by rw [hnone hrow]; exact Bool.false_ne_true))
  · exact acted_dirty.trans (by rw [hnone hrow, Bool.or_false])
  · refine (acted_high hw).trans ?_
    rw [List.filter_eq_nil_iff.2 fun j hj => List.any_eq_false.1 (hnone hrow Act.writes) j hj]
    rfl

variable (hcov : Covers s.hart.cfg n rows N pos σ) (hvl : s.hart.cfg.vlN ≤ 32768 / w)
  (hfree : streamAt s.hart.vec (s.hart.cfg.vwb.toNat + n) = none)

include hcov hvl

theorem onlyRowsOf_covered {dest : Nat → Prop} (hdest : ∀ r < rows, dest (s.hart.cfg.vwb.toNat + n + r)) : OnlyRowsOf dest s t :=
  onlyRowsOf_acted hv hbad hw (fun _ hj => (hcov.col_lt hj).trans_le hvl) fun j hj => by
    rw [hcov.place j hj]
    exact hdest _ (hcov.row_lt hj)

include hfree

/-- Each flat position holds what was done there. -/
theorem tileElem_acted {j : Nat} (hj : j < N) :
    tileElem t.hart.vec s.hart.cfg.vwb.toNat n (σ j / s.hart.cfg.vlN) (σ j % s.hart.cfg.vlN) w =
      (act j).value w (tileElem s.hart.vec s.hart.cfg.vwb.toNat n (σ j / s.hart.cfg.vlN) (σ j % s.hart.cfg.vlN) w) := by
  have hin (k : Nat) (hk : k < N) : (pos k).2 < 32768 / w := (hcov.col_lt hk).trans_le hvl
  have helem := acted_elem (v := s.hart.vec) (act := act) hw hin (fun a ha b hb he => hcov.injective ha hb he) hj
  rw [tileElem_unbound hfree, tileElem_unbound ((hv.streamAt hbad _).trans hfree)]
  obtain ⟨g, hvec⟩ := hv
  rw [hcov.place j hj] at helem
  rw [hvec]
  exact helem

theorem rowMarksOf_acted {f : Nat → Option Nat} (hwrites : ∀ j < N, (act j).writes = writesAt s est f (σ j))
    (htouches : ∀ j < N, (act j).touches = ((f (σ j)).isSome || decide (est ≤ σ j))) : RowMarksOf s t n rows w est f := by
  have hin (k : Nat) (hk : k < N) : (pos k).2 < 32768 / w := (hcov.col_lt hk).trans_le hvl
  have hsame := (hv.streamAt hbad (s.hart.cfg.vwb.toNat + n)).trans hfree
  obtain ⟨g, hvec⟩ := hv
  have hany {r : Nat} (hr : r < rows) {f : Act → Bool} {F : Nat → Bool} (hf : ∀ j < N, f (act j) = F (σ j)) :
      ((List.range N).any fun j => (pos j).1 == s.hart.cfg.vwb.toNat + n + r && f (act j)) =
        (List.range s.hart.cfg.vlN).any fun i => F (r * s.hart.cfg.vlN + i) := by
    have hiff := hcov.exists_row hr fun p _ => F p = true
    rw [Bool.eq_iff_iff]
    simp only [List.any_eq_true, List.mem_range, Bool.and_eq_true, beq_iff_eq]
    rw [← hiff]
    exact exists_congr fun j => and_congr_right fun hj => by rw [hf j hj]
  intro r hr row js
  refine ⟨fun i hlo hhi => ?_, ?_, ?_, ?_⟩
  · rw [tileElem_unbound hfree, tileElem_unbound hsame, hvec]
    refine acted_other hw hin hhi fun j hj he => ?_
    have := hcov.col_lt hj
    rw [he] at this
    exact absurd this (Nat.not_lt.2 hlo)
  · rw [hvec]
    refine acted_order.trans ?_
    rw [hany hr (F := fun p => (f p).isSome || decide (est ≤ p)) htouches]
  · rw [hvec]
    refine acted_dirty.trans ?_
    rw [hany hr (F := writesAt s est f) hwrites]
    refine congrArg _ ?_
    exact any_eq_filter _ _
  · rw [hvec]
    refine (acted_high hw).trans (foldl_max_congr (fun x => ?_) _)
    have hiff := hcov.exists_row hr fun p i => writesAt s est f p = true ∧ endByte w i = x
    simp only [js, List.mem_map, List.mem_filter, List.mem_range, Bool.and_eq_true, beq_iff_eq, and_assoc] at hiff ⊢
    rw [← hiff]
    exact exists_congr fun j => and_congr_right fun hj => by rw [hwrites j hj]

end

/-! ## What `wr` and `masked` do at a position -/

/-- A value is written modulo 2^w; a position that takes none is passed over from ESTART on, and written with zero under MASKMODE 1. -/
def actOf (c : VConf) (est w : Nat) (o : Option Nat) (p : Nat) : Act :=
  match o with
  | some x => .write (x % 2 ^ w)
  | none => if p < est then .skip else if c.maskmode = 1 then .write 0 else .pass

theorem actOf_touches (c : VConf) (est w : Nat) (o : Option Nat) (p : Nat) :
    (actOf c est w o p).touches = (o.isSome || decide (est ≤ p)) := by
  cases o with
  | some x => rfl
  | none =>
    unfold actOf
    dsimp only
    by_cases hp : p < est
    · rw [if_pos hp, decide_eq_false (Nat.not_le.2 hp)]
      rfl
    · rw [if_neg hp, decide_eq_true (Nat.not_lt.1 hp)]
      split <;> rfl

theorem actOf_writes (s : State) (est w : Nat) (f : Nat → Option Nat) (p : Nat) :
    (actOf s.hart.cfg est w (f p) p).writes = writesAt s est f p := by
  unfold actOf writesAt
  cases f p with
  | some x => rfl
  | none =>
    dsimp only
    by_cases hp : p < est
    · rw [if_pos hp, decide_eq_false (Nat.not_le.2 hp), Bool.and_false]
      rfl
    · rw [if_neg hp, decide_eq_true (Nat.not_lt.1 hp), Bool.and_true]
      by_cases hm : s.hart.cfg.maskmode = 1
      · rw [if_pos hm, hm]
        rfl
      · rw [if_neg hm, beq_false_of_ne hm]
        rfl

theorem actOf_value (c : VConf) (est w : Nat) (o : Option Nat) (p old : Nat) : (actOf c est w o p).value w old =
    match o with
    | some x => x % 2 ^ w
    | none => if c.maskmode = 1 ∧ est ≤ p then 0 else old := by
  cases o with
  | some x => exact Nat.mod_mod x (2 ^ w)
  | none =>
    unfold actOf
    dsimp only
    by_cases hp : p < est
    · rw [if_pos hp, if_neg fun h => absurd h.2 (Nat.not_le.2 hp)]
      rfl
    · rw [if_neg hp]
      by_cases hm : c.maskmode = 1
      · rw [if_pos hm, if_pos ⟨hm, Nat.not_lt.1 hp⟩]
        exact Nat.zero_mod _
      · rw [if_neg hm, if_neg fun h => hm h.1]
        rfl

/-! ## A tile -/

theorem PlainRows.unbound {k : Nat} (h : PlainRows s n rows) (hk : k < rows) :
    streamAt s.hart.vec (s.hart.cfg.vwb.toNat + (n + k)) = none := h.2 k hk

theorem PlainRows.first (h : PlainRows s n rows) (hrows : 1 ≤ rows) : streamAt s.hart.vec (s.hart.cfg.vwb.toNat + n) = none := h.2 0 hrows

theorem tileRows_of_lt {d : BitVec 7} (hr : r < rows) : tileRows s d rows (s.hart.cfg.vwb.toNat + d.toNat + r) :=
  ⟨Nat.le_add_right _ _, Nat.add_lt_add_left hr _⟩

/-- The marks depend on which positions are written and which are passed over, and on no value. -/
theorem rowMarksOf_same {f g : Nat → Option Nat} {est' : Nat}
    (hwrites : ∀ j < rows * s.hart.cfg.vlN, writesAt s est f j = writesAt s est' g j)
    (htouches : ∀ j < rows * s.hart.cfg.vlN, ((f j).isSome || decide (est ≤ j)) = ((g j).isSome || decide (est' ≤ j)))
    (hf : RowMarksOf s t n rows w est f) : RowMarksOf s t n rows w est' g := by
  intro r hr row js
  obtain ⟨hrest, horder, hdirty, hhigh⟩ := hf r hr
  have hjs : js = (List.range s.hart.cfg.vlN).filter fun i => writesAt s est f (r * s.hart.cfg.vlN + i) :=
    List.filter_congr fun i hi => (hwrites _ (flat_lt hr (List.mem_range.1 hi))).symm
  have hany : ((List.range s.hart.cfg.vlN).any fun i =>
        (g (r * s.hart.cfg.vlN + i)).isSome || decide (est' ≤ r * s.hart.cfg.vlN + i)) =
      (List.range s.hart.cfg.vlN).any fun i => (f (r * s.hart.cfg.vlN + i)).isSome || decide (est ≤ r * s.hart.cfg.vlN + i) := by
    rw [Bool.eq_iff_iff, List.any_eq_true, List.any_eq_true]
    exact exists_congr fun i => and_congr_right fun hi => by rw [htouches _ (flat_lt hr (List.mem_range.1 hi))]
  rw [hany, hjs]
  exact ⟨hrest, horder, hdirty, hhigh⟩

/-- A tile that is given only as far as each position's having a value. -/
theorem rowMarksOf_congr {f g : Nat → Option Nat} (h : ∀ j < rows * s.hart.cfg.vlN, (f j).isSome = (g j).isSome)
    (hf : RowMarksOf s t n rows w est f) : RowMarksOf s t n rows w est g :=
  rowMarksOf_same (fun j hj => by unfold writesAt; rw [h j hj]) (fun j hj => by rw [h j hj]) hf

/-- Where every position has a value, ESTART does not matter. -/
theorem rowMarksOf_est {f : Nat → Option Nat} {est' : Nat} (h : ∀ j < rows * s.hart.cfg.vlN, (f j).isSome = true)
    (hf : RowMarksOf s t n rows w est f) : RowMarksOf s t n rows w est' f :=
  rowMarksOf_same (fun j hj => by unfold writesAt; rw [h j hj, Bool.true_or, Bool.true_or])
    (fun j hj => by rw [h j hj, Bool.true_or, Bool.true_or]) hf

end Sys2Proof.Machine
end

section
/-! How the work of an entry runs: a meaning that gives a value and changes nothing but FFLAGS and the generator, and a loop that does a
tile's positions one after the other (R18, R80, R83). -/

namespace Sys2Proof.Machine

variable {α β : Type} {q : State} {c : VConf} {w n N : Nat} {det : Prop}

/-! ## Flags and vector registers -/

/-- The state with the flags `fl` taken into FFLAGS, and with the vector registers v. -/
def State.worked (s : State) (fl : Flags) (v : VecRegs) : State :=
  { s with hart := { s.hart with sys := { s.hart.sys with fflags := s.hart.sys.fflags ||| fl }, vec := v } }

theorem flags_or_zero (fl : Flags) : fl ||| 0 = fl := BitVec.or_zero

theorem flags_zero_or (fl : Flags) : 0 ||| fl = fl := BitVec.zero_or

theorem worked_self (s : State) : s.worked 0 s.hart.vec = s := by
  unfold State.worked
  rw [flags_or_zero]

theorem worked_flags (s : State) (fl fl' : Flags) (v v' : VecRegs) : (s.worked fl v).worked fl' v' = s.worked (fl ||| fl') v' := by
  unfold State.worked
  dsimp only
  rw [BitVec.or_assoc]

/-- The flags that some positions raise are those of all positions, where the others raise none. -/
theorem flagsOver_filter (n : Nat) (act : Nat → Bool) (fl : Nat → Flags) :
    flagsOver n act fl = flagsOver n (fun _ => true) fun j => if act j then fl j else 0 := by
  induction n with
  | zero => rfl
  | succ n ih =>
    rw [flagsOver_succ, ← ih]
    unfold flagsOver
    rw [List.range_succ, List.filter_append, List.foldl_append]
    by_cases h : act n = true
    · rw [List.filter_singleton, h]
      rfl
    · rw [List.filter_singleton, Bool.eq_false_iff.2 h]
      exact BitVec.or_zero.symm

theorem flagsOver_congr {act : Nat → Bool} {fl fl' : Nat → Flags} (h : ∀ j < n, act j = true → fl j = fl' j) :
    flagsOver n act fl = flagsOver n act fl' := by
  rw [flagsOver_filter n act fl, flagsOver_filter n act fl']
  induction n with
  | zero => rfl
  | succ n ih =>
    rw [flagsOver_succ, flagsOver_succ, ih fun j hj => h j (by omega)]
    exact congrArg _ (if_ctx_congr Iff.rfl (h n (by omega)) fun _ => rfl)

theorem flagsOver_none {act : Nat → Bool} {fl : Nat → Flags} (h : ∀ j < n, act j = true → fl j = 0) : flagsOver n act fl = 0 := by
  rw [flagsOver_congr (fl' := fun _ => 0) h, flagsOver_filter]
  induction n with
  | zero => rfl
  | succ n ih => rw [flagsOver_succ, ih fun j hj => h j (by omega)]; exact (congrArg _ (ite_self _)).trans BitVec.or_zero

/-! ## Values -/

/-- Run in q with any flags and vector registers, the meaning completes with a value x and flags fl of which P holds, takes the flags into
FFLAGS, and changes nothing else but the generator. -/
def Yields (q : State) (m : M α) (P : α → Flags → Prop) : Prop :=
  ∀ fl v, ∃ x fl' g, m.exec (q.worked fl v) = (.ok x, q.worked (fl ||| fl') { v with gen := g }) ∧ P x fl'

/-- The value with its flags is r, unless they depend on the generator: they do not where `det` holds (R80). -/
def Gives (q : State) (det : Prop) (m : M α) (r : α × Flags) : Prop := Yields q m fun x fl => det → (x, fl) = r

theorem Yields.mono {m : M α} {P Q : α → Flags → Prop} (h : Yields q m P) (himp : ∀ x fl, P x fl → Q x fl) : Yields q m Q :=
  fun fl v =>
    let ⟨x, fl', g, hexec, hP⟩ := h fl v
    ⟨x, fl', g, hexec, himp x fl' hP⟩

theorem yields_bind {m : M α} {f : α → M β} {P : α → Flags → Prop} {Q : β → Flags → Prop} (hm : Yields q m P)
    (hf : ∀ x fl, P x fl → Yields q (f x) fun y fl' => Q y (fl ||| fl')) : Yields q (m >>= f) Q := fun fl v => by
  obtain ⟨x, fl₁, g₁, hx, hP⟩ := hm fl v
  obtain ⟨y, fl₂, g₂, hy, hQ⟩ := hf x fl₁ hP (fl ||| fl₁) { v with gen := g₁ }
  exact ⟨y, fl₁ ||| fl₂, g₂, by rw [exec_bind_ok hx, hy, BitVec.or_assoc], hQ⟩

theorem yields_pure {x : α} {P : α → Flags → Prop} (hP : P x 0) : Yields q (pure x : M α) P := fun fl v =>
  ⟨x, 0, v.gen, by rw [flags_or_zero]; rfl, hP⟩

theorem gives_pure (q : State) (det : Prop) (x : α) : Gives q det (pure x : M α) (x, 0) := yields_pure fun _ => rfl

theorem gives_bind {m : M α} {f : α → M β} {r : α × Flags} {r' : α → β × Flags} (hm : Gives q det m r)
    (hf : ∀ x, Gives q det (f x) (r' x)) : Gives q det (m >>= f) ((r' r.1).1, r.2 ||| (r' r.1).2) :=
  yields_bind hm fun x fl hx => (hf x).mono fun y fl' hy hdet => by
    obtain rfl := hx hdet
    rw [← hy hdet]

theorem gives_setFlags (q : State) (det : Prop) (fl : Flags) : Gives q det (setFlags fl) ((), fl) := fun fl₀ v =>
  ⟨(), fl, v.gen, by rw [← worked_flags q fl₀ fl v]; rfl, fun _ => rfl⟩

theorem gives_flagged (q : State) (det : Prop) (r : Rounded) : Gives q det (flagged r) r := by
  have h := gives_bind (gives_setFlags q det r.2) fun _ => gives_pure q det r.1
  rwa [flags_or_zero] at h

/-- Only under FRM 4 the generator advances and gives a random word (R80). -/
theorem gives_stepGen (q : State) (frm : BitVec 3) : Gives q (frm ≠ 4) (stepGen frm) (0, 0) := fun fl v => by
  by_cases h : frm = 4
  · refine ⟨(genStep v.gen).toNat / 65536, 0, genStep v.gen, ?_, fun hdet => absurd h hdet⟩
    unfold stepGen
    rw [if_pos h, flags_or_zero]
    rfl
  · refine ⟨0, 0, v.gen, ?_, fun _ => rfl⟩
    unfold stepGen
    rw [if_neg h, flags_or_zero]
    rfl

theorem gives_vrnd (q : State) (frm : BitVec 3) (f : Fmt) (sat : Bool) (x : Ex) :
    Gives q (frm ≠ 4) (vrnd frm f sat x) (f.rnd frm.toNat 0 sat x) := by
  have h := gives_bind (gives_stepGen q frm) fun u => gives_flagged q (frm ≠ 4) (f.rnd frm.toNat u sat x)
  rwa [flags_zero_or] at h

/-- A result that has flags of its own, rounded (R83). -/
theorem gives_rounded (q : State) (frm : BitVec 3) (f : Fmt) (r : Ex × Flags) :
    Gives q (frm ≠ 4) (do setFlags r.2; vrnd frm f false r.1)
      ((f.rnd frm.toNat 0 false r.1).1, r.2 ||| (f.rnd frm.toNat 0 false r.1).2) :=
  gives_bind (gives_setFlags q _ r.2) fun _ => gives_vrnd q frm f false r.1

/-! ## Positions -/

theorem Act.apply_streams (a : Act) (p : Nat × Nat) (v : VecRegs) : (a.apply w p v).streams = v.streams := by
  cases a <;> rfl

theorem streamAt_congr {v v' : VecRegs} (h : v'.streams = v.streams) (row : Nat) : streamAt v' row = streamAt v row := by
  unfold streamAt
  rw [h]

/-- Run in q with any flags, and any vector registers with the streams of q, the meaning does an action at the position p and raises flags,
of which P holds, and changes nothing else but the generator. -/
def Acts (q : State) (w : Nat) (p : Nat × Nat) (m : M Unit) (P : Act → Flags → Prop) : Prop :=
  ∀ fl v, v.streams = q.hart.vec.streams →
    ∃ a fl' g, m.exec (q.worked fl v) = (.ok (), q.worked (fl ||| fl') { a.apply w p v with gen := g }) ∧ P a fl'

theorem acts_bind {p : Nat × Nat} {m : M α} {f : α → M Unit} {P : α → Flags → Prop} {Q : Act → Flags → Prop} (hm : Yields q m P)
    (hf : ∀ x fl, P x fl → Acts q w p (f x) fun a fl' => Q a (fl ||| fl')) : Acts q w p (m >>= f) Q := fun fl v hv => by
  obtain ⟨x, fl₁, g₁, hx, hP⟩ := hm fl v
  obtain ⟨a, fl₂, g₂, ha, hQ⟩ := hf x fl₁ hP (fl ||| fl₁) { v with gen := g₁ } hv
  exact ⟨a, fl₁ ||| fl₂, g₂, by rw [exec_bind_ok hx, ha, BitVec.or_assoc, Act.apply_gen], hQ⟩

theorem Acts.mono {p : Nat × Nat} {m : M Unit} {P Q : Act → Flags → Prop} (h : Acts q w p m P) (himp : ∀ a fl, P a fl → Q a fl) :
    Acts q w p m Q := fun fl v hv =>
  let ⟨a, fl', g, hexec, hP⟩ := h fl v hv
  ⟨a, fl', g, hexec, himp a fl' hP⟩

/-- An action that raises no flag. -/
theorem acts_of_apply {p : Nat × Nat} {m : M Unit} {P : Act → Flags → Prop} (a : Act) (hP : P a 0)
    (h : ∀ fl v, v.streams = q.hart.vec.streams → m.exec (q.worked fl v) = (.ok (), q.worked fl (a.apply w p v))) : Acts q w p m P :=
  fun fl v hv => ⟨a, 0, (a.apply w p v).gen, by rw [h fl v hv, flags_or_zero], hP⟩

theorem exec_forN_succ {f : Nat → M Unit} {t : State} {s : State} (h : (forN n f).exec s = (.ok (), t)) :
    (forN (n + 1) f).exec s = (f n).exec t := by
  have hfrom (k m : Nat) {s : State} (h : (forFrom m k f).exec s = (.ok (), t)) :
      (forFrom (m + 1) k f).exec s = (f (k + m)).exec t := by
    induction m generalizing k s with
    | zero =>
      obtain rfl : s = t := congrArg Prod.snd h
      rw [forFrom, exec_bind]
      rcases (f k).exec s with ⟨_ | _, u⟩ <;> rfl
    | succ m ih =>
      rw [forFrom] at h ⊢
      rw [exec_bind] at h ⊢
      rcases hk : (f k).exec s with ⟨e | x, u⟩
      · rw [hk] at h
        cases h
      · rw [hk] at h
        dsimp only at h ⊢
        rw [ih (k + 1) h, Nat.add_assoc, Nat.add_comm 1 m]
  have := hfrom 0 n h
  rwa [Nat.zero_add] at this

/-- A loop whose rounds each do a position does them all. -/
theorem exec_forN_acts {pos : Nat → Nat × Nat} {body : Nat → M Unit} {P : Nat → Act → Flags → Prop}
    (h : ∀ j < n, Acts q w (pos j) (body j) (P j)) (fl : Flags) {v : VecRegs} (hv : v.streams = q.hart.vec.streams) :
    ∃ act fls g, (forN n body).exec (q.worked fl v) =
        (.ok (), q.worked (fl ||| flagsOver n (fun _ => true) fls) { acted w pos act n v with gen := g }) ∧
      ∀ j < n, P j (act j) (fls j) := by
  induction n with
  | zero => exact ⟨fun _ => .skip, fun _ => 0, v.gen, by rw [show flagsOver 0 _ _ = 0 from rfl, flags_or_zero]; rfl, fun j hj =>
      absurd hj (Nat.not_lt_zero j)⟩
  | succ n ih =>
    obtain ⟨act, fls, g, hexec, hP⟩ := ih fun j hj => h j (Nat.lt_succ_of_lt hj)
    have hstreams : (acted w pos act n v).streams = v.streams := by
      clear hexec hP ih
      induction n with
      | zero => rfl
      | succ n ih => rw [acted_succ, Act.apply_streams, ih fun j hj => h j (Nat.lt_succ_of_lt hj)]
    obtain ⟨a, fl', g', ha, hPa⟩ := h n (Nat.lt_succ_self n) (fl ||| flagsOver n (fun _ => true) fls)
      { acted w pos act n v with gen := g } (hstreams.trans hv)
    have hact : ∀ j < n, Function.update act n a j = act j := fun j hj => Function.update_of_ne (Nat.ne_of_lt hj) ..
    have hfls : ∀ j < n, Function.update fls n fl' j = fls j := fun j hj => Function.update_of_ne (Nat.ne_of_lt hj) ..
    refine ⟨Function.update act n a, Function.update fls n fl', g', ?_, fun j hj => ?_⟩
    · rw [exec_forN_succ hexec, ha, flagsOver_succ, flagsOver_congr fun j hj _ => hfls j hj, acted_succ, acted_congr hact,
        Function.update_self, Function.update_self, Act.apply_gen, BitVec.or_assoc]
    · rcases Nat.lt_succ_iff_lt_or_eq.1 hj with hlt | rfl
      · rw [hact j hlt, hfls j hlt]
        exact hP j hlt
      · rwa [Function.update_self, Function.update_self]

/-- What a meaning gives for a position, with its flags; whether it gives a value is known even where the value is not. -/
def GivesOpt (q : State) (det : Prop) (m : M (Option Nat)) (r : Option Nat × Flags) : Prop :=
  Yields q m fun o fl => o.isSome = r.1.isSome ∧ (det → (o, fl) = r)

theorem givesOpt_of_gives {m : M Nat} {r : Rounded} (h : Gives q det m r) :
    GivesOpt q det (do let x ← m; pure (some x)) (some r.1, r.2) :=
  yields_bind h fun x fl hx => yields_pure ⟨rfl, fun hdet => by
    rw [flags_or_zero]
    obtain rfl := hx hdet
    rfl⟩

theorem givesOpt_pure (q : State) (det : Prop) (o : Option Nat) : GivesOpt q det (pure o) (o, 0) := yields_pure ⟨rfl, fun _ => rfl⟩

/-- A position takes a value where it is active (R18). -/
theorem givesOpt_active {act : Bool} {m : M Nat} {r : Rounded} (h : act = true → Gives q det m r) :
    GivesOpt q det (if act then do let x ← m; pure (some x) else pure none)
      (if act then some r.1 else none, if act then r.2 else 0) := by
  cases act with
  | false => exact givesOpt_pure q det none
  | true => exact givesOpt_of_gives (h rfl)

/-! ## Writing a tile -/

/-- None of `rows` rows from row n on is bound to a stream (R194). -/
def Free (c : VConf) (q : State) (n rows : Nat) : Prop := ∀ k < rows, streamAt q.hart.vec (c.vwb.toNat + n + k) = none

theorem Free.tileStart {rows t : Nat} (h : Free c q n rows) (ht : t < rows) :
    streamAt q.hart.vec (c.vwb.toNat + tileStart c n t) = none := by
  have hle := Nat.div_mul_le_self t c.rcN
  have := h (t / c.rcN * c.rcN) (by omega)
  rwa [Nat.add_assoc] at this

section

variable {rows t i j : Nat} (hfree : Free c q n rows)

include hfree

theorem exec_wrAt_free (ht : t < rows) (x : Nat) (fl : Flags) {v : VecRegs} (hv : v.streams = q.hart.vec.streams) :
    (wrAt c n t i w x).exec (q.worked fl v) =
      (.ok (), q.worked fl (putElem v (c.vwb.toNat + n + t) i w (x % 2 ^ w))) := by
  unfold wrAt
  rw [exec_modVec]
  change (_, q.worked fl _) = _
  rw [show streamAt (q.worked fl v).hart.vec _ = none from (streamAt_congr hv _).trans (hfree.tileStart ht)]
  rfl

theorem exec_clearAt_free (ht : t < rows) (i : Nat) (fl : Flags) {v : VecRegs} (hv : v.streams = q.hart.vec.streams) :
    (clearAt c n t).exec (q.worked fl v) = (.ok (), q.worked fl (Act.pass.apply w (c.vwb.toNat + n + t, i) v)) := by
  unfold clearAt
  rw [exec_bind_ok (exec_getHart _), show streamAt (q.worked fl v).hart.vec _ = none from
    (streamAt_congr hv _).trans (hfree.tileStart ht)]
  rfl

theorem acts_wrAt (ht : t < rows) (x : Nat) {P : Act → Flags → Prop} (hP : P (.write (x % 2 ^ w)) 0) :
    Acts q w (c.vwb.toNat + n + t, i) (wrAt c n t i w x) P :=
  acts_of_apply _ hP fun fl _ hv => exec_wrAt_free hfree ht x fl hv

/-- What a position takes: a value, or nothing (R18). -/
theorem acts_put (hj : j < rows * c.vlN) (o : Option Nat) {P : Act → Flags → Prop} : P (actOf c c.est w o j) 0 →
    Acts q w (flatPos c n j) (match o with | some x => wrW c n w j x | none => maskedW c n w j) P := by
  intro hP
  have ht : j / c.vlN < rows := Nat.div_lt_of_lt_mul (Nat.mul_comm rows c.vlN ▸ hj)
  cases o with
  | some x => exact acts_wrAt hfree ht x hP
  | none =>
    refine acts_of_apply _ hP fun fl v hv => ?_
    unfold maskedW actOf
    dsimp only
    by_cases hest : j < c.est
    · rw [if_pos hest, if_pos hest]
      rfl
    · rw [if_neg hest, if_neg hest]
      by_cases hm : c.maskmode = 1
      · rw [if_pos hm, if_pos hm]
        refine (exec_wrAt_free hfree ht 0 fl hv).trans ?_
        rw [Nat.zero_mod]
        rfl
      · rw [if_neg hm, if_neg hm]
        exact exec_clearAt_free hfree ht (j % c.vlN) fl hv

end

/-- A tile whose positions each take a value or nothing (R18): what it takes, and the flags raised, are those of its positions. -/
theorem exec_putTileW {f : Nat → M (Option Nat)} {r : Nat → Option Nat × Flags} (hfree : Free c q n c.rcN)
    (hf : ∀ j < c.count, GivesOpt q det (f j) (r j)) (fl : Flags) {v : VecRegs} (hv : v.streams = q.hart.vec.streams) :
    ∃ (o : Nat → Option Nat) (fls : Nat → Flags) (g : BitVec 32), (putTileW c n w f).exec (q.worked fl v) =
        (.ok (), q.worked (fl ||| flagsOver c.count (fun _ => true) fls)
        { acted w (flatPos c n) (fun j => actOf c c.est w (o j) j) c.count v with gen := g }) ∧
      ∀ j < c.count, (o j).isSome = (r j).1.isSome ∧ (det → (o j, fls j) = r j) := by
  have hacts (j : Nat) (hj : j < c.count) : Acts q w (flatPos c n j)
      (do match ← f j with | some x => wrW c n w j x | none => maskedW c n w j)
      fun a fl => ∃ o, a = actOf c c.est w o j ∧ o.isSome = (r j).1.isSome ∧ (det → (o, fl) = r j) :=
    acts_bind (hf j hj) fun o fl ho => by
      refine acts_put hfree hj o ?_
      exact ⟨o, rfl, ho.1, by rw [flags_or_zero]; exact ho.2⟩
  obtain ⟨act, fls, g, hexec, hP⟩ := exec_forN_acts hacts fl hv
  choose! o ho using hP
  refine ⟨o, fls, g, ?_, fun j hj => (ho j hj).2⟩
  rw [← acted_congr fun j hj => (ho j hj).1]
  exact hexec

end Sys2Proof.Machine
end

section
/-! Entries whose operands are plain rows (R23, R194): their checks pass, their work runs, and they retire. -/

namespace Sys2Proof.Machine

variable {α : Type} {s q t u : State} {c : VConf} {w n N : Nat} {det : Prop} {m : BitVec 1} {a d : BitVec 7} {b : VSrc}

/-! ## Operands in rows that no stream serves -/

/-- The rows of an operand lie in the allotment and are bound to no stream (R31, R194). -/
structure PlainOpnd (c : VConf) (s : State) (o : Opnd) : Prop where
  rows : 1 ≤ o.rows
  inside : o.first + o.rows - 1 ≤ 127 ∧ c.vwb.toNat + o.first + o.rows - 1 < s.hart.sys.rowsN.toNat
  unbound : ∀ k < o.rows, streamAt s.hart.vec (c.vwb.toNat + o.first + k) = none

section

variable {o : Opnd} (h : PlainOpnd c s o)

include h

theorem PlainOpnd.first : streamAt s.hart.vec (c.vwb.toNat + o.first) = none := h.unbound 0 h.rows

theorem PlainOpnd.checkUse (et n : Nat) : (checkUse c et n o).exec s = (.ok (), s) := by
  have hrest : ((List.range o.rows).any fun k => (streamAt s.hart.vec (c.vwb.toNat + o.first + k)).isSome) = false := by
    rw [List.any_eq_false]
    intro k hk
    rw [h.unbound k (List.mem_range.1 hk)]
    exact Bool.false_ne_true
  unfold Machine.checkUse
  rw [exec_bind_ok (exec_getHart s)]
  dsimp only
  rw [h.first]
  dsimp only
  rw [hrest]
  rfl

theorem PlainOpnd.checkErrors (hbad : s.hart.vec.badRows = []) : (checkErrors c o).exec s = (.ok (), s) := by
  have hnone : ((List.range o.rows).find? fun _ => false) = none := by
    rw [List.find?_eq_none]
    exact fun _ _ => Bool.false_ne_true
  unfold Machine.checkErrors
  rw [exec_bind_ok (exec_getHart s)]
  dsimp only
  rw [h.first]
  dsimp only
  split
  · rfl
  · rw [hbad]
    simp only [List.any_nil, hnone]
    rfl

theorem PlainOpnd.needStreamRoom (n : Nat) : (needStreamRoom c n o).exec s = (.ok (), s) := by
  unfold Machine.needStreamRoom
  rw [exec_bind_ok (exec_getHart s), h.first]
  split
  · next hst => cases hst
  · rfl

theorem PlainOpnd.loadStrip (w n : Nat) : (loadStrip c w n o).exec s = (.ok (), s) := by
  unfold Machine.loadStrip
  rw [exec_bind_ok (exec_getHart s), h.first]
  split
  · next hst => cases hst
  · rfl

end

theorem mem_of_mem_dedupOpnds {o : Opnd} {os : List Opnd} (h₀ : o ∈ dedupOpnds os) : o ∈ os := by
  have hfold (acc : List Opnd) (h : o ∈ os.foldl (fun acc o =>
      if acc.any (fun p => p.first == o.first && p.use == o.use) then acc else acc ++ [o]) acc) : o ∈ acc ∨ o ∈ os := by
    clear h₀
    induction os generalizing acc with
    | nil => exact .inl h
    | cons x xs ih =>
      rw [List.foldl_cons] at h
      rcases ih _ h with hacc | hxs
      · split at hacc
        · exact .inl hacc
        · rcases List.mem_append.1 hacc with hacc | hx
          · exact .inl hacc
          · exact .inr (List.mem_singleton.1 hx ▸ List.mem_cons_self)
      · exact .inr (List.mem_cons_of_mem x hxs)
  exact (hfold [] h₀).resolve_left List.not_mem_nil

section

variable {os : List Opnd} {body : M Unit} {et : Nat} (hplain : ∀ o ∈ os, PlainOpnd c q o) (hbad : q.hart.vec.badRows = [])

include hplain hbad

theorem exec_prepareOpnds_plain : (prepareOpnds c n et os).exec q = (.ok (), q) := by
  unfold prepareOpnds
  rw [exec_bind_ok (exec_foldlM_pure fun o h => exec_checkRowsNat_ok (hplain o h).inside),
    exec_bind_ok (exec_foldlM_pure fun o h => (hplain o h).checkUse _ _),
    exec_bind_ok (exec_foldlM_pure fun o h => (hplain o h).checkErrors hbad),
    exec_bind_ok (exec_foldlM_pure fun o h => (hplain o h).needStreamRoom _)]
  exact exec_foldlM_pure fun o h => (hplain o h).loadStrip _ _

omit hbad in
/-- No operand has a stream to retire. -/
theorem filter_bound_plain : ((dedupOpnds os).filter fun o => (streamAt q.hart.vec (c.vwb.toNat + o.first)).isSome) = [] :=
  List.filter_eq_nil_iff.2 fun o ho => by
    rw [(hplain o (mem_of_mem_dedupOpnds ho)).first]
    exact Bool.false_ne_true

/-- The work of an entry on plain rows: nothing before and after it but that the strips are dropped. -/
theorem exec_vrunN_ok (h : body.exec q = (.ok (), t)) :
    (vrunN c n et os body).exec q =
      (.ok (), { t with hart := { t.hart with vec := { t.hart.vec with strips := [], outs := [] } } }) := by
  unfold vrunN
  rw [exec_bind_ok (exec_prepareOpnds_plain hplain hbad), exec_bind_ok (exec_get q)]
  dsimp only
  rw [filter_bound_plain hplain, exec_bind_ok (exec_attempt body q), h]
  rfl

/-- An entry on plain rows that stops leaves what its work left. -/
theorem exec_vrunN_error {e : Stop} (h : body.exec q = (.error e, t)) : (vrunN c n et os body).exec q = (.error e, t) := by
  unfold vrunN
  rw [exec_bind_ok (exec_prepareOpnds_plain hplain hbad), exec_bind_ok (exec_get q)]
  dsimp only
  rw [filter_bound_plain hplain, exec_bind_ok (exec_attempt body q), h]
  dsimp only
  rw [exec_bind_ok (exec_getHart t)]
  split
  · rfl
  · rfl

end

/-! ## The operands of a tile instruction -/

theorem PlainRows.opnd (h : PlainRows s n N) (hN : 1 ≤ N) (e : Entry) (field : BitVec 7) (use : Use) (strips span : Nat) :
    PlainOpnd s.hart.cfg (s.queued e) ⟨field, n, N, use, strips, span⟩ where
  rows := hN
  inside := by
    rw [queued_sys]
    exact h.1
  unbound k hk := by
    rw [queued_vec, Nat.add_assoc]
    exact h.2 k hk

theorem PlainRows.free (h : PlainRows s n N) (e : Entry) : Free s.hart.cfg (s.queued e) n N := fun k hk => by
  rw [queued_vec, Nat.add_assoc]
  exact h.2 k hk

theorem plainOpnd_opndsOf (hb : VSrcOk s b) (hrc : 1 ≤ s.hart.cfg.rcN) (e : Entry) :
    ∀ o ∈ opndsOf s.hart.cfg b, PlainOpnd s.hart.cfg (s.queued e) o := by
  cases b with
  | vv n => exact List.forall_mem_singleton.2 (PlainRows.opnd hb hrc e ..)
  | vs _ => exact fun _ h => absurd h List.not_mem_nil
  | vi _ => exact fun _ h => absurd h List.not_mem_nil
  | vl _ => exact fun _ h => absurd h List.not_mem_nil

/-- The rows of b are bound to no stream. -/
theorem unbound_rowsOf (hb : VSrcOk s b) (hrc : 1 ≤ s.hart.cfg.rcN) :
    ∀ n ∈ rowsOf b, streamAt s.hart.vec (s.hart.cfg.vwb.toNat + n.toNat) = none := by
  cases b with
  | vv n => exact List.forall_mem_singleton.2 (hb.2 0 hrc)
  | vs _ => exact fun _ h => absurd h List.not_mem_nil
  | vi _ => exact fun _ h => absurd h List.not_mem_nil
  | vl _ => exact fun _ h => absurd h List.not_mem_nil

/-! ## Sources -/

section

variable {srcs : List (BitVec 7)} (hsrcs : ∀ n ∈ srcs, streamAt q.hart.vec (c.vwb.toNat + n.toNat) = none)

include hsrcs

theorem exec_sources_plain (m : BitVec 1) : (sources c m srcs).exec q =
    (.ok (q.hart.vec, activeIn c m (predOf q.hart.vec c.psel.toNat)), q) := by
  have hact : (fun j => activeIn c m (predOf q.hart.vec c.psel.toNat) j && srcs.all fun n => inStrip q.hart.vec c n j) =
      activeIn c m (predOf q.hart.vec c.psel.toNat) := by
    funext j
    rw [List.all_eq_true.2 fun n hn => inStrip_unbound (hsrcs n hn) j, Bool.and_true]
  unfold sources
  rw [exec_bind_ok (exec_getHart q)]
  dsimp only
  rw [hact]
  rfl

theorem anyPadded_plain (j : Nat) : anyPadded q.hart.vec c srcs j = false := by
  unfold anyPadded
  rw [List.any_eq_false]
  intro n hn
  rw [padded_unbound (hsrcs n hn)]
  exact Bool.false_ne_true

/-- Nothing is padded: b is read in the ordinary way. -/
theorem prepActive_plain (e : Entry) (b : VSrc) (act : Nat → Bool) : prepActive c e q.hart.vec b srcs act =
    prepB c e q.hart.vec b ((List.range c.count).any act) := by
  have hquiet : ((List.range c.count).any act && (List.range c.count).all fun j => !act j || anyPadded q.hart.vec c srcs j) = false := by
    by_contra h
    rw [Bool.not_eq_false, Bool.and_eq_true, List.any_eq_true, List.all_eq_true] at h
    obtain ⟨⟨j, hj, hact⟩, hall⟩ := h
    have := hall j hj
    rw [hact, anyPadded_plain hsrcs] at this
    exact absurd this (by decide)
  unfold prepActive
  dsimp only
  rw [hquiet]
  rfl

end

/-! ## The b operand -/

/-- A captured value as a pattern of ETYPE, with the flags of its conversion (R18). -/
def converted (c : VConf) (x : Nat) : Rounded :=
  if c.et < 5 then (x % 2 ^ c.width, 0)
  else if c.et = 5 then (x % 2 ^ 32, 0)
  else (fmtOf c.et).rnd c.frm.toNat 0 false (v32 (x % 2 ^ 32))

theorem gives_convertScalar (q : State) (het : c.et < 8) (x : Nat) :
    Gives q (c.frm ≠ 4 ∨ c.et < 6) (convertScalar c x) (converted c x) := by
  unfold convertScalar converted isIntType
  by_cases h5 : c.et < 5
  · rw [if_pos (decide_eq_true h5), if_pos h5]
    exact gives_pure q _ _
  · rw [if_neg (mt of_decide_eq_true h5), if_neg h5]
    by_cases he : c.et = 5
    · rw [if_pos he, if_pos he]
      exact gives_pure q _ _
    · have h67 : (c.et = 6 || c.et = 7) = true := by
        rw [Bool.or_eq_true, decide_eq_true_iff, decide_eq_true_iff]
        omega
      rw [if_neg he, if_neg he, if_pos h67]
      exact (gives_vrnd q _ _ _ _).mono fun x fl h hdet => h (hdet.resolve_right (by omega))

theorem ite_bind_same {α β : Type} (p : Bool) (x y : M α) (f : α → M β) : (if p then x >>= f else y >>= f) = (if p then x else y) >>= f := by
  cases p <;> rfl

/-- The conversion of a captured value, made once, where some position needs it. -/
theorem yields_convertOnce (q : State) (het : c.et < 8) (any : Bool) (x : Nat) :
    Yields q (if any then convertScalar c x else pure 0) fun y fl => c.frm ≠ 4 ∨ c.et < 6 →
      (any = true → y = (converted c x).1) ∧ fl = if any then (converted c x).2 else 0 := by
  cases any with
  | false => exact yields_pure fun _ => ⟨fun h => absurd h Bool.false_ne_true, rfl⟩
  | true => exact (gives_convertScalar q het x).mono fun y fl hy hdet => by rw [← hy hdet]; exact ⟨fun _ => rfl, rfl⟩

theorem converted_fst (c : VConf) (x : Nat) : (converted c x).1 = if c.et < 5 then x % 2 ^ c.width
    else if c.et = 5 then x % 2 ^ 32
    else ((fmtOf c.et).rnd c.frm.toNat 0 false (v32 (x % 2 ^ 32))).1 := by
  unfold converted
  split
  · rfl
  · split <;> rfl

theorem converted_flags (het : c.et < 8) (any : Bool) (x : Nat) : (if any then (converted c x).2 else 0) =
    if (c.et = 6 ∨ c.et = 7) ∧ any then ((fmtOf c.et).rnd c.frm.toNat 0 false (v32 (x % 2 ^ 32))).2 else 0 := by
  have hown : (converted c x).2 = if c.et = 6 ∨ c.et = 7 then
      ((fmtOf c.et).rnd c.frm.toNat 0 false (v32 (x % 2 ^ 32))).2 else 0 := by
    unfold converted
    by_cases h67 : c.et = 6 ∨ c.et = 7
    · rw [if_neg (by omega), if_neg (by omega), if_pos h67]
    · rw [if_neg h67]
      by_cases h5 : c.et < 5
      · rw [if_pos h5]
      · rw [if_neg h5, if_pos (by omega)]
  rw [hown, ← ite_and]
  exact if_congr And.comm rfl rfl

theorem bElem_scalar (n : BitVec 7) (j : Nat) : bElem s (.vs n) j = (converted s.hart.cfg (scalarVal s.hart n).toNat).1 :=
  (converted_fst ..).symm

theorem bFlags_scalar (het : s.hart.cfg.et < 8) (n : BitVec 7) : bFlags s (.vs n) m =
    if (List.range s.hart.cfg.count).any (activeAt s m) then (converted s.hart.cfg (scalarVal s.hart n).toNat).2 else 0 :=
  (converted_flags het ..).symm

theorem bElem_literal (lit : BitVec 32) (j : Nat) : bElem s (.vl lit) j = (converted s.hart.cfg lit.toNat).1 := (converted_fst ..).symm

theorem bFlags_literal (het : s.hart.cfg.et < 8) (lit : BitVec 32) : bFlags s (.vl lit) m =
    if (List.range s.hart.cfg.count).any (activeAt s m) then (converted s.hart.cfg lit.toNat).2 else 0 :=
  (converted_flags het ..).symm

/-- The value of b at every position, and the flags of its conversion, where some position is active. -/
theorem yields_prepB {e : Entry} (he : e.b0 = ((capOf b).values s.hart).1) (het : s.hart.cfg.et < 8) (hq : q.hart.vec = s.hart.vec) :
    Yields q (prepB s.hart.cfg e q.hart.vec b ((List.range s.hart.cfg.count).any (activeAt s m))) fun y fl =>
      s.hart.cfg.frm ≠ 4 ∨ s.hart.cfg.et < 6 →
        (∀ j < s.hart.cfg.count, activeAt s m j = true → y j = bElem s b j) ∧ fl = bFlags s b m := by
  have hscalar (x : Nat) : Yields q (do
      let x ← if (List.range s.hart.cfg.count).any (activeAt s m) then convertScalar s.hart.cfg x else pure 0
      pure fun _ : Nat => x) fun y fl => s.hart.cfg.frm ≠ 4 ∨ s.hart.cfg.et < 6 →
        (∀ j < s.hart.cfg.count, activeAt s m j = true → y j = (converted s.hart.cfg x).1) ∧
          fl = if (List.range s.hart.cfg.count).any (activeAt s m) then (converted s.hart.cfg x).2 else 0 := by
    dsimp only
    rw [ite_bind_same]
    refine yields_bind (yields_convertOnce q het _ x) fun y fl hy => yields_pure fun hdet => ?_
    obtain ⟨hvalue, rfl⟩ := hy hdet
    exact ⟨fun j hj hact => hvalue (List.any_eq_true.2 ⟨j, List.mem_range.2 hj, hact⟩), flags_or_zero _⟩
  cases b with
  | vv n => exact yields_pure fun _ => ⟨fun j _ _ => by rw [hq]; rfl, rfl⟩
  | vi i => exact yields_pure fun _ => ⟨fun _ _ _ => rfl, rfl⟩
  | vs n =>
    refine (hscalar e.b0.toNat).mono fun y fl hy hdet => ?_
    simp only [bElem_scalar, bFlags_scalar het]
    rw [he] at hy
    exact hy hdet
  | vl lit =>
    refine (hscalar lit.toNat).mono fun y fl hy hdet => ?_
    simp only [bElem_literal, bFlags_literal het]
    exact hy hdet

end Sys2Proof.Machine
end

section
/-! An entry that works on plain rows retires in the step that dispatches it (R25, R26), and what it wrote is a tile (R18). -/

namespace Sys2Proof.Machine

variable {s q t u : State} {c : VConf} {w n N est : Nat} {det : Prop} {m : BitVec 1} {a d : BitVec 7} {b : VSrc}
  {wd lit : BitVec 32} {op : VOp} {perform : Entry → M Unit} {ca cb : Cap} {fl : Flags} {v : VecRegs}

/-! ## Retiring -/

/-- An entry whose work took flags into FFLAGS and changed vector registers retires with that alone. -/
theorem onlyVec_retired (hempty : s.hart.vq = []) (e : Entry) (fl : Flags) (v : VecRegs) :
    OnlyVec s ((s.queued e).worked fl v).retired fl := by
  have hqueue : s.passed.hart.vq = [] := (passed_vq s).trans hempty
  unfold OnlyVec State.retired State.worked
  rw [queued_eq]
  dsimp only [State.withQueue, List.tail_cons]
  rw [passed_sys, passed_cfg, hqueue]

theorem retires_of_exec (hr : Ready s) (hd : Dispatches op s) (hc : op.check = fun _ => pure ())
    (ha : op.atDispatch = fun e => pure e)
    (h : (perform (entryOf s wd lit op.a op.b op.whole)).exec (s.queued (entryOf s wd lit op.a op.b op.whole)) =
      (.ok (), (s.queued (entryOf s wd lit op.a op.b op.whole)).worked fl v)) :
    ∃ t, dispatchV wd lit op perform s = .next t ∧ OnlyVec s t fl ∧ t.hart.vec = { v with strips := [], outs := [] } :=
  ⟨_, dispatchV_done wd lit op perform hr hd hc ha h, onlyVec_retired hr.empty _ fl v, rfl⟩

/-! ## Work on rows -/

/-- Run in q with any flags and state of the generator, the meaning does the positions below N, one after the other, and raises flags, of
which P holds. -/
def Fills (q : State) (w : Nat) (pos : Nat → Nat × Nat) (N : Nat) (m : M Unit) (P : (Nat → Act) → Flags → Prop) : Prop :=
  ∀ fl g, ∃ act fl' g', m.exec (q.worked fl { q.hart.vec with gen := g }) =
    (.ok (), q.worked (fl ||| fl') { acted w pos act N q.hart.vec with gen := g' }) ∧ P act fl'

theorem fills_bind {α : Type} {pos : Nat → Nat × Nat} {m : M α} {f : α → M Unit} {P : α → Flags → Prop}
    {Q : (Nat → Act) → Flags → Prop} (hm : Yields q m P)
    (hf : ∀ x fl, P x fl → Fills q w pos N (f x) fun act fl' => Q act (fl ||| fl')) : Fills q w pos N (m >>= f) Q := fun fl g => by
  obtain ⟨x, fl₁, g₁, hx, hP⟩ := hm fl { q.hart.vec with gen := g }
  obtain ⟨act, fl₂, g₂, ha, hQ⟩ := hf x fl₁ hP (fl ||| fl₁) g₁
  exact ⟨act, fl₁ ||| fl₂, g₂, by rw [exec_bind_ok hx, ha, BitVec.or_assoc], hQ⟩

theorem Fills.mono {pos : Nat → Nat × Nat} {m : M Unit} {P Q : (Nat → Act) → Flags → Prop} (h : Fills q w pos N m P)
    (himp : ∀ act fl, P act fl → Q act fl) : Fills q w pos N m Q := fun fl g =>
  let ⟨act, fl', g', hexec, hP⟩ := h fl g
  ⟨act, fl', g', hexec, himp act fl' hP⟩

/-- The start of the work reads the state and changes nothing. -/
theorem Fills.exec {pos : Nat → Nat × Nat} {m : M Unit} {P : (Nat → Act) → Flags → Prop} (h : Fills q w pos N m P) :
    ∃ act fl g, m.exec q = (.ok (), q.worked fl { acted w pos act N q.hart.vec with gen := g }) ∧ P act fl := by
  obtain ⟨act, fl, g, hexec, hP⟩ := h 0 q.hart.vec.gen
  rw [flags_zero_or] at hexec
  exact ⟨act, fl, g, (congrArg m.exec (worked_self q).symm).trans hexec, hP⟩

theorem fills_forN {pos : Nat → Nat × Nat} {body : Nat → M Unit} {P : Nat → Act → Flags → Prop}
    (h : ∀ j < N, Acts q w (pos j) (body j) (P j)) : Fills q w pos N (forN N body) fun act fl =>
      ∃ fls, fl = flagsOver N (fun _ => true) fls ∧ ∀ j < N, P j (act j) (fls j) := fun fl g => by
  obtain ⟨act, fls, g', hexec, hP⟩ := exec_forN_acts h fl (v := { q.hart.vec with gen := g }) rfl
  rw [acted_gen] at hexec
  exact ⟨act, _, g', hexec, fls, rfl, hP⟩

/-- What a tile takes when it is written: the positions that `out` gives a value take one, and it is that value and `fl` are the flags,
unless they depend on the generator. -/
def TileActs (c : VConf) (w : Nat) (det : Prop) (out : Nat → Option Nat) (flx : Flags) (act : Nat → Act) (fl : Flags) : Prop :=
  ∃ o : Nat → Option Nat, (∀ j < c.count, act j = actOf c c.est w (o j) j ∧ (o j).isSome = (out j).isSome) ∧
    (det → (∀ j < c.count, o j = out j) ∧ fl = flx)

theorem fills_putTileW {f : Nat → M (Option Nat)} {r : Nat → Option Nat × Flags} (hfree : Free c q n c.rcN)
    (hf : ∀ j < c.count, GivesOpt q det (f j) (r j)) :
    Fills q w (flatPos c n) c.count (putTileW c n w f)
      (TileActs c w det (fun j => (r j).1) (flagsOver c.count (fun _ => true) fun j => (r j).2)) := fun fl g => by
  obtain ⟨o, fls, g', hexec, ho⟩ := exec_putTileW (w := w) hfree hf fl (v := { q.hart.vec with gen := g }) rfl
  rw [acted_gen] at hexec
  refine ⟨_, _, g', hexec, o, fun j hj => ⟨rfl, (ho j hj).1⟩, fun hdet => ⟨fun j hj => ?_, flagsOver_congr fun j hj _ => ?_⟩⟩
  · exact congrArg Prod.fst ((ho j hj).2 hdet)
  · exact congrArg Prod.snd ((ho j hj).2 hdet)

theorem Gives.congr {α : Type} {x : M α} {r r' : α × Flags} (h : Gives q det x r) (hr : det → r = r') : Gives q det x r' :=
  h.mono fun _ _ hx hdet => (hx hdet).trans (hr hdet)

/-- Flags that were raised before the tile was written. -/
theorem TileActs.or {out : Nat → Option Nat} {flx fl fl' flb : Flags} {act : Nat → Act} (h : TileActs c w det out flx act fl')
    (hfl : det → fl = flb) : TileActs c w det out (flb ||| flx) act (fl ||| fl') := by
  obtain ⟨o, ho, hvalue⟩ := h
  refine ⟨o, ho, fun hdet => ⟨(hvalue hdet).1, ?_⟩⟩
  rw [hfl hdet, (hvalue hdet).2]

/-- A tile whose active positions take what a meaning gives for them. -/
theorem fills_active {act : Nat → Bool} {x : Nat → M Nat} {r : Nat → Rounded} (hfree : Free c q n c.rcN)
    (hx : ∀ j < c.count, act j = true → Gives q det (x j) (r j)) :
    Fills q w (flatPos c n) c.count (putTileW c n w fun j => if act j then do let y ← x j; pure (some y) else pure none)
      (TileActs c w det (fun j => if act j then some (r j).1 else none) (flagsOver c.count act fun j => (r j).2)) := by
  rw [flagsOver_filter]
  exact fills_putTileW hfree fun j hj => givesOpt_active (hx j hj)

/-- An instruction that only checks its element type dispatches (R416). -/
theorem dispatches_of_etype {types : Nat → Bool} (hr : Ready s) (htypes : types s.hart.cfg.et = true) (hca : CapOk s.hart ca)
    (hcb : CapOk s.hart cb) : Dispatches { etypes := types, a := ca, b := cb } s :=
  ⟨fun h => (by cases h), .inl hr.live, htypes, hca, hcb⟩

/-- The entry e, dispatched in the state s, does the positions below N, one after the other, and raises flags, of which P holds; it leaves
no strips, and changes nothing else. -/
def Works (s : State) (e : Entry) (w : Nat) (pos : Nat → Nat × Nat) (N : Nat) (m : M Unit) (P : (Nat → Act) → Flags → Prop) : Prop :=
  ∃ act fl g, m.exec (s.queued e) =
    (.ok (), (s.queued e).worked fl { acted w pos act N s.hart.vec with gen := g, strips := [], outs := [] }) ∧ P act fl

theorem works_bind {α : Type} {e : Entry} {pos : Nat → Nat × Nat} {P : (Nat → Act) → Flags → Prop} {x : α} {m : M α} {f : α → M Unit}
    (hm : m.exec (s.queued e) = (.ok x, s.queued e)) (hf : Works s e w pos N (f x) P) : Works s e w pos N (m >>= f) P := by
  obtain ⟨act, fl, g, hexec, hP⟩ := hf
  exact ⟨act, fl, g, (exec_bind_ok hm).trans hexec, hP⟩

/-- Work on plain rows, of an entry that began with reading the state. -/
theorem works_vrunN {α : Type} {e : Entry} {pos : Nat → Nat × Nat} {P : (Nat → Act) → Flags → Prop} {os : List Opnd} {et k : Nat}
    {m : M α} {f : α → M Unit} {x : α} (hr : Ready s) (hplain : ∀ o ∈ os, PlainOpnd c (s.queued e) o)
    (hm : m.exec (s.queued e) = (.ok x, s.queued e)) (hf : Fills (s.queued e) w pos N (f x) P) :
    Works s e w pos N (vrunN c k et os (m >>= f)) P := by
  obtain ⟨act, fl, g, hexec, hP⟩ := hf.exec
  refine ⟨act, fl, g, ?_, hP⟩
  rw [queued_vec] at hexec
  exact exec_vrunN_ok hplain (by rw [queued_vec]; exact hr.soundRows) ((exec_bind_ok hm).trans hexec)

theorem retires_of_works {pos : Nat → Nat × Nat} {P : (Nat → Act) → Flags → Prop} (hr : Ready s) (hd : Dispatches op s)
    (hc : op.check = fun _ => pure ()) (ha : op.atDispatch = fun e => pure e)
    (h : Works s (entryOf s wd lit op.a op.b op.whole) w pos N (perform (entryOf s wd lit op.a op.b op.whole)) P) :
    ∃ t act fl, dispatchV wd lit op perform s = .next t ∧ OnlyVec s t fl ∧ ActedVec w pos act N s t ∧ P act fl := by
  obtain ⟨act, fl, g, hexec, hP⟩ := h
  obtain ⟨t, hnext, honly, hvec⟩ := retires_of_exec hr hd hc ha hexec
  exact ⟨t, act, fl, hnext, honly, ⟨g, hvec⟩, hP⟩

/-! ## Tiles -/

/-- The instruction retires in one step; it wrote the tile d at the positions that `out` gives a value, and changed nothing else but
FFLAGS; the values are those of `out` and the flags `flx`, unless they depend on the generator. -/
def WroteTileIf (det : Prop) (s : State) (d : BitVec 7) (w : Nat) (out : Nat → Option Nat)
    (r : Host.Outcome State Fault Refusal) (flx : Flags) : Prop :=
  ∃ t fl, r = .next t ∧ OnlyRows (tileRows s d s.hart.cfg.rcN) s t fl ∧ RowMarks s t d w out ∧ (det → TileIs s t d w out ∧ fl = flx)

theorem WroteTileIf.wroteTile {out : Nat → Option Nat} {r : Host.Outcome State Fault Refusal}
    (h : WroteTileIf det s d w out r fl) (hdet : det) : WroteTile s d w out r fl := by
  obtain ⟨t, fl', hnext, honly, hmarks, hvalue⟩ := h
  obtain ⟨htile, rfl⟩ := hvalue hdet
  exact ⟨t, hnext, honly, htile, hmarks⟩

theorem tileIs_congr_mod {f g : Nat → Option Nat} (h : ∀ j < s.hart.cfg.count, (f j).map (· % 2 ^ w) = (g j).map (· % 2 ^ w))
    (hf : TileIs s t d w f) : TileIs s t d w g := fun j hj => by
  have hget (o : Option Nat) (z : Nat) : (match o with | some x => x % 2 ^ w | none => z) = (o.map (· % 2 ^ w)).getD z := by
    cases o <;> rfl
  exact (hf j hj).trans ((hget (f j) _).trans ((congrArg (Option.getD · _) (h j hj)).trans (hget (g j) _).symm))

/-- Two accounts of a tile whose values agree at its width. -/
theorem WroteTileIf.congr {out out' : Nat → Option Nat} {r : Host.Outcome State Fault Refusal} {flx flx' : Flags}
    (h : WroteTileIf det s d w out r flx)
    (hout : ∀ j < s.hart.cfg.count, (out j).map (· % 2 ^ w) = (out' j).map (· % 2 ^ w)) (hfl : det → flx = flx') :
    WroteTileIf det s d w out' r flx' := by
  obtain ⟨t, fl, hnext, honly, hmarks, hvalue⟩ := h
  refine ⟨t, fl, hnext, honly, rowMarksOf_congr (fun j hj => ?_) hmarks, fun hdet => ?_⟩
  · have := congrArg Option.isSome (hout j hj)
    rwa [Option.isSome_map, Option.isSome_map] at this
  · obtain ⟨htile, hflags⟩ := hvalue hdet
    exact ⟨tileIs_congr_mod hout htile, hflags.trans (hfl hdet)⟩

section

variable {out : Nat → Option Nat} {act : Nat → Act} (hv : ActedVec w (flatPos s.hart.cfg n) act s.hart.cfg.count s t)
  (hbad : s.hart.vec.badRows = []) (hw : ElemWidth w) (hplain : PlainRows s n s.hart.cfg.rcN) (hrc : 1 ≤ s.hart.cfg.rcN)
  (hvl : s.hart.cfg.vlN ≤ 32768 / w)

include hv hbad hw hplain hrc hvl

theorem rowMarksOf_tile {o : Nat → Option Nat} (hact : ∀ j < s.hart.cfg.count, act j = actOf s.hart.cfg est w (o j) j)
    (hsome : ∀ j < s.hart.cfg.count, (o j).isSome = (out j).isSome) : RowMarksOf s t n s.hart.cfg.rcN w est out := by
  refine rowMarksOf_congr hsome (rowMarksOf_acted hv hbad hw (covers_flat s.hart.cfg n s.hart.cfg.rcN) hvl (hplain.first hrc)
    (fun j hj => ?_) fun j hj => ?_)
  · rw [hact j hj]
    exact actOf_writes s est w o j
  · rw [hact j hj]
    exact actOf_touches s.hart.cfg est w (o j) j

theorem tileElem_tile (hact : ∀ j < s.hart.cfg.count, act j = actOf s.hart.cfg est w (out j) j) {j : Nat} (hj : j < s.hart.cfg.count) :
    tileElem t.hart.vec s.hart.cfg.vwb.toNat n (j / s.hart.cfg.vlN) (j % s.hart.cfg.vlN) w =
      match out j with
      | some x => x % 2 ^ w
      | none => if s.hart.cfg.maskmode = 1 ∧ est ≤ j then 0
        else tileElem s.hart.vec s.hart.cfg.vwb.toNat n (j / s.hart.cfg.vlN) (j % s.hart.cfg.vlN) w := by
  refine (tileElem_acted hv hbad hw (covers_flat s.hart.cfg n s.hart.cfg.rcN) hvl (hplain.first hrc) hj).trans ?_
  rw [hact j hj, actOf_value]
  rfl

end

/-- A tile of an entry that took its ESTART from the configuration. -/
theorem wroteTileIf_of_acts {r : Host.Outcome State Fault Refusal} {out : Nat → Option Nat} {flx : Flags} (hr : Ready s)
    (hw : ElemWidth w) (hplain : PlainTile s d) (hrc : 1 ≤ s.hart.cfg.rcN) (hvl : s.hart.cfg.vlN ≤ 32768 / w)
    (h : ∃ t act fl, r = .next t ∧ OnlyVec s t fl ∧ ActedVec w (flatPos s.hart.cfg d.toNat) act s.hart.cfg.count s t ∧
      TileActs s.hart.cfg w det out flx act fl) : WroteTileIf det s d w out r flx := by
  obtain ⟨t, act, fl, hnext, honly, hvec, o, ho, hvalue⟩ := h
  refine ⟨t, fl, hnext, ⟨honly, ?_⟩, ?_, fun hdet => ⟨fun j hj => ?_, (hvalue hdet).2⟩⟩
  · exact onlyRowsOf_covered hvec hr.soundRows hw (covers_flat s.hart.cfg d.toNat s.hart.cfg.rcN) hvl fun r hr => tileRows_of_lt hr
  · exact rowMarksOf_tile hvec hr.soundRows hw hplain hrc hvl (fun j hj => (ho j hj).1) fun j hj => (ho j hj).2
  · exact tileElem_tile hvec hr.soundRows hw hplain hrc hvl
      (fun j hj => ((ho j hj).1).trans (by rw [(hvalue hdet).1 j hj])) hj

/-! ## Element-wise entries (R134) -/

theorem exec_maskVl_of_maskOk (h : MaskOk s m) (q : State) : (maskVl s.hart.cfg m).exec q = (.ok (), q) := by
  unfold maskVl
  split
  · exact exec_trapIf_false (decide_eq_false (Nat.not_lt.2 (h ‹_›))) _ _ q
  · rfl

theorem quietly_false {α : Type} (c : VConf) (x : M α) : quietly c false x = x := rfl

theorem el_eq_elemOf (hq : q.hart.vec = s.hart.vec) (n : BitVec 7) (j : Nat) :
    q.hart.vec.el s.hart.cfg n j = elemOf s n s.hart.cfg.width j := by rw [hq]; rfl

theorem activeIn_eq_activeAt (hq : q.hart.vec = s.hart.vec) :
    activeIn s.hart.cfg m (predOf q.hart.vec s.hart.cfg.psel.toNat) = activeAt s m := by rw [hq]; rfl

/-- What an element-wise entry writes, and the flags that it raises, for an `F` that gives a result with its flags. -/
def eltOut (s : State) (d a : BitVec 7) (b : VSrc) (F : Nat → Nat → Nat → Rounded) (j : Nat) : Rounded :=
  F (elemOf s a s.hart.cfg.width j) (bElem s b j) (elemOf s d s.hart.cfg.width j)

theorem unbound_queued (h : ∀ n ∈ rowsOf b, streamAt s.hart.vec (s.hart.cfg.vwb.toNat + n.toNat) = none)
    (ha : PlainTile s a) (hrc : 1 ≤ s.hart.cfg.rcN) (e : Entry) :
    ∀ n ∈ a :: rowsOf b, streamAt (s.queued e).hart.vec (s.hart.cfg.vwb.toNat + n.toNat) = none := by
  rw [queued_vec]
  exact List.forall_mem_cons.2 ⟨ha.first hrc, h⟩

theorem works_eltwise (hok : TilesOk s m [a, d] b) {f : VConf → Nat → Nat → Nat → M Nat} {F : Nat → Nat → Nat → Rounded}
    {readsD : Bool} {e : Entry} (hcfg : e.cfg = s.hart.cfg) (hb0 : e.b0 = ((capOf b).values s.hart).1) (het : s.hart.cfg.et < 8)
    (hdet : det → s.hart.cfg.frm ≠ 4 ∨ s.hart.cfg.et < 6) (hf : ∀ q x y z, Gives q det (f s.hart.cfg x y z) (F x y z)) :
    Works s e s.hart.cfg.width (flatPos s.hart.cfg d.toNat) s.hart.cfg.count (eltwise d a b m readsD f e)
      (TileActs s.hart.cfg s.hart.cfg.width det (fun j => if activeAt s m j then some (eltOut s d a b F j).1 else none)
        (bFlags s b m ||| flagsOver s.hart.cfg.count (activeAt s m) fun j => (eltOut s d a b F j).2)) := by
  obtain ⟨hr, hmask, htiles, hsrc, hvl, hrc⟩ := hok
  have hplainA := htiles a (by simp)
  have hplainD := htiles d (by simp)
  have hq := queued_vec s e
  have hunbound := unbound_queued (unbound_rowsOf hsrc hrc) hplainA hrc e
  unfold eltwise vrun
  dsimp only
  rw [hcfg]
  refine works_bind (exec_maskVl_of_maskOk hmask _) (works_vrunN hr ?_ (exec_sources_plain hunbound m) ?_)
  · refine List.forall_mem_append.2
      ⟨List.forall_mem_cons.2 ⟨hplainA.opnd hrc _ .., plainOpnd_opndsOf hsrc hrc _⟩, List.forall_mem_singleton.2 ?_⟩
    split <;> exact hplainD.opnd hrc _ ..
  · dsimp only
    rw [prepActive_plain hunbound, activeIn_eq_activeAt hq]
    refine fills_bind (yields_prepB hb0 het hq) fun y fl hy => ?_
    refine (fills_active (det := det) (r := eltOut s d a b F) (hplainD.free e) fun j hj hact => ?_).mono fun act fl' h =>
      h.or fun hdet' => (hy (hdet hdet')).2
    rw [anyPadded_plain hunbound, quietly_false, el_eq_elemOf hq, el_eq_elemOf hq]
    exact (hf _ _ _ _).congr fun hdet' => by rw [(hy (hdet hdet')).1 j hj hact]; rfl

theorem wroteTileIf_eltwise (hok : TilesOk s m [a, d] b) {f : VConf → Nat → Nat → Nat → M Nat} {F : Nat → Nat → Nat → Rounded}
    {readsD : Bool} {types : Nat → Bool} (htypes : types s.hart.cfg.et = true) (het : s.hart.cfg.et < 8)
    (hdet : det → s.hart.cfg.frm ≠ 4 ∨ s.hart.cfg.et < 6) (hf : ∀ q x y z, Gives q det (f s.hart.cfg x y z) (F x y z)) :
    WroteTileIf det s d s.hart.cfg.width (fun j => if activeAt s m j then some (eltOut s d a b F j).1 else none)
      (dispatchV wd lit { etypes := types, b := capOf b } (eltwise d a b m readsD f) s)
      (bFlags s b m ||| flagsOver s.hart.cfg.count (activeAt s m) fun j => (eltOut s d a b F j).2) :=
  wroteTileIf_of_acts hok.ready (elemWidth_widthOf _) (hok.plain d (by simp)) hok.rc hok.vl
    (retires_of_works hok.ready (dispatches_of_etype hok.ready htypes trivial (capOk_capOf hok.src)) rfl rfl
      (works_eltwise hok rfl rfl het hdet hf))

end Sys2Proof.Machine
end

section
/-! Integer vector arithmetic (settles O18). -/

namespace Sys2Proof.Machine

variable {s : State} {m : BitVec 1} {a d : BitVec 7} {b : VSrc} {wd lit : BitVec 32} {et w : Nat}

/-! ## Integers of an element type (R73, R135) -/

theorem wrapBits_eq_takeBits (w : Nat) (x : Int) : wrapBits w x = takeBits w x := (BitVec.toNat_ofInt x).symm

theorem wrapBits_nat (w x : Nat) : wrapBits w (x : Int) = x % 2 ^ w := by
  unfold wrapBits
  rw [← Int.natCast_emod, Int.toNat_natCast]

theorem sgn_eq_toInt (et x : Nat) : sgn et x = (BitVec.ofNat (widthOf et) x).toInt :=
  sextNat_eq_toInt (elemWidth_widthOf et).pos x

theorem isSignedType_iff : isSignedType et = true ↔ et = 0 ∨ et = 2 ∨ et = 3 := by
  unfold isSignedType
  rw [Bool.or_eq_true, Bool.or_eq_true, beq_iff_eq, beq_iff_eq, beq_iff_eq, or_assoc]

theorem intOf_eq_signedBy (et x : Nat) : intOf et x = signedBy et x := by
  unfold intOf signedBy
  rw [sextNat_eq_toInt (elemWidth_widthOf et).pos]
  exact if_congr isSignedType_iff rfl rfl

theorem intMin_le_intMax (et : Nat) : intMin et ≤ intMax et := by
  have hpow (n : Nat) : 0 < 2 ^ n := Nat.two_pow_pos n
  have h₁ := hpow (widthOf et - 1)
  have h₂ := hpow (widthOf et)
  unfold intMin intMax
  split <;> omega

/-- VADDS clamps the sum, and says so (R135). -/
theorem addSat_eq (et x y : Nat) : addSat et x y =
    (max (intMin et) (min (intMax et) (signedBy et x + signedBy et y)),
      if intMin et ≤ signedBy et x + signedBy et y ∧ signedBy et x + signedBy et y ≤ intMax et then 0 else flSAT) := by
  have hrange := intMin_le_intMax et
  unfold addSat
  rw [intOf_eq_signedBy, intOf_eq_signedBy]
  dsimp only
  by_cases hlo : signedBy et x + signedBy et y < intMin et
  · rw [if_pos hlo, if_neg (by omega), max_eq_left (by omega)]
  · rw [if_neg hlo]
    by_cases hhi : intMax et < signedBy et x + signedBy et y
    · rw [if_pos hhi, if_neg (by omega), min_eq_left (by omega), max_eq_right hrange]
    · rw [if_neg hhi, if_pos (by omega), min_eq_right (by omega), max_eq_right (by omega)]

/-! ## Element-wise functions -/

theorem bFlags_int (het : s.hart.cfg.et < 5) : bFlags s b m = 0 := by
  have hnone (x : Nat) : (if (s.hart.cfg.et = 6 ∨ s.hart.cfg.et = 7) ∧ (List.range s.hart.cfg.count).any (activeAt s m) then
      ((fmtOf s.hart.cfg.et).rnd s.hart.cfg.frm.toNat 0 false (v32 (x % 2 ^ 32))).2 else 0) = (0 : Flags) :=
    if_neg fun h => by omega
  unfold bFlags
  cases b with
  | vv n => rfl
  | vi i => rfl
  | vs n => exact hnone _
  | vl l => exact hnone _

/-- A value that agrees at the width of the tile, with the flags. -/
theorem elementwise_of_gives {i : Instr} {f : VConf → Nat → Nat → Nat → M Nat} {F : Nat → Nat → Nat → Rounded}
    {G : Nat → Nat → Nat → Nat} {g : Nat → Nat → Flags} {readsD : Bool} (hok : TilesOk s m [a, d] b) (het : s.hart.cfg.et < 5)
    (hi : exec i s = dispatchV wd lit { etypes := isIntType, b := capOf b } (eltwise d a b m readsD f) s)
    (hf : ∀ q x y z, Gives q True (f s.hart.cfg x y z) (F x y z))
    (hF : ∀ x y z, (F x y z).1 % 2 ^ s.hart.cfg.width = G x y z % 2 ^ s.hart.cfg.width ∧ (F x y z).2 = g x y) :
    Elementwise s d a b m i G g := by
  unfold Elementwise
  rw [hi]
  refine ((wroteTileIf_eltwise (det := True) hok (decide_eq_true het) (by omega) (fun _ => .inr (by omega)) hf).congr
    (fun j _ => ?_) fun _ => ?_).wroteTile trivial
  · cases activeAt s m j with
    | false => rfl
    | true =>
      exact congrArg some (hF (elemOf s a s.hart.cfg.width j) (bElem s b j) (elemOf s d s.hart.cfg.width j)).1
  · rw [bFlags_int het, flags_zero_or]
    exact flagsOver_congr fun j _ _ => (hF _ _ _).2

/-- An integer function that raises no flag. -/
theorem elementwise_of_int {i : Instr} {f : Nat → Nat → Nat → Nat → Int} {G : Nat → Nat → Nat → Nat} {readsD : Bool}
    (hok : TilesOk s m [a, d] b) (het : s.hart.cfg.et < 5)
    (hi : exec i s = dispatchV wd lit { etypes := isIntType, b := capOf b }
      (eltwise d a b m readsD fun c x y z => pure (wrapBits c.width (f c.et x y z))) s)
    (hG : ∀ x y z, wrapBits s.hart.cfg.width (f s.hart.cfg.et x y z) % 2 ^ s.hart.cfg.width = G x y z % 2 ^ s.hart.cfg.width) :
    Elementwise s d a b m i G := by
  refine elementwise_of_gives hok het hi (F := fun x y z => (wrapBits s.hart.cfg.width (f s.hart.cfg.et x y z), 0)) (fun q x y z => gives_pure q _ _)
    fun x y z => ⟨hG x y z, rfl⟩

theorem wrapBits_nat_mod (w x : Nat) : wrapBits w (x : Int) % 2 ^ w = x % 2 ^ w := by
  rw [wrapBits_nat, Nat.mod_mod]

/-- Settles O18: each function's loop gives every active position its value, taken to the width. -/
theorem vectorIntegerResults : Obligations.VectorIntegerResults := by
  intro d a b m s hok het
  have ev {i : Instr} {readsD : Bool} (f : Nat → Nat → Nat → Nat → Int) {G : Nat → Nat → Nat → Nat} {wd lit : BitVec 32} :=
    elementwise_of_int (i := i) (readsD := readsD) (f := f) (G := G) (wd := wd) (lit := lit) hok het
  have hwrap (X : Int) {Y : Nat} (h : takeBits (widthOf s.hart.cfg.et) X = Y) :
      wrapBits s.hart.cfg.width X % 2 ^ s.hart.cfg.width = Y % 2 ^ s.hart.cfg.width := by
    rw [wrapBits_eq_takeBits, ← h]
    rfl
  have hnat (X : Nat) : wrapBits s.hart.cfg.width (X : Int) % 2 ^ s.hart.cfg.width = X % 2 ^ s.hart.cfg.width :=
    wrapBits_nat_mod _ X
  have hmod (X : Nat) : wrapBits s.hart.cfg.width (X : Int) % 2 ^ s.hart.cfg.width =
      X % 2 ^ widthOf s.hart.cfg.et % 2 ^ s.hart.cfg.width := (hnat X).trans (Nat.mod_mod X _).symm
  have hsel {p : Prop} [Decidable p] (X Y : Nat) :
      wrapBits s.hart.cfg.width (if p then (X : Int) else Y) % 2 ^ s.hart.cfg.width =
        (if p then X else Y) % 2 ^ s.hart.cfg.width := by
    rw [← Nat.cast_ite]
    exact hnat _
  refine ⟨ev (fun _ x y _ => x + y) rfl fun x y _ => hmod (x + y), ev (fun _ x y _ => x - y) rfl fun x y _ => hwrap _ rfl,
    ev (fun _ x y _ => y - x) rfl fun x y _ => hwrap _ rfl, ev (fun _ x y _ => x * y) rfl fun x y _ => hmod (x * y),
    ev (fun et x y _ => intOf et x * intOf et y / (2 ^ widthOf et : Nat)) rfl fun x y _ => ?_,
    ev (fun et x y _ => if sgn et x ≤ sgn et y then x else y) rfl fun x y _ => ?_,
    ev (fun et x y _ => if sgn et x ≤ sgn et y then y else x) rfl fun x y _ => ?_,
    ev (fun _ x y _ => if x ≤ y then x else y) rfl fun x y _ => hsel x y,
    ev (fun _ x y _ => if x ≤ y then y else x) rfl fun x y _ => hsel y x,
    ev (fun _ x y _ => (x &&& y : Nat)) rfl fun x y _ => hnat _, ev (fun _ x y _ => (x ||| y : Nat)) rfl fun x y _ => hnat _,
    ev (fun _ x y _ => (x ^^^ y : Nat)) rfl fun x y _ => hnat _,
    ev (fun et x y _ => x * 2 ^ (y % widthOf et)) rfl fun x y _ => ?_,
    ev (fun et x y _ => (x / 2 ^ (y % widthOf et) : Nat)) rfl fun x y _ => hnat _,
    ev (fun et x y _ => sgn et x / (2 ^ (y % widthOf et) : Nat)) rfl fun x y _ => ?_, ?_,
    ev (fun _ x y z => z * x + y) rfl fun x y z => hmod (z * x + y),
    ev (fun _ x y z => (z : Int) * x - y) rfl fun x y z => hwrap _ rfl⟩
  · rw [intOf_eq_signedBy, intOf_eq_signedBy, Nat.cast_pow]
    exact hwrap _ rfl
  · rw [sgn_eq_toInt, sgn_eq_toInt]
    exact hsel x y
  · rw [sgn_eq_toInt, sgn_eq_toInt]
    exact hsel y x
  · rw [← Nat.cast_ofNat, ← Nat.cast_pow, ← Nat.cast_mul]
    exact hmod _
  · rw [sgn_eq_toInt, Nat.cast_pow]
    exact hwrap _ rfl
  · refine elementwise_of_gives hok het (i := .vadds d a b m) (f := fun c x y _ => do
        let (r, fl) := addSat c.et x y
        setFlags fl
        pure (wrapBits c.width r)) rfl
      (F := fun x y _ => (wrapBits s.hart.cfg.width (addSat s.hart.cfg.et x y).1, (addSat s.hart.cfg.et x y).2))
      (fun q x y z => ?_) fun x y z => ⟨hwrap _ ?_, ?_⟩
    · exact (gives_bind (gives_setFlags q True _) fun _ => gives_pure q True _).congr fun _ => by
        rw [flags_or_zero]
        rfl
    · rw [addSat_eq]
    · rw [addSat_eq]

end Sys2Proof.Machine
end

section
/-! Floating-point vector arithmetic (settles O19). -/

namespace Sys2Proof.Machine

variable {s : State} {det : Prop} {m : BitVec 1} {a d : BitVec 7} {b : VSrc} {wd lit : BitVec 32} {et w : Nat}

/-! ## Entries of one source -/

theorem unbound_queued_singleton (ha : PlainTile s a) (hrc : 1 ≤ s.hart.cfg.rcN) (e : Entry) :
    ∀ n ∈ [a], streamAt (s.queued e).hart.vec (s.hart.cfg.vwb.toNat + n.toNat) = none := by
  rw [queued_vec]
  exact List.forall_mem_singleton.2 (ha.first hrc)

/-- What a function of a writes at each active position, with its flags. -/
def unOut (s : State) (a : BitVec 7) (F : Nat → Rounded) (j : Nat) : Rounded := F (elemOf s a s.hart.cfg.width j)

theorem works_unwise (hok : TilesOk s m [a, d] b) {f : VConf → Nat → M Nat} {F : Nat → Rounded} {e : Entry}
    (hcfg : e.cfg = s.hart.cfg) (hf : ∀ q x, Gives q det (f s.hart.cfg x) (F x)) :
    Works s e s.hart.cfg.width (flatPos s.hart.cfg d.toNat) s.hart.cfg.count (unwise d a m f e)
      (TileActs s.hart.cfg s.hart.cfg.width det (fun j => if activeAt s m j then some (unOut s a F j).1 else none)
        (flagsOver s.hart.cfg.count (activeAt s m) fun j => (unOut s a F j).2)) := by
  obtain ⟨hr, hmask, htiles, -, -, hrc⟩ := hok
  have hplainA := htiles a (by simp)
  have hplainD := htiles d (by simp)
  have hq := queued_vec s e
  have hunbound := unbound_queued_singleton hplainA hrc e
  unfold unwise vrun
  dsimp only
  rw [hcfg]
  refine works_bind (exec_maskVl_of_maskOk hmask _) (works_vrunN hr ?_ (exec_sources_plain hunbound m) ?_)
  · exact List.forall_mem_cons.2 ⟨hplainA.opnd hrc _ .., List.forall_mem_singleton.2 (hplainD.opnd hrc _ ..)⟩
  · dsimp only
    rw [activeIn_eq_activeAt hq]
    refine fills_active (hplainD.free e) fun j hj hact => ?_
    rw [padded_unbound (hunbound a (by simp)), quietly_false, el_eq_elemOf hq]
    exact hf _ _

theorem wroteTileIf_unwise (hok : TilesOk s m [a, d] b) {f : VConf → Nat → M Nat} {F : Nat → Rounded} {types : Nat → Bool}
    (htypes : types s.hart.cfg.et = true) (hf : ∀ q x, Gives q det (f s.hart.cfg x) (F x)) :
    WroteTileIf det s d s.hart.cfg.width (fun j => if activeAt s m j then some (unOut s a F j).1 else none)
      (dispatchV wd lit { etypes := types } (unwise d a m f) s)
      (flagsOver s.hart.cfg.count (activeAt s m) fun j => (unOut s a F j).2) :=
  wroteTileIf_of_acts hok.ready (elemWidth_widthOf _) (hok.plain d (by simp)) hok.rc hok.vl
    (retires_of_works hok.ready (dispatches_of_etype hok.ready htypes trivial trivial) rfl rfl (works_unwise hok rfl hf))

/-! ## Functions of a, b and d -/

theorem isFpType_of_range (hlo : 5 ≤ et) (hhi : et < 8) : isFpType et = true := by
  unfold isFpType
  rw [Bool.or_eq_true, Bool.or_eq_true, beq_iff_eq, beq_iff_eq, beq_iff_eq]
  omega

section

variable (hok : TilesOk s m [a, d] b) (hlo : 5 ≤ s.hart.cfg.et) (hhi : s.hart.cfg.et < 8)

include hok hlo hhi

theorem fpElementwise_of_gives {i : Instr} {f : VConf → Nat → Nat → Nat → M Nat} {F : Nat → Nat → Nat → Rounded} {readsD : Bool}
    (hi : exec i s = dispatchV wd lit { etypes := isFpType, b := capOf b } (eltwise d a b m readsD f) s)
    (hf : ∀ q x y z, Gives q (s.hart.cfg.frm ≠ 4) (f s.hart.cfg x y z) (F x y z)) : FpElementwise s d a b m i F := by
  unfold FpElementwise
  rw [hi]
  exact wroteTileIf_eltwise hok (isFpType_of_range hlo hhi) hhi .inl hf

omit hlo hhi in
theorem fpElementwise_of_gives_unary {i : Instr} {f : VConf → Nat → M Nat} {F : Nat → Rounded} {types : Nat → Bool}
    (htypes : types s.hart.cfg.et = true) (hi : exec i s = dispatchV wd lit { etypes := types } (unwise d a m f) s)
    (hf : ∀ q x, Gives q (s.hart.cfg.frm ≠ 4) (f s.hart.cfg x) (F x)) :
    FpElementwise s d a (.vv a) m i fun x _ _ => F x := by
  unfold FpElementwise
  rw [hi]
  dsimp only
  rw [show bFlags s (.vv a) m = 0 from rfl, flags_zero_or]
  exact wroteTileIf_unwise hok htypes hf

/-- A result rounded once to ETYPE under FRM, with its flags (R80, R136). -/
def roundedResult (c : VConf) (r : Ex × Flags) : Rounded :=
  (((fmtOf c.et).rnd c.frm.toNat 0 false r.1).1, r.2 ||| ((fmtOf c.et).rnd c.frm.toNat 0 false r.1).2)

theorem fpElementwise_rounded (f : Nat → Ex → Ex → Ex → Ex × Flags) {i : Instr} {readsD : Bool}
    (hi : exec i s = dispatchV wd lit { etypes := isFpType, b := capOf b } (eltwise d a b m readsD fun c x y z => do
      let t := fmtOf c.et
      let (r, fl) := f c.frm.toNat (t.value x) (t.value y) (t.value z)
      setFlags fl
      vrnd c.frm t false r) s) :
    FpElementwise s d a b m i fun x y z => roundedResult s.hart.cfg (f s.hart.cfg.frm.toNat ((fmtOf s.hart.cfg.et).value x)
      ((fmtOf s.hart.cfg.et).value y) ((fmtOf s.hart.cfg.et).value z)) :=
  fpElementwise_of_gives hok hlo hhi hi fun q _ _ _ => gives_rounded q _ _ _

theorem fpElementwise_rounded_unary (f : Ex → Ex × Flags) {i : Instr}
    (hi : exec i s = dispatchV wd lit { etypes := isFpType } (unwise d a m fun c x => do
      let t := fmtOf c.et
      let (r, fl) := f (t.value x)
      setFlags fl
      vrnd c.frm t false r) s) :
    FpElementwise s d a (.vv a) m i fun x _ _ => roundedResult s.hart.cfg (f ((fmtOf s.hart.cfg.et).value x)) :=
  fpElementwise_of_gives_unary hok (isFpType_of_range hlo hhi) hi fun q _ => gives_rounded q _ _ _

end

/-- A function that calls `rnd` for some operands only (R90, R91). -/
theorem gives_calls (q : State) (frm : BitVec 3) (calls : Bool) (f : Nat → Rounded) :
    Gives q (frm ≠ 4) (do
      let u ← if calls then stepGen frm else pure 0
      flagged (f u)) (f 0) := by
  cases calls with
  | false => exact gives_flagged q _ _
  | true => exact (gives_bind (gives_stepGen q frm) fun u => gives_flagged q _ (f u)).congr fun _ => by rw [flags_zero_or]

/-! ## The sign function (R136) -/

theorem elemOf_lt (hn : streamAt s.hart.vec (s.hart.cfg.vwb.toNat + d.toNat) = none) (hw : ElemWidth w) (j : Nat) :
    elemOf s d w j < 2 ^ w := by
  unfold elemOf VecRegs.elW
  rw [tileElem_unbound hn]
  exact rowBits_lt hw ..

theorem bitOf_eq_getLsbD {n : Nat} (x : BitVec n) (i : Nat) : bitOf x.toNat i = x.getLsbD i := by
  rw [BitVec.getLsbD, Nat.testBit_eq_decide_div_mod_eq]
  rfl

theorem fmtOf_bits (hlo : 5 ≤ et) (hhi : et < 8) : (fmtOf et).eb + (fmtOf et).mb = widthOf et - 1 := by
  obtain rfl | rfl | rfl : et = 5 ∨ et = 6 ∨ et = 7 := by omega
  all_goals rfl

/-- The sign of b at position j (R136). -/
def signAt (s : State) (b : VSrc) (j : Nat) : Bool :=
  match b with
  | .vv n => elemOf s n s.hart.cfg.width j / 2 ^ (s.hart.cfg.width - 1) == 1
  | .vs n => (scalarVal s.hart n).getLsbD 31
  | .vi x => decide (x.toInt < 0)
  | .vl lit => lit.getLsbD 31

theorem signOfB_eq_signAt (hb : VSrcOk s b) (hrc : 1 ≤ s.hart.cfg.rcN) {e : Entry} (hb0 : e.b0 = ((capOf b).values s.hart).1) (j : Nat) :
    signOfB s.hart.cfg e s.hart.vec b j = signAt s b j := by
  cases b with
  | vv n =>
    have hlt := elemOf_lt (hb.2 0 hrc) (elemWidth_widthOf s.hart.cfg.et) j
    have htop : elemOf s n s.hart.cfg.width j / 2 ^ (s.hart.cfg.width - 1) < 2 := by
      have hpow : 2 ^ s.hart.cfg.width = 2 * 2 ^ (s.hart.cfg.width - 1) := by
        rw [← Nat.pow_succ', Nat.succ_eq_add_one, Nat.sub_add_cancel (show 1 ≤ s.hart.cfg.width from (elemWidth_widthOf s.hart.cfg.et).pos)]
      rw [Nat.div_lt_iff_lt_mul (Nat.two_pow_pos _), ← hpow]
      exact hlt
    exact congrArg (· == 1) (Nat.mod_eq_of_lt htop)
  | vs n =>
    unfold signOfB signAt
    rw [hb0]
    exact bitOf_eq_getLsbD ..
  | vi x => exact BitVec.msb_eq_toInt
  | vl lit => exact bitOf_eq_getLsbD ..

theorem works_vfsgn (hok : TilesOk s m [a, d] b) (hlo : 5 ≤ s.hart.cfg.et) (hhi : s.hart.cfg.et < 8) {e : Entry}
    (hcfg : e.cfg = s.hart.cfg) (hb0 : e.b0 = ((capOf b).values s.hart).1) :
    Works s e s.hart.cfg.width (flatPos s.hart.cfg d.toNat) s.hart.cfg.count (performVfsgn d a b m e)
      (TileActs s.hart.cfg s.hart.cfg.width True (fun j => if activeAt s m j then
        some (elemOf s a s.hart.cfg.width j % 2 ^ (s.hart.cfg.width - 1) + if signAt s b j then 2 ^ (s.hart.cfg.width - 1) else 0)
        else none) 0) := by
  obtain ⟨hr, hmask, htiles, hsrc, -, hrc⟩ := hok
  have hplainA := htiles a (by simp)
  have hplainD := htiles d (by simp)
  have hq := queued_vec s e
  have hunbound := unbound_queued (unbound_rowsOf hsrc hrc) hplainA hrc e
  unfold performVfsgn vrun
  dsimp only
  rw [hcfg]
  refine works_bind (exec_maskVl_of_maskOk hmask _) (works_vrunN hr ?_ (exec_sources_plain hunbound m) ?_)
  · exact List.forall_mem_append.2 ⟨List.forall_mem_cons.2 ⟨hplainA.opnd hrc _ .., plainOpnd_opndsOf hsrc hrc _⟩,
      List.forall_mem_singleton.2 (hplainD.opnd hrc _ ..)⟩
  · dsimp only
    rw [activeIn_eq_activeAt hq, hq]
    have h := fills_putTileW (w := s.hart.cfg.width) (det := True) (hplainD.free e) fun j _ => givesOpt_pure (s.queued e) True
      (if activeAt s m j then some ((fmtOf s.hart.cfg.et).mag (s.hart.vec.el s.hart.cfg a j) +
        (fmtOf s.hart.cfg.et).signPat (signOfB s.hart.cfg e s.hart.vec b j)) else none)
    rw [flagsOver_none fun _ _ _ => rfl] at h
    refine h.mono fun act fl hacts => ?_
    convert hacts using 2
    unfold Fmt.mag Fmt.signPat
    rw [fmtOf_bits hlo hhi, signOfB_eq_signAt hsrc hrc hb0]
    rfl

/-- Settles O19: each function's loop gives every active position its value, rounded once. -/
theorem vectorFloatResults : Obligations.VectorFloatResults := by
  intro d a b m s hok hlo hhi
  have bin (f : Nat → Ex → Ex → Ex → Ex × Flags) {i : Instr} {readsD : Bool} {wd lit : BitVec 32} :=
    fpElementwise_rounded hok hlo hhi f (i := i) (readsD := readsD) (wd := wd) (lit := lit)
  have un (f : Ex → Ex × Flags) {i : Instr} {wd lit : BitVec 32} :=
    fpElementwise_rounded_unary hok hlo hhi f (i := i) (wd := wd) (lit := lit)
  refine ⟨bin (fun mode x y _ => x.add mode y) rfl, bin (fun mode x y _ => x.add mode y.negate) rfl,
    bin (fun _ x y _ => x.mul y) rfl, bin (fun _ x y _ => x.div y) rfl,
    fpElementwise_of_gives hok hlo hhi (f := fun c x y _ => flagged ((fmtOf c.et).pick false x y)) rfl fun q _ _ _ => gives_flagged q _ _,
    fpElementwise_of_gives hok hlo hhi (f := fun c x y _ => flagged ((fmtOf c.et).pick true x y)) rfl fun q _ _ _ => gives_flagged q _ _,
    bin (fun mode x y z => Ex.fma mode false false z x y) rfl, bin (fun mode x y z => Ex.fma mode false true z x y) rfl,
    bin (fun mode x y z => Ex.fma mode true true z x y) rfl, bin (fun mode x y z => Ex.fma mode true false z x y) rfl,
    un Ex.sqrt rfl, un Ex.rcp rfl, un Ex.rsqrt rfl, fun h5 => ⟨?_, ?_⟩, ?_⟩
  · exact fpElementwise_of_gives_unary hok (types := only5) (beq_iff_eq.2 h5) (f := fun c x => do
        let u ← if exp2Calls x then stepGen c.frm else pure 0
        flagged (exp2Fp c.frm.toNat u x)) rfl fun q x => gives_calls q _ _ fun u => exp2Fp s.hart.cfg.frm.toNat u x
  · exact fpElementwise_of_gives_unary hok (types := only5) (beq_iff_eq.2 h5) (f := fun c x => do
        let u ← if log2Calls x then stepGen c.frm else pure 0
        flagged (log2Fp c.frm.toNat u x)) rfl fun q x => gives_calls q _ _ fun u => log2Fp s.hart.cfg.frm.toNat u x
  · exact (wroteTileIf_of_acts hok.ready (elemWidth_widthOf _) (hok.plain d (by simp)) hok.rc hok.vl
      (retires_of_works (op := { etypes := isFpType, b := capOf b }) hok.ready
        (dispatches_of_etype hok.ready (isFpType_of_range hlo hhi) trivial (capOk_capOf hok.src)) rfl rfl
        (works_vfsgn hok hlo hhi rfl rfl))).wroteTile trivial

end Sys2Proof.Machine
end

section
/-! Vector comparisons (settles O20). -/

namespace Sys2Proof.Machine

variable {s q : State} {m : BitVec 1} {a d : BitVec 7} {b : VSrc} {wd lit : BitVec 32}

/-! ## Predicates by their bits (R20) -/

theorem testBit_foldr_bits (p : Nat → Bool) (n i : Nat) :
    ((List.range n).foldr (fun i x => 2 * x + (p i).toNat) 0).testBit i = (decide (i < n) && p i) := by
  induction n generalizing p i with
  | zero => simp
  | succ n ih =>
    have hlow : (p 0).toNat < 2 := by cases p 0 <;> decide
    rw [List.range_succ_eq_map, List.foldr_cons, List.foldr_map]
    cases i with
    | zero =>
      rw [Nat.testBit_zero, Nat.mul_add_mod, Nat.mod_eq_of_lt hlow]
      cases p 0 <;> simp
    | succ i =>
      rw [Nat.testBit_succ, Nat.mul_add_div Nat.two_pos, Nat.div_eq_of_lt hlow, Nat.add_zero, ih fun i => p i.succ]
      simp

theorem getLsbD_predOfFn (p : Nat → Bool) {i : Nat} (hi : i < 1024) : (predOfFn p).getLsbD i = p i := by
  unfold predOfFn
  rw [BitVec.getLsbD_ofNat, testBit_foldr_bits, decide_eq_true hi, Bool.true_and, Bool.true_and]

theorem predOf_put {v : VecRegs} (n p : Nat) (x : BitVec 1024) :
    predOf { v with preds := sparsePut 0 v.preds n x } p = if p = n then x else predOf v p := sparseGet_put ..

/-! ## The work of a comparison -/

theorem exec_needPredVl_ok {c : VConf} (h : c.vlN ≤ 1024) (q : State) : (needPredVl c).exec q = (.ok (), q) :=
  exec_trapIf_false (decide_eq_false (Nat.not_lt.2 h)) _ _ q

/-- What a comparison gives at position i, with its flags: only an active one counts. -/
def cmpAt (s : State) (a : BitVec 7) (b : VSrc) (g : Nat → Nat → Bool × Flags) (i : Nat) : Bool × Flags :=
  g (elemOf s a s.hart.cfg.width i) (bElem s b i)

/-- The bit that a comparison leaves at position i of predicate d (R138). -/
def cmpBit (s : State) (d a : BitVec 7) (b : VSrc) (m : BitVec 1) (g : Nat → Nat → Bool × Flags) (i : Nat) : Bool :=
  if i < s.hart.cfg.vlN ∧ s.hart.cfg.est ≤ i then
    if activeAt s m i then (cmpAt s a b g i).1
    else if s.hart.cfg.maskmode = 1 then false else (predOf s.hart.vec d.toNat).getLsbD i
  else (predOf s.hart.vec d.toNat).getLsbD i

theorem foldl_flags (n : Nat) (act : Nat → Bool) (fl : Nat → Flags) :
    (List.range n).foldl (fun x i => x ||| if act i then fl i else 0) 0 = flagsOver n act fl := by
  rw [flagsOver_filter]
  unfold flagsOver
  rw [List.filter_eq_self.2 fun _ _ => rfl]

/-- The relation at position i of active ones, from what the sources give. -/
def cmpRaw (c : VConf) (v : VecRegs) (a : BitVec 7) (act : Nat → Bool) (y : Nat → Nat) (f : VConf → Nat → Nat → Bool × Flags) (i : Nat) :
    Bool × Flags := if act i then f c (v.el c a i) (y i) else (false, 0)

/-- The predicate that a comparison writes, from what the sources give. -/
def cmpPred (c : VConf) (v : VecRegs) (d a : BitVec 7) (act : Nat → Bool) (y : Nat → Nat) (f : VConf → Nat → Nat → Bool × Flags) :
    BitVec 1024 :=
  predOfFn fun i => if c.vlN ≤ i || i < c.est then (predOf v d.toNat).getLsbD i
    else if act i then (cmpRaw c v a act y f i).1 else if c.maskmode = 1 then false else (predOf v d.toNat).getLsbD i

theorem compare_eq (d a : BitVec 7) (b : VSrc) (m : BitVec 1) (f : VConf → Nat → Nat → Bool × Flags) (e : Entry) :
    compare d a b m f e = (do
      needPredVl e.cfg
      trapIf (1 < e.cfg.rcN) .matf (BitVec.ofNat 64 e.cfg.rcN)
      vrun e.cfg (Opnd.src e.cfg a :: opndsOf e.cfg b) (do
        let (v, act) ← sources e.cfg m (a :: rowsOf b)
        let y ← prepActive e.cfg e v b (a :: rowsOf b) act
        setFlags ((List.range e.cfg.vlN).foldl (fun fl i =>
          if anyPadded v e.cfg (a :: rowsOf b) i then fl else fl ||| (cmpRaw e.cfg v a act y f i).2) 0)
        writePred d.toNat (cmpPred e.cfg v d a act y f))) := rfl

section

variable {f : VConf → Nat → Nat → Bool × Flags} {y : Nat → Nat}
  (hy : ∀ j < s.hart.cfg.vlN, activeAt s m j = true → y j = bElem s b j)

include hy

theorem cmpRaw_eq {i : Nat} (hi : i < s.hart.cfg.vlN) : cmpRaw s.hart.cfg s.hart.vec a (activeAt s m) y f i =
    if activeAt s m i then cmpAt s a b (f s.hart.cfg) i else (false, 0) :=
  if_ctx_congr Iff.rfl (fun hact => by rw [hy i hi hact]; rfl) fun _ => rfl

theorem getLsbD_cmpPred {i : Nat} (hi : i < 1024) : (cmpPred s.hart.cfg s.hart.vec d a (activeAt s m) y f).getLsbD i =
    cmpBit s d a b m (f s.hart.cfg) i := by
  unfold cmpPred cmpBit
  rw [getLsbD_predOfFn _ hi]
  by_cases hin : i < s.hart.cfg.vlN ∧ s.hart.cfg.est ≤ i
  · obtain ⟨hlt, hest⟩ := hin
    have hout : ¬(decide (s.hart.cfg.vlN ≤ i) || decide (i < s.hart.cfg.est)) = true := by
      rw [Bool.or_eq_true, decide_eq_true_iff, decide_eq_true_iff]
      omega
    rw [if_neg hout, cmpRaw_eq hy hlt]
    refine Eq.trans ?_ (if_pos ⟨hlt, hest⟩).symm
    cases activeAt s m i <;> rfl
  · have hout : (decide (s.hart.cfg.vlN ≤ i) || decide (i < s.hart.cfg.est)) = true := by
      rw [Bool.or_eq_true, decide_eq_true_iff, decide_eq_true_iff]
      omega
    rw [if_pos hout, if_neg hin]

theorem foldl_cmpRaw : (List.range s.hart.cfg.vlN).foldl (fun fl i =>
      fl ||| (cmpRaw s.hart.cfg s.hart.vec a (activeAt s m) y f i).2) 0 =
    flagsOver s.hart.cfg.vlN (activeAt s m) fun i => (cmpAt s a b (f s.hart.cfg) i).2 := by
  rw [← foldl_flags]
  refine List.foldl_ext _ _ _ fun fl i hi => ?_
  rw [cmpRaw_eq hy (List.mem_range.1 hi)]
  cases activeAt s m i <;> rfl

end

theorem exec_setFlags_writePred (F fl : Flags) (n : Nat) (x : BitVec 1024) (v : VecRegs) :
    (do setFlags F; writePred n x).exec (q.worked fl v) =
      (.ok (), q.worked (fl ||| F) { v with preds := sparsePut 0 v.preds n x }) := by
  rw [← worked_flags]
  rfl

theorem exec_compare (hok : TilesOk s m [a] b) (hvl : s.hart.cfg.vlN ≤ 1024) (hone : s.hart.cfg.rcN = 1) (het : s.hart.cfg.et < 8)
    {f : VConf → Nat → Nat → Bool × Flags} {e : Entry} (hcfg : e.cfg = s.hart.cfg) (hb0 : e.b0 = ((capOf b).values s.hart).1) :
    ∃ x fl g, (compare d a b m f e).exec (s.queued e) = (.ok (), (s.queued e).worked fl { s.hart.vec with
        preds := sparsePut 0 s.hart.vec.preds d.toNat x, gen := g, strips := [], outs := [] }) ∧
      (s.hart.cfg.frm ≠ 4 ∨ s.hart.cfg.et < 6 → (∀ i < 1024, x.getLsbD i = cmpBit s d a b m (f s.hart.cfg) i) ∧
        fl = bFlags s b m ||| flagsOver s.hart.cfg.vlN (activeAt s m) fun i => (cmpAt s a b (f s.hart.cfg) i).2) := by
  obtain ⟨hr, hmask, htiles, hsrc, -, hrc⟩ := hok
  have hplainA := htiles a (by simp)
  have hq := queued_vec s e
  have hunbound := unbound_queued (unbound_rowsOf hsrc hrc) hplainA hrc e
  have hcount : s.hart.cfg.count = s.hart.cfg.vlN := by unfold VConf.count; rw [hone, Nat.one_mul]
  obtain ⟨y, fl, g, hb, hy⟩ := yields_prepB (m := m) hb0 het hq 0 (s.queued e).hart.vec
  rw [worked_self, flags_zero_or, hq] at hb
  rw [hcount] at hy
  have hflags : (List.range s.hart.cfg.vlN).foldl (fun fl i => if anyPadded s.hart.vec s.hart.cfg (a :: rowsOf b) i then fl
      else fl ||| (cmpRaw s.hart.cfg s.hart.vec a (activeAt s m) y f i).2) 0 =
      (List.range s.hart.cfg.vlN).foldl (fun fl i => fl ||| (cmpRaw s.hart.cfg s.hart.vec a (activeAt s m) y f i).2) 0 := by
    refine List.foldl_ext _ _ _ fun fl i hi => ?_
    rw [anyPadded_plain (q := s) (hq ▸ hunbound)]
    rfl
  refine ⟨cmpPred s.hart.cfg s.hart.vec d a (activeAt s m) y f, fl ||| (List.range s.hart.cfg.vlN).foldl (fun fl i =>
    fl ||| (cmpRaw s.hart.cfg s.hart.vec a (activeAt s m) y f i).2) 0, g, ?_, fun hdet => ?_⟩
  · rw [compare_eq, hcfg, exec_bind_ok (exec_needPredVl_ok hvl _), exec_bind_ok (exec_trapIf_false (decide_eq_false (by omega)) _ _ _)]
    generalize hF : (List.range s.hart.cfg.vlN).foldl (fun fl i => fl ||| (cmpRaw s.hart.cfg s.hart.vec a (activeAt s m) y f i).2) 0 = F
      at hflags ⊢
    have hbody : (do
        let (v, act) ← sources s.hart.cfg m (a :: rowsOf b)
        let y ← prepActive s.hart.cfg e v b (a :: rowsOf b) act
        setFlags ((List.range s.hart.cfg.vlN).foldl (fun fl i =>
          if anyPadded v s.hart.cfg (a :: rowsOf b) i then fl else fl ||| (cmpRaw s.hart.cfg v a act y f i).2) 0)
        writePred d.toNat (cmpPred s.hart.cfg v d a act y f)).exec (s.queued e) = (.ok (), (s.queued e).worked (fl ||| F)
          { s.hart.vec with
            preds := sparsePut 0 s.hart.vec.preds d.toNat (cmpPred s.hart.cfg s.hart.vec d a (activeAt s m) y f), gen := g }) := by
      rw [exec_bind_ok (exec_sources_plain hunbound m)]
      dsimp only
      rw [prepActive_plain hunbound, activeIn_eq_activeAt hq, hq, exec_bind_ok hb, hflags, exec_setFlags_writePred]
    have hrun := exec_vrunN_ok (n := s.hart.cfg.count) (et := s.hart.cfg.et)
      (List.forall_mem_cons.2 ⟨hplainA.opnd hrc e a .src 1 s.hart.cfg.span, plainOpnd_opndsOf hsrc hrc e⟩)
      (by rw [hq]; exact hr.soundRows) hbody
    unfold vrun
    generalize cmpPred s.hart.cfg s.hart.vec d a (activeAt s m) y f = x at hrun ⊢
    exact hrun
  · obtain ⟨hval, rfl⟩ := hy hdet
    exact ⟨fun i hi => getLsbD_cmpPred hval hi, by rw [foldl_cmpRaw hval]⟩

/-! ## The instructions -/

/-- The instruction retires in one step; it wrote the bits of the comparison into predicate d, raised its flags, and changed nothing
else. -/
def Compared (s : State) (d a : BitVec 7) (b : VSrc) (m : BitVec 1) (g : Nat → Nat → Bool × Flags)
    (r : Host.Outcome State Fault Refusal) : Prop :=
  ∃ t fl, r = .next t ∧ OnlyVec s t fl ∧
    t.hart.vec = { s.hart.vec with preds := t.hart.vec.preds, gen := t.hart.vec.gen, strips := [], outs := [] } ∧
    (∀ p, p ≠ d.toNat → predOf t.hart.vec p = predOf s.hart.vec p) ∧
    (s.hart.cfg.frm ≠ 4 ∨ s.hart.cfg.et < 6 →
      (∀ i < 1024, (predOf t.hart.vec d.toNat).getLsbD i = cmpBit s d a b m g i) ∧
      fl = bFlags s b m ||| flagsOver s.hart.cfg.vlN (activeAt s m) fun i => (cmpAt s a b g i).2)

theorem compared_of_compare (hok : TilesOk s m [a] b) (hvl : s.hart.cfg.vlN ≤ 1024) (hone : s.hart.cfg.rcN = 1)
    (het : s.hart.cfg.et < 8) {types : Nat → Bool} (htypes : types s.hart.cfg.et = true) (f : VConf → Nat → Nat → Bool × Flags)
    {g : Nat → Nat → Bool × Flags} (hg : ∀ x y, f s.hart.cfg x y = g x y) :
    Compared s d a b m g (dispatchV wd lit { etypes := types, b := capOf b } (compare d a b m f) s) := by
  obtain rfl : f s.hart.cfg = g := funext fun x => funext fun y => hg x y
  obtain ⟨x, fl, gen, hexec, hvalue⟩ := exec_compare hok hvl hone het (d := d) (f := f) (e := entryOf s wd lit .none (capOf b)) rfl rfl
  obtain ⟨t, hnext, honly, hvec⟩ := retires_of_exec (op := { etypes := types, b := capOf b }) hok.ready
    (dispatches_of_etype hok.ready htypes trivial (capOk_capOf hok.src)) rfl rfl hexec
  refine ⟨t, fl, hnext, honly, by rw [hvec], fun p hp => ?_, fun hdet => ?_⟩
  · rw [hvec]
    exact (predOf_put ..).trans (if_neg hp)
  · obtain ⟨hbits, hflags⟩ := hvalue hdet
    refine ⟨fun i hi => ?_, hflags⟩
    rw [hvec, ← hbits i hi]
    exact congrArg (BitVec.getLsbD · i) ((predOf_put ..).trans (if_pos rfl))

/-- Settles O20: each comparison writes the bits of its relation. -/
theorem vectorCompareResults : Obligations.VectorCompareResults := by
  intro d a b m s hok hvl hone
  have hint (h5 : s.hart.cfg.et < 5) (f : Nat → Nat → Nat → Bool) (g : Nat → Nat → Bool)
      (hg : ∀ x y, f s.hart.cfg.et x y = g x y) {wd lit : BitVec 32} :
      Compared s d a b m (fun x y => (g x y, 0)) (dispatchV wd lit { etypes := isIntType, b := capOf b } (compare d a b m (cmpInt f)) s) :=
    compared_of_compare hok hvl hone (by omega) (decide_eq_true h5) (cmpInt f) fun x y => congrArg (·, 0) (hg x y)
  have hfp (h5 : 5 ≤ s.hart.cfg.et) (h8 : s.hart.cfg.et < 8) (f : Fmt → Nat → Nat → Bool × Flags) {wd lit : BitVec 32} :
      Compared s d a b m (f (fmtOf s.hart.cfg.et))
        (dispatchV wd lit { etypes := isFpType, b := capOf b } (compare d a b m (cmpFp f)) s) :=
    compared_of_compare hok hvl hone h8 (isFpType_of_range h5 h8) (cmpFp f) fun _ _ => rfl
  have hsgn (x : Nat) : sgn s.hart.cfg.et x = (BitVec.ofNat s.hart.cfg.width x).toInt := sgn_eq_toInt _ x
  refine ⟨fun h5 => ⟨hint h5 (fun _ x y => x == y) (fun x y => decide (x = y)) fun _ _ => rfl,
    hint h5 (fun _ x y => x != y) (fun x y => decide (x ≠ y)) fun x y => (decide_not (p := x = y)).symm,
    hint h5 (fun et x y => sgn et x < sgn et y)
      (fun x y => decide ((BitVec.ofNat s.hart.cfg.width x).toInt < (BitVec.ofNat s.hart.cfg.width y).toInt))
      fun x y => by rw [hsgn, hsgn],
    hint h5 (fun et x y => sgn et y ≤ sgn et x)
      (fun x y => decide ((BitVec.ofNat s.hart.cfg.width y).toInt ≤ (BitVec.ofNat s.hart.cfg.width x).toInt))
      fun x y => by rw [hsgn, hsgn],
    hint h5 (fun _ x y => x < y) (fun x y => decide (x < y)) fun _ _ => rfl,
    hint h5 (fun _ x y => y ≤ x) (fun x y => decide (y ≤ x)) fun _ _ => rfl⟩,
    fun h5 h8 => ⟨hfp h5 h8 Fmt.eqVal, hfp h5 h8 Fmt.ltVal, hfp h5 h8 Fmt.leVal, hfp h5 h8 Fmt.unordered⟩⟩

end Sys2Proof.Machine
end

section
/-! Moves, slides and permutations of tiles (R139), and entries that ignore ESTART (R130). -/

namespace Sys2Proof.Machine

variable {s q t : State} {det : Prop} {c : VConf} {m : BitVec 1} {a b d k : BitVec 7} {wd lit : BitVec 32} {w n : Nat} {st : BitVec 18}
  {perform : Entry → M Unit} {op : VOp}

/-! ## A configuration with another ESTART (R130) -/

/-- The configuration with ESTART k. -/
def VConf.startAt (c : VConf) (k : BitVec 18) : VConf := { c with estart := k }

theorem from0_eq_startAt (c : VConf) : c.from0 = c.startAt 0 := rfl

theorem PlainOpnd.startAt {o : Opnd} (h : PlainOpnd c s o) : PlainOpnd (c.startAt st) s o := ⟨h.rows, h.inside, h.unbound⟩

theorem Free.startAt {rows : Nat} (h : Free c q n rows) : Free (c.startAt st) q n rows := h

/-- With ESTART 0 a position is active as its mask says. -/
theorem activeIn_from0 (c : VConf) (m : BitVec 1) (p : BitVec 1024) (j : Nat) : activeIn c.from0 m p j = activeFrom0 c m p j := by
  unfold activeIn activeFrom0
  rw [decide_eq_true (show c.from0.est ≤ j from Nat.zero_le j), Bool.true_and]
  rfl

theorem activeIn_unmasked (c : VConf) (p : BitVec 1024) (j : Nat) : activeIn c.from0 0 p j = true := by
  rw [activeIn_from0]
  rfl

/-- The instruction retires in one step; it wrote the tile d with what `f` gives, whatever ESTART is, and changed nothing else. -/
def WroteWhole (s : State) (d : BitVec 7) (f : Nat → Option Nat) (r : Host.Outcome State Fault Refusal) : Prop :=
  ∃ t, r = .next t ∧ OnlyRows (tileRows s d s.hart.cfg.rcN) s t ∧ TileIs0 s t d.toNat f ∧
    RowMarksOf s t d.toNat s.hart.cfg.rcN s.hart.cfg.width 0 f

/-- A tile of an entry that takes ESTART as 0. -/
theorem wroteWhole_of_acts {r : Host.Outcome State Fault Refusal} {f : Nat → Option Nat} (hr : Ready s) (hplain : PlainTile s d)
    (hrc : 1 ≤ s.hart.cfg.rcN) (hvl : s.hart.cfg.vlN ≤ vlmax s.hart.cfg.et)
    (h : ∃ t act fl, r = .next t ∧ OnlyVec s t fl ∧
      ActedVec s.hart.cfg.width (flatPos s.hart.cfg d.toNat) act s.hart.cfg.count s t ∧
      TileActs s.hart.cfg.from0 s.hart.cfg.width True f 0 act fl) : WroteWhole s d f r := by
  obtain ⟨t, act, fl, hnext, honly, hvec, o, ho, hvalue⟩ := h
  obtain ⟨hout, rfl⟩ := hvalue trivial
  have hw := elemWidth_widthOf s.hart.cfg.et
  have hact : ∀ j < s.hart.cfg.count, act j = actOf s.hart.cfg 0 s.hart.cfg.width (f j) j := fun j hj => by
    rw [(ho j hj).1, hout j hj]
    rfl
  refine ⟨t, hnext, ⟨honly, ?_⟩, fun j hj => ?_, ?_⟩
  · exact onlyRowsOf_covered hvec hr.soundRows hw (covers_flat s.hart.cfg d.toNat s.hart.cfg.rcN) hvl fun r hr => tileRows_of_lt hr
  · refine (tileElem_tile hvec hr.soundRows hw hplain hrc hvl hact hj).trans ?_
    cases f j with
    | some x => rfl
    | none => exact if_congr (and_iff_left (Nat.zero_le j)) rfl rfl
  · exact rowMarksOf_tile hvec hr.soundRows hw hplain hrc hvl hact fun j _ => rfl

/-! ## Movements -/

/-- A tile in rows of its own has every element. -/
theorem pick?_plain {v : VecRegs} (h : streamAt v (c.vwb.toNat + a.toNat) = none) (j : Nat) : pick? v c a j = some (v.el c a j) :=
  if_pos (inStrip_unbound h j)

theorem fills_pureTile {f : Nat → Option Nat} (hfree : Free c q n c.rcN) :
    Fills q w (flatPos c n) c.count (putTileW c n w fun j => pure (f j)) (TileActs c w True f 0) := by
  have h := fills_putTileW (w := w) (det := True) hfree fun j _ => givesOpt_pure q True (f j)
  rwa [flagsOver_none fun _ _ _ => rfl] at h

theorem works_moveTile (hr : Ready s) (hrc : 1 ≤ s.hart.cfg.rcN) (hplainD : PlainTile s d) {srcs : List (BitVec 7)}
    (hsrcs : ∀ n ∈ srcs, PlainTile s n) (f : VecRegs → BitVec 1024 → Nat → Option Nat) (e : Entry) :
    Works s e s.hart.cfg.width (flatPos s.hart.cfg d.toNat) s.hart.cfg.count (moveTile (s.hart.cfg.startAt st) d m srcs f)
      (TileActs (s.hart.cfg.startAt st) s.hart.cfg.width True (fun j =>
        if activeIn (s.hart.cfg.startAt st) m (predOf s.hart.vec s.hart.cfg.psel.toNat) j then
          f s.hart.vec (predOf s.hart.vec s.hart.cfg.psel.toNat) j
        else none) 0) := by
  unfold moveTile vrun
  refine works_vrunN hr ?_ (exec_getHart _) ?_
  · refine List.forall_mem_append.2 ⟨fun o ho => ?_, List.forall_mem_singleton.2 (hplainD.opnd hrc e ..).startAt⟩
    obtain ⟨n, hn, rfl⟩ := List.mem_map.1 ho
    exact ((hsrcs n hn).opnd hrc e ..).startAt
  · dsimp only
    rw [queued_vec]
    exact fills_pureTile (c := s.hart.cfg.startAt st) (hplainD.free e)

section

variable (hr : Ready s) (hrc : 1 ≤ s.hart.cfg.rcN) (hvl : s.hart.cfg.vlN ≤ vlmax s.hart.cfg.et) (hplainD : PlainTile s d)
  {srcs : List (BitVec 7)} (hsrcs : ∀ n ∈ srcs, PlainTile s n) {types : Nat → Bool} (htypes : types s.hart.cfg.et = true) {ca cb : Cap}
  (hca : CapOk s.hart ca) (hcb : CapOk s.hart cb)

include hr hrc hvl hplainD hsrcs htypes hca hcb

/-- A masked movement. -/
theorem wroteTile_move (hmask : MaskOk s m) (f : Entry → VecRegs → BitVec 1024 → Nat → Option Nat)
    (hperform : ∀ e, perform e = do maskVl e.cfg m; moveTile e.cfg d m srcs (f e)) {out : Nat → Option Nat}
    (hout : ∀ j, f (entryOf s wd lit ca cb) s.hart.vec (predOf s.hart.vec s.hart.cfg.psel.toNat) j = out j) :
    WroteTile s d s.hart.cfg.width (fun j => if activeAt s m j then out j else none)
      (dispatchV wd lit { etypes := types, a := ca, b := cb } perform s) := by
  refine (wroteTileIf_of_acts (det := True) hr (elemWidth_widthOf _) hplainD hrc hvl (retires_of_works hr
    (dispatches_of_etype hr htypes hca hcb) rfl rfl ?_)).wroteTile trivial
  obtain rfl : f (entryOf s wd lit ca cb) s.hart.vec (predOf s.hart.vec s.hart.cfg.psel.toNat) = out := funext hout
  rw [hperform]
  exact works_bind (exec_maskVl_of_maskOk hmask _) (works_moveTile (st := s.hart.cfg.estart) hr hrc hplainD hsrcs _ _)

/-- A movement that ignores ESTART and takes no mask. -/
theorem wroteWhole_move (hpred : s.hart.cfg.vlN ≤ 1024) (f : Entry → VecRegs → BitVec 1024 → Nat → Option Nat)
    (hperform : ∀ e, perform e = do needPredVl e.cfg.from0; moveTile e.cfg.from0 d 0 srcs (f e)) {out : Nat → Option Nat}
    (hout : ∀ j, f (entryOf s wd lit ca cb) s.hart.vec (predOf s.hart.vec s.hart.cfg.psel.toNat) j = out j) :
    WroteWhole s d out (dispatchV wd lit { etypes := types, a := ca, b := cb } perform s) := by
  refine wroteWhole_of_acts hr hplainD hrc hvl (retires_of_works hr (dispatches_of_etype hr htypes hca hcb) rfl rfl ?_)
  obtain rfl : f (entryOf s wd lit ca cb) s.hart.vec (predOf s.hart.vec s.hart.cfg.psel.toNat) = out := funext hout
  have h := works_moveTile (st := 0) (m := 0) hr hrc hplainD hsrcs (f (entryOf s wd lit ca cb)) (entryOf s wd lit ca cb)
  rw [← from0_eq_startAt] at h
  simp only [activeIn_unmasked, if_true] at h
  rw [hperform]
  exact works_bind (exec_needPredVl_ok (c := s.hart.cfg.from0) hpred _) h

end

/-! ## Counting set positions -/

theorem popBelow_eq_length (p : BitVec 1024) (i : Nat) : popBelow p i = ((List.range i).filter fun n => p.getLsbD n).length :=
  List.countP_eq_length_filter ..

theorem findFrom_succ (i n : Nat) (p : Nat → Bool) :
    findFrom (n + 1) i p = (findFrom n i p).or (if p (i + n) then some (i + n) else none) := by
  induction n generalizing i with
  | zero =>
    rw [findFrom]
    rfl
  | succ n ih =>
    rw [findFrom, ih, findFrom]
    by_cases h : p i = true
    · rw [if_pos h, if_pos h]
      rfl
    · rw [if_neg h, if_neg h, Nat.add_assoc, Nat.add_comm 1 n]

/-- The j-th of the positions that pass. -/
theorem findFrom_rank (p : Nat → Bool) (n j : Nat) :
    findFrom n 0 (fun i => p i && (List.range i).countP p == j) = ((List.range n).filter p)[j]? := by
  induction n with
  | zero => rfl
  | succ n ih =>
    rw [findFrom_succ, ih, Nat.zero_add, List.range_succ, List.filter_append, List.countP_eq_length_filter]
    by_cases hj : j < ((List.range n).filter p).length
    · rw [List.getElem?_append_left hj, List.getElem?_eq_getElem hj]
      rfl
    · rw [List.getElem?_append_right (Nat.not_lt.1 hj), List.getElem?_eq_none (Nat.not_lt.1 hj), Option.none_or, List.filter_singleton]
      cases p n with
      | false => rfl
      | true =>
        by_cases he : ((List.range n).filter p).length = j
        · rw [he, beq_self_eq_true, Nat.sub_self]
          rfl
        · rw [beq_false_of_ne he, List.getElem?_eq_none (by rw [cond_true, List.length_singleton]; omega)]
          rfl

/-- The j-th set position of a predicate. -/
theorem findFrom_popBelow (p : BitVec 1024) (n j : Nat) :
    findFrom n 0 (fun i => p.getLsbD i && popBelow p i == j) = ((List.range n).filter fun i => p.getLsbD i)[j]? :=
  findFrom_rank p.getLsbD n j

/-! ## A converted scalar in every position (STOV) -/

theorem works_stov (hr : Ready s) (hrc : 1 ≤ s.hart.cfg.rcN) (hmask : MaskOk s m) (hplainD : PlainTile s d)
    (het : s.hart.cfg.et < 8) {e : Entry} (hcfg : e.cfg = s.hart.cfg) (hb0 : e.b0 = scalarVal s.hart k) :
    Works s e s.hart.cfg.width (flatPos s.hart.cfg d.toNat) s.hart.cfg.count (performStov d m e)
      (TileActs s.hart.cfg s.hart.cfg.width (s.hart.cfg.frm ≠ 4 ∨ s.hart.cfg.et < 6)
        (fun j => if activeAt s m j then some (bElem s (.vs k) j) else none) (bFlags s (.vs k) m)) := by
  have hq := queued_vec s e
  unfold performStov vrun
  dsimp only
  rw [hcfg]
  refine works_bind (exec_maskVl_of_maskOk hmask _) (works_vrunN hr (List.forall_mem_singleton.2 (hplainD.opnd hrc e ..)) rfl ?_)
  have hany : someActive s.hart.cfg m (predOf (s.queued e).hart.vec s.hart.cfg.psel.toNat) =
      (List.range s.hart.cfg.count).any (activeAt s m) := by
    rw [hq]
    rfl
  rw [activeIn_eq_activeAt hq, hany, ite_bind_same, hb0]
  refine fills_bind (yields_convertOnce _ het _ _) fun x fl hx =>
    (fills_pureTile (hplainD.free e)).mono fun act fl' h => ?_
  obtain ⟨o, ho, hvalue⟩ := h
  obtain ⟨hout, rfl⟩ := hvalue trivial
  refine ⟨o, fun j hj => ⟨(ho j hj).1, (ho j hj).2.trans (by dsimp only; split <;> rfl)⟩, fun hdet => ?_⟩
  obtain ⟨hconv, rfl⟩ := hx hdet
  refine ⟨fun j hj => (hout j hj).trans (if_ctx_congr Iff.rfl (fun hact => ?_) fun _ => rfl), ?_⟩
  · rw [hconv (List.any_eq_true.2 ⟨j, List.mem_range.2 hj, hact⟩), bElem_scalar]
  · rw [flags_or_zero, bFlags_scalar het]

theorem wroteTileIf_stov (hok : TilesOk s m [a, b, d] (.vs k)) (het : s.hart.cfg.et < 8) :
    WroteTileIf (s.hart.cfg.frm ≠ 4 ∨ s.hart.cfg.et < 6) s d s.hart.cfg.width
      (fun j => if activeAt s m j then some (bElem s (.vs k) j) else none) (exec (.stov d k m) s) (bFlags s (.vs k) m) :=
  wroteTileIf_of_acts hok.ready (elemWidth_widthOf _) (hok.plain d (by simp)) hok.rc hok.vl
    (retires_of_works (op := { etypes := upTo7, b := .scalar k }) hok.ready
      (dispatches_of_etype hok.ready (decide_eq_true het) trivial hok.src) rfl rfl
      (works_stov hok.ready hok.rc hok.mask (hok.plain d (by simp)) het rfl rfl))

theorem vectorMoveResults_tiles : Sys2Proof.Claim.VectorMoveResults := by
  intro d a b k m s hok het
  obtain ⟨hr, hmask, htiles, hsrc, hvl, hrc⟩ := hok
  have hA := htiles a (by simp)
  have hB := htiles b (by simp)
  have hD := htiles d (by simp)
  have h11 : upTo11 s.hart.cfg.et = true := decide_eq_true het
  have hone : ∀ n ∈ [a], PlainTile s n := List.forall_mem_singleton.2 hA
  have htwo : ∀ n ∈ [a, b], PlainTile s n := List.forall_mem_cons.2 ⟨hA, List.forall_mem_singleton.2 hB⟩
  have hpick {c : VConf} {n : BitVec 7} (hn : PlainTile s n) (hc : c = s.hart.cfg ∨ c = s.hart.cfg.from0) (j : Nat) :
      pick? s.hart.vec c n j = some (elemOf s n s.hart.cfg.width j) := by
    rcases hc with rfl | rfl <;> exact pick?_plain (hn.first hrc) j
  have mv {perform : Entry → M Unit} {wd lit : BitVec 32} {cb : Cap} (hcb : CapOk s.hart cb) {srcs : List (BitVec 7)}
      (hsrcs : ∀ n ∈ srcs, PlainTile s n) (f : Entry → VecRegs → BitVec 1024 → Nat → Option Nat) :=
    wroteTile_move (perform := perform) (wd := wd) (lit := lit) hr hrc hvl hD hsrcs h11 (ca := .none) trivial hcb hmask f
  have whole {perform : Entry → M Unit} {wd lit : BitVec 32} {types : Nat → Bool} (htypes : types s.hart.cfg.et = true)
      (hpred : s.hart.cfg.vlN ≤ 1024) {srcs : List (BitVec 7)}
      (hsrcs : ∀ n ∈ srcs, PlainTile s n) (f : Entry → VecRegs → BitVec 1024 → Nat → Option Nat) :=
    wroteWhole_move (perform := perform) (wd := wd) (lit := lit) hr hrc hvl hD hsrcs htypes (ca := .none) (cb := .none) trivial trivial
      hpred f
  refine ⟨?_, ?_, ?_, ?_, ?_, fun hpred => ⟨?_, ?_, ?_, fun h5 => ?_⟩, fun h5 => ?_, fun h8 => ?_⟩
  · exact mv (cb := .none) trivial hone (fun e v _ j => pick? v e.cfg a j) (fun _ => rfl) fun j => hpick hA (.inl rfl) j
  · exact mv (cb := .none) trivial hone (fun e v _ j => pick? v e.cfg a (j / e.cfg.vlN * e.cfg.vlN + (e.cfg.vlN - 1 - j % e.cfg.vlN)))
      (fun _ => rfl) fun j => hpick hA (.inl rfl) _
  · refine mv (cb := .scalar k) hsrc hone (fun e v _ j => if j % e.cfg.vlN < e.b0.toNat then none else pick? v e.cfg a (j - e.b0.toNat))
      (fun _ => rfl) fun j => ?_
    change (if _ < (scalarVal s.hart k).toNat then _ else pick? s.hart.vec s.hart.cfg a _) = _
    rw [hpick hA (.inl rfl)]
    rfl
  · refine mv (cb := .scalar k) hsrc hone (fun e v _ j =>
      if j % e.cfg.vlN + e.b0.toNat < e.cfg.vlN then pick? v e.cfg a (j + e.b0.toNat) else some 0) (fun _ => rfl) fun j => ?_
    change (if _ + (scalarVal s.hart k).toNat < _ then pick? s.hart.vec s.hart.cfg a _ else _) = _
    rw [hpick hA (.inl rfl)]
    rfl
  · refine mv (cb := .none) trivial htwo (fun e v _ j =>
      match pick? v e.cfg b j with
      | some k => if k < e.cfg.vlN then pick? v e.cfg a (j / e.cfg.vlN * e.cfg.vlN + k) else some 0
      | none => none) (fun _ => rfl) fun j => ?_
    change (match pick? s.hart.vec s.hart.cfg b j with
      | some k => if k < s.hart.cfg.vlN then pick? s.hart.vec s.hart.cfg a (j / s.hart.cfg.vlN * s.hart.cfg.vlN + k) else some 0
      | none => none) = _
    rw [hpick hB (.inl rfl)]
    exact if_congr Iff.rfl (hpick hA (.inl rfl) _) rfl
  · refine whole h11 hpred htwo (fun e v p j => pick? v e.cfg.from0 (if p.getLsbD (j % e.cfg.from0.vlN) then a else b) j)
      (fun _ => rfl) fun j => ?_
    exact hpick (by split <;> assumption) (.inr rfl) j
  · refine whole h11 hpred hone (fun e v p j => if p.getLsbD (j % e.cfg.from0.vlN) then
      pick? v e.cfg.from0 a (j / e.cfg.from0.vlN * e.cfg.from0.vlN + popBelow p (j % e.cfg.from0.vlN)) else none)
      (fun _ => rfl) fun j => ?_
    simp only [← popBelow_eq_length]
    exact if_congr Iff.rfl (hpick hA (.inr rfl) _) rfl
  · refine whole h11 hpred hone (fun e v p j =>
      match findFrom e.cfg.from0.vlN 0 (fun i => p.getLsbD i && popBelow p i == j % e.cfg.from0.vlN) with
      | some i => pick? v e.cfg.from0 a (j / e.cfg.from0.vlN * e.cfg.from0.vlN + i)
      | none => none) (fun _ => rfl) fun j => ?_
    change (match findFrom s.hart.cfg.vlN 0 fun i => (predOf s.hart.vec s.hart.cfg.psel.toNat).getLsbD i &&
        popBelow (predOf s.hart.vec s.hart.cfg.psel.toNat) i == j % s.hart.cfg.vlN with
      | some i => pick? s.hart.vec s.hart.cfg.from0 a (j / s.hart.cfg.vlN * s.hart.cfg.vlN + i)
      | none => none) = _
    rw [findFrom_popBelow]
    cases ((List.range s.hart.cfg.vlN).filter (predOf s.hart.vec s.hart.cfg.psel.toNat).getLsbD)[j % s.hart.cfg.vlN]? with
    | none => rfl
    | some i => exact hpick hA (.inr rfl) _
  · refine whole (types := isIntType) (decide_eq_true h5) hpred (srcs := []) (fun _ h => absurd h List.not_mem_nil)
      (fun e _ p j => some (popBelow p (j % e.cfg.from0.vlN))) (fun _ => rfl) fun j => ?_
    exact congrArg some (popBelow_eq_length _ _)
  · refine ((wroteTileIf_stov ⟨hr, hmask, htiles, hsrc, hvl, hrc⟩ (by omega)).congr (fun j _ => ?_) fun _ => ?_).wroteTile (.inr (by omega))
    · cases activeAt s m j with
      | false => rfl
      | true =>
        refine congrArg some ?_
        dsimp only
        rw [bElem_scalar, converted_fst, if_pos h5, Nat.mod_mod]
    · exact bFlags_int h5
  · obtain ⟨t, fl, hnext, honly, hmarks, hvalue⟩ := wroteTileIf_stov ⟨hr, hmask, htiles, hsrc, hvl, hrc⟩ h8
    exact ⟨t, fl, hnext, honly, fun hfrm => ⟨(hvalue (.inl hfrm)).2, (hvalue (.inl hfrm)).1⟩,
      rowMarksOf_congr (fun j _ => by split <;> rfl) hmarks⟩

/-! ## Interleaving -/

/-- An entry that writes every position of `rows` rows with what `x` gives, whatever ESTART is. -/
theorem wroteRows_of_acts {r : Host.Outcome State Fault Refusal} {rows N : Nat} {pos : Nat → Nat × Nat} {σ x : Nat → Nat}
    (hr : Ready s) (hplain : PlainRows s d.toNat rows) (hrows : 1 ≤ rows) (hvl : s.hart.cfg.vlN ≤ vlmax s.hart.cfg.et)
    (hcov : Covers s.hart.cfg d.toNat rows N pos σ)
    (h : ∃ t act fl, r = .next t ∧ OnlyVec s t fl ∧ ActedVec s.hart.cfg.width pos act N s t ∧
      ∃ fls, fl = flagsOver N (fun _ => true) fls ∧ ∀ j < N, act j = .write (x j % 2 ^ s.hart.cfg.width) ∧ fls j = 0) :
    ∃ t, (r = .next t ∧ OnlyRows (tileRows s d rows) s t ∧ RowMarksOf s t d.toNat rows s.hart.cfg.width 0 fun _ => some 0) ∧
      ∀ j < N, t.hart.vec.elW s.hart.cfg d s.hart.cfg.width (σ j) = x j % 2 ^ s.hart.cfg.width := by
  obtain ⟨t, act, fl, hnext, honly, hvec, fls, rfl, hact⟩ := h
  have hw := elemWidth_widthOf s.hart.cfg.et
  rw [flagsOver_none fun j hj _ => (hact j hj).2] at honly
  refine ⟨t, ⟨hnext, ⟨honly, ?_⟩, ?_⟩, fun j hj => ?_⟩
  · exact onlyRowsOf_covered hvec hr.soundRows hw hcov hvl fun r hr => tileRows_of_lt hr
  · exact rowMarksOf_acted hvec hr.soundRows hw hcov hvl (hplain.first hrows) (fun j hj => by rw [(hact j hj).1]; rfl)
      fun j hj => by rw [(hact j hj).1]; rfl
  · refine (tileElem_acted hvec hr.soundRows hw hcov hvl (hplain.first hrows) hj).trans ?_
    rw [(hact j hj).1]
    exact Nat.mod_mod _ _

theorem fills_writes {rows N : Nat} {pos : Nat → Nat × Nat} {body : Nat → M Unit} {x : Nat → Nat} (hfree : Free c q n rows)
    (hpos : ∀ j < N, ∃ r i, pos j = (c.vwb.toNat + n + r, i) ∧ r < rows ∧ body j = wrAt c n r i w (x j)) :
    Fills q w pos N (forN N body) fun act fl =>
      ∃ fls, fl = flagsOver N (fun _ => true) fls ∧ ∀ j < N, act j = .write (x j % 2 ^ w) ∧ fls j = 0 := by
  refine fills_forN (P := fun j a fl => a = .write (x j % 2 ^ w) ∧ fl = 0) fun j hj => ?_
  obtain ⟨r, i, hp, hlt, hbody⟩ := hpos j hj
  rw [hp, hbody]
  exact acts_wrAt hfree hlt (x j) ⟨rfl, rfl⟩

theorem plainRows_part {k : Nat} (h : PlainRows s n (2 * s.hart.cfg.rcN)) (hrc : 1 ≤ s.hart.cfg.rcN) (hk : k ≤ s.hart.cfg.rcN) :
    PlainRows s (n + k) s.hart.cfg.rcN := by
  obtain ⟨⟨hin, hall⟩, hfree⟩ := h
  refine ⟨⟨by omega, by omega⟩, fun j hj => ?_⟩
  rw [Nat.add_assoc]
  exact hfree (k + j) (by omega)

/-- The two tiles of 2RC rows, as operands of an entry that takes ESTART as 0. -/
theorem plainOpnd_halves (h : PlainRows s d.toNat (2 * s.hart.cfg.rcN)) (hrc : 1 ≤ s.hart.cfg.rcN) (e : Entry) (use : Use) (span : Nat) :
    ∀ k ≤ 1, PlainOpnd s.hart.cfg.from0 (s.queued e) ⟨d, d.toNat + k * s.hart.cfg.rcN, s.hart.cfg.rcN, use, 1, span⟩ := by
  intro k hk
  have hle : k * s.hart.cfg.rcN ≤ s.hart.cfg.rcN := (Nat.mul_le_mul_right _ hk).trans (Nat.one_mul _).le
  exact ((plainRows_part h hrc hle).opnd hrc e ..).startAt

theorem count_double (c : VConf) : 2 * c.count = 2 * c.rcN * c.vlN := (Nat.mul_assoc ..).symm

theorem works_zip (hr : Ready s) (hrc : 1 ≤ s.hart.cfg.rcN) (hA : PlainTile s a) (hB : PlainTile s b)
    (hD : PlainRows s d.toNat (2 * s.hart.cfg.rcN)) {e : Entry} (hcfg : e.cfg = s.hart.cfg) :
    Works s e s.hart.cfg.width (flatPos s.hart.cfg d.toNat) (2 * s.hart.cfg.count) (performVzip d a b e) fun act fl =>
      ∃ fls, fl = flagsOver (2 * s.hart.cfg.count) (fun _ => true) fls ∧ ∀ k < 2 * s.hart.cfg.count,
        act k = .write (elemOf s (if k % 2 = 0 then a else b) s.hart.cfg.width (k / 2) % 2 ^ s.hart.cfg.width) ∧ fls k = 0 := by
  have hhalf := plainOpnd_halves hD hrc e .dst 0
  unfold performVzip vrun zipTile
  dsimp only
  rw [hcfg]
  refine works_vrunN hr ?_ (exec_getHart _) ?_
  · refine List.forall_mem_cons.2 ⟨(hA.opnd hrc e ..).startAt, List.forall_mem_cons.2 ⟨(hB.opnd hrc e ..).startAt,
      List.forall_mem_cons.2 ⟨?_, List.forall_mem_singleton.2 (hhalf 1 (Nat.le_refl 1))⟩⟩⟩
    have := hhalf 0 (Nat.zero_le 1)
    rwa [Nat.zero_mul] at this
  · refine fills_writes (hD.free e) fun k hk => ⟨k / s.hart.cfg.vlN, k % s.hart.cfg.vlN, rfl, ?_, ?_⟩
    · rw [count_double] at hk
      exact Nat.div_lt_of_lt_mul (Nat.mul_comm _ s.hart.cfg.vlN ▸ hk)
    · have hplain : PlainTile s (if k % 2 = 0 then a else b) := by split <;> assumption
      rw [queued_vec, show pick? s.hart.vec s.hart.cfg.from0 _ (k / 2) = _ from pick?_plain (hplain.first hrc) _]
      rfl

/-- Flat position of element k of 2RC rows that are taken apart (R139). -/
def unzipAt (c : VConf) (k : Nat) : Nat := k % 2 * c.count + k / 2

/-- Row and column of element k of 2RC rows that are taken apart (R139). -/
def unzipPos (c : VConf) (n k : Nat) : Nat × Nat := (c.vwb.toNat + n + (k % 2 * c.rcN + k / 2 / c.vlN), k / 2 % c.vlN)

theorem unzipAt_div (c : VConf) {k : Nat} (hvl : 0 < c.vlN) : unzipAt c k / c.vlN = k % 2 * c.rcN + k / 2 / c.vlN := by
  unfold unzipAt VConf.count
  rw [← Nat.mul_assoc, Nat.add_comm, Nat.add_mul_div_right _ _ hvl, Nat.add_comm]

theorem unzipAt_mod (c : VConf) (k : Nat) : unzipAt c k % c.vlN = k / 2 % c.vlN := by
  unfold unzipAt VConf.count
  rw [← Nat.mul_assoc, Nat.add_comm, Nat.add_mul_mod_self_right]

theorem covers_unzip (c : VConf) (n : Nat) : Covers c n (2 * c.rcN) (2 * c.count) (unzipPos c n) (unzipAt c) where
  place k hk := by
    have hvl : 0 < c.vlN := Nat.pos_of_ne_zero fun h => by rw [VConf.count, h, Nat.mul_zero] at hk; omega
    rw [unzipAt_div c hvl, unzipAt_mod]
    rfl
  inside k hk := by
    rw [← count_double]
    unfold unzipAt
    rcases Nat.mod_two_eq_zero_or_one k with h | h <;> rw [h] <;> omega
  onto p hp := by
    rw [← count_double] at hp
    unfold unzipAt
    by_cases h : p < c.count
    · refine ⟨2 * p, by omega, ?_⟩
      rw [Nat.mul_mod_right]
      omega
    · refine ⟨2 * (p - c.count) + 1, by omega, ?_⟩
      rw [show (2 * (p - c.count) + 1) % 2 = 1 by omega]
      omega
  once j hj k hk he := by
    unfold unzipAt at he
    rcases Nat.mod_two_eq_zero_or_one j with h | h <;> rcases Nat.mod_two_eq_zero_or_one k with h' | h' <;> rw [h, h'] at he <;> omega

/-- Element k of 2RC rows lies in the tile at a or in that at a + RC. -/
theorem pick?_half {k : Nat} (hA : PlainRows s a.toNat (2 * s.hart.cfg.rcN)) (hrc : 1 ≤ s.hart.cfg.rcN)
    (hk : k < 2 * s.hart.cfg.count) :
    pick? s.hart.vec s.hart.cfg.from0 (a + BitVec.ofNat 7 (k / s.hart.cfg.count * s.hart.cfg.rcN)) (k % s.hart.cfg.count) =
      some (elemOf s a s.hart.cfg.width k) := by
  have hcount : 0 < s.hart.cfg.count := by omega
  have hvl : 0 < s.hart.cfg.vlN := Nat.pos_of_mul_pos_left hcount
  have hq : k / s.hart.cfg.count ≤ 1 := Nat.le_of_lt_succ (Nat.div_lt_of_lt_mul (Nat.mul_comm 2 _ ▸ hk))
  have hle : k / s.hart.cfg.count * s.hart.cfg.rcN ≤ s.hart.cfg.rcN := (Nat.mul_le_mul_right _ hq).trans (Nat.one_mul _).le
  have hname : (a + BitVec.ofNat 7 (k / s.hart.cfg.count * s.hart.cfg.rcN)).toNat = a.toNat + k / s.hart.cfg.count * s.hart.cfg.rcN := by
    obtain ⟨⟨hin, -⟩, -⟩ := hA
    rw [BitVec.toNat_add, BitVec.toNat_ofNat]
    omega
  have hpart := (plainRows_part hA hrc hle).first hrc
  have hsplit : k = k % s.hart.cfg.count + k / s.hart.cfg.count * s.hart.cfg.rcN * s.hart.cfg.vlN := by
    rw [Nat.mul_assoc]
    exact (Nat.mod_add_div' k s.hart.cfg.count).symm
  have hrow : k / s.hart.cfg.vlN = k % s.hart.cfg.count / s.hart.cfg.vlN + k / s.hart.cfg.count * s.hart.cfg.rcN := by
    conv_lhs => rw [hsplit, Nat.add_mul_div_right _ _ hvl]
  have hcol : k % s.hart.cfg.vlN = k % s.hart.cfg.count % s.hart.cfg.vlN := by
    conv_lhs => rw [hsplit, Nat.add_mul_mod_self_right]
  rw [show pick? s.hart.vec s.hart.cfg.from0 _ (k % s.hart.cfg.count) = _ from pick?_plain (by rw [hname]; exact hpart) _]
  refine congrArg some ?_
  unfold VecRegs.el elemOf VecRegs.elW
  rw [hrow, hcol, hname]
  refine (tileElem_unbound hpart ..).trans (Eq.trans ?_ (tileElem_unbound (hA.first (by omega)) ..).symm)
  exact congrArg (rowBits s.hart.vec.rows · _ _) (by rw [Nat.add_assoc, Nat.add_assoc, Nat.add_assoc, Nat.add_comm (k % _ / _)]; rfl)

theorem works_unzip (hr : Ready s) (hrc : 1 ≤ s.hart.cfg.rcN) (hA : PlainRows s a.toNat (2 * s.hart.cfg.rcN))
    (hD : PlainRows s d.toNat (2 * s.hart.cfg.rcN)) {e : Entry} (hcfg : e.cfg = s.hart.cfg) :
    Works s e s.hart.cfg.width (unzipPos s.hart.cfg d.toNat) (2 * s.hart.cfg.count) (performVunzip d a e) fun act fl =>
      ∃ fls, fl = flagsOver (2 * s.hart.cfg.count) (fun _ => true) fls ∧ ∀ k < 2 * s.hart.cfg.count,
        act k = .write (elemOf s a s.hart.cfg.width k % 2 ^ s.hart.cfg.width) ∧ fls k = 0 := by
  have hhalfD := plainOpnd_halves hD hrc e .dst 0
  have hhalfA := plainOpnd_halves hA hrc e .src s.hart.cfg.span
  unfold performVunzip vrun unzipTile
  dsimp only
  rw [hcfg]
  refine works_vrunN hr ?_ (exec_getHart _) ?_
  · have hfirstD := hhalfD 0 (Nat.zero_le 1)
    have hfirstA := hhalfA 0 (Nat.zero_le 1)
    rw [Nat.zero_mul] at hfirstD hfirstA
    exact List.forall_mem_cons.2 ⟨hfirstA, List.forall_mem_cons.2 ⟨hhalfA 1 (Nat.le_refl 1),
      List.forall_mem_cons.2 ⟨hfirstD, List.forall_mem_singleton.2 (hhalfD 1 (Nat.le_refl 1))⟩⟩⟩
  · refine fills_writes (hD.free e) fun k hk =>
      ⟨k % 2 * s.hart.cfg.rcN + k / 2 / s.hart.cfg.vlN, k / 2 % s.hart.cfg.vlN, rfl, ?_, ?_⟩
    · have hcov := (covers_unzip s.hart.cfg d.toNat).row_lt hk
      rwa [unzipAt_div _ ((covers_unzip s.hart.cfg d.toNat).vl_pos hk)] at hcov
    · have hpick : pick? s.hart.vec s.hart.cfg.from0 (a + BitVec.ofNat 7 (k / s.hart.cfg.from0.count * s.hart.cfg.from0.rcN))
          (k % s.hart.cfg.from0.count) = some (elemOf s a s.hart.cfg.width k) := pick?_half hA hrc hk
      rw [queued_vec, hpick]
      rfl

theorem vectorMoveResults_zips : Sys2Proof.Claim.VectorZipResults := by
  intro d a b s hok het hD
  obtain ⟨hr, -, htiles, -, hvl, hrc⟩ := hok
  have hA := htiles a (by simp)
  have hB := htiles b (by simp)
  have hd {types : Nat → Bool} (h : types s.hart.cfg.et = true) : Dispatches { etypes := types } s :=
    dispatches_of_etype hr h (ca := .none) (cb := .none) trivial trivial
  have h11 : upTo11 s.hart.cfg.et = true := decide_eq_true het
  have hpow {n : BitVec 7} {j : Nat} (hn : streamAt s.hart.vec (s.hart.cfg.vwb.toNat + n.toNat) = none) :
      elemOf s n s.hart.cfg.width j % 2 ^ s.hart.cfg.width = elemOf s n s.hart.cfg.width j := by
    refine Nat.mod_eq_of_lt ?_
    unfold elemOf VecRegs.elW
    rw [tileElem_unbound hn]
    exact rowBits_lt (elemWidth_widthOf _) ..
  refine ⟨?_, fun hA2 => ?_⟩
  · have hcov := covers_flat s.hart.cfg d.toNat (2 * s.hart.cfg.rcN)
    rw [← count_double] at hcov
    obtain ⟨t, hwrote, hvalue⟩ := wroteRows_of_acts hr hD (by omega) hvl hcov
      (x := fun k => elemOf s (if k % 2 = 0 then a else b) s.hart.cfg.width (k / 2))
      (retires_of_works (op := { etypes := upTo11 }) hr (hd h11) rfl rfl (works_zip (d := d) hr hrc hA hB hD rfl))
    refine ⟨t, hwrote, fun j hj => ⟨?_, ?_⟩⟩
    · refine (hvalue (2 * j) (by omega)).trans ?_
      rw [if_pos (Nat.mul_mod_right 2 j), Nat.mul_div_cancel_left j (by decide), hpow (hA.first hrc)]
    · refine (hvalue (2 * j + 1) (by omega)).trans ?_
      rw [if_neg (by omega), show (2 * j + 1) / 2 = j by omega, hpow (hB.first hrc)]
  · obtain ⟨t, hwrote, hvalue⟩ := wroteRows_of_acts hr hD (by omega) hvl (covers_unzip s.hart.cfg d.toNat)
      (x := fun k => elemOf s a s.hart.cfg.width k)
      (retires_of_works (op := { etypes := upTo11 }) hr (hd h11) rfl rfl (works_unzip (d := d) hr hrc hA2 hD rfl))
    refine ⟨t, hwrote, fun j hj => ⟨?_, ?_⟩⟩
    · have := hvalue (2 * j) (by omega)
      rw [hpow (hA.first hrc), unzipAt, Nat.mul_mod_right, Nat.zero_mul, Nat.zero_add, Nat.mul_div_cancel_left j (by decide)] at this
      exact this
    · have := hvalue (2 * j + 1) (by omega)
      rw [hpow (hA.first hrc), unzipAt, show (2 * j + 1) % 2 = 1 by omega, Nat.one_mul, show (2 * j + 1) / 2 = j by omega] at this
      exact this

/-- Settles O22: a movement writes each position with what its entry picks from rows that no stream serves; VZIP and VUNZIP write each of
their 2RC rows' positions once. -/
theorem vectorMoveResults : Obligations.VectorMoveResults := ⟨vectorMoveResults_tiles, vectorMoveResults_zips⟩

end Sys2Proof.Machine
end

section
/-! One value delivered to q4 (settles O23). -/

namespace Sys2Proof.Machine

variable {s q u : State} {wd lit : BitVec 32} {ca cb : Cap} {types : Nat → Bool} {perform : Entry → M Unit} {a b p : BitVec 7}

/-! ## Entries that change registers of the hart -/

/-- An entry that checks its element type alone, and whose work changes registers of the hart. -/
theorem dispatchV_retiredWith {f : Hart → Hart} (hr : Ready s) (htypes : types s.hart.cfg.et = true) (hca : CapOk s.hart ca)
    (hcb : CapOk s.hart cb) (h : (perform (entryOf s wd lit ca cb)).exec (s.queued (entryOf s wd lit ca cb)) = (.ok (), u))
    (hu : u.retired = ({ s.queued (entryOf s wd lit ca cb) with hart := f (s.queued (entryOf s wd lit ca cb)).hart } : State).retired) :
    dispatchV wd lit { etypes := types, a := ca, b := cb } perform s = retiredWith s wd lit ca cb f :=
  (dispatchV_done wd lit { etypes := types, a := ca, b := cb } perform hr (dispatches_of_etype hr htypes hca hcb) rfl rfl h).trans
    (congrArg Host.Outcome.next hu)

/-- The hart after x went to q4. -/
def Hart.sent (h : Hart) (x : Word) : Hart := { h with queues := sparsePut [] h.queues 4 (sparseGet [] h.queues 4 ++ [x]) }

/-- What VTOS delivers: element k of tile a, and 0 past the tile (R139). -/
def vtosValue (s : State) (a : BitVec 7) (k : Nat) : Word :=
  if k < s.hart.cfg.count then extendElem s.hart.cfg.et (elemOf s a s.hart.cfg.width k) else 0

/-- Retiring drops the strips. -/
theorem retired_dropped (t : State) :
    ({ t with hart := { t.hart with vec := { t.hart.vec with strips := [], outs := [] } } } : State).retired = t.retired := rfl

theorem queued_queues (s : State) (e : Entry) : (s.queued e).hart.queues = s.hart.queues := passed_queues _

section

variable (hr : Ready s) (htypes : types s.hart.cfg.et = true) (hroom : (sparseGet [] s.hart.queues 4).length < 8)

include hr htypes hroom

/-- An entry that delivers a value of a predicate's bits below VL (R155). -/
theorem delivers_pred (hvl : s.hart.cfg.vlN ≤ 1024) {f : BitVec 1024 → Nat → Word} (hperform : ∀ e, perform e = predDeliver p e.cfg f) :
    dispatchV wd lit { etypes := types } perform s =
      retiredWith s wd lit .none .none fun h => h.sent (f (predOf s.hart.vec p.toNat) s.hart.cfg.vlN) := by
  refine dispatchV_retiredWith hr htypes (ca := .none) (cb := .none) trivial trivial ?_ rfl
  rw [hperform]
  unfold predDeliver
  rw [exec_bind_ok (exec_needPredVl_ok (c := (entryOf s wd lit .none .none).cfg) hvl _), exec_bind_ok (exec_needRoom _ (by rwa [queued_queues])),
    exec_bind_ok (show (readPred p.toNat).exec _ = (.ok (predOf s.hart.vec p.toNat), _) by rw [← queued_vec]; rfl)]
  exact exec_deliver _ _ (by rwa [queued_queues])

omit htypes in
theorem exec_performVtos (ha : PlainTile s a) (hrc : 1 ≤ s.hart.cfg.rcN) {e : Entry} (hcfg : e.cfg = s.hart.cfg) :
    ∃ u, (performVtos a e).exec (s.queued e) = (.ok (), u) ∧
      u.retired = ({ s.queued e with hart := (s.queued e).hart.sent (vtosValue s a e.b0.toNat) } : State).retired := by
  unfold performVtos vrun
  dsimp only
  rw [hcfg]
  refine ⟨_, exec_vrunN_ok (List.forall_mem_singleton.2 (ha.opnd hrc e ..)) (by rw [queued_vec]; exact hr.soundRows)
    (t := { s.queued e with hart := (s.queued e).hart.sent (vtosValue s a e.b0.toNat) }) ?_, retired_dropped _⟩
  rw [exec_bind_ok (exec_needRoom _ (by rwa [queued_queues])), exec_bind_ok (exec_getHart _)]
  dsimp only
  rw [queued_vec]
  exact exec_deliver _ _ (by rwa [queued_queues])

/-- An entry that delivers a value of a tile. -/
theorem delivers_vtos (ha : PlainTile s a) (hrc : 1 ≤ s.hart.cfg.rcN) (hb : scalarOk s.hart b = true) :
    dispatchV wd lit { etypes := types, b := .scalar b } (performVtos a) s =
      retiredWith s wd lit .none (.scalar b) fun h => h.sent (vtosValue s a (scalarVal s.hart b).toNat) := by
  obtain ⟨u, hexec, hu⟩ := exec_performVtos (e := entryOf s wd lit .none (.scalar b)) hr hroom ha hrc rfl
  exact dispatchV_retiredWith hr htypes (ca := .none) (cb := .scalar b) trivial hb hexec hu

end

/-! ## The values -/

theorem findFrom_eq_head (f : Nat → Bool) (n i : Nat) : findFrom n i f = ((List.range' i n).filter f).head? := by
  induction n generalizing i with
  | zero => rfl
  | succ n ih =>
    rw [findFrom, List.range'_succ, List.filter_cons]
    by_cases h : f i = true
    · rw [if_pos h, if_pos h]
      rfl
    · rw [if_neg h, if_neg h, ih]

theorem findFrom_eq_filter_head (f : Nat → Bool) (n : Nat) : findFrom n 0 f = ((List.range n).filter f).head? := by
  rw [findFrom_eq_head, ← List.range_eq_range']

/-- An element as a 64-bit value: its own sign for integers that have one, and zeros else (R139). -/
theorem extendElem_eq (et x : Nat) : extendElem et x =
    if et = 0 ∨ et = 2 ∨ et = 3 ∨ et = 11 then (BitVec.ofNat (widthOf et) x).signExtend 64 else BitVec.ofNat 64 x := by
  unfold extendElem
  rw [sextNat_eq_toInt (elemWidth_widthOf et).pos]
  refine if_congr ?_ rfl rfl
  rw [Bool.or_eq_true, isSignedType_iff, beq_iff_eq, or_assoc, or_assoc]

/-- What O23 says of the predicate functions. -/
theorem predDeliveries (hr : Ready s) (het : s.hart.cfg.et < 12) (hroom : (sparseGet [] s.hart.queues 4).length < 8)
    (hvl : s.hart.cfg.vlN ≤ 1024) :
    let set' := (List.range s.hart.cfg.vlN).filter fun i => (predOf s.hart.vec p.toNat).getLsbD i
    let sent (w : RWord) (y : Word) := retiredWith s w.toWord 0 .none .none fun h => h.sent y
    exec (.ppop p) s = sent (encPpop p) (BitVec.ofNat 64 set'.length) ∧
    exec (.pfirst p) s = sent (encPfirst p) (match set' with | i :: _ => BitVec.ofNat 64 i | [] => BitVec.allOnes 64) ∧
    exec (.pany p) s = sent (encPany p) (if set' = [] then 0 else 1) := by
  have h11 : upTo11 s.hart.cfg.et = true := decide_eq_true het
  refine ⟨?_, ?_, ?_⟩ <;> refine (delivers_pred hr h11 hroom hvl fun _ => rfl).trans ?_ <;> dsimp only
  · rw [popBelow_eq_length]
  · rw [findFrom_eq_filter_head]
    congr
    cases (List.range s.hart.cfg.vlN).filter fun i => (predOf s.hart.vec p.toNat).getLsbD i <;> rfl
  · rw [popBelow_eq_length]
    simp only [List.length_eq_zero_iff]

/-- What O23 says of VTOS, where a tile has a row. -/
theorem vtosDelivery (hr : Ready s) (het : s.hart.cfg.et < 12) (hroom : (sparseGet [] s.hart.queues 4).length < 8)
    (ha : PlainTile s a) (hrc : 1 ≤ s.hart.cfg.rcN) (hb : scalarOk s.hart b = true) :
    let k := (scalarVal s.hart b).toNat
    let x := elemOf s a s.hart.cfg.width k
    exec (.vtos a b) s = retiredWith s (encVtos a b).toWord 0 .none (.scalar b) fun h => h.sent (if k < s.hart.cfg.count then
      if s.hart.cfg.et = 0 ∨ s.hart.cfg.et = 2 ∨ s.hart.cfg.et = 3 ∨ s.hart.cfg.et = 11 then (BitVec.ofNat s.hart.cfg.width x).signExtend 64
      else BitVec.ofNat 64 x else 0) := by
  refine (delivers_vtos hr (decide_eq_true het : upTo11 s.hart.cfg.et = true) hroom ha hrc hb).trans ?_
  unfold vtosValue
  rw [extendElem_eq]
  rfl

/-! ## A tile without rows -/

/-- The reset machine with RC 0 and row 0 bound to an output stream. RC 0 is no value that VCFG writes (R133), but no hypothesis of O23
excludes it. -/
def emptyTile : State := { State.reset with hart := { State.reset.hart with
  cfg := { State.reset.hart.cfg with rc := 0 }
  vec := { State.reset.hart.vec with
    streams := [(0, some { row := 0, record := [], out := true, pos := 0, lastKey := none, buffer := [], fault := none, bad := false })] } } }

/-- The values of q4 in a next state. -/
def q4Next : Host.Outcome State Fault Refusal → List Word
  | .next t => sparseGet [] t.hart.queues 4
  | .fault _ => []
  | .refused _ => []

theorem q4Next_vtos_emptyTile : q4Next (exec (.vtos 0 0) emptyTile) = [] := by decide +kernel

/-- Refutes O23: its hypotheses leave out 1 ≤ RC, and with RC 0 a plain tile has no row that must be unbound. The state `emptyTile`
satisfies them, but VTOS reads the row of an output stream and traps, and q4 gets no value. What O23 says of VTOS is `vtosDelivery` where
RC is at least 1, and what it says of predicates is `predDeliveries`. -/
theorem not_vectorDeliverResults : ¬ Obligations.VectorDeliverResults := by
  intro h
  have hready : Ready emptyTile := ⟨rfl, rfl, rfl, rfl, rfl, rfl⟩
  have hplain : PlainTile emptyTile 0 := ⟨⟨by decide, by decide⟩, fun k hk => absurd hk (Nat.not_lt_zero k)⟩
  have hvtos := (h 0 0 0 emptyTile hready (by decide) (by decide)).1 hplain (by decide)
  have hnone := q4Next_vtos_emptyTile
  rw [hvtos] at hnone
  have hone : q4Next (.next (State.retired { emptyTile.queued (entryOf emptyTile (encVtos 0 0).toWord 0 .none (.scalar 0)) with
      hart := Hart.sent (emptyTile.queued (entryOf emptyTile (encVtos 0 0).toWord 0 .none (.scalar 0))).hart 0 })) = [0] := by
    decide +kernel
  exact absurd (hone.symm.trans hnone) (List.cons_ne_nil 0 [])

end Sys2Proof.Machine
end

section
/-! Predicate functions, and predicates from and to rows (settles O24). -/

namespace Sys2Proof.Machine

variable {s q : State} {wd lit : BitVec 32} {types : Nat → Bool} {perform : Entry → M Unit} {a b d p : BitVec 7}

/-! ## Functions of whole predicates (R155) -/

/-- The hart after predicate n was written. -/
def Hart.putPred (h : Hart) (n : Nat) (x : BitVec 1024) : Hart := { h with vec := { h.vec with preds := sparsePut 0 h.vec.preds n x } }

theorem exec_writePred (q : State) (n : Nat) (x : BitVec 1024) :
    (writePred n x).exec q = (.ok (), { q with hart := q.hart.putPred n x }) := rfl

theorem exec_readPred (q : State) (n : Nat) : (readPred n).exec q = (.ok (predOf q.hart.vec n), q) := rfl

theorem exec_predBinary (q : State) (d a b : BitVec 7) (f : BitVec 1024 → BitVec 1024 → BitVec 1024) :
    (predBinary d a b f).exec q =
      (.ok (), { q with hart := q.hart.putPred d.toNat (f (predOf q.hart.vec a.toNat) (predOf q.hart.vec b.toNat)) }) := rfl

/-- An entry that writes a predicate and checks its element type alone. -/
theorem retires_writePred (hr : Ready s) (htypes : types s.hart.cfg.et = true) {x : BitVec 1024}
    (h : ∀ e : Entry, e.cfg = s.hart.cfg →
      (perform e).exec (s.queued e) = (.ok (), { s.queued e with hart := (s.queued e).hart.putPred d.toNat x })) :
    dispatchV wd lit { etypes := types } perform s = retiredWith s wd lit .none .none fun h => h.putPred d.toNat x :=
  dispatchV_retiredWith hr htypes (ca := .none) (cb := .none) trivial trivial (h _ rfl) rfl

theorem retires_predBinary (hr : Ready s) (htypes : types s.hart.cfg.et = true) {f : BitVec 1024 → BitVec 1024 → BitVec 1024}
    (hperform : ∀ e, perform e = predBinary d a b f) :
    dispatchV wd lit { etypes := types } perform s = retiredWith s wd lit .none .none fun h =>
      h.putPred d.toNat (f (predOf s.hart.vec a.toNat) (predOf s.hart.vec b.toNat)) :=
  retires_writePred hr htypes fun e _ => by rw [hperform, exec_predBinary, queued_vec]

theorem predicateFunctions : Sys2Proof.Claim.PredicateResults := by
  intro d a b s hr het
  have h11 : upTo11 s.hart.cfg.et = true := decide_eq_true het
  refine ⟨?_, ?_, ?_, ?_, ?_, ?_, ?_, fun hvl => ?_⟩
  · exact retires_predBinary (a := a) (b := b) (f := fun x y => x &&& y) hr h11 fun _ => rfl
  · exact retires_predBinary (a := a) (b := b) (f := fun x y => x ||| y) hr h11 fun _ => rfl
  · exact retires_predBinary (a := a) (b := b) (f := fun x y => x ^^^ y) hr h11 fun _ => rfl
  · exact retires_predBinary (a := a) (b := b) (f := fun x y => x &&& ~~~y) hr h11 fun _ => rfl
  · exact retires_predBinary (a := a) (b := a) (f := fun x _ => ~~~x) hr h11 fun _ => rfl
  · exact retires_writePred hr h11 fun _ _ => rfl
  · refine retires_writePred (perform := performPsel d a b) hr h11 fun e _ => ?_
    unfold performPsel
    rw [exec_bind_ok (exec_readPred _ _), exec_predBinary, queued_vec]
  · refine retires_writePred (perform := performPall d) hr h11 fun e he => ?_
    unfold performPall
    rw [he, exec_bind_ok (exec_needPredVl_ok hvl _), exec_writePred]
    rfl

/-! ## Predicates from and to rows (R155) -/

theorem isFpType_iff {et : Nat} : isFpType et = true ↔ et = 5 ∨ et = 6 ∨ et = 7 := by
  unfold isFpType
  rw [Bool.or_eq_true, Bool.or_eq_true, beq_iff_eq, beq_iff_eq, beq_iff_eq, or_assoc]

theorem onePattern_eq {et : Nat} (het : et < 8) :
    onePattern et = if et < 5 then 1 else ((fmtOf et).rnd 0 0 false (Ex.ofInt 1)).1 := by
  unfold onePattern
  by_cases h5 : et < 5
  · rw [if_pos h5, if_neg fun h => by rw [isFpType_iff] at h; omega]
  · rw [if_neg h5, if_pos (isFpType_iff.2 (by omega))]

theorem works_ptov (hr : Ready s) (hrc : 1 ≤ s.hart.cfg.rcN) (hvl : s.hart.cfg.vlN ≤ 1024) (hD : PlainTile s d) {e : Entry}
    (hcfg : e.cfg = s.hart.cfg) :
    Works s e s.hart.cfg.width (flatPos s.hart.cfg d.toNat) s.hart.cfg.count (performPtov d p e)
      (TileActs s.hart.cfg.from0 s.hart.cfg.width True (fun j =>
        some (if (predOf s.hart.vec p.toNat).getLsbD (j % s.hart.cfg.vlN) then onePattern s.hart.cfg.et else 0)) 0) := by
  unfold performPtov vrun
  dsimp only
  rw [hcfg]
  refine works_bind (exec_needPredVl_ok (c := s.hart.cfg.from0) hvl _) (works_vrunN hr ?_ (exec_readPred _ _) ?_)
  · exact List.forall_mem_singleton.2 (hD.opnd hrc e ..).startAt
  · rw [queued_vec]
    exact fills_pureTile (c := s.hart.cfg.from0) (hD.free e)

/-- A tile that takes a value at every position takes the same whatever ESTART is. -/
theorem WroteWhole.wroteTile {x : Nat → Nat} {r : Host.Outcome State Fault Refusal} (h : WroteWhole s d (fun j => some (x j)) r) :
    WroteTile s d s.hart.cfg.width (fun j => some (x j)) r := by
  obtain ⟨t, hnext, honly, htile, hmarks⟩ := h
  exact ⟨t, hnext, honly, htile, rowMarksOf_est (fun _ _ => rfl) hmarks⟩

theorem exec_vec_writePred (q : State) (n : Nat) (f : VecRegs → BitVec 1024) :
    (do let v := (← getHart).vec; writePred n (f v)).exec q = (.ok (), { q with hart := q.hart.putPred n (f q.hart.vec) }) := rfl

/-- The bits of the non-zero elements of row a below VL (R155). -/
def nonZeroBits (c : VConf) (v : VecRegs) (a : BitVec 7) : BitVec 1024 := predOfFn fun i => decide (i < c.vlN) && v.el c a i != 0

/-- A predicate was written, and the strips are dropped. -/
theorem dropped_putPred (q : State) (n : Nat) (x : BitVec 1024) : ({ q with hart := { q.hart.putPred n x with
      vec := { (q.hart.putPred n x).vec with strips := [], outs := [] } } } : State) =
    q.worked 0 { q.hart.vec with preds := sparsePut 0 q.hart.vec.preds n x, strips := [], outs := [] } := by
  unfold State.worked
  rw [flags_or_zero]
  rfl

/-- The configuration of PFROMV: one row, whatever RC is, and ESTART 0. -/
def VConf.oneRow (c : VConf) : VConf := { c.from0 with rc := 1 }

theorem performPfromv_eq (p a : BitVec 7) (e : Entry) : performPfromv p a e = (do
    needPredVl e.cfg.oneRow
    vrun e.cfg.oneRow [Opnd.src e.cfg.oneRow a] (do
      let v := (← getHart).vec
      writePred p.toNat (nonZeroBits e.cfg.oneRow v a))) := rfl

theorem exec_performPfromv (hr : Ready s) (hrows : PlainRows s a.toNat 1) (hvl : s.hart.cfg.vlN ≤ 1024) {e : Entry}
    (hcfg : e.cfg = s.hart.cfg) :
    (performPfromv p a e).exec (s.queued e) = (.ok (), (s.queued e).worked 0 { s.hart.vec with
      preds := sparsePut 0 s.hart.vec.preds p.toNat (nonZeroBits s.hart.cfg.oneRow s.hart.vec a), strips := [], outs := [] }) := by
  have hplain : PlainOpnd s.hart.cfg.oneRow (s.queued e) (Opnd.src s.hart.cfg.oneRow a) := by
    obtain ⟨hrows, hinside, hunbound⟩ := hrows.opnd (Nat.le_refl 1) e a .src 1 s.hart.cfg.span
    exact ⟨hrows, hinside, hunbound⟩
  have hbody := exec_vec_writePred (s.queued e) p.toNat fun v => nonZeroBits s.hart.cfg.oneRow v a
  have hrun := exec_vrunN_ok (n := s.hart.cfg.oneRow.count) (et := s.hart.cfg.oneRow.et) (List.forall_mem_singleton.2 hplain)
    (by rw [queued_vec]; exact hr.soundRows) hbody
  have hneed := exec_needPredVl_ok (c := s.hart.cfg.oneRow) hvl (s.queued e)
  have hdropped := congrArg (Prod.mk (Except.ok () : Except Stop Unit)) (dropped_putPred (s.queued e) p.toNat
    (nonZeroBits s.hart.cfg.oneRow (s.queued e).hart.vec a))
  rw [performPfromv_eq, hcfg, exec_bind_ok hneed]
  refine (hrun.trans hdropped).trans ?_
  rw [queued_vec]

theorem getLsbD_nonZeroBits {i : Nat} (hi : i < 1024) : (nonZeroBits s.hart.cfg.oneRow s.hart.vec a).getLsbD i =
    (decide (i < s.hart.cfg.vlN) && elemOf s a s.hart.cfg.width i != 0) := getLsbD_predOfFn _ hi

theorem predicateRows : Sys2Proof.Claim.PredicateRowResults := by
  intro d a p s hok hvl
  obtain ⟨hr, -, htiles, -, hvlmax, hrc⟩ := hok
  have hA := htiles a (by simp)
  have hD := htiles d (by simp)
  refine ⟨fun het => ?_, fun het => ?_⟩
  · have hrow : PlainRows s a.toNat 1 := by
      obtain ⟨⟨hin, hall⟩, hfree⟩ := hA
      exact ⟨⟨by omega, by omega⟩, fun k hk => hfree k (by omega)⟩
    obtain ⟨t, hnext, honly, hvec⟩ := retires_of_exec (op := { etypes := upTo11 }) (perform := performPfromv p a)
      (wd := (encPfromv p a).toWord) (lit := 0) hr
      (dispatches_of_etype hr (decide_eq_true het) (ca := .none) (cb := .none) trivial trivial) rfl rfl (exec_performPfromv hr hrow hvl rfl)
    have hbits {i : Nat} := getLsbD_nonZeroBits (s := s) (a := a) (i := i)
    generalize nonZeroBits s.hart.cfg.oneRow s.hart.vec a = x at hvec hbits
    have hpred (n : Nat) : predOf t.hart.vec n = if n = p.toNat then x else predOf s.hart.vec n := by
      rw [hvec]
      exact sparseGet_put ..
    refine ⟨t, hnext, honly, ?_, fun n hn => (hpred n).trans (if_neg hn), fun i hi => ?_⟩
    · rw [hvec]
    · rw [hpred, if_pos rfl]
      exact hbits hi
  · rw [← onePattern_eq het]
    exact (wroteWhole_of_acts hr hD hrc hvlmax (retires_of_works (op := { etypes := upTo7 }) hr
      (dispatches_of_etype hr (decide_eq_true het) (ca := .none) (cb := .none) trivial trivial) rfl rfl
      (works_ptov hr hrc hvl hD rfl))).wroteTile

/-- Settles O24: a predicate function runs through reading and writing predicates alone; PFROMV and PTOV take ESTART as 0. -/
theorem predicateResults : Obligations.PredicateResults := ⟨predicateFunctions, predicateRows⟩

end Sys2Proof.Machine
end

section
/-! The pairwise reduction of a list (R92): its sum, its largest and smallest value, and its bound. -/

namespace Sys2Proof.Machine

variable {c : VConf} {f : Nat → Nat → Rounded} {xs : List Nat} {k n w et mode : Nat}

/-! ## One level -/

theorem flagsOver_front (n : Nat) (g : Nat → Flags) :
    flagsOver (n + 1) (fun _ => true) g = g 0 ||| flagsOver n (fun _ => true) fun k => g (k + 1) := by
  induction n with
  | zero => exact (flags_zero_or _).trans (flags_or_zero _).symm
  | succ n ih => rw [flagsOver_succ, ih, flagsOver_succ, BitVec.or_assoc]

theorem pairUp_cons_cons (x y : Nat) (rest : List Nat) :
    pairUp f (x :: y :: rest) = ((f x y).1 :: (pairUp f rest).1, (f x y).2 ||| (pairUp f rest).2) := rfl

theorem pairUp_one (x : Nat) : pairUp f [x] = ([x], 0) := by
  rw [pairUp]
  exact fun _ _ _ h => by cases h

theorem length_pairUp (f : Nat → Nat → Rounded) (xs : List Nat) : (pairUp f xs).1.length = (xs.length + 1) / 2 := by
  induction xs using List.twoStepInduction with
  | cons_cons x y rest ih _ =>
    rw [pairUp_cons_cons, List.length_cons, ih, List.length_cons, List.length_cons]
    omega
  | nil => rfl
  | singleton x =>
    rw [pairUp_one, List.length_singleton]

theorem getD_pairUp (h : 2 * k + 1 < xs.length) :
    (pairUp f xs).1.getD k 0 = (f (xs.getD (2 * k) 0) (xs.getD (2 * k + 1) 0)).1 := by
  induction xs using List.twoStepInduction generalizing k with
  | cons_cons x y rest ih _ =>
    rw [pairUp_cons_cons]
    cases k with
    | zero => rfl
    | succ k =>
      rw [List.length_cons, List.length_cons] at h
      exact ih (by omega)
  | nil => exact absurd h (by simp)
  | singleton x => exact absurd h (by simp)

theorem last_pairUp (h : xs.length % 2 = 1) : (pairUp f xs).1.getD (xs.length / 2) 0 = xs.getD (xs.length - 1) 0 := by
  induction xs using List.twoStepInduction with
  | cons_cons x y rest ih _ =>
    rw [List.length_cons, List.length_cons] at h ⊢
    obtain ⟨n, hn⟩ : ∃ n, rest.length = n + 1 := Nat.exists_eq_succ_of_ne_zero (by omega)
    have hrest := ih (by omega)
    rw [hn] at hrest ⊢
    rw [pairUp_cons_cons, show (n + 1 + 1 + 1) / 2 = (n + 1) / 2 + 1 by omega]
    exact hrest
  | nil => exact absurd h (by simp)
  | singleton x =>
    rw [pairUp_one, List.length_singleton]

theorem flags_pairUp (f : Nat → Nat → Rounded) (xs : List Nat) : (pairUp f xs).2 =
    flagsOver (xs.length / 2) (fun _ => true) fun k => (f (xs.getD (2 * k) 0) (xs.getD (2 * k + 1) 0)).2 := by
  induction xs using List.twoStepInduction with
  | cons_cons x y rest ih _ =>
    rw [pairUp_cons_cons, List.length_cons, List.length_cons, show (rest.length + 1 + 1) / 2 = rest.length / 2 + 1 by omega,
      flagsOver_front, ih]
    rfl
  | nil => rfl
  | singleton x =>
    rw [pairUp_one, List.length_singleton]
    rfl

/-- What holds of the values of a list, and of the results of their pairs, holds of those of the level. -/
theorem forall_pairUp {P : Nat → Prop} (hf : ∀ x y, P x → P y → P (f x y).1) (hxs : ∀ x ∈ xs, P x) : ∀ z ∈ (pairUp f xs).1, P z := by
  induction xs using List.twoStepInduction with
  | cons_cons x y rest ih _ =>
    obtain ⟨hx, hy, hrest⟩ := List.forall_mem_cons.1 hxs |>.imp_right List.forall_mem_cons.1
    exact List.forall_mem_cons.2 ⟨hf x y hx hy, ih hrest⟩
  | nil => exact hxs
  | singleton x => exact hxs

/-! ## All levels -/

/-- What holds of lists of no and one value, and of a list where it holds of its level, holds of every list (R92). -/
theorem reduceList_induction {P : List Nat → Rounded → Prop} (empty : P [] (0, 0)) (one : ∀ x, P [x] (x, 0))
    (level : ∀ xs r, 2 ≤ xs.length → P (pairUp f xs).1 r → P xs (r.1, (pairUp f xs).2 ||| r.2)) (xs : List Nat) :
    P xs (reduceList f xs) := by
  have hfuel (k : Nat) : ∀ xs : List Nat, xs.length ≤ k + 1 → P xs (pairReduce f k xs) := by
    induction k with
    | zero => exact fun
      | [], _ => empty
      | [x], _ => one x
      | _ :: _ :: _, h => absurd h (by simp)
    | succ k ih => exact fun
      | [], _ => empty
      | [x], _ => one x
      | x :: y :: rest, h => level (x :: y :: rest) _ (by simp) (ih _ (by
          rw [length_pairUp]
          rw [List.length_cons, List.length_cons] at h ⊢
          omega))
  exact hfuel (xs.length + 1) xs (by omega)

/-- The model's reduction is that of R92. -/
theorem reduces_reduceList (f : Nat → Nat → Rounded) (xs : List Nat) : Reduces f xs (reduceList f xs).1 (reduceList f xs).2 := by
  refine reduceList_induction (P := fun xs r => Reduces f xs r.1 r.2) .empty .one (fun xs r many rest => ?_) xs
  dsimp only
  rw [flags_pairUp]
  exact .level xs (pairUp f xs).1 r.1 r.2 many (length_pairUp f xs) (fun _ h => getD_pairUp h) last_pairUp rest

theorem reduceList_mem {P : Nat → Prop} (h0 : P 0) (hf : ∀ x y, P x → P y → P (f x y).1) (hxs : ∀ x ∈ xs, P x) :
    P (reduceList f xs).1 :=
  reduceList_induction (P := fun xs r => (∀ x ∈ xs, P x) → P r.1) (fun _ => h0) (fun x h => h x (List.mem_singleton_self x))
    (fun _ _ _ ih h => ih (forall_pairUp hf h)) xs hxs

/-! ## Sums of integers -/

/-- A level of sums modulo 2^w keeps the sum, and raises no flag. -/
theorem pairUp_sum (hf : ∀ x y, f x y = ((x + y) % 2 ^ w, 0)) (xs : List Nat) :
    (pairUp f xs).1.sum % 2 ^ w = xs.sum % 2 ^ w ∧ (pairUp f xs).2 = 0 := by
  induction xs using List.twoStepInduction with
  | cons_cons x y rest ih _ =>
    obtain ⟨hsum, hfl⟩ := ih
    rw [pairUp_cons_cons, hf, hfl]
    refine ⟨?_, flags_or_zero 0⟩
    rw [List.sum_cons, List.sum_cons, List.sum_cons, Nat.mod_add_mod, ← Nat.add_assoc, Nat.add_mod, hsum, ← Nat.add_mod]
  | nil => exact ⟨rfl, rfl⟩
  | singleton x => exact ⟨rfl, rfl⟩

theorem reduceList_sum (hf : ∀ x y, f x y = ((x + y) % 2 ^ w, 0)) (hxs : ∀ x ∈ xs, x < 2 ^ w) :
    reduceList f xs = (xs.sum % 2 ^ w, 0) := by
  refine reduceList_induction (P := fun xs r => (∀ x ∈ xs, x < 2 ^ w) → r = (xs.sum % 2 ^ w, 0)) (fun _ => ?_) (fun x h => ?_)
    (fun xs r _ ih h => ?_) xs hxs
  · rw [List.sum_nil, Nat.zero_mod]
  · rw [List.sum_singleton, Nat.mod_eq_of_lt (h x (List.mem_singleton_self x))]
  · have hbound : ∀ z ∈ (pairUp f xs).1, z < 2 ^ w := forall_pairUp (fun x y _ _ => by
      rw [hf]
      exact Nat.mod_lt _ (Nat.two_pow_pos w)) h
    rw [ih hbound, (pairUp_sum hf xs).1, (pairUp_sum hf xs).2]
    exact congrArg _ (flags_or_zero 0)

/-! ## The largest value -/

/-- f takes of two values one of the largest key, and raises no flag. -/
structure Picks (key : Nat → Int) (f : Nat → Nat → Rounded) : Prop where
  one : ∀ x y, (f x y).1 = x ∨ (f x y).1 = y
  left : ∀ x y, key x ≤ key (f x y).1
  right : ∀ x y, key y ≤ key (f x y).1
  quiet : ∀ x y, (f x y).2 = 0

theorem pairUp_picks {key : Nat → Int} (hf : Picks key f) (xs : List Nat) :
    (∀ y ∈ xs, ∃ z ∈ (pairUp f xs).1, key y ≤ key z) ∧ (pairUp f xs).2 = 0 := by
  induction xs using List.twoStepInduction with
  | cons_cons x y rest ih _ =>
    obtain ⟨habove, hfl⟩ := ih
    rw [pairUp_cons_cons, hf.quiet, hfl]
    refine ⟨List.forall_mem_cons.2 ⟨?_, List.forall_mem_cons.2 ⟨?_, fun v hv => ?_⟩⟩, flags_or_zero 0⟩
    · exact ⟨_, List.mem_cons_self, hf.left x y⟩
    · exact ⟨_, List.mem_cons_self, hf.right x y⟩
    · obtain ⟨z, hz, hle⟩ := habove v hv
      exact ⟨z, List.mem_cons_of_mem _ hz, hle⟩
  | nil => exact ⟨fun y hy => absurd hy List.not_mem_nil, rfl⟩
  | singleton x => exact ⟨fun y hy => ⟨y, hy, le_rfl⟩, rfl⟩

theorem reduceList_picks {key : Nat → Int} (hf : Picks key f) (hne : xs ≠ []) :
    (reduceList f xs).1 ∈ xs ∧ (∀ y ∈ xs, key y ≤ key (reduceList f xs).1) ∧ (reduceList f xs).2 = 0 := by
  refine reduceList_induction (P := fun xs r => xs ≠ [] → r.1 ∈ xs ∧ (∀ y ∈ xs, key y ≤ key r.1) ∧ r.2 = 0)
    (fun h => absurd rfl h) (fun x _ => ⟨List.mem_singleton_self x, List.forall_mem_singleton.2 le_rfl, rfl⟩)
    (fun xs r many ih _ => ?_) xs hne
  have hlevel : (pairUp f xs).1 ≠ [] := fun h => by
    have := length_pairUp f xs
    rw [h, List.length_nil] at this
    omega
  obtain ⟨hmem, hall, hfl⟩ := ih hlevel
  obtain ⟨habove, hquiet⟩ := pairUp_picks hf xs
  refine ⟨?_, fun y hy => ?_, ?_⟩
  · refine forall_pairUp (P := (· ∈ xs)) (fun x y hx hy => ?_) (fun _ h => h) r.1 hmem
    rcases hf.one x y with h | h <;> rw [h] <;> assumption
  · obtain ⟨z, hz, hle⟩ := habove y hy
    exact hle.trans (hall z hz)
  · rw [hquiet, hfl]
    exact flags_or_zero 0

/-! ## Bounds of rounded values (R72) -/

/-- The patterns of a format that rounding gives beside finite ones fit its bits below the sign. -/
structure Fmt.Fits (f : Fmt) : Prop where
  max : f.maxMag < 2 ^ (f.eb + f.mb)
  inf : f.infMag < 2 ^ (f.eb + f.mb)
  nan : f.nanPat < 2 ^ (f.eb + f.mb)

theorem fits_fmtOf (et : Nat) : (fmtOf et).Fits := by
  unfold fmtOf
  split <;> exact ⟨by decide, by decide, by decide⟩

theorem signPat_add_lt (f : Fmt) (neg : Bool) {x : Nat} (hx : x < 2 ^ (f.eb + f.mb)) : f.signPat neg + x < 2 ^ (f.eb + f.mb + 1) := by
  rw [Nat.pow_succ]
  unfold Fmt.signPat
  split <;> omega

theorem Fmt.Fits.overflow_lt {f : Fmt} (h : f.Fits) (mode : Nat) (neg sat : Bool) : (f.overflow mode neg sat).1 < 2 ^ (f.eb + f.mb + 1) := by
  obtain ⟨hmax, hinf, hnan⟩ := h
  unfold Fmt.overflow
  split
  · exact signPat_add_lt f neg hmax
  · split
    · exact hnan.trans (Nat.pow_lt_pow_succ Nat.one_lt_two)
    · have hboth (toInf : Bool) : (if toInf then f.infMag else f.maxMag) < 2 ^ (f.eb + f.mb) := by
        split <;> assumption
      exact signPat_add_lt f neg (hboth _)

theorem Fmt.Fits.roundFin_lt {f : Fmt} (h : f.Fits) (mode u : Nat) (sat neg : Bool) (m : Nat) (e : Int) (st : Bool) :
    (f.roundFin mode u sat neg m e st).1 < 2 ^ (f.eb + f.mb + 1) := by
  unfold Fmt.roundFin
  split
  · exact signPat_add_lt f neg (Nat.two_pow_pos _)
  · have hfin (mode' mag : Nat) (fl : Flags) :
        (if f.maxMag < mag then f.overflow mode' neg sat else (f.signPat neg + mag, fl)).1 < 2 ^ (f.eb + f.mb + 1) := by
      split
      · exact h.overflow_lt _ _ _
      · next hle => exact signPat_add_lt f neg ((Nat.not_lt.1 hle).trans_lt h.max)
    exact hfin _ _ _

theorem Fmt.Fits.rnd_lt {f : Fmt} (h : f.Fits) (mode u : Nat) (sat : Bool) (x : Ex) : (f.rnd mode u sat x).1 < 2 ^ (f.eb + f.mb + 1) := by
  have hpow : 2 ^ (f.eb + f.mb) < 2 ^ (f.eb + f.mb + 1) := Nat.pow_lt_pow_succ Nat.one_lt_two
  cases x with
  | nan sig =>
    change (if _ then _ else _ : Rounded).1 < _
    split
    · exact Nat.two_pow_pos _
    · exact h.nan.trans hpow
  | inf neg =>
    change (if _ then _ else if _ then _ else _ : Rounded).1 < _
    split
    · exact signPat_add_lt f neg h.max
    · split
      · exact signPat_add_lt f neg h.inf
      · exact h.nan.trans hpow
  | fin neg m e st => exact h.roundFin_lt mode u sat neg m e st

theorem fmtOf_width (hlo : 5 ≤ et) (hhi : et < 8) : (fmtOf et).eb + (fmtOf et).mb + 1 = widthOf et := by
  rw [fmtOf_bits hlo hhi]
  exact Nat.sub_add_cancel (elemWidth_widthOf et).pos

theorem rnd_fmtOf_lt (hlo : 5 ≤ et) (hhi : et < 8) (mode u : Nat) (sat : Bool) (x : Ex) :
    ((fmtOf et).rnd mode u sat x).1 < 2 ^ widthOf et := fmtOf_width hlo hhi ▸ (fits_fmtOf et).rnd_lt mode u sat x

theorem sum_fmtOf_lt (hlo : 5 ≤ et) (hhi : et < 8) (mode x y : Nat) : ((fmtOf et).sum mode x y).1 < 2 ^ widthOf et :=
  rnd_fmtOf_lt hlo hhi ..

theorem pick_fmtOf_lt (hlo : 5 ≤ et) (hhi : et < 8) (largest : Bool) {x y : Nat} (hx : x < 2 ^ widthOf et) (hy : y < 2 ^ widthOf et) :
    ((fmtOf et).pick largest x y).1 < 2 ^ widthOf et := by
  have hnan : (fmtOf et).nanPat < 2 ^ widthOf et := by
    rw [← fmtOf_width hlo hhi]
    exact (fits_fmtOf et).nan.trans (Nat.pow_lt_pow_succ Nat.one_lt_two)
  unfold Fmt.pick
  dsimp only
  repeat' split
  all_goals assumption

/-! ## Reductions of an element type (R140) -/

/-- Of a list of values of ETYPE the reduction with f is what `is` says, and a value of ETYPE. -/
def ReducesAs (c : VConf) (f : VConf → Nat → Nat → Rounded) (is : VConf → List Nat → Nat → Flags → Prop) : Prop :=
  ∀ xs : List Nat, xs ≠ [] → (∀ x ∈ xs, x < 2 ^ c.width) →
    is c xs (reduceList (f c) xs).1 (reduceList (f c) xs).2 ∧ (reduceList (f c) xs).1 < 2 ^ c.width

theorem isIntType_iff : isIntType et = true ↔ et < 5 := decide_eq_true_iff

theorem reducesAs_sum (het : c.et < 8) : ReducesAs c combSum isSum := by
  intro xs hne hxs
  have hpos := Nat.two_pow_pos c.width
  unfold isSum
  by_cases h5 : c.et < 5
  · have hf (x y : Nat) : combSum c x y = ((x + y) % 2 ^ c.width, 0) := if_pos (isIntType_iff.2 h5)
    rw [if_pos h5, reduceList_sum hf hxs]
    exact ⟨⟨rfl, rfl⟩, Nat.mod_lt _ hpos⟩
  · have hf : combSum c = (fmtOf c.et).sum c.frm.toNat := funext₂ fun x y => if_neg (mt isIntType_iff.1 h5)
    rw [if_neg h5, hf]
    exact ⟨reduces_reduceList _ xs, reduceList_mem hpos (fun x y _ _ => sum_fmtOf_lt (by omega) het _ x y) hxs⟩

/-- The larger value by a key. -/
theorem picks_larger (key : Nat → Int) : Picks key fun x y => (if key x < key y then y else x, 0) where
  one x y := by
    dsimp only
    split
    · exact .inr rfl
    · exact .inl rfl
  left x y := by
    dsimp only
    split <;> omega
  right x y := by
    dsimp only
    split <;> omega
  quiet _ _ := rfl

/-- A choice of an element type: the larger by a key of integers, and the format's choice of the others. -/
theorem reducesAs_pick {f : VConf → Nat → Nat → Rounded} {is : VConf → List Nat → Nat → Flags → Prop} {key : Nat → Int} {largest : Bool}
    (het : c.et < 8)
    (hint : c.et < 5 → f c = fun x y => (if key x < key y then y else x, 0))
    (hfp : ¬c.et < 5 → f c = (fmtOf c.et).pick largest)
    (his : ∀ xs x fl, is c xs x fl ↔ if c.et < 5 then x ∈ xs ∧ (∀ y ∈ xs, key y ≤ key x) ∧ fl = 0
      else Reduces ((fmtOf c.et).pick largest) xs x fl) : ReducesAs c f is := by
  intro xs hne hxs
  rw [his]
  by_cases h5 : c.et < 5
  · have hpicks := reduceList_picks (picks_larger key) hne
    rw [if_pos h5, hint h5]
    exact ⟨hpicks, hxs _ hpicks.1⟩
  · rw [if_neg h5, hfp h5]
    exact ⟨reduces_reduceList _ xs, reduceList_mem (P := (· < 2 ^ c.width)) (Nat.two_pow_pos _)
      (fun x y hx hy => pick_fmtOf_lt (by omega) het _ hx hy) hxs⟩

theorem reducesAs_max (het : c.et < 8) : ReducesAs c combMax isMax := by
  refine reducesAs_pick (key := signedBy c.et) (largest := true) het (fun h5 => funext₂ fun x y => ?_) (fun h5 => funext₂ fun x y => ?_)
    fun _ _ _ => Iff.rfl
  · rw [← intOf_eq_signedBy, ← intOf_eq_signedBy]
    exact if_pos (isIntType_iff.2 h5)
  · exact if_neg (mt isIntType_iff.1 h5)

theorem reducesAs_min (het : c.et < 8) : ReducesAs c combMin isMin := by
  refine reducesAs_pick (key := fun x => -signedBy c.et x) (largest := false) het (fun h5 => funext₂ fun x y => ?_)
    (fun h5 => funext₂ fun x y => ?_) fun xs x fl => ?_
  · refine (if_pos (isIntType_iff.2 h5)).trans ?_
    rw [intOf_eq_signedBy, intOf_eq_signedBy]
    simp only [neg_lt_neg_iff]
  · exact if_neg (mt isIntType_iff.1 h5)
  · unfold isMin
    simp only [neg_le_neg_iff]

end Sys2Proof.Machine
end

section
/-! Reductions to a row and to q4 (R140). -/

namespace Sys2Proof.Machine

variable {s q : State} {c : VConf} {m : BitVec 1} {a d : BitVec 7} {w n N N' : Nat} {pos : Nat → Nat × Nat} {wd lit : BitVec 32}
  {f : VConf → Nat → Nat → Rounded} {is : VConf → List Nat → Nat → Flags → Prop} {types : Nat → Bool}

/-! ## The values of a row -/

theorem rowValues_eq (act : Nat → Bool) (t lo hi : Nat) : rowValues s.hart.vec s.hart.cfg a act t lo hi = valuesOf s a act t lo hi := by
  unfold rowValues valuesOf
  rw [List.range'_eq_map_range, List.map_map]
  refine List.map_congr_left fun i _ => ?_
  dsimp only [Function.comp]
  rw [Nat.add_assoc]
  rfl

theorem valuesOf_lt (ha : PlainTile s a) (hrc : 1 ≤ s.hart.cfg.rcN) (act : Nat → Bool) (t lo hi : Nat) :
    ∀ x ∈ valuesOf s a act t lo hi, x < 2 ^ s.hart.cfg.width := by
  intro x hx
  obtain ⟨i, -, rfl⟩ := List.mem_map.1 hx
  split
  · exact elemOf_lt (ha.first hrc) (elemWidth_widthOf _) _
  · exact Nat.two_pow_pos _

theorem valuesOf_ne_nil (act : Nat → Bool) (t : Nat) {lo hi : Nat} (h : lo < hi) : valuesOf s a act t lo hi ≠ [] := by
  refine List.ne_nil_of_length_pos ?_
  unfold valuesOf
  rw [List.length_map, List.length_range']
  omega

/-- Nothing is padded in rows that no stream serves: a reduction is that of the values. -/
theorem reducePart_plain (ha : PlainTile s a) (hrc : 1 ≤ s.hart.cfg.rcN) (g : Nat → Nat → Rounded) (act : Nat → Bool) (t lo hi : Nat) :
    reducePart g s.hart.vec s.hart.cfg a act t lo hi = reduceList g (valuesOf s a act t lo hi) := by
  unfold reducePart
  dsimp only
  rw [if_neg, rowValues_eq]
  rw [Bool.not_eq_true, List.any_eq_false]
  intro i _
  rw [padded_unbound (ha.first hrc)]
  exact Bool.false_ne_true

/-- The reduction of row r (R140). -/
def rowReduced (s : State) (a : BitVec 7) (act : Nat → Bool) (f : VConf → Nat → Nat → Rounded) (r : Nat) : Rounded :=
  reduceList (f s.hart.cfg) (valuesOf s a act r 0 s.hart.cfg.vlN)

theorem rowReduced_spec (hf : ReducesAs s.hart.cfg f is) (ha : PlainTile s a) (hrc : 1 ≤ s.hart.cfg.rcN) (hvl : 0 < s.hart.cfg.vlN)
    (act : Nat → Bool) (r : Nat) :
    is s.hart.cfg (valuesOf s a act r 0 s.hart.cfg.vlN) (rowReduced s a act f r).1 (rowReduced s a act f r).2 ∧
      (rowReduced s a act f r).1 < 2 ^ s.hart.cfg.width :=
  hf _ (valuesOf_ne_nil act r hvl) (valuesOf_lt ha hrc act r 0 _)

theorem foldl_map_flags (n : Nat) (g : Nat → Rounded) :
    ((List.range n).map g).foldl (fun fl r => fl ||| r.2) 0 = flagsOver n (fun _ => true) fun t => (g t).2 := by
  rw [List.foldl_map]
  unfold flagsOver
  rw [List.filter_eq_self.2 fun _ _ => rfl]

theorem getD_map_range {α : Type} {g : Nat → α} {t : Nat} (h : t < n) (x : α) : ((List.range n).map g).getD t x = g t := by
  rw [List.getD_eq_getElem?_getD, List.getElem?_map, List.getElem?_range h]
  rfl

/-! ## To a row -/

/-- Positions that the work leaves out. -/
theorem Fills.extend {m : M Unit} {P : (Nat → Act) → Flags → Prop} (h : Fills q w pos N m P) (hN : N ≤ N') :
    Fills q w pos N' m fun act fl => ∃ act', P act' fl ∧ act = fun j => if j < N then act' j else .skip := fun fl g => by
  obtain ⟨act, fl', g', hexec, hP⟩ := h fl g
  refine ⟨fun j => if j < N then act j else .skip, fl', g', ?_, act, hP, rfl⟩
  rw [acted_skip hN fun j hj _ => if_neg (Nat.not_lt.2 hj), acted_congr fun j hj => if_pos hj]
  exact hexec

theorem works_reduceToRow (hok : TilesOk s m [a] (.vv a)) (hd : PlainRows s d.toNat 1) (hrows : s.hart.cfg.rcN ≤ s.hart.cfg.vlN) {e : Entry}
    (hcfg : e.cfg = s.hart.cfg) :
    Works s e s.hart.cfg.width (flatPos s.hart.cfg d.toNat) s.hart.cfg.vlN (reduceRows d a 0 m f e) fun act fl =>
      fl = flagsOver s.hart.cfg.rcN (fun _ => true) (fun r => (rowReduced s a (activeAt s m) f r).2) ∧
      ∀ j < s.hart.cfg.vlN, act j =
        if j < s.hart.cfg.rcN then .write ((rowReduced s a (activeAt s m) f j).1 % 2 ^ s.hart.cfg.width) else .skip := by
  obtain ⟨hr, hmask, htiles, -, -, hrc⟩ := hok
  have hA := htiles a (by simp)
  have hunbound := unbound_queued_singleton hA hrc e
  have hq := queued_vec s e
  have hfits : (decide ((0 : BitVec 1) = 0) && decide (s.hart.cfg.vlN < s.hart.cfg.rcN)) = false :=
    Bool.and_eq_false_imp.2 fun _ => decide_eq_false (Nat.not_lt.2 hrows)
  unfold reduceRows vrun
  dsimp only
  rw [if_neg (by decide), hcfg]
  refine works_bind (exec_maskVl_of_maskOk hmask _) (works_bind (exec_trapIf_false hfits _ _ _) (works_vrunN hr ?_
    (exec_sources_plain hunbound m) ?_))
  · exact List.forall_mem_cons.2 ⟨hA.opnd hrc e .., List.forall_mem_singleton.2 (hd.opnd (Nat.le_refl 1) e ..)⟩
  · dsimp only
    rw [activeIn_eq_activeAt hq, hq]
    simp only [reducePart_plain hA hrc]
    rw [foldl_map_flags]
    refine fills_bind (gives_setFlags _ True _) fun _ fl hfl => ?_
    obtain rfl : fl = _ := congrArg Prod.snd (hfl trivial)
    refine ((fills_writes (N := s.hart.cfg.rcN) (x := fun j => (rowReduced s a (activeAt s m) f j).1) (hd.free e)
      fun j hj => ⟨0, j, ?_, Nat.one_pos, ?_⟩).extend hrows).mono fun act fl' hact => ?_
    · unfold flatPos
      rw [Nat.div_eq_of_lt (hj.trans_le hrows), Nat.mod_eq_of_lt (hj.trans_le hrows)]
    · rw [getD_map_range hj]
      rfl
    · obtain ⟨act', ⟨fls, rfl, hwrite⟩, rfl⟩ := hact
      refine ⟨?_, fun j _ => if_ctx_congr Iff.rfl (fun hj => (hwrite j hj).1) fun _ => rfl⟩
      rw [flagsOver_none fun j hj _ => (hwrite j hj).2, flags_or_zero]
      rfl

/-- What O25 says of a reduction to a row. -/
theorem reducesToRow (hok : TilesOk s m [a] (.vv a)) (hd : PlainRows s d.toNat 1) (hrows : s.hart.cfg.rcN ≤ s.hart.cfg.vlN)
    (hvl : 0 < s.hart.cfg.vlN) (htypes : types s.hart.cfg.et = true) (hf : ReducesAs s.hart.cfg f is) :
    ∃ t fls, dispatchV wd lit { etypes := types } (reduceRows d a 0 m f) s = .next t ∧
      OnlyRows (tileRows s d 1) s t (flagsOver s.hart.cfg.rcN (fun _ => true) fls) ∧
      (∀ r < s.hart.cfg.rcN, is s.hart.cfg (valuesOf s a (activeAt s m) r 0 s.hart.cfg.vlN)
        (tileElem t.hart.vec s.hart.cfg.vwb.toNat d.toNat 0 r s.hart.cfg.width) (fls r)) ∧
      (∀ i, s.hart.cfg.rcN ≤ i → i < s.hart.cfg.vlN → tileElem t.hart.vec s.hart.cfg.vwb.toNat d.toNat 0 i s.hart.cfg.width =
        tileElem s.hart.vec s.hart.cfg.vwb.toNat d.toNat 0 i s.hart.cfg.width) ∧
      RowMarksOf s t d.toNat 1 s.hart.cfg.width s.hart.cfg.vlN fun i => if i < s.hart.cfg.rcN then some 0 else none := by
  have hr := hok.ready
  have hw := elemWidth_widthOf s.hart.cfg.et
  have hcov := covers_flat s.hart.cfg d.toNat 1
  rw [Nat.one_mul] at hcov
  have hfree := hd.first (Nat.le_refl 1)
  obtain ⟨t, act, fl, hnext, honly, hvec, rfl, hact⟩ := retires_of_works (wd := wd) (lit := lit) (op := { etypes := types }) hr
    (dispatches_of_etype hr htypes (ca := .none) (cb := .none) trivial trivial) rfl rfl (works_reduceToRow (f := f) hok hd hrows rfl)
  have helem {j : Nat} (hj : j < s.hart.cfg.vlN) : tileElem t.hart.vec s.hart.cfg.vwb.toNat d.toNat 0 j s.hart.cfg.width =
      (act j).value s.hart.cfg.width (tileElem s.hart.vec s.hart.cfg.vwb.toNat d.toNat 0 j s.hart.cfg.width) := by
    have h := tileElem_acted hvec hr.soundRows hw hcov hok.vl hfree hj
    rwa [id, Nat.div_eq_of_lt hj, Nat.mod_eq_of_lt hj] at h
  refine ⟨t, fun r => (rowReduced s a (activeAt s m) f r).2, hnext,
    ⟨honly, onlyRowsOf_covered hvec hr.soundRows hw hcov hok.vl fun r hr => tileRows_of_lt hr⟩, fun r hrow => ?_,
    fun i hlo hhi => ?_, rowMarksOf_acted hvec hr.soundRows hw hcov hok.vl hfree (fun j hj => ?_) fun j hj => ?_⟩
  · obtain ⟨his, hlt⟩ := rowReduced_spec hf (hok.plain a (by simp)) hok.rc hvl (activeAt s m) r
    rw [helem (hrow.trans_le hrows), hact r (hrow.trans_le hrows), if_pos hrow]
    unfold Act.value
    dsimp only
    rwa [Nat.mod_mod, Nat.mod_eq_of_lt hlt]
  · rw [helem hhi, hact i hhi, if_neg (Nat.not_lt.2 hlo)]
    rfl
  · rw [hact j hj]
    unfold writesAt
    dsimp only [id]
    by_cases h : j < s.hart.cfg.rcN
    · rw [if_pos h, if_pos h]
      rfl
    · rw [if_neg h, if_neg h, decide_eq_false (Nat.not_le.2 hj), Bool.and_false]
      rfl
  · rw [hact j hj]
    dsimp only [id]
    by_cases h : j < s.hart.cfg.rcN
    · rw [if_pos h, if_pos h]
      rfl
    · rw [if_neg h, if_neg h, decide_eq_false (Nat.not_le.2 hj)]
      rfl

/-! ## To q4 -/

/-- The state after values went to q4: its queues, of which q4 has grown by the values and the others are the same. -/
structure Delivered (q t : State) (xs : List Word) : Prop where
  rest : t = { q with hart := { q.hart with queues := t.hart.queues } }
  grown : sparseGet [] t.hart.queues 4 = sparseGet [] q.hart.queues 4 ++ xs
  same : ∀ n, n ≠ 4 → sparseGet [] t.hart.queues n = sparseGet [] q.hart.queues n

theorem Delivered.refl (q : State) : Delivered q q [] := ⟨rfl, (List.append_nil _).symm, fun _ _ => rfl⟩

theorem Delivered.deliver {t : State} {xs : List Word} (h : Delivered q t xs) (hroom : (sparseGet [] q.hart.queues 4).length + xs.length < 8)
    (i : Nat) (x : Word) : ∃ u, (atElem i (deliver x)).exec t = (.ok (), u) ∧ Delivered q u (xs ++ [x]) := by
  obtain ⟨hrest, hgrown, hsame⟩ := h
  have hlt : (sparseGet [] t.hart.queues 4).length < 8 := by rw [hgrown, List.length_append]; exact hroom
  refine ⟨{ t with hart := t.hart.sent x }, ?_, ?_, ?_, fun n hn => ?_⟩
  · unfold atElem
    rw [exec_bind_ok (exec_attempt _ t), exec_deliver x t hlt]
    rfl
  · rw [hrest]
    rfl
  · refine (sparseGet_put_same ..).trans ?_
    rw [hgrown, List.append_assoc]
  · exact (sparseGet_put_other [] _ _ hn).trans (hsame n hn)

theorem exec_deliverAll {k : Nat} {xs : List Word} (hroom : (sparseGet [] q.hart.queues 4).length + (xs.length - k) ≤ 8) :
    ∃ u, (deliverAll k xs).exec q = (.ok (), u) ∧ Delivered q u (xs.drop k) := by
  have hbelow (n : Nat) (hn : n ≤ xs.length) : ∃ u, (forN n fun i => if i < k then pure () else atElem i (deliver (xs.getD i 0))).exec q =
      (.ok (), u) ∧ Delivered q u ((xs.take n).drop k) := by
    induction n with
    | zero => exact ⟨q, rfl, by rw [List.take_zero, List.drop_nil]; exact .refl q⟩
    | succ n ih =>
      obtain ⟨t, hexec, hdone⟩ := ih (Nat.le_of_succ_le hn)
      rw [exec_forN_succ hexec, List.take_add_one, List.getElem?_eq_getElem hn]
      by_cases hk : n < k
      · rw [if_pos hk]
        refine ⟨t, rfl, ?_⟩
        rw [List.drop_eq_nil_of_le (by rw [List.length_take]; omega)] at hdone
        rwa [List.drop_eq_nil_of_le (by rw [List.length_append, List.length_take]; simp; omega)]
      · rw [if_neg hk]
        obtain ⟨u, hu, hdone'⟩ := hdone.deliver (by rw [List.length_drop, List.length_take]; omega) n (xs.getD n 0)
        refine ⟨u, hu, ?_⟩
        rw [List.drop_append_of_le_length (by rw [List.length_take]; omega)]
        rwa [List.getD_eq_getElem _ _ hn] at hdone'
  have h := hbelow xs.length le_rfl
  rwa [List.take_length] at h

/-- The queues apart, an entry that raised flags and delivered values left what it found. -/
theorem Delivered.retired {u : State} {xs : List Word} {fl : Flags} {e : Entry} (h : Delivered ((s.queued e).worked fl s.hart.vec) u xs) :
    ({ u.retired with hart := { u.retired.hart with queues := s.hart.queues } } : State) =
      ((s.queued e).worked fl s.hart.vec).retired := by
  have hqueues : s.hart.queues = ((s.queued e).worked fl s.hart.vec).hart.queues := (queued_queues s e).symm
  obtain ⟨hrest, -, -⟩ := h
  rw [hrest, hqueues]
  rfl

/-- The order of what goes to q4 (R140). -/
theorem extendElem_reduced (het : s.hart.cfg.et < 8) (x : Nat) : extendElem s.hart.cfg.et x =
    if s.hart.cfg.et < 5 then BitVec.ofInt 64 (signedBy s.hart.cfg.et x) else BitVec.ofNat 64 x := by
  rw [extendElem_eq]
  unfold signedBy
  by_cases h : s.hart.cfg.et = 0 ∨ s.hart.cfg.et = 2 ∨ s.hart.cfg.et = 3
  · rw [if_pos (by omega), if_pos (by omega), if_pos h]
    rfl
  · rw [if_neg (by omega), if_neg h, BitVec.ofInt_natCast, ite_self]

/-- The reductions of all rows, in row order. -/
def allReduced (s : State) (a : BitVec 7) (m : BitVec 1) (f : VConf → Nat → Nat → Rounded) : List Rounded :=
  (List.range s.hart.cfg.rcN).map (rowReduced s a (active0 s m) f)

theorem exec_reduceToQueue (hok : TilesOk s m [a] (.vv a)) (hf : f s.hart.cfg.from0 = f s.hart.cfg)
    (hroom : (sparseGet [] s.hart.queues 4).length + (s.hart.cfg.rcN - s.hart.cfg.est) ≤ 8) {e : Entry} (hcfg : e.cfg = s.hart.cfg) :
    ∃ u, (reduceRows d a 1 m f e).exec (s.queued e) =
        (.ok (), { u with hart := { u.hart with vec := { u.hart.vec with strips := [], outs := [] } } }) ∧
      Delivered ((s.queued e).worked (flagsOver s.hart.cfg.rcN (fun _ => true) fun r => (rowReduced s a (active0 s m) f r).2) s.hart.vec) u
        (((allReduced s a m f).map fun r => extendElem s.hart.cfg.et r.1).drop s.hart.cfg.est) := by
  obtain ⟨hr, hmask, htiles, -, -, hrc⟩ := hok
  have hA := htiles a (by simp)
  have hunbound := unbound_queued_singleton hA hrc e
  have hq := queued_vec s e
  have hact : activeIn s.hart.cfg.from0 m (predOf s.hart.vec s.hart.cfg.from0.psel.toNat) = active0 s m :=
    funext fun j => activeIn_from0 ..
  have hrows : ((List.range s.hart.cfg.from0.rcN).map fun t =>
      reducePart (f s.hart.cfg.from0) s.hart.vec s.hart.cfg.from0 a (active0 s m) t 0 s.hart.cfg.from0.vlN) = allReduced s a m f :=
    List.map_congr_left fun t _ => by
      rw [hf]
      exact reducePart_plain hA hrc (f s.hart.cfg) (active0 s m) t 0 s.hart.cfg.vlN
  obtain ⟨u, hdeliver, hdone⟩ := exec_deliverAll (q := (s.queued e).worked
      (flagsOver s.hart.cfg.rcN (fun _ => true) fun r => (rowReduced s a (active0 s m) f r).2) s.hart.vec)
    (k := s.hart.cfg.est) (xs := (allReduced s a m f).map fun r => extendElem s.hart.cfg.et r.1) (by
      unfold allReduced
      rw [List.length_map, List.length_map, List.length_range]
      exact (congrArg (fun x => (sparseGet [] x 4).length + (s.hart.cfg.rcN - s.hart.cfg.est)) (queued_queues s e)).trans_le hroom)
  refine ⟨u, ?_, hdone⟩
  unfold reduceRows vrun
  dsimp only
  rw [if_pos rfl, hcfg]
  rw [exec_bind_ok (show (maskVl s.hart.cfg.from0 m).exec (s.queued e) = (.ok (), s.queued e) from exec_maskVl_of_maskOk hmask _),
    exec_bind_ok (exec_trapIf_false (by rfl) _ _ _)]
  refine exec_vrunN_ok (List.forall_mem_singleton.2 (hA.opnd hrc e ..).startAt) (by rw [queued_vec]; exact hr.soundRows) ?_
  rw [exec_bind_ok (exec_sources_plain (c := s.hart.cfg.from0) hunbound m)]
  dsimp only
  rw [hq, hact, hrows, if_neg (by decide), show (allReduced s a m f).foldl (fun fl r => fl ||| r.2) 0 = _ from foldl_map_flags ..]
  refine (exec_bind_ok (x := ()) (t := (s.queued e).worked _ s.hart.vec) ?_).trans hdeliver
  rw [← hq]
  rfl

/-- What O25 says of a reduction to q4. -/
theorem reducesToQueue (hok : TilesOk s m [a] (.vv a))
    (hroom : (sparseGet [] s.hart.queues 4).length + (s.hart.cfg.rcN - s.hart.cfg.est) ≤ 8) (hvl : 0 < s.hart.cfg.vlN)
    (het : s.hart.cfg.et < 8) (htypes : types s.hart.cfg.et = true) (hf0 : f s.hart.cfg.from0 = f s.hart.cfg)
    (hf : ReducesAs s.hart.cfg f is) :
    ∃ t fls, ∃ xs : List Nat, dispatchV wd lit { etypes := types } (reduceRows d a 1 m f) s = .next t ∧ xs.length = s.hart.cfg.rcN ∧
      (∀ r < s.hart.cfg.rcN, is s.hart.cfg (valuesOf s a (active0 s m) r 0 s.hart.cfg.vlN) (xs.getD r 0) (fls r)) ∧
      sparseGet [] t.hart.queues 4 = sparseGet [] s.hart.queues 4 ++ (xs.drop s.hart.cfg.est).map (fun x =>
        if s.hart.cfg.et < 5 then BitVec.ofInt 64 (signedBy s.hart.cfg.et x) else BitVec.ofNat 64 x) ∧
      (∀ n, n ≠ 4 → sparseGet [] t.hart.queues n = sparseGet [] s.hart.queues n) ∧
      OnlyRows (fun _ => False) s { t with hart := { t.hart with queues := s.hart.queues } }
        (flagsOver s.hart.cfg.rcN (fun _ => true) fls) := by
  have hr := hok.ready
  obtain ⟨u, hexec, hdone⟩ := exec_reduceToQueue (d := d) (f := f) (e := entryOf s wd lit .none .none) hok hf0 hroom rfl
  have hnext := dispatchV_done wd lit { etypes := types } (reduceRows d a 1 m f) hr
    (dispatches_of_etype hr htypes (ca := .none) (cb := .none) trivial trivial) rfl rfl hexec
  rw [retired_dropped] at hnext
  have hworked := hdone.retired
  refine ⟨u.retired, fun r => (rowReduced s a (active0 s m) f r).2, (allReduced s a m f).map Prod.fst, hnext, ?_, fun r hrow => ?_, ?_,
    fun n hn => ?_, ?_⟩
  · unfold allReduced
    rw [List.length_map, List.length_map, List.length_range]
  · unfold allReduced
    rw [List.map_map, getD_map_range hrow]
    exact (rowReduced_spec hf (hok.plain a (by simp)) hok.rc hvl (active0 s m) r).1
  · refine hdone.grown.trans (congrArg₂ _ (congrArg (sparseGet [] · 4) (queued_queues s _)) ?_)
    rw [← List.map_drop, ← List.map_drop, List.map_map]
    exact List.map_congr_left fun r _ => extendElem_reduced het r.1
  · exact (hdone.same n hn).trans (congrArg (sparseGet [] · n) (queued_queues s _))
  · rw [hworked]
    refine ⟨onlyVec_retired hr.empty _ _ _, onlyRowsOf_acted (w := 8) (pos := fun _ => (0, 0)) (act := fun _ => .skip) (N := 0)
      ⟨s.hart.vec.gen, rfl⟩ hr.soundRows (.inr (.inl rfl)) (fun j hj => absurd hj (Nat.not_lt_zero j))
      fun j hj => absurd hj (Nat.not_lt_zero j)⟩

/-! ## Every reduction -/

theorem reductionResults : Sys2Proof.Claim.ReductionResults := by
  intro d a m s hvl
  have row {f : VConf → Nat → Nat → Rounded} {is : VConf → List Nat → Nat → Flags → Prop} {types : Nat → Bool} {wd : BitVec 32}
      (htypes : types s.hart.cfg.et = true) (hf : ReducesAs s.hart.cfg f is) (hok : TilesOk s m [a] (.vv a)) (hd : PlainRows s d.toNat 1)
      (hrows : s.hart.cfg.rcN ≤ s.hart.cfg.vlN) := reducesToRow (wd := wd) (lit := 0) hok hd hrows hvl htypes hf
  refine ⟨fun h5 => ?_, fun hlo het => ?_⟩
  · have het : s.hart.cfg.et < 8 := by omega
    have hint : isIntType s.hart.cfg.et = true := isIntType_iff.2 h5
    exact ⟨row hint (reducesAs_sum het), row hint (reducesAs_max het), row hint (reducesAs_min het),
      fun hok hroom => reducesToQueue hok hroom hvl het hint rfl (reducesAs_sum het),
      fun hok hroom => reducesToQueue hok hroom hvl het hint rfl (reducesAs_max het),
      fun hok hroom => reducesToQueue hok hroom hvl het hint rfl (reducesAs_min het)⟩
  · have hfp := isFpType_of_range hlo het
    exact ⟨row hfp (reducesAs_sum het), row hfp (reducesAs_max het), row hfp (reducesAs_min het),
      fun hok hroom => reducesToQueue hok hroom hvl het hfp rfl (reducesAs_sum het),
      fun hok hroom => reducesToQueue hok hroom hvl het hfp rfl (reducesAs_max het),
      fun hok hroom => reducesToQueue hok hroom hvl het hfp rfl (reducesAs_min het)⟩

end Sys2Proof.Machine
end

section
/-! Scans and segments (R141, R93). -/

namespace Sys2Proof.Machine

variable {s q : State} {c : VConf} {m : BitVec 1} {a b d : BitVec 7} {w n : Nat} {wd lit : BitVec 32}
  {f : VConf → Nat → Nat → Rounded} {is : VConf → List Nat → Nat → Flags → Prop} {types : Nat → Bool} {out : Nat → Rounded}

/-! ## Writing every position from ESTART on -/

theorem foldl_flags_all (n : Nat) (g : Nat → Flags) : (List.range n).foldl (fun fl j => fl ||| g j) 0 = flagsOver n (fun _ => true) g := by
  unfold flagsOver
  rw [List.filter_eq_self.2 fun _ _ => rfl]

/-- The result at flat position j of rows of results. -/
def resultAt (c : VConf) (rows : List (List Rounded)) (j : Nat) : Rounded := (rows.getD (j / c.vlN) []).getD (j % c.vlN) (0, 0)

/-- What is done at each position: those below ESTART are left alone. -/
def ResultActs (c : VConf) (out : Nat → Rounded) (act : Nat → Act) (fl : Flags) : Prop :=
  fl = flagsOver c.count (fun _ => true) (fun j => (out j).2) ∧
    ∀ j < c.count, act j = if j < c.est then .skip else .write ((out j).1 % 2 ^ c.width)

theorem fills_putResults (hfree : Free c q d.toNat c.rcN) {v : VecRegs} (ha : streamAt v (c.vwb.toNat + a.toNat) = none)
    (rows : List (List Rounded)) (hout : ∀ j < c.count, resultAt c rows j = out j) :
    Fills q c.width (flatPos c d.toNat) c.count (putResults c v d a rows) (ResultActs c out) := by
  have hflags : (List.range c.count).foldl (fun fl j => if padded v c a j then fl else fl ||| (resultAt c rows j).2) 0 =
      flagsOver c.count (fun _ => true) fun j => (out j).2 := by
    rw [← foldl_flags_all]
    refine List.foldl_ext _ _ _ fun fl j hj => ?_
    rw [padded_unbound ha, hout j (List.mem_range.1 hj)]
    rfl
  unfold putResults
  refine fills_bind (gives_setFlags q True _) fun _ fl hfl => ?_
  obtain rfl : fl = _ := congrArg Prod.snd (hfl trivial)
  refine (fills_forN (P := fun j a fl => a = (if j < c.est then .skip else .write ((out j).1 % 2 ^ c.width)) ∧ fl = 0)
    fun j hj => ?_).mono fun act fl' h => ?_
  · by_cases hest : j < c.est
    · rw [if_pos hest, if_pos hest]
      exact acts_of_apply .skip ⟨rfl, rfl⟩ fun _ _ _ => rfl
    · rw [if_neg hest, if_neg hest]
      refine acts_wrAt hfree (Nat.div_lt_of_lt_mul (Nat.mul_comm c.rcN c.vlN ▸ hj)) _ ⟨?_, rfl⟩
      rw [← hout j hj]
      rfl
  · obtain ⟨fls, rfl, hact⟩ := h
    refine ⟨?_, fun j hj => (hact j hj).1⟩
    rw [flagsOver_none fun j hj _ => (hact j hj).2, flags_or_zero]
    exact hflags

/-- What O25 says of an instruction that writes every position from ESTART on. -/
theorem tile_of_results {r : Host.Outcome State Fault Refusal} (hr : Ready s) (hD : PlainTile s d) (hrc : 1 ≤ s.hart.cfg.rcN)
    (hvl : s.hart.cfg.vlN ≤ vlmax s.hart.cfg.et) (hout : ∀ j < s.hart.cfg.count, (out j).1 < 2 ^ s.hart.cfg.width)
    (h : ∃ t act fl, r = .next t ∧ OnlyVec s t fl ∧
      ActedVec s.hart.cfg.width (flatPos s.hart.cfg d.toNat) act s.hart.cfg.count s t ∧ ResultActs s.hart.cfg out act fl) :
    ∃ t, r = .next t ∧ OnlyRows (tileRows s d s.hart.cfg.rcN) s t (flagsOver s.hart.cfg.count (fun _ => true) fun j => (out j).2) ∧
      RowMarks s t d s.hart.cfg.width (fun j => if s.hart.cfg.est ≤ j then some 0 else none) ∧
      (∀ j < s.hart.cfg.est, j < s.hart.cfg.count →
        t.hart.vec.elW s.hart.cfg d s.hart.cfg.width j = elemOf s d s.hart.cfg.width j) ∧
      ∀ j, s.hart.cfg.est ≤ j → j < s.hart.cfg.count → t.hart.vec.elW s.hart.cfg d s.hart.cfg.width j = (out j).1 := by
  obtain ⟨t, act, fl, hnext, honly, hvec, rfl, hact⟩ := h
  have hw := elemWidth_widthOf s.hart.cfg.et
  have hcov := covers_flat s.hart.cfg d.toNat s.hart.cfg.rcN
  have helem {j : Nat} (hj : j < s.hart.cfg.count) := tileElem_acted hvec hr.soundRows hw hcov hvl (hD.first hrc) hj
  refine ⟨t, hnext, ⟨honly, onlyRowsOf_covered hvec hr.soundRows hw hcov hvl fun r hr => tileRows_of_lt hr⟩,
    rowMarksOf_acted hvec hr.soundRows hw hcov hvl (hD.first hrc) (fun j hj => ?_) fun j hj => ?_, fun j hest hj => ?_,
    fun j hest hj => ?_⟩
  · rw [hact j hj]
    unfold writesAt
    dsimp only [id]
    by_cases hest : j < s.hart.cfg.est
    · rw [if_pos hest, if_neg (Nat.not_le.2 hest), decide_eq_false (Nat.not_le.2 hest), Bool.and_false]
      rfl
    · rw [if_neg hest, if_pos (Nat.not_lt.1 hest)]
      rfl
  · rw [hact j hj]
    dsimp only [id]
    by_cases hest : j < s.hart.cfg.est
    · rw [if_pos hest, if_neg (Nat.not_le.2 hest), decide_eq_false (Nat.not_le.2 hest)]
      rfl
    · rw [if_neg hest, if_pos (Nat.not_lt.1 hest)]
      rfl
  · refine (helem hj).trans ?_
    rw [hact j hj, if_pos hest]
    rfl
  · refine (helem hj).trans ?_
    rw [hact j hj, if_neg (Nat.not_lt.2 hest)]
    exact (Nat.mod_mod _ _).trans (Nat.mod_eq_of_lt (hout j hj))

/-! ## Scans (R93) -/

/-- The running results of a scan from a first one on: the next is f of the last and the next value. -/
def running (f : Nat → Nat → Rounded) (first : Rounded) (xs : List Nat) : Nat → Rounded
  | 0 => first
  | k + 1 => f (running f first xs k).1 (xs.getD k 0)

theorem running_cons (f : Nat → Nat → Rounded) (first : Rounded) (x : Nat) (xs : List Nat) (k : Nat) :
    running f first (x :: xs) (k + 1) = running f (f first.1 x) xs k := by
  induction k with
  | zero => rfl
  | succ k ih => rw [running, ih]; rfl

theorem getD_scanList_go (f : Nat → Nat → Rounded) (first : Rounded) (xs : List Nat) {k : Nat} (hk : k < xs.length) :
    (scanList.go f first.1 xs).getD k (0, 0) = running f first xs (k + 1) := by
  induction xs generalizing first k with
  | nil => exact absurd hk (Nat.not_lt_zero k)
  | cons x xs ih =>
    rw [running_cons]
    cases k with
    | zero => rfl
    | succ k => exact ih (f first.1 x) (Nat.lt_of_succ_lt_succ hk)

theorem getD_scanList (f : Nat → Nat → Rounded) (first : Nat → Rounded) (x : Nat) (xs : List Nat) {k : Nat} (hk : k < xs.length + 1) :
    (scanList f first (x :: xs)).getD k (0, 0) = running f (first x) xs k := by
  cases k with
  | zero => rfl
  | succ k => exact getD_scanList_go f (first x) xs (Nat.lt_of_succ_lt_succ hk)

/-- The value of position i of row r, with +0 at an inactive one (R93). -/
def valueAt (s : State) (a : BitVec 7) (act : Nat → Bool) (r i : Nat) : Nat :=
  if act (r * s.hart.cfg.vlN + i) then elemOf s a s.hart.cfg.width (r * s.hart.cfg.vlN + i) else 0

theorem valuesOf_zero (act : Nat → Bool) (r n : Nat) : valuesOf s a act r 0 n = (List.range n).map (valueAt s a act r) := by
  unfold valuesOf
  rw [Nat.sub_zero, ← List.range_eq_range']
  rfl

theorem valueAt_lt (ha : PlainTile s a) (hrc : 1 ≤ s.hart.cfg.rcN) (act : Nat → Bool) (r i : Nat) :
    valueAt s a act r i < 2 ^ s.hart.cfg.width := by
  unfold valueAt
  split
  · exact elemOf_lt (ha.first hrc) (elemWidth_widthOf _) _
  · exact Nat.two_pow_pos _

/-- The running result at position k of row r. -/
def scanAt (s : State) (a : BitVec 7) (act : Nat → Bool) (r : Nat) : Nat → Rounded
  | 0 => scanFirst s.hart.cfg (valueAt s a act r 0)
  | k + 1 => combSum s.hart.cfg (scanAt s a act r k).1 (valueAt s a act r (k + 1))

theorem getD_scanList_rowValues (act : Nat → Bool) (r : Nat) {k : Nat} (hk : k < s.hart.cfg.vlN) :
    (scanList (combSum s.hart.cfg) (scanFirst s.hart.cfg) (valuesOf s a act r 0 s.hart.cfg.vlN)).getD k (0, 0) = scanAt s a act r k := by
  obtain ⟨n, hn⟩ := Nat.exists_eq_succ_of_ne_zero (Nat.ne_zero_of_lt hk)
  rw [valuesOf_zero, hn, List.range_succ_eq_map, List.map_cons, getD_scanList _ _ _ _ (by
    rw [List.length_map, List.length_map, List.length_range]
    omega)]
  induction k with
  | zero => rfl
  | succ k ih =>
    rw [running, ih (by omega), scanAt, List.map_map, getD_map_range (by omega)]
    rfl

theorem scanAt_int (h5 : s.hart.cfg.et < 5) (ha : PlainTile s a) (hrc : 1 ≤ s.hart.cfg.rcN) (act : Nat → Bool) (r k : Nat) :
    scanAt s a act r k = ((valuesOf s a act r 0 (k + 1)).sum % 2 ^ s.hart.cfg.width, 0) := by
  have hint : isIntType s.hart.cfg.et = true := isIntType_iff.2 h5
  induction k with
  | zero =>
    rw [scanAt, valuesOf_zero, scanFirst, if_pos hint]
    exact Prod.ext (Nat.mod_eq_of_lt (valueAt_lt ha hrc act r 0)).symm rfl
  | succ k ih =>
    rw [scanAt, ih, valuesOf_zero, valuesOf_zero, List.range_succ (n := k + 1), List.map_append, List.sum_append, List.map_singleton,
      List.sum_singleton, combSum, if_pos hint, Nat.mod_add_mod]

theorem sum_mode (t : Fmt) (frm : BitVec 3) : t.sum (if frm = 4 then 0 else frm.toNat) = t.sum frm.toNat := by
  by_cases h : frm = 4
  · rw [h]
    rfl
  · rw [if_neg h]

theorem scanAt_lt (het : s.hart.cfg.et < 8) (ha : PlainTile s a) (hrc : 1 ≤ s.hart.cfg.rcN) (act : Nat → Bool) (r k : Nat) :
    (scanAt s a act r k).1 < 2 ^ s.hart.cfg.width := by
  by_cases h5 : s.hart.cfg.et < 5
  · rw [scanAt_int h5 ha hrc]
    exact Nat.mod_lt _ (Nat.two_pow_pos _)
  · have hfp : ¬isIntType s.hart.cfg.et = true := mt isIntType_iff.1 h5
    cases k with
    | zero =>
      rw [scanAt, scanFirst, if_neg hfp]
      exact rnd_fmtOf_lt (by omega) het ..
    | succ k =>
      rw [scanAt, combSum, if_neg hfp]
      exact sum_fmtOf_lt (by omega) het ..

theorem flat_rows {j : Nat} (hj : j < c.count) : j / c.vlN < c.rcN ∧ j % c.vlN < c.vlN :=
  ⟨Nat.div_lt_of_lt_mul (Nat.mul_comm c.rcN c.vlN ▸ hj), Nat.mod_lt _ (Nat.pos_of_mul_pos_left (Nat.zero_lt_of_lt hj))⟩

theorem works_scan (hok : TilesOk s m [a, d] (.vv a)) {e : Entry} (hcfg : e.cfg = s.hart.cfg) :
    Works s e s.hart.cfg.width (flatPos s.hart.cfg d.toNat) s.hart.cfg.count (scanRows d a m e)
      (ResultActs s.hart.cfg fun j => scanAt s a (activeAt s m) (j / s.hart.cfg.vlN) (j % s.hart.cfg.vlN)) := by
  obtain ⟨hr, hmask, htiles, -, -, hrc⟩ := hok
  have hA := htiles a (by simp)
  have hD := htiles d (by simp)
  have hunbound := unbound_queued_singleton hA hrc e
  unfold scanRows vrun
  dsimp only
  rw [hcfg]
  refine works_bind (exec_maskVl_of_maskOk hmask _) (works_vrunN hr ?_ (exec_sources_plain hunbound m) ?_)
  · exact List.forall_mem_cons.2 ⟨hA.opnd hrc e .., List.forall_mem_singleton.2 (hD.opnd hrc e ..)⟩
  · refine fills_putResults (hD.free e) (hunbound a (by simp)) _ fun j hj => ?_
    obtain ⟨hrow, hcol⟩ := flat_rows hj
    dsimp only
    rw [resultAt, getD_map_range hrow, activeIn_eq_activeAt (queued_vec s e), queued_vec, rowValues_eq]
    exact getD_scanList_rowValues _ _ hcol

/-! ## Segments (R141) -/

theorem findFrom_first {p : Nat → Bool} {i h : Nat} (hi : i ≤ h) (hh : h < i + n) (hbelow : ∀ k, i ≤ k → k < h → p k = false)
    (hp : p h = true) : findFrom n i p = some h := by
  induction n generalizing i with
  | zero => omega
  | succ n ih =>
    rw [findFrom]
    by_cases he : i = h
    · rw [he, if_pos hp]
    · rw [if_neg (by rw [hbelow i le_rfl (by omega)]; exact Bool.false_ne_true)]
      exact ih (by omega) (by omega) fun k hk hk' => hbelow k (by omega) hk'

theorem findFrom_none {p : Nat → Bool} {i : Nat} (h : ∀ k, i ≤ k → k < i + n → p k = false) : findFrom n i p = none := by
  induction n generalizing i with
  | zero => rfl
  | succ n ih =>
    rw [findFrom, if_neg (by rw [h i le_rfl (by omega)]; exact Bool.false_ne_true)]
    exact ih fun k hk hk' => h k (by omega) (by omega)

section

variable {p : BitVec 1024} {lo hi k : Nat} (h : Segment s p lo hi)

include h

theorem segStart_of_segment (hlo : lo ≤ k) (hhi : k < hi) : segStart p k = lo := by
  obtain ⟨hstart, -, -, hno, -⟩ := h
  induction k with
  | zero => exact (Nat.le_zero.1 hlo).symm
  | succ k ih =>
    rw [segStart]
    by_cases he : lo = k + 1
    · rw [if_pos (he ▸ hstart.resolve_left (by omega)), he]
    · rw [if_neg (by rw [hno (k + 1) (by omega) hhi]; exact Bool.false_ne_true)]
      exact ih (by omega) (by omega)

theorem segEnd_of_segment : segEnd p s.hart.cfg.vlN lo = hi := by
  obtain ⟨-, hlt, hle, hno, hend⟩ := h
  unfold segEnd
  by_cases he : hi = s.hart.cfg.vlN
  · rw [findFrom_none fun i hi' hi'' => hno i (by omega) (by omega), he]
    rfl
  · rw [findFrom_first (h := hi) (by omega) (by omega) (fun i hi' hi'' => hno i (by omega) hi'') (hend.resolve_left he)]
    rfl

end

/-- The reduction of the segment that holds position i of row r. -/
def segmentAt (s : State) (a b : BitVec 7) (m : BitVec 1) (f : VConf → Nat → Nat → Rounded) (r i : Nat) : Rounded :=
  reduceList (f s.hart.cfg) (valuesOf s a (activeAt s m) r (segStart (predOf s.hart.vec b.toNat) i)
    (segEnd (predOf s.hart.vec b.toNat) s.hart.cfg.vlN (segStart (predOf s.hart.vec b.toNat) i)))

theorem segmentAt_lt (hf : ReducesAs s.hart.cfg f is) (ha : PlainTile s a) (hrc : 1 ≤ s.hart.cfg.rcN) (r i : Nat) :
    (segmentAt s a b m f r i).1 < 2 ^ s.hart.cfg.width := by
  unfold segmentAt
  generalize segEnd _ _ _ = hi
  generalize segStart _ _ = lo
  by_cases h : valuesOf s a (activeAt s m) r lo hi = []
  · rw [h]
    exact Nat.two_pow_pos _
  · exact (hf _ h (valuesOf_lt ha hrc _ r lo hi)).2

theorem segmentAt_spec (ha : PlainTile s a) (hrc : 1 ≤ s.hart.cfg.rcN) (hf : ReducesAs s.hart.cfg f is) (r : Nat)
    (_ : r < s.hart.cfg.rcN) (lo hi : Nat) (hseg : Segment s (predOf s.hart.vec b.toNat) lo hi) (k : Nat) (hlo : lo ≤ k) (hhi : k < hi) :
    is s.hart.cfg (valuesOf s a (activeAt s m) r lo hi)
      (segmentAt s a b m f ((r * s.hart.cfg.vlN + k) / s.hart.cfg.vlN) ((r * s.hart.cfg.vlN + k) % s.hart.cfg.vlN)).1
      (segmentAt s a b m f ((r * s.hart.cfg.vlN + k) / s.hart.cfg.vlN) ((r * s.hart.cfg.vlN + k) % s.hart.cfg.vlN)).2 := by
  have hk : k < s.hart.cfg.vlN := by
    obtain ⟨-, -, hle, -⟩ := hseg
    omega
  rw [flat_div hk, flat_mod hk]
  unfold segmentAt
  rw [segStart_of_segment hseg hlo hhi, segEnd_of_segment hseg]
  obtain ⟨-, hlt, -⟩ := hseg
  exact (hf _ (valuesOf_ne_nil _ r hlt) (valuesOf_lt ha hrc _ r lo hi)).1

theorem works_segments (hok : TilesOk s m [a, d] (.vv a)) (hvl : s.hart.cfg.vlN ≤ 1024) {e : Entry} (hcfg : e.cfg = s.hart.cfg) :
    Works s e s.hart.cfg.width (flatPos s.hart.cfg d.toNat) s.hart.cfg.count (segmentRows d a b m f e)
      (ResultActs s.hart.cfg fun j => segmentAt s a b m f (j / s.hart.cfg.vlN) (j % s.hart.cfg.vlN)) := by
  obtain ⟨hr, -, htiles, -, -, hrc⟩ := hok
  have hA := htiles a (by simp)
  have hD := htiles d (by simp)
  have hunbound := unbound_queued_singleton hA hrc e
  unfold segmentRows vrun
  dsimp only
  rw [hcfg]
  refine works_bind (exec_needPredVl_ok hvl _) (works_vrunN hr ?_ (exec_sources_plain hunbound m) ?_)
  · exact List.forall_mem_cons.2 ⟨hA.opnd hrc e .., List.forall_mem_singleton.2 (hD.opnd hrc e ..)⟩
  · refine fills_putResults (hD.free e) (hunbound a (by simp)) _ fun j hj => ?_
    obtain ⟨hrow, hcol⟩ := flat_rows hj
    dsimp only
    rw [resultAt, getD_map_range hrow, getD_map_range hcol, activeIn_eq_activeAt (queued_vec s e), queued_vec, reducePart_plain hA hrc]
    rfl

theorem scanResults : Sys2Proof.Claim.ScanResults := by
  intro d a b m s hok hvl
  have hr := hok.ready
  have hA := hok.plain a (by simp)
  have hD := hok.plain d (by simp)
  have hrc := hok.rc
  have hflat (r k : Nat) (hk : k < s.hart.cfg.vlN) (g : Nat → Nat → Rounded) :
      g ((r * s.hart.cfg.vlN + k) / s.hart.cfg.vlN) ((r * s.hart.cfg.vlN + k) % s.hart.cfg.vlN) = g r k := by
    rw [flat_div hk, flat_mod hk]
  have scan {types : Nat → Bool} {wd : BitVec 32} (htypes : types s.hart.cfg.et = true) (het : s.hart.cfg.et < 8) :=
    tile_of_results hr hD hrc hok.vl (fun j _ => scanAt_lt het hA hrc (activeAt s m) _ _)
      (retires_of_works (wd := wd) (lit := 0) (op := { etypes := types }) hr
        (dispatches_of_etype hr htypes (ca := .none) (cb := .none) trivial trivial) rfl rfl (works_scan hok rfl))
  have segment {f : VConf → Nat → Nat → Rounded} {is : VConf → List Nat → Nat → Flags → Prop} {wd : BitVec 32} (het : s.hart.cfg.et < 8)
      (hvl' : s.hart.cfg.vlN ≤ 1024) (hf : ReducesAs s.hart.cfg f is) :=
    tile_of_results hr hD hrc hok.vl (fun j _ => segmentAt_lt hf hA hrc _ _)
      (retires_of_works (wd := wd) (lit := 0) (op := { etypes := upTo7 }) hr
        (dispatches_of_etype hr (decide_eq_true het) (ca := .none) (cb := .none) trivial trivial) rfl rfl (works_segments (b := b) hok hvl' rfl))
  refine ⟨fun h5 => ?_, fun hlo het => ?_, fun hvl' het => ⟨?_, ?_⟩⟩
  · obtain ⟨t, hnext, hrest⟩ := scan (wd := (encVscan d a m).toWord) (isIntType_iff.2 h5) (by omega)
    refine ⟨t, _, hnext, fun r _ k hk => ?_, hrest⟩
    exact (hflat r k hk (scanAt s a (activeAt s m))).trans (scanAt_int h5 hA hrc _ r k)
  · have hfp : ¬isIntType s.hart.cfg.et = true := mt isIntType_iff.1 (by omega)
    obtain ⟨t, hnext, hrest⟩ := scan (wd := (encVfscan d a m).toWord) (isFpType_of_range hlo het) het
    refine ⟨t, _, hnext, fun r _ => ⟨?_, fun k hk => ?_⟩, hrest⟩
    · refine (hflat r 0 hvl (scanAt s a (activeAt s m))).trans ?_
      dsimp only
      rw [valuesOf_zero, getD_map_range Nat.one_pos]
      exact if_neg hfp
    · refine (hflat r (k + 1) hk (scanAt s a (activeAt s m))).trans ?_
      dsimp only
      rw [hflat r k (by omega) (scanAt s a (activeAt s m)), valuesOf_zero, getD_map_range (by omega), sum_mode]
      exact if_neg hfp
  · obtain ⟨t, hnext, hrest⟩ := segment (wd := (encVsegsum d a b m).toWord) het hvl' (reducesAs_sum het)
    exact ⟨t, _, hnext, segmentAt_spec hA hrc (reducesAs_sum het), hrest⟩
  · obtain ⟨t, hnext, hrest⟩ := segment (wd := (encVsegmax d a b m).toWord) het hvl' (reducesAs_max het)
    exact ⟨t, _, hnext, segmentAt_spec hA hrc (reducesAs_max het), hrest⟩

/-- Settles O25: the pairwise reduction of the model is that of R92 (`reduces_reduceList`), and for integers a sum, a largest or a
smallest value; scans and segments write every position from ESTART on. -/
theorem vectorReduceResults : Obligations.VectorReduceResults := ⟨reductionResults, scanResults⟩

end Sys2Proof.Machine
end

section
/-! Conversions of tiles (R142, R146). -/

namespace Sys2Proof.Machine

variable {s q : State} {c : VConf} {det : Prop} {m : BitVec 1} {a d : BitVec 7} {b : VSrc} {wd lit : BitVec 32} {w et t : Nat}
  {types : Nat → Bool}

/-! ## Tiles written at another width -/

theorem works_convertTile (hok : TilesOk s m [a, d] b) (hvl : s.hart.cfg.vlN ≤ 32768 / w) {f : VConf → Nat → M Nat} {F : Nat → Rounded}
    {e : Entry} (hcfg : e.cfg = s.hart.cfg) (hf : ∀ q x, Gives q det (f s.hart.cfg x) (F x)) :
    Works s e w (flatPos s.hart.cfg d.toNat) s.hart.cfg.count (convertTile d a m w f e)
      (TileActs s.hart.cfg w det (fun j => if activeAt s m j then some (unOut s a F j).1 else none)
        (flagsOver s.hart.cfg.count (activeAt s m) fun j => (unOut s a F j).2)) := by
  obtain ⟨hr, hmask, htiles, -, -, hrc⟩ := hok
  have hA := htiles a (by simp)
  have hD := htiles d (by simp)
  have hq := queued_vec s e
  have hunbound := unbound_queued_singleton hA hrc e
  unfold convertTile vrun
  dsimp only
  rw [hcfg]
  refine works_bind (exec_maskVl_of_maskOk hmask _) (works_bind (exec_trapIf_false (decide_eq_false (Nat.not_lt.2 hvl)) _ _ _)
    (works_vrunN hr ?_ (exec_sources_plain hunbound m) ?_))
  · exact List.forall_mem_cons.2 ⟨hA.opnd hrc e .., List.forall_mem_singleton.2 (hD.opnd hrc e ..)⟩
  · dsimp only
    rw [activeIn_eq_activeAt hq]
    refine fills_active (r := unOut s a F) (hD.free e) fun j hj hact => ?_
    rw [padded_unbound (hunbound a (by simp)), quietly_false, el_eq_elemOf hq]
    exact hf _ _

theorem wroteTileIf_convertTile (hok : TilesOk s m [a, d] b) (hw : ElemWidth w) (hvl : s.hart.cfg.vlN ≤ 32768 / w)
    {f : VConf → Nat → M Nat} {F : Nat → Rounded} {perform : Entry → M Unit} (htypes : types s.hart.cfg.et = true)
    (hperform : ∀ e, e.cfg = s.hart.cfg → perform e = convertTile d a m w f e) (hf : ∀ q x, Gives q det (f s.hart.cfg x) (F x)) :
    WroteTileIf det s d w (fun j => if activeAt s m j then some (unOut s a F j).1 else none)
      (dispatchV wd lit { etypes := types } perform s) (flagsOver s.hart.cfg.count (activeAt s m) fun j => (unOut s a F j).2) := by
  refine wroteTileIf_of_acts hok.ready hw (hok.plain d (by simp)) hok.rc hvl
    (retires_of_works (op := { etypes := types }) hok.ready (dispatches_of_etype hok.ready htypes (ca := .none) (cb := .none) trivial trivial)
      rfl rfl ?_)
  rw [hperform _ rfl]
  exact works_convertTile hok hvl rfl hf

/-! ## Elements (R85, R86, R142) -/

/-- An integer of ETYPE as one of type t, clamped to it with SAT. -/
def intToInt (c : VConf) (t : Nat) (sat : Bool) (x : Nat) : Rounded :=
  let i := signedBy c.et x
  if sat then (takeBits (widthOf t) (max (intMin t) (min (intMax t) i)), if intMin t ≤ i ∧ i ≤ intMax t then 0 else flSAT)
  else (takeBits (widthOf t) i, 0)

/-- The value of an element of ETYPE. -/
def elemValue (c : VConf) (x : Nat) : Ex := if c.et < 5 then Ex.ofInt (signedBy c.et x) else (fmtOf c.et).value x

/-- A floating-point value as an integer of type t (R86). -/
def floatToInt (c : VConf) (t : Nat) (sat : Bool) (x : Nat) : Rounded :=
  let r := toIntClamped c.frm.toNat 0 sat (intMin t) (intMax t) ((fmtOf c.et).value x)
  (takeBits (widthOf t) r.1, r.2)

/-- The conversion of an element from ETYPE to type t (R142). -/
def convertedElem (c : VConf) (t : Nat) (sat : Bool) (x : Nat) : Rounded :=
  if t < 5 then if c.et < 5 then intToInt c t sat x else floatToInt c t sat x
  else (fmtOf t).rnd c.frm.toNat 0 sat (elemValue c x)

theorem clamp_eq {lo hi i : Int} (h : lo ≤ hi) :
    (if (decide (i < lo) || decide (hi < i)) then if i < lo then lo else hi else i) = max lo (min hi i) := by
  simp only [Bool.or_eq_true, decide_eq_true_eq]
  split
  · split <;> omega
  · omega

theorem flIf_clamped {lo hi i : Int} (fl : Flags) : flIf (decide (i < lo) || decide (hi < i)) fl = if lo ≤ i ∧ i ≤ hi then 0 else fl := by
  have hiff : (decide (i < lo) || decide (hi < i)) = true ↔ ¬(lo ≤ i ∧ i ≤ hi) := by
    rw [Bool.or_eq_true, decide_eq_true_eq, decide_eq_true_eq]
    omega
  unfold flIf
  by_cases h : lo ≤ i ∧ i ≤ hi
  · rw [if_pos h, if_neg fun h' => hiff.1 h' h]
  · rw [if_neg h, if_pos (hiff.2 h)]

theorem gives_intToInt (q : State) (h5 : c.et < 5) (ht : t < 5) (sat : Bool) (x : Nat) :
    Gives q det (convertElem c t sat x) (intToInt c t sat x) := by
  unfold convertElem
  rw [if_pos (isIntType_iff.2 h5), if_pos (isIntType_iff.2 ht)]
  dsimp only
  refine (gives_bind (gives_setFlags q det _) fun _ => gives_pure q det _).congr fun _ => ?_
  rw [flags_or_zero, wrapBits_eq_takeBits, intOf_eq_signedBy]
  unfold intToInt
  cases sat with
  | false => rfl
  | true =>
    rw [Bool.true_and, clamp_eq (intMin_le_intMax t), flIf_clamped]
    rfl

theorem gives_floatToInt (q : State) (h5 : ¬c.et < 5) (ht : t < 5) (sat : Bool) (x : Nat) :
    Gives q (c.frm ≠ 4) (convertElem c t sat x) (floatToInt c t sat x) := by
  unfold convertElem
  rw [if_neg (mt isIntType_iff.1 h5), if_pos (isIntType_iff.2 ht)]
  refine (gives_bind (r' := fun u => (wrapBits (widthOf t) (toIntClamped c.frm.toNat u sat (intMin t) (intMax t) ((fmtOf c.et).value x)).1,
    (toIntClamped c.frm.toNat u sat (intMin t) (intMax t) ((fmtOf c.et).value x)).2)) (gives_stepGen q c.frm) fun u => ?_).congr fun _ => ?_
  · have h := gives_bind (gives_setFlags q (c.frm ≠ 4) (toIntClamped c.frm.toNat u sat (intMin t) (intMax t) ((fmtOf c.et).value x)).2) fun _ =>
      gives_pure q (c.frm ≠ 4) (wrapBits (widthOf t) (toIntClamped c.frm.toNat u sat (intMin t) (intMax t) ((fmtOf c.et).value x)).1)
    rwa [flags_or_zero] at h
  · rw [flags_zero_or, wrapBits_eq_takeBits]
    rfl

theorem gives_toFloat (q : State) (ht : ¬t < 5) (sat : Bool) (x : Nat) :
    Gives q (c.frm ≠ 4) (convertElem c t sat x) ((fmtOf t).rnd c.frm.toNat 0 sat (elemValue c x)) := by
  unfold convertElem elemValue
  by_cases h5 : c.et < 5
  · rw [if_pos (isIntType_iff.2 h5), if_neg (mt isIntType_iff.1 ht), if_pos h5, ← intOf_eq_signedBy]
    exact gives_vrnd q _ _ _ _
  · rw [if_neg (mt isIntType_iff.1 h5), if_neg (mt isIntType_iff.1 ht), if_neg h5]
    exact gives_vrnd q _ _ _ _

theorem gives_convertElem (q : State) (hdet : det → c.frm ≠ 4 ∨ c.et < 5 ∧ t < 5) (sat : Bool) (x : Nat) :
    Gives q det (convertElem c t sat x) (convertedElem c t sat x) := by
  unfold convertedElem
  by_cases ht : t < 5
  · by_cases h5 : c.et < 5
    · rw [if_pos ht, if_pos h5]
      exact gives_intToInt q h5 ht sat x
    · rw [if_pos ht, if_neg h5]
      exact (gives_floatToInt q h5 ht sat x).mono fun _ _ h hd => h ((hdet hd).resolve_right fun h => h5 h.1)
  · rw [if_neg ht]
    exact (gives_toFloat q ht sat x).mono fun _ _ h hd => h ((hdet hd).resolve_right fun h => ht h.2)

theorem upTo9_iff : upTo9 et = true ↔ et < 10 := decide_eq_true_iff

theorem wroteTileIf_vcvt {t : BitVec 4} {sf : BitVec 1} (hok : TilesOk s m [a, d] b) (hvl : s.hart.cfg.vlN ≤ 32768 / widthOf t.toNat)
    (het : s.hart.cfg.et < 10) (ht : t.toNat < 10) (hdet : det → s.hart.cfg.frm ≠ 4 ∨ s.hart.cfg.et < 5 ∧ t.toNat < 5) :
    WroteTileIf det s d (widthOf t.toNat)
      (fun j => if activeAt s m j then some (unOut s a (convertedElem s.hart.cfg t.toNat (sf == 1)) j).1 else none)
      (exec (.vcvt d a t sf m) s) (flagsOver s.hart.cfg.count (activeAt s m) fun j =>
        (unOut s a (convertedElem s.hart.cfg t.toNat (sf == 1)) j).2) :=
  wroteTileIf_convertTile (types := fun et => upTo9 et && upTo9 t.toNat) (f := fun c x => convertElem c t.toNat (sf == 1) x) hok
    (elemWidth_widthOf _) hvl (Bool.and_eq_true_iff.2 ⟨upTo9_iff.2 het, upTo9_iff.2 ht⟩) (fun _ _ => rfl)
    fun q x => gives_convertElem q hdet (sf == 1) x

theorem widthOf_bytes (h : et ≠ 10) : widthOf et = 8 ∨ widthOf et = 16 ∨ widthOf et = 32 := by
  unfold widthOf
  rw [if_neg h]
  split
  · exact .inr (.inr rfl)
  · split
    · exact .inr (.inl rfl)
    · exact .inl rfl

/-- A tile of which each element is narrowed or widened, with no flag (R146). -/
theorem wroteTile_resized (hok : TilesOk s m [a, d] b) (hw : ElemWidth w) (hvl : s.hart.cfg.vlN ≤ 32768 / w) {f : VConf → Nat → Nat}
    {perform : Entry → M Unit} (htypes : types s.hart.cfg.et = true)
    (hperform : ∀ e, e.cfg = s.hart.cfg → perform e = convertTile d a m w (fun c x => pure (f c x)) e) {F : Nat → Nat}
    (hF : ∀ j, f s.hart.cfg (elemOf s a s.hart.cfg.width j) % 2 ^ w = F (elemOf s a s.hart.cfg.width j) % 2 ^ w) :
    WroteTile s d w (fun j => if activeAt s m j then some (F (elemOf s a s.hart.cfg.width j)) else none)
      (dispatchV wd lit { etypes := types } perform s) (flagsOver s.hart.cfg.count (activeAt s m) fun _ => 0) := by
  have h := wroteTileIf_convertTile (wd := wd) (lit := lit) (det := True) (F := fun x => (f s.hart.cfg x, 0)) hok hw hvl htypes hperform
    fun q x => gives_pure q True (f s.hart.cfg x)
  refine (h.congr (fun j _ => ?_) fun _ => rfl).wroteTile trivial
  cases activeAt s m j with
  | false => rfl
  | true => exact congrArg some (hF j)

theorem wroteTile_vcvt {t : BitVec 4} {sf : BitVec 1} (hok : TilesOk s m [a, d] b) (hvl : s.hart.cfg.vlN ≤ 32768 / widthOf t.toNat)
    (het : s.hart.cfg.et < 10) (ht : t.toNat < 10) (hdet : s.hart.cfg.frm ≠ 4 ∨ s.hart.cfg.et < 5 ∧ t.toNat < 5) (F : Nat → Rounded)
    (hF : ∀ x, convertedElem s.hart.cfg t.toNat (sf == 1) x = F x) :
    WroteTile s d (widthOf t.toNat) (fun j => if activeAt s m j then some (F (elemOf s a s.hart.cfg.width j)).1 else none)
      (exec (.vcvt d a t sf m) s) (flagsOver s.hart.cfg.count (activeAt s m) fun j => (F (elemOf s a s.hart.cfg.width j)).2) := by
  obtain rfl : convertedElem s.hart.cfg t.toNat (sf == 1) = F := funext hF
  exact (wroteTileIf_vcvt (det := True) hok hvl het ht fun _ => hdet).wroteTile trivial

theorem convertResults : Sys2Proof.Claim.VectorConvertResults := by
  intro d a t sf m s hok
  refine ⟨fun h5 ht hsf hvl => ?_, fun h5 ht hsf hvl => ?_, fun h5 hlo ht hfrm hvl => ?_, fun hlo h10 ht hfrm hvl => ?_,
    fun hlo h10 hlo' ht hfrm hvl => ?_, fun h10 ht hvl => ?_, fun het hvl => ?_, fun het hw hvl => ?_⟩
  · refine wroteTile_vcvt hok hvl (by omega) (by omega) (.inr ⟨h5, ht⟩) (fun x => (takeBits (widthOf t.toNat) (signedBy s.hart.cfg.et x), 0))
      fun x => ?_
    unfold convertedElem
    rw [if_pos ht, if_pos h5, hsf]
    rfl
  · refine wroteTile_vcvt hok hvl (by omega) (by omega) (.inr ⟨h5, ht⟩) (fun x => (takeBits (widthOf t.toNat)
      (max (intMin t.toNat) (min (intMax t.toNat) (signedBy s.hart.cfg.et x))),
        if intMin t.toNat ≤ signedBy s.hart.cfg.et x ∧ signedBy s.hart.cfg.et x ≤ intMax t.toNat then 0 else flSAT)) fun x => ?_
    unfold convertedElem
    rw [if_pos ht, if_pos h5, hsf]
    rfl
  · refine wroteTile_vcvt hok hvl (by omega) ht (.inl hfrm)
      (fun x => (fmtOf t.toNat).rnd s.hart.cfg.frm.toNat 0 (sf == 1) (Ex.ofInt (signedBy s.hart.cfg.et x))) fun x => ?_
    unfold convertedElem elemValue
    rw [if_neg (by omega), if_pos h5]
  · refine wroteTile_vcvt hok hvl h10 (by omega) (.inl hfrm) (floatToInt s.hart.cfg t.toNat (sf == 1)) fun x => ?_
    unfold convertedElem
    rw [if_pos ht, if_neg (by omega)]
  · refine wroteTile_vcvt hok hvl h10 ht (.inl hfrm)
      (fun x => (fmtOf t.toNat).rnd s.hart.cfg.frm.toNat 0 (sf == 1) ((fmtOf s.hart.cfg.et).value x)) fun x => ?_
    unfold convertedElem elemValue
    rw [if_neg (by omega), if_neg (by omega)]
  · obtain ⟨u, fl, hnext, honly, hmarks, -⟩ := wroteTileIf_vcvt (det := False) (sf := sf) hok hvl h10 ht False.elim
    exact ⟨u, fl, hnext, honly, rowMarksOf_congr (fun j _ => by split <;> rfl) hmarks⟩
  · have hne10 : s.hart.cfg.et ≠ 10 := by omega
    have hw : ElemWidth (s.hart.cfg.width / 2) := by
      unfold ElemWidth VConf.width
      rcases widthOf_bytes hne10 with h | h | h <;> rw [h] <;> decide
    refine wroteTile_resized (types := fun et => et < 12 && et != 10) (f := fun _ x => x) (F := fun x => x % 2 ^ (s.hart.cfg.width / 2)) hok hw
      hvl ?_ (perform := performVpack d a m) (fun e he => congrArg (fun c : VConf => convertTile d a m (c.width / 2) (fun _ x => pure x) e) he)
      fun j => (Nat.mod_mod _ _).symm
    exact Bool.and_eq_true_iff.2 ⟨decide_eq_true (by omega), bne_iff_ne.2 hne10⟩
  · have hw' : ElemWidth (2 * s.hart.cfg.width) := by
      have hwidth := elemWidth_widthOf s.hart.cfg.et
      unfold ElemWidth VConf.width at *
      omega
    refine wroteTile_resized (types := fun et => et < 12 && widthOf et != 32)
      (f := fun c x => if sf = 1 then wrapBits (2 * c.width) (sextNat c.width x) else x)
      (F := fun x => if sf = 1 then takeBits (2 * s.hart.cfg.width) (BitVec.ofNat s.hart.cfg.width x).toInt else x) hok hw' hvl ?_
      (perform := performVunpk d a sf m) (fun e he => congrArg (fun c : VConf => convertTile d a m (2 * c.width)
        (fun c x => pure (if sf = 1 then wrapBits (2 * c.width) (sextNat c.width x) else x)) e) he) fun j => ?_
    · exact Bool.and_eq_true_iff.2 ⟨decide_eq_true het, bne_iff_ne.2 hw⟩
    · rw [wrapBits_eq_takeBits, sextNat_eq_toInt (show 0 < s.hart.cfg.width from (elemWidth_widthOf _).pos)]

end Sys2Proof.Machine
end

section
/-! The exponent of a block and its special element (R88, R89). -/

namespace Sys2Proof.Machine

variable {xs : List Nat} {et : Nat}

/-! ## The exponent -/

theorem amaxOf_eq (xs : List Nat) : amaxOf xs =
    ((xs.filter fun x => !fp32.isNan x).map fun x => Nat.min (x % 2 ^ 31) 0x7F7FFFFF).foldl Nat.max 0 := by
  have hmax : fp32.maxMag = 0x7F7FFFFF := by decide
  unfold amaxOf
  rw [hmax]
  generalize (0 : Nat) = r
  induction xs generalizing r with
  | nil => rfl
  | cons x xs ih =>
    rw [List.foldl_cons, ih, List.filter_cons]
    cases fp32.isNan x <;> rfl

theorem amaxOf_le (xs : List Nat) : amaxOf xs ≤ 0x7F7FFFFF := by
  rw [amaxOf_eq, foldl_max_le_iff]
  refine ⟨Nat.zero_le _, fun y hy => ?_⟩
  obtain ⟨x, -, rfl⟩ := List.mem_map.1 hy
  exact Nat.min_le_right ..

theorem v32_fin_ne_zero {x n : Nat} {neg st : Bool} {e : Int} (hx : x ≠ 0) (hlt : x < 2 ^ 31) (h : v32 x = .fin neg n e st) : n ≠ 0 := by
  have hsplit : x / 2 ^ 23 * 2 ^ 23 + x % 2 ^ 23 = x := Nat.div_add_mod' ..
  have hexp : x / 2 ^ 23 % 2 ^ 8 = x / 2 ^ 23 := Nat.mod_eq_of_lt (by omega)
  unfold v32 Fmt.value at h
  change (if _ then if _ then _ else _ else if _ then _ else if x / 2 ^ 23 % 2 ^ 8 = 0 then Ex.fin _ (x % 2 ^ 23) _ _
    else Ex.fin _ (2 ^ 23 + x % 2 ^ 23) _ _) = _ at h
  rw [hexp] at h
  split at h
  · split at h <;> cases h
  · split at h
    · cases h
    · split at h
      · cases h
        omega
      · cases h
        omega

/-- The model's exponent is that of R88. -/
theorem isScale_blockExp {emax : Int} (he : emaxOf et = emax) (xs : List Nat) : IsScale emax xs (blockExp et xs) := by
  unfold IsScale
  dsimp only
  rw [← amaxOf_eq]
  refine ⟨fun hzero => ?_, fun neg n e st hne hv => ?_⟩
  · unfold blockExp
    rw [hzero]
    rfl
  · have hn := v32_fin_ne_zero hne ((amaxOf_le xs).trans_lt (by decide)) hv
    unfold blockExp
    rw [hv]
    dsimp only
    rw [if_neg hn, he]
    split
    · omega
    · split <;> omega

/-! ## The greatest element -/

/-- The step of `greatest`: the value so far, and the next element. -/
def greaterOf (r : Option Nat) (x : Nat) : Option Nat :=
  if fp32.isNan x then r
  else match r with
    | none => some x
    | some y => if fp32.mag y < fp32.mag x then some x else some y

theorem greatest_append (xs : List Nat) (x : Nat) : greatest (xs ++ [x]) = greaterOf (greatest xs) x := by
  unfold greatest
  rw [List.foldl_append]
  rfl

theorem isGreatest_append_iff {k : Nat} (x : Nat) (hk : k < xs.length) :
    IsGreatest (xs ++ [x]) k ↔ IsGreatest xs k ∧ (fp32.isNan x = false → x % 2 ^ 31 ≤ xs.getD k 0 % 2 ^ 31) := by
  have hold {i : Nat} (hi : i < xs.length) : (xs ++ [x]).getD i 0 = xs.getD i 0 := List.getD_append _ _ _ _ hi
  have hnew : (xs ++ [x]).getD xs.length 0 = x := by
    rw [List.getD_append_right _ _ _ _ le_rfl, Nat.sub_self]
    rfl
  unfold IsGreatest
  rw [List.length_append, List.length_singleton, hold hk]
  constructor
  · rintro ⟨-, hnan, hall⟩
    refine ⟨⟨hk, hnan, fun i hi hin => ?_⟩, fun hx => ?_⟩
    · have := hall i (Nat.lt_succ_of_lt hi)
      rw [hold hi] at this
      exact this hin
    · have := hall xs.length (Nat.lt_succ_self _)
      rw [hnew] at this
      exact (this hx).1
  · rintro ⟨⟨-, hnan, hall⟩, hx⟩
    refine ⟨Nat.lt_succ_of_lt hk, hnan, fun i hi hin => ?_⟩
    rcases Nat.lt_succ_iff_lt_or_eq.1 hi with hlt | rfl
    · rw [hold hlt] at hin ⊢
      exact hall i hlt hin
    · rw [hnew] at hin ⊢
      exact ⟨hx hin, fun h => absurd h (by omega)⟩

theorem isGreatest_last {x : Nat} (hx : fp32.isNan x = false)
    (h : ∀ i < xs.length, fp32.isNan (xs.getD i 0) = false → xs.getD i 0 % 2 ^ 31 < x % 2 ^ 31) : IsGreatest (xs ++ [x]) xs.length := by
  have hold {i : Nat} (hi : i < xs.length) : (xs ++ [x]).getD i 0 = xs.getD i 0 := List.getD_append _ _ _ _ hi
  have hnew : (xs ++ [x]).getD xs.length 0 = x := by
    rw [List.getD_append_right _ _ _ _ le_rfl, Nat.sub_self]
    rfl
  unfold IsGreatest
  rw [List.length_append, List.length_singleton, hnew]
  refine ⟨Nat.lt_succ_self _, hx, fun i hi hin => ?_⟩
  rcases Nat.lt_succ_iff_lt_or_eq.1 hi with hlt | rfl
  · rw [hold hlt] at hin ⊢
    exact ⟨(h i hlt hin).le, fun _ => h i hlt hin⟩
  · rw [hnew]
    exact ⟨le_rfl, fun h => absurd h (Nat.lt_irrefl _)⟩

/-- What `greatest` gives: the value of the greatest element, or nothing where every element is a NaN. -/
def GreatestIs (xs : List Nat) : Option Nat → Prop
  | none => ∀ i < xs.length, fp32.isNan (xs.getD i 0) = true
  | some g => ∃ k, IsGreatest xs k ∧ xs.getD k 0 = g

theorem greatestIs_greatest (xs : List Nat) : GreatestIs xs (greatest xs) := by
  induction xs using List.reverseRecOn with
  | nil => exact fun i hi => absurd hi (Nat.not_lt_zero i)
  | append_singleton xs x ih =>
    have hold {i : Nat} (hi : i < xs.length) : (xs ++ [x]).getD i 0 = xs.getD i 0 := List.getD_append _ _ _ _ hi
    have hnew : (xs ++ [x]).getD xs.length 0 = x := by
      rw [List.getD_append_right _ _ _ _ le_rfl, Nat.sub_self]
      rfl
    rw [greatest_append]
    unfold greaterOf
    cases hx : fp32.isNan x with
    | true =>
      rw [if_pos rfl]
      cases hg : greatest xs with
      | none =>
        rw [hg] at ih
        intro i hi
        rw [List.length_append, List.length_singleton] at hi
        rcases Nat.lt_succ_iff_lt_or_eq.1 hi with hlt | rfl
        · rw [hold hlt]
          exact ih i hlt
        · rw [hnew, hx]
      | some g =>
        rw [hg] at ih
        obtain ⟨k, hk, rfl⟩ := ih
        exact ⟨k, (isGreatest_append_iff x hk.1).2 ⟨hk, fun h => by rw [hx] at h; cases h⟩, hold hk.1⟩
    | false =>
      rw [if_neg Bool.false_ne_true]
      cases hg : greatest xs with
      | none =>
        rw [hg] at ih
        exact ⟨xs.length, isGreatest_last hx fun i hi hin => absurd ((ih i hi).symm.trans hin) (by decide), hnew⟩
      | some g =>
        rw [hg] at ih
        obtain ⟨k, hk, rfl⟩ := ih
        dsimp only
        by_cases hlt : fp32.mag (xs.getD k 0) < fp32.mag x
        · rw [if_pos hlt]
          exact ⟨xs.length, isGreatest_last hx fun i hi hin => ((hk.2.2 i hi hin).1).trans_lt hlt, hnew⟩
        · rw [if_neg hlt]
          exact ⟨k, (isGreatest_append_iff x hk.1).2 ⟨hk, fun _ => Nat.not_lt.1 hlt⟩, hold hk.1⟩

theorem isGreatest_unique {j k : Nat} (hj : IsGreatest xs j) (hk : IsGreatest xs k) : j = k := by
  obtain ⟨hjlt, hjnan, hjall⟩ := hj
  obtain ⟨hklt, hknan, hkall⟩ := hk
  have h₁ := hjall k hklt hknan
  have h₂ := hkall j hjlt hjnan
  omega

theorem greatest_eq_some_iff {g : Nat} : greatest xs = some g ↔ ∃ k, IsGreatest xs k ∧ xs.getD k 0 = g := by
  have h := greatestIs_greatest xs
  constructor
  · intro hg
    rwa [hg] at h
  · rintro ⟨k, hk, rfl⟩
    cases hg : greatest xs with
    | none =>
      rw [hg] at h
      have := h k hk.1
      rw [hk.2.1] at this
      cases this
    | some g =>
      rw [hg] at h
      obtain ⟨j, hj, rfl⟩ := h
      rw [isGreatest_unique hj hk]

theorem above6_iff (x : Ex) : above6 x = true ↔ Beyond6 x := by
  cases x with
  | nan sig => exact ⟨fun h => absurd h Bool.false_ne_true, False.elim⟩
  | inf neg => exact ⟨fun _ => trivial, fun _ => rfl⟩
  | fin neg n e st =>
    unfold above6 Beyond6
    dsimp only
    by_cases he : 0 ≤ e
    · rw [if_pos he, decide_eq_true_eq, show (-e).toNat = 0 by omega, Nat.pow_zero, Nat.mul_one]
    · rw [if_neg he, decide_eq_true_eq, show e.toNat = 0 by omega, Nat.pow_zero, Nat.mul_one]

theorem specialOf_ten_iff {g : Nat} : specialOf 10 xs = some g ↔
    ∃ k, IsGreatest xs k ∧ xs.getD k 0 = g ∧ Beyond6 (scaledDown g (blockExp 10 xs)) := by
  have hsome : specialOf 10 xs = some g ↔ greatest xs = some g ∧ above6 (scaledDown g (blockExp 10 xs)) = true := by
    unfold specialOf scaledDown
    rw [if_pos rfl]
    cases greatest xs with
    | none => exact ⟨(nomatch ·), fun h => nomatch h.1⟩
    | some y =>
      dsimp only
      split
      · next h =>
        constructor
        · rintro ⟨⟩
          exact ⟨rfl, h⟩
        · exact fun h => h.1
      · next h =>
        constructor
        · intro h'
          cases h'
        · rintro ⟨⟨⟩, h'⟩
          exact absurd h' h
  rw [hsome, greatest_eq_some_iff, above6_iff]
  constructor
  · rintro ⟨⟨k, hk, hg⟩, h6⟩
    exact ⟨k, hk, hg, h6⟩
  · rintro ⟨k, hk, hg, h6⟩
    exact ⟨⟨k, hk, hg⟩, h6⟩

theorem blockScales : Sys2Proof.Claim.BlockScales := fun xs _ =>
  ⟨isScale_blockExp rfl xs, isScale_blockExp rfl xs, isScale_blockExp rfl xs, isScale_blockExp rfl xs, fun _ h => if_neg h,
    fun _ => specialOf_ten_iff⟩

end Sys2Proof.Machine
end

section
/-! Block scales and block quantisation (R143–R145). -/

namespace Sys2Proof.Machine

variable {s q : State} {c : VConf} {m : BitVec 1} {a d x : BitVec 7} {wd lit : BitVec 32} {w n N : Nat} {xs : List Nat}

/-! ## Rounding under every mode -/

theorem yields_stepGen (q : State) (frm : BitVec 3) : Yields q (stepGen frm) fun u fl => fl = 0 ∧ (frm ≠ 4 → u = 0) := fun fl v => by
  unfold stepGen
  by_cases h : frm = 4
  · refine ⟨(genStep v.gen).toNat / 65536, 0, genStep v.gen, ?_, rfl, fun hne => absurd h hne⟩
    rw [if_pos h, flags_or_zero]
    rfl
  · refine ⟨0, 0, v.gen, ?_, rfl, fun _ => rfl⟩
    rw [if_neg h, flags_or_zero]
    rfl

/-- What rounding gives, with the random word that it took, which is 0 where the mode takes none (R80). -/
theorem yields_vrnd (q : State) (frm : BitVec 3) (f : Fmt) (sat : Bool) (x : Ex) :
    Yields q (vrnd frm f sat x) fun y fl => ∃ u, (y, fl) = f.rnd frm.toNat u sat x ∧ (frm ≠ 4 → u = 0) :=
  yields_bind (yields_stepGen q frm) fun u fl hu => (gives_flagged q True (f.rnd frm.toNat u sat x)).mono fun y fl' hy => by
    obtain ⟨rfl, hzero⟩ := hu
    rw [flags_zero_or]
    exact ⟨u, hy trivial, hzero⟩

/-! ## The scale entry of a block -/

theorem blockExp_bounds (et : Nat) (xs : List Nat) : -127 ≤ blockExp et xs ∧ blockExp et xs ≤ 127 := by
  unfold blockExp
  split
  · split
    · decide
    · dsimp only
      split
      · decide
      · split
        · decide
        · omega
  · decide

/-- An entry of the scale byte and a special byte. -/
theorem toNat_scaleEntry (et : Nat) (xs : List Nat) {sp : Nat} (hsp : sp < 256) :
    (BitVec.ofNat 16 ((blockExp et xs + 127).toNat + 256 * sp)).toNat % 256 = (blockExp et xs + 127).toNat ∧
      (BitVec.ofNat 16 ((blockExp et xs + 127).toNat + 256 * sp)).toNat / 256 = sp := by
  have hbounds := blockExp_bounds et xs
  rw [BitVec.toNat_ofNat]
  omega

theorem yields_blockScale (q : State) (c : VConf) (xs : List Nat) : Yields q (blockScale c xs) fun e fl =>
    ScaleIs c xs e ∧ (c.frm ≠ 4 ∨ c.et ≠ 10 → fl = (specialByte c xs).2) := by
  have hspecial : Yields q (match specialOf c.et xs with
      | some g => vrnd c.frm e4m3 true ((v32 g).scale (-(blockExp c.et xs)))
      | none => pure 0) fun sp fl => sp < 256 ∧ (c.frm ≠ 4 ∨ c.et ≠ 10 → (sp, fl) = specialByte c xs) := by
    unfold specialByte
    cases hg : specialOf c.et xs with
    | none => exact yields_pure ⟨by decide, fun _ => rfl⟩
    | some g =>
      refine (yields_vrnd q _ _ _ _).mono fun sp fl h => ?_
      obtain ⟨u, hsp, hu⟩ := h
      refine ⟨?_, fun hdet => ?_⟩
      · have := (fits_fmtOf 8).rnd_lt c.frm.toNat u true ((v32 g).scale (-(blockExp c.et xs)))
        rwa [show (fmtOf 8).rnd _ _ _ _ = _ from hsp.symm] at this
      · have h10 : c.et = 10 := by
          by_contra h
          rw [show specialOf c.et xs = none from if_neg h] at hg
          cases hg
        rw [hsp, hu (hdet.resolve_right fun h => h h10)]
        rfl
  unfold blockScale
  refine yields_bind hspecial fun sp fl h => yields_pure ?_
  obtain ⟨hlt, hsp⟩ := h
  obtain ⟨hlow, hhigh⟩ := toNat_scaleEntry c.et xs hlt
  refine ⟨⟨hlow, fun hdet => ?_⟩, fun hdet => ?_⟩
  · rw [hhigh, ← hsp hdet]
  · rw [flags_or_zero, ← hsp hdet]

/-! ## Writing scale registers -/

/-- The scale registers after entries 0 … n-1 of register x were written. -/
def ScalesAfter (x n : Nat) (e : Nat → BitVec 16) (old new : Sparse (BitVec 16)) : Prop :=
  (∀ k < n, sparseGet 0 new (x * 256 + k) = e k) ∧
    ∀ key, (∀ k < n, key ≠ x * 256 + k) → sparseGet 0 new key = sparseGet 0 old key

/-- Run in q with any flags and vector registers, the meaning writes entries 0 … n-1 of scale register x and raises flags, of which P
holds, and changes nothing else but the generator. -/
def WritesScales (q : State) (x n : Nat) (m : M Unit) (P : (Nat → BitVec 16) → (Nat → Flags) → Prop) : Prop :=
  ∀ fl v, ∃ e fls sc g, m.exec (q.worked fl v) =
      (.ok (), q.worked (fl ||| flagsOver n (fun _ => true) fls) { v with scales := sc, gen := g }) ∧
    ScalesAfter x n e v.scales sc ∧ P e fls

theorem ScalesAfter.succ {x n : Nat} {e : Nat → BitVec 16} {old new : Sparse (BitVec 16)} (h : ScalesAfter x n e old new) (y : BitVec 16) :
    ScalesAfter x (n + 1) (Function.update e n y) old (sparsePut 0 new (x * 256 + n) y) := by
  obtain ⟨hwritten, hother⟩ := h
  refine ⟨fun k hk => ?_, fun key hkey => ?_⟩
  · rw [sparseGet_put]
    rcases Nat.lt_succ_iff_lt_or_eq.1 hk with hlt | rfl
    · rw [if_neg (by omega), hwritten k hlt, Function.update_of_ne (Nat.ne_of_lt hlt)]
    · rw [if_pos rfl, Function.update_self]
  · rw [sparseGet_put_other _ _ _ (hkey n (Nat.lt_succ_self n))]
    exact hother key fun k hk => hkey k (Nat.lt_succ_of_lt hk)

/-- A loop that writes one entry after the other. -/
theorem writesScales_forN {x : Nat} {body : Nat → M (BitVec 16)} {P : Nat → BitVec 16 → Flags → Prop} (h : ∀ k < n, Yields q (body k) (P k)) :
    WritesScales q x n (forN n fun k => do let y ← body k; putScale x k y) fun e fls => ∀ k < n, P k (e k) (fls k) := by
  intro fl v
  induction n with
  | zero => exact ⟨fun _ => 0, fun _ => 0, v.scales, v.gen, by rw [show flagsOver 0 _ _ = 0 from rfl, flags_or_zero]; rfl,
      ⟨fun k hk => absurd hk (Nat.not_lt_zero k), fun _ _ => rfl⟩, fun k hk => absurd hk (Nat.not_lt_zero k)⟩
  | succ n ih =>
    obtain ⟨e, fls, sc, g, hexec, hscales, hP⟩ := ih fun k hk => h k (Nat.lt_succ_of_lt hk)
    obtain ⟨y, fl', g', hy, hPy⟩ := h n (Nat.lt_succ_self n) (fl ||| flagsOver n (fun _ => true) fls) { v with scales := sc, gen := g }
    refine ⟨Function.update e n y, Function.update fls n fl', _, g', ?_, hscales.succ y, fun k hk => ?_⟩
    · have hfls : ∀ j < n, Function.update fls n fl' j = fls j := fun j hj => Function.update_of_ne (Nat.ne_of_lt hj) ..
      rw [exec_forN_succ hexec, exec_bind_ok hy, flagsOver_succ, flagsOver_congr fun j hj _ => hfls j hj, Function.update_self, ← BitVec.or_assoc]
      rfl
    · rcases Nat.lt_succ_iff_lt_or_eq.1 hk with hlt | rfl
      · rw [Function.update_of_ne (Nat.ne_of_lt hlt), Function.update_of_ne (Nat.ne_of_lt hlt)]
        exact hP k hlt
      · rwa [Function.update_self, Function.update_self]

theorem scaleAt_after {e : Nat → BitVec 16} {v v' : VecRegs} {x : Nat} (h : ScalesAfter x n e v.scales v'.scales) :
    (∀ k < n, scaleAt v' x k = e k) ∧ (∀ k, n ≤ k → k < 256 → scaleAt v' x k = scaleAt v x k) ∧
      (n ≤ 256 → ∀ y k, y ≠ x → k < 256 → scaleAt v' y k = scaleAt v y k) := by
  obtain ⟨hwritten, hother⟩ := h
  refine ⟨hwritten, fun k hk _ => hother _ fun j hj => by omega, fun hn y k hy hk => hother _ fun j hj => ?_⟩
  rcases Nat.lt_or_gt_of_ne hy with h | h <;> omega

/-! ## The scales of a tile (R143) -/

/-- Blocks of a tile: scale entry n is that of block n mod ⌈VL/32⌉ of row n / ⌈VL/32⌉. -/
def blockAt (s : State) (a : BitVec 7) (m : BitVec 1) (n : Nat) : List Nat :=
  blockOf s a m (n / blocksPerRow s.hart.cfg) (n % blocksPerRow s.hart.cfg)

theorem blockElems_eq (t k : Nat) : blockElems s.hart.vec s.hart.cfg a (activeAt s m) t k = blockOf s a m t k := by
  unfold blockElems blockOf
  dsimp only
  rw [List.range'_eq_map_range, List.filter_map, List.map_map]
  have hadd (i : Nat) : t * s.hart.cfg.vlN + 32 * k + i = t * s.hart.cfg.vlN + (32 * k + i) := Nat.add_assoc ..
  simp only [hadd]
  rfl

theorem exec_blockVl_ok (hvl : c.vlN ≤ 1024) (hreach : c.rcN * blocksPerRow c ≤ 256) (q : State) : (blockVl c).exec q = (.ok (), q) := by
  unfold blockVl
  rw [exec_bind_ok (exec_needPredVl_ok hvl q)]
  exact exec_trapIf_false (decide_eq_false (Nat.not_lt.2 hreach)) _ _ q

/-- The flags of the special bytes of a tile. -/
def specialFlags (s : State) (a : BitVec 7) (m : BitVec 1) : Flags :=
  flagsOver (s.hart.cfg.rcN * blocksPerRow s.hart.cfg) (fun _ => true) fun n => (specialByte s.hart.cfg (blockAt s a m n)).2

theorem writesScales_tile (q : State) (ha : streamAt s.hart.vec (s.hart.cfg.vwb.toNat + a.toNat) = none) :
    WritesScales q x.toNat (s.hart.cfg.rcN * blocksPerRow s.hart.cfg) (writeScales s.hart.cfg x s.hart.vec a (activeAt s m)) fun e fls =>
      ∀ n < s.hart.cfg.rcN * blocksPerRow s.hart.cfg, ScaleIs s.hart.cfg (blockAt s a m n) (e n) ∧
        (s.hart.cfg.frm ≠ 4 ∨ s.hart.cfg.et ≠ 10 → fls n = (specialByte s.hart.cfg (blockAt s a m n)).2) := by
  unfold writeScales
  dsimp only
  refine writesScales_forN (P := fun n y fl => ScaleIs s.hart.cfg (blockAt s a m n) y ∧
    (s.hart.cfg.frm ≠ 4 ∨ s.hart.cfg.et ≠ 10 → fl = (specialByte s.hart.cfg (blockAt s a m n)).2)) fun n _ => ?_
  have hquiet (js : List Nat) : (!js.isEmpty && js.all (padded s.hart.vec s.hart.cfg a)) = false := by
    cases js with
    | nil => rfl
    | cons j js => rw [List.all_cons, padded_unbound ha, Bool.false_and, Bool.and_false]
  rw [hquiet, quietly_false, blockElems_eq]
  exact yields_blockScale q s.hart.cfg (blockAt s a m n)

/-- The scale register x holds the scales of the tile a. -/
def Scaled (s t : State) (x a : BitVec 7) (m : BitVec 1) : Prop :=
  (∀ y e, y ≠ x.toNat → e < 256 → scaleAt t.hart.vec y e = scaleAt s.hart.vec y e) ∧
  (∀ n < s.hart.cfg.rcN * blocksPerRow s.hart.cfg, ScaleIs s.hart.cfg (blockAt s a m n) (scaleAt t.hart.vec x.toNat n)) ∧
  ∀ n, s.hart.cfg.rcN * blocksPerRow s.hart.cfg ≤ n → n < 256 → scaleAt t.hart.vec x.toNat n = scaleAt s.hart.vec x.toNat n

theorem scaled_of_after {t : State} {e : Nat → BitVec 16} (hreach : s.hart.cfg.rcN * blocksPerRow s.hart.cfg ≤ 256)
    (h : ScalesAfter x.toNat (s.hart.cfg.rcN * blocksPerRow s.hart.cfg) e s.hart.vec.scales t.hart.vec.scales)
    (he : ∀ n < s.hart.cfg.rcN * blocksPerRow s.hart.cfg, ScaleIs s.hart.cfg (blockAt s a m n) (e n)) : Scaled s t x a m := by
  obtain ⟨hwritten, hkept, hother⟩ := scaleAt_after h
  exact ⟨hother hreach, fun n hn => by rw [hwritten n hn]; exact he n hn, hkept⟩

section

variable {b : VSrc} (hok : TilesOk s m [a, d] b) (hvl : s.hart.cfg.vlN ≤ 1024) (hreach : s.hart.cfg.rcN * blocksPerRow s.hart.cfg ≤ 256)

include hok hvl hreach

theorem exec_performVsmxe {e : Entry} (hcfg : e.cfg = s.hart.cfg) : ∃ sc g fl en,
    (performVsmxe x a m e).exec (s.queued e) =
      (.ok (), (s.queued e).worked fl { s.hart.vec with scales := sc, gen := g, strips := [], outs := [] }) ∧
    ScalesAfter x.toNat (s.hart.cfg.rcN * blocksPerRow s.hart.cfg) en s.hart.vec.scales sc ∧
    (∀ n < s.hart.cfg.rcN * blocksPerRow s.hart.cfg, ScaleIs s.hart.cfg (blockAt s a m n) (en n)) ∧
    (s.hart.cfg.frm ≠ 4 ∨ s.hart.cfg.et ≠ 10 → fl = specialFlags s a m) := by
  obtain ⟨hr, -, htiles, -, -, hrc⟩ := hok
  have hA := htiles a (by simp)
  have hunbound := unbound_queued_singleton hA hrc e
  obtain ⟨en, fls, sc, g, hexec, hafter, hP⟩ := writesScales_tile (m := m) (x := x) (s.queued e) (hA.first hrc) 0 (s.queued e).hart.vec
  rw [worked_self, flags_zero_or, queued_vec] at hexec
  rw [queued_vec] at hafter
  refine ⟨sc, g, _, en, ?_, hafter, fun n hn => (hP n hn).1, fun hdet => flagsOver_congr fun n hn _ => (hP n hn).2 hdet⟩
  unfold performVsmxe vrun
  dsimp only
  rw [hcfg, exec_bind_ok (exec_blockVl_ok hvl hreach _)]
  refine exec_vrunN_ok (t := (s.queued e).worked _ { s.hart.vec with scales := sc, gen := g })
    (List.forall_mem_singleton.2 (hA.opnd hrc e ..)) (by rw [queued_vec]; exact hr.soundRows)
    ((exec_bind_ok (exec_sources_plain hunbound m)).trans ?_)
  dsimp only
  rw [activeIn_eq_activeAt (queued_vec s e), queued_vec]
  exact hexec

end

end Sys2Proof.Machine
end

section
/-! Quantising and dequantising tiles, and moves of whole scale registers (R144, R145, R147). -/

namespace Sys2Proof.Machine

variable {s q t : State} {c : VConf} {m : BitVec 1} {a d x : BitVec 7} {b : VSrc} {wd lit : BitVec 32} {w n N row : Nat} {xs : List Nat}
  {v : VecRegs} {pos : Nat → Nat × Nat} {act : Nat → Act}

/-! ## VQUANT -/

theorem Act.apply_scales (a : Act) (p : Nat × Nat) (v : VecRegs) (sc : Sparse (BitVec 16)) :
    a.apply w p { v with scales := sc } = { a.apply w p v with scales := sc } := by
  cases a <;> rfl

theorem acted_scales (pos : Nat → Nat × Nat) (act : Nat → Act) (v : VecRegs) (sc : Sparse (BitVec 16)) :
    acted w pos act n { v with scales := sc } = { acted w pos act n v with scales := sc } := by
  induction n with
  | zero => rfl
  | succ n ih => rw [acted_succ, ih, Act.apply_scales, acted_succ]

theorem gives_quantElem (q : State) (c : VConf) (xs : List Nat) (x : Nat) :
    Gives q (c.frm ≠ 4) (quantElem c xs x) (quantised c xs x) := by
  unfold quantElem quantised
  dsimp only
  by_cases h11 : c.et = 11
  · rw [if_pos h11, if_pos h11]
    refine (gives_bind (r' := fun u => (wrapBits 8 (quantInt c.frm.toNat u (scaledDown x (blockExp c.et xs))).1,
      (quantInt c.frm.toNat u (scaledDown x (blockExp c.et xs))).2)) (gives_stepGen q c.frm) fun u => ?_).congr fun _ => ?_
    · have h := gives_bind (gives_setFlags q (c.frm ≠ 4) (quantInt c.frm.toNat u (scaledDown x (blockExp c.et xs))).2) fun _ =>
        gives_pure q (c.frm ≠ 4) (wrapBits 8 (quantInt c.frm.toNat u (scaledDown x (blockExp c.et xs))).1)
      rwa [flags_or_zero] at h
    · rw [flags_zero_or, wrapBits_eq_takeBits]
  · rw [if_neg h11, if_neg h11]
    by_cases hsp : specialOf c.et xs = some x
    · rw [if_pos hsp, if_pos hsp]
      exact gives_pure q _ 8
    · rw [if_neg hsp, if_neg hsp]
      refine (gives_bind (gives_vrnd q c.frm (fmtOf c.et) true (scaledDown x (blockExp c.et xs))) fun r =>
        gives_pure q (c.frm ≠ 4) (if c.et = 10 && r = 8 then 0 else r)).congr fun _ => ?_
      rw [flags_or_zero]
      generalize (fmtOf c.et).rnd c.frm.toNat 0 true (scaledDown x (blockExp c.et xs)) = r
      by_cases h : c.et = 10 ∧ r.1 = 8
      · rw [if_pos h, if_pos (by rw [Bool.and_eq_true, decide_eq_true_eq, decide_eq_true_eq]; exact h)]
      · rw [if_neg h, if_neg (by rw [Bool.and_eq_true, decide_eq_true_eq, decide_eq_true_eq]; exact h)]

/-- The pattern of position j of a quantised tile, with its flags. -/
def quantAt (s : State) (a : BitVec 7) (m : BitVec 1) (j : Nat) : Rounded :=
  quantised s.hart.cfg (blockOf s a m (j / s.hart.cfg.vlN) (j % s.hart.cfg.vlN / 32)) (elemOf s a 32 j)

section

variable (hok : TilesOk s m [a, d] b) (hvl : s.hart.cfg.vlN ≤ 1024) (hreach : s.hart.cfg.rcN * blocksPerRow s.hart.cfg ≤ 256)

include hok hvl hreach

theorem exec_performVquant {e : Entry} (hcfg : e.cfg = s.hart.cfg) : ∃ sc g fl en act,
    (performVquant d a x m e).exec (s.queued e) = (.ok (), (s.queued e).worked fl
      { acted s.hart.cfg.width (flatPos s.hart.cfg d.toNat) act s.hart.cfg.count s.hart.vec with
        scales := sc, gen := g, strips := [], outs := [] }) ∧
    ScalesAfter x.toNat (s.hart.cfg.rcN * blocksPerRow s.hart.cfg) en s.hart.vec.scales sc ∧
    (∀ n < s.hart.cfg.rcN * blocksPerRow s.hart.cfg, ScaleIs s.hart.cfg (blockAt s a m n) (en n)) ∧
    TileActs s.hart.cfg s.hart.cfg.width (s.hart.cfg.frm ≠ 4) (fun j => if activeAt s m j then some (quantAt s a m j).1 else none)
      (specialFlags s a m ||| flagsOver s.hart.cfg.count (activeAt s m) fun j => (quantAt s a m j).2) act fl := by
  obtain ⟨hr, -, htiles, -, -, hrc⟩ := hok
  have hA := htiles a (by simp)
  have hD := htiles d (by simp)
  have hunbound := unbound_queued_singleton hA hrc e
  have hq := queued_vec s e
  obtain ⟨en, fls, sc, g, hscales, hafter, hP⟩ := writesScales_tile (m := m) (x := x) (s.queued e) (hA.first hrc) 0 (s.queued e).hart.vec
  rw [worked_self, flags_zero_or, hq] at hscales
  rw [hq] at hafter
  have hgives (j : Nat) (_ : j < s.hart.cfg.count) := givesOpt_active (act := activeAt s m j) (r := quantAt s a m j) fun _ =>
    gives_quantElem (s.queued e) s.hart.cfg _ _
  obtain ⟨o, fls', g', htile, ho⟩ := exec_putTileW (w := s.hart.cfg.width) (hD.free e) hgives
    (flagsOver (s.hart.cfg.rcN * blocksPerRow s.hart.cfg) (fun _ => true) fls) (v := { s.hart.vec with scales := sc, gen := g }) (by rw [hq])
  rw [show acted s.hart.cfg.width (flatPos s.hart.cfg d.toNat) (fun j => actOf s.hart.cfg s.hart.cfg.est s.hart.cfg.width (o j) j)
      s.hart.cfg.count { s.hart.vec with scales := sc, gen := g } =
      { acted s.hart.cfg.width (flatPos s.hart.cfg d.toNat) (fun j => actOf s.hart.cfg s.hart.cfg.est s.hart.cfg.width (o j) j)
        s.hart.cfg.count s.hart.vec with scales := sc, gen := g } from
    (acted_gen _ _ { s.hart.vec with scales := sc } g).trans (by rw [acted_scales])] at htile
  refine ⟨sc, g', flagsOver (s.hart.cfg.rcN * blocksPerRow s.hart.cfg) (fun _ => true) fls ||| flagsOver s.hart.cfg.count (fun _ => true) fls',
    en, fun j => actOf s.hart.cfg s.hart.cfg.est s.hart.cfg.width (o j) j, ?_, hafter, fun n hn => (hP n hn).1, o,
    fun j hj => ⟨rfl, (ho j hj).1⟩, fun hdet => ⟨fun j hj => congrArg Prod.fst ((ho j hj).2 hdet), ?_⟩⟩
  · unfold performVquant vrun
    dsimp only
    rw [hcfg, exec_bind_ok (exec_blockVl_ok hvl hreach _)]
    refine exec_vrunN_ok (t := (s.queued e).worked _
        { acted s.hart.cfg.width (flatPos s.hart.cfg d.toNat) (fun j => actOf s.hart.cfg s.hart.cfg.est s.hart.cfg.width (o j) j)
          s.hart.cfg.count s.hart.vec with scales := sc, gen := g' })
      (List.forall_mem_cons.2 ⟨hA.opnd hrc e .., List.forall_mem_singleton.2 (hD.opnd hrc e ..)⟩) (by rw [hq]; exact hr.soundRows)
      ((exec_bind_ok (exec_sources_plain hunbound m)).trans ?_)
    dsimp only
    rw [activeIn_eq_activeAt hq, hq, exec_bind_ok hscales]
    simp only [padded_unbound (hA.first hrc), quietly_false, blockElems_eq]
    exact htile
  · refine congrArg₂ _ (flagsOver_congr fun n hn _ => (hP n hn).2 (.inl hdet)) ?_
    rw [flagsOver_filter s.hart.cfg.count (activeAt s m)]
    exact flagsOver_congr fun j hj _ => congrArg Prod.snd ((ho j hj).2 hdet)

/-- What O26 says of VQUANT. -/
theorem quantises (htypes : isBlockType s.hart.cfg.et = true) : ∃ t fl, exec (.vquant d a x m) s = .next t ∧ OnlyVec s t fl ∧
    Scaled s t x a m ∧
    (s.hart.cfg.frm ≠ 4 → fl = specialFlags s a m ||| flagsOver s.hart.cfg.count (activeAt s m) (fun j => (quantAt s a m j).2) ∧
      TileIs s t d s.hart.cfg.width fun j => if activeAt s m j then some (quantAt s a m j).1 else none) ∧
    t.hart.vec = { s.hart.vec with
      rows := t.hart.vec.rows, order := t.hart.vec.order, dirty := t.hart.vec.dirty, high := t.hart.vec.high,
      scales := t.hart.vec.scales, gen := t.hart.vec.gen, strips := [], outs := [] } ∧
    OnlyRowsOf (tileRows s d s.hart.cfg.rcN) s
      { t with hart := { t.hart with vec := { t.hart.vec with scales := s.hart.vec.scales } } } ∧
    RowMarks s t d s.hart.cfg.width fun j => if activeAt s m j then some 0 else none := by
  have hr := hok.ready
  have hD := hok.plain d (by simp)
  have hw := elemWidth_widthOf s.hart.cfg.et
  obtain ⟨sc, g, fl, en, act, hexec, hafter, hscale, o, ho, hvalue⟩ :=
    exec_performVquant (x := x) (e := entryOf s (encVquant d a x m).toWord 0 .none .none) hok hvl hreach rfl
  obtain ⟨t, hnext, honly, hvec⟩ := retires_of_exec (op := { etypes := isBlockType }) (perform := performVquant d a x m) hr
    (dispatches_of_etype hr htypes (ca := .none) (cb := .none) trivial trivial) rfl rfl hexec
  have hacted : ActedVec s.hart.cfg.width (flatPos s.hart.cfg d.toNat) act s.hart.cfg.count s
      { t with hart := { t.hart with vec := { t.hart.vec with scales := s.hart.vec.scales } } } := by
    have hkept : (acted s.hart.cfg.width (flatPos s.hart.cfg d.toNat) act s.hart.cfg.count s.hart.vec).scales = s.hart.vec.scales := by
      rw [acted_rest hr.soundRows]
    exact ⟨g, by rw [hvec, ← hkept]⟩
  have honlyRows := onlyRowsOf_covered hacted hr.soundRows hw (covers_flat s.hart.cfg d.toNat s.hart.cfg.rcN) hok.vl
    fun r hr => tileRows_of_lt (d := d) hr
  refine ⟨t, fl, hnext, honly, scaled_of_after hreach (by rw [hvec]; exact hafter) hscale, fun hfrm => ⟨(hvalue hfrm).2, fun j hj => ?_⟩, ?_,
    honlyRows, ?_⟩
  · exact tileElem_tile hacted hr.soundRows hw hD hok.rc hok.vl (fun j hj => by rw [(ho j hj).1, (hvalue hfrm).1 j hj]) hj
  · rw [hvec]
    conv_lhs => rw [acted_rest hr.soundRows]
  · have hmarks := rowMarksOf_congr (g := fun j => if activeAt s m j then some 0 else none) (fun j _ => by split <;> rfl)
      (rowMarksOf_tile (out := fun j => if activeAt s m j then some (quantAt s a m j).1 else none)
      hacted hr.soundRows hw hD hok.rc hok.vl (fun j hj => (ho j hj).1) fun j hj => (ho j hj).2)
    exact hmarks

/-- What O26 says of VSMXE. -/
theorem scales (htypes : isBlockType s.hart.cfg.et = true) : ∃ t fl, exec (.vsmxe x a m) s = .next t ∧ OnlyVec s t fl ∧
    Scaled s t x a m ∧ (s.hart.cfg.frm ≠ 4 ∨ s.hart.cfg.et ≠ 10 → fl = specialFlags s a m) ∧
    t.hart.vec = { s.hart.vec with scales := t.hart.vec.scales, gen := t.hart.vec.gen, strips := [], outs := [] } := by
  have hr := hok.ready
  obtain ⟨sc, g, fl, en, hexec, hafter, hscale, hfl⟩ :=
    exec_performVsmxe (x := x) (e := entryOf s (encVsmxe x a m).toWord 0 .none .none) hok hvl hreach rfl
  obtain ⟨t, hnext, honly, hvec⟩ := retires_of_exec (op := { etypes := isBlockType }) (perform := performVsmxe x a m) hr
    (dispatches_of_etype hr htypes (ca := .none) (cb := .none) trivial trivial) rfl rfl hexec
  exact ⟨t, fl, hnext, honly, scaled_of_after hreach (by rw [hvec]; exact hafter) hscale, hfl, by rw [hvec]⟩

/-! ## VDEQ -/

/-- The pattern of position j of a tile whose scales are lifted, with its flags (R145). -/
def dequantAt (s : State) (a x : BitVec 7) (j : Nat) : Rounded :=
  fp32.rnd s.hart.cfg.frm.toNat 0 false
    (scaledValue s.hart.cfg.et (elemOf s a s.hart.cfg.width j) (scaleAt s.hart.vec x.toNat (scaleEntry s.hart.cfg j)))

theorem works_vdeq {e : Entry} (hcfg : e.cfg = s.hart.cfg) :
    Works s e 32 (flatPos s.hart.cfg d.toNat) s.hart.cfg.count (performVdeq d a x m e)
      (TileActs s.hart.cfg 32 (s.hart.cfg.frm ≠ 4) (fun j => if activeAt s m j then some (dequantAt s a x j).1 else none)
        (flagsOver s.hart.cfg.count (activeAt s m) fun j => (dequantAt s a x j).2)) := by
  obtain ⟨hr, -, htiles, -, -, hrc⟩ := hok
  have hA := htiles a (by simp)
  have hD := htiles d (by simp)
  have hunbound := unbound_queued_singleton hA hrc e
  have hq := queued_vec s e
  unfold performVdeq vrun
  dsimp only
  rw [hcfg]
  refine works_bind (exec_blockVl_ok hvl hreach _) (works_vrunN hr ?_ (exec_sources_plain hunbound m) ?_)
  · exact List.forall_mem_cons.2 ⟨hA.opnd hrc e .., List.forall_mem_singleton.2 (hD.opnd hrc e ..)⟩
  · dsimp only
    rw [activeIn_eq_activeAt hq, hq]
    refine fills_active (r := dequantAt s a x) (hD.free e) fun j _ _ => ?_
    rw [padded_unbound (hA.first hrc), quietly_false]
    exact gives_vrnd _ _ _ _ _

/-- What O26 says of VDEQ. -/
theorem dequantises (htypes : isBlockType s.hart.cfg.et = true) : ∃ t fl, exec (.vdeq d a x m) s = .next t ∧
    OnlyRows (tileRows s d s.hart.cfg.rcN) s t fl ∧
    (s.hart.cfg.frm ≠ 4 → fl = flagsOver s.hart.cfg.count (activeAt s m) (fun j => (dequantAt s a x j).2) ∧
      TileIs s t d 32 fun j => if activeAt s m j then some (dequantAt s a x j).1 else none) ∧
    RowMarks s t d 32 fun j => if activeAt s m j then some 0 else none := by
  have hr := hok.ready
  obtain ⟨t, fl, hnext, honly, hmarks, hvalue⟩ := wroteTileIf_of_acts hr (.inr (.inr (.inr rfl))) (hok.plain d (by simp)) hok.rc hvl
    (retires_of_works (wd := (encVdeq d a x m).toWord) (lit := 0) (op := { etypes := isBlockType }) (perform := performVdeq d a x m) hr
      (dispatches_of_etype hr htypes (ca := .none) (cb := .none) trivial trivial) rfl rfl (works_vdeq hok hvl hreach rfl))
  exact ⟨t, fl, hnext, honly, fun hfrm => ⟨(hvalue hfrm).2, (hvalue hfrm).1⟩,
    rowMarksOf_congr (fun j _ => by split <;> rfl) hmarks⟩

end

end Sys2Proof.Machine
end

section
/-! Moves of whole scale registers (R147); settles O26. -/

namespace Sys2Proof.Machine

variable {s q t : State} {c : VConf} {m : BitVec 1} {a d x : BitVec 7} {b : VSrc} {wd lit : BitVec 32} {w n N row : Nat}
  {v : VecRegs} {pos : Nat → Nat × Nat} {act : Nat → Act}

/-! ## A row to a scale register -/

/-- The k-th 16 bits of row n, as its bytes hold them. -/
theorem leNat_bytes (rows : Sparse Byte) (row k : Nat) : leNat (sparseGetList 0 rows (rowKey row (2 * k)) 2) = rowBits rows row k 16 := by
  unfold rowBits
  rw [if_neg (by decide), Nat.mul_comm]

/-- The state with other scale registers. -/
def State.withScales (q : State) (sc : Sparse (BitVec 16)) : State := q.worked 0 { q.hart.vec with scales := sc }

theorem exec_putScale (q : State) (sc : Sparse (BitVec 16)) (x k : Nat) (y : BitVec 16) :
    (putScale x k y).exec (q.withScales sc) = (.ok (), q.withScales (sparsePut 0 sc (x * 256 + k) y)) := rfl

theorem exec_forN_putScale (q : State) (x n : Nat) (z : Nat → BitVec 16) : ∃ sc,
    (forN n fun k => putScale x k (z k)).exec q = (.ok (), q.withScales sc) ∧ ScalesAfter x n z q.hart.vec.scales sc := by
  induction n with
  | zero => exact ⟨q.hart.vec.scales, by rw [State.withScales, worked_self]; rfl, fun k hk => absurd hk (Nat.not_lt_zero k), fun _ _ => rfl⟩
  | succ n ih =>
    obtain ⟨sc, hexec, hafter⟩ := ih
    refine ⟨_, (exec_forN_succ hexec).trans (exec_putScale ..), ?_⟩
    have h := hafter.succ (z n)
    rwa [Function.update_eq_self] at h

theorem exec_performVtox (hr : Ready s) (hA : PlainRows s a.toNat 1) {e : Entry} (hcfg : e.cfg = s.hart.cfg) : ∃ sc,
    (performVtox x a e).exec (s.queued e) = (.ok (), (s.queued e).worked 0 { s.hart.vec with scales := sc, strips := [], outs := [] }) ∧
    ScalesAfter x.toNat 256 (fun k => BitVec.ofNat 16 (tileElem s.hart.vec s.hart.cfg.vwb.toNat a.toNat 0 k 16)) s.hart.vec.scales sc := by
  obtain ⟨sc, hexec, hafter⟩ := exec_forN_putScale (s.queued e) x.toNat 256
    fun k => BitVec.ofNat 16 (tileElem s.hart.vec s.hart.cfg.vwb.toNat a.toNat 0 k 16)
  rw [queued_vec] at hafter
  refine ⟨sc, ?_, hafter⟩
  unfold performVtox vrun
  dsimp only
  rw [hcfg, ← queued_vec s e]
  refine exec_vrunN_ok (t := (s.queued e).withScales sc)
    (List.forall_mem_singleton.2 (hA.opnd (Nat.le_refl 1) e ..)) (by rw [queued_vec]; exact hr.soundRows)
    ((exec_bind_ok (exec_getHart _)).trans ?_)
  rw [queued_vec]
  exact hexec

/-- What O26 says of VTOX. -/
theorem movesToScales (hr : Ready s) (hA : PlainRows s a.toNat 1) : ∃ t, exec (.vtox x a) s = .next t ∧ OnlyVec s t ∧
    (∀ y e, y ≠ x.toNat → e < 256 → scaleAt t.hart.vec y e = scaleAt s.hart.vec y e) ∧
    t.hart.vec = { s.hart.vec with scales := t.hart.vec.scales, strips := [], outs := [] } ∧
    ∀ k < 256, (scaleAt t.hart.vec x.toNat k).toNat =
      leNat (sparseGetList 0 s.hart.vec.rows (rowKey (s.hart.cfg.vwb.toNat + a.toNat) (2 * k)) 2) := by
  obtain ⟨sc, hexec, hafter⟩ := exec_performVtox (x := x) (e := entryOf s (encVtox x a).toWord 0 .none .none) hr hA rfl
  obtain ⟨t, hnext, honly, hvec⟩ := retires_of_exec (op := { etypes := fun _ => true }) (perform := performVtox x a) hr
    (dispatches_of_etype hr rfl (ca := .none) (cb := .none) trivial trivial) rfl rfl hexec
  obtain ⟨hwritten, -, hother⟩ := scaleAt_after (v := s.hart.vec) (v' := t.hart.vec) (n := 256) (x := x.toNat)
    (by rw [hvec]; exact hafter)
  refine ⟨t, hnext, honly, hother le_rfl, ?_, fun k hk => ?_⟩
  · rw [hvec]
  · rw [hwritten k hk, leNat_bytes, tileElem_unbound (hA.first (Nat.le_refl 1)), BitVec.toNat_ofNat]
    exact Nat.mod_eq_of_lt (rowBits_lt (.inr (.inr (.inl rfl))) ..)

/-! ## A scale register to a row -/

theorem works_xtov (hr : Ready s) (hD : PlainRows s d.toNat 1) {e : Entry} (hcfg : e.cfg = s.hart.cfg) :
    Works s e 16 (fun k => (s.hart.cfg.vwb.toNat + d.toNat, k)) 256 (performXtov d x e) fun act fl => ∃ fls,
      fl = flagsOver 256 (fun _ => true) fls ∧ ∀ k < 256, act k = .write ((scaleAt s.hart.vec x.toNat k).toNat % 2 ^ 16) ∧ fls k = 0 := by
  unfold performXtov vrun
  dsimp only
  rw [hcfg]
  refine works_vrunN hr (List.forall_mem_singleton.2 (hD.opnd (Nat.le_refl 1) e ..)) (exec_getHart _) ?_
  rw [queued_vec]
  exact fills_writes (hD.free e) fun k _ => ⟨0, k, rfl, Nat.one_pos, rfl⟩

/-- A byte that no position takes keeps its value. -/
theorem acted_key {key : Nat} (h4 : w ≠ 4)
    (hout : ∀ j < n, key < rowKey (pos j).1 ((pos j).2 * (w / 8)) ∨ rowKey (pos j).1 ((pos j).2 * (w / 8)) + w / 8 ≤ key) :
    sparseGet 0 (acted w pos act n v).rows key = sparseGet 0 v.rows key := by
  induction n with
  | zero => rfl
  | succ n ih =>
    rw [← ih fun j hj => hout j (Nat.lt_succ_of_lt hj), acted_succ]
    cases act n with
    | skip => rfl
    | pass => rfl
    | write x => exact putElem_other _ _ _ _ x key h4 (hout n (Nat.lt_succ_self n))

/-- What O26 says of XTOV. -/
theorem movesFromScales (hr : Ready s) (hD : PlainRows s d.toNat 1) : ∃ t, exec (.xtov d x) s = .next t ∧
    OnlyRows (tileRows s d 1) s t ∧
    (∀ k < 256, leNat (sparseGetList 0 t.hart.vec.rows (rowKey (s.hart.cfg.vwb.toNat + d.toNat) (2 * k)) 2) =
      (scaleAt s.hart.vec x.toNat k).toNat) ∧
    (∀ off, 512 ≤ off → off < 4096 → sparseGet 0 t.hart.vec.rows (rowKey (s.hart.cfg.vwb.toNat + d.toNat) off) =
      sparseGet 0 s.hart.vec.rows (rowKey (s.hart.cfg.vwb.toNat + d.toNat) off)) ∧
    sparseGet 0 t.hart.vec.order (s.hart.cfg.vwb.toNat + d.toNat) = 0 ∧
    sparseGet false t.hart.vec.dirty (s.hart.cfg.vwb.toNat + d.toNat) = true ∧
    sparseGet 0 t.hart.vec.high (s.hart.cfg.vwb.toNat + d.toNat) =
      Nat.max (sparseGet 0 s.hart.vec.high (s.hart.cfg.vwb.toNat + d.toNat)) 512 := by
  have hw : ElemWidth 16 := .inr (.inr (.inl rfl))
  obtain ⟨t, act, fl, hnext, honly, hvec, fls, rfl, hact⟩ := retires_of_works (wd := (encXtov d x).toWord) (lit := 0)
    (op := { etypes := fun _ => true }) (perform := performXtov d x) hr
    (dispatches_of_etype hr rfl (ca := .none) (cb := .none) trivial trivial) rfl rfl (works_xtov hr hD rfl)
  rw [flagsOver_none fun k hk _ => (hact k hk).2] at honly
  have hin : ∀ k < 256, k < 32768 / 16 := fun k hk => by omega
  have hrows : OnlyRowsOf (tileRows s d 1) s t := onlyRowsOf_acted hvec hr.soundRows hw hin fun k _ => tileRows_of_lt Nat.one_pos
  obtain ⟨g, hvec⟩ := hvec
  have hfirst : (act 0).touches = true ∧ (act 0).writes = true := by
    rw [(hact 0 (by decide)).1]
    exact ⟨rfl, rfl⟩
  refine ⟨t, hnext, ⟨honly, hrows⟩, fun k hk => ?_, fun off hlo hhi => ?_, ?_, ?_, ?_⟩
  · rw [leNat_bytes, hvec]
    have helem := acted_elem (v := s.hart.vec) (act := act) (pos := fun k => (s.hart.cfg.vwb.toNat + d.toNat, k)) hw hin
      (fun i _ j _ h => congrArg Prod.snd h) hk
    rw [(hact k hk).1] at helem
    refine helem.trans ?_
    exact (Nat.mod_mod _ _).trans (Nat.mod_eq_of_lt (scaleAt s.hart.vec x.toNat k).isLt)
  · rw [hvec]
    refine acted_key (by decide) fun k hk => .inr ?_
    unfold rowKey
    dsimp only
    omega
  · rw [hvec]
    refine acted_order.trans (if_pos (List.any_eq_true.2 ⟨0, List.mem_range.2 (by decide), ?_⟩))
    rw [hfirst.1, beq_self_eq_true]
    rfl
  · rw [hvec]
    refine acted_dirty.trans ?_
    rw [List.any_eq_true.2 ⟨0, List.mem_range.2 (by decide), by rw [hfirst.2, beq_self_eq_true]; rfl⟩, Bool.or_true]
  · rw [hvec]
    refine (acted_high hw).trans (eq_of_forall_ge_iff fun y => ?_)
    rw [foldl_max_le_iff, show Nat.max _ 512 ≤ y ↔ _ from Nat.max_le]
    refine and_congr_right fun _ => ⟨fun h => ?_, fun h z hz => ?_⟩
    · refine h 512 (List.mem_map.2 ⟨255, List.mem_filter.2 ⟨List.mem_range.2 (by decide), ?_⟩, (by decide : endByte 16 255 = 512)⟩)
      rw [(hact 255 (by decide)).1, beq_self_eq_true]
      rfl
    · obtain ⟨k, hk, rfl⟩ := List.mem_map.1 hz
      have hk := List.mem_range.1 (List.mem_filter.1 hk).1
      unfold endByte
      dsimp only
      omega

theorem isBlockType_iff {et : Nat} : isBlockType et = true ↔ 8 ≤ et ∧ et < 12 := by
  unfold isBlockType
  rw [Bool.and_eq_true, decide_eq_true_eq, decide_eq_true_eq]

theorem PlainRows.one {k : Nat} (h : PlainRows s n k) (hk : 1 ≤ k) : PlainRows s n 1 := by
  obtain ⟨⟨hin, hall⟩, hfree⟩ := h
  exact ⟨⟨by omega, by omega⟩, fun j hj => hfree j (by omega)⟩

theorem blockScaleResults : Sys2Proof.Claim.BlockScaleResults := by
  intro d a x m s hok hvl hreach
  have hr := hok.ready
  refine ⟨fun hlo hhi => ?_, movesToScales hr ((hok.plain a (by simp)).one hok.rc), movesFromScales hr ((hok.plain d (by simp)).one hok.rc)⟩
  have htypes : isBlockType s.hart.cfg.et = true := isBlockType_iff.2 ⟨hlo, hhi⟩
  obtain ⟨t, fl, hnext, honly, ⟨hothers, hscaled⟩, hfl, hvec⟩ := scales (x := x) hok hvl hreach htypes
  obtain ⟨t', fl', hnext', honly', ⟨hothers', hscaled'⟩, hrest'⟩ := quantises (x := x) hok hvl hreach htypes
  exact ⟨⟨t, fl, hnext, honly, hothers, hscaled, hfl, hvec⟩, ⟨t', fl', hnext', honly', hothers', hscaled', hrest'⟩,
    dequantises hok hvl hreach htypes⟩

/-- Settles O26: a conversion gives each element its value; the exponent and the special element of a block are those of R88 and R89. -/
theorem vectorConvertResults : Obligations.VectorConvertResults := ⟨convertResults, blockScales, blockScaleResults⟩

end Sys2Proof.Machine
end

section
/-! VCFG, VQRECV and VREL (settles O30). -/

namespace Sys2Proof.Machine

variable {s q t u : State} {a d : BitVec 7} {wd lit : BitVec 32} {op : VOp} {perform : Entry → M Unit} {e : Entry}

/-! ## Entries with a check and a scalar side of their own (R416) -/

theorem exec_dispatchEntry_with (hd : Dispatches op s) (hq : s.hart.vq = [])
    (hc : (op.check (entryOf s wd lit op.a op.b op.whole)).exec s = (.ok (), s))
    (ha : (op.atDispatch (entryOf s wd lit op.a op.b op.whole)).exec s = (.ok e, t)) :
    (dispatchEntry wd lit op).exec s = (.ok e, { t with hart := { t.hart with vq := t.hart.vq ++ [e] } }) := by
  have hlive : (s.hart.task.vrel && !op.afterVrel) = false := by
    rcases hd.live with h | h
    · rw [h, Bool.false_and]
    · rw [h, Bool.not_true, Bool.and_false]
  have hroom : (decide (32 ≤ s.hart.vq.length) || (op.serial && !s.hart.vq.isEmpty)) = false := by
    rw [hq, List.isEmpty_nil, Bool.not_true, Bool.and_false]
    rfl
  have hrest : (do
      op.check (entryOf s wd lit op.a op.b op.whole)
      if 32 ≤ s.hart.vq.length || (op.serial && !s.hart.vq.isEmpty) then block
      let e ← op.atDispatch (entryOf s wd lit op.a op.b op.whole)
      modHart fun h => { h with vq := h.vq ++ [e] }
      pure e : M Entry).exec s = (.ok e, { t with hart := { t.hart with vq := t.hart.vq ++ [e] } }) := by
    rw [exec_bind_ok hc, hroom, if_neg Bool.false_ne_true, exec_bind_ok ha]
    rfl
  unfold dispatchEntry
  rw [exec_bind_ok (exec_getHart s)]
  dsimp only
  split
  · rw [exec_bind, exec_needSupervisor, if_pos (hd.priv ‹_›)]
    simp only [exec_bind_ok (exec_trapIf_false hlive _ _ s), hd.etype, Bool.not_true, Bool.false_eq_true, if_false,
      exec_bind_ok (exec_capCheck _ _ hd.capA), exec_bind_ok (exec_capCheck _ _ hd.capB)]
    exact hrest
  · simp only [exec_bind_ok (exec_trapIf_false hlive _ _ s), hd.etype, Bool.not_true, Bool.false_eq_true, if_false,
      exec_bind_ok (exec_capCheck _ _ hd.capA), exec_bind_ok (exec_capCheck _ _ hd.capB)]
    exact hrest

/-- An entry that is alone in the queue of a hart whose vector unit does not lag is performed, and retires, in the step that dispatched it. -/
theorem dispatchV_of_entry (hentry : (dispatchEntry wd lit op).exec s = (.ok e, t)) (hvq : t.hart.vq = [e]) (hlag : t.lag = false)
    (hp : (perform e).exec t.passed = (.ok (), u)) : dispatchV wd lit op perform s = .next u.retired := by
  have hpassed : t.passed.hart.vq = [e] := (passed_vq t).trans hvq
  unfold dispatchV
  rw [hentry]
  change (if _ then _ else _) = _
  rw [if_pos]
  · change Host.Outcome.next ((executeHead perform).exec t.passed).2 = _
    unfold executeHead
    rw [exec_bind_ok (exec_getHart _)]
    simp only [hpassed]
    rw [exec_bind_ok (exec_attempt _ _), hp]
    rfl
  · change (decide (t.passed.hart.vq.length = 1) && (op.serial || !t.passed.lag)) = true
    rw [hpassed, passed_lag, hlag]
    exact Bool.or_true _

/-! ## VCFG (R133) -/

/-- The hart after VCFG has been dispatched: VL, RC and ETYPE are set, VL is in its destination, and the pending seed is taken (R133, R79). -/
def Hart.configured (h : Hart) (d a : BitVec 7) (r : BitVec 5) (t : BitVec 4) : Hart :=
  let vl := Nat.min (scalarVal h a).toNat (vlmax t.toNat)
  let set := setScalar { h with cfg := { h.cfg with vl := BitVec.ofNat 14 vl, rc := r.zeroExtend 6 + 1, etype := t } } d (BitVec.ofNat 64 vl)
  { set with sys := { set.sys with reseed := false } }

theorem configured_cfg (h : Hart) (r : BitVec 5) (t : BitVec 4) : (h.configured d a r t).cfg = { h.cfg with
    vl := BitVec.ofNat 14 (Nat.min (scalarVal h a).toNat (vlmax t.toNat)), rc := r.zeroExtend 6 + 1, etype := t } := setScalar_cfg ..

theorem configured_vec (h : Hart) (r : BitVec 5) (t : BitVec 4) : (h.configured d a r t).vec = h.vec := setScalar_vec ..

theorem configured_vq (h : Hart) (r : BitVec 5) (t : BitVec 4) : (h.configured d a r t).vq = h.vq := setScalar_vq ..

theorem configured_sys (h : Hart) (r : BitVec 5) (t : BitVec 4) : (h.configured d a r t).sys = { h.sys with reseed := false } := by
  unfold Hart.configured
  dsimp only
  rw [setScalar_sys]

theorem configured_sregs (h : Hart) (r : BitVec 5) (t : BitVec 4) : (h.configured d a r t).sregs =
    (setScalar h d (BitVec.ofNat 64 (Nat.min (scalarVal h a).toNat (vlmax t.toNat)))).sregs := by
  unfold Hart.configured setScalar
  dsimp only
  split <;> rfl

/-- The entry that VCFG queues: it carries the new configuration and the seed it took (R79). -/
def configuredEntry (s : State) (e : Entry) (d a : BitVec 7) (r : BitVec 5) (t : BitVec 4) : Entry :=
  { e with cfg := (s.hart.configured d a r t).cfg, b0 := if s.hart.sys.reseed then s.hart.sys.srseed.zeroExtend 64 else 0 }

theorem exec_configure (r : BitVec 5) (t : BitVec 4) : (configure d a r t e).exec s =
    (.ok (configuredEntry s e d a r t), { s with hart := s.hart.configured d a r t }) := rfl

/-- The strip boundary changes the lane map alone, and not even it where the lanes are as many as are preferred and no more than the
minimum (R33). -/
theorem exec_stripBoundary (q : State) : ∃ lm, stripBoundary.exec q =
      (.ok (), { q with hart := { q.hart with sys := { q.hart.sys with laneMap := lm } } }) ∧
    (q.hart.sys.lanePref.toNat ≤ lanes q.hart.sys.laneMap → lanes q.hart.sys.laneMap ≤ q.hart.sys.laneMin.toNat →
      lm = q.hart.sys.laneMap) := by
  unfold stripBoundary
  rw [exec_bind_ok (exec_get q)]
  dsimp only
  split
  · next h =>
    rw [Bool.and_eq_true, decide_eq_true_iff] at h
    exact ⟨_, exec_modSys _ q, fun _ hmin => absurd h.2 (Nat.not_lt.2 hmin)⟩
  · split
    · next h => exact ⟨_, exec_modSys _ q, fun hpref _ => absurd h (Nat.not_lt.2 hpref)⟩
    · exact ⟨_, rfl, fun _ _ => rfl⟩

theorem exec_performVcfg (q : State) (e : Entry) : ∃ lm, (performVcfg e).exec q = (.ok (), { q with hart := { q.hart with
      sys := { q.hart.sys with laneMap := lm }
      vec := { q.hart.vec with gen := if e.b0 = 0 then q.hart.vec.gen else e.b0.extractLsb' 0 32 } } }) ∧
    (q.hart.sys.lanePref.toNat ≤ lanes q.hart.sys.laneMap → lanes q.hart.sys.laneMap ≤ q.hart.sys.laneMin.toNat →
      lm = q.hart.sys.laneMap) := by
  obtain ⟨lm, hexec, hsame⟩ := exec_stripBoundary q
  refine ⟨lm, ?_, hsame⟩
  unfold performVcfg
  rw [exec_bind_ok hexec]
  by_cases h : e.b0 = 0
  · rw [if_pos h, if_neg (by rw [h]; decide)]
    rfl
  · rw [if_neg h, if_pos (bne_iff_ne.2 h)]
    rfl

/-- A captured seed of 0 is none (R79). -/
theorem seed_taken (y : SysRegs) (g : BitVec 32) : (if (if y.reseed then y.srseed.zeroExtend 64 else 0 : Word) = 0 then g
      else (if y.reseed then y.srseed.zeroExtend 64 else 0 : Word).extractLsb' 0 32) =
    if y.reseed = true ∧ y.srseed ≠ 0 then y.srseed else g := by
  cases y.reseed with
  | false => rw [if_pos (if_neg Bool.false_ne_true), if_neg fun h => Bool.false_ne_true h.1]
  | true =>
    by_cases h : y.srseed = 0
    · rw [h, if_pos (show (if true = true then BitVec.zeroExtend 64 (0 : BitVec 32) else 0) = (0 : Word) from rfl), if_neg fun h => h.2 rfl]
    · have hword : y.srseed.zeroExtend 64 ≠ 0 := fun h0 => h (BitVec.eq_of_toNat_eq (by
        have := congrArg BitVec.toNat h0
        rwa [BitVec.toNat_setWidth, Nat.mod_eq_of_lt (by omega)] at this))
      rw [if_pos rfl, if_neg hword, if_pos ⟨rfl, h⟩]
      ext i hi
      rw [BitVec.getElem_extractLsb']
      simp [hi]
      omega

theorem vcfg_configures (hr : Ready s) (r : BitVec 5) (t : BitVec 4) (hd : scalarOk s.hart d = true) (ha : scalarOk s.hart a = true) :
    let vl := Nat.min (scalarVal s.hart a).toNat (vlmax t.toNat)
    ∃ u, exec (.vcfg d a r t) s = .next u ∧
      u.hart.cfg = { s.hart.cfg with vl := BitVec.ofNat 14 vl, rc := r.zeroExtend 6 + 1, etype := t, estart := 0 } ∧
      u.hart.sregs = (setScalar s.hart d (BitVec.ofNat 64 vl)).sregs ∧ u.hart.vq = [] ∧
      u.hart.vec = { s.hart.vec with
        gen := if s.hart.sys.reseed = true ∧ s.hart.sys.srseed ≠ 0 then s.hart.sys.srseed else s.hart.vec.gen
        strips := []
        outs := [] } ∧
      u.hart.sys = { s.hart.sys with reseed := false, laneMap := u.hart.sys.laneMap } ∧
      (s.hart.sys.lanePref.toNat ≤ lanes s.hart.sys.laneMap → lanes s.hart.sys.laneMap ≤ s.hart.sys.laneMin.toNat →
        u.hart.sys.laneMap = s.hart.sys.laneMap) := by
  intro vl
  have hentry := exec_dispatchEntry_with (wd := (encVcfg d a r t).toWord) (lit := 0)
    (op := { check := fun _ => do checkScalar d; checkScalar a, atDispatch := configure d a r t })
    ⟨Bool.noConfusion, .inl hr.live, rfl, trivial, trivial⟩ hr.empty
    ((exec_bind_ok (exec_checkScalar_ok hd)).trans (exec_checkScalar_ok ha)) (exec_configure r t)
  generalize hq : ({ s with hart := { s.hart.configured d a r t with vq := _ } } : State) = q at hentry
  have hqueue : q.hart.vq = [configuredEntry s (entryOf s (encVcfg d a r t).toWord 0 .none .none) d a r t] := by
    rw [← hq]
    dsimp only
    rw [configured_vq, hr.empty]
    rfl
  obtain ⟨lm, hexec, hsame⟩ := exec_performVcfg q.passed (configuredEntry s (entryOf s (encVcfg d a r t).toWord 0 .none .none) d a r t)
  have hsys : q.passed.hart.sys = { s.hart.sys with reseed := false } := by rw [passed_sys, ← hq]; exact configured_sys ..
  have hvec : q.passed.hart.vec = s.hart.vec := by rw [passed_vec, ← hq]; exact configured_vec ..
  have hcfg : q.passed.hart.cfg = (s.hart.configured d a r t).cfg := by rw [passed_cfg, ← hq]
  have hsregs : q.passed.hart.sregs = (s.hart.configured d a r t).sregs := by rw [passed_sregs, ← hq]
  rw [hsys] at hsame
  refine ⟨_, dispatchV_of_entry hentry hqueue (by rw [← hq]; exact hr.prompt) hexec, ?_, hsregs.trans (configured_sregs ..), ?_, ?_, ?_, hsame⟩
  · change ({ q.passed.hart.cfg with estart := 0 } : VConf) = _
    rw [hcfg, configured_cfg]
  · change q.passed.hart.vq.tail = []
    rw [passed_vq, hqueue]
    rfl
  · change ({ q.passed.hart.vec with gen := _, strips := [], outs := [] } : VecRegs) = _
    rw [hvec]
    exact congrArg (fun g => ({ s.hart.vec with gen := g, strips := [], outs := [] } : VecRegs)) (seed_taken s.hart.sys s.hart.vec.gen)
  · change ({ q.passed.hart.sys with laneMap := lm } : SysRegs) = { s.hart.sys with reseed := false, laneMap := lm }
    rw [hsys]

/-! ## VREL (R35) -/

/-- Input bindings end without an effect on anything else (R235). -/
theorem exec_unbindAll (hin : ∀ n st, sparseGet none q.hart.vec.streams n = some st → st.out = false) :
    ∃ ss, unbindAll.exec q = (.ok (), { q with hart := { q.hart with vec := { q.hart.vec with streams := ss } } }) ∧
      ∀ n < 8, sparseGet none ss n = none := by
  have hbelow (k : Nat) : ∃ ss, (forN k fun slot => do
        match sparseGet none (← getHart).vec.streams slot with
        | some st => do
          if st.out then flushStream slot st
          putStream slot none
        | none => pure ()).exec q = (.ok (), { q with hart := { q.hart with vec := { q.hart.vec with streams := ss } } }) ∧
      (∀ n < k, sparseGet none ss n = none) ∧ ∀ n, k ≤ n → sparseGet none ss n = sparseGet none q.hart.vec.streams n := by
    induction k with
    | zero => exact ⟨q.hart.vec.streams, rfl, fun n hn => absurd hn (Nat.not_lt_zero n), fun n _ => rfl⟩
    | succ k ih =>
      obtain ⟨ss, hexec, hdone, hrest⟩ := ih
      rw [exec_forN_succ hexec, exec_bind_ok (exec_getHart _)]
      dsimp only
      cases hk : sparseGet none ss k with
      | none =>
        refine ⟨ss, rfl, fun n hn => ?_, fun n hn => hrest n (by omega)⟩
        rcases Nat.lt_succ_iff_lt_or_eq.1 hn with h | rfl
        · exact hdone n h
        · exact hk
      | some st =>
        dsimp only
        rw [hin k st ((hrest k le_rfl).symm.trans hk), if_neg Bool.false_ne_true]
        refine ⟨sparsePut none ss k none, rfl, fun n hn => ?_, fun n hn => ?_⟩
        · rcases Nat.lt_succ_iff_lt_or_eq.1 hn with h | rfl
          · exact (sparseGet_put_other none _ _ (by omega)).trans (hdone n h)
          · exact sparseGet_put_same ..
        · exact (sparseGet_put_other none _ _ (by omega)).trans (hrest n (by omega))
  obtain ⟨ss, hexec, hdone, -⟩ := hbelow 8
  exact ⟨ss, hexec, hdone⟩

theorem exec_performVrel (hin : ∀ n st, sparseGet none q.hart.vec.streams n = some st → st.out = false) (e : Entry) :
    ∃ ss, (performVrel e).exec q = (.ok (), { q with hart := { q.hart with
        vec := { q.hart.vec with streams := ss }
        sys := { q.hart.sys with laneMap := 0 }
        task := { q.hart.task with released := true } } }) ∧ ∀ n < 8, sparseGet none ss n = none := by
  obtain ⟨ss, hunbind, hnone⟩ := exec_unbindAll hin
  exact ⟨ss, exec_bind_ok hunbind, hnone⟩

/-- After VREL no vector-side instruction dispatches but those that the rule exempts (R35). -/
theorem dispatchV_released (hpriv : op.privileged = false) (hafter : op.afterVrel = false) (hrel : s.hart.task.vrel = true) :
    dispatchV wd lit op perform s = .next (takeTrap false .ill 1 s) := by
  have hdead : (s.hart.task.vrel && !op.afterVrel) = true := by rw [hrel, hafter]; rfl
  have hentry : (dispatchEntry wd lit op).exec s = (.error (.trap .ill 1), s) := by
    unfold dispatchEntry
    rw [exec_bind_ok (exec_getHart s)]
    simp only [hpriv, Bool.false_eq_true, if_false, exec_bind, exec_trapIf, hdead, if_true]
  unfold dispatchV
  rw [hentry]

theorem vrel_releases (hr : Ready s) (hin : ∀ n st, sparseGet none s.hart.vec.streams n = some st → st.out = false) :
    ∃ u, exec .vrel s = .next u ∧ u.hart.sys = { s.hart.sys with laneMap := 0 } ∧
      u.hart.task = { s.hart.task with vrel := true, released := true } ∧ (∀ n < 8, sparseGet none u.hart.vec.streams n = none) ∧
      u.hart.vec.rows = s.hart.vec.rows ∧ u.hart.vq = [] ∧ exec .vrel u = .next (takeTrap false .ill 1 u) := by
  have hentry := exec_dispatchEntry_with (s := s) (wd := encVrel.toWord) (lit := 0)
    (op := { atDispatch := fun e => do modTask fun t => { t with vrel := true }; pure e })
    ⟨Bool.noConfusion, .inl hr.live, rfl, trivial, trivial⟩ hr.empty rfl rfl
  dsimp only at hentry
  generalize hq : ({ s with hart := { s.hart with task := _, vq := _ } } : State) = q at hentry
  have hqueue : q.hart.vq = [entryOf s encVrel.toWord 0 .none .none] := by
    rw [← hq]
    dsimp only
    rw [hr.empty]
    rfl
  have hvec : q.passed.hart.vec = s.hart.vec := by rw [passed_vec, ← hq]
  have hsys : q.passed.hart.sys = s.hart.sys := by rw [passed_sys, ← hq]
  have htask : q.passed.hart.task = { s.hart.task with vrel := true } := by rw [passed_task, ← hq]
  obtain ⟨ss, hexec, hnone⟩ := exec_performVrel (q := q.passed) (by rw [hvec]; exact hin) (entryOf s encVrel.toWord 0 .none .none)
  refine ⟨_, dispatchV_of_entry hentry hqueue (by rw [← hq]; exact hr.prompt) hexec, ?_, ?_, hnone, ?_, ?_,
    dispatchV_released rfl rfl ?_⟩
  · exact congrArg (fun y : SysRegs => { y with laneMap := 0 }) hsys
  · exact congrArg (fun k : Task => { k with released := true }) htask
  · exact (congrArg VecRegs.rows hvec :)
  · exact (congrArg List.tail ((passed_vq q).trans hqueue))
  · exact congrArg Task.vrel htask

/-! ## VQRECV (R121) -/

/-- The state in which a queue has given up its oldest value. -/
def State.withQueues (s : State) (qs : Sparse (List Word)) : State := { s with hart := { s.hart with queues := qs } }

theorem withQueues_retired (q : State) (qs : Sparse (List Word)) (v : VecRegs) :
    ((q.withQueues qs).worked 0 v).retired.withQueues q.hart.queues = (q.worked 0 v).retired := rfl

theorem ite_bind_prop {α β : Type} (p : Prop) [Decidable p] (x y : M α) (f : α → M β) :
    (if p then x >>= f else y >>= f) = (if p then x else y) >>= f := (apply_ite (· >>= f) p x y).symm

/-- A converted value is one of its element type. -/
theorem converted_fits {c : VConf} (het : c.et < 8) (x : Nat) : (converted c x).1 % 2 ^ c.width =
    if c.et < 6 then x % 2 ^ c.width else ((fmtOf c.et).rnd c.frm.toNat 0 false (v32 (x % 2 ^ 32))).1 := by
  rw [converted_fst]
  by_cases h5 : c.et < 5
  · rw [if_pos h5, if_pos (by omega), Nat.mod_mod]
  · by_cases he : c.et = 5
    · have hw : c.width = 32 := by unfold VConf.width; rw [he]; rfl
      rw [if_neg h5, if_pos he, if_pos (by omega), hw, Nat.mod_mod]
    · rw [if_neg h5, if_neg he, if_neg (by omega)]
      exact Nat.mod_eq_of_lt (rnd_fmtOf_lt (by omega) het _ _ _ _)

/-- What VQRECV does with the value it took: it converts it once, where some position needs it, takes back the flags of the conversion, and
writes the tile with it. -/
theorem exec_broadcast {c : VConf} (hfree : Free c q d.toNat c.rcN) (het : c.et < 8) (x : Nat) :
    ∃ y act g, ((if c.count = 0 then pure 0 else convertScalar c x) >>= fun y => do
        modSys fun r => { r with fflags := q.hart.sys.fflags }
        putTileW c d.toNat c.width fun _ => pure (some y) : M Unit).exec q =
        (.ok (), q.worked 0 { acted c.width (flatPos c d.toNat) act c.count q.hart.vec with gen := g }) ∧
      TileActs c c.width True (fun _ => some y) 0 act 0 ∧
      (c.count ≠ 0 → c.frm ≠ 4 ∨ c.et < 6 → y = (converted c x).1) := by
  have hconv : Yields q (if c.count = 0 then pure 0 else convertScalar c x) fun y _ =>
      c.count ≠ 0 → c.frm ≠ 4 ∨ c.et < 6 → y = (converted c x).1 := by
    split
    · next h => exact yields_pure fun hne => absurd h hne
    · exact (gives_convertScalar q het x).mono fun y fl h _ hdet => congrArg Prod.fst (h hdet)
  obtain ⟨y, fl, g, hexec, hy⟩ := hconv 0 q.hart.vec
  rw [worked_self] at hexec
  obtain ⟨act, fl', g', hfill, hacts⟩ := fills_pureTile (w := c.width) (f := fun _ => some y) hfree 0 g
  obtain rfl : fl' = 0 := by
    obtain ⟨o, -, hdet⟩ := hacts
    exact (hdet trivial).2
  refine ⟨y, act, g', ?_, hacts, hy⟩
  rw [exec_bind_ok hexec, exec_bind_ok (exec_modSys _ _)]
  have hflags : q.hart.sys.fflags ||| 0 = q.hart.sys.fflags := flags_or_zero _
  unfold State.worked at hfill ⊢
  dsimp only at hfill ⊢
  rw [hflags] at hfill
  exact hfill.trans (by rw [flags_or_zero])

theorem exec_performVqrecv (hr : Ready s) (hrc : 1 ≤ s.hart.cfg.rcN) (hplain : PlainTile s d) (het : s.hart.cfg.et < 8) {x : Word}
    {xs : List Word} (hqueue : sparseGet [] s.hart.queues a.toNat = x :: xs) (hcfg : e.cfg = s.hart.cfg) :
    ∃ y act v, (performVqrecv d a e).exec (s.queued e) =
        (.ok (), ((s.queued e).withQueues (sparsePut [] s.hart.queues a.toNat xs)).worked 0 v) ∧
      (∃ g, ({ v with strips := [], outs := [] } : VecRegs) = { acted s.hart.cfg.width (flatPos s.hart.cfg d.toNat) act s.hart.cfg.count
        s.hart.vec with gen := g, strips := [], outs := [] }) ∧
      TileActs s.hart.cfg.from0 s.hart.cfg.width True (fun _ => some y) 0 act 0 ∧
      (s.hart.cfg.count ≠ 0 → s.hart.cfg.frm ≠ 4 ∨ s.hart.cfg.et < 6 → y = (converted s.hart.cfg x.toNat).1) := by
  have hqueues := queued_queues s e
  obtain ⟨y, act, g, hexec, hacts, hy⟩ := exec_broadcast (c := s.hart.cfg.from0)
    (q := (s.queued e).withQueues (sparsePut [] s.hart.queues a.toNat xs)) (hplain.free e) het x.toNat
  refine ⟨y, act, { acted s.hart.cfg.width (flatPos s.hart.cfg d.toNat) act s.hart.cfg.count s.hart.vec with
    gen := g, strips := [], outs := [] }, ?_, ⟨g, rfl⟩, hacts, hy⟩
  unfold performVqrecv vrun
  dsimp only
  rw [hcfg]
  refine (exec_vrunN_ok (t := ((s.queued e).withQueues (sparsePut [] s.hart.queues a.toNat xs)).worked 0 { acted s.hart.cfg.width
    (flatPos s.hart.cfg d.toNat) act s.hart.cfg.count s.hart.vec with gen := g })
    (List.forall_mem_singleton.2 (hplain.opnd hrc e ..).startAt) (by rw [queued_vec]; exact hr.soundRows) ?_).trans rfl
  rw [exec_bind_ok (exec_getHart _), hqueues, hqueue]
  dsimp only
  rw [exec_bind_ok (exec_modHart _ _), hqueues, ite_bind_prop]
  have hvec : ((s.queued e).withQueues (sparsePut [] s.hart.queues a.toNat xs)).hart.vec = s.hart.vec := queued_vec s e
  rw [hvec] at hexec
  exact hexec

theorem vqrecv_broadcasts {x : Word} {xs : List Word} (hok : TilesOk s 0 [d] (.vv d)) (het : s.hart.cfg.et < 8)
    (hqueue : sparseGet [] s.hart.queues a.toNat = x :: xs) :
    ∃ u, exec (.vqrecv d a) s = .next u ∧ sparseGet [] u.hart.queues a.toNat = xs ∧
      OnlyRows (tileRows s d s.hart.cfg.rcN) s { u with hart := { u.hart with queues := s.hart.queues } } ∧
      RowMarksOf s u d.toNat s.hart.cfg.rcN s.hart.cfg.width 0 (fun _ => some 0) ∧
      (s.hart.cfg.et < 6 ∨ s.hart.cfg.frm ≠ 4 → ∀ j < s.hart.cfg.count, u.hart.vec.elW s.hart.cfg d s.hart.cfg.width j =
        if s.hart.cfg.et < 6 then x.toNat % 2 ^ s.hart.cfg.width
        else ((fmtOf s.hart.cfg.et).rnd s.hart.cfg.frm.toNat 0 false (v32 (x.toNat % 2 ^ 32))).1) := by
  have hr := hok.ready
  have hplain : PlainTile s d := hok.plain d (List.mem_singleton.2 rfl)
  generalize he : entryOf s (encVqrecv d a).toWord 0 .none .none = e
  obtain ⟨y, act, v, hexec, hvec, hacts, hy⟩ := exec_performVqrecv (e := e) hr hok.rc hplain het hqueue (by rw [← he]; rfl)
  have hnext := dispatchV_done (encVqrecv d a).toWord 0 { etypes := upTo7 } (performVqrecv d a) hr
    (dispatches_of_etype hr (decide_eq_true het) trivial trivial) rfl rfl (by rw [← he] at hexec; exact hexec)
  rw [he] at hnext
  have hrest := withQueues_retired (s.queued e) (sparsePut [] s.hart.queues a.toNat xs) v
  rw [queued_queues] at hrest
  obtain ⟨t, heq, honly, htile, hmarks⟩ := wroteWhole_of_acts (f := fun _ => some y) (r := .next ((s.queued e).worked 0 v).retired) hr hplain
    hok.rc hok.vl ⟨_, act, 0, rfl, onlyVec_retired hr.empty e 0 v, hvec, hacts⟩
  obtain rfl := Host.Outcome.next.inj heq
  refine ⟨_, hnext, sparseGet_put_same .., ?_, rowMarksOf_congr (fun _ _ => rfl) hmarks, fun hdet j hj => (htile j hj).trans ?_⟩
  · exact (congrArg (OnlyRows (tileRows s d s.hart.cfg.rcN) s) hrest).mpr honly
  · dsimp only
    rw [hy (Nat.ne_of_gt (Nat.zero_lt_of_lt hj)) hdet.symm]
    exact converted_fits het x.toNat

/-- Settles O30: VCFG and VREL by what the scalar unit does at dispatch and the entry after it, VQRECV as a tile of one value. -/
theorem vectorControlResults : Obligations.VectorControlResults := by
  intro d a r t s hr
  exact ⟨vcfg_configures hr r t, fun x xs hok het hqueue => vqrecv_broadcasts hok het hqueue, vrel_releases hr⟩

end Sys2Proof.Machine
end

section
/-! Accesses of the vector agent, made one after the other (serves O27 to O29): what an access needs is left alone by the accesses before
it. -/

namespace Sys2Proof.Machine

variable {α β : Type} {q u t : State} {k : Access} {g : Agent} {v : Word} {priv n pa : Nat}

/-! ## Meanings that end well -/

theorem bind_eq_ok {m : M α} {f : α → M β} {y : β} (h : (m >>= f).exec q = (.ok y, u)) :
    ∃ x p, m.exec q = (.ok x, p) ∧ (f x).exec p = (.ok y, u) := by
  rw [exec_bind] at h
  rcases hm : m.exec q with ⟨e | x, p⟩
  · rw [hm] at h
    cases h
  · rw [hm] at h
    exact ⟨x, p, rfl, h⟩

theorem trapIf_eq_ok {p : Bool} {c : Cause} {x : Unit} (h : (trapIf p c v).exec q = (.ok x, u)) : p = false ∧ u = q := by
  cases p with
  | false => exact ⟨rfl, congrArg Prod.snd h.symm⟩
  | true => cases h

/-- A meaning after a condition that traps. -/
theorem guard_eq_ok {p : Prop} [Decidable p] {c : Cause} {m : M α} {y : α} (h : (if p then (do trap c v; m) else m).exec q = (.ok y, u)) :
    ¬p ∧ m.exec q = (.ok y, u) := by
  by_cases hp : p
  · rw [if_pos hp] at h
    cases h
  · rw [if_neg hp] at h
    exact ⟨hp, h⟩

/-! ## What an access needs -/

/-- The two states are alike to an access: they differ at most in memory, in scratchpads with their poison, and in registers of the hart
that no access looks at. -/
structure Alike (q u : State) : Prop where
  id : u.id = q.id
  dies : u.dies = q.dies
  pkgs : u.pkgs = q.pkgs
  trap : u.hart.trap = q.hart.trap
  unanswered : u.hart.unanswered = q.hart.unanswered
  core : ∀ c, u.core c = { q.core c with sp := (u.core c).sp, spPoison := (u.core c).spPoison }

theorem Alike.refl (q : State) : Alike q q := ⟨rfl, rfl, rfl, rfl, rfl, fun _ => rfl⟩

theorem Alike.trans (h : Alike q u) (h' : Alike u t) : Alike q t where
  id := h'.id.trans h.id
  dies := h'.dies.trans h.dies
  pkgs := h'.pkgs.trans h.pkgs
  trap := h'.trap.trans h.trap
  unanswered := h'.unanswered.trans h.unanswered
  core c := by
    rw [h'.core c, h.core c]

theorem alike_worked (q : State) (fl : Flags) (v : VecRegs) : Alike q (q.worked fl v) := ⟨rfl, rfl, rfl, rfl, rfl, fun _ => rfl⟩

theorem alike_putNat (q : State) (a n x : Nat) : Alike q (q.putNat a n x) := ⟨rfl, rfl, rfl, rfl, rfl, fun _ => rfl⟩

theorem alike_putSp (q : State) (c off n x : Nat) : Alike q (q.putSp c off n x) where
  id := rfl
  dies := rfl
  pkgs := rfl
  trap := rfl
  unanswered := rfl
  core k := by
    by_cases hk : k = c
    · subst hk
      unfold State.putSp
      rw [core_setCore_same]
    · unfold State.putSp
      rw [core_setCore_other _ _ hk]

section

variable (h : Alike q u)

include h

theorem Alike.die (d : Nat) : u.die d = q.die d := by unfold State.die; rw [h.dies]

theorem Alike.unlocked (hfree : Unlocked q) : Unlocked u := by
  unfold Unlocked State.myCore at *
  rw [h.id, h.core]
  exact hfree

/-- The checks on a physical address come out the same. -/
theorem Alike.exec_reach (hans : q.hart.unanswered = none) (mt : Nat) :
    (reach k g mt v pa n).exec u = (((reach k g mt v pa n).exec q).1, u) ∧ ((reach k g mt v pa n).exec q).2 = q := by
  have habsent : absent u (pkgOf u.id) pa = absent q (pkgOf q.id) pa := by unfold absent State.pkg; rw [h.id, h.pkgs]
  have hfenced : fencedAt u pa = fencedAt q pa := by unfold fencedAt State.die; rw [h.dies]
  unfold reach
  rw [exec_bind_ok (exec_get u), exec_bind_ok (exec_get q), unanswered_none hans, unanswered_none (h.unanswered.trans hans), habsent, hfenced]
  rw [if_neg Bool.false_ne_true]
  split
  · exact ⟨rfl, rfl⟩
  · split <;> exact ⟨rfl, rfl⟩

/-- With translation off the address of an access comes out the same, or the access is refused for the same cause (R316). -/
theorem Alike.exec_translateAt_off (hans : q.hart.unanswered = none) (hoff : q.myDie.ptEn = 0) :
    (translateAt priv k g v n).exec u = (((translateAt priv k g v n).exec q).1, u) ∧ ((translateAt priv k g v n).exec q).2 = q := by
  have hdie : (u.die (dieOf u.id)).ptEn = 0 := by rw [h.id, h.die]; exact hoff
  unfold translateAt
  rw [exec_bind_ok (exec_get u), exec_bind_ok (exec_get q)]
  dsimp only
  rw [if_pos hdie, if_pos (show (q.die (dieOf q.id)).ptEn = 0 from hoff)]
  split
  · exact ⟨rfl, rfl⟩
  · split
    · exact ⟨rfl, rfl⟩
    · exact h.exec_reach hans 0

end

/-! ## Cached leaves (R320, R321) -/

/-- The leaf of an access is cached, with every bit that the access needs. -/
structure Cached (priv : Nat) (k : Access) (va : Nat) (d : Die) (t : Tlb) : Prop where
  found : tlbFind d.tlb va = some t
  sound : t.bad = false
  unit : d.fenced.contains 66 = false
  allowed : permitted k priv t.leaf.toNat = true
  dirty : ((k == .store || k == .atomic) && !bitOf t.leaf.toNat 7) = false

theorem exec_translateAt_cached {t : Tlb} (hon : (q.die (dieOf q.id)).ptEn ≠ 0) (hva : v.toNat < 2 ^ 52)
    (hc : Cached priv k v.toNat (q.die (dieOf q.id)) t) : (translateAt priv k g v n).exec q =
      (reach k g (bitsOf t.leaf.toNat 9 8) v (leafAddr t.leaf.toNat t.big v.toNat) n).exec q := by
  have hlook : (match tlbFind (q.die (dieOf q.id)).tlb v.toNat with
      | some t => do
        trapIf t.bad .mce v
        pure (t.leaf.toNat, t.big)
      | none => do let (e, _, big) ← walkAndCache (dieOf q.id) v.toNat v; pure (e, big) : M (Nat × Bool)).exec q =
      (.ok (t.leaf.toNat, t.big), q) := by
    rw [hc.found]
    exact exec_bind_ok (exec_trapIf_false hc.sound _ _ q)
  unfold translateAt
  rw [exec_bind_ok (exec_get q)]
  dsimp only
  rw [if_neg hon, if_neg (Nat.not_le.2 hva), exec_bind_ok (exec_trapIf_false hc.unit _ _ q)]
  refine (exec_bind_ok hlook).trans ?_
  dsimp only
  rw [if_neg (by rw [hc.allowed]; exact Bool.false_ne_true), if_neg (by rw [hc.dirty]; exact Bool.false_ne_true)]
  rfl

theorem markLeaf_dies (a bit : Nat) (s : State) : (markLeaf a bit s).dies = s.dies := by
  unfold markLeaf
  dsimp only
  split <;> rfl

/-- A walk that ends well caches the leaf it found. -/
theorem tlbFind_walked {d va : Nat} {r : Nat × Nat × Bool} (h : (walkAndCache d va v).exec q = (.ok r, u)) :
    ∃ leaf, tlbFind (u.die d).tlb va = some ⟨pageOf r.2.2 va, r.2.2, leaf, false⟩ := by
  unfold walkAndCache at h
  rw [exec_bind_ok (exec_get q)] at h
  split at h
  · split at h
    · cases h
    · cases h
  · next e at' big _ =>
    obtain ⟨hr, rfl⟩ := Prod.mk.inj h
    obtain rfl := Except.ok.inj hr
    refine ⟨BitVec.ofNat 64 (if bitOf e 6 then e else e + 2 ^ 6), ?_⟩
    dsimp only
    rw [die_setDie_same]
    exact List.find?_cons_of_pos (beq_self_eq_true _)

theorem tlbFind_markDirty {d va : Nat} {x : Tlb} (h : tlbFind (q.die d).tlb va = some x) :
    tlbFind ((q.die d).tlb.map (markDirty va)) va = some { x with leaf := x.leaf ||| 0x80 } := by
  have hsame (y : Tlb) : ((markDirty va y).page == pageOf (markDirty va y).big va) = (y.page == pageOf y.big va) := by
    unfold markDirty
    split <;> rfl
  have hpage : x.page = pageOf x.big va := beq_iff_eq.1 (List.find?_some (p := fun y : Tlb => y.page == pageOf y.big va) h)
  unfold tlbFind at *
  rw [List.find?_map, show ((fun y : Tlb => y.page == pageOf y.big va) ∘ markDirty va) = fun y => y.page == pageOf y.big va from funext hsame, h]
  exact congrArg some (if_pos hpage)

theorem bitOf_dirty (x : Word) : bitOf (x ||| 0x80).toNat 7 = true := by
  rw [bitOf_eq_getLsbD, BitVec.getLsbD_or, show (0x80 : Word).getLsbD 7 = true from rfl, Bool.or_true]

theorem reach_eq_ok {mt y : Nat} (h : (reach k g mt v pa n).exec q = (.ok y, u)) : u = q := by
  unfold reach at h
  rw [exec_bind_ok (exec_get q)] at h
  split at h
  · split at h
    · exact (congrArg Prod.snd h).symm
    · cases h
  · split at h
    · cases h
    · split at h
      · cases h
      · exact (congrArg Prod.snd h).symm

/-- A write to a page whose leaf is not dirty walks again, and leaves a dirty leaf in the TLB (R320). -/
theorem tlbFind_dirtied {d va : Nat} {y : Nat × Bool} (h : (do
      let (e, at', big) ← walkAndCache d va v
      if !permitted k priv e then trap .prot v
      modify (markLeaf at' 7)
      modDie d fun x => { x with tlb := x.tlb.map (markDirty va) }
      pure (e, big) : M (Nat × Bool)).exec q = (.ok y, u)) :
    ∃ t, tlbFind (u.die d).tlb va = some t ∧ bitOf t.leaf.toNat 7 = true := by
  obtain ⟨r, p, hwalk, h⟩ := bind_eq_ok h
  obtain ⟨leaf, hfind⟩ := tlbFind_walked hwalk
  obtain ⟨-, h⟩ := guard_eq_ok h
  have hdies : (markLeaf r.2.1 7 p).die d = p.die d := by unfold State.die; rw [markLeaf_dies]
  have hu : u = (markLeaf r.2.1 7 p).setDie d { (markLeaf r.2.1 7 p).die d with
      tlb := ((markLeaf r.2.1 7 p).die d).tlb.map (markDirty va) } := (congrArg Prod.snd h).symm
  refine ⟨⟨pageOf r.2.2 va, r.2.2, leaf ||| 0x80, false⟩, ?_, bitOf_dirty leaf⟩
  rw [hu, die_setDie_same]
  exact tlbFind_markDirty (by rw [hdies]; exact hfind)

/-- An access that reaches its address and leaves the state alone found its leaf in the TLB: a walk would have cached one. -/
theorem cached_of_reaches (hon : (q.die (dieOf q.id)).ptEn ≠ 0) (h : (translateAt priv k g v n).exec q = (.ok pa, q)) :
    v.toNat < 2 ^ 52 ∧ ∃ t, Cached priv k v.toNat (q.die (dieOf q.id)) t := by
  unfold translateAt at h
  rw [exec_bind_ok (exec_get q)] at h
  dsimp only at h
  rw [if_neg hon] at h
  by_cases hva : 2 ^ 52 ≤ v.toNat
  · rw [if_pos hva] at h
    cases h
  rw [if_neg hva] at h
  refine ⟨Nat.lt_of_not_le hva, ?_⟩
  obtain ⟨x₀, p, hguard, h⟩ := bind_eq_ok h
  obtain ⟨hunit, hp⟩ := trapIf_eq_ok (x := x₀) hguard
  obtain ⟨x, p₁, hlook, h⟩ := bind_eq_ok h
  obtain ⟨hallowed, h⟩ := guard_eq_ok h
  obtain ⟨y, p₂, hwrite, h⟩ := bind_eq_ok h
  rw [hp] at hlook
  rw [← reach_eq_ok h] at hwrite
  have hdirty (hd : ((k == .store || k == .atomic) && !bitOf x.1 7) = true) :
      ∃ t, tlbFind (q.die (dieOf q.id)).tlb v.toNat = some t ∧ bitOf t.leaf.toNat 7 = true := by
    rw [if_pos hd] at hwrite
    exact tlbFind_dirtied hwrite
  have hclean (hd : ¬((k == .store || k == .atomic) && !bitOf x.1 7) = true) : q = p₁ := by
    rw [if_neg hd] at hwrite
    exact (congrArg Prod.snd hwrite).symm
  cases hfind : tlbFind (q.die (dieOf q.id)).tlb v.toNat with
  | none =>
    exfalso
    rw [hfind] at hlook hdirty
    by_cases hd : ((k == .store || k == .atomic) && !bitOf x.1 7) = true
    · obtain ⟨t, ht, -⟩ := hdirty hd
      cases ht
    · obtain ⟨r, p', hwalk, hpure⟩ := bind_eq_ok hlook
      obtain ⟨leaf, hleaf⟩ := tlbFind_walked hwalk
      rw [show p' = q from (congrArg Prod.snd hpure).trans (hclean hd).symm, hfind] at hleaf
      cases hleaf
  | some t =>
    rw [hfind] at hlook
    obtain ⟨x₁, p', hbad, hpure⟩ := bind_eq_ok hlook
    obtain ⟨hsound, -⟩ := trapIf_eq_ok (x := x₁) hbad
    have hx : x = (t.leaf.toNat, t.big) := (Except.ok.inj (congrArg Prod.fst hpure)).symm
    rw [hx] at hallowed hdirty
    refine ⟨t, hfind, hsound, hunit, by simpa using hallowed, Bool.eq_false_iff.2 fun hd => ?_⟩
    obtain ⟨t', ht', hbit⟩ := hdirty hd
    obtain rfl := Option.some.inj (hfind.symm.trans ht')
    rw [hbit] at hd
    simp at hd

/-- An access that reaches its address and leaves the state alone does so in every state that is alike to it. -/
theorem Alike.reaches (h : Alike q u) (hans : q.hart.unanswered = none) (hr : Reaches k g q v n pa) : Reaches k g u v n pa := by
  unfold Reaches at *
  rw [h.trap]
  by_cases hon : (q.die (dieOf q.id)).ptEn = 0
  · rw [(h.exec_translateAt_off hans hon).1, hr]
  · obtain ⟨hva, t, hcached⟩ := cached_of_reaches hon hr
    have hdie : u.die (dieOf u.id) = q.die (dieOf q.id) := by rw [h.id, h.die]
    rw [exec_translateAt_cached (t := t) (by rw [hdie]; exact hon) hva (by rw [hdie]; exact hcached), (h.exec_reach hans _).1,
      ← exec_translateAt_cached hon hva hcached, hr]

end Sys2Proof.Machine
end

section
/-! One element read or written by the vector agent (serves O27 to O29). -/

namespace Sys2Proof.Machine

variable {q u t : State} {g : Agent} {v : Word} {w j x n z pa : Nat} {r : Nat × Nat} {c : Cause} {y : Word}

/-- A condition that traps, where what follows it comes out the same in two states and changes neither. -/
theorem exec_trapIf_same {α : Type} {p : Bool} {f f' : Unit → M α} (hf : (f ()).exec u = (((f' ()).exec q).1, u)) :
    (trapIf p c y >>= f).exec u = (((trapIf p c y >>= f').exec q).1, u) := by
  cases p with
  | false => exact hf
  | true => rfl

section

variable (h : Alike q u)

include h

/-- The checks of a scratchpad access come out the same. -/
theorem Alike.exec_spCheck (plain : Bool) : (spCheck v z plain).exec u = (((spCheck v z plain).exec q).1, u) := by
  have htarget : spTarget u v.toNat = spTarget q v.toNat := by unfold spTarget; rw [h.id]
  have hmoving (n : Nat) : (u.core n).moving = (q.core n).moving := by rw [h.core]
  have hsize (n : Nat) : spSize (u.core n) = spSize (q.core n) := by rw [h.core]; rfl
  have hfenced (n : Nat) : (u.core n).fenced = (q.core n).fenced := by rw [h.core]
  have hclaimed (n off : Nat) : claimedAt (u.core n) off z = claimedAt (q.core n) off z := by rw [h.core]; rfl
  unfold spCheck
  rw [exec_bind_ok (exec_get u), exec_bind_ok (exec_get q), htarget, h.id]
  refine exec_trapIf_same ?_
  dsimp only
  rw [hmoving, hsize, hfenced, hclaimed]
  split
  · rfl
  · exact exec_trapIf_same (exec_trapIf_same (by split <;> rfl))

theorem Alike.spWrite (hr : SpWrite q v z r) : SpWrite u v z r := ⟨hr.1, by rw [h.exec_spCheck, hr.2]⟩

theorem Alike.memWrite (hans : q.hart.unanswered = none) (hr : MemWrite q g v z pa) : MemWrite u g v z pa :=
  ⟨hr.1, h.reaches hans hr.2⟩

end

theorem elemBytes_eq (w : Nat) : w / 8 + (if w = 4 then 1 else 0) = elemBytes w := by
  unfold elemBytes
  split
  · next h => rw [h]
  · rfl

theorem elemBytes_of_ne (h : w ≠ 4) : elemBytes w = w / 8 := if_neg h

/-! ## Reading an element -/

/-- The half of its byte that a 4-bit element stands in (R74). -/
theorem elemPart_high (w j x : Nat) : (if w = 4 then if (j % 2 == 1) = true then x / 16 else x % 16 else x) = elemPart w j x := by
  unfold elemPart
  simp only [beq_iff_eq]

/-- The element is read as x, whatever flags and vector registers there are, and reading it changes nothing. -/
def Reads (q : State) (p : Space) (v : Word) (j w x : Nat) : Prop :=
  ∀ fl vec, (readElem p v (j % 2 == 1) w).exec (q.worked fl vec) = (.ok x, q.worked fl vec)

theorem reads_of_exec {p : Space} (h : ∀ fl vec, ((if p.sp then spRead v (elemBytes w) else vread p.agent v (elemBytes w)) : M Nat).exec
    (q.worked fl vec) = (.ok x, q.worked fl vec)) : Reads q p v j w (elemPart w j x) := fun fl vec => by
  unfold readElem
  rw [elemBytes_eq, exec_bind_ok (h fl vec), elemPart_high]
  rfl

theorem reads_memory (hfree : Unlocked q) (hans : q.hart.unanswered = none) (h : MemRead q g v (elemBytes w) pa) :
    Reads q ⟨false, g⟩ v j w (elemPart w j (q.memNat pa (elemBytes w))) :=
  reads_of_exec fun fl vec =>
    exec_vread g v (elemBytes w) pa _ h.1 ((alike_worked q fl vec).unlocked hfree) ((alike_worked q fl vec).reaches hans h.2.1) h.2.2

theorem reads_scratchpad (hfree : Unlocked q) (h : SpRead q v (elemBytes w) r) :
    Reads q scratch v j w (elemPart w j (q.spNat r.1 r.2 (elemBytes w))) :=
  reads_of_exec fun fl vec =>
    exec_spRead ((alike_worked q fl vec).unlocked hfree) ⟨(alike_worked q fl vec).spWrite h.1, h.2⟩

/-! ## Writing an element -/

/-- In every state that is alike to q the meaning stores something as `put` says, and leaves what accesses need, and the hart. -/
def StoresAs (q : State) (m : M Unit) (put : State → State) : Prop :=
  ∀ u, Alike q u → m.exec u = (.ok (), put u) ∧ Alike q (put u) ∧ (put u).hart = u.hart

theorem alike_putMem (h : Alike q u) : Alike q (putMem w j x pa u) := by
  unfold putMem
  split
  · exact h.trans (alike_putNat ..)
  · exact h.trans (alike_putNat ..)

theorem alike_putPad (h : Alike q u) : Alike q (putPad w j x r u) := by
  unfold putPad
  split
  · exact h.trans (alike_putSp ..)
  · exact h.trans (alike_putSp ..)

theorem putMem_hart (w j x pa : Nat) (u : State) : (putMem w j x pa u).hart = u.hart := by
  unfold putMem
  split <;> rfl

theorem putPad_hart (w j x : Nat) (r : Nat × Nat) (u : State) : (putPad w j x r u).hart = u.hart := by
  unfold putPad
  split <;> rfl

theorem exec_nibbleWrite (hfree : Unlocked u) (hans : u.hart.unanswered = none) (h : Reaches .store g u v 1 pa) :
    (nibbleWrite g v (j % 2 == 1) x).exec u = (.ok (), putMem 4 j x pa u) := by
  unfold nibbleWrite storeAt putMem
  rw [exec_bind_ok (exec_stallOn_free false v.toNat 1 true u hfree), exec_bind_ok (exec_privNow u), exec_bind_ok h,
    exec_bind_ok (exec_get u), exec_bind_ok (exec_get u), unanswered_none hans, if_neg Bool.false_ne_true, if_pos rfl]
  simp only [beq_iff_eq]
  rfl

theorem exec_spNibbleWrite (hfree : Unlocked u) (h : SpWrite u v 1 r) :
    (spNibbleWrite v (j % 2 == 1) x).exec u = (.ok (), putPad 4 j x r u) := by
  unfold spNibbleWrite putPad
  rw [exec_bind_ok h.2]
  dsimp only
  rw [exec_bind_ok (exec_stallOn_free true _ 1 true u hfree), if_pos rfl]
  simp only [beq_iff_eq]
  rfl

theorem exec_spWrite (hfree : Unlocked u) (h : SpWrite u v z r) : (spWrite v z x).exec u = (.ok (), u.putSp r.1 r.2 z x) := by
  unfold spWrite
  rw [exec_bind_ok (exec_trapIf_aligned h.1 u), exec_bind_ok h.2]
  dsimp only
  rw [exec_bind_ok (exec_stallOn_free true _ z true u hfree)]
  rfl

theorem stores_memory (hfree : Unlocked q) (hans : q.hart.unanswered = none) (h : MemWrite q g v (elemBytes w) pa) :
    StoresAs q (writeElem ⟨false, g⟩ v (j % 2 == 1) w x) (putMem w j x pa) := fun u hu => by
  have hans' : u.hart.unanswered = none := hu.unanswered.trans hans
  obtain ⟨halign, hreach⟩ := hu.memWrite hans h
  refine ⟨?_, alike_putMem hu, putMem_hart ..⟩
  unfold writeElem
  by_cases hw : w = 4
  · subst hw
    exact exec_nibbleWrite (hu.unlocked hfree) hans' hreach
  · rw [if_neg hw]
    rw [elemBytes_of_ne hw] at halign hreach
    unfold putMem
    rw [if_neg hw]
    exact exec_vwrite g v (w / 8) x pa u halign (hu.unlocked hfree) hans' hreach

theorem stores_scratchpad (hfree : Unlocked q) (h : SpWrite q v (elemBytes w) r) :
    StoresAs q (writeElem scratch v (j % 2 == 1) w x) (putPad w j x r) := fun u hu => by
  have hwrite := hu.spWrite h
  refine ⟨?_, alike_putPad hu, putPad_hart ..⟩
  unfold writeElem
  by_cases hw : w = 4
  · subst hw
    exact exec_spNibbleWrite (hu.unlocked hfree) hwrite
  · rw [if_neg hw]
    rw [elemBytes_of_ne hw] at hwrite
    unfold putPad
    rw [if_neg hw]
    exact exec_spWrite (hu.unlocked hfree) hwrite

/-! ## An element that faults -/

/-- The access is refused for the cause c with the value y, in every state that is alike to q, and changes nothing. -/
def Refused {α : Type} (q : State) (m : M α) (c : Cause) (y : Word) : Prop := ∀ u, Alike q u → m.exec u = (.error (.trap c y), u)

theorem Refused.bind {α β : Type} {m : M α} (h : Refused q m c y) (f : α → M β) : Refused q (m >>= f) c y := fun u hu =>
  exec_bind_error (h u hu)

section

variable (hfree : Unlocked q) (hans : q.hart.unanswered = none) (hoff : q.myDie.ptEn = 0)

include hfree hans hoff

omit hfree in
theorem refused_translateAt {k : Access} (h : (translateAt q.hart.trap.priv.toNat k g v z).exec q = (.error (.trap c v), q)) (hu : Alike q u) :
    (translateAt u.hart.trap.priv.toNat k g v z).exec u = (.error (.trap c v), u) := by
  rw [hu.trap, (hu.exec_translateAt_off hans hoff).1, h]

theorem refused_vread (h : ElementFaults .load g q v z c y) : Refused q (vread g v z) c y := fun u hu => by
  obtain ⟨rfl, ⟨halign, rfl⟩ | ⟨halign, htrans⟩⟩ := h
  · exact exec_bind_error (exec_trapIf_misaligned halign u)
  · unfold vread rdmem rdmemAt
    rw [exec_bind_ok (exec_trapIf_aligned halign u), exec_bind_ok (exec_stallOn_free false _ z false u (hu.unlocked hfree)),
      exec_bind_ok (exec_privNow u), exec_bind_error (refused_translateAt hans hoff htrans hu)]

theorem refused_vwrite (h : ElementFaults .store g q v z c y) : Refused q (vwrite g v z x) c y := fun u hu => by
  obtain ⟨rfl, ⟨halign, rfl⟩ | ⟨halign, htrans⟩⟩ := h
  · exact exec_bind_error (exec_trapIf_misaligned halign u)
  · unfold vwrite wrmem wrmemAt
    rw [exec_bind_ok (exec_trapIf_aligned halign u), exec_bind_ok (exec_stallOn_free false _ z true u (hu.unlocked hfree)),
      exec_bind_ok (exec_privNow u), exec_bind_error (refused_translateAt hans hoff htrans hu)]

theorem refused_nibbleWrite (h : ElementFaults .store g q v 1 c y) (high : Bool) : Refused q (nibbleWrite g v high x) c y := fun u hu => by
  obtain ⟨rfl, ⟨halign, rfl⟩ | ⟨halign, htrans⟩⟩ := h
  · exact absurd (Nat.mod_one _) halign
  · unfold nibbleWrite
    rw [exec_bind_ok (exec_stallOn_free false _ 1 true u (hu.unlocked hfree)), exec_bind_ok (exec_privNow u),
      exec_bind_error (refused_translateAt hans hoff htrans hu)]

theorem refused_readElem (h : ElementFaults .load g q v (elemBytes w) c y) : Refused q (readElem ⟨false, g⟩ v (j % 2 == 1) w) c y := by
  unfold readElem
  rw [elemBytes_eq]
  exact (refused_vread hfree hans hoff h).bind _

theorem refused_writeElem (h : ElementFaults .store g q v (elemBytes w) c y) :
    Refused q (writeElem ⟨false, g⟩ v (j % 2 == 1) w x) c y := by
  unfold writeElem
  by_cases hw : w = 4
  · subst hw
    exact refused_nibbleWrite hfree hans hoff h _
  · rw [if_neg hw]
    rw [elemBytes_of_ne hw] at h
    exact refused_vwrite hfree hans hoff h

end

theorem refused_spAccess {α : Type} {f : Unit → M α} (hf : ∀ u, Alike q u → (spCheck v z true).exec q = (.error (.trap c y), q) →
    (f ()).exec u = (.error (.trap c y), u)) (h : PadFaults q v z c y) : Refused q (trapIf (v.toNat % z != 0) .align v >>= f) c y := fun u hu => by
  obtain ⟨halign, rfl, rfl⟩ | ⟨halign, hcheck⟩ := h
  · exact exec_bind_error (exec_trapIf_misaligned halign u)
  · rw [exec_bind_ok (exec_trapIf_aligned halign u)]
    exact hf u hu hcheck

theorem refused_spCheck {α : Type} {f : Nat × Nat → M α} (h : (spCheck v z true).exec q = (.error (.trap c y), q)) (hu : Alike q u) :
    (spCheck v z true >>= f).exec u = (.error (.trap c y), u) := exec_bind_error (by rw [hu.exec_spCheck, h])

theorem refused_readPad (h : PadFaults q v (elemBytes w) c y) : Refused q (readElem scratch v (j % 2 == 1) w) c y := by
  unfold readElem
  rw [elemBytes_eq]
  exact (refused_spAccess (fun u hu hcheck => refused_spCheck hcheck hu) h).bind _

theorem refused_writePad (h : PadFaults q v (elemBytes w) c y) : Refused q (writeElem scratch v (j % 2 == 1) w x) c y := by
  unfold writeElem
  by_cases hw : w = 4
  · subst hw
    intro u hu
    obtain ⟨halign, -⟩ | ⟨-, hcheck⟩ := h
    · exact absurd (Nat.mod_one _) halign
    · exact refused_spCheck hcheck hu
  · rw [if_neg hw]
    rw [elemBytes_of_ne hw] at h
    exact refused_spAccess (fun u hu hcheck => refused_spCheck hcheck hu) h

end Sys2Proof.Machine
end

section
/-! A vector access that faults at an element: the entry is saved with the element it reached (serves O27 and O28). -/

namespace Sys2Proof.Machine

variable {s q u t p : State} {op : VOp} {wd lit : BitVec 32} {perform : Entry → M Unit} {e : Entry} {c : Cause} {v : Word} {k : Nat}

/-! ## Taking the trap of an entry that has begun -/

theorem putRecords_cores (base cap wr : Nat) (rs : List (List Byte)) (s : State) : (putRecords base cap wr rs s).cores = s.cores := by
  induction rs generalizing wr s with
  | nil => rfl
  | cons r rs ih => exact ih (wr + 1) _

theorem logEvent_cores (d source cls addr : Nat) (s : State) : ((logEvent d source cls addr).exec s).2.cores = s.cores := by
  unfold logEvent
  rw [exec_modify]
  dsimp only
  split
  · rfl
  · exact putRecords_cores ..

theorem enterHandler_cores (s : State) : (enterHandler.exec s).2.cores = s.cores := by
  have hfetched := fetched_formQueue (entering s)
  unfold enterHandler
  rw [exec_bind_ok (exec_modTrapRegs _ _), exec_bind_ok (exec_getHart _), exec_bind_ok (exec_modFetch _ _),
    exec_bind_ok (exec_attempt formQueue _)]
  change (Prod.snd (M.exec (match (formQueue.exec (entering s)).1 with
    | .ok _ => _ | .error (.trap _ _) => _ | .error _ => _) (formQueue.exec (entering s)).2)).cores = _
  rcases hform : formQueue.exec (entering s) with ⟨r, q⟩
  rw [hform] at hfetched
  have hcores : q.cores = s.cores := (congrArg State.cores hfetched.1 :)
  match r with
  | .ok () => exact hcores
  | .error (.trap c a) =>
    dsimp only
    rw [exec_bind_ok (exec_modHart _ q), exec_bind_ok (exec_get _), logEvent_cores]
    exact hcores
  | .error (.trapWord c) => exact hcores
  | .error .block => exact hcores
  | .error .stall => exact hcores

theorem takeTrap_cores (x : Bool) (h : saveQueue.exec s = (.ok none, u)) : (takeTrap x c v s).cores = u.cores := by
  unfold takeTrap trapEntry
  rw [exec_bind_ok h, exec_bind_ok (exec_modHart _ u)]
  exact enterHandler_cores _

/-- What the trap of a lone entry leaves (R45). -/
structure TrapSaved (s : State) (c : Cause) (v : Word) (e : Entry) (t : State) : Prop where
  entered : Entered true c v s t
  count : savedCount t = 1
  area : saveArea t = saveArea s
  cfg : t.hart.cfg = { s.hart.cfg with estart := if e.begun then e.cfg.estart else s.hart.cfg.estart }
  sys : t.hart.sys = s.hart.sys
  cores : t.cores = s.cores
  memory : t.hart.phase = .running → HoldsEntries t (saveArea s) [e] ∧
    ∀ a, a < saveArea s ∨ saveArea s + 64 ≤ a → t.byteAt a = s.byteAt a

theorem takeTrap_saves (hq : s.hart.vq = [e]) (ans : s.hart.unanswered = none) (room : PlainWords s (saveArea s) 8) :
    TrapSaved s c v e (takeTrap true c v s) := by
  have hlen : s.hart.vq.length = 1 := by rw [hq]; rfl
  obtain ⟨u, hsave, hrest, houtside, hholds⟩ := saveQueue_saves ans (by rw [hlen]; exact room)
  have hu : u.hart = emptiedHart s := by rw [hrest]
  have hfetched := takeTrap_fetched true c v hsave
  have hxvq := xvq_of_fetched hu hfetched
  have hone : s.hart.vq.length ≤ 32 := by rw [hlen]; decide
  rw [hlen] at houtside
  refine ⟨entered_of_fetched hu hfetched, (savedCount_of_xvq hone hxvq).trans hlen, saveArea_of_xvq hone hxvq, ?_, ?_, ?_, fun hrun => ?_⟩
  · have hcfg : (takeTrap true c v s).hart.cfg = u.hart.cfg := by rw [hfetched.hart]; rfl
    rw [hcfg, hu, emptiedHart, reachedStart_of_oldest hq]
  · have hsys : (takeTrap true c v s).hart.sys = u.hart.sys := by rw [hfetched.hart]; rfl
    rw [hsys, hu]
    rfl
  · rw [takeTrap_cores true hsave, hrest]
  · have hoff : u.myDie.ptEn = 0 := by rw [hrest]; exact room.1
    obtain ⟨-, -, -, -, hkept⟩ := hfetched.running hrun
    have hmem : (takeTrap true c v s).mem = u.mem := (hkept hoff).1
    refine ⟨holdsEntries_congr hmem (hq ▸ hholds), fun a ha => ?_⟩
    rw [← houtside a ha, State.byteAt, hmem, State.byteAt]

/-! ## An entry that stops at an element (R150) -/

/-- The entry resumes at element k (R44). -/
def Entry.resumedAt (e : Entry) (k : Nat) : Entry := { e with cfg := { e.cfg with estart := BitVec.ofNat 18 k } }

/-- The state in which the entry has stopped at element k. -/
def State.stoppedAt (s : State) (e : Entry) (k : Nat) : State := s.withQueue [e.resumedAt k]

theorem exec_setProgress_alone (hq : s.hart.vq = [e]) (k : Nat) : (setProgress k).exec s = (.ok (), s.stoppedAt e k) := by
  unfold setProgress
  rw [exec_modHart, hq]
  rfl

theorem exec_atElem_ok {m : M Unit} (h : m.exec s = (.ok (), t)) : (atElem k m).exec s = (.ok (), t) := by
  unfold atElem
  rw [exec_bind_ok (exec_attempt m s), h]
  rfl

theorem exec_atElem_trap {m : M Unit} (hq : s.hart.vq = [e]) (h : m.exec s = (.error (.trap c v), s)) :
    (atElem k m).exec s = (.error (.trap c v), s.stoppedAt e k) := by
  unfold atElem
  rw [exec_bind_ok (exec_attempt m s), h]
  dsimp only
  rw [exec_bind_ok (exec_setProgress_alone hq k)]
  rfl

theorem forFrom_error {f : Nat → M Unit} {n i : Nat} {x : Stop} (hk : k < n)
    (hbefore : (forFrom k i f).exec s = (.ok (), t)) (hstop : (f (i + k)).exec t = (.error x, u)) : (forFrom n i f).exec s = (.error x, u) := by
  induction n generalizing k i s with
  | zero => exact absurd hk (Nat.not_lt_zero k)
  | succ n ih =>
    rw [forFrom]
    cases k with
    | zero =>
      obtain rfl : s = t := congrArg Prod.snd hbefore
      exact exec_bind_error hstop
    | succ k =>
      rw [forFrom] at hbefore
      obtain ⟨y, p, hfirst, hrest⟩ := bind_eq_ok hbefore
      rw [exec_bind_ok hfirst]
      exact ih (Nat.lt_of_succ_lt_succ hk) hrest (by rwa [Nat.add_assoc, Nat.add_comm 1 k])

theorem exec_forN_error {f : Nat → M Unit} {n : Nat} {x : Stop} (hk : k < n) (hbefore : (forN k f).exec s = (.ok (), t))
    (hstop : (f k).exec t = (.error x, u)) : (forN n f).exec s = (.error x, u) :=
  forFrom_error hk hbefore (by rwa [Nat.zero_add])

/-- An entry that stops with a trap after it has begun is saved as it then stands, and its trap is taken with V set (R45). -/
theorem exec_executeHead_stopped {e' : Entry} (hq : q.hart.vq = [e]) (hu : u.hart.vq = [e'])
    (hp : (perform e).exec q = (.error (.trap c v), u)) : ((executeHead perform).exec q).2 = takeTrap true c v (begunState e' u) := by
  have hbegun : markBegun.exec { u with hart := { u.hart with vec := { u.hart.vec with strips := [], outs := [] } } } =
      (.ok (), begunState e' u) := by
    unfold markBegun begunState
    rw [exec_modHart]
    dsimp only
    rw [hu]
  have hstill : ([] : List Entry).length < u.hart.vq.length := by rw [hu]; exact Nat.one_pos
  unfold executeHead
  rw [exec_bind_ok (exec_getHart q), hq]
  dsimp only
  rw [exec_bind_ok (exec_attempt _ q), hp, dropStrips, exec_bind_ok (exec_modVec _ u)]
  dsimp only
  rw [exec_bind_ok (exec_getHart _)]
  dsimp only at hbegun ⊢
  rw [if_pos hstill, exec_bind_ok hbegun]
  rfl

/-- The words that save an entry do not tell whether it has begun (R47). -/
theorem holdsEntries_begun {a : Nat} {e : Entry} (h : HoldsEntries t a [{ e with begun := true }]) : HoldsEntries t a [e] := fun i e' hi j hj => by
  obtain ⟨rfl, rfl⟩ : i = 0 ∧ e = e' := by
    cases i with
    | zero => exact ⟨rfl, Option.some.inj hi⟩
    | succ i => cases hi
  exact h 0 _ rfl j hj

/-- What the hart holds besides its vector registers is as it was when the entry began. -/
structure Stays (q u : State) : Prop where
  alike : Alike q u
  hart : u.hart = { q.hart with vec := u.hart.vec }

theorem faultedAt_of_exec (hr : Ready s) (hd : Dispatches op s) (hc : op.check = fun _ => pure ()) (ha : op.atDispatch = fun e => pure e)
    (area : SaveAreaOk s) (he : entryOf s wd lit op.a op.b op.whole = e) (hstay : Stays (s.queued e) u)
    (hp : (perform e).exec (s.queued e) = (.error (.trap c v), u.stoppedAt e k)) :
    ∃ t, dispatchV wd lit op perform s = .next t ∧ FaultedAt s t u e k c v ∧ t.hart.vec = { u.hart.vec with strips := [], outs := [] } := by
  have hlen : (s.queued e).hart.vq = [e] := passed_vq _
  have hrun : dispatchV wd lit op perform s = .next (takeTrap true c v (begunState (e.resumedAt k) (u.stoppedAt e k))) := by
    unfold dispatchV
    rw [exec_dispatchEntry wd lit op s hd hc ha hr.empty, he, ← exec_executeHead_stopped hlen rfl hp]
    change (if _ then _ else _) = _
    refine if_pos ?_
    change (decide ((s.queued e).hart.vq.length = 1) && (op.serial || !(s.queued e).lag)) = true
    rw [hlen, show (s.queued e).lag = false from (passed_lag _).trans hr.prompt]
    exact Bool.or_true _
  generalize hw : begunState (e.resumedAt k) (u.stoppedAt e k) = w at hrun
  have htrap : w.hart.trap = s.hart.trap := by
    rw [← hw]
    exact hstay.alike.trap.trans (passed_trap _)
  have harea : saveArea w = saveArea s := by rw [saveArea, htrap, saveArea]
  have ans : w.hart.unanswered = none := by
    rw [← hw]
    exact hstay.alike.unanswered.trans (passed_answered (s := { s with hart := { s.hart with vq := _ } }) hr.answered)
  have hqueued : PlainWords (s.queued e) (saveArea s) 8 :=
    plainWords_passed (s := { s with hart := { s.hart with vq := [e] } }) (plainWords_congr rfl rfl rfl area)
  have hroom : PlainWords w (saveArea w) 8 := by
    rw [harea, ← hw]
    exact plainWords_congr hstay.alike.id hstay.alike.dies hstay.alike.pkgs hqueued
  obtain ⟨hentered, hcount, hsaved, hcfg, hsys, hcores, hmemory⟩ := takeTrap_saves (c := c) (v := v)
    (e := { e.resumedAt k with begun := true }) (by rw [← hw]; rfl) ans hroom
  obtain ⟨hxpc, -, -, -, -, -, -, hcause, hxval, -, -, -, -, -, -, -, -, -, -, hsregs, -, hvec, hempty⟩ := hentered
  have hhart := hstay.hart
  refine ⟨_, hrun, ⟨hcause, hxval, ?_, ?_, hempty, hcount, hsaved.trans harea, ?_, ?_, ?_, fun hgoes => ?_⟩, ?_⟩
  · rw [hxpc, ← hw]
    rfl
  · rw [hcfg, if_pos rfl, ← hw]
    change ({ u.hart.cfg with estart := _ } : VConf) = _
    rw [hhart]
    change ({ (s.queued e).hart.cfg with estart := _ } : VConf) = _
    rw [State.queued, passed_cfg]
    rfl
  · rw [hsregs, ← hw]
    change u.hart.sregs = _
    rw [hhart]
    exact passed_sregs _
  · rw [hsys, ← hw]
    change u.hart.sys = _
    rw [hhart]
    exact queued_sys s e
  · rw [hcores, ← hw]
    rfl
  · obtain ⟨hholds, houtside⟩ := hmemory hgoes
    rw [harea] at hholds houtside
    refine ⟨holdsEntries_begun hholds, fun y hy => (houtside y hy).trans ?_⟩
    rw [← hw]
    rfl
  · rw [hvec, ← hw]
    rfl

end Sys2Proof.Machine
end

section
/-! Vector loads, element by element (serves O27 and O29). -/

namespace Sys2Proof.Machine

variable {s q u t : State} {a b d : BitVec 7} {m : BitVec 1} {w N n k j x : Nat} {c : VConf} {e : Entry} {body : Nat → M Unit}
  {out : Nat → Option Nat} {cz : Cause} {y : Word} {act : Nat → Bool} {val : Nat → Nat} {md : Addressing} {p : Space} {wd : BitVec 32}
  {types : Nat → Bool} {cb : Cap}

/-! ## Positions that take a value or nothing -/

/-- The meaning puts a value at position j, or passes the position over, and raises no flag. -/
def PutsAt (c : VConf) (q : State) (n w j : Nat) (o : Option Nat) (m : M Unit) : Prop :=
  Acts q w (flatPos c n j) m fun act fl => act = actOf c c.est w o j ∧ fl = 0

theorem acts_atElem {i : Nat} {pos : Nat × Nat} {m : M Unit} {P : Act → Flags → Prop} (h : Acts q w pos m P) : Acts q w pos (atElem i m) P :=
  fun fl v hv => by
    obtain ⟨act, fl', g, hexec, hP⟩ := h fl v hv
    exact ⟨act, fl', g, exec_atElem_ok hexec, hP⟩

/-- An element that is read, and put at its position. -/
theorem putsAt_load {read : M Nat} (hfree : Free c q n c.rcN) (hj : j < c.count) {i : Nat}
    (hread : ∀ fl v, read.exec (q.worked fl v) = (.ok x, q.worked fl v)) :
    PutsAt c q n c.width j (some x) (atElem i do let x ← read; wr c n j x) :=
  acts_atElem fun fl v hv => by
    obtain ⟨act, fl', g, hexec, hP⟩ := acts_put hfree (w := c.width) hj (some x) (P := fun act fl => act = actOf c c.est c.width (some x) j ∧ fl = 0)
      ⟨rfl, rfl⟩ fl v hv
    exact ⟨act, fl', g, (exec_bind_ok (hread fl v)).trans hexec, hP⟩

theorem putsAt_value (hfree : Free c q n c.rcN) (hj : j < c.count) (x : Nat) : PutsAt c q n c.width j (some x) (wr c n j x) :=
  acts_put hfree (w := c.width) hj (some x) ⟨rfl, rfl⟩

theorem putsAt_masked (hfree : Free c q n c.rcN) (hj : j < c.count) : PutsAt c q n c.width j none (masked c n j) :=
  acts_put hfree (w := c.width) hj none ⟨rfl, rfl⟩

theorem exec_forN_puts (h : ∀ j < N, PutsAt c q n w j (out j) (body j)) : ∃ g, (forN N body).exec q =
    (.ok (), q.worked 0 { acted w (flatPos c n) (fun j => actOf c c.est w (out j) j) N q.hart.vec with gen := g }) := by
  obtain ⟨act, fls, g, hexec, hP⟩ := exec_forN_acts h 0 (v := q.hart.vec) rfl
  rw [worked_self, flagsOver_none fun j hj _ => (hP j hj).2, flags_or_zero, acted_congr fun j hj => (hP j hj).1] at hexec
  exact ⟨g, hexec⟩

theorem tileActs_of_puts (c : VConf) (w : Nat) (out : Nat → Option Nat) :
    TileActs c w True out 0 (fun j => actOf c c.est w (out j) j) 0 := ⟨out, fun _ _ => ⟨rfl, rfl⟩, fun _ => ⟨fun _ _ => rfl, rfl⟩⟩

/-! ## A load as a whole (R151) -/

theorem exec_loadWhole_ok {m : M Unit} (h : m.exec q = (.ok (), t)) : (loadWhole m).exec q = (.ok (), t) := by
  unfold loadWhole
  rw [exec_bind_ok (exec_get q), exec_bind_ok (exec_attempt m q), h]
  rfl

/-- What a load that traps at an element has loaded stays. -/
theorem exec_loadWhole_trap {m : M Unit} (h : m.exec q = (.error (.trap cz y), t)) : (loadWhole m).exec q = (.error (.trap cz y), t) := by
  unfold loadWhole
  rw [exec_bind_ok (exec_get q), exec_bind_ok (exec_attempt m q), h]
  rfl

theorem stays_worked (q : State) (v : VecRegs) : Stays q (q.worked 0 v) where
  alike := alike_worked q 0 v
  hart := by
    unfold State.worked
    dsimp only
    rw [flags_or_zero]

/-- A loop of positions that faults at position k has done the positions below it. -/
theorem exec_forN_puts_fault (hk : k < N) (hq : q.hart.vq = [e]) (h : ∀ j < k, PutsAt c q n w j (out j) (body j)) {m : M Unit}
    (hbody : body k = atElem k m) (hfault : Refused q m cz y) : ∃ g, (forN N body).exec q = (.error (.trap cz y),
      (q.worked 0 { acted w (flatPos c n) (fun j => actOf c c.est w (out j) j) k q.hart.vec with gen := g }).stoppedAt e k) := by
  obtain ⟨g, hexec⟩ := exec_forN_puts h
  refine ⟨g, exec_forN_error hk hexec ?_⟩
  rw [hbody]
  exact exec_atElem_trap hq (hfault _ (alike_worked ..))

/-- The positions below k of a tile took what `out` gives, and the others kept their values. -/
theorem loaded_below (hok : TilesOk s m [d] (.vs a)) (hk : k ≤ s.hart.cfg.count)
    (hvec : ∃ g, t.hart.vec = { acted s.hart.cfg.width (flatPos s.hart.cfg d.toNat)
      (fun j => actOf s.hart.cfg s.hart.cfg.est s.hart.cfg.width (out j) j) k s.hart.vec with gen := g, strips := [], outs := [] }) :
    OnlyRowsOf (tileRows s d s.hart.cfg.rcN) s t ∧ ∀ j < s.hart.cfg.count, t.hart.vec.elW s.hart.cfg d s.hart.cfg.width j =
      if k ≤ j then elemOf s d s.hart.cfg.width j else
        match out j with
        | some x => x % 2 ^ s.hart.cfg.width
        | none => if s.hart.cfg.maskmode = 1 ∧ s.hart.cfg.est ≤ j then 0 else elemOf s d s.hart.cfg.width j := by
  have hr := hok.ready
  have hw := elemWidth_widthOf s.hart.cfg.et
  have hplain : PlainTile s d := hok.plain d (List.mem_singleton.2 rfl)
  let below (j : Nat) : Act := if j < k then actOf s.hart.cfg s.hart.cfg.est s.hart.cfg.width (out j) j else .skip
  have hacted : ActedVec s.hart.cfg.width (flatPos s.hart.cfg d.toNat) below s.hart.cfg.count s t := by
    obtain ⟨g, hvec⟩ := hvec
    refine ⟨g, ?_⟩
    rw [acted_skip hk fun j hj _ => if_neg (Nat.not_lt.2 hj), hvec, acted_congr fun j hj => (if_pos hj).symm]
  have hcov := covers_flat s.hart.cfg d.toNat s.hart.cfg.rcN
  refine ⟨onlyRowsOf_covered hacted hr.soundRows hw hcov hok.vl fun r hr => tileRows_of_lt hr, fun j hj => ?_⟩
  refine (tileElem_acted hacted hr.soundRows hw hcov hok.vl (hplain.first hok.rc) hj).trans ?_
  by_cases hjk : j < k
  · rw [if_neg (Nat.not_le.2 hjk), show below j = _ from if_pos hjk, actOf_value]
    rfl
  · rw [if_pos (Nat.not_lt.1 hjk), show below j = _ from if_neg hjk]
    rfl

/-! ## The loads of R149 -/

/-- Element j of a load. -/
def loadElem (s : State) (e : Entry) (d : BitVec 7) (m : BitVec 1) (p : Space) (md : Addressing) (j : Nat) : M Unit :=
  if activeAt s m j then atElem j do
    let x ← readElem p (elemAddr s.hart.cfg e s.hart.vec md j) (j % 2 == 1) s.hart.cfg.width
    wr s.hart.cfg d.toNat j x
  else masked s.hart.cfg d.toNat j

theorem putsAt_loadElem (hplain : PlainTile s d) (hj : j < s.hart.cfg.count)
    (hread : activeAt s m j = true → Reads (s.queued e) p (elemAddr s.hart.cfg e s.hart.vec md j) j s.hart.cfg.width (val j)) :
    PutsAt s.hart.cfg (s.queued e) d.toNat s.hart.cfg.width j (if activeAt s m j then some (val j) else none) (loadElem s e d m p md j) := by
  unfold loadElem
  split
  · next hact => exact putsAt_load (hplain.free e) hj (hread hact)
  · exact putsAt_masked (hplain.free e) hj

/-- The work of a load before its elements: the rows are plain and apart (R128). -/
structure LoadOk (s : State) (m : BitVec 1) (d a : BitVec 7) (md : Addressing) : Prop where
  tiles : TilesOk s m [d] (.vs a)
  rows : ∀ b ∈ md.rows, PlainTile s b
  apart : (md.rows.any fun b => overlaps d.toNat s.hart.cfg.rcN b.toNat s.hart.cfg.rcN) = false

section

variable (hload : LoadOk s m d a md)

include hload

theorem plainOpnds_load (e : Entry) : ∀ o ∈ md.rows.map (Opnd.src s.hart.cfg) ++ [Opnd.dst s.hart.cfg d], PlainOpnd s.hart.cfg (s.queued e) o := by
  have hrc := hload.tiles.rc
  refine List.forall_mem_append.2 ⟨fun o ho => ?_,
    List.forall_mem_singleton.2 (PlainRows.opnd (hload.tiles.plain d (List.mem_singleton.2 rfl)) hrc e ..)⟩
  obtain ⟨n, hn, rfl⟩ := List.mem_map.1 ho
  exact PlainRows.opnd (hload.rows n hn) hrc e ..

theorem unbound_rows (e : Entry) : ∀ n ∈ md.rows, streamAt (s.queued e).hart.vec (s.hart.cfg.vwb.toNat + n.toNat) = none := fun n hn => by
  rw [queued_vec]
  exact (hload.rows n hn).first hload.tiles.rc

variable (hcfg : e.cfg = s.hart.cfg)

include hcfg

theorem exec_loadTile_ok (h : (forN s.hart.cfg.count (loadElem s e d m p md)).exec (s.queued e) = (.ok (), t)) :
    (loadTile d m p md e).exec (s.queued e) =
      (.ok (), { t with hart := { t.hart with vec := { t.hart.vec with strips := [], outs := [] } } }) := by
  unfold loadTile vrun
  dsimp only
  rw [hcfg, exec_bind_ok (exec_maskVl_of_maskOk hload.tiles.mask _)]
  refine exec_vrunN_ok (t := t) (plainOpnds_load hload e) (by rw [queued_vec]; exact hload.tiles.ready.soundRows) ?_
  rw [exec_bind_ok (exec_trapIf_false hload.apart _ _ _), exec_bind_ok (exec_sources_plain (unbound_rows hload e) m)]
  dsimp only
  rw [activeIn_eq_activeAt (queued_vec s e), queued_vec]
  exact exec_loadWhole_ok h

theorem exec_loadTile_trap (h : (forN s.hart.cfg.count (loadElem s e d m p md)).exec (s.queued e) = (.error (.trap cz y), t)) :
    (loadTile d m p md e).exec (s.queued e) = (.error (.trap cz y), t) := by
  unfold loadTile vrun
  dsimp only
  rw [hcfg, exec_bind_ok (exec_maskVl_of_maskOk hload.tiles.mask _)]
  refine exec_vrunN_error (plainOpnds_load hload e) (by rw [queued_vec]; exact hload.tiles.ready.soundRows) ?_
  rw [exec_bind_ok (exec_trapIf_false hload.apart _ _ _), exec_bind_ok (exec_sources_plain (unbound_rows hload e) m)]
  dsimp only
  rw [activeIn_eq_activeAt (queued_vec s e), queued_vec]
  exact exec_loadWhole_trap h

theorem works_loadTile (hreads : ∀ j, j < s.hart.cfg.count ∧ activeAt s m j = true →
      Reads (s.queued e) p (elemAddr s.hart.cfg e s.hart.vec md j) j s.hart.cfg.width (val j)) :
    Works s e s.hart.cfg.width (flatPos s.hart.cfg d.toNat) s.hart.cfg.count (loadTile d m p md e)
      (TileActs s.hart.cfg s.hart.cfg.width True (fun j => if activeAt s m j then some (val j) else none) 0) := by
  obtain ⟨g, hexec⟩ := exec_forN_puts fun j hj => putsAt_loadElem (p := p) (md := md) (val := val) (e := e)
    (hload.tiles.plain d (List.mem_singleton.2 rfl)) hj fun hact => hreads j ⟨hj, hact⟩
  rw [queued_vec] at hexec
  exact ⟨_, 0, g, exec_loadTile_ok hload hcfg hexec, tileActs_of_puts ..⟩

end

theorem loads_tile (hload : LoadOk s m d a md) (htypes : types s.hart.cfg.et = true) (hcb : CapOk s.hart cb)
    (hreads : ∀ j, j < s.hart.cfg.count ∧ activeAt s m j = true → Reads (s.queued (entryOf s wd 0 (.scalar a) cb)) p
      (elemAddr s.hart.cfg (entryOf s wd 0 (.scalar a) cb) s.hart.vec md j) j s.hart.cfg.width (val j)) :
    WroteTile s d s.hart.cfg.width (fun j => if activeAt s m j then some (val j) else none)
      (dispatchV wd 0 { etypes := types, a := .scalar a, b := cb } (loadTile d m p md) s) :=
  (wroteTileIf_of_acts hload.tiles.ready (elemWidth_widthOf _) (hload.tiles.plain d (List.mem_singleton.2 rfl)) hload.tiles.rc hload.tiles.vl
    (retires_of_works (op := { etypes := types, a := .scalar a, b := cb }) hload.tiles.ready
      (dispatches_of_etype hload.tiles.ready htypes hload.tiles.src hcb) rfl rfl
      (works_loadTile hload rfl hreads))).wroteTile trivial

/-- A load that faults at element k. -/
theorem load_faults (hload : LoadOk s m d a md) (htypes : types s.hart.cfg.et = true) (hcb : CapOk s.hart cb) (area : SaveAreaOk s)
    (hk : k < s.hart.cfg.count) (hact : activeAt s m k = true) (he : entryOf s wd 0 (.scalar a) cb = e)
    (hreads : ∀ j, j < k ∧ activeAt s m j = true →
      Reads (s.queued e) p (elemAddr s.hart.cfg e s.hart.vec md j) j s.hart.cfg.width (val j))
    (hfault : Refused (s.queued e) (readElem p (elemAddr s.hart.cfg e s.hart.vec md k) (k % 2 == 1) s.hart.cfg.width) cz y) :
    ∃ t, dispatchV wd 0 { etypes := types, a := .scalar a, b := cb } (loadTile d m p md) s = .next t ∧
      FaultedAt s t (s.queued e) e k cz y ∧ OnlyRowsOf (tileRows s d s.hart.cfg.rcN) s t ∧
      ∀ j < s.hart.cfg.count, t.hart.vec.elW s.hart.cfg d s.hart.cfg.width j =
        if k ≤ j then elemOf s d s.hart.cfg.width j else if activeAt s m j then val j % 2 ^ s.hart.cfg.width
        else if s.hart.cfg.maskmode = 1 ∧ s.hart.cfg.est ≤ j then 0 else elemOf s d s.hart.cfg.width j := by
  have hcfg : e.cfg = s.hart.cfg := by rw [← he]; rfl
  have hbody : loadElem s e d m p md k = atElem k (readElem p (elemAddr s.hart.cfg e s.hart.vec md k) (k % 2 == 1) s.hart.cfg.width >>=
      wr s.hart.cfg d.toNat k) := if_pos hact
  obtain ⟨g, hexec⟩ := exec_forN_puts_fault hk (queued_vq s e) (fun j hj => putsAt_loadElem (p := p) (md := md) (val := val) (e := e)
    (hload.tiles.plain d (List.mem_singleton.2 rfl)) (hj.trans hk) fun hact => hreads j ⟨hj, hact⟩) hbody (hfault.bind _)
  rw [queued_vec] at hexec
  obtain ⟨t, hnext, hfaulted, hvec⟩ := faultedAt_of_exec (op := { etypes := types, a := .scalar a, b := cb }) hload.tiles.ready
    (dispatches_of_etype hload.tiles.ready htypes hload.tiles.src hcb) rfl rfl area he (stays_worked ..) (exec_loadTile_trap hload hcfg hexec)
  obtain ⟨honly, helems⟩ := loaded_below hload.tiles hk.le ⟨g, hvec⟩
  refine ⟨t, hnext, hfaulted, honly, fun j hj => (helems j hj).trans (if_ctx_congr Iff.rfl (fun _ => rfl) fun _ => ?_)⟩
  cases activeAt s m j <;> rfl

end Sys2Proof.Machine
end

section
/-! Vector loads (settles O27). -/

namespace Sys2Proof.Machine

variable {s : State} {a b d : BitVec 7} {m : BitVec 1} {wd : BitVec 32} {cb : Cap} {j : Nat}

theorem width_ne_four (h : s.hart.cfg.et ≠ 10) : s.hart.cfg.width ≠ 4 := by
  unfold VConf.width widthOf
  rw [if_neg h]
  split
  · decide
  · split <;> decide

/-! ## Addresses (R148) -/

theorem elemAddr_unit (v : VecRegs) : elemAddr s.hart.cfg (entryOf s wd 0 (.scalar a) cb) v .unit j =
    scalarVal s.hart a + BitVec.ofNat 64 (if s.hart.cfg.width = 4 then j / 2 else elemBytes s.hart.cfg.width * j) := by
  have hbytes : (if s.hart.cfg.width = 4 then j / 2 else s.hart.cfg.width / 8 * j) =
      if s.hart.cfg.width = 4 then j / 2 else elemBytes s.hart.cfg.width * j :=
    if_ctx_congr Iff.rfl (fun _ => rfl) fun hw => by rw [elemBytes_of_ne hw]
  exact congrArg (fun n => scalarVal s.hart a + BitVec.ofNat 64 n) hbytes

theorem elemAddr_index (h : s.hart.cfg.et ≠ 10) : elemAddr s.hart.cfg (entryOf s wd 0 (.scalar a) cb) s.hart.vec (.index b) j =
    scalarVal s.hart a + BitVec.ofNat 64 (elemBytes s.hart.cfg.width * elemOf s b s.hart.cfg.width j) := by
  rw [elemBytes_of_ne (width_ne_four h)]
  rfl

theorem loadOk_unit (hok : TilesOk s m [d] (.vs a)) : LoadOk s m d a .unit := ⟨hok, fun _ h => absurd h List.not_mem_nil, rfl⟩

theorem loadOk_stride (hok : TilesOk s m [d] (.vs a)) : LoadOk s m d a .stride := ⟨hok, fun _ h => absurd h List.not_mem_nil, rfl⟩

theorem loadOk_index (hok : TilesOk s m [d] (.vs a)) (hb : PlainTile s b)
    (hapart : d.toNat + s.hart.cfg.rcN ≤ b.toNat ∨ b.toNat + s.hart.cfg.rcN ≤ d.toNat) : LoadOk s m d a (.index b) := by
  refine ⟨hok, List.forall_mem_singleton.2 hb, ?_⟩
  have hnone : overlaps d.toNat s.hart.cfg.rcN b.toNat s.hart.cfg.rcN = false := by
    unfold overlaps
    rw [Bool.and_eq_false_iff, decide_eq_false_iff_not, decide_eq_false_iff_not]
    omega
  exact List.any_eq_false.2 (List.forall_mem_singleton.2 (by rw [hnone]; exact Bool.false_ne_true))

theorem not4bit_ok (het : s.hart.cfg.et < 12) (h : s.hart.cfg.et ≠ 10) : not4bit s.hart.cfg.et = true := by
  unfold not4bit
  rw [Bool.and_eq_true, decide_eq_true_iff, bne_iff_ne]
  exact ⟨het, h⟩

theorem queued_answered (hr : Ready s) (e : Entry) : (s.queued e).hart.unanswered = none :=
  passed_answered (s := { s with hart := { s.hart with vq := [e] } }) hr.answered

/-- Where the destination overlaps the index tile nothing is loaded (R128). -/
theorem vldx_overlap (hok : TilesOk s m [d] (.vs a)) (het : s.hart.cfg.et < 12) (h10 : s.hart.cfg.et ≠ 10) (hb : PlainTile s b)
    (h : d.toNat < b.toNat + s.hart.cfg.rcN) (h' : b.toNat < d.toNat + s.hart.cfg.rcN) (area : SaveAreaOk s) :
    ∃ t, exec (.vldx d a b m) s = .next t ∧ t.hart.trap.cause = 1#1 ++ Cause.matf.code ∧ t.hart.trap.xval = d.zeroExtend 64 ∧
      t.hart.vec.rows = s.hart.vec.rows := by
  have hd : PlainTile s d := hok.plain d (List.mem_singleton.2 rfl)
  have hover : (([b] : List (BitVec 7)).any fun b => overlaps d.toNat s.hart.cfg.rcN b.toNat s.hart.cfg.rcN) = true := by
    unfold overlaps
    rw [List.any_cons, decide_eq_true h, decide_eq_true h']
    rfl
  obtain ⟨t, hnext, hcause, hxval, hrows, -⟩ := dispatchV_traps (op := { etypes := not4bit, a := .scalar a }) (w := (encVldx d a b m).toWord)
    (lit := 0) (perform := performVldx d b m) (c := .matf) (v := d.zeroExtend 64) hok.ready
    (dispatches_of_etype hok.ready (not4bit_ok het h10) hok.src trivial) rfl rfl area (by
      refine (exec_bind_ok (exec_maskVl_of_maskOk hok.mask _)).trans ?_
      refine exec_vrunN_error (q := s.queued _) (List.forall_mem_cons.2 ⟨hb.opnd hok.rc _ .., List.forall_mem_singleton.2 (hd.opnd hok.rc _ ..)⟩)
        (by rw [queued_vec]; exact hok.ready.soundRows) ?_
      refine exec_bind_error ?_
      rw [exec_trapIf]
      exact if_pos hover)
  exact ⟨t, hnext, hcause, hxval, hrows⟩

theorem vectorLoads : Sys2Proof.Claim.VectorLoads := by
  intro d a b m s hok het c w z A B unit stride index act q mem pad
  have hr := hok.ready
  have h11 : upTo11 s.hart.cfg.et = true := decide_eq_true het
  refine ⟨fun P hfree hP => ?_, fun P hfree hP => ?_, fun h10 hb P hfree hP => ?_, fun h10 hb hapart => ⟨fun P hfree hP => ?_, fun P hfree hP => ?_⟩,
    fun h10 hb h h' area => vldx_overlap hok het h10 hb h h' area⟩
  · exact loads_tile (loadOk_unit hok) h11 trivial fun j hj => by
      rw [elemAddr_unit]
      exact reads_memory hfree (queued_answered hr _) (hP j hj)
  · exact loads_tile (loadOk_unit hok) h11 trivial fun j hj => by
      rw [elemAddr_unit]
      exact reads_scratchpad hfree (hP j hj)
  · exact loads_tile (loadOk_stride hok) (not4bit_ok het h10) hb fun j hj => reads_memory hfree (queued_answered hr _) (hP j hj)
  · exact loads_tile (loadOk_index hok hb hapart) (not4bit_ok het h10) trivial fun j hj => by
      rw [elemAddr_index h10]
      exact reads_memory hfree (queued_answered hr _) (hP j hj)
  · exact loads_tile (loadOk_index hok hb hapart) (not4bit_ok het h10) trivial fun j hj => by
      rw [elemAddr_index h10]
      exact reads_scratchpad hfree (hP j hj)

theorem queued_off (area : SaveAreaOk s) (e : Entry) : (s.queued e).myDie.ptEn = 0 :=
  (plainWords_passed (s := { s with hart := { s.hart with vq := [e] } }) (plainWords_congr rfl rfl rfl area : PlainWords _ (saveArea s) 8)).1

theorem vectorLoadFaults : Sys2Proof.Claim.VectorLoadFaults := by
  intro d a b m k cz x s hok het area _ hk hact c w z A B unit stride index act loaded mem pad
  have hr := hok.ready
  have h11 : upTo11 s.hart.cfg.et = true := decide_eq_true het
  refine ⟨fun P hfree hP hfault => ?_, fun P hfree hP hfault => ?_, fun h10 hb P hfree hP hfault => ?_,
    fun h10 hb hapart => ⟨fun P hfree hP hfault => ?_, fun P hfree hP hfault => ?_⟩⟩
  · exact load_faults (loadOk_unit hok) h11 trivial area hk hact rfl (fun j hj => by
      rw [elemAddr_unit]
      exact reads_memory hfree (queued_answered hr _) (hP j hj)) (by
      rw [elemAddr_unit]
      exact refused_readElem hfree (queued_answered hr _) (queued_off area _) hfault)
  · exact load_faults (loadOk_unit hok) h11 trivial area hk hact rfl (fun j hj => by
      rw [elemAddr_unit]
      exact reads_scratchpad hfree (hP j hj)) (by
      rw [elemAddr_unit]
      exact refused_readPad hfault)
  · exact load_faults (loadOk_stride hok) (not4bit_ok het h10) hb area hk hact rfl
      (fun j hj => reads_memory hfree (queued_answered hr _) (hP j hj))
      (refused_readElem hfree (queued_answered hr _) (queued_off area _) hfault)
  · exact load_faults (loadOk_index hok hb hapart) (not4bit_ok het h10) trivial area hk hact rfl (fun j hj => by
      rw [elemAddr_index h10]
      exact reads_memory hfree (queued_answered hr _) (hP j hj)) (by
      rw [elemAddr_index h10]
      exact refused_readElem hfree (queued_answered hr _) (queued_off area _) hfault)
  · exact load_faults (loadOk_index hok hb hapart) (not4bit_ok het h10) trivial area hk hact rfl (fun j hj => by
      rw [elemAddr_index h10]
      exact reads_scratchpad hfree (hP j hj)) (by
      rw [elemAddr_index h10]
      exact refused_readPad hfault)

/-- Settles O27: the elements of a load as positions that take a value, up to the end or up to the element that faults. -/
theorem vectorLoadResults : Obligations.VectorLoadResults := ⟨vectorLoads, vectorLoadFaults⟩

end Sys2Proof.Machine
end

section
/-! Vector stores (settles O28). -/

namespace Sys2Proof.Machine

variable {s q u t : State} {a b d : BitVec 7} {m : BitVec 1} {N k : Nat} {e : Entry} {cz : Cause} {y : Word} {md : Addressing} {p : Space}
  {wd : BitVec 32} {types : Nat → Bool} {cb : Cap} {act : Nat → Bool} {put : Nat → State → State} {body : Nat → M Unit}

/-! ## Elements stored one after the other -/

theorem storedElems_succ (n : Nat) (act : Nat → Bool) (put : Nat → State → State) (q : State) : storedElems (n + 1) act put q =
    if act n then put n (storedElems n act put q) else storedElems n act put q := by
  unfold storedElems
  rw [List.range_succ, List.foldl_append]
  rfl

theorem exec_forN_stores (hskip : ∀ j < N, act j = false → body j = pure ())
    (h : ∀ j < N, act j = true → ∃ m i, body j = atElem i m ∧ StoresAs q m (put j)) :
    (forN N body).exec q = (.ok (), storedElems N act put q) ∧ Alike q (storedElems N act put q) ∧
      (storedElems N act put q).hart = q.hart := by
  induction N with
  | zero => exact ⟨rfl, .refl q, rfl⟩
  | succ n ih =>
    obtain ⟨hexec, halike, hhart⟩ := ih (fun j hj => hskip j (Nat.lt_succ_of_lt hj)) fun j hj => h j (Nat.lt_succ_of_lt hj)
    rw [exec_forN_succ hexec, storedElems_succ]
    cases hn : act n with
    | false =>
      rw [hskip n n.lt_succ_self hn, if_neg Bool.false_ne_true]
      exact ⟨rfl, halike, hhart⟩
    | true =>
      obtain ⟨m, i, hbody, hstores⟩ := h n n.lt_succ_self hn
      obtain ⟨hdone, hstill, hsame⟩ := hstores _ halike
      rw [hbody, if_pos rfl, exec_atElem_ok hdone]
      exact ⟨rfl, hstill, hsame.trans hhart⟩

/-- A store leaves every byte that none of its elements reaches. -/
theorem byteAt_storedElems {w : Nat} {P x : Nat → Nat} {i : Nat} (N : Nat) (h : ∀ j, j < N ∧ act j = true → i < P j ∨ P j + elemBytes w ≤ i) :
    (storedElems N act (fun j => putMem w j (x j) (P j)) u).byteAt i = u.byteAt i := by
  induction N with
  | zero => rfl
  | succ n ih =>
    have hbelow := ih fun j hj => h j ⟨Nat.lt_succ_of_lt hj.1, hj.2⟩
    rw [storedElems_succ]
    split
    · next hn =>
      have hout := h n ⟨n.lt_succ_self, hn⟩
      refine Eq.trans ?_ hbelow
      unfold putMem
      split
      · next hw => exact byteAt_putBytes_other _ _ _ (by rw [length_leBytes]; rwa [show elemBytes w = 1 from if_pos hw] at hout)
      · next hw => exact byteAt_putBytes_other _ _ _ (by rw [length_leBytes]; rwa [elemBytes_of_ne hw] at hout)
    · exact hbelow

/-! ## The stores of R149 -/

/-- Element j of a store. -/
def storeElem (s : State) (e : Entry) (d : BitVec 7) (m : BitVec 1) (p : Space) (md : Addressing) (j : Nat) : M Unit :=
  if activeAt s m j then
    atElem j (writeElem p (elemAddr s.hart.cfg e s.hart.vec md j) (j % 2 == 1) s.hart.cfg.width (elemOf s d s.hart.cfg.width j))
  else pure ()

/-- The state in which an entry has ended: one that ended well has dropped its strips. -/
def State.endedWith (s : State) : Except Stop Unit → State
  | .ok _ => { s with hart := { s.hart with vec := { s.hart.vec with strips := [], outs := [] } } }
  | .error _ => s

/-- The work of a store before its elements: the rows are plain. -/
structure StoreOk (s : State) (m : BitVec 1) (d a : BitVec 7) (md : Addressing) : Prop where
  tiles : TilesOk s m [d] (.vs a)
  rows : ∀ b ∈ md.rows, PlainTile s b

section

variable (hstore : StoreOk s m d a md)

include hstore

theorem StoreOk.plain : ∀ n ∈ d :: md.rows, PlainTile s n :=
  List.forall_mem_cons.2 ⟨hstore.tiles.plain d (List.mem_singleton.2 rfl), hstore.rows⟩

theorem plainOpnds_store (e : Entry) : ∀ o ∈ Opnd.src s.hart.cfg d :: md.rows.map (Opnd.src s.hart.cfg), PlainOpnd s.hart.cfg (s.queued e) o := by
  rw [← List.map_cons (f := Opnd.src s.hart.cfg)]
  intro o ho
  obtain ⟨n, hn, rfl⟩ := List.mem_map.1 ho
  exact PlainRows.opnd (hstore.plain n hn) hstore.tiles.rc e ..

variable (hcfg : e.cfg = s.hart.cfg)

include hcfg

/-- What a store does is what its elements do: before them nothing but checks, and after them the strips are dropped. -/
theorem exec_storeTile {r : Except Stop Unit} (h : (forN s.hart.cfg.count (storeElem s e d m p md)).exec (s.queued e) = (r, t)) :
    (storeTile d m p md e).exec (s.queued e) = (r, t.endedWith r) := by
  have hbad : (s.queued e).hart.vec.badRows = [] := by rw [queued_vec]; exact hstore.tiles.ready.soundRows
  have hbody : (do
      let (v, act) ← sources s.hart.cfg m (d :: md.rows)
      forN s.hart.cfg.count fun j =>
        if act j then atElem j (writeElem p (elemAddr s.hart.cfg e v md j) (j % 2 == 1) s.hart.cfg.width (v.el s.hart.cfg d j))
        else pure () : M Unit).exec (s.queued e) = (r, t) := by
    rw [exec_bind_ok (exec_sources_plain (fun n hn => by rw [queued_vec]; exact (hstore.plain n hn).first hstore.tiles.rc) m)]
    dsimp only
    rw [activeIn_eq_activeAt (queued_vec s e), queued_vec]
    exact h
  unfold storeTile vrun
  dsimp only
  rw [hcfg, exec_bind_ok (exec_maskVl_of_maskOk hstore.tiles.mask _)]
  cases r with
  | ok x => exact exec_vrunN_ok (plainOpnds_store hstore e) hbad hbody
  | error x => exact exec_vrunN_error (plainOpnds_store hstore e) hbad hbody

end

theorem stores_tile (hstore : StoreOk s m d a md) (htypes : types s.hart.cfg.et = true) (hcb : CapOk s.hart cb)
    (he : entryOf s wd 0 (.scalar a) cb = e)
    (hstores : ∀ j, j < s.hart.cfg.count ∧ activeAt s m j = true → StoresAs (s.queued e)
      (writeElem p (elemAddr s.hart.cfg e s.hart.vec md j) (j % 2 == 1) s.hart.cfg.width (elemOf s d s.hart.cfg.width j)) (put j)) :
    dispatchV wd 0 { etypes := types, a := .scalar a, b := cb } (storeTile d m p md) s =
      .next (storedElems s.hart.cfg.count (activeAt s m) put (s.queued e)).retired := by
  have hcfg : e.cfg = s.hart.cfg := by rw [← he]; rfl
  obtain ⟨hexec, -⟩ := exec_forN_stores (body := storeElem s e d m p md) (act := activeAt s m)
    (fun j _ hact => if_neg (by rw [hact]; exact Bool.false_ne_true)) fun j hj hact => ⟨_, j, if_pos hact, hstores j ⟨hj, hact⟩⟩
  exact dispatchV_done wd 0 { etypes := types, a := .scalar a, b := cb } (storeTile d m p md) hstore.tiles.ready
    (dispatches_of_etype hstore.tiles.ready htypes hstore.tiles.src hcb) rfl rfl
    (u := (storedElems s.hart.cfg.count (activeAt s m) put (s.queued e)).endedWith (.ok ()))
    (by rw [he]; exact exec_storeTile hstore hcfg hexec)

/-- A store that faults at element k. -/
theorem store_faults (hstore : StoreOk s m d a md) (htypes : types s.hart.cfg.et = true) (hcb : CapOk s.hart cb) (area : SaveAreaOk s)
    (hk : k < s.hart.cfg.count) (hact : activeAt s m k = true) (he : entryOf s wd 0 (.scalar a) cb = e)
    (hstores : ∀ j, j < k ∧ activeAt s m j = true → StoresAs (s.queued e)
      (writeElem p (elemAddr s.hart.cfg e s.hart.vec md j) (j % 2 == 1) s.hart.cfg.width (elemOf s d s.hart.cfg.width j)) (put j))
    (hfault : Refused (s.queued e) (writeElem p (elemAddr s.hart.cfg e s.hart.vec md k) (k % 2 == 1) s.hart.cfg.width
      (elemOf s d s.hart.cfg.width k)) cz y) :
    ∃ t, dispatchV wd 0 { etypes := types, a := .scalar a, b := cb } (storeTile d m p md) s = .next t ∧
      t.hart.vec = { s.hart.vec with strips := [], outs := [] } ∧
      FaultedAt s t (storedElems k (activeAt s m) put (s.queued e)) e k cz y := by
  have hcfg : e.cfg = s.hart.cfg := by rw [← he]; rfl
  obtain ⟨hexec, halike, hhart⟩ := exec_forN_stores (body := storeElem s e d m p md) (act := activeAt s m)
    (fun j _ hact => if_neg (by rw [hact]; exact Bool.false_ne_true)) fun j hj hact => ⟨_, j, if_pos hact, hstores j ⟨hj, hact⟩⟩
  have hqueue : (storedElems k (activeAt s m) put (s.queued e)).hart.vq = [e] := by rw [hhart]; exact queued_vq s e
  have hstop : (storeElem s e d m p md k).exec (storedElems k (activeAt s m) put (s.queued e)) = (.error (.trap cz y),
      (storedElems k (activeAt s m) put (s.queued e)).stoppedAt e k) := by
    unfold storeElem
    rw [if_pos hact]
    exact exec_atElem_trap hqueue (hfault _ halike)
  obtain ⟨t, hnext, hfaulted, hvec⟩ := faultedAt_of_exec (op := { etypes := types, a := .scalar a, b := cb }) hstore.tiles.ready
    (dispatches_of_etype hstore.tiles.ready htypes hstore.tiles.src hcb) rfl rfl area he ⟨halike, by rw [hhart]⟩
    (exec_storeTile hstore hcfg (exec_forN_error hk hexec hstop))
  refine ⟨t, hnext, ?_, hfaulted⟩
  rw [hvec, hhart, queued_vec]

theorem storeOk_unit (hok : TilesOk s m [d] (.vs a)) : StoreOk s m d a .unit := ⟨hok, fun _ h => absurd h List.not_mem_nil⟩

theorem storeOk_stride (hok : TilesOk s m [d] (.vs a)) : StoreOk s m d a .stride := ⟨hok, fun _ h => absurd h List.not_mem_nil⟩

theorem storeOk_index (hok : TilesOk s m [d] (.vs a)) (hb : PlainTile s b) : StoreOk s m d a (.index b) :=
  ⟨hok, List.forall_mem_singleton.2 hb⟩

theorem vectorStores : Sys2Proof.Claim.VectorStores := by
  intro d a b m s hok het c w z A B unit stride index act q mem pad
  have hr := hok.ready
  have h11 : upTo11 s.hart.cfg.et = true := decide_eq_true het
  refine ⟨fun P hfree hP => ?_, fun P hfree hP => ?_, fun h10 hb P hfree hP => ?_, fun h10 hb => ⟨fun P hfree hP => ?_, fun P hfree hP => ?_⟩,
    fun P u x h => byteAt_storedElems s.hart.cfg.count h⟩
  · exact stores_tile (storeOk_unit hok) h11 trivial rfl fun j hj => by
      rw [elemAddr_unit]
      exact stores_memory hfree (queued_answered hr _) (hP j hj)
  · exact stores_tile (storeOk_unit hok) h11 trivial rfl fun j hj => by
      rw [elemAddr_unit]
      exact stores_scratchpad hfree (hP j hj)
  · exact stores_tile (storeOk_stride hok) (not4bit_ok het h10) hb rfl fun j hj => stores_memory hfree (queued_answered hr _) (hP j hj)
  · exact stores_tile (storeOk_index hok hb) (not4bit_ok het h10) trivial rfl fun j hj => by
      rw [elemAddr_index h10]
      exact stores_memory hfree (queued_answered hr _) (hP j hj)
  · exact stores_tile (storeOk_index hok hb) (not4bit_ok het h10) trivial rfl fun j hj => by
      rw [elemAddr_index h10]
      exact stores_scratchpad hfree (hP j hj)

theorem vectorStoreFaults : Sys2Proof.Claim.VectorStoreFaults := by
  intro d a b m k cz x s hok het area _ hk hact c w z A B unit stride index act kept mem pad
  have hr := hok.ready
  have h11 : upTo11 s.hart.cfg.et = true := decide_eq_true het
  refine ⟨fun P hfree hP hfault => ?_, fun P hfree hP hfault => ?_, fun h10 hb P hfree hP hfault => ?_,
    fun h10 hb => ⟨fun P hfree hP hfault => ?_, fun P hfree hP hfault => ?_⟩⟩
  · exact store_faults (storeOk_unit hok) h11 trivial area hk hact rfl (fun j hj => by
      rw [elemAddr_unit]
      exact stores_memory hfree (queued_answered hr _) (hP j hj)) (by
      rw [elemAddr_unit]
      exact refused_writeElem hfree (queued_answered hr _) (queued_off area _) hfault)
  · exact store_faults (storeOk_unit hok) h11 trivial area hk hact rfl (fun j hj => by
      rw [elemAddr_unit]
      exact stores_scratchpad hfree (hP j hj)) (by
      rw [elemAddr_unit]
      exact refused_writePad hfault)
  · exact store_faults (storeOk_stride hok) (not4bit_ok het h10) hb area hk hact rfl
      (fun j hj => stores_memory hfree (queued_answered hr _) (hP j hj))
      (refused_writeElem hfree (queued_answered hr _) (queued_off area _) hfault)
  · exact store_faults (storeOk_index hok hb) (not4bit_ok het h10) trivial area hk hact rfl (fun j hj => by
      rw [elemAddr_index h10]
      exact stores_memory hfree (queued_answered hr _) (hP j hj)) (by
      rw [elemAddr_index h10]
      exact refused_writeElem hfree (queued_answered hr _) (queued_off area _) hfault)
  · exact store_faults (storeOk_index hok hb) (not4bit_ok het h10) trivial area hk hact rfl (fun j hj => by
      rw [elemAddr_index h10]
      exact stores_scratchpad hfree (hP j hj)) (by
      rw [elemAddr_index h10]
      exact refused_writePad hfault)

/-- Settles O28: the elements of a store one after the other, up to the end or up to the element that faults. -/
theorem vectorStoreResults : Obligations.VectorStoreResults := ⟨vectorStores, vectorStoreFaults⟩

end Sys2Proof.Machine
end

section
/-! Access by shape record, and predicates in memory (settles O29). -/

namespace Sys2Proof.Machine

variable {s q u t : State} {a d p : BitVec 7} {m : BitVec 1} {e : Entry} {r : List (BitVec 32)} {j x et : Nat} {val : Nat → Nat}
  {put : Nat → State → State}

/-! ## Records (R153) -/

/-- A record that is accepted for a type is of that type, which is not the 4-bit one. -/
theorem recType_of_ok (h : recBad (some et) r = none) : recType r = et ∧ et ≠ 10 := by
  unfold recBad recFault at h
  dsimp only at h
  by_cases hbad : (recType r == 10 || recType r != et) = true
  · rw [hbad, Bool.true_or] at h
    simp at h
  · rw [Bool.or_eq_true, beq_iff_eq, bne_iff_ne, not_or, not_not] at hbad
    exact ⟨hbad.2, hbad.2 ▸ hbad.1⟩

theorem exec_checkRecord_ok (h : recBad (some et) r = none) : (checkRecord (some et) r).exec q = (.ok (), q) := by
  unfold checkRecord recordFault
  rw [h]
  rfl

theorem exec_rowRecord (ha : PlainRows s a.toNat 1) (e : Entry) :
    (rowRecord s.hart.cfg a).exec (s.queued e) = (.ok (rowRecordOf s a), s.queued e) := by
  have hrow (i : Nat) : tileElem (s.queued e).hart.vec s.hart.cfg.vwb.toNat a.toNat 0 i 32 =
      leNat (sparseGetList 0 s.hart.vec.rows (rowKey (s.hart.cfg.vwb.toNat + a.toNat) (4 * i)) 4) := by
    rw [queued_vec, tileElem_unbound (ha.first le_rfl), rowBits, if_neg (by decide), Nat.mul_comm 4 i]
    rfl
  unfold rowRecord rowRecordOf
  rw [exec_bind_ok (exec_getHart _)]
  simp only [hrow]
  rfl

section

variable (hw : widthOf (recType r) ≠ 4)

include hw

/-- An element of a record's tensor is read as one of its space. -/
theorem recRead_eq (high : Bool) : recRead r j = readElem ⟨recScratch r, .other⟩ (recAddr r j) high (widthOf (recType r)) := by
  unfold recRead readElem spaceRead
  simp only [if_neg hw]
  rfl

theorem recWrite_eq (high : Bool) : recWrite r j x = writeElem ⟨recScratch r, .other⟩ (recAddr r j) high (widthOf (recType r)) x := by
  unfold recWrite writeElem spaceWrite
  simp only [if_neg hw]

end

theorem elemPart_whole {w : Nat} (h : w ≠ 4) (j x : Nat) : elemPart w j x = x := if_neg h

/-- A row and a tile that lie apart. -/
theorem overlaps_one (h : d.toNat + s.hart.cfg.rcN ≤ a.toNat ∨ a.toNat < d.toNat) : overlaps d.toNat s.hart.cfg.rcN a.toNat 1 = false := by
  unfold overlaps
  rw [Bool.and_eq_false_iff, decide_eq_false_iff_not, decide_eq_false_iff_not]
  omega

/-! ## VLDT (R153) -/

/-- What VLDT gives position j: the element at its address, the padding past the end, or nothing. -/
def tensorOut (s : State) (m : BitVec 1) (r : List (BitVec 32)) (val : Nat → Nat) (j : Nat) : Option Nat :=
  if activeAt s m j then if j < recN r then some (val j) else if recPad r then some (recW r 12) else none else none

/-- Element j of VLDT. -/
def tensorLoad (s : State) (d : BitVec 7) (m : BitVec 1) (r : List (BitVec 32)) (j : Nat) : M Unit :=
  if activeAt s m j && j < recN r then atElem j do
    let x ← recRead r j
    wr s.hart.cfg d.toNat j x
  else if activeAt s m j && recPad r then wr s.hart.cfg d.toNat j (recW r 12)
  else masked s.hart.cfg d.toNat j

theorem putsAt_tensorLoad (hplain : PlainTile s d) (hj : j < s.hart.cfg.count) (hread : activeAt s m j = true → j < recN r →
      ∀ fl v, (recRead r j).exec ((s.queued e).worked fl v) = (.ok (val j), (s.queued e).worked fl v)) :
    PutsAt s.hart.cfg (s.queued e) d.toNat s.hart.cfg.width j (tensorOut s m r val j) (tensorLoad s d m r j) := by
  unfold tensorOut tensorLoad
  cases hact : activeAt s m j with
  | false => exact putsAt_masked (hplain.free e) hj
  | true =>
    rw [Bool.true_and, Bool.true_and, if_pos rfl]
    by_cases hin : j < recN r
    · rw [if_pos hin, if_pos (decide_eq_true hin)]
      exact putsAt_load (hplain.free e) hj (hread hact hin)
    · rw [if_neg hin, if_neg (show ¬decide (j < recN r) = true from mt of_decide_eq_true hin)]
      split
      · exact putsAt_value (hplain.free e) hj _
      · exact putsAt_masked (hplain.free e) hj

section

variable (hok : TilesOk s m [d] (.vv d)) (ha : PlainRows s a.toNat 1) (hrec : recBad (some s.hart.cfg.et) (rowRecordOf s a) = none)

include hok ha hrec

theorem works_performVldt (hapart : d.toNat + s.hart.cfg.rcN ≤ a.toNat ∨ a.toNat < d.toNat) (hcfg : e.cfg = s.hart.cfg)
    (hreads : ∀ j, j < s.hart.cfg.count ∧ activeAt s m j = true ∧ j < recN (rowRecordOf s a) →
      ∀ fl v, (recRead (rowRecordOf s a) j).exec ((s.queued e).worked fl v) = (.ok (val j), (s.queued e).worked fl v)) :
    Works s e s.hart.cfg.width (flatPos s.hart.cfg d.toNat) s.hart.cfg.count (performVldt d a m e)
      (TileActs s.hart.cfg s.hart.cfg.width True (tensorOut s m (rowRecordOf s a) val) 0) := by
  have hplain : PlainTile s d := hok.plain d (List.mem_singleton.2 rfl)
  obtain ⟨g, hexec⟩ := exec_forN_puts fun j hj => putsAt_tensorLoad (r := rowRecordOf s a) (m := m) (val := val) (e := e) hplain hj
    fun hact hin => hreads j ⟨hj, hact, hin⟩
  rw [queued_vec] at hexec
  refine ⟨_, 0, g, ?_, tileActs_of_puts ..⟩
  unfold performVldt vrun
  dsimp only
  rw [hcfg, exec_bind_ok (exec_maskVl_of_maskOk hok.mask _)]
  refine exec_vrunN_ok (t := (s.queued e).worked 0 { acted s.hart.cfg.width (flatPos s.hart.cfg d.toNat) (fun j =>
      actOf s.hart.cfg s.hart.cfg.est s.hart.cfg.width (tensorOut s m (rowRecordOf s a) val j) j) s.hart.cfg.count s.hart.vec with gen := g })
    (List.forall_mem_cons.2 ⟨ha.opnd le_rfl e .., List.forall_mem_singleton.2 (hplain.opnd hok.rc e ..)⟩)
    (by rw [queued_vec]; exact hok.ready.soundRows) ?_
  rw [exec_bind_ok (exec_trapIf_false (overlaps_one hapart) _ _ _), exec_bind_ok (exec_rowRecord ha e), exec_bind_ok (exec_checkRecord_ok hrec),
    exec_bind_ok (exec_sources_plain (fun n hn => absurd hn List.not_mem_nil) m)]
  dsimp only
  rw [activeIn_eq_activeAt (queued_vec s e)]
  exact exec_loadWhole_ok hexec

theorem vldt_loads (het : s.hart.cfg.et < 12) (hapart : d.toNat + s.hart.cfg.rcN ≤ a.toNat ∨ a.toNat < d.toNat)
    (hreads : ∀ j, j < s.hart.cfg.count ∧ activeAt s m j = true ∧ j < recN (rowRecordOf s a) → ∀ fl v,
      (recRead (rowRecordOf s a) j).exec ((s.queued (entryOf s (encVldt d a m).toWord 0 .none .none)).worked fl v) =
        (.ok (val j), (s.queued (entryOf s (encVldt d a m).toWord 0 .none .none)).worked fl v)) :
    WroteTile s d s.hart.cfg.width (tensorOut s m (rowRecordOf s a) val) (exec (.vldt d a m) s) :=
  (wroteTileIf_of_acts hok.ready (elemWidth_widthOf _) (hok.plain d (List.mem_singleton.2 rfl)) hok.rc hok.vl
    (retires_of_works (op := { etypes := not4bit }) hok.ready
      (dispatches_of_etype hok.ready (not4bit_ok het (recType_of_ok hrec).2) trivial trivial) rfl rfl
      (works_performVldt hok ha hrec hapart rfl hreads))).wroteTile trivial

/-! ## VSTT (R153) -/

omit hok ha in
theorem recType_width : widthOf (recType (rowRecordOf s a)) = s.hart.cfg.width ∧ s.hart.cfg.width ≠ 4 := by
  obtain ⟨htype, h10⟩ := recType_of_ok hrec
  exact ⟨by rw [htype]; rfl, width_ne_four h10⟩

theorem vstt_stores (het : s.hart.cfg.et < 12) (he : entryOf s (encVstt d a m).toWord 0 .none .none = e)
    (hstores : ∀ j, j < s.hart.cfg.count ∧ activeAt s m j = true ∧ j < recN (rowRecordOf s a) →
      StoresAs (s.queued e) (recWrite (rowRecordOf s a) j (elemOf s d s.hart.cfg.width j)) (put j)) :
    exec (.vstt d a m) s = .next (storedElems s.hart.cfg.count (fun j => activeAt s m j && decide (j < recN (rowRecordOf s a))) put
      (s.queued e)).retired := by
  have hplain : PlainTile s d := hok.plain d (List.mem_singleton.2 rfl)
  have hcfg : e.cfg = s.hart.cfg := by rw [← he]; rfl
  obtain ⟨hexec, -⟩ := exec_forN_stores (q := s.queued e) (N := s.hart.cfg.count) (put := put)
    (act := fun j => activeAt s m j && decide (j < recN (rowRecordOf s a)))
    (body := fun j => if activeAt s m j && j < recN (rowRecordOf s a) then
      atElem j (recWrite (rowRecordOf s a) j (elemOf s d s.hart.cfg.width j)) else pure ())
    (fun j _ hact => if_neg (by rw [hact]; exact Bool.false_ne_true)) fun j hj hact => ⟨_, j, if_pos hact, hstores j ⟨hj, by
      rwa [Bool.and_eq_true, decide_eq_true_iff] at hact⟩⟩
  refine dispatchV_done _ 0 { etypes := not4bit } (performVstt d a m) hok.ready
    (dispatches_of_etype hok.ready (not4bit_ok het (recType_of_ok hrec).2) trivial trivial) rfl rfl
    (u := (storedElems s.hart.cfg.count (fun j => activeAt s m j && decide (j < recN (rowRecordOf s a))) put (s.queued e)).endedWith (.ok ())) ?_
  rw [he]
  unfold performVstt vrun
  dsimp only
  rw [hcfg, exec_bind_ok (exec_maskVl_of_maskOk hok.mask _)]
  refine exec_vrunN_ok (List.forall_mem_cons.2 ⟨hplain.opnd hok.rc e .., List.forall_mem_singleton.2 (ha.opnd le_rfl e ..)⟩)
    (by rw [queued_vec]; exact hok.ready.soundRows) ?_
  rw [exec_bind_ok (exec_rowRecord ha e), exec_bind_ok (exec_checkRecord_ok hrec),
    exec_bind_ok (exec_sources_plain (List.forall_mem_singleton.2 (by rw [queued_vec]; exact hplain.first hok.rc)) m)]
  dsimp only
  rw [activeIn_eq_activeAt (queued_vec s e), queued_vec]
  exact hexec

end

/-! ## Predicates in memory (R156) -/

theorem retired_withQueue {e' : Entry} (hq : q.hart.vq = [e]) : (q.withQueue [e']).retired = q.retired := by
  unfold State.retired State.withQueue
  rw [hq]
  rfl

theorem alike_withQueue (q : State) (es : List Entry) : Alike q (q.withQueue es) := ⟨rfl, rfl, rfl, rfl, rfl, fun _ => rfl⟩

/-- The state with predicate n replaced. -/
def State.putPred (s : State) (n : Nat) (x : BitVec 1024) : State := { s with hart := s.hart.putPred n x }

theorem putPred_vq (q : State) (n : Nat) (x : BitVec 1024) : (q.putPred n x).hart.vq = q.hart.vq := rfl

theorem putNat_vq (q : State) (a n x : Nat) : (q.putNat a n x).hart.vq = q.hart.vq := rfl

theorem exec_performPld (hq : q.hart.vq = [e])
    (h : (vread .other e.a0 128).exec (q.withQueue [e.resumedAt 0]) = (.ok x, q.withQueue [e.resumedAt 0])) :
    (performPld p e).exec q = (.ok (), (q.putPred p.toNat (BitVec.ofNat 1024 x)).withQueue [e.resumedAt 0]) := by
  generalize hx : BitVec.ofNat 1024 x = y
  unfold performPld
  rw [exec_bind_ok (exec_setProgress_alone hq 0)]
  refine (exec_bind_ok h).trans ?_
  rw [exec_writePred, hx]
  rfl

theorem exec_performPst {n : Nat} (hq : q.hart.vq = [e]) (h : (vwrite .other e.a0 128 (predOf q.hart.vec p.toNat).toNat).exec
      (q.withQueue [e.resumedAt 0]) = (.ok (), (q.withQueue [e.resumedAt 0]).putNat n 128 (predOf q.hart.vec p.toNat).toNat)) :
    (performPst p e).exec q = (.ok (), (q.putNat n 128 (predOf q.hart.vec p.toNat).toNat).withQueue [e.resumedAt 0]) := by
  unfold performPst
  rw [exec_bind_ok (exec_setProgress_alone hq 0), exec_bind_ok (exec_readPred _ _)]
  exact h

theorem pld_loads (hr : Ready s) (het : s.hart.cfg.et < 12) (ha : scalarOk s.hart a = true) {pa : Nat}
    (he : entryOf s (encPld p a).toWord 0 (.scalar a) .none = e) (hfree : Unlocked (s.queued e))
    (hread : MemRead (s.queued e) .other (scalarVal s.hart a) 128 pa) :
    exec (.pld p a) s = .next ((s.queued e).putPred p.toNat (BitVec.ofNat 1024 ((s.queued e).memNat pa 128))).retired := by
  have halike := alike_withQueue (s.queued e) [e.resumedAt 0]
  have haddr : e.a0 = scalarVal s.hart a := by rw [← he]; rfl
  have hvread := exec_vread .other (scalarVal s.hart a) 128 pa _ hread.1 (halike.unlocked hfree)
    (halike.reaches (queued_answered hr e) hread.2.1) hread.2.2
  rw [← haddr] at hvread
  have hexec := exec_performPld (p := p) (queued_vq s e) hvread
  rw [← retired_withQueue ((putPred_vq ..).trans (queued_vq s e))]
  refine dispatchV_done _ 0 { etypes := upTo11, a := .scalar a } (performPld p) hr (dispatches_of_etype hr (decide_eq_true het) ha trivial) rfl rfl ?_
  rw [he]
  exact hexec

theorem pst_stores (hr : Ready s) (het : s.hart.cfg.et < 12) (ha : scalarOk s.hart a = true) {pa : Nat}
    (he : entryOf s (encPst p a).toWord 0 (.scalar a) .none = e) (hfree : Unlocked (s.queued e))
    (hwrite : MemWrite (s.queued e) .other (scalarVal s.hart a) 128 pa) :
    exec (.pst p a) s = .next ((s.queued e).putNat pa 128 (predOf s.hart.vec p.toNat).toNat).retired := by
  have halike := alike_withQueue (s.queued e) [e.resumedAt 0]
  have haddr : e.a0 = scalarVal s.hart a := by rw [← he]; rfl
  have hvwrite := exec_vwrite .other (scalarVal s.hart a) 128 (predOf (s.queued e).hart.vec p.toNat).toNat pa _ hwrite.1
    (halike.unlocked hfree) (halike.unanswered.trans (queued_answered hr e)) (halike.reaches (queued_answered hr e) hwrite.2)
  rw [← haddr] at hvwrite
  have hexec := exec_performPst (p := p) (queued_vq s e) hvwrite
  rw [queued_vec] at hexec
  rw [← retired_withQueue ((putNat_vq ..).trans (queued_vq s e))]
  refine dispatchV_done _ 0 { etypes := upTo11, a := .scalar a } (performPst p) hr (dispatches_of_etype hr (decide_eq_true het) ha trivial) rfl rfl ?_
  rw [he]
  exact hexec

theorem retiredWith_putPred {wd : BitVec 32} {ca cb : Cap} {n x : Nat} : (Host.Outcome.next
    ((s.queued (entryOf s wd 0 ca cb)).putPred n (BitVec.ofNat 1024 x)).retired : Host.Outcome State Fault Refusal) =
    retiredWith s wd 0 ca cb fun h => { h with vec := { h.vec with preds := sparsePut 0 h.vec.preds n (BitVec.ofNat 1024 x) } } := by
  generalize BitVec.ofNat 1024 x = y
  rfl

/-- Settles O29: the elements of a tensor as those of a tile, and a predicate as one access of 128 bytes. -/
theorem tensorAccessResults : Obligations.TensorAccessResults := by
  intro d a p m s hok het c w r act q past
  have hr := hok.ready
  refine ⟨fun h10 hrow hfree hrec => ?_, fun ha => ⟨fun pa hunlocked hread => ?_, fun pa hunlocked hwrite => ?_⟩⟩
  · have ha : PlainRows s a.toNat 1 := ⟨hrow, fun k hk => by rwa [Nat.lt_one_iff.1 hk]⟩
    obtain ⟨hwidth, h4⟩ := recType_width (s := s) (a := a) hrec
    have hw : widthOf (recType (rowRecordOf s a)) ≠ 4 := by rw [hwidth]; exact h4
    refine ⟨fun hapart hunlocked => ⟨fun P hspace hP => ?_, fun P hspace hP => ?_⟩, fun hunlocked => ⟨fun P hspace hP => ?_, fun P hspace hP => ?_⟩⟩
    · refine vldt_loads (val := fun j => (q (encVldt d a m)).memNat (P j) (w / 8)) hok ha hrec het hapart fun j hj => ?_
      have hread := reads_memory (j := j) hunlocked (queued_answered hr _) (by rw [elemBytes_of_ne h4]; exact hP j hj)
      rw [elemPart_whole h4, elemBytes_of_ne h4] at hread
      rw [recRead_eq hw (j % 2 == 1), hwidth, show recScratch (rowRecordOf s a) = false from hspace]
      exact hread
    · refine vldt_loads (val := fun j => (q (encVldt d a m)).spNat (P j).1 (P j).2 (w / 8)) hok ha hrec het hapart fun j hj => ?_
      have hread := reads_scratchpad (j := j) hunlocked (by rw [elemBytes_of_ne h4]; exact hP j hj)
      rw [elemPart_whole h4, elemBytes_of_ne h4] at hread
      rw [recRead_eq hw (j % 2 == 1), hwidth, show recScratch (rowRecordOf s a) = true from hspace]
      exact hread
    · refine vstt_stores hok ha hrec het rfl fun j hj => ?_
      rw [recWrite_eq hw (j % 2 == 1), hwidth, show recScratch (rowRecordOf s a) = false from hspace]
      exact stores_memory hunlocked (queued_answered hr _) (by rw [elemBytes_of_ne h4]; exact hP j hj)
    · refine vstt_stores hok ha hrec het rfl fun j hj => ?_
      rw [recWrite_eq hw (j % 2 == 1), hwidth, show recScratch (rowRecordOf s a) = true from hspace]
      exact stores_scratchpad hunlocked (by rw [elemBytes_of_ne h4]; exact hP j hj)
  · exact (pld_loads hr het ha rfl hunlocked hread).trans retiredWith_putPred
  · exact pst_stores hr het ha rfl hunlocked hwrite

end Sys2Proof.Machine
end
